-- ==== Sys2Proof/Word.lean ====
section
/-! DEFINITION. The word types of the Galzon G9: bytes, lane words, scalars, lane masks and addresses (R2, R24, R110). -/

namespace Sys2Proof

/-- One byte of memory. -/
abbrev Byte := BitVec 8

/-- A 16-bit half: a flags word, an op record number, a generation's container (R69, R271). -/
abbrev Half := BitVec 16

/-- A 32-bit word: one lane of a vector register, one instruction word (R88, R138). -/
abbrev Word := BitVec 32

/-- A 64-bit value: a scalar register, a control register, a literal (R88, R166). -/
abbrev DWord := BitVec 64

/-- A lane mask, lane `l` in bit `l` (R24, R88). -/
abbrev Mask := BitVec 256

/-- A virtual address or program counter of 57 bits (R110, R370). -/
abbrev VAddr := BitVec 57

/-- The 256 lanes of a vector register, lane 0 first (R88). -/
abbrev Lanes := List Word

/-- A map from natural keys, kept sorted by key with no entry that holds the default. -/
abbrev AMap (α : Type) := List (Nat × α)

end Sys2Proof
end

