-- ==== Sys2Proof/Syntax.lean ====
section
/-! DEFINITION. The instruction syntax: one constructor per row of the opcode table, in the table's order but for
`reservedEncoding`, which stands after row 241.
Rows 0 to 42 are Rellar base forms (R143, R144), 43 to 241 extended forms (R145, R153), 242 to 276 Horgedo
instructions (R303) and the rest the device's own events (95_what_each_step_holds.md). -/

namespace Sys2Proof

/-- The type codes of R150. -/
inductive Ty where
  | i32 | n32 | i64 | n64 | i16 | n16 | i8 | n8 | f32 | f64 | f16 | bf16 | e4m3 | e5m2 | e2m1
  | b32 | b64 | i4 | n4 | e8m0 | e3m5 | pred
deriving DecidableEq, Repr

/-- The RND field: none (000) or one of the six modes (R65, R66). -/
inductive Rnd where
  | dflt | rne | rtz | rup | rdn | rna | rsd
deriving DecidableEq, Repr

/-- The address spaces an instruction names (R107). -/
inductive Space where
  | global | spad | vault
deriving DecidableEq, Repr

/-- An operand field of the extended form (R148); `raw` is a number that is no operand code: a tile handle, a CSR
number, a WAIT count (R149, R166, R229). -/
inductive Opnd where
  | v (n : Nat) | s (n : Nat) | p (n : Nat) | t (n : Nat) | q (n : Nat)
  | zero | lane | lit | raw (n : Nat)
deriving DecidableEq, Repr

/-- The fields of an extended instruction after decoding (R145, R151, R152). -/
structure Opnds where
  /-- TY; `none` for TY = 0x00 on an instruction that takes no type. -/
  ty : Option Ty
  rnd : Rnd
  sat : Bool
  /-- PE, PR and PN: the predicate register and its negation. -/
  pred : Option (Nat × Bool)
  cache : Nat
  g : Bool
  late : Bool
  ord : Nat
  scope : Nat
  /-- MODB.XS. -/
  xs : Nat
  /-- MODB.CLS; only WAIT's count uses these bits. -/
  cls : Nat
  /-- MODB.SEL. -/
  sel : Nat
  d : Opnd
  a : Opnd
  b : Opnd
  c : Opnd
  /-- The literal of an L = 0b11 instruction. -/
  lit : Option DWord
deriving DecidableEq, Repr

/-- A Chaelo frame: its MAC addresses and EtherType (R313, R314), the header fields of R315 and the payload. `src` and `dst`
are device ids. -/
structure Pkt where
  opc : Nat
  plane : Nat
  src : Nat
  /-- PORT bit of R460: the packet was formed by a switch-port clasp. -/
  port : Bool
  dst : Nat
  tincarn : Half
  sincarn : Half
  fabid : Half
  seq : Word
  ack : Word
  flags : Half
  /-- Virtual address at the target, or the reduction key (R322). -/
  addr : DWord
  payload : List Byte
  etype : Half := 0x88B5
  dmac : BitVec 48 := 0
  smac : BitVec 48 := 0
deriving DecidableEq, Repr

/-- One refused lane of a remote access: the lane, the address at the peer, the peer's table entry and subclass
(R411, R465). -/
structure PeerFault where
  lane : Nat
  addr : VAddr
  entry : DWord
deriving DecidableEq, Repr

/-- A host access through a window (R342): physical address, size in bytes, data for a write. -/
structure HostReq where
  addr : Nat
  size : Nat
  data : Option DWord
deriving DecidableEq, Repr

/-- What flash or the staging area holds of a firmware image (R343): its bytes, if there is one. -/
structure Image where
  present : Bool
  bytes : List Byte
deriving DecidableEq, Repr

/-- What a page walk is made for (R410). -/
inductive Access where
  | read | write | fetch
deriving DecidableEq, Repr

/-- A page walk after a TLB miss: core, partition, address and access (R114, R410). -/
structure WalkReq where
  core : Nat
  part : Nat
  va : VAddr
  acc : Access
deriving DecidableEq, Repr

/-- What an Ultra Ethernet Transport packet asks or answers (R327, R328, R469, R472). -/
inductive UetBody where
  | write (addr : VAddr) (data : List Byte)
  | read (addr : VAddr) (bytes : Nat)
  | fetchAdd (addr : VAddr) (operand : DWord)
  | compareSwap (addr : VAddr) (compare swap : DWord)
  | acked
  | nak
  | trim
  | authFailed
  /-- a node or root whose generation is not armed yet, or over, where it arrives (R325). -/
  | notReady
  | stale
  /-- an entropy value toward a peer of a partition has lost 4 of its last 64 packets (R471). -/
  | lost (part peer entropy : Nat)
  | node (handle : Word) (elem : Word) (label : DWord) (value : DWord) (absent : Bool) (flags : Half)
  /-- what a read or an atomic performed here answers. -/
  | reply (data : List Byte)
  | root (handle : Word) (elem : Word) (value : DWord) (absent : Bool) (flags : Half)
deriving DecidableEq, Repr

/-- An Ultra Ethernet Transport packet (R327, R328): IP addresses, pod * 512 + device id of both ends, UDP destination port,
JobID, delivery (0 RUD, 1 RUDI, 2 ROD), entropy, the place in its queue's order of an ROD entry, the sender's session, which its
incarnation makes, and the partition, queue and index of the entry that it belongs to at its sender. An answer names that entry. -/
structure UetPkt where
  dst : BitVec 128 := 0
  src : BitVec 128 := 0
  dstDev : Nat := 0
  srcDev : Nat := 0
  udp : Half := 4793
  job : Word := 0
  mode : Nat := 0
  entropy : Nat := 0
  order : Nat := 0
  session : Half := 0
  part : Nat := 0
  k : Nat := 0
  idx : Nat := 0
  body : UetBody
deriving DecidableEq, Repr

/-- The ONE instruction type: an instruction of a strand, an instruction of the policy engine, or an event. -/
inductive Instr where

  /-- NOP_BASE (R143). Base-form no-operation; its D, A and B fields are ignored. -/
  | nopBase (d a b : Nat)
  /-- SADD_BASE (R143). Base-form 64-bit scalar add of two scalars. -/
  | saddBase (d a b : Nat)
  /-- SADD_IMM_BASE (R143). Base-form 64-bit scalar add of a sign-extended imm8. -/
  | saddImmBase (d a : Nat) (imm : BitVec 8)
  /-- SADD_LIT (R144). Base form with literal: scalar add of a 64-bit literal. -/
  | saddLit (d a : Nat) (lit : DWord)
  /-- SSUB_BASE (R143). Base-form 64-bit scalar subtract. -/
  | ssubBase (d a b : Nat)
  /-- SMUL_BASE (R143). Base-form 64-bit scalar multiply. -/
  | smulBase (d a b : Nat)
  /-- SAND_BASE (R143). Base-form 64-bit scalar bitwise and. -/
  | sandBase (d a b : Nat)
  /-- SOR_BASE (R143). Base-form 64-bit scalar bitwise or. -/
  | sorBase (d a b : Nat)
  /-- SXOR_BASE (R143). Base-form 64-bit scalar bitwise xor. -/
  | sxorBase (d a b : Nat)
  /-- SSHL_BASE (R143). Base-form scalar shift left by an 8-bit count. -/
  | sshlBase (d a n : Nat)
  /-- SSHR_BASE (R143). Base-form scalar logical shift right by an 8-bit count. -/
  | sshrBase (d a n : Nat)
  /-- SMOV_BASE (R143). Base-form scalar move. -/
  | smovBase (d a : Nat)
  /-- SMOV_IMM_BASE (R143). Base-form scalar move of a sign-extended imm8. -/
  | smovImmBase (d : Nat) (imm : BitVec 8)
  /-- SMOV_LIT (R144). Base form with literal: scalar move of a 64-bit literal. -/
  | smovLit (d : Nat) (lit : DWord)
  /-- QSET_LT_BASE (R143). Base-form signed less-than comparison of two scalars into a scalar predicate. -/
  | qsetLtBase (d a b : Nat)
  /-- QSET_EQ_BASE (R143). Base-form equality comparison of two scalars into a scalar predicate. -/
  | qsetEqBase (d a b : Nat)
  /-- BRA_BASE (R143). Base-form branch with a signed 24-bit word offset. -/
  | braBase (off : BitVec 24)
  /-- BRAQ_BASE (R143). Base-form branch on a scalar predicate, optionally negated, with a 16-bit word offset. -/
  | braqBase (q : Nat) (neg : Bool) (off : BitVec 16)
  /-- VADD_BASE (R143). Base-form vector i32 add. -/
  | vaddBase (d a b : Nat)
  /-- VSUB_BASE (R143). Base-form vector i32 subtract. -/
  | vsubBase (d a b : Nat)
  /-- VMUL_BASE (R143). Base-form vector i32 multiply. -/
  | vmulBase (d a b : Nat)
  /-- VAND_BASE (R143). Base-form vector bitwise and. -/
  | vandBase (d a b : Nat)
  /-- VOR_BASE (R143). Base-form vector bitwise or. -/
  | vorBase (d a b : Nat)
  /-- VXOR_BASE (R143). Base-form vector bitwise xor. -/
  | vxorBase (d a b : Nat)
  /-- VSHL_BASE (R143). Base-form vector shift left by an 8-bit count. -/
  | vshlBase (d a n : Nat)
  /-- VSHR_BASE (R143). Base-form vector logical shift right by an 8-bit count. -/
  | vshrBase (d a n : Nat)
  /-- VADD_IMM_BASE (R143). Base-form vector i32 add of a sign-extended imm8. -/
  | vaddImmBase (d a : Nat) (imm : BitVec 8)
  /-- VADD_LIT (R144). Base form with literal: vector i32 add of a uniform 32-bit literal. -/
  | vaddLit (d a : Nat) (lit : DWord)
  /-- VMOV_BASE (R143). Base-form vector register move. -/
  | vmovBase (d a : Nat)
  /-- VMOV_SCALAR_BASE (R143). Base-form move of a scalar's low 32 bits into a vector register of shape U. -/
  | vmovScalarBase (d a : Nat)
  /-- VLANE_BASE (R143). Base-form write of the lane index, shape A. -/
  | vlaneBase (d : Nat)
  /-- FADD_BASE (R143). Base-form f32 add under MODE.RND. -/
  | faddBase (d a b : Nat)
  /-- FSUB_BASE (R143). Base-form f32 subtract under MODE.RND. -/
  | fsubBase (d a b : Nat)
  /-- FMUL_BASE (R143). Base-form f32 multiply under MODE.RND. -/
  | fmulBase (d a b : Nat)
  /-- FFMA_BASE (R143). Base-form f32 fused multiply-add with the destination as addend. -/
  | ffmaBase (d a b : Nat)
  /-- FMIN_BASE (R143). Base-form f32 minimum. -/
  | fminBase (d a b : Nat)
  /-- FMAX_BASE (R143). Base-form f32 maximum. -/
  | fmaxBase (d a b : Nat)
  /-- FRCP_BASE (R143). Base-form f32 reciprocal. -/
  | frcpBase (d a : Nat)
  /-- LD_BASE (R143). Base-form 32-bit global load through a translation register plus vector offset. -/
  | ldBase (d a b : Nat)
  /-- ST_BASE (R143). Base-form 32-bit global store through a translation register plus vector offset. -/
  | stBase (d a b : Nat)
  /-- LDS_BASE (R143). Base-form 32-bit scratchpad load with byte offset 4 times imm8. -/
  | ldsBase (d a : Nat) (imm : BitVec 8)
  /-- WAIT_BASE (R143). Base-form wait on the LD and ST counters only. -/
  | waitBase (ld st : Nat)
  /-- EXIT_BASE (R143). Base-form exit of the split's lanes. -/
  | exitBase
  /-- NOP (R167). Extended no-operation. -/
  | nop (x : Opnds)
  /-- CSRR (R168). Reads a control register into a scalar, waiting for older flags when it reads MODE. -/
  | csrr (x : Opnds)
  /-- CSRW (R168). Writes a control register, effective for later instructions of the strand. -/
  | csrw (x : Opnds)
  /-- MODE (R169). Writes one selected field of MODE, optionally returning the previous MODE. -/
  | mode (x : Opnds)
  /-- CLOCK (R170). Reads the device's 64-bit arithmetic-clock cycle count. -/
  | clock (x : Opnds)
  /-- SLEEP (R170). Makes the issuing split ineligible for a capped number of cycles. -/
  | sleep (x : Opnds)
  /-- TRAP (R171). Enters the strand's trap handler with the user-trap class. -/
  | trap (x : Opnds)
  /-- TRET (R171). Returns a trapped split to Ready at TPC and releases the other splits, or acts as the debug agent return. -/
  | tret (x : Opnds)
  /-- HALT (R172). Stops the strand until a debug resume command. -/
  | halt (x : Opnds)
  /-- MBOX_POST (R172). Writes the debug-mailbox doorbell, sending an interrupt message to the host. -/
  | mboxPost (x : Opnds)
  /-- MBOX_WAIT (R172). Posts to the mailbox doorbell and waits for the host's reply word. -/
  | mboxWait (x : Opnds)
  /-- TLBINV (R173). Invalidates the partition's TLB entries for a virtual range in every core. -/
  | tlbinv (x : Opnds)
  /-- TLBINV_ALL (R173). Invalidates all of the partition's TLB entries. -/
  | tlbinvAll (x : Opnds)
  /-- PERFR (R170). Reads a performance counter by number. -/
  | perfr (x : Opnds)
  /-- YIELD (R170). Makes the strand the last candidate of its quarter's next issue choice. -/
  | yield (x : Opnds)
  /-- IDQ (R174). Returns one identity value of the strand. -/
  | idq (x : Opnds)
  /-- ESAVE_CTX (R442). Writes the strand's context at handler entry to the save area. -/
  | esaveCtx (x : Opnds)
  /-- ESAVE_STACK (R175). Moves the oldest reconvergence-stack entries to the spill area. -/
  | esaveStack (x : Opnds)
  /-- ELOAD_CTX (R443). Loads a saved context into the strand, effective at the handler's TRET. -/
  | eloadCtx (x : Opnds)
  /-- ELOAD_STACK (R175). Moves spilled reconvergence-stack images back beneath the stack. -/
  | eloadStack (x : Opnds)
  /-- BRA (R176). Unconditional branch with a literal offset. -/
  | bra (x : Opnds)
  /-- BRD (R31). Divergent branch that pushes a reconvergence entry and splits or serializes the lanes. -/
  | brd (x : Opnds)
  /-- JOIN (R32). Arrives at the top covering entry's join point and reconverges when the entry completes. -/
  | join (x : Opnds)
  /-- BRK (R33). Breaks lanes out of n covering reconvergence entries to a target. -/
  | brk (x : Opnds)
  /-- CALL (R176). Branches and writes the return address into a scalar. -/
  | call (x : Opnds)
  /-- RET (R176). Branches to the address in a scalar. -/
  | ret (x : Opnds)
  /-- JMPI (R176). Indirect jump to the address in a scalar. -/
  | jmpi (x : Opnds)
  /-- CALLI (R176). Indirect call writing the return address into a scalar. -/
  | calli (x : Opnds)
  /-- EXIT (R178). Marks the acting lanes exited. -/
  | exit (x : Opnds)
  /-- LOOP (R178). Decrements a scalar and branches while it is not zero. -/
  | loop (x : Opnds)
  /-- BRAQ (R176). Branches on a scalar predicate, optionally inverted. -/
  | braq (x : Opnds)
  /-- PSET (R179). Integer comparison per lane into a lane predicate. -/
  | pset (x : Opnds)
  /-- PFSET (R179). Floating-point comparison per lane into a lane predicate. -/
  | pfset (x : Opnds)
  /-- PLOG (R179). Lookup-table logic on two lane predicates. -/
  | plog (x : Opnds)
  /-- PMOV (R180). Moves predicate bits between predicates, vectors and scalars. -/
  | pmov (x : Opnds)
  /-- VOTE (R181). Any, all or uniform vote over the split into a scalar predicate. -/
  | vote (x : Opnds)
  /-- PCNT (R179). Counts the split's lanes with a predicate bit set. -/
  | pcnt (x : Opnds)
  /-- PFIRST (R179). Finds the lowest lane of the split with a predicate bit set. -/
  | pfirst (x : Opnds)
  /-- QSET (R179). Scalar comparison into a scalar predicate. -/
  | qset (x : Opnds)
  /-- QLOG (R179). Lookup-table logic on two scalar predicates. -/
  | qlog (x : Opnds)
  /-- SADD (R182). Scalar integer add, recording a pendant step when applicable. -/
  | sadd (x : Opnds)
  /-- SSUB (R182). Scalar integer subtract. -/
  | ssub (x : Opnds)
  /-- SMUL (R182). Scalar integer multiply, low bits. -/
  | smul (x : Opnds)
  /-- SMAD (R182). Scalar integer multiply-add. -/
  | smad (x : Opnds)
  /-- SMULH (R182). Scalar integer multiply, high half. -/
  | smulh (x : Opnds)
  /-- SDIV (R184). Scalar integer divide truncating toward zero, defined for zero divisors. -/
  | sdiv (x : Opnds)
  /-- SREM (R184). Scalar integer remainder. -/
  | srem (x : Opnds)
  /-- SAND (R182). Scalar bitwise and. -/
  | sand (x : Opnds)
  /-- SOR (R182). Scalar bitwise or. -/
  | sor (x : Opnds)
  /-- SXOR (R182). Scalar bitwise xor. -/
  | sxor (x : Opnds)
  /-- SSHL (R185). Scalar shift left. -/
  | sshl (x : Opnds)
  /-- SSHR (R185). Scalar logical shift right. -/
  | sshr (x : Opnds)
  /-- SSAR (R185). Scalar arithmetic shift right. -/
  | ssar (x : Opnds)
  /-- SMIN (R182). Scalar integer minimum. -/
  | smin (x : Opnds)
  /-- SMAX (R182). Scalar integer maximum. -/
  | smax (x : Opnds)
  /-- SMOV (R182). Scalar move. -/
  | smov (x : Opnds)
  /-- SSEL (R182). Scalar select by a scalar predicate. -/
  | ssel (x : Opnds)
  /-- SCLZ (R182). Scalar count of leading zeros. -/
  | sclz (x : Opnds)
  /-- SPOPC (R182). Scalar population count. -/
  | spopc (x : Opnds)
  /-- SBFE (R185). Scalar bit-field extract. -/
  | sbfe (x : Opnds)
  /-- SBFI (R185). Scalar bit-field insert. -/
  | sbfi (x : Opnds)
  /-- VADD (R186). Vector integer add, recording a pendant step when applicable. -/
  | vadd (x : Opnds)
  /-- VSUB (R186). Vector integer subtract. -/
  | vsub (x : Opnds)
  /-- VMUL (R186). Vector integer multiply, low bits. -/
  | vmul (x : Opnds)
  /-- VMAD (R186). Vector integer multiply-add. -/
  | vmad (x : Opnds)
  /-- VMULH (R186). Vector integer multiply, high half. -/
  | vmulh (x : Opnds)
  /-- VAND (R186). Vector bitwise and. -/
  | vand (x : Opnds)
  /-- VOR (R186). Vector bitwise or. -/
  | vor (x : Opnds)
  /-- VXOR (R186). Vector bitwise xor. -/
  | vxor (x : Opnds)
  /-- VNOT (R186). Vector bitwise not. -/
  | vnot (x : Opnds)
  /-- VSHL (R186). Vector shift left. -/
  | vshl (x : Opnds)
  /-- VSHR (R186). Vector logical shift right. -/
  | vshr (x : Opnds)
  /-- VSAR (R186). Vector arithmetic shift right. -/
  | vsar (x : Opnds)
  /-- VMIN (R186). Vector integer minimum. -/
  | vmin (x : Opnds)
  /-- VMAX (R186). Vector integer maximum. -/
  | vmax (x : Opnds)
  /-- VABS (R186). Vector integer absolute value. -/
  | vabs (x : Opnds)
  /-- VNEG (R186). Vector integer negation. -/
  | vneg (x : Opnds)
  /-- VSEL (R186). Vector select by a lane predicate. -/
  | vsel (x : Opnds)
  /-- VCLZ (R186). Vector count of leading zeros. -/
  | vclz (x : Opnds)
  /-- VPOPC (R186). Vector population count. -/
  | vpopc (x : Opnds)
  /-- VBFE (R186). Vector bit-field extract. -/
  | vbfe (x : Opnds)
  /-- VBFI (R186). Vector bit-field insert. -/
  | vbfi (x : Opnds)
  /-- VDOT4 (R187). Four-way 8-bit dot product with accumulate per lane. -/
  | vdot4 (x : Opnds)
  /-- VMOV (R186). Vector move keeping shape or pendant form. -/
  | vmov (x : Opnds)
  /-- VLANE (R186). Writes the lane index. -/
  | vlane (x : Opnds)
  /-- VADDC (R187). Vector add with carry in and out through a lane predicate. -/
  | vaddc (x : Opnds)
  /-- VSADD (R187). Vector saturating element add. -/
  | vsadd (x : Opnds)
  /-- FADD (R188). Floating-point add, recording a pendant step when applicable. -/
  | fadd (x : Opnds)
  /-- FSUB (R188). Floating-point subtract. -/
  | fsub (x : Opnds)
  /-- FMUL (R188). Floating-point multiply. -/
  | fmul (x : Opnds)
  /-- FFMA (R188). Floating-point fused multiply-add with one rounding. -/
  | ffma (x : Opnds)
  /-- FMIN (R190). Floating-point minimum ignoring a single NaN. -/
  | fmin (x : Opnds)
  /-- FMAX (R190). Floating-point maximum ignoring a single NaN. -/
  | fmax (x : Opnds)
  /-- FABS (R188). Clears the sign bit. -/
  | fabs (x : Opnds)
  /-- FNEG (R188). Inverts the sign bit. -/
  | fneg (x : Opnds)
  /-- FRCP (R71). Correctly rounded reciprocal. -/
  | frcp (x : Opnds)
  /-- FRSQ (R71). Correctly rounded reciprocal square root. -/
  | frsq (x : Opnds)
  /-- FSQRT (R71). Correctly rounded square root. -/
  | fsqrt (x : Opnds)
  /-- FDIV (R71). Correctly rounded division. -/
  | fdiv (x : Opnds)
  /-- FEXP2 (R71). Correctly rounded base-2 exponential. -/
  | fexp2 (x : Opnds)
  /-- FLOG2 (R71). Correctly rounded base-2 logarithm. -/
  | flog2 (x : Opnds)
  /-- FSIN (R71). Correctly rounded sine. -/
  | fsin (x : Opnds)
  /-- FCOS (R71). Correctly rounded cosine. -/
  | fcos (x : Opnds)
  /-- FTANH (R71). Correctly rounded hyperbolic tangent. -/
  | ftanh (x : Opnds)
  /-- FCLASS (R191). Writes a one-hot class mask of the operand. -/
  | fclass (x : Opnds)
  /-- FSCALE (R192). Multiplies by a power of two with one rounding. -/
  | fscale (x : Opnds)
  /-- FRND (R192). Rounds to an integer value under the effective mode. -/
  | frnd (x : Opnds)
  /-- FFRAC (R192). Returns the fractional part toward zero. -/
  | ffrac (x : Opnds)
  /-- FMINP (R190). Floating-point minimum propagating NaN. -/
  | fminp (x : Opnds)
  /-- FMAXP (R190). Floating-point maximum propagating NaN. -/
  | fmaxp (x : Opnds)
  /-- FDOT2 (R193). Two-element half-precision dot product added to f32. -/
  | fdot2 (x : Opnds)
  /-- FCVT (R194). Converts between floating-point formats. -/
  | fcvt (x : Opnds)
  /-- FTOI (R62). Converts floating point to integer with rounding and clamping. -/
  | ftoi (x : Opnds)
  /-- ITOF (R194). Converts integer to floating point. -/
  | itof (x : Opnds)
  /-- IEXT (R195). Extends or truncates between integer types. -/
  | iext (x : Opnds)
  /-- FPACK (R196). Rounds two f32 values into adjacent narrow elements of the destination. -/
  | fpack (x : Opnds)
  /-- FUNPK (R196). Unpacks one narrow element exactly to f32. -/
  | funpk (x : Opnds)
  /-- SCLQ (R197). Computes one block scale code per lane block. -/
  | sclq (x : Opnds)
  /-- BQNT (R198). Quantizes a value by a block scale into a narrow code. -/
  | bqnt (x : Opnds)
  /-- BDQ (R198). Dequantizes a narrow code by a block scale into f32. -/
  | bdq (x : Opnds)
  /-- BFLY (R201). Butterfly lane exchange on lane-index bit K. -/
  | bfly (x : Opnds)
  /-- SHFL (R199). Arbitrary lane shuffle by per-lane index. -/
  | shfl (x : Opnds)
  /-- LROT (R202). Rotates lanes within aligned segments. -/
  | lrot (x : Opnds)
  /-- LBCST (R202). Broadcasts one lane within aligned segments. -/
  | lbcst (x : Opnds)
  /-- VRED (R203). Reduces lanes by logical leaf index through the fixed tree. -/
  | vred (x : Opnds)
  /-- VSCAN (R204). Writes tree prefixes over logical leaf indices. -/
  | vscan (x : Opnds)
  /-- LCMP (R202). Compacts the predicated lanes into the low lanes. -/
  | lcmp (x : Opnds)
  /-- LD (R213). Global load, optionally acquire or pendant. -/
  | ld (x : Opnds)
  /-- ST (R213). Global store, optionally release. -/
  | st (x : Opnds)
  /-- LDS (R213). Scratchpad load. -/
  | lds (x : Opnds)
  /-- STS (R213). Scratchpad store. -/
  | sts (x : Opnds)
  /-- LDV (R213). Vault load. -/
  | ldv (x : Opnds)
  /-- STV (R213). Vault store. -/
  | stv (x : Opnds)
  /-- LDT (R214). Loads a 32 by 32 16-bit tile in transposed layout. -/
  | ldt (x : Opnds)
  /-- LDF (R216). Loads and decodes an element of a formatted page. -/
  | ldf (x : Opnds)
  /-- STF (R217). Encodes whole blocks with scales into a formatted page. -/
  | stf (x : Opnds)
  /-- TRX (R218). Translates a uniform address and fills a translation register. -/
  | trx (x : Opnds)
  /-- PREF (R219). Prefetches lines into their home slices. -/
  | pref (x : Opnds)
  /-- LDC (R219). Reads kernel-constant space. -/
  | ldc (x : Opnds)
  /-- AADD (R221). Atomic integer add at the location's single copy. -/
  | aadd (x : Opnds)
  /-- AAND (R221). Atomic bitwise and. -/
  | aand (x : Opnds)
  /-- AOR (R221). Atomic bitwise or. -/
  | aor (x : Opnds)
  /-- AXOR (R221). Atomic bitwise xor. -/
  | axor (x : Opnds)
  /-- AMIN (R221). Atomic integer minimum. -/
  | amin (x : Opnds)
  /-- AMAX (R221). Atomic integer maximum. -/
  | amax (x : Opnds)
  /-- AXCH (R221). Atomic exchange. -/
  | axch (x : Opnds)
  /-- ACAS (R221). Atomic compare-and-swap. -/
  | acas (x : Opnds)
  /-- AINC (R221). Atomic wrapping increment. -/
  | ainc (x : Opnds)
  /-- CTB (R223). Contributes one node per lane to a reduction domain. -/
  | ctb (x : Opnds)
  /-- CTBN (R223). Contributes absent nodes to a reduction domain. -/
  | ctbn (x : Opnds)
  /-- DOMARM (R224). Arms a domain slot's next generation and returns its handle. -/
  | domarm (x : Opnds)
  /-- DOMCLOSE (R225). Ends a domain generation, discarding held nodes if it is Open. -/
  | domclose (x : Opnds)
  /-- DOMQ (R226). Queries a domain slot's state without waiting. -/
  | domq (x : Opnds)
  /-- DOMQ_WAIT (R226). Waits until a domain generation is no longer Open, then acquires. -/
  | domqWait (x : Opnds)
  /-- CTBM (R266). Contributes a region of a tile as nodes to a domain. -/
  | ctbm (x : Opnds)
  /-- FENCE (R230). Orders earlier accesses before later ones at a scope. -/
  | fence (x : Opnds)
  /-- WAIT (R231). Waits until the named counters hold at most the given counts. -/
  | wait (x : Opnds)
  /-- BATCH (R232). Closes the open MX operations into a numbered batch. -/
  | batch (x : Opnds)
  /-- WAITB (R232). Waits for a batch and all older batches to retire. -/
  | waitb (x : Opnds)
  /-- BAR (R233). Arrives at a workgroup barrier. -/
  | bar (x : Opnds)
  /-- CBAR (R233). Arrives at a cluster barrier of b strands. -/
  | cbar (x : Opnds)
  /-- SYARM (R234). Arms a sync word with a pending count and epoch. -/
  | syarm (x : Opnds)
  /-- SYARV (R228). Makes an arrival of an amount with flags at a sync word. -/
  | syarv (x : Opnds)
  /-- SYWAIT (R234). Waits until a sync word passes for an epoch, then acquires. -/
  | sywait (x : Opnds)
  /-- SYFLG (R229). Makes an arrival of zero with flags at a sync word. -/
  | syflg (x : Opnds)
  /-- WAITC (R235). Waits until a memory counter reaches a threshold, then acquires. -/
  | waitc (x : Opnds)
  /-- SIGNAL (R235). Adds to a memory counter as a release. -/
  | signal (x : Opnds)
  /-- SYTST (R229). Reads a sync word as an acquire without waiting. -/
  | sytst (x : Opnds)
  /-- RLD (R237). Remote load from a peer device. -/
  | rld (x : Opnds)
  /-- RST (R237). Remote store to a peer device. -/
  | rst (x : Opnds)
  /-- RATM (R238). Remote atomic at a peer device. -/
  | ratm (x : Opnds)
  /-- RSIG_CTR (R238). Adds to a peer's memory counter. -/
  | rsigCtr (x : Opnds)
  /-- RSIG_SYNC (R238). Makes an arrival at a peer's sync word. -/
  | rsigSync (x : Opnds)
  /-- CPY (R242). Copies bytes between spaces through the copy engine. -/
  | cpy (x : Opnds)
  /-- CPYM (R243). Multicasts a source to cores of the cluster. -/
  | cpym (x : Opnds)
  /-- CPY2D (R242). Copies a two-dimensional block of rows. -/
  | cpy2d (x : Opnds)
  /-- SWAPF (R245). Starts the swap engine's exchange of a near and a far frame. -/
  | swapf (x : Opnds)
  /-- APPEND (R247). Appends one item per active lane as a contiguous run to a work list. -/
  | append (x : Opnds)
  /-- TAKE (R248). Takes items from a work list, or returns YIELD or QUIET. -/
  | take (x : Opnds)
  /-- WLQ (R246). Reads a work list's item count. -/
  | wlq (x : Opnds)
  /-- QUIET (R249). Reads the pipeline's quiescence and pending-YIELD state. -/
  | quiet (x : Opnds)
  /-- LAUNCH (R250). Copies a launch packet into a user queue and advances its write index. -/
  | launch (x : Opnds)
  /-- MXALLOC (R260). Reserves a tile in accumulation memory and binds a handle. -/
  | mxalloc (x : Opnds)
  /-- MXFREE (R260). Unbinds a tile once earlier operations on it complete. -/
  | mxfree (x : Opnds)
  /-- MXZERO (R261). Sets every tile element to +0 and starts a new run. -/
  | mxzero (x : Opnds)
  /-- MXZERO_ABS (R261). Sets every tile element to ABSENT and starts a new run. -/
  | mxzeroAbs (x : Opnds)
  /-- MXLD (R261). Loads a block into a tile. -/
  | mxld (x : Opnds)
  /-- MXMMA (R262). Folds one chunk of K leaves into every tile element's spine. -/
  | mxmma (x : Opnds)
  /-- MXFIN (R264). Closes every element's run of a tile. -/
  | mxfin (x : Opnds)
  /-- MXST (R265). Converts and stores a block of a tile. -/
  | mxst (x : Opnds)
  /-- MXGANG (R272). Writes GANG after the strand's .g operations retire. -/
  | mxgang (x : Opnds)
  /-- MXROW (R271). Reads the op record number and row progress of a tile's youngest operation. -/
  | mxrow (x : Opnds)
  /-- MXROW_FLAGS (R269). Waits for a tile's operations and reads its flags word. -/
  | mxrowFlags (x : Opnds)
  /-- MXSHP_Q (R258). Reads a tensor shape record's stored rows and columns. -/
  | mxshpQ (x : Opnds)
  /-- MXSHP_GEN (R258). Raises a tensor shape record's generation and returns its handle. -/
  | mxshpGen (x : Opnds)
  /-- PNDQ (R206). Reads a register's pendant description without waiting. -/
  | pndq (x : Opnds)
  /-- PNDWAIT (R205). Waits until a symbol, or every symbol, resolves. -/
  | pndwait (x : Opnds)
  /-- VSHAPE (R207). Forces a register's shape. -/
  | vshape (x : Opnds)
  /-- VSHQ (R206). Reads a register's shape tag. -/
  | vshq (x : Opnds)
  /-- RESERVED_ENCODING (R394). An issued instruction word whose encoding is reserved raises TRAP 0x01 with the CODE of the first field at fault. -/
  | reservedEncoding (code words : Nat)
  /-- HG_NOP (R303). Horgedo no-operation. -/
  | hgNop
  /-- HG_LI (R303). Loads a sign-extended immediate. -/
  | hgLi (d : Nat) (imm : Half)
  /-- HG_LUI (R303). Loads an immediate into the upper half. -/
  | hgLui (d : Nat) (imm : Half)
  /-- HG_MOV (R303). Copies a register. -/
  | hgMov (d a : Nat)
  /-- HG_ADD (R303). Adds two registers. -/
  | hgAdd (d a b : Nat)
  /-- HG_ADDI (R303). Adds a sign-extended immediate. -/
  | hgAddi (d a : Nat) (imm : Half)
  /-- HG_SUB (R303). Subtracts two registers. -/
  | hgSub (d a b : Nat)
  /-- HG_MUL (R303). Multiplies two registers, low 32 bits. -/
  | hgMul (d a b : Nat)
  /-- HG_SHL (R303). Shifts left by an immediate count. -/
  | hgShl (d a n : Nat)
  /-- HG_SHR (R303). Shifts right logically by an immediate count. -/
  | hgShr (d a n : Nat)
  /-- HG_AND (R303). Bitwise and of two registers. -/
  | hgAnd (d a b : Nat)
  /-- HG_OR (R303). Bitwise or of two registers. -/
  | hgOr (d a b : Nat)
  /-- HG_MIN (R303). Signed minimum of two registers. -/
  | hgMin (d a b : Nat)
  /-- HG_MAX (R303). Signed maximum of two registers. -/
  | hgMax (d a b : Nat)
  /-- HG_SLT (R303). Sets 1 if one register is less than another. -/
  | hgSlt (d a b : Nat)
  /-- HG_SLTI (R303). Sets 1 if a register is less than an immediate. -/
  | hgSlti (d a : Nat) (imm : Half)
  /-- HG_SEQ (R303). Sets 1 if two registers are equal. -/
  | hgSeq (d a b : Nat)
  /-- HG_SEQI (R303). Sets 1 if a register equals an immediate. -/
  | hgSeqi (d a : Nat) (imm : Half)
  /-- HG_LDQ (R303). Reads a field of a visible source's view entry. -/
  | hgLdq (d a f : Nat)
  /-- HG_LDK (R303). Reads a field of the core view. -/
  | hgLdk (d a f : Nat)
  /-- HG_LDE (R303). Reads a field of the event view. -/
  | hgLde (d f : Nat)
  /-- HG_LDW (R303). Reads a scratch word. -/
  | hgLdw (d n : Nat)
  /-- HG_STW (R303). Writes a scratch word, effective when the DECIDE is applied. -/
  | hgStw (a n : Nat)
  /-- HG_NQ (R303). Reads the count of visible sources. -/
  | hgNq (d : Nat)
  /-- HG_FIT (R303). Tests whether a source's workgroup can now be placed with a home core. -/
  | hgFit (d a b : Nat)
  /-- HG_BZ (R303). Branches forward if a register is zero. -/
  | hgBz (a : Nat) (imm : Half)
  /-- HG_BNZ (R303). Branches forward if a register is not zero. -/
  | hgBnz (a : Nat) (imm : Half)
  /-- HG_BR (R303). Branches forward unconditionally. -/
  | hgBr (imm : Half)
  /-- HG_FORQ (R303). Opens a loop over visible sources. -/
  | hgForq (d : Nat) (imm : Half)
  /-- HG_NEXTQ (R303). Advances a loop over visible sources and branches back while below NQ. -/
  | hgNextq (d : Nat) (imm : Half)
  /-- HG_ARGMIN (R303). Finds the view index with the least field value. -/
  | hgArgmin (d f1 f2 : Nat)
  /-- HG_ARGMAX (R303). Finds the view index with the greatest field value. -/
  | hgArgmax (d f1 f2 : Nat)
  /-- HG_DECIDE_D (R303). Ends a DISPATCH decision naming a source and home core. -/
  | hgDecideD (a b : Nat)
  /-- HG_DECIDE_P (R303). Ends a PREEMPT decision: keep or displace the proposed victim. -/
  | hgDecideP (n : Nat)
  /-- HG_DECIDE_F (R303). Ends a FAULT decision: retry, park, kill workgroup, kill job or escalate. -/
  | hgDecideF (n : Nat)
  /-- LOAD_DATA_ARRIVAL (R211). A non-late load's data arrive and are written to its destination registers. -/
  | loadDataArrival (strand op : Nat)
  /-- SYMBOL_RESOLUTION (R102). A .late load's data arrive and every register holding the symbol resolves in order. -/
  | symbolResolution (strand sym : Nat)
  /-- STORE_PERFORMED (R134). A store is performed at its scope and retires in the ST counter. -/
  | storePerformed (strand op : Nat)
  /-- STRAND_LEAVES_EXITED (R25). An exited strand's counters reach zero and it enters Draining, freeing its slot. -/
  | strandLeavesExited (strand : Nat)
  /-- DRAINING_END (R96). Every outstanding write to a draining block completes and the block returns to the buddy allocator. -/
  | drainingEnd (quarter start : Nat)
  /-- SLOT_DROWSY (R104). A register slot untouched for 512 cycles goes to retention voltage. -/
  | slotDrowsy (strand slot : Nat)
  /-- SLEEP_EXPIRY (R170). A sleeping split's cycle count ends and it becomes eligible. -/
  | sleepExpiry (strand split : Nat)
  /-- JOINT_OPERATION_START (R43). The rendezvous latch starts a gang's joint operation once every listed member has issued. -/
  | jointOperationStart (cluster entry : Nat)
  /-- JOINT_OPERATION_COMPLETE (R44). Every member's part has finished and all members' arrivals and counters retire together. -/
  | jointOperationComplete (joint : Nat)
  /-- BAND_COMPLETE (R271). The matrix engine finishes all of K for a band of 16 rows and commits it. -/
  | bandComplete (strand op : Nat)
  /-- MX_OPERATION_COMPLETE (R269). A matrix operation completes, writes its tile and makes its sync arrival. -/
  | mxOperationComplete (strand op : Nat)
  /-- COPY_COMPLETE (R244). A copy's bytes are performed and its single arrival is made. -/
  | copyComplete (strand op : Nat)
  /-- CPYM_RECEIVER_ARRIVAL (R243). One multicast receiver's bytes are performed and its sync word takes an arrival. -/
  | cpymReceiverArrival (strand op core : Nat)
  /-- COMPACTION_MOVE (R97). The copy engine moves one register block after its strand's writes complete. -/
  | compactionMove (quarter : Nat)
  /-- SCRATCHPAD_COMPACTION (R452). A scratchpad allocation is moved to form a contiguous run. -/
  | scratchpadCompaction (core : Nat)
  /-- SWAP_SECTOR (R127). The swap engine exchanges one 4 KiB sector and sets its redirect bit. -/
  | swapSector (die : Nat)
  /-- CORE_CLASP_HOLD_EXPIRY (R123). An unpaired node held 256 cycles in a core clasp is forwarded to its home slice. -/
  | coreClaspHoldExpiry (core idx : Nat)
  /-- NODE_ARRIVAL_SLICE (R124). A node reaches its element's home slice and pairs, is held, spills or is back-pressured. -/
  | nodeArrivalSlice (idx : Nat)
  /-- SPILL_REFILL (R125). A slice moves one spilled node back into the clasp loop when entries free. -/
  | spillRefill (slice dom : Nat)
  /-- QUIESCENCE (R52). The termination detector finds every list empty and every strand at TAKE, and TAKEs return QUIET. -/
  | quiescence (source : Nat)
  /-- PERIOD_ROLLOVER (R292). At a multiple of the root's period every node refreshes its balance. -/
  | periodRollover (part : Nat)
  /-- NOTIFY_WRITE (R278). A write to a queue's WIDX is applied or ignored and reported. -/
  | notifyWrite (part q : Nat) (w : Word)
  /-- PACKET_ACCEPT (R276). The packet processor reads, checks, copies and attaches one packet and advances the read index. -/
  | packetAccept (q : Nat)
  /-- DEPENDENCE_POLL (R286). The processor re-evaluates a packet's dependence counter after a write or every 2 µs. -/
  | dependencePoll (q idx : Nat)
  /-- LAUNCH_PACKET (R287). A started launch packet becomes a source of workgroups. -/
  | launchPacket (q idx : Nat)
  /-- PIPELINE_PACKET (R287). A started pipeline packet makes each stage a source. -/
  | pipelinePacket (q idx : Nat)
  /-- BARRIER_AND_PACKET (R287). A barrier-and packet performs when its counters reach their thresholds. -/
  | barrierAndPacket (q idx : Nat)
  /-- SIGNAL_PACKET (R287). A signal packet signals a counter and makes a sync-word arrival. -/
  | signalPacket (q idx : Nat)
  /-- DOMAIN_ARM_PACKET (R287). A domain-arm packet performs DOMARM and writes the handle. -/
  | domainArmPacket (q idx : Nat)
  /-- DISPATCH_DECISION (R294). A DISPATCH event is decided by the policy program or deficit round-robin and applied. -/
  | dispatchDecision (die part : Nat)
  /-- PREEMPT_DECISION (R294). A PREEMPT event is decided and a victim is kept or displaced. -/
  | preemptDecision (die part : Nat)
  /-- FAULT_DECISION (R381). A routed fault is decided and the decision applied to the workgroup. -/
  | faultDecision (die : Nat)
  /-- POLICY_OVERRUN (R307). A decision's policy cycles pass the budget, the program stops and the fallback decides. -/
  | policyOverrun (die : Nat)
  /-- POLICY_LOAD (R309). A POLCMD LOAD reads the policy image at POLIMG into the verification buffers. -/
  | policyLoad (part : Nat)
  /-- POLICY_REVERT (R309). A POLCMD REVERT stages deficit round-robin as version 0. -/
  | policyRevert (part : Nat)
  /-- IMAGE_VERDICT (R306). The verifier accepts or rejects a read policy image. -/
  | imageVerdict (part : Nat)
  /-- ACK (R316). A Chaelo acknowledgment frame retires packets of the reverse flow cumulatively. -/
  | ack (p : Pkt) (dup : Bool)
  /-- LOAD_REQUEST (R317). A remote load request is performed at the target. -/
  | loadRequest (p : Pkt)
  /-- LOAD_RESPONSE (R317). A remote load's data return to the issuer. -/
  | loadResponse (p : Pkt)
  /-- STORE_PACKET (R317). A remote store is performed at the target in flow order. -/
  | storePacket (p : Pkt)
  /-- ATOMIC_REQUEST (R238). A remote atomic is performed at the target. -/
  | atomicRequest (p : Pkt)
  /-- ATOMIC_RESPONSE (R238). A remote atomic's old value returns to the issuer. -/
  | atomicResponse (p : Pkt)
  /-- NODE_PACKET (R325). A reduction node packet is judged against the receiver's generation and accepted, not-ready or refused. -/
  | nodePacket (p : Pkt)
  /-- ROOT_PACKET (R324). A multicast root reaches a participant, which makes its final write. -/
  | rootPacket (p : Pkt)
  /-- COUNTER_SIGNAL (R238). A remote counter signal adds to a peer's memory counter. -/
  | counterSignal (p : Pkt)
  /-- SYNC_ARRIVAL (R238). A remote sync arrival is made at a peer's sync word. -/
  | syncArrival (p : Pkt)
  /-- NOT_READY (R325). A not-ready answer marks a node packet for resending. -/
  | notReady (p : Pkt)
  /-- NOT_READY_RESEND (R325). Every 1 µs a sender re-sends a node packet answered not-ready. -/
  | notReadyResend (idx : Nat)
  /-- NOT_READY_TIMEOUT (R325). A packet still not-ready after 1 ms is reported as stale. -/
  | notReadyTimeout (idx : Nat)
  /-- PORT_CLASP_ARRIVAL (R323). A node reaches a switch-port clasp and pairs, is held, or passes through. -/
  | portClaspArrival (dev : Nat) (p : Pkt)
  /-- SLICE_HOLD_EXPIRY (R323). A non-home slice's unpaired pod node held 1024 uncore cycles is forwarded to the switch port. -/
  | sliceHoldExpiry (slice idx : Nat)
  /-- PORT_CLASP_HOLD_EXPIRY (R323). A node held 2 µs in a switch-port clasp passes through to the home device. -/
  | portClaspHoldExpiry (plane dev idx : Nat)
  /-- POD_HOME_HOLD_EXPIRY (R326). A pod home's unpaired node held 4 µs is sent to the system home. -/
  | podHomeHoldExpiry (slice idx : Nat)
  /-- UE_NOTIFY_WRITE (R328). A write to an Ultra Ethernet queue's notify register makes ring entries available. -/
  | ueNotifyWrite (part k : Nat) (w : Word)
  /-- UE_WRITE (R328). An Ultra Ethernet write ring entry is performed. -/
  | ueWrite (part k : Nat)
  /-- UE_READ (R328). An Ultra Ethernet read ring entry is performed. -/
  | ueRead (part k : Nat)
  /-- UE_FETCH_AND_ADD (R328). An Ultra Ethernet fetch-and-add ring entry is performed. -/
  | ueFetchAndAdd (part k : Nat)
  /-- UE_COMPARE_AND_SWAP (R328). An Ultra Ethernet compare-and-swap ring entry is performed. -/
  | ueCompareAndSwap (part k : Nat)
  /-- UE_ENTRY_COMPLETE (R328). A ring entry completes and makes its arrival at the sync word. -/
  | ueEntryComplete (part k idx : Nat) (data : List Byte)
  /-- UE_RETRANSMIT_TIMEOUT (R469). An unacknowledged Ultra Ethernet packet is retransmitted, or its entry fails after the limit. -/
  | ueRetransmitTimeout (part k idx : Nat)
  /-- PATH_TABLE_UPDATE (R330). Every 1 µs the device rewrites an active peer's path table entries. -/
  | pathTableUpdate (part peer : Nat)
  /-- ENTROPY_EXCLUSION_EXPIRY (R471). An entropy value's 1 ms exclusion from spraying ends. -/
  | entropyExclusionExpiry (part peer entropy : Nat)
  /-- HOST_ACCESS (R342). A host access through a host window reaches device memory or doorbell registers. -/
  | hostAccess (a : HostReq)
  /-- FRAME_CRC_FAILURE (R454). A frame fails its CRC on a hop and is answered with a negative acknowledgment. -/
  | frameCrcFailure (port : Nat) (again : Bool)
  /-- NEGATIVE_ACKNOWLEDGMENT (R454). The sender resends the frame and every later frame from its replay buffer. -/
  | negativeAcknowledgment (port frame : Nat)
  /-- LANE_LOSS (R455). A lane fails and the port retrains on the other lane at half rate. -/
  | laneLoss (port lane : Nat)
  /-- LANE_RETRAIN_DONE (R455). Retraining on the remaining lane completes and traffic resumes. -/
  | laneRetrainDone (port : Nat)
  /-- PORT_DOWN (R455). A port goes down and its plane becomes not live. -/
  | portDown (port detail : Nat)
  /-- LIVE_PLANE_ANNOUNCEMENT (R456). A device's announcement of its live planes and incarnation is received. -/
  | livePlaneAnnouncement (dev : Nat) (incarn : Half) (planes : DWord)
  /-- ANNOUNCEMENT_TIMER (R456). A device announces its live planes at least every 1 ms. -/
  | announcementTimer
  /-- RECOVERY_QUERY (R457). A receiver stops the old flow and answers with its cumulative sequence performed. -/
  | recoveryQuery (dev plane via : Nat)
  /-- RECOVERY_ANSWER (R457). The sender resends the old flow's unperformed packets on the new plane. -/
  | recoveryAnswer (dev plane : Nat) (performed : Word)
  /-- RECOVERY_TIMER_EXPIRY (R458). An unacknowledged packet's recovery timer expires and it is resent. -/
  | recoveryTimerExpiry (dev plane : Nat) (seq : Word)
  /-- PEER_LOST_TIMEOUT (R462). A peer unreached for 2 ms is lost and its operations fail with PEER_RESET. -/
  | peerLostTimeout (dev : Nat)
  /-- STALE_ANSWER (R463). A stale answer fails the issuing operation with ASYNC 0x05. -/
  | staleAnswer (p : Pkt)
  /-- REFUSED_ANSWER (R465). A peer's translation refusal suspends the operation under PAGE 0x06 records. -/
  | refusedAnswer (p : Pkt) (faults : List PeerFault)
  /-- DEVICE_RESET (R343). The device resets and the boot ROM verifies and starts the firmware image. -/
  | deviceReset (flash staging : Image)
  /-- FIRMWARE_FAULT (R388). A firmware fault after acceptance resets the device. -/
  | firmwareFault (flash staging : Image)
  /-- MANAGEMENT_WRITE (R335). A firmware write to the management set is applied or refused with BOOTST.REFUSE. -/
  | managementWrite (csr : Nat) (v : DWord)
  /-- CORE_LEAVES_PARTITION (R336). A core removed from a mask leaves once no workgroup of the partition is resident. -/
  | coreLeavesPartition (part core : Nat)
  /-- SCRATCH_CLEAR_COMPLETE (R348). The clearing of a core's scratchpad and vault on change of partition ends. -/
  | scratchClearComplete (core : Nat)
  /-- ATTREQ_WRITE (R346). A write of ATTREQ starts an attestation report unless BUSY. -/
  | attreqWrite (part : Nat) (v : DWord)
  /-- ATTESTATION_REPORT (R345). The signed report is written, or ERR set, and BUSY clears. -/
  | attestationReport (selfTest : Bool)
  /-- CAP_WRITE (R347). A write of PWR.CAP sets the power cap clamped to 1000–2800 W. -/
  | capWrite (w : Half)
  /-- POWER_THROTTLE (R347). Measured power exceeds the cap and both dies lower their clocks. -/
  | powerThrottle (meas : Half)
  /-- FRREAD_WRITE (R368). Software writes the fault ring's consumed index, ignored if out of range. -/
  | frreadWrite (part : Nat) (w : Word)
  /-- FRRESUME_WRITE (R375). A write of SEQ re-issues every parked or suspended operation of covered groups. -/
  | frresumeWrite (part : Nat) (w : Word)
  /-- FAULT_GROUP_WRITE (R369). A fault record group is written whole once it fits the ring. -/
  | faultGroupWrite (part : Nat)
  /-- PATROL_SCRUB (R423). A periodic scrub read corrects or treats a stored word. -/
  | patrolScrub (space : Space) (addr : Nat)
  /-- SAVE_COMPLETE (R436). The workgroup record is written and its resources released. -/
  | saveComplete (wg : Nat)
  /-- SAVE_TIMEOUT (R436). A save not drained within 65,536 cycles is abandoned or fails. -/
  | saveTimeout (wg : Nat)
  /-- RESTORE_COMPLETE (R440). A restore ends and the strands issue at their saved state. -/
  | restoreComplete (wg : Nat)
  /-- HANG_WATCHDOG (R445). A strand's wait count reaches 2^32 cycles and SCHED 0x04 is routed. -/
  | hangWatchdog (strand : Nat)
  /-- BREAKPOINT_MATCH (R478). A comparator matches an instruction about to issue and the quarter stops. -/
  | breakpointMatch (strand split : Nat)
  /-- WATCHPOINT_MATCH (R479). A watchpoint matches an instruction's accesses and the quarter stops. -/
  | watchpointMatch (strand split : Nat)
  /-- AGENT_ENTRY (R481). Twelve cycles after a stop the split enters the debug agent at DVEC. -/
  | agentEntry (quarter : Nat)
  /-- STEP_REENTRY (R482). After a stepped instruction issues, the split re-enters the agent with reason 3. -/
  | stepReentry (quarter : Nat)
  /-- QSTOP_STOP (R476). A write of QSTOP.REQ = 1 stops the quarter. -/
  | qstopStop (quarter : Nat)
  /-- QSTOP_RESUME (R476). A write of QSTOP.REQ = 0 resumes the quarter. -/
  | qstopResume (quarter : Nat)
  /-- DBG_STOP (R477). The DBGCTL STOP command stops the selected quarter. -/
  | dbgStop (part : Nat)
  /-- DBG_DUMP (R477). The DBGCTL DUMP command starts a quarter dump. -/
  | dbgDump (part : Nat)
  /-- DBG_ENTER (R477). The DBGCTL ENTER command makes a split enter the agent. -/
  | dbgEnter (part slot : Nat)
  /-- DBG_UNHALT (R477). The DBGCTL UNHALT command resumes a halted strand. -/
  | dbgUnhalt (part slot : Nat)
  /-- DBG_RESUME (R477). The DBGCTL RESUME command resumes the quarter. -/
  | dbgResume (part : Nat)
  /-- DBGREPLY_WRITE (R485). A reply word is delivered to a strand's MBOX.wait. -/
  | dbgreplyWrite (part : Nat) (v : DWord)
  /-- DUMP_COMPLETE (R487). The dump's last byte is performed, DUMPING clears and held writes are applied. -/
  | dumpComplete (quarter : Nat)
  /-- TRACE_SAMPLE (R490). At each sample period a quarter writes a sample trace record. -/
  | traceSample (quarter : Nat)
  /-- MMIO_REGISTER_WRITE (R7). A write to a register with no row of its own sets its RW and W1C fields by access type. -/
  | mmioRegisterWrite (part off : Nat) (v : DWord)
  /-- WALK_COMPLETE (R410). A page-table walk after a TLB miss ends, filling the TLB or reporting a PAGE or ASYNC translation fault for its lanes or operand. -/
  | walkComplete (w : WalkReq)
  /-- INSTRUCTION_FETCH_COMPLETE (R390). A strand's instruction fetch completes, making the next instruction issuable, or fails translation and parks the split at that word. -/
  | instructionFetchComplete (strand split : Nat)
  /-- UET_PACKET_ARRIVAL (R327). An Ultra Ethernet Transport packet from another pod (write, read, atomic, acknowledgment, trim or system-domain node or root) reaches the endpoint and is placed or acted on. -/
  | uetPacketArrival (p : UetPkt)
  /-- LINK_TRAINING_COMPLETE (R312). Auto-negotiation and link training of a Chaelo or Ultra Ethernet port complete and the port carries traffic, making its plane live. -/
  | linkTrainingComplete (port : Nat)
deriving DecidableEq, Repr

end Sys2Proof
end

