-- ==== Sys2Proof/Machine/Encoding.lean ====
section
/-! DEFINITION. The encoding tables of the Rellar extended form: operand codes (R148), type codes (R150), the
classes of operand a field accepts (R162, R209), and one row per extended instruction (R153, R167, R176, R179, R182,
R186, R188, R194, R199, R205, R212, R220, R222, R229, R237, R241, R246, R254). -/

namespace Sys2Proof

/-- The TY code of a type (R150). -/
def Ty.code : Ty → Nat
  | .i32 => 0x00 | .n32 => 0x01 | .i64 => 0x02 | .n64 => 0x03 | .i16 => 0x04 | .n16 => 0x05
  | .i8 => 0x06 | .n8 => 0x07 | .f32 => 0x08 | .f64 => 0x09 | .f16 => 0x0A | .bf16 => 0x0B
  | .e4m3 => 0x0C | .e5m2 => 0x0D | .e2m1 => 0x0E | .b32 => 0x0F | .b64 => 0x10 | .i4 => 0x11
  | .n4 => 0x12 | .e8m0 => 0x13 | .e3m5 => 0x14 | .pred => 0x15

/-- The type of a TY code; `none` for 0x16 to 0x1F (R150). -/
def Ty.ofCode (c : Nat) : Option Ty :=
  match c with
  | 0x00 => some .i32 | 0x01 => some .n32 | 0x02 => some .i64 | 0x03 => some .n64 | 0x04 => some .i16
  | 0x05 => some .n16 | 0x06 => some .i8 | 0x07 => some .n8 | 0x08 => some .f32 | 0x09 => some .f64
  | 0x0A => some .f16 | 0x0B => some .bf16 | 0x0C => some .e4m3 | 0x0D => some .e5m2 | 0x0E => some .e2m1
  | 0x0F => some .b32 | 0x10 => some .b64 | 0x11 => some .i4 | 0x12 => some .n4 | 0x13 => some .e8m0
  | 0x14 => some .e3m5 | 0x15 => some .pred | _ => none

/-- The width of a type in bits (R150). -/
def Ty.width : Ty → Nat
  | .i64 | .n64 | .f64 | .b64 => 64
  | .i32 | .n32 | .f32 | .b32 => 32
  | .i16 | .n16 | .f16 | .bf16 => 16
  | .i8 | .n8 | .e4m3 | .e5m2 | .e8m0 | .e3m5 => 8
  | .i4 | .n4 | .e2m1 => 4
  | .pred => 1

/-- The i types of R59. -/
def Ty.signed : Ty → Bool
  | .i32 | .i64 | .i16 | .i8 | .i4 => true
  | _ => false

/-- The floating-point formats of R56. -/
def Ty.isFloat : Ty → Bool
  | .f64 | .f32 | .f16 | .bf16 | .e4m3 | .e5m2 | .e2m1 => true
  | _ => false

/-- Is this the code of a 64-bit type (R149)? -/
def wideCode (c : Nat) : Bool := c == 0x02 || c == 0x03 || c == 0x09 || c == 0x10

/-- The RND field of a rounding choice (R66, R157). -/
def Rnd.code : Rnd → Nat
  | .dflt => 0 | .rne => 1 | .rtz => 2 | .rup => 3 | .rdn => 4 | .rna => 5 | .rsd => 6

/-- The rounding choice of an RND field; 111 is reserved (R66). -/
def Rnd.ofCode (c : Nat) : Option Rnd :=
  match c with
  | 0 => some .dflt | 1 => some .rne | 2 => some .rtz | 3 => some .rup | 4 => some .rdn | 5 => some .rna
  | 6 => some .rsd | _ => none

/-- The operand of an 11-bit operand code; `none` for 1707 to 2047 (R148). -/
def Opnd.ofCode (c : Nat) : Option Opnd :=
  if c < 1536 then some (.v c)
  else if c < 1664 then some (.s (c - 1536))
  else if c < 1680 then some (.p (c - 1664))
  else if c < 1696 then some (.t (c - 1680))
  else if c < 1704 then some (.q (c - 1696))
  else if c = 1704 then some .zero
  else if c = 1705 then some .lane
  else if c = 1706 then some .lit
  else none

/-- The operand code of an operand (R148); a `raw` field stands for its own number. -/
def Opnd.code : Opnd → Nat
  | .v n => n | .s n => 1536 + n | .p n => 1664 + n | .t n => 1680 + n | .q n => 1696 + n
  | .zero => 1704 | .lane => 1705 | .lit => 1706 | .raw n => n

/-- The fields of an extended instruction's words, as numbers (R145, R151, R152), with bit 31 of word 0 apart. -/
structure Raw where
  lit : Option DWord
  ty : Nat
  rnd : Nat
  sat : Bool
  pe : Bool
  pr : Nat
  pn : Bool
  cache : Nat
  g : Bool
  late : Bool
  ord : Nat
  scope : Nat
  xs : Nat
  cls : Nat
  sel : Nat
  d : Nat
  a : Nat
  b : Nat
  c : Nat
deriving DecidableEq, Repr

/-- What a field's number stands for. -/
inductive FieldKind where
  | operand | csr | tile | count
deriving DecidableEq, Repr

/-- The codes a field accepts (R149, R162, R209). -/
structure Cls where
  kind : FieldKind := .operand
  v : Bool := false
  /-- a vector must be even: the field holds a pair (R149). -/
  even : Bool := false
  s : Bool := false
  /-- a scalar must be even: a pair field of R254. -/
  evenS : Bool := false
  p : Bool := false
  t : Bool := false
  q : Bool := false
  zero : Bool := false
  lane : Bool := false
  lit : Bool := false
deriving DecidableEq, Repr

/-- Is this CSR number defined (R166, R308, R318, R337)? -/
def csrDefined (n : Nat) : Bool :=
  n ≤ 0x008 || (0x010 ≤ n && n ≤ 0x013) || (0x100 ≤ n && n ≤ 0x106) || (0x110 ≤ n && n ≤ 0x11F) || n == 0x120
  || n == 0x400 || n == 0x401 || n == 0x402 || n == 0x440 || n == 0x441
  || (0x480 ≤ n && n ≤ 0x4BF) || (0x500 ≤ n && n ≤ 0x57F && n % 8 != 7)
  || (0x600 ≤ n && n ≤ 0x6FF) || (0x700 ≤ n && n ≤ 0x71F)

/-- Does the class accept the operand? -/
def Cls.accepts (k : Cls) : Opnd → Bool
  | .v n => k.v && (!k.even || n % 2 == 0)
  | .s n => k.s && (!k.evenS || n % 2 == 0)
  | .p _ => k.p
  | .t _ => k.t
  | .q _ => k.q
  | .zero => k.zero
  | .lane => k.lane
  | .lit => k.lit
  | .raw _ => false

/-- Read a field: `none` is a reserved operand field (R394). A literal needs L = 0b11 (R149). -/
def Cls.read (k : Cls) (hasLit : Bool) (code : Nat) : Option Opnd :=
  match k.kind with
  | .csr => if csrDefined code then some (.raw code) else none
  | .tile => if code < 64 then some (.raw code) else none
  | .count => if code < 64 || code == 2047 then some (.raw code) else none
  | .operand =>
    match Opnd.ofCode code with
    | some o => if k.accepts o && (o != .lit || hasLit) then some o else none
    | none => none

/-- An unused field holds 1704 (R149). -/
def cN : Cls := { zero := true }
/-- Class v, a pair when `even`. -/
def cV (even : Bool) : Cls := { v := true, even := even }
/-- Class x, a pair when `even` (R162). -/
def cX (even : Bool) : Cls := { v := true, even := even, s := true, zero := true, lane := true, lit := true }
/-- Class u (R162). -/
def cU : Cls := { s := true, zero := true, lit := true }
/-- Class s. -/
def cS : Cls := { s := true }
/-- Class p. -/
def cP : Cls := { p := true }
/-- Class q. -/
def cQ : Cls := { q := true }
/-- Class t. -/
def cT : Cls := { t := true }
/-- s or 1704 (D of MODE). -/
def cSZ : Cls := { s := true, zero := true }
/-- p or 1704 (A of BRK). -/
def cPZ : Cls := { p := true, zero := true }
/-- v or s. -/
def cVS (even : Bool) : Cls := { v := true, even := even, s := true }
/-- The literal offset of a branch (R176). -/
def cL : Cls := { lit := true }
/-- Field B of a memory operand (R210). -/
def cMB : Cls := { v := true, s := true, zero := true, lit := true }
/-- Field A of a global memory operand: t or s (R210). -/
def cMG : Cls := { t := true, s := true }
/-- Field A of a scratchpad or vault operand: v, s or 1704 (R210). -/
def cMS : Cls := { v := true, s := true, zero := true }
/-- An even scalar: a pair field of R254. -/
def cPair : Cls := { s := true, evenS := true }
/-- A pair or 1704 (A of MXFIN). -/
def cPairZ : Cls := { s := true, evenS := true, zero := true }
/-- A scalar or literal address of R241. -/
def cAdr : Cls := { s := true, lit := true }
/-- A sync word of R241: scalar, literal or 1704. -/
def cSync : Cls := { s := true, lit := true, zero := true }
/-- A tile handle (R149). -/
def cH : Cls := { kind := .tile }
/-- A WAIT count (R229). -/
def cK : Cls := { kind := .count }
/-- A CSR number (R166). -/
def cC : Cls := { kind := .csr }

/-- One extended instruction's encoding: opcode numbers, accepted types, modifiers and field classes. -/
structure Row where
  maj : Nat
  min : Nat
  build : Opnds → Instr
  /-- Does this row's sub-operation match (rows that share a minor number)? -/
  pick : Raw → Bool := fun _ => true
  /-- Accepted types; `some []` takes no type; `none`: the selector that fixes the types is undefined (R395). -/
  tys : Raw → Option (List Ty) := fun _ => some []
  rounds : Bool := false
  sats : Bool := false
  lane : Raw → Bool := fun _ => false
  cache : Raw → Bool := fun _ => false
  g : Bool := false
  late : Bool := false
  ords : List Nat := [0]
  scopes : List Nat := [0]
  modB : Raw → Bool := fun r => r.xs == 0 && r.cls == 0 && r.sel == 0
  d : Raw → Cls := fun _ => cN
  a : Raw → Cls := fun _ => cN
  b : Raw → Cls := fun _ => cN
  c : Raw → Cls := fun _ => cN

/-- A class that does not depend on the rest of the word. -/
def kc (k : Cls) : Raw → Cls := fun _ => k
/-- Fixed types. -/
def kt (l : List Ty) : Raw → Option (List Ty) := fun _ => some l
/-- Class v of the operation's type. -/
def wV : Raw → Cls := fun r => cV (wideCode r.ty)
/-- Class x of the operation's type. -/
def wX : Raw → Cls := fun r => cX (wideCode r.ty)
/-- SEL below n, XS and CLS zero. -/
def selLt (n : Nat) : Raw → Bool := fun r => r.xs == 0 && r.cls == 0 && r.sel < n
/-- SEL of this value selects the row. -/
def selIs (n : Nat) : Raw → Bool := fun r => r.sel == n
/-- SEL of exactly this value, XS and CLS zero. -/
def selOnly (n : Nat) : Raw → Bool := fun r => r.xs == 0 && r.cls == 0 && r.sel == n
/-- SEL is the code of one of these types, XS and CLS zero. -/
def selTy (l : List Ty) : Raw → Bool := fun r => r.xs == 0 && r.cls == 0 && (l.map Ty.code).contains r.sel
/-- A per-lane row. -/
def perLane : Raw → Bool := fun _ => true
/-- Per-lane with a vector destination, per-split with a scalar one (R212). -/
def laneIfV : Raw → Bool := fun r => r.d < 1536
/-- Every scope (R151). -/
def allScopes : List Nat := [0, 1, 2, 3, 4, 5, 6]
/-- The scopes of RMT (R237). -/
def rmtScopes : List Nat := [0, 4, 5, 6]

def tI : List Ty := [.i64, .n64, .i32, .n32]
def tB : List Ty := [.b64, .b32]
def tI32 : List Ty := [.i32, .n32]
def tF : List Ty := [.f32, .f64]
def tFH : List Ty := [.f32, .f64, .f16, .bf16]
def tL8 : List Ty := [.i8, .n8, .i16, .n16, .b32, .b64]
def tFloat : List Ty := [.f64, .f32, .f16, .bf16, .e4m3, .e5m2, .e2m1]
def tF4 : List Ty := [.f64, .f32, .f16, .bf16]
def tInt : List Ty := [.i64, .n64, .i32, .n32, .i16, .n16, .i8, .n8]
def tEl : List Ty := [.e4m3, .e5m2, .e2m1]
def tRed : List Ty := [.f32, .f64, .i32, .n32, .i64, .n64]
def tRedInt : List Ty := [.i32, .n32, .i64, .n64]

/-- SYS (R167). -/
def rowsSys : List Row := [
  { maj := 0x00, min := 0x00, build := .nop },
  { maj := 0x00, min := 0x01, build := .csrr, d := kc cS, c := kc cC },
  { maj := 0x00, min := 0x02, build := .csrw, a := kc cU, c := kc cC },
  { maj := 0x00, min := 0x03, build := .mode, modB := selLt 6, d := kc cSZ, a := kc cU },
  { maj := 0x00, min := 0x04, build := .clock, d := kc cS },
  { maj := 0x00, min := 0x05, build := .sleep, a := kc cU },
  { maj := 0x00, min := 0x06, build := .trap, a := kc cU },
  { maj := 0x00, min := 0x07, build := .tret },
  { maj := 0x00, min := 0x08, build := .halt },
  { maj := 0x00, min := 0x09, build := .mboxPost, pick := selIs 0, modB := selOnly 0, d := kc cS, a := kc cU },
  { maj := 0x00, min := 0x09, build := .mboxWait, pick := selIs 1, modB := selOnly 1, d := kc cS, a := kc cU },
  { maj := 0x00, min := 0x0A, build := .tlbinv, pick := selIs 0, modB := selOnly 0, a := kc cU, b := kc cU },
  { maj := 0x00, min := 0x0A, build := .tlbinvAll, pick := selIs 1, modB := selOnly 1 },
  { maj := 0x00, min := 0x0B, build := .perfr, d := kc cS, a := kc cU },
  { maj := 0x00, min := 0x0C, build := .yield },
  { maj := 0x00, min := 0x0D, build := .idq, modB := selLt 17, d := kc (cVS false) },
  { maj := 0x00, min := 0x0E, build := .esaveCtx, pick := selIs 0, modB := selOnly 0 },
  { maj := 0x00, min := 0x0E, build := .esaveStack, pick := selIs 1, modB := selOnly 1, a := kc cU },
  { maj := 0x00, min := 0x0F, build := .eloadCtx, pick := selIs 0, modB := selOnly 0 },
  { maj := 0x00, min := 0x0F, build := .eloadStack, pick := selIs 1, modB := selOnly 1, a := kc cU } ]

/-- CTL (R176). -/
def rowsCtl : List Row := [
  { maj := 0x01, min := 0x00, build := .bra, b := kc cL },
  { maj := 0x01, min := 0x01, build := .brd, modB := selLt 2, a := kc cP, b := kc cL },
  { maj := 0x01, min := 0x02, build := .join },
  { maj := 0x01, min := 0x03, build := .brk, modB := selLt 16, a := kc cPZ, b := kc cL },
  { maj := 0x01, min := 0x04, build := .call, d := kc cS, b := kc cL },
  { maj := 0x01, min := 0x05, build := .ret, a := kc cS },
  { maj := 0x01, min := 0x06, build := .jmpi, a := kc cS },
  { maj := 0x01, min := 0x07, build := .calli, d := kc cS, a := kc cS },
  { maj := 0x01, min := 0x08, build := .exit, lane := perLane },
  { maj := 0x01, min := 0x09, build := .loop, d := kc cS, b := kc cL },
  { maj := 0x01, min := 0x0A, build := .braq, modB := selLt 2, a := kc cQ, b := kc cL } ]

/-- MODB of PMOV: XS names the word of the two .wJ forms and is zero on the other three (R180). -/
def pmovModB (r : Raw) : Bool :=
  r.cls == 0 && r.sel == 0 &&
    (r.xs == 0 || (1536 ≤ r.d && r.d < 1664) || (1536 ≤ r.a && r.a < 1664))

/-- PRD (R179). -/
def rowsPrd : List Row := [
  { maj := 0x02, min := 0x00, build := .pset, tys := kt (tI ++ tB), lane := perLane, modB := selLt 6,
    d := kc cP, a := wX, b := wX },
  { maj := 0x02, min := 0x01, build := .pfset, tys := kt tF, lane := perLane, modB := selLt 14,
    d := kc cP, a := wX, b := wX },
  { maj := 0x02, min := 0x02, build := .plog, tys := kt [.pred], lane := perLane, modB := selLt 16,
    d := kc cP, a := kc cP, b := kc cP },
  { maj := 0x02, min := 0x03, build := .pmov, tys := kt [.pred], lane := perLane, modB := pmovModB,
    d := kc { v := true, s := true, p := true },
    a := fun r => if r.d < 1664 then cP else if r.xs = 0 then { p := true, v := true, s := true } else cS },
  { maj := 0x02, min := 0x04, build := .vote,
    tys := fun r => if r.sel < 2 then some [.pred] else if r.sel = 2 then some [.b32] else none, modB := selLt 3,
    d := kc cQ, a := fun r => if r.sel = 2 then cV false else cP },
  { maj := 0x02, min := 0x05, build := .pcnt, tys := kt [.pred], d := kc cS, a := kc cP },
  { maj := 0x02, min := 0x06, build := .pfirst, tys := kt [.pred], d := kc cS, a := kc cP },
  { maj := 0x02, min := 0x07, build := .qset, tys := kt [.i64, .n64, .b64, .i32, .n32], modB := selLt 6,
    d := kc cQ, a := kc cU, b := kc cU },
  { maj := 0x02, min := 0x08, build := .qlog, tys := kt [.pred], modB := selLt 16, d := kc cQ, a := kc cQ, b := kc cQ } ]

/-- A SINT row of one, two or three u sources (R182). -/
def sint (m : Nat) (mk : Opnds → Instr) (t : List Ty) (n : Nat) : Row :=
  { maj := 0x03, min := m, build := mk, tys := kt t, d := kc cS, a := kc cU,
    b := kc (if 2 ≤ n then cU else cN), c := kc (if 3 ≤ n then cU else cN) }

/-- SINT (R182). -/
def rowsSint : List Row := [
  sint 0x00 .sadd tI 2, sint 0x01 .ssub tI 2, sint 0x02 .smul tI 2, sint 0x03 .smad tI 3, sint 0x04 .smulh tI 2,
  sint 0x05 .sdiv tI 2, sint 0x06 .srem tI 2, sint 0x07 .sand tB 2, sint 0x08 .sor tB 2, sint 0x09 .sxor tB 2,
  sint 0x0A .sshl tB 2, sint 0x0B .sshr tB 2, sint 0x0C .ssar [.i64, .i32] 2, sint 0x0D .smin tI 2,
  sint 0x0E .smax tI 2, sint 0x0F .smov (tI ++ tB) 1,
  { sint 0x10 .ssel (tI ++ tB) 2 with c := kc cQ },
  sint 0x11 .sclz tB 1, sint 0x12 .spopc tB 1, sint 0x13 .sbfe tI 3, sint 0x14 .sbfi tB 3 ]

/-- A vector row of n x sources (R186, R188). -/
def vrow (j m : Nat) (mk : Opnds → Instr) (t : List Ty) (n : Nat) : Row :=
  { maj := j, min := m, build := mk, tys := kt t, lane := perLane, d := wV,
    a := fun r => if 1 ≤ n then wX r else cN, b := fun r => if 2 ≤ n then wX r else cN,
    c := fun r => if 3 ≤ n then wX r else cN }

/-- VINT (R186). -/
def rowsVint : List Row := [
  vrow 4 0x00 .vadd tI 2, vrow 4 0x01 .vsub tI 2, vrow 4 0x02 .vmul tI 2, vrow 4 0x03 .vmad tI32 3,
  vrow 4 0x04 .vmulh tI32 2, vrow 4 0x05 .vand tB 2, vrow 4 0x06 .vor tB 2, vrow 4 0x07 .vxor tB 2,
  vrow 4 0x08 .vnot tB 1, vrow 4 0x09 .vshl tB 2, vrow 4 0x0A .vshr tB 2, vrow 4 0x0B .vsar [.i32, .i64] 2,
  vrow 4 0x0C .vmin tI 2, vrow 4 0x0D .vmax tI 2, vrow 4 0x0E .vabs [.i32, .i64] 1,
  vrow 4 0x0F .vneg [.i32, .i64] 1, { vrow 4 0x10 .vsel tB 2 with c := kc cP },
  vrow 4 0x11 .vclz [.b32] 1, vrow 4 0x12 .vpopc [.b32] 1, vrow 4 0x13 .vbfe tI32 3, vrow 4 0x14 .vbfi [.b32] 3,
  vrow 4 0x15 .vdot4 [.i8, .n8] 3, vrow 4 0x16 .vmov tB 1, vrow 4 0x17 .vlane [.n32] 0,
  { vrow 4 0x18 .vaddc [.n32] 2 with c := kc cP },
  vrow 4 0x19 .vsadd [.i32, .n32, .i16, .n16, .i8, .n8] 2 ]

/-- A VFP row that rounds. -/
def frow (m : Nat) (mk : Opnds → Instr) (t : List Ty) (n : Nat) : Row := { vrow 5 m mk t n with rounds := true }

/-- VFP (R188). -/
def rowsVfp : List Row := [
  frow 0x00 .fadd tFH 2, frow 0x01 .fsub tFH 2, frow 0x02 .fmul tFH 2, frow 0x03 .ffma tFH 3,
  vrow 5 0x04 .fmin tFH 2, vrow 5 0x05 .fmax tFH 2, vrow 5 0x06 .fabs tFH 1, vrow 5 0x07 .fneg tFH 1,
  frow 0x08 .frcp tF 1, frow 0x09 .frsq tF 1, frow 0x0A .fsqrt tF 1, frow 0x0B .fdiv tF 2,
  frow 0x0C .fexp2 [.f32] 1, frow 0x0D .flog2 [.f32] 1, frow 0x0E .fsin [.f32] 1, frow 0x0F .fcos [.f32] 1,
  frow 0x10 .ftanh [.f32] 1, vrow 5 0x11 .fclass tF 1,
  frow 0x12 .fscale tF 2,
  frow 0x13 .frnd tF 1, vrow 5 0x14 .ffrac tF 1, vrow 5 0x15 .fminp tFH 2, vrow 5 0x16 .fmaxp tFH 2,
  frow 0x17 .fdot2 [.f16, .bf16] 3 ]

/-- Class x of the source type that SEL names (R194). -/
def selX : Raw → Cls := fun r => cX (wideCode r.sel)

/-- CVT (R194). -/
def rowsCvt : List Row := [
  { maj := 6, min := 0x00, build := .fcvt, tys := kt tFloat, rounds := true, sats := true, lane := perLane,
    modB := fun r => selTy tFloat r && r.sel != r.ty, d := wV, a := selX },
  { maj := 6, min := 0x01, build := .ftoi, tys := kt tInt, rounds := true, lane := perLane, modB := selTy tF4,
    d := wV, a := selX },
  { maj := 6, min := 0x02, build := .itof, tys := kt tF4, rounds := true, lane := perLane, modB := selTy tInt,
    d := wV, a := selX },
  { maj := 6, min := 0x03, build := .iext, tys := kt tInt, lane := perLane, modB := selTy tInt, d := wV, a := selX },
  { maj := 6, min := 0x04, build := .fpack, tys := kt [.f16, .bf16, .e4m3, .e5m2, .e2m1], rounds := true, sats := true,
    lane := perLane, d := kc (cV false), a := kc (cX false), b := kc (cX false),
    c := fun r => if r.ty == Ty.f16.code || r.ty == Ty.bf16.code then cN else cU },
  { maj := 6, min := 0x05, build := .funpk, tys := kt [.f16, .bf16, .e4m3, .e5m2, .e2m1], lane := perLane,
    d := kc (cV false), a := kc (cX false), b := kc cU },
  { maj := 6, min := 0x06, build := .sclq, tys := kt [.e8m0, .e3m5], lane := perLane,
    modB := fun r => if r.ty == Ty.e8m0.code then selTy [.e4m3, .e5m2] r else selTy [.e2m1] r,
    d := kc (cV false), a := kc (cX false), c := fun r => if r.ty == Ty.e8m0.code then cN else cU },
  { maj := 6, min := 0x07, build := .bqnt, tys := kt tEl, rounds := true, sats := true, lane := perLane,
    d := kc (cV false), a := kc (cX false), b := kc (cX false), c := kc cU },
  { maj := 6, min := 0x08, build := .bdq, tys := kt tEl, rounds := true, lane := perLane,
    d := kc (cV false), a := kc (cX false), b := kc (cX false), c := kc cU } ]

/-- The types of VRED and VSCAN: .and, .or and .xor take integers only (R203). -/
def redTys (r : Raw) : Option (List Ty) := if r.sel < 3 then some tRed else if r.sel < 6 then some tRedInt else none

/-- XCH (R199). -/
def rowsXch : List Row := [
  { maj := 7, min := 0x00, build := .bfly, tys := kt tB, lane := perLane,
    modB := fun r => r.cls == 0 && r.xs < 3 && r.sel < 8, d := wV, a := wV, b := wV },
  { maj := 7, min := 0x01, build := .shfl, tys := kt tB, lane := perLane, d := wV, a := wV, b := wX },
  { maj := 7, min := 0x02, build := .lrot, tys := kt tB, lane := perLane, modB := selLt 9, d := wV, a := wV,
    b := kc cU },
  { maj := 7, min := 0x03, build := .lbcst, tys := kt tB, lane := perLane, modB := selLt 9, d := wV, a := wV,
    b := kc cU },
  { maj := 7, min := 0x04, build := .vred, tys := redTys, lane := perLane, modB := selLt 6,
    d := fun r => cVS (wideCode r.ty), a := wX, b := kc (cX false), c := kc cU },
  { maj := 7, min := 0x05, build := .vscan, tys := redTys, lane := perLane,
    modB := fun r => r.cls == 0 && r.xs < 2 && r.sel < 6, d := wV, a := wX, b := kc (cX false), c := kc cU },
  { maj := 7, min := 0x06, build := .lcmp, tys := kt tB, d := wV, a := wV, b := kc cP } ]

/-- CACHE is accepted. -/
def withCache : Raw → Bool := fun _ => true

/-- MEM (R212). -/
def rowsMem : List Row := [
  { maj := 8, min := 0x00, build := .ld, tys := kt tL8, lane := laneIfV, cache := withCache, late := true,
    ords := [0, 1], scopes := allScopes, d := fun r => cVS (wideCode r.ty), a := kc cMG, b := kc cMB },
  { maj := 8, min := 0x01, build := .st, tys := kt tL8, lane := perLane, cache := withCache,
    ords := [0, 2], scopes := allScopes, d := wX, a := kc cMG, b := kc cMB },
  { maj := 8, min := 0x02, build := .lds, tys := kt tL8, lane := perLane, ords := [0, 1], scopes := allScopes,
    d := wV, a := kc cMS, b := kc cMB },
  { maj := 8, min := 0x03, build := .sts, tys := kt tL8, lane := perLane, ords := [0, 2], scopes := allScopes,
    d := wX, a := kc cMS, b := kc cMB },
  { maj := 8, min := 0x04, build := .ldv, tys := kt tL8, lane := laneIfV, late := true, ords := [0, 1],
    scopes := allScopes, d := fun r => cVS (wideCode r.ty), a := kc cMS, b := kc cMB },
  { maj := 8, min := 0x05, build := .stv, tys := kt tL8, lane := perLane, ords := [0, 2], scopes := allScopes,
    d := wX, a := kc cMS, b := kc cMB },
  { maj := 8, min := 0x06, build := .ldt, tys := kt [.i16, .n16, .f16, .bf16], lane := perLane, cache := withCache,
    d := kc (cV true), a := kc cMG, b := kc cMB, c := kc cU },
  { maj := 8, min := 0x07, build := .ldf, tys := kt [.f32, .bf16], rounds := true, lane := perLane,
    cache := withCache, late := true, d := kc (cV false), a := kc cT, b := kc cMB },
  { maj := 8, min := 0x08, build := .stf, tys := kt [.f32], rounds := true, sats := true, lane := perLane,
    cache := withCache, d := kc (cV false), a := kc cT, b := kc cMB },
  { maj := 8, min := 0x09, build := .trx, d := kc cT, a := kc cU },
  { maj := 8, min := 0x0A, build := .pref, lane := perLane, cache := withCache, a := kc cMG, b := kc cMB },
  { maj := 8, min := 0x0B, build := .ldc, tys := kt tL8, lane := laneIfV, d := fun r => cVS (wideCode r.ty),
    a := fun r => if r.d < 1536 then cX (wideCode r.ty) else cU } ]

/-- MODB of an atomic: space below 3, .nr where it exists (R220). -/
def atmModB (nr : Bool) (r : Raw) : Bool :=
  r.xs == 0 && r.cls == 0 && r.sel < 8 && r.sel % 4 != 3 && (nr || r.sel < 4)

/-- An ATM row (R220). -/
def atm (m : Nat) (mk : Opnds → Instr) (t : List Ty) (nr : Bool) : Row :=
  { maj := 9, min := m, build := mk, tys := kt t, lane := perLane, cache := fun r => r.sel % 4 == 0,
    ords := [0, 1, 2, 3], scopes := allScopes, modB := atmModB nr,
    d := fun r => if 4 ≤ r.sel then wX r else wV r,
    a := fun r => if r.sel % 4 = 0 then cMG else cMS, b := kc cMB,
    c := fun r => if 4 ≤ r.sel then cN else wX r }

/-- ATM (R220). -/
def rowsAtm : List Row := [
  atm 0x00 .aadd tI true, atm 0x01 .aand tB true, atm 0x02 .aor tB true, atm 0x03 .axor tB true,
  atm 0x04 .amin tI true, atm 0x05 .amax tI true, atm 0x06 .axch tB false, atm 0x07 .acas tB false,
  atm 0x08 .ainc [.n32, .n64] true ]

/-- MODB of CTB and CTBN: XS[0] the label form, SEL the level when it is clear (R222). -/
def ctbModB (r : Raw) : Bool := r.cls == 0 && (r.xs == 0 || (r.xs == 1 && r.sel == 0))

/-- The label field: an n32 index, or a 64-bit label in a pair (R222). -/
def ctbC : Raw → Cls := fun r => cX (r.xs != 0)

/-- RED with CTBM (R222, R254). -/
def rowsRed : List Row := [
  { maj := 0x0A, min := 0x00, build := .ctb, tys := kt [.f32, .f64, .f16, .bf16, .i32, .n32, .i64, .n64],
    lane := perLane, modB := ctbModB, d := wX, a := kc cU, b := kc (cX false), c := ctbC },
  { maj := 0x0A, min := 0x01, build := .ctbn, lane := perLane, modB := ctbModB, a := kc cU, b := kc (cX false),
    c := ctbC },
  { maj := 0x0A, min := 0x02, build := .domarm, d := kc cS, a := kc cU },
  { maj := 0x0A, min := 0x03, build := .domclose, a := kc cU },
  { maj := 0x0A, min := 0x04, build := .domq, pick := selIs 0, modB := selOnly 0, d := kc cS, a := kc cU },
  { maj := 0x0A, min := 0x04, build := .domqWait, pick := selIs 1, modB := selOnly 1, d := kc cS, a := kc cU },
  { maj := 0x0A, min := 0x05, build := .ctbm, d := kc cH, a := kc cU, b := kc cPair, c := kc cU } ]

/-- Field A of a sync-word operand (R229). -/
def msA : Raw → Cls := fun r => if r.xs = 0 then cMG else cU
/-- MODB of a sync-word operand: XS names the space (R229). -/
def msModB (r : Raw) : Bool := r.xs < 3 && r.cls == 0 && r.sel == 0

/-- A SYN row with a sync-word operand in A and B (R229). -/
def ms (m : Nat) (mk : Opnds → Instr) (d c : Cls) : Row :=
  { maj := 0x0B, min := m, build := mk, scopes := allScopes, modB := msModB, d := kc d, a := msA, b := kc cU, c := kc c }

/-- The CT count of WAIT, MODB[6:0] with MODB[9:7] zero (R229). -/
def waitModB (r : Raw) : Bool := r.xs == 0 && r.cls < 4 && (r.cls < 2 || (r.cls == 3 && r.sel == 31))

/-- SYN (R229). -/
def rowsSyn : List Row := [
  { maj := 0x0B, min := 0x00, build := .fence, scopes := allScopes },
  { maj := 0x0B, min := 0x01, build := .wait, modB := waitModB, d := kc cK, a := kc cK, b := kc cK, c := kc cK },
  { maj := 0x0B, min := 0x02, build := .batch, d := kc cS },
  { maj := 0x0B, min := 0x03, build := .waitb, a := kc cU },
  { maj := 0x0B, min := 0x04, build := .bar, a := kc cU },
  { maj := 0x0B, min := 0x05, build := .cbar, a := kc cU, b := kc cU },
  ms 0x06 .syarm cU cU, ms 0x07 .syarv cU cU, ms 0x08 .sywait cS cU, ms 0x09 .syflg cU cN,
  ms 0x0A .waitc cS cU, ms 0x0B .signal cU cN, ms 0x0C .sytst cS cN ]

/-- The types of RATM, by the ATM row that SEL names; .cas is 32-bit only (R237, R238). -/
def ratmTys (r : Raw) : Option (List Ty) :=
  match r.sel with
  | 0 | 4 | 5 => some tI
  | 1 | 2 | 3 | 6 => some tB
  | 7 => some [.b32]
  | 8 => some [.n32, .n64]
  | _ => none

/-- RMT (R237). -/
def rowsRmt : List Row := [
  { maj := 0x0C, min := 0x00, build := .rld, tys := kt tL8, lane := perLane, late := true, ords := [0, 1],
    scopes := rmtScopes, d := wV, a := kc (cX false), b := kc cS, c := kc cMB },
  { maj := 0x0C, min := 0x01, build := .rst, tys := kt tL8, lane := perLane, ords := [0, 2],
    scopes := rmtScopes, d := wV, a := kc (cX false), b := kc cS, c := kc cMB },
  { maj := 0x0C, min := 0x02, build := .ratm, tys := ratmTys, lane := perLane, ords := [0, 1, 2, 3],
    scopes := rmtScopes, modB := selLt 9, d := fun r => cV (wideCode r.ty || r.sel == 7), a := kc (cX false),
    b := kc cS, c := kc cMB },
  { maj := 0x0C, min := 0x03, build := .rsigCtr, pick := fun r => r.xs == 0, scopes := rmtScopes,
    d := kc cU, a := kc cU, b := kc cS, c := kc cU },
  { maj := 0x0C, min := 0x03, build := .rsigSync, pick := fun r => r.xs == 1, scopes := rmtScopes,
    modB := fun r => r.xs == 1 && r.cls == 0 && r.sel == 0, d := kc cU, a := kc cU, b := kc cS, c := kc cU } ]

/-- MODB of a copy: destination and source spaces in SEL, the sync word's in XS (R241). -/
def cpyModB (r : Raw) : Bool := r.cls == 0 && r.xs < 3 && r.sel < 16 && r.sel % 4 != 3 && r.sel / 4 != 3

/-- CPY (R241). -/
def rowsCpy : List Row := [
  { maj := 0x0D, min := 0x00, build := .cpy, modB := cpyModB, d := kc cAdr, a := kc cAdr, b := kc cU, c := kc cSync },
  { maj := 0x0D, min := 0x01, build := .cpym, modB := cpyModB, d := kc cAdr, a := kc cAdr, b := kc cU, c := kc cSync },
  { maj := 0x0D, min := 0x02, build := .cpy2d, modB := cpyModB, d := kc cAdr, a := kc cAdr, b := kc cPair,
    c := kc cSync },
  { maj := 0x0D, min := 0x03, build := .swapf, modB := fun r => r.cls == 0 && r.xs < 3 && r.sel == 0,
    a := kc cAdr, b := kc cAdr, c := kc cSync } ]

/-- WRK (R246). -/
def rowsWrk : List Row := [
  { maj := 0x0E, min := 0x00, build := .append, lane := perLane, d := kc cS, a := kc cU, b := kc (cV false) },
  { maj := 0x0E, min := 0x01, build := .take, lane := perLane, d := kc cS, a := kc cU, b := kc (cV false),
    c := kc cP },
  { maj := 0x0E, min := 0x02, build := .wlq, d := kc cS, a := kc cU },
  { maj := 0x0E, min := 0x03, build := .quiet, d := kc cS },
  { maj := 0x0E, min := 0x04, build := .launch, d := kc cS, a := kc cU, b := kc cU } ]

/-- MTX (R254). -/
def rowsMtx : List Row := [
  { maj := 0x0F, min := 0x00, build := .mxalloc, tys := kt [.f32, .i32], d := kc cH, a := kc cU, b := kc cU,
    c := kc cU },
  { maj := 0x0F, min := 0x01, build := .mxfree, d := kc cH },
  { maj := 0x0F, min := 0x02, build := .mxzero, pick := selIs 0, modB := selOnly 0, d := kc cH },
  { maj := 0x0F, min := 0x02, build := .mxzeroAbs, pick := selIs 1, modB := selOnly 1, d := kc cH },
  { maj := 0x0F, min := 0x03, build := .mxld, tys := kt [.f32, .bf16, .f16, .i32], cache := withCache, d := kc cH,
    a := kc cPair, b := kc cPair },
  { maj := 0x0F, min := 0x04, build := .mxmma, cache := withCache, g := true,
    modB := fun r => r.cls == 0 && r.sel < 2, d := kc cH, a := kc cPair, b := kc cPair, c := kc cPair },
  { maj := 0x0F, min := 0x05, build := .mxfin, d := kc cH, a := kc cPairZ },
  { maj := 0x0F, min := 0x06, build := .mxst, tys := kt [.f32, .bf16, .f16, .e4m3, .e5m2, .i32, .i16, .i8],
    rounds := true, sats := true, cache := withCache, d := kc cH, a := kc cPair, b := kc cPair, c := kc cU },
  { maj := 0x0F, min := 0x07, build := .mxgang, a := kc cU },
  { maj := 0x0F, min := 0x08, build := .mxrow, pick := selIs 0, modB := selOnly 0, d := kc cS, a := kc cH },
  { maj := 0x0F, min := 0x08, build := .mxrowFlags, pick := selIs 1, modB := selOnly 1, d := kc cS, a := kc cH },
  { maj := 0x0F, min := 0x09, build := .mxshpQ, pick := selIs 0, modB := selOnly 0, d := kc cS, a := kc cU },
  { maj := 0x0F, min := 0x09, build := .mxshpGen, pick := selIs 1, modB := selOnly 1, d := kc cS, a := kc cU } ]

/-- PND (R205). -/
def rowsPnd : List Row := [
  { maj := 0x10, min := 0x00, build := .pndq, d := kc cS, a := kc (cVS false) },
  { maj := 0x10, min := 0x01, build := .pndwait, a := kc { v := true, s := true, zero := true } },
  { maj := 0x10, min := 0x02, build := .vshape,
    tys := fun r => if r.sel = 1 then some [.b32] else if r.sel < 3 then some tB else none, lane := perLane,
    modB := selLt 3, d := wV, a := wV },
  { maj := 0x10, min := 0x03, build := .vshq, d := kc cS, a := kc (cV false) } ]

/-- The rows of one major (R153). -/
def rowsOf (maj : Nat) : List Row :=
  match maj with
  | 0x00 => rowsSys | 0x01 => rowsCtl | 0x02 => rowsPrd | 0x03 => rowsSint | 0x04 => rowsVint | 0x05 => rowsVfp
  | 0x06 => rowsCvt | 0x07 => rowsXch | 0x08 => rowsMem | 0x09 => rowsAtm | 0x0A => rowsRed | 0x0B => rowsSyn
  | 0x0C => rowsRmt | 0x0D => rowsCpy | 0x0E => rowsWrk | 0x0F => rowsMtx | 0x10 => rowsPnd | _ => []

/-- The row of a word's numbers: the row its sub-operation picks, else the first row of the minor (whose MODB check
then finds the sub-operation undefined); `none` for an undefined major or minor. -/
def findRow (maj min : Nat) (r : Raw) : Option Row :=
  match (rowsOf maj).filter (fun w => w.min == min) with
  | [] => none
  | w :: ws => some (((w :: ws).find? (fun w => w.pick r)).getD w)

/-- Does some operand field of the row hold the literal code 1706 (R149)? -/
def Row.usesLit (w : Row) (r : Raw) : Bool :=
  ((w.d r).kind == .operand && r.d == 1706) || ((w.a r).kind == .operand && r.a == 1706)
    || ((w.b r).kind == .operand && r.b == 1706) || ((w.c r).kind == .operand && r.c == 1706)

/-- The predicate fields: PE = 0 needs PR and PN zero; PE = 1 only on a per-lane instruction (R146). -/
def Row.predOk (w : Row) (r : Raw) : Bool :=
  if r.pe then w.lane r else r.pr == 0 && !r.pn

/-- MODA (R151): each field within what the row lists; .late only with ORD 0 (R212). -/
def Row.modAOk (w : Row) (r : Raw) : Bool :=
  (r.cache == 0 || (r.cache < 4 && w.cache r)) && (!r.g || w.g) && (!r.late || (w.late && r.ord == 0))
    && w.ords.contains r.ord && w.scopes.contains r.scope

/-- The type the row reads: `none` is a type it does not accept. -/
def Row.readTy (w : Row) (r : Raw) : Option (Option Ty) :=
  match w.tys r with
  | none => none
  | some [] => if r.ty == 0 then some none else none
  | some l =>
    match Ty.ofCode r.ty with
    | some t => if l.contains t then some (some t) else none
    | none => none

/-- Read an extended instruction's fields in the order of R395: the operands, or the CODE of the first field at
fault. -/
def Row.read (w : Row) (r : Raw) : Except Nat Opnds :=
  if r.lit.isSome && !w.usesLit r then .error 9
  else if (w.tys r).isNone then .error 6
  else
    match w.readTy r, Rnd.ofCode r.rnd with
    | none, _ => .error 7
    | some _, none => .error 8
    | some ty, some rnd =>
      if !w.rounds && rnd != .dflt then .error 8
      else if r.sat && !w.sats then .error 11
      else if !w.predOk r then .error 10
      else if !w.modAOk r then .error 5
      else if !w.modB r then .error 6
      else
        let l := r.lit.isSome
        match (w.d r).read l r.d, (w.a r).read l r.a, (w.b r).read l r.b, (w.c r).read l r.c with
        | none, _, _, _ => .error 1
        | some _, none, _, _ => .error 2
        | some _, some _, none, _ => .error 3
        | some _, some _, some _, none => .error 4
        | some d, some a, some b, some c =>
          .ok { ty := ty, rnd := rnd, sat := r.sat, pred := if r.pe then some (r.pr, r.pn) else none,
                cache := r.cache, g := r.g, late := r.late, ord := r.ord, scope := r.scope, xs := r.xs, cls := r.cls,
                sel := r.sel, d := d, a := a, b := b, c := c, lit := r.lit }

/-- The numbers of an extended instruction's fields. -/
def Opnds.raw (x : Opnds) : Raw :=
  { lit := x.lit, ty := match x.ty with | some t => t.code | none => 0
    rnd := x.rnd.code, sat := x.sat, pe := x.pred.isSome
    pr := match x.pred with | some (n, _) => n | none => 0
    pn := match x.pred with | some (_, b) => b | none => false
    cache := x.cache, g := x.g, late := x.late, ord := x.ord, scope := x.scope, xs := x.xs, cls := x.cls, sel := x.sel
    d := x.d.code, a := x.a.code, b := x.b.code, c := x.c.code }

/-- Every number fits its field (R145). -/
def Raw.fits (r : Raw) : Bool :=
  r.ty < 32 && r.rnd < 8 && r.pr < 16 && r.cache < 8 && r.ord < 4 && r.scope < 8 && r.xs < 4 && r.cls < 8
    && r.sel < 32 && r.d < 2048 && r.a < 2048 && r.b < 2048 && r.c < 2048

/-- Word 0 of an extended instruction (R145). -/
def Raw.word0 (maj min : Nat) (r : Raw) : Nat :=
  (if r.lit.isSome then 3 else 1) + maj * 2^2 + min * 2^8 + r.ty * 2^16 + r.rnd * 2^21 + r.pe.toNat * 2^24
    + r.pr * 2^25 + r.pn.toNat * 2^29 + r.sat.toNat * 2^30
/-- Word 1. -/
def Raw.word1 (r : Raw) : Nat :=
  r.d + r.a * 2^11 + (r.scope + r.ord * 2^3 + r.late.toNat * 2^5 + r.g.toNat * 2^6 + r.cache * 2^7) * 2^22
/-- Word 2. -/
def Raw.word2 (r : Raw) : Nat :=
  r.b + r.c * 2^11 + (r.sel + r.cls * 2^5 + r.xs * 2^8) * 2^22

/-- Bits [hi:lo] of a natural, counted from `lo` for `n` bits. -/
def bitsN (w lo n : Nat) : Nat := w / 2^lo % 2^n

/-- The fields of words 0, 1 and 2 with the literal that follows. -/
def Raw.ofWords (w0 w1 w2 : Nat) (lit : Option DWord) : Raw :=
  { lit := lit, ty := bitsN w0 16 5, rnd := bitsN w0 21 3, sat := bitsN w0 30 1 == 1, pe := bitsN w0 24 1 == 1
    pr := bitsN w0 25 4, pn := bitsN w0 29 1 == 1
    cache := bitsN w1 29 3, g := bitsN w1 28 1 == 1, late := bitsN w1 27 1 == 1, ord := bitsN w1 25 2
    scope := bitsN w1 22 3, xs := bitsN w2 30 2, cls := bitsN w2 27 3, sel := bitsN w2 22 5
    d := bitsN w1 0 11, a := bitsN w1 11 11, b := bitsN w2 0 11, c := bitsN w2 11 11 }

/-- The major, minor and operands of an extended instruction (R153). -/
def Instr.ext? : Instr → Option (Nat × Nat × Opnds)
  | .nop x => some (0x00, 0x00, x)
  | .csrr x => some (0x00, 0x01, x)
  | .csrw x => some (0x00, 0x02, x)
  | .mode x => some (0x00, 0x03, x)
  | .clock x => some (0x00, 0x04, x)
  | .sleep x => some (0x00, 0x05, x)
  | .trap x => some (0x00, 0x06, x)
  | .tret x => some (0x00, 0x07, x)
  | .halt x => some (0x00, 0x08, x)
  | .mboxPost x => some (0x00, 0x09, x)
  | .mboxWait x => some (0x00, 0x09, x)
  | .tlbinv x => some (0x00, 0x0A, x)
  | .tlbinvAll x => some (0x00, 0x0A, x)
  | .perfr x => some (0x00, 0x0B, x)
  | .yield x => some (0x00, 0x0C, x)
  | .idq x => some (0x00, 0x0D, x)
  | .esaveCtx x => some (0x00, 0x0E, x)
  | .esaveStack x => some (0x00, 0x0E, x)
  | .eloadCtx x => some (0x00, 0x0F, x)
  | .eloadStack x => some (0x00, 0x0F, x)
  | .bra x => some (0x01, 0x00, x)
  | .brd x => some (0x01, 0x01, x)
  | .join x => some (0x01, 0x02, x)
  | .brk x => some (0x01, 0x03, x)
  | .call x => some (0x01, 0x04, x)
  | .ret x => some (0x01, 0x05, x)
  | .jmpi x => some (0x01, 0x06, x)
  | .calli x => some (0x01, 0x07, x)
  | .exit x => some (0x01, 0x08, x)
  | .loop x => some (0x01, 0x09, x)
  | .braq x => some (0x01, 0x0A, x)
  | .pset x => some (0x02, 0x00, x)
  | .pfset x => some (0x02, 0x01, x)
  | .plog x => some (0x02, 0x02, x)
  | .pmov x => some (0x02, 0x03, x)
  | .vote x => some (0x02, 0x04, x)
  | .pcnt x => some (0x02, 0x05, x)
  | .pfirst x => some (0x02, 0x06, x)
  | .qset x => some (0x02, 0x07, x)
  | .qlog x => some (0x02, 0x08, x)
  | .sadd x => some (0x03, 0x00, x)
  | .ssub x => some (0x03, 0x01, x)
  | .smul x => some (0x03, 0x02, x)
  | .smad x => some (0x03, 0x03, x)
  | .smulh x => some (0x03, 0x04, x)
  | .sdiv x => some (0x03, 0x05, x)
  | .srem x => some (0x03, 0x06, x)
  | .sand x => some (0x03, 0x07, x)
  | .sor x => some (0x03, 0x08, x)
  | .sxor x => some (0x03, 0x09, x)
  | .sshl x => some (0x03, 0x0A, x)
  | .sshr x => some (0x03, 0x0B, x)
  | .ssar x => some (0x03, 0x0C, x)
  | .smin x => some (0x03, 0x0D, x)
  | .smax x => some (0x03, 0x0E, x)
  | .smov x => some (0x03, 0x0F, x)
  | .ssel x => some (0x03, 0x10, x)
  | .sclz x => some (0x03, 0x11, x)
  | .spopc x => some (0x03, 0x12, x)
  | .sbfe x => some (0x03, 0x13, x)
  | .sbfi x => some (0x03, 0x14, x)
  | .vadd x => some (0x04, 0x00, x)
  | .vsub x => some (0x04, 0x01, x)
  | .vmul x => some (0x04, 0x02, x)
  | .vmad x => some (0x04, 0x03, x)
  | .vmulh x => some (0x04, 0x04, x)
  | .vand x => some (0x04, 0x05, x)
  | .vor x => some (0x04, 0x06, x)
  | .vxor x => some (0x04, 0x07, x)
  | .vnot x => some (0x04, 0x08, x)
  | .vshl x => some (0x04, 0x09, x)
  | .vshr x => some (0x04, 0x0A, x)
  | .vsar x => some (0x04, 0x0B, x)
  | .vmin x => some (0x04, 0x0C, x)
  | .vmax x => some (0x04, 0x0D, x)
  | .vabs x => some (0x04, 0x0E, x)
  | .vneg x => some (0x04, 0x0F, x)
  | .vsel x => some (0x04, 0x10, x)
  | .vclz x => some (0x04, 0x11, x)
  | .vpopc x => some (0x04, 0x12, x)
  | .vbfe x => some (0x04, 0x13, x)
  | .vbfi x => some (0x04, 0x14, x)
  | .vdot4 x => some (0x04, 0x15, x)
  | .vmov x => some (0x04, 0x16, x)
  | .vlane x => some (0x04, 0x17, x)
  | .vaddc x => some (0x04, 0x18, x)
  | .vsadd x => some (0x04, 0x19, x)
  | .fadd x => some (0x05, 0x00, x)
  | .fsub x => some (0x05, 0x01, x)
  | .fmul x => some (0x05, 0x02, x)
  | .ffma x => some (0x05, 0x03, x)
  | .fmin x => some (0x05, 0x04, x)
  | .fmax x => some (0x05, 0x05, x)
  | .fabs x => some (0x05, 0x06, x)
  | .fneg x => some (0x05, 0x07, x)
  | .frcp x => some (0x05, 0x08, x)
  | .frsq x => some (0x05, 0x09, x)
  | .fsqrt x => some (0x05, 0x0A, x)
  | .fdiv x => some (0x05, 0x0B, x)
  | .fexp2 x => some (0x05, 0x0C, x)
  | .flog2 x => some (0x05, 0x0D, x)
  | .fsin x => some (0x05, 0x0E, x)
  | .fcos x => some (0x05, 0x0F, x)
  | .ftanh x => some (0x05, 0x10, x)
  | .fclass x => some (0x05, 0x11, x)
  | .fscale x => some (0x05, 0x12, x)
  | .frnd x => some (0x05, 0x13, x)
  | .ffrac x => some (0x05, 0x14, x)
  | .fminp x => some (0x05, 0x15, x)
  | .fmaxp x => some (0x05, 0x16, x)
  | .fdot2 x => some (0x05, 0x17, x)
  | .fcvt x => some (0x06, 0x00, x)
  | .ftoi x => some (0x06, 0x01, x)
  | .itof x => some (0x06, 0x02, x)
  | .iext x => some (0x06, 0x03, x)
  | .fpack x => some (0x06, 0x04, x)
  | .funpk x => some (0x06, 0x05, x)
  | .sclq x => some (0x06, 0x06, x)
  | .bqnt x => some (0x06, 0x07, x)
  | .bdq x => some (0x06, 0x08, x)
  | .bfly x => some (0x07, 0x00, x)
  | .shfl x => some (0x07, 0x01, x)
  | .lrot x => some (0x07, 0x02, x)
  | .lbcst x => some (0x07, 0x03, x)
  | .vred x => some (0x07, 0x04, x)
  | .vscan x => some (0x07, 0x05, x)
  | .lcmp x => some (0x07, 0x06, x)
  | .ld x => some (0x08, 0x00, x)
  | .st x => some (0x08, 0x01, x)
  | .lds x => some (0x08, 0x02, x)
  | .sts x => some (0x08, 0x03, x)
  | .ldv x => some (0x08, 0x04, x)
  | .stv x => some (0x08, 0x05, x)
  | .ldt x => some (0x08, 0x06, x)
  | .ldf x => some (0x08, 0x07, x)
  | .stf x => some (0x08, 0x08, x)
  | .trx x => some (0x08, 0x09, x)
  | .pref x => some (0x08, 0x0A, x)
  | .ldc x => some (0x08, 0x0B, x)
  | .aadd x => some (0x09, 0x00, x)
  | .aand x => some (0x09, 0x01, x)
  | .aor x => some (0x09, 0x02, x)
  | .axor x => some (0x09, 0x03, x)
  | .amin x => some (0x09, 0x04, x)
  | .amax x => some (0x09, 0x05, x)
  | .axch x => some (0x09, 0x06, x)
  | .acas x => some (0x09, 0x07, x)
  | .ainc x => some (0x09, 0x08, x)
  | .ctb x => some (0x0A, 0x00, x)
  | .ctbn x => some (0x0A, 0x01, x)
  | .domarm x => some (0x0A, 0x02, x)
  | .domclose x => some (0x0A, 0x03, x)
  | .domq x => some (0x0A, 0x04, x)
  | .domqWait x => some (0x0A, 0x04, x)
  | .ctbm x => some (0x0A, 0x05, x)
  | .fence x => some (0x0B, 0x00, x)
  | .wait x => some (0x0B, 0x01, x)
  | .batch x => some (0x0B, 0x02, x)
  | .waitb x => some (0x0B, 0x03, x)
  | .bar x => some (0x0B, 0x04, x)
  | .cbar x => some (0x0B, 0x05, x)
  | .syarm x => some (0x0B, 0x06, x)
  | .syarv x => some (0x0B, 0x07, x)
  | .sywait x => some (0x0B, 0x08, x)
  | .syflg x => some (0x0B, 0x09, x)
  | .waitc x => some (0x0B, 0x0A, x)
  | .signal x => some (0x0B, 0x0B, x)
  | .sytst x => some (0x0B, 0x0C, x)
  | .rld x => some (0x0C, 0x00, x)
  | .rst x => some (0x0C, 0x01, x)
  | .ratm x => some (0x0C, 0x02, x)
  | .rsigCtr x => some (0x0C, 0x03, x)
  | .rsigSync x => some (0x0C, 0x03, x)
  | .cpy x => some (0x0D, 0x00, x)
  | .cpym x => some (0x0D, 0x01, x)
  | .cpy2d x => some (0x0D, 0x02, x)
  | .swapf x => some (0x0D, 0x03, x)
  | .append x => some (0x0E, 0x00, x)
  | .take x => some (0x0E, 0x01, x)
  | .wlq x => some (0x0E, 0x02, x)
  | .quiet x => some (0x0E, 0x03, x)
  | .launch x => some (0x0E, 0x04, x)
  | .mxalloc x => some (0x0F, 0x00, x)
  | .mxfree x => some (0x0F, 0x01, x)
  | .mxzero x => some (0x0F, 0x02, x)
  | .mxzeroAbs x => some (0x0F, 0x02, x)
  | .mxld x => some (0x0F, 0x03, x)
  | .mxmma x => some (0x0F, 0x04, x)
  | .mxfin x => some (0x0F, 0x05, x)
  | .mxst x => some (0x0F, 0x06, x)
  | .mxgang x => some (0x0F, 0x07, x)
  | .mxrow x => some (0x0F, 0x08, x)
  | .mxrowFlags x => some (0x0F, 0x08, x)
  | .mxshpQ x => some (0x0F, 0x09, x)
  | .mxshpGen x => some (0x0F, 0x09, x)
  | .pndq x => some (0x10, 0x00, x)
  | .pndwait x => some (0x10, 0x01, x)
  | .vshape x => some (0x10, 0x02, x)
  | .vshq x => some (0x10, 0x03, x)
  | _ => none

end Sys2Proof
end

