-- ==== Sys2Proof/Machine/Float.lean ====
section
/-! DEFINITION. Exact floating-point values and the one rounding of R60 and R61 (R56 to R73). A finite value is
(-1)^neg * m * 2^e, plus, where `sticky` is set, a further positive amount below 2^e that no operation here needs to
know: the quotients, roots and transcendentals carry it. -/

namespace Sys2Proof.Machine

open Sys2Proof

/-- An exact value (R73, `val`). -/
inductive Fv where
  | nan (signalling : Bool)
  | inf (neg : Bool)
  | zero (neg : Bool)
  | fin (neg : Bool) (m : Nat) (e : Int) (sticky : Bool)
deriving DecidableEq, Repr

/-- The flags of R69. -/
def flagInv : Half := 0x01
def flagDz : Half := 0x02
def flagOf : Half := 0x04
def flagUf : Half := 0x08
def flagNx : Half := 0x10
def flagNf : Half := 0x20
def flagSat : Half := 0x40

/-- A floating-point format: exponent bits, fraction bits, bias (R56). -/
structure Fmt where
  ebits : Nat
  fbits : Nat
  bias : Nat
  ty : Ty
deriving DecidableEq, Repr

/-- The format of a type (R56). -/
def fmtOf : Ty → Fmt
  | .f64 => ⟨11, 52, 1023, .f64⟩
  | .f16 => ⟨5, 10, 15, .f16⟩
  | .bf16 => ⟨8, 7, 127, .bf16⟩
  | .e4m3 => ⟨4, 3, 7, .e4m3⟩
  | .e5m2 => ⟨5, 2, 15, .e5m2⟩
  | .e2m1 => ⟨2, 1, 1, .e2m1⟩
  | _ => ⟨8, 23, 127, .f32⟩

/-- FP32 (R56). -/
def fp32 : Fmt := fmtOf .f32
/-- FP64 (R56). -/
def fp64 : Fmt := fmtOf .f64

/-- Bits of the format. -/
def Fmt.bits (f : Fmt) : Nat := 1 + f.ebits + f.fbits

/-- Does the format keep the all-ones exponent for infinities and NaNs (R57)? -/
def Fmt.ieee (f : Fmt) : Bool := f.ty != .e4m3 && f.ty != .e2m1

/-- The canonical NaN (R57); E2M1 has none, and a NaN becomes +0 there (R61). -/
def Fmt.nan (f : Fmt) : Nat :=
  match f.ty with
  | .f64 => 0x7FF8000000000000 | .f16 => 0x7E00 | .bf16 => 0x7FC0 | .e4m3 => 0x7F | .e5m2 => 0x7E | .e2m1 => 0
  | _ => 0x7FC00000

/-- The sign bit. -/
def Fmt.signBit (f : Fmt) : Nat := 2 ^ (f.ebits + f.fbits)

/-- The code of infinity without its sign, in formats that have one. -/
def Fmt.infCode (f : Fmt) : Nat := (2 ^ f.ebits - 1) * 2 ^ f.fbits

/-- The code of the largest finite value without its sign (R56, R57). -/
def Fmt.maxCode (f : Fmt) : Nat :=
  match f.ty with
  | .e4m3 => 0x7E
  | .e2m1 => 0x7
  | _ => f.infCode - 1

/-- A code without its sign as m * 2^e (R56). -/
def Fmt.magnitude (f : Fmt) (c : Nat) : Nat × Int :=
  let e := c / 2 ^ f.fbits
  let fr := c % 2 ^ f.fbits
  if e = 0 then (fr, 1 - (f.bias : Int) - f.fbits) else (2 ^ f.fbits + fr, (e : Int) - f.bias - f.fbits)

/-- The exact value of a code (R56, R57). -/
def Fmt.val (f : Fmt) (x : Nat) : Fv :=
  let c := x % f.signBit
  let neg := x / f.signBit % 2 == 1
  if f.ieee && decide (f.infCode ≤ c) then
    if c = f.infCode then .inf neg
    else .nan (f.ty != .e5m2 && c / 2 ^ (f.fbits - 1) % 2 == 0)
  else if f.ty == .e4m3 && c == 0x7F then .nan false
  else
    let (m, e) := f.magnitude c
    if m = 0 then .zero neg else .fin neg m e false

/-- Is the code subnormal (R67)? -/
def Fmt.subnormal (f : Fmt) (x : Nat) : Bool := decide (0 < x % f.signBit ∧ x % f.signBit < 2 ^ f.fbits)

/-- A subnormal input flushed to zero of its sign under MODE.FZ (R67). -/
def Fmt.flushIn (f : Fmt) (fz : Bool) (x : Nat) : Nat := if fz && f.subnormal x then x / f.signBit * f.signBit else x

/-- A subnormal result flushed under MODE.FZ, raising UF and NX (R67). -/
def Fmt.flushOut (f : Fmt) (fz : Bool) (r : Nat × Half) : Nat × Half :=
  if fz && f.subnormal r.1 then (r.1 / f.signBit * f.signBit, r.2 ||| flagUf ||| flagNx) else r

/-- The mixing steps of R63. -/
def mix64 (h : DWord) : DWord :=
  let h := (h ^^^ (h >>> 30)) * 0xBF58476D1CE4E5B9#64
  let h := (h ^^^ (h >>> 27)) * 0x94D049BB133111EB#64
  h ^^^ (h >>> 31)

/-- rsd_bits (R63). -/
def rsdBits (seed : DWord) (idx : DWord) : Nat := (mix64 (seed ^^^ (idx * 0x9E3779B97F4A7C15#64))).toNat % 65536

/-- The bits of a natural: 0 for 0. -/
def bitLen (n : Nat) : Nat := if n = 0 then 0 else n.log2 + 1

/-- Shift a natural by an integer amount, left when positive. -/
def shiftInt (m : Nat) (k : Int) : Nat := if 0 ≤ k then m * 2 ^ k.toNat else m / 2 ^ (-k).toNat

/-- What a rounding needs beside its value: the mode and the 16 random bits of RSD (R60, R63). -/
structure RndArg where
  mode : Rnd
  rsd : Nat
deriving DecidableEq, Repr

/-- Round to nearest even. -/
def rneArg : RndArg := ⟨.rne, 0⟩

/-- Does the rounding go away from zero? `rem` of `unit` is left beyond lo, plus a little when sticky; `odd` is lo's
last bit (R60). -/
def roundsAway (a : RndArg) (neg odd : Bool) (rem unit : Nat) (sticky : Bool) : Bool :=
  if rem == 0 && !sticky then false
  else
    let twice := 2 * rem
    let half : Bool := twice == unit && !sticky
    match a.mode with
    | .rtz => false
    | .rup => !neg
    | .rdn => neg
    | .rsd => decide (a.rsd < 65536 * rem / unit)
    | .rna => half || decide (unit ≤ twice)
    | _ => if half then odd else decide (unit ≤ twice)

/-- The grid of a format at a value: the exponent of its last place, with subnormal spacing below the smallest normal
and no upper limit (R60). -/
def Fmt.quantum (f : Fmt) (m : Nat) (e : Int) : Int :=
  max (e + (bitLen m : Int) - 1 - f.fbits) (1 - (f.bias : Int) - f.fbits)

/-- Code of y * 2^q without sign, for y * 2^q at most the largest finite value and on the grid. -/
def Fmt.codeOf (f : Fmt) (y : Nat) (q : Int) : Nat :=
  if y = 0 then 0
  else if y < 2 ^ f.fbits then y
  else
    let (y, q) := if y < 2 ^ (f.fbits + 1) then (y, q) else (y / 2, q + 1)
    (q + f.fbits + f.bias).toNat * 2 ^ f.fbits + (y - 2 ^ f.fbits)

/-- y * 2^q exceeds m * 2^e: by the places of their first bits, and bit by bit only where these agree. -/
def exceeds (y : Nat) (q : Int) (m : Nat) (e : Int) : Bool :=
  if y = 0 then false
  else if m = 0 then true
  else if q + bitLen y ≠ e + bitLen m then decide (e + bitLen m < q + bitLen y)
  else if q ≤ e then decide (m * 2 ^ (e - q).toNat < y)
  else decide (m < y * 2 ^ (q - e).toNat)

/-- Where a finite value rounds to: the magnitude on the grid, its exponent, inexact, tiny (R60). -/
def Fmt.grid (f : Fmt) (a : RndArg) (neg : Bool) (m : Nat) (e : Int) (sticky : Bool) : Nat × Int × Bool × Bool :=
  let q := f.quantum m e
  let tiny := decide (e + (bitLen m : Int) - 1 < 1 - (f.bias : Int))
  if q ≤ e then
    if sticky then
      let y := m * 2 ^ (e - q).toNat
      (if roundsAway a neg (y % 2 == 1) 0 1 true then y + 1 else y, q, true, tiny)
    else (m * 2 ^ (e - q).toNat, q, false, tiny)
  else
    -- a unit of 20 bits more than m rounds as every larger one does: it leaves the whole of m
    let unit := 2 ^ min (q - e).toNat (bitLen m + 20)
    let lo := m / unit
    let rem := m % unit
    (if roundsAway a neg (lo % 2 == 1) rem unit sticky then lo + 1 else lo, q, rem != 0 || sticky, tiny)

/-- `round(x, f, mo, idx)` of R60 with R61: the code and the flags; `sat` is effective saturation of a narrowing
conversion. -/
def Fmt.round (f : Fmt) (a : RndArg) (sat : Bool) (x : Fv) : Nat × Half :=
  let sg (neg : Bool) : Nat := if neg then f.signBit else 0
  let beyond (neg : Bool) (r : Nat × Half) : Nat × Half :=
    if sat then (sg neg + f.maxCode, flagSat ||| flagNx)
    else if f.ty == .e2m1 then (sg neg + f.maxCode, flagOf ||| flagSat ||| flagNx)
    else r
  let infinite (neg : Bool) (fl : Half) : Nat × Half :=
    beyond neg (if f.ty == .e4m3 then (f.nan, fl) else (sg neg + f.infCode, fl))
  match x with
  | .nan _ => if f.ty == .e2m1 then (0, flagInv) else (f.nan, flagNf)
  | .inf neg => infinite neg flagNf
  | .zero neg => (sg neg, 0)
  | .fin neg m e sticky =>
    let (y, q, inexact, tiny) := f.grid a neg m e sticky
    let fl : Half := (if inexact && tiny then flagUf else 0) ||| (if inexact then flagNx else 0)
    let (mm, me) := f.magnitude f.maxCode
    if exceeds y q mm me then
      let fl := fl ||| flagOf ||| flagNx
      if a.mode == .rtz || (a.mode == .rup && neg) || (a.mode == .rdn && !neg) then
        beyond neg (sg neg + f.maxCode, fl)
      else infinite neg (fl ||| flagNf)
    else (sg neg + f.codeOf y q, fl)

/-- Is a NaN operand among these, and is one signalling? The flags an arithmetic result NaN raises (R68). -/
def nanFlags (xs : List Fv) : Option Half :=
  if xs.any (fun x => match x with | .nan _ => true | _ => false) then
    some (if xs.any (fun x => match x with | .nan true => true | _ => false) then flagInv else 0)
  else none

/-- The opposite value. -/
def Fv.neg : Fv → Fv
  | .nan s => .nan s | .inf n => .inf !n | .zero n => .zero !n | .fin n m e s => .fin (!n) m e s

/-- The sign. -/
def Fv.isNeg : Fv → Bool
  | .nan _ => false | .inf n => n | .zero n => n | .fin n _ _ _ => n

/-- Exact sum of two values without NaN handling; an exact zero of opposite signs is +0, or -0 under RDN (R68). -/
def Fv.add (mode : Rnd) (x y : Fv) : Fv × Half :=
  match nanFlags [x, y] with
  | some f => (.nan false, f)
  | none =>
    match x, y with
    | .inf a, .inf b => if a = b then (.inf a, 0) else (.nan false, flagInv)
    | .inf a, _ => (.inf a, 0)
    | _, .inf b => (.inf b, 0)
    | .zero a, .zero b => (.zero (if a = b then a else mode == .rdn), 0)
    | .zero _, v => (v, 0)
    | v, .zero _ => (v, 0)
    | .fin n1 m1 e1 _, .fin n2 m2 e2 _ =>
      let e := min e1 e2
      let a : Int := (if n1 then -1 else 1) * ((m1 * 2 ^ (e1 - e).toNat : Nat) : Int)
      let b : Int := (if n2 then -1 else 1) * ((m2 * 2 ^ (e2 - e).toNat : Nat) : Int)
      let c := a + b
      if c = 0 then (.zero (mode == .rdn), 0) else (.fin (decide (c < 0)) c.natAbs e false, 0)
    | .nan s, _ => (.nan s, 0)
    | _, .nan s => (.nan s, 0)

/-- Exact product; 0 * Inf creates a NaN (R68). -/
def Fv.mul (x y : Fv) : Fv × Half :=
  match nanFlags [x, y] with
  | some f => (.nan false, f)
  | none =>
    let n := x.isNeg != y.isNeg
    match x, y with
    | .inf _, .zero _ => (.nan false, flagInv)
    | .zero _, .inf _ => (.nan false, flagInv)
    | .inf _, _ => (.inf n, 0)
    | _, .inf _ => (.inf n, 0)
    | .fin _ m1 e1 _, .fin _ m2 e2 _ => (.fin n (m1 * m2) (e1 + e2) false, 0)
    | _, _ => (.zero n, 0)

/-- The product then the sum, exact; the flags of both (R73, `fma`). A product of zero and infinity raises INV beside a quiet NaN
addend too, which R68 leaves open (assumption 115). -/
def Fv.fma (mode : Rnd) (x y z : Fv) : Fv × Half :=
  match nanFlags [x, y, z] with
  | some f =>
    let (p, g) := Fv.mul x y
    (.nan false, f ||| (match p with | .nan _ => (if (nanFlags [x, y]).isNone then g else 0) | _ => 0))
  | none =>
    let (p, g) := Fv.mul x y
    match p with
    | .nan s => (.nan s, g)
    | p => Fv.add mode p z

/-- Rounding a computed value, the computation's flags joined (R60, R68). -/
def Fmt.finish (f : Fmt) (a : RndArg) (r : Fv × Half) : Nat × Half :=
  let (c, fl) := f.round a false r.1
  (c, fl ||| r.2)

/-- Digit-by-digit square root: the pair (root, remainder). -/
def isqrtGo : Nat → Nat → Nat → Nat → Nat × Nat
  | 0, _, n, r => (r, n)
  | fuel + 1, bit, n, r =>
    if r + bit ≤ n then isqrtGo fuel (bit / 4) (n - (r + bit)) (r / 2 + bit)
    else isqrtGo fuel (bit / 4) n (r / 2)

/-- Integer square root with its remainder. -/
def isqrt (n : Nat) : Nat × Nat := let k := n.log2 / 2; isqrtGo (k + 1) (4 ^ k) n 0

/-- Exact quotient to 140 bits with a sticky rest (R71). -/
def Fv.div (x y : Fv) : Fv × Half :=
  match nanFlags [x, y] with
  | some f => (.nan false, f)
  | none =>
    let n := x.isNeg != y.isNeg
    match x, y with
    | .inf _, .inf _ => (.nan false, flagInv)
    | .zero _, .zero _ => (.nan false, flagInv)
    | .inf _, _ => (.inf n, 0)
    | _, .inf _ => (.zero n, 0)
    | .zero _, _ => (.zero n, 0)
    | _, .zero _ => (.inf n, flagDz)
    | .fin _ m1 e1 _, .fin _ m2 e2 _ =>
      let k := 140 + bitLen m2
      let m := m1 * 2 ^ k
      (.fin n (m / m2) (e1 - e2 - k) (m % m2 != 0), 0)
    | _, _ => (.zero n, 0)

/-- Exact square root to 140 bits with a sticky rest (R71, R72). -/
def Fv.sqrt (x : Fv) : Fv × Half :=
  match x with
  | .nan s => (.nan false, if s then flagInv else 0)
  | .zero n => (.zero n, 0)
  | .inf true => (.nan false, flagInv)
  | .inf false => (.inf false, 0)
  | .fin true _ _ _ => (.nan false, flagInv)
  | .fin false m e _ =>
    let k : Nat := if (e % 2 == 0) then 280 else 281
    let (r, rem) := isqrt (m * 2 ^ k)
    (.fin false r ((e - k) / 2) (rem != 0), 0)

/-- 1 / a (R72: FRCP). -/
def Fv.rcp (x : Fv) : Fv × Half := Fv.div (.fin false 1 0 false) x

/-- 1 / sqrt a (R72: FRSQ): the root of the reciprocal, exact in its first 140 bits. -/
def Fv.rsq (x : Fv) : Fv × Half :=
  match x with
  | .nan s => (.nan false, if s then flagInv else 0)
  | .zero n => (.inf n, flagDz)
  | .inf true => (.nan false, flagInv)
  | .inf false => (.zero false, 0)
  | .fin true _ _ _ => (.nan false, flagInv)
  | .fin false m e _ =>
    -- 1 / (m 2^e) = (2^K / m) 2^(-e-K), K even with -e-K even
    let k : Nat := if (e % 2 == 0) then 600 else 601
    let q := 2 ^ k / m
    let (r, rem) := isqrt q
    (.fin false r ((-e - k) / 2) (rem != 0 || 2 ^ k % m != 0), 0)

/-- Comparison of two non-NaN values. -/
def Fv.lt (x y : Fv) : Bool :=
  let key (v : Fv) : Int × Nat × Int :=
    match v with
    | .inf n => (if n then -2 else 2, 0, 0)
    | .zero _ => (0, 0, 0)
    | .fin n m e _ => (if n then -1 else 1, m, e)
    | .nan _ => (0, 0, 0)
  let (a, m1, e1) := key x
  let (b, m2, e2) := key y
  if a ≠ b then decide (a < b)
  else if a = 1 then exceeds m2 e2 m1 e1
  else if a = -1 then exceeds m1 e1 m2 e2
  else false

/-- Equality of values: +0 equals -0 (R152). -/
def Fv.eq (x y : Fv) : Bool := !Fv.lt x y && !Fv.lt y x

/-- A floating-point comparison by its SEL code (R152), with INV for a signalling NaN (R68). -/
def fcmp (sel : Nat) (x y : Fv) : Bool × Half :=
  match nanFlags [x, y] with
  | some f => (decide (6 ≤ sel ∧ sel ≤ 11) || sel == 13, f)
  | none =>
    let lt := Fv.lt x y
    let eq := Fv.eq x y
    (match sel with
      | 0 => eq | 1 => !eq | 2 => lt | 3 => lt || eq | 4 => !lt && !eq | 5 => !lt
      | 6 => eq | 7 => !eq | 8 => lt | 9 => lt || eq | 10 => !lt && !eq | 11 => !lt
      | 12 => true | _ => false, 0)

/-- FMIN or FMAX order: -0 below +0 (R190). -/
def minMaxLt (x y : Fv) : Bool :=
  match x, y with
  | .zero a, .zero b => a && !b
  | x, y => Fv.lt x y

/-- FMIN, FMAX (prop = false), FMINP, FMAXP (prop = true) on codes (R190). -/
def Fmt.minMax (f : Fmt) (isMax prop fz : Bool) (a b : Nat) : Nat × Half :=
  let a := f.flushIn fz a
  let b := f.flushIn fz b
  let x := f.val a
  let y := f.val b
  let isNan (v : Fv) : Bool := match v with | .nan _ => true | _ => false
  let isInf (v : Fv) : Bool := match v with | .inf _ => true | _ => false
  let inv : Half := (nanFlags [x, y]).getD 0
  if (isNan x && isNan y) || (prop && (isNan x || isNan y)) then (f.nan, inv ||| flagNf)
  else
    let (r, v) :=
      if isNan x then (b, y) else if isNan y then (a, x)
      else if (if isMax then minMaxLt x y else minMaxLt y x) then (b, y) else (a, x)
    (r, inv ||| (if isInf v then flagNf else 0))

/-- A signed integer as an exact value. -/
def Fv.ofInt (i : Int) : Fv := if i = 0 then .zero false else .fin (decide (i < 0)) i.natAbs 0 false

/-- Round to an integer under a mode: the integer and whether the value changed (R62, R192). -/
def toIntRound (a : RndArg) (neg : Bool) (m : Nat) (e : Int) : Int × Bool :=
  if 0 ≤ e then ((if neg then -1 else 1) * ((m * 2 ^ e.toNat : Nat) : Int), false)
  else
    let unit := 2 ^ (-e).toNat
    let lo := m / unit
    let rem := m % unit
    let y := if roundsAway a neg (lo % 2 == 1) rem unit false then lo + 1 else lo
    ((if neg then -1 else 1) * (y : Int), rem != 0)

/-- The integer range of a type (R59). -/
def tyRange (t : Ty) : Int × Int :=
  if t.signed then (-(2 ^ (t.width - 1) : Nat), (2 ^ (t.width - 1) : Nat) - 1) else (0, (2 ^ t.width : Nat) - 1)

/-- Float to integer (R62): the result's low bits and the flags. -/
def floatToInt (t : Ty) (a : RndArg) (x : Fv) : Int × Half :=
  let (lo, hi) := tyRange t
  match x with
  | .nan _ => (0, flagInv)
  | .inf n => (if n then lo else hi, flagInv)
  | .zero _ => (0, 0)
  | .fin n m e _ =>
    let (i, inexact) := toIntRound a n m e
    if i < lo then (lo, flagInv) else if hi < i then (hi, flagInv) else (i, if inexact then flagNx else 0)

/-- FRND (R192): the integer-valued number, on the grid of integers. -/
def Fmt.frnd (f : Fmt) (a : RndArg) (c : Nat) : Nat × Half :=
  match f.val c with
  | .nan s => (f.nan, flagNf ||| (if s then flagInv else 0))
  | .inf _ => (c, flagNf)
  | .zero _ => (c, 0)
  | .fin n m e _ =>
    let (i, inexact) := toIntRound a n m e
    let v : Fv := if i = 0 then .zero n else Fv.ofInt i
    ((f.round rneArg false v).1, if inexact then flagNx else 0)

/-- FFRAC (R192): the value minus its integer toward zero, with its sign. -/
def Fmt.ffrac (f : Fmt) (c : Nat) : Nat × Half :=
  match f.val c with
  | .nan s => (f.nan, flagNf ||| (if s then flagInv else 0))
  | .inf _ => (f.nan, flagInv ||| flagNf)
  | .zero n => (if n then f.signBit else 0, 0)
  | .fin n m e _ =>
    let z : Nat := if n then f.signBit else 0
    if 0 ≤ e then (z, 0)
    else
      let r := m % 2 ^ (-e).toNat
      if r = 0 then (z, 0) else ((f.round rneArg false (.fin n r e false)).1, 0)

/-- FCLASS (R191): exactly one bit set; the bits as stored. -/
def Fmt.fclass (f : Fmt) (c : Nat) : Nat :=
  match f.val c with
  | .nan s => if s then 0x100 else 0x200
  | .inf n => if n then 0x001 else 0x080
  | .zero n => if n then 0x008 else 0x010
  | .fin n _ _ _ =>
    if f.subnormal c then (if n then 0x004 else 0x020) else (if n then 0x002 else 0x040)

/-- Scale by a power of two, exactly. -/
def Fv.scale (x : Fv) (k : Int) : Fv :=
  match x with | .fin n m e s => .fin n m (e + k) s | v => v

/-- The exact value of an E3M5 scale code (R58). -/
def e3m5Val (c : Nat) : Fv :=
  let e := c / 32 % 8
  let m := c % 32
  if e = 0 then (if m = 0 then .zero false else .fin false m (-7) false) else .fin false (32 + m) ((e : Int) - 8) false

/-- The exact value of an E8M0 scale code (R58). -/
def e8m0Val (c : Nat) : Fv := if c = 0xFF then .nan false else .fin false 1 ((c : Int) - 127) false

end Sys2Proof.Machine
end

