-- ==== Sys2Proof/WellFormed.lean ====
section
/-! DEFINITION. When an instruction is well formed: its operands fit the fields that encode them and the reading of
R395 finds no field at fault. Events carry no encoding; their arguments are judged where they act. -/

namespace Sys2Proof

/-- A base field of kind v (R142). -/
def isV8 (n : Nat) : Bool := n < 256
/-- A base field of kind s (R142). -/
def isS7 (n : Nat) : Bool := n < 128
/-- A base field of kind t (R142). -/
def isT4 (n : Nat) : Bool := n < 16
/-- A base field of kind q (R142). -/
def isQ3 (n : Nat) : Bool := n < 8
/-- A Horgedo register (R298). -/
def isX (n : Nat) : Bool := n < 16

/-- An extended instruction is well formed when the reading of its own words gives it back without a CODE. -/
def extWf (i : Instr) (maj min : Nat) (x : Opnds) : Bool :=
  match findRow maj min x.raw with
  | none => false
  | some w => x.raw.fits && (match w.read x.raw with | .ok y => y == x | .error _ => false) && w.build x == i

/-- Well-formed base instructions (R142 to R144). -/
def baseWf : Instr → Bool
  | .nopBase d a b => isV8 d && isV8 a && isV8 b
  | .saddBase d a b | .ssubBase d a b | .smulBase d a b | .sandBase d a b | .sorBase d a b | .sxorBase d a b =>
    isS7 d && isS7 a && isS7 b
  | .saddImmBase d a _ | .saddLit d a _ | .smovBase d a => isS7 d && isS7 a
  | .sshlBase d a n | .sshrBase d a n => isS7 d && isS7 a && isV8 n
  | .smovImmBase d _ | .smovLit d _ => isS7 d
  | .qsetLtBase d a b | .qsetEqBase d a b => isQ3 d && isS7 a && isS7 b
  | .braBase _ => true
  | .braqBase q _ _ => isQ3 q
  | .vaddBase d a b | .vsubBase d a b | .vmulBase d a b | .vandBase d a b | .vorBase d a b | .vxorBase d a b
  | .vshlBase d a b | .vshrBase d a b | .faddBase d a b | .fsubBase d a b | .fmulBase d a b | .ffmaBase d a b
  | .fminBase d a b | .fmaxBase d a b => isV8 d && isV8 a && isV8 b
  | .vaddImmBase d a _ | .vaddLit d a _ | .vmovBase d a | .frcpBase d a | .ldsBase d a _ => isV8 d && isV8 a
  | .vmovScalarBase d a => isV8 d && isS7 a
  | .vlaneBase d => isV8 d
  | .ldBase d a b | .stBase d a b => isV8 d && isT4 a && isV8 b
  | .waitBase l s => l < 64 && s < 64
  | .exitBase => true
  | _ => false

/-- Well-formed Horgedo instructions (R302, R303, R299 to R301). -/
def hgWf : Instr → Bool
  | .hgNop => true
  | .hgLi d _ | .hgLui d _ | .hgForq d _ | .hgNextq d _ | .hgNq d => isX d
  | .hgMov d a | .hgAddi d a _ | .hgSlti d a _ | .hgSeqi d a _ => isX d && isX a
  | .hgAdd d a b | .hgSub d a b | .hgMul d a b | .hgAnd d a b | .hgOr d a b | .hgMin d a b | .hgMax d a b
  | .hgSlt d a b | .hgSeq d a b | .hgFit d a b => isX d && isX a && isX b
  | .hgShl d a n | .hgShr d a n => isX d && isX a && n < 32
  | .hgLdq d a f => isX d && isX a && f < 12
  | .hgLdk d a f => isX d && isX a && f < 7
  | .hgLde d f => isX d && f < 10
  | .hgLdw d n => isX d && n < 16
  | .hgStw a n => isX a && n < 16
  | .hgBz a _ | .hgBnz a _ => isX a
  | .hgBr _ => true
  | .hgArgmin d f g | .hgArgmax d f g => isX d && f < 12 && g < 12
  | .hgDecideD a b => isX a && isX b
  | .hgDecideP n => n < 2
  | .hgDecideF n => n < 5
  | _ => false

/-- The CODE of a reserved encoding is one of R370's and its length one of R138's. -/
def reservedWf (code words : Nat) : Bool := 1 ≤ code && code ≤ 11 && (words == 1 || words == 3 || words == 5)

/-- Is this an instruction of a strand or of the policy engine, rather than an event? -/
def Instr.encoded (i : Instr) : Bool := i.ext?.isSome || baseWf i || hgWf i

/-- Well formed. -/
def WellFormed (i : Instr) : Bool :=
  match i.ext? with
  | some (maj, min, x) => extWf i maj min x
  | none =>
    match i with
    | .reservedEncoding c n => reservedWf c n
    | _ => baseWf i || hgWf i

end Sys2Proof
end

