-- ==== Sys2Proof/Decode.lean ====
section
/-! DEFINITION. The decoder: total on any words, a reserved word read as `reservedEncoding` with the CODE of R395 and
its length; then the encoder, written from the same tables. -/

namespace Sys2Proof

/-- Words of an instruction by its L field (R138). -/
def lengthOf (w0 : Nat) : Nat := match w0 % 4 with | 0 => 1 | 1 => 3 | 2 => 3 | _ => 5

/-- A check that fails with a CODE. -/
def need (ok : Bool) (code : Nat) (k : Except Nat Instr) : Except Nat Instr := if ok then k else .error code

/-- Base word, L = 0b00 (R141 to R143), fields checked in the order D, A, B. -/
def decodeBase (w : Nat) : Except Nat Instr :=
  let d := bitsN w 8 8
  let a := bitsN w 16 8
  let b := bitsN w 24 8
  let sss (i : Instr) := need (isS7 d) 1 (need (isS7 a) 2 (need (isS7 b) 3 (.ok i)))
  let ss (i : Instr) := need (isS7 d) 1 (need (isS7 a) 2 (.ok i))
  match bitsN w 2 6 with
  | 0x00 => .ok (.nopBase d a b)
  | 0x01 => sss (.saddBase d a b)
  | 0x02 => ss (.saddImmBase d a (.ofNat 8 b))
  | 0x03 => sss (.ssubBase d a b)
  | 0x04 => sss (.smulBase d a b)
  | 0x05 => sss (.sandBase d a b)
  | 0x06 => sss (.sorBase d a b)
  | 0x07 => sss (.sxorBase d a b)
  | 0x08 => ss (.sshlBase d a b)
  | 0x09 => ss (.sshrBase d a b)
  | 0x0A => need (isS7 d) 1 (need (isS7 a) 2 (need (b == 0) 3 (.ok (.smovBase d a))))
  | 0x0B => need (isS7 d) 1 (need (a == 0) 2 (.ok (.smovImmBase d (.ofNat 8 b))))
  | 0x0C => need (isQ3 d) 1 (need (isS7 a) 2 (need (isS7 b) 3 (.ok (.qsetLtBase d a b))))
  | 0x0D => need (isQ3 d) 1 (need (isS7 a) 2 (need (isS7 b) 3 (.ok (.qsetEqBase d a b))))
  | 0x0E => .ok (.braBase (.ofNat 24 (d * 2^16 + a * 2^8 + b)))
  | 0x0F => need (d / 8 % 16 == 0) 1 (.ok (.braqBase (d % 8) (d / 128 == 1) (.ofNat 16 (a * 2^8 + b))))
  | 0x10 => .ok (.vaddBase d a b)
  | 0x11 => .ok (.vsubBase d a b)
  | 0x12 => .ok (.vmulBase d a b)
  | 0x13 => .ok (.vandBase d a b)
  | 0x14 => .ok (.vorBase d a b)
  | 0x15 => .ok (.vxorBase d a b)
  | 0x16 => .ok (.vshlBase d a b)
  | 0x17 => .ok (.vshrBase d a b)
  | 0x18 => .ok (.vaddImmBase d a (.ofNat 8 b))
  | 0x19 => need (b == 0) 3 (.ok (.vmovBase d a))
  | 0x1A => need (isS7 a) 2 (need (b == 0) 3 (.ok (.vmovScalarBase d a)))
  | 0x1B => need (a == 0) 2 (need (b == 0) 3 (.ok (.vlaneBase d)))
  | 0x1C => .ok (.faddBase d a b)
  | 0x1D => .ok (.fsubBase d a b)
  | 0x1E => .ok (.fmulBase d a b)
  | 0x1F => .ok (.ffmaBase d a b)
  | 0x20 => .ok (.fminBase d a b)
  | 0x21 => .ok (.fmaxBase d a b)
  | 0x22 => need (b == 0) 3 (.ok (.frcpBase d a))
  | 0x23 => need (isT4 a) 2 (.ok (.ldBase d a b))
  | 0x24 => need (isT4 a) 2 (.ok (.stBase d a b))
  | 0x25 => .ok (.ldsBase d a (.ofNat 8 b))
  | 0x26 => need (d == 0) 1 (need (a < 64) 2 (need (b < 64) 3 (.ok (.waitBase a b))))
  | 0x27 => need (d == 0) 1 (need (a == 0) 2 (need (b == 0) 3 (.ok .exitBase)))
  | _ => .error 9

/-- Base word with a literal, L = 0b10 (R144). -/
def decodeBaseLit (w : Nat) (lit : DWord) : Except Nat Instr :=
  let d := bitsN w 8 8
  let a := bitsN w 16 8
  if bitsN w 24 8 ≠ 0 then .error 9
  else
    match bitsN w 2 6 with
    | 0x02 => need (isS7 d) 1 (need (isS7 a) 2 (.ok (.saddLit d a lit)))
    | 0x0B => need (isS7 d) 1 (need (a == 0) 2 (.ok (.smovLit d lit)))
    | 0x18 => .ok (.vaddLit d a lit)
    | _ => .error 9

/-- Extended words (R145), in the order of R395: bit 31, MAJ and MIN, then the row's own fields. -/
def decodeExt (w0 w1 w2 : Nat) (lit : Option DWord) : Except Nat Instr :=
  if bitsN w0 31 1 = 1 then .error 9
  else
    let r := Raw.ofWords w0 w1 w2 lit
    match findRow (bitsN w0 2 6) (bitsN w0 8 8) r with
    | none => .error 9
    | some w =>
      match w.read r with
      | .ok x => .ok (w.build x)
      | .error c => .error c

/-- A literal's two words, low word first (R138). -/
def litOf (lo hi : Nat) : DWord := .ofNat 64 (lo % 2^32 + hi % 2^32 * 2^32)

/-- The instruction at the head of a list of words, with its length; `none` when the list ends before it does. -/
def decodeWords (ws : List Nat) : Option (Instr × Nat) :=
  match ws with
  | [] => none
  | w0 :: rest =>
    let pack (n : Nat) (e : Except Nat Instr) : Instr × Nat :=
      match e with | .ok i => (i, n) | .error c => (.reservedEncoding c n, n)
    match w0 % 4, rest with
    | 0, _ => some (pack 1 (decodeBase w0))
    | 1, w1 :: w2 :: _ => some (pack 3 (decodeExt w0 w1 w2 none))
    | 2, lo :: hi :: _ => some (pack 3 (decodeBaseLit w0 (litOf lo hi)))
    | 3, w1 :: w2 :: lo :: hi :: _ => some (pack 5 (decodeExt w0 w1 w2 (some (litOf lo hi))))
    | _, _ => none

/-- A word of four bytes, low byte first (R3). -/
def wordOfBytes (b0 b1 b2 b3 : Byte) : Nat := b0.toNat + b1.toNat * 2^8 + b2.toNat * 2^16 + b3.toNat * 2^24

/-- The words of a byte string; a tail of fewer than four bytes is no word. -/
def wordsOfBytes : List Byte → List Nat
  | b0 :: b1 :: b2 :: b3 :: rest => wordOfBytes b0 b1 b2 b3 :: wordsOfBytes rest
  | _ => []

/-- The instruction at the head of a byte string. -/
def decodeBytes (bs : List Byte) : Option (Instr × Nat) := decodeWords (wordsOfBytes bs)

/-- Fields of a word: operation, xD, xA and IMM. -/
def hgOp (w : Nat) : Nat := w % 256
/-- xD. -/
def hgD (w : Nat) : Nat := bitsN w 8 4
/-- xA. -/
def hgA (w : Nat) : Nat := bitsN w 12 4
/-- IMM. -/
def hgImm (w : Nat) : Nat := bitsN w 16 16

/-- Which fields an operation uses (R303): xD, xA, and the values that IMM may take. -/
def hgUses (op imm : Nat) : Option (Bool × Bool × Bool) :=
  let reg := imm < 16
  if op = 0x00 then some (false, false, imm = 0)
  else if op ≤ 0x02 then some (true, false, true)
  else if op = 0x03 then some (true, true, imm = 0)
  else if op = 0x05 ∨ op = 0x0F ∨ op = 0x11 then some (true, true, true)
  else if op = 0x08 ∨ op = 0x09 then some (true, true, imm < 32)
  else if op ≤ 0x10 then some (true, true, reg)
  else if op = 0x12 then some (true, true, imm < 12)
  else if op = 0x13 then some (true, true, imm < 7)
  else if op = 0x14 then some (true, false, imm < 10)
  else if op = 0x15 then some (true, false, reg)
  else if op = 0x16 then some (false, true, reg)
  else if op = 0x17 then some (true, false, imm = 0)
  else if op = 0x18 then some (true, true, reg)
  else if op = 0x19 ∨ op = 0x1A then some (false, true, true)
  else if op = 0x1B then some (false, false, true)
  else if op = 0x1C ∨ op = 0x1D then some (true, false, true)
  else if op = 0x1E ∨ op = 0x1F then some (true, false, imm % 16 < 12 ∧ imm / 16 < 12)
  else if op = 0x20 then some (false, true, reg)
  else if op = 0x21 then some (false, false, imm < 2)
  else if op = 0x22 then some (false, false, imm < 5)
  else none

/-- Rule 5: a defined word. -/
def hgWordOk (w : Nat) : Bool :=
  match hgUses (hgOp w) (hgImm w) with
  | some (d, a, ok) => ok && (d || hgD w == 0) && (a || hgA w == 0)
  | none => false

/-- A Horgedo word (R302, R303); `none` for a word the verifier refuses (R306, rule 5). It is not compiled: Lean's runtime
builds no constructor with fields past the 245th of a type (assumption 48). -/
noncomputable def decodeHg (w : Nat) : Option Instr :=
  let d := bitsN w 8 4
  let a := bitsN w 12 4
  let imm := bitsN w 16 16
  let b := imm % 16
  let i16 : Half := .ofNat 16 imm
  let da (i : Instr) : Option Instr := some i
  let reg (i : Instr) : Option Instr := if imm < 16 then some i else none
  let nd (i : Option Instr) : Option Instr := if d = 0 then i else none
  let na (i : Option Instr) : Option Instr := if a = 0 then i else none
  match w % 256 with
  | 0x00 => nd (na (if imm = 0 then some .hgNop else none))
  | 0x01 => na (some (.hgLi d i16))
  | 0x02 => na (some (.hgLui d i16))
  | 0x03 => if imm = 0 then some (.hgMov d a) else none
  | 0x04 => reg (.hgAdd d a b)
  | 0x05 => da (.hgAddi d a i16)
  | 0x06 => reg (.hgSub d a b)
  | 0x07 => reg (.hgMul d a b)
  | 0x08 => if imm < 32 then some (.hgShl d a imm) else none
  | 0x09 => if imm < 32 then some (.hgShr d a imm) else none
  | 0x0A => reg (.hgAnd d a b)
  | 0x0B => reg (.hgOr d a b)
  | 0x0C => reg (.hgMin d a b)
  | 0x0D => reg (.hgMax d a b)
  | 0x0E => reg (.hgSlt d a b)
  | 0x0F => da (.hgSlti d a i16)
  | 0x10 => reg (.hgSeq d a b)
  | 0x11 => da (.hgSeqi d a i16)
  | 0x12 => if imm < 12 then some (.hgLdq d a imm) else none
  | 0x13 => if imm < 7 then some (.hgLdk d a imm) else none
  | 0x14 => na (if imm < 10 then some (.hgLde d imm) else none)
  | 0x15 => na (reg (.hgLdw d imm))
  | 0x16 => nd (reg (.hgStw a imm))
  | 0x17 => na (if imm = 0 then some (.hgNq d) else none)
  | 0x18 => reg (.hgFit d a b)
  | 0x19 => nd (some (.hgBz a i16))
  | 0x1A => nd (some (.hgBnz a i16))
  | 0x1B => nd (na (some (.hgBr i16)))
  | 0x1C => na (some (.hgForq d i16))
  | 0x1D => na (some (.hgNextq d i16))
  | 0x1E => na (if imm % 16 < 12 ∧ imm / 16 < 12 then some (.hgArgmin d (imm % 16) (imm / 16)) else none)
  | 0x1F => na (if imm % 16 < 12 ∧ imm / 16 < 12 then some (.hgArgmax d (imm % 16) (imm / 16)) else none)
  | 0x20 => nd (reg (.hgDecideD a b))
  | 0x21 => nd (na (if imm < 2 then some (.hgDecideP imm) else none))
  | 0x22 => nd (na (if imm < 5 then some (.hgDecideF imm) else none))
  | _ => none

/-- A base word from its fields (R141). -/
def baseWord (op d a b : Nat) : Nat := op * 2^2 + d * 2^8 + a * 2^16 + b * 2^24

/-- The two words of a literal (R138). -/
def litWords (v : DWord) : List Nat := [v.toNat % 2^32, v.toNat / 2^32]

/-- The words of a base instruction (R143, R144). -/
def encodeBase : Instr → Option (List Nat)
  | .nopBase d a b => some [baseWord 0x00 d a b]
  | .saddBase d a b => some [baseWord 0x01 d a b]
  | .saddImmBase d a i => some [baseWord 0x02 d a i.toNat]
  | .saddLit d a v => some ((baseWord 0x02 d a 0 + 2) :: litWords v)
  | .ssubBase d a b => some [baseWord 0x03 d a b]
  | .smulBase d a b => some [baseWord 0x04 d a b]
  | .sandBase d a b => some [baseWord 0x05 d a b]
  | .sorBase d a b => some [baseWord 0x06 d a b]
  | .sxorBase d a b => some [baseWord 0x07 d a b]
  | .sshlBase d a n => some [baseWord 0x08 d a n]
  | .sshrBase d a n => some [baseWord 0x09 d a n]
  | .smovBase d a => some [baseWord 0x0A d a 0]
  | .smovImmBase d i => some [baseWord 0x0B d 0 i.toNat]
  | .smovLit d v => some ((baseWord 0x0B d 0 0 + 2) :: litWords v)
  | .qsetLtBase d a b => some [baseWord 0x0C d a b]
  | .qsetEqBase d a b => some [baseWord 0x0D d a b]
  | .braBase o => some [baseWord 0x0E (o.toNat / 2^16) (o.toNat / 2^8 % 2^8) (o.toNat % 2^8)]
  | .braqBase q n o => some [baseWord 0x0F (q + n.toNat * 128) (o.toNat / 2^8) (o.toNat % 2^8)]
  | .vaddBase d a b => some [baseWord 0x10 d a b]
  | .vsubBase d a b => some [baseWord 0x11 d a b]
  | .vmulBase d a b => some [baseWord 0x12 d a b]
  | .vandBase d a b => some [baseWord 0x13 d a b]
  | .vorBase d a b => some [baseWord 0x14 d a b]
  | .vxorBase d a b => some [baseWord 0x15 d a b]
  | .vshlBase d a n => some [baseWord 0x16 d a n]
  | .vshrBase d a n => some [baseWord 0x17 d a n]
  | .vaddImmBase d a i => some [baseWord 0x18 d a i.toNat]
  | .vaddLit d a v => some ((baseWord 0x18 d a 0 + 2) :: litWords v)
  | .vmovBase d a => some [baseWord 0x19 d a 0]
  | .vmovScalarBase d a => some [baseWord 0x1A d a 0]
  | .vlaneBase d => some [baseWord 0x1B d 0 0]
  | .faddBase d a b => some [baseWord 0x1C d a b]
  | .fsubBase d a b => some [baseWord 0x1D d a b]
  | .fmulBase d a b => some [baseWord 0x1E d a b]
  | .ffmaBase d a b => some [baseWord 0x1F d a b]
  | .fminBase d a b => some [baseWord 0x20 d a b]
  | .fmaxBase d a b => some [baseWord 0x21 d a b]
  | .frcpBase d a => some [baseWord 0x22 d a 0]
  | .ldBase d a b => some [baseWord 0x23 d a b]
  | .stBase d a b => some [baseWord 0x24 d a b]
  | .ldsBase d a i => some [baseWord 0x25 d a i.toNat]
  | .waitBase l s => some [baseWord 0x26 0 l s]
  | .exitBase => some [baseWord 0x27 0 0 0]
  | _ => none

/-- The words of an extended instruction (R145). -/
def encodeExt (maj min : Nat) (x : Opnds) : List Nat :=
  [x.raw.word0 maj min, x.raw.word1, x.raw.word2] ++ (match x.lit with | some v => litWords v | none => [])

/-- A Horgedo word from its fields (R302). -/
def hgWord (op d a imm : Nat) : Nat := op + d * 2^8 + a * 2^12 + imm * 2^16

/-- The word of a Horgedo instruction (R303). -/
def encodeHg : Instr → Option Nat
  | .hgNop => some (hgWord 0x00 0 0 0)
  | .hgLi d i => some (hgWord 0x01 d 0 i.toNat)
  | .hgLui d i => some (hgWord 0x02 d 0 i.toNat)
  | .hgMov d a => some (hgWord 0x03 d a 0)
  | .hgAdd d a b => some (hgWord 0x04 d a b)
  | .hgAddi d a i => some (hgWord 0x05 d a i.toNat)
  | .hgSub d a b => some (hgWord 0x06 d a b)
  | .hgMul d a b => some (hgWord 0x07 d a b)
  | .hgShl d a n => some (hgWord 0x08 d a n)
  | .hgShr d a n => some (hgWord 0x09 d a n)
  | .hgAnd d a b => some (hgWord 0x0A d a b)
  | .hgOr d a b => some (hgWord 0x0B d a b)
  | .hgMin d a b => some (hgWord 0x0C d a b)
  | .hgMax d a b => some (hgWord 0x0D d a b)
  | .hgSlt d a b => some (hgWord 0x0E d a b)
  | .hgSlti d a i => some (hgWord 0x0F d a i.toNat)
  | .hgSeq d a b => some (hgWord 0x10 d a b)
  | .hgSeqi d a i => some (hgWord 0x11 d a i.toNat)
  | .hgLdq d a f => some (hgWord 0x12 d a f)
  | .hgLdk d a f => some (hgWord 0x13 d a f)
  | .hgLde d f => some (hgWord 0x14 d 0 f)
  | .hgLdw d n => some (hgWord 0x15 d 0 n)
  | .hgStw a n => some (hgWord 0x16 0 a n)
  | .hgNq d => some (hgWord 0x17 d 0 0)
  | .hgFit d a b => some (hgWord 0x18 d a b)
  | .hgBz a i => some (hgWord 0x19 0 a i.toNat)
  | .hgBnz a i => some (hgWord 0x1A 0 a i.toNat)
  | .hgBr i => some (hgWord 0x1B 0 0 i.toNat)
  | .hgForq d i => some (hgWord 0x1C d 0 i.toNat)
  | .hgNextq d i => some (hgWord 0x1D d 0 i.toNat)
  | .hgArgmin d f g => some (hgWord 0x1E d 0 (f + g * 16))
  | .hgArgmax d f g => some (hgWord 0x1F d 0 (f + g * 16))
  | .hgDecideD a b => some (hgWord 0x20 0 a b)
  | .hgDecideP n => some (hgWord 0x21 0 0 n)
  | .hgDecideF n => some (hgWord 0x22 0 0 n)
  | _ => none

/-- The words of an instruction of a strand; `none` for a Horgedo instruction or an event. -/
def encode (i : Instr) : Option (List Nat) :=
  match i.ext? with
  | some (maj, min, x) => some (encodeExt maj min x)
  | none => encodeBase i

/-- The five 32-bit words that a table row's bits begin, the bits above them zero. -/
def tableWords (w : Nat) : List Nat :=
  [bitsN w 0 32, bitsN w 32 32, bitsN w 64 32, bitsN w 96 32, bitsN w 128 32]

/-- What a row's bits name: nothing, an instruction of a strand, or one of the policy engine. -/
inductive TableKind where
  | none | strand | policy
deriving DecidableEq, Repr

/-- The two instruction sets share words of 32 bits. A word is read as Rellar when its length under R138 lies within the bits
given and no field is reserved; else as Horgedo; else as Rellar with zeros above. A row with no bits is an event. -/
def tableKind (nbits w : Nat) : TableKind :=
  if nbits = 0 then .none
  else
    match decodeWords (tableWords w) with
    | some (i, n) =>
      let reserved := match i with | .reservedEncoding _ _ => true | _ => false
      if 32 * n ≤ nbits ∧ reserved = false then .strand
      else if nbits ≤ 32 ∧ hgWordOk w = true then .policy
      else .strand
    | none => .none

/-- The instruction that the decoder reads from a row's bits. -/
noncomputable def decodeTableWord (nbits w : Nat) : Option Instr :=
  match tableKind nbits w with
  | .strand => (decodeWords (tableWords w)).map (·.1)
  | .policy => decodeHg w
  | .none => none

end Sys2Proof
end

