-- ==== Sys2Proof/Config.lean ====
section
/-! DEFINITION. The figures of the part (R12, R19) and the values the manual leaves open, as constants with no body. -/

namespace Sys2Proof.Config

/-- Cores of the device (R19). -/
def cores : Nat := 192
/-- Bytes of one core's scratchpad (R12, R19). -/
def spadBytes : Nat := 393216
/-- Bytes of one vault (R15). -/
def vaultBytes : Nat := 4194304
/-- Bytes of main memory: twelve stacks of 64 GiB (R17, R342). -/
def flostraBytes : Nat := 824633720832
/-- Entries of a core clasp (R12). -/
def coreClaspEntries : Nat := 512
/-- Entries of an L2 slice's clasp (R16). -/
def sliceClaspEntries : Nat := 2048
/-- Entries of a switch-port clasp (R19). -/
def portClaspEntries : Nat := 1024
/-- Granules of a core's accumulation memory (R253). -/
def granules : Nat := 256
/-- Entries of a core's TLB (R114). -/
def tlbEntries : Nat := 2048
/-- Entries of the matrix engine's queue (R270). -/
def engineQueue : Nat := 64
/-- Default budget of a decision in policy cycles (R305). -/
def policyBudget : Nat := 96

/-- A free value: what the spec leaves open, drawn afresh at each use. The argument is the State's plain counter
of draws; nothing constrains the result. Unmarked uses are listed in the assumption log. -/
opaque freeValue : Nat → DWord

/-- Is a device's address in the BF16 window of its partition of a fabric binding id (R321)? Device, FABID, address. -/
opaque peerWindow : Nat → Nat → Nat → Bool

/-- Does an RSA signature verify? Modulus, signature, what it covers. RSASSA-PSS is a standard outside the spec (R343). -/
opaque rsaVerifies : List Byte → List Byte → List Byte → Bool
/-- Does an SLH-DSA signature verify? Public key, signature, what it covers. FIPS 205 is a standard outside the spec (R343). -/
opaque slhVerifies : List Byte → List Byte → List Byte → Bool
/-- The fused digest of the RSA public key (R343). -/
opaque rsaFuse : List Byte
/-- The fused digest of the SLH-DSA public key (R343). -/
opaque slhFuse : List Byte
/-- The JobID of a partition of this device (R327): the spec names no register that holds it. -/
opaque jobOf : Nat → Word
/-- The IP address of a device, by pod * 512 + device id (R327): the spec gives it for a queue's peers only (R329). -/
opaque deviceIp : Nat → BitVec 128
/-- SHA-384 of a byte string (R343, R345), a standard outside the spec. -/
opaque sha384 : List Byte → List Byte
/-- The device's RSA-PSS signature over a report (R345). -/
opaque rsaSign : List Byte → List Byte
/-- The device's SLH-DSA signature over a report (R345). -/
opaque slhSign : List Byte → List Byte
/-- The device's serial number, 16 bytes (R345). -/
opaque serial : BitVec 128

end Sys2Proof.Config
end

