-- ==== Sys2Proof/Machine/State.lean ====
section
/-! DEFINITION. The state of one Galzon G9 as plain data: strands and their registers, cores, quarters, memories,
partitions and every unit the manual gives state to; the faults and refusals of a step; the state after reset. -/

namespace Sys2Proof.Machine

open Sys2Proof

/-- The states of a split (R27). -/
inductive SplitSt where
  | free | ready | joining | barrier | parked | trapped
deriving DecidableEq, Repr

/-- The stall reasons of R491. -/
inductive Stall where
  | none | pendant | scoreboard | counterWait | batchWait | barrier | syncWord | tileDependence | matrixBusy | copy
  | fetch | drowsyWake | splitWait | fabric | trap | halted
deriving DecidableEq, Repr

/-- The five counter classes (R134). -/
inductive Ctr where
  | ld | st | cp | mx | ct
deriving DecidableEq, Repr

/-- What a split in state Barrier waits for (R27). -/
inductive BarWait where
  | workgroup (k : Nat)
  | cluster (k round : Nat)
  | take (list : Nat)
deriving DecidableEq, Repr

/-- The redo of an instruction some of whose lanes faulted on translation (R374, R375): the lanes still to perform,
their addresses and, for a store or an atomic, the data captured at the first issue. -/
structure Redo where
  lanes : Mask
  addrs : List DWord
  data : List DWord
  data2 : List DWord
deriving DecidableEq, Repr

/-- Why a split is Parked (R373, R374, R377): the write index its group begins at once the group is written, whether
the park follows a trap, and the redo it holds. -/
structure Park where
  group : Option Word
  byTrap : Bool
  /-- a suspended asynchronous operation holds the split at its delivery point (R377): the op number. -/
  op : Option Nat
  redo : Option Redo
  /-- a FRRESUME or a retry decision covered it while its workgroup was saved (R441). -/
  resume : Bool
deriving DecidableEq, Repr

/-- One split (R27). -/
structure Split where
  st : SplitSt
  pc : VAddr
  mask : Mask
  stall : Stall
  /-- instruction words fetched at `pc`; none until the fetch completes (R390). -/
  words : List Nat
  /-- clock value before which SLEEP holds the split (R170). -/
  wake : Nat
  bar : Option BarWait
  park : Option Park
  /-- a split in Parked or Barrier that was Trapped keeps its privilege (R165, R374). -/
  priv : Bool
  /-- the pass of a matched instruction (R478). -/
  pass : Option VAddr
  /-- the redo a re-issue performs (R375). -/
  redo : Option Redo
  /-- MBOX.wait has posted (R172). -/
  posted : Bool
  /-- its next instruction found the vector pipe busy (R13). -/
  unit : Bool := false
deriving DecidableEq, Repr

/-- One entry of the reconvergence stack (R30). -/
structure Entry where
  joinPc : VAddr
  owner : Nat
  expected : Mask
  arrived : Mask
  pending : Nat
  deferred : Option (VAddr × Mask)
deriving DecidableEq, Repr

/-- The value of a known operand or offset: uniform, affine or per lane (R99, R100). -/
inductive Off where
  | u (x : DWord)
  | a (base stride : Word)
  | g (lanes : List DWord)
deriving DecidableEq, Repr

/-- A recorded float step (R100, R106): kind 1 FADD, 2 FSUB form - k, 3 FSUB k - form, 4 FMUL, 5 FFMA. -/
structure Step where
  kind : Nat
  rnd : Rnd
  fz : Bool
  seed : DWord
  k : Off
  c : Off
  /-- slots of the copies of G operands, in the order k, c (R93, R100). -/
  slots : List Nat
deriving DecidableEq, Repr

/-- A form over an unresolved symbol (R99, R100, R106). -/
structure Form where
  sym : Nat
  float : Bool
  wide : Bool
  scale : DWord
  off : Off
  steps : List Step
deriving DecidableEq, Repr

/-- A vector register by its shape (R90). A 64-bit pair is two entries, the odd one marked PAIRHI. -/
inductive VShape where
  | u (x : Word)
  | a (base stride : Word)
  | g (slot : Nat) (lanes : Lanes)
  | p (slot : Nat) (form : Form)
deriving DecidableEq, Repr

/-- A vector register with its PAIRHI mark (R90). -/
structure VReg where
  shape : VShape
  pairHi : Bool
deriving DecidableEq, Repr

/-- A scalar register: a value or a pendant (R98). -/
inductive SReg where
  | val (x : DWord)
  | pend (form : Form)
deriving DecidableEq, Repr

/-- A translation register (R112); `direct` is cleared by TLBINV and a swap (R113). -/
structure TReg where
  valid : Bool
  base : VAddr
  phys : BitVec 52
  limit : DWord
  w : Bool
  far : Bool
  nc : Bool
  fmt : BitVec 4
  geom : BitVec 4
  size : BitVec 2
  direct : Bool
deriving DecidableEq, Repr

/-- The register file of a strand (R88). -/
structure Regs where
  v : AMap VReg
  s : AMap SReg
  p : AMap Mask
  q : AMap Bool
  t : AMap TReg
  /-- operand copies held until their symbol resolves: symbol and slot (R93). -/
  held : List (Nat × Nat) := []
  /-- form records taken and not freed: the register (a scalar n at 2048 + n) and its symbol (R98, R102). -/
  recs : List (Nat × Nat) := []
deriving DecidableEq, Repr

/-- The context of a strand that ESAVE.ctx writes and ELOAD.ctx loads (R105). -/
structure Ctx where
  regs : Regs
  splits : List Split
  stack : List Entry
  mode : DWord
  gang : DWord
  tcause : DWord
  tpc : DWord
  tinfo : DWord
  tvec : DWord
  spillp : DWord
  dbgmb : DWord
  tmask : Mask
deriving DecidableEq, Repr

/-- A physical place: main memory, a scratchpad byte (core times its size plus offset), a vault byte (30 bits), host
memory beyond the bridge (R332), another device's memory. -/
inductive Place where
  | flostra | spad | vault | host | peer
  /-- a partition's doorbell page (R277): partition times 65,536 plus the offset. -/
  | bell
deriving DecidableEq, Repr

/-- One lane's access: its place and address there, and the page's format for a formatted page (R115). -/
structure Acc where
  lane : Nat
  place : Place
  pa : Nat
  va : DWord
deriving DecidableEq, Repr

/-- One lane's element of a formatted page (R115): the frame's place and first byte, the element's offset, the page's
FMT and GEOM. -/
structure Elem where
  lane : Nat
  place : Place
  frame : Nat
  off : Nat
  fmt : Nat
  geom : Nat
  va : DWord
deriving DecidableEq, Repr

/-- A destination of a load (R148). -/
inductive Dst where
  | v (n : Nat) (wide : Bool) | s (n : Nat) | none
deriving DecidableEq, Repr

/-- The operations of ATM (R220). -/
inductive AtmOp where
  | add | and | or | xor | min | max | xch | cas | inc
deriving DecidableEq, Repr

/-- An arrival's target: a sync word or counter in a space (R227, R235). -/
structure SyncRef where
  space : Space
  addr : DWord
deriving DecidableEq, Repr

/-- An update of a sync word or memory counter (R228, R234, R235). -/
inductive SyncUpd where
  | arm (pending : Word) (epoch : Byte)
  | arrive (n : Word) (flags : Half)
  | add (d : DWord)
deriving DecidableEq, Repr

/-- The remote accesses (R237). -/
inductive RmtKind where
  | load | store | atomic (op : AtmOp) | ctr | sync
deriving DecidableEq, Repr

/-- A remote operation toward one peer (R237 to R239): its lanes' addresses and data as captured at issue, the packets
not yet answered (plane, sequence number, lane) and the lanes refused or failed there. -/
structure Remote where
  kind : RmtKind
  peer : Nat
  incarn : Half
  ty : Ty
  lanes : List (Nat × DWord)
  data : List DWord
  data2 : List DWord
  dst : Dst
  /-- values returned for a .late load, lane by lane. -/
  got : AMap DWord
  wait : List (Nat × Word × Nat)
  refused : List (Nat × DWord)
deriving DecidableEq, Repr

/-- A reduction node in flight or held (R77, R123): handle, element, label, value (`none` is ABSENT) and flags. -/
structure Node where
  part : Nat
  handle : Word
  elem : Nat
  level : Nat
  index : Nat
  val : Option DWord
  flags : Half
  /-- the contributing strand and op, credited when the node is accepted (R223). -/
  src : Option (Nat × Nat)
  /-- clock when held. -/
  since : Nat
  /-- its slice holds it back (R124, R430). -/
  back : Bool := false
  /-- the device or switch port that sent it, by `pktFlow`; none for one of this device (R460). -/
  dev : Option Nat := none
  /-- the core in whose clasp it stays while its slice holds it back (R430). -/
  core : Option Nat := none
  /-- the incarnation of its target with which a switch port received it (R320). -/
  inc : Option Half := none
deriving DecidableEq, Repr

/-- A matrix operand as captured at issue (R255, R257). -/
structure MatRef where
  addr : DWord
  stride : Nat
  fmt : Ty
  space : Space
  trans : Bool
  /-- stored rows and columns and the origins, when taken through a record (R257). -/
  viaRec : Option (Nat × Nat × Nat × Nat)
deriving DecidableEq, Repr

/-- The matrix operations (R254). -/
inductive MxKind where
  | free
  | zero (abs : Bool)
  | load (ty : Ty) (src : MatRef) (rows cols : Nat)
  | mma (a b : MatRef) (m n k : Nat) (fin : Bool)
  | fin
  | store (ty : Ty) (dst : MatRef) (rows cols : Nat) (row0 col0 : Nat) (rnd : Rnd) (sat : Bool) (seed : DWord)
  | ctb (handle : Word) (i0 j0 rows cols : Nat) (e0 stride : Nat) (level index : Nat)
deriving DecidableEq, Repr

/-- A copy operation (R241 to R244) with its progress (R379). -/
structure CopyOp where
  dstSpace : Space
  dst : DWord
  srcSpace : Space
  src : DWord
  rowBytes : Nat
  rows : Nat
  dstStride : Int
  srcStride : Int
  /-- receivers of a CPYM: each core with its allocation base, served or not. -/
  recv : List (Nat × Nat × Bool)
  multi : Bool
  sync : Option SyncRef
  /-- bytes written so far, in sectors of 128 (R379). -/
  written : Nat
  /-- the source of a CPYM, once it is read: destination, length and bytes of each sector (R243). -/
  data : Option (List (Nat × Nat × Nat)) := none
  /-- the workgroup resident at each receiver of a CPYM at issue (R406). -/
  wgs : List Nat := []
deriving DecidableEq, Repr

/-- What an asynchronous operation does when it performs. -/
inductive OpBody where
  /-- a load of `w` bits per lane with its extension, into a destination. -/
  | load (accs : List Acc) (ty : Ty) (dst : Dst)
  /-- LDT (R214): row addresses are lane 0's plus r times the stride. -/
  | loadT (accs : List Acc) (dst : Nat)
  /-- LDF (R216): formatted elements: frame, element offset, format, GEOM per lane. -/
  | loadF (els : List Elem) (toTy : Ty) (rnd : Rnd) (fz : Bool) (seed : DWord) (dst : Nat)
  | store (accs : List Acc) (ty : Ty) (data : List DWord)
  /-- STF (R217). -/
  | storeF (els : List Elem) (rnd : Rnd) (sat fz : Bool) (seed : DWord) (data : List DWord)
  | atomic (accs : List Acc) (op : AtmOp) (ty : Ty) (c : List DWord) (e : List DWord) (nr : Bool) (dst : Nat)
  /-- an access carried by the fabric to a peer (R237). -/
  | remote (r : Remote)
  | copy (c : CopyOp)
  | swap (near far : DWord) (sync : Option SyncRef)
  | mx (k : MxKind) (tile : Nat) (sync : Option SyncRef)
  /-- CTB and CTBN nodes not yet accepted (R223). -/
  | contribute (left : Nat)
  /-- a sync word or counter update in flight. -/
  | sync (place : Place) (pa : Nat) (u : SyncUpd)
  /-- kernel-constant load (R219). -/
  | loadC (offs : List (Nat × Nat)) (ty : Ty) (dst : Dst)
deriving DecidableEq, Repr

/-- An operation in flight of a strand, with its record (R134, R271). -/
structure Op where
  id : Nat
  /-- op record number of its core (R271); 0 for loads and stores, which have none. -/
  recNo : Nat
  cls : Ctr
  pc : VAddr
  words : List Nat
  body : OpBody
  /-- the symbol of a .late load (R98). -/
  sym : Option Nat
  acq : Bool
  rel : Bool
  scope : Nat
  /-- performed and waiting to retire behind older operations of its class (R134). -/
  done : Bool
  started : Bool
  /-- rows of finished bands (R271). -/
  rows : Nat
  flags : Half
  /-- suspended under a fault group (R376): class and subclass. -/
  susp : Option (Nat × Nat)
  group : Option Word
  /-- batch number of a closed batch (R232). -/
  batch : Option Half
  /-- joint operation number (R43); 0 while it waits in the latch. -/
  joint : Option Nat
  /-- it has an op record (R271, R376). -/
  hasRec : Bool := false
  /-- the scalars it read at issue, as its record holds them (R271, R376). -/
  scalars : List DWord := []
  /-- the tile whose nodes a CTBM has sent (R260, R269). -/
  sentOf : Option Nat := none
  /-- the lanes and the slot of the split that issued it (R29, R129). -/
  lanes : Mask := BitVec.allOnes 256
  slot : Nat := 0
  /-- acquires after an unresolved .late load (R132): the id from which later operations follow it, for the lanes given. -/
  fences : List (Nat × Mask) := []
  /-- what the lanes of a suspended .late load that have performed hold (R424). -/
  held : List (Nat × DWord) := []
deriving DecidableEq, Repr

/-- An unresolved symbol (R98): the load's lanes, captured addresses and the old values of the lanes outside. -/
structure Sym where
  num : Nat
  op : Nat
  space : Space
  mask : Mask
  addrs : List DWord
  old : List DWord
  words : List Nat
  /-- the symbol that carries the destination, where a load for several peers took one for each (R239). -/
  lead : Option Nat := none
deriving DecidableEq, Repr

/-- A tile of the accumulation memory (R252). Elements and spines not listed are +0 and empty. -/
structure Tile where
  rows : Nat
  cols : Nat
  fp : Bool
  depth : Nat
  vals : AMap (Option Word)
  /-- per element, nodes of the spine, youngest first: level and value (R86). -/
  spines : AMap (List (Nat × Option Word))
  /-- the element values when the run began need no field: they stay in `vals` until MXFIN (R264). -/
  n : Nat
  flags : Half
  /-- run count as the issue order sees it (R407). -/
  nIssue : Nat
  /-- an MXFREE has issued (R260). -/
  freeing : Bool
  /-- op record number and rows of the last completed operation on the tile (R271). -/
  last : Option (Half × Nat)
deriving DecidableEq, Repr

/-- The phases of a strand (R25). -/
inductive Phase where
  | granted | running | exited
deriving DecidableEq, Repr

/-- A strand as it stood at entry to its handler (R175, R442): its context, the counters LD, ST, CP, MX and CT, the gang
sequence number, the batch state and the id its next operation then had. -/
structure AtEntry where
  ctx : Ctx
  counts : List Nat
  gangSeq : Half
  batch : Half
  closed : Nat
  opNext : Nat
deriving DecidableEq, Repr

/-- One strand (R24). Its key is core * 128 + quarter * 32 + slot; the strands of a saved workgroup are kept under keys
of their own (Wgs.lean). -/
structure Strand where
  phase : Phase
  part : Nat
  wg : Nat
  /-- index in the workgroup (R41). -/
  idx : Nat
  /-- log2 of G and the block's first slot (R93, R95). -/
  logG : Nat
  block : Nat
  ctx : Ctx
  savep : DWord
  gangSeq : Half
  /-- the key under which GANG names the strand (R42): its key when it was granted or last wrote GANG. -/
  name : Nat
  /-- the split that issued last (R28). -/
  last : Nat
  /-- the Trapped split that holds the others (R171, R371). -/
  hold : Option Nat
  /-- the context at handler entry (R175, R442). -/
  atEntry : Option AtEntry
  /-- a context loaded by ELOAD.ctx, effective at TRET, with its symbol records (R443). -/
  loaded : Option (Ctx × List Sym)
  syms : List Sym
  /-- operations in flight, oldest first. -/
  ops : List Op
  /-- id of the next operation. -/
  opNext : Nat
  /-- asynchronous faults to deliver: class, subclass, op record number, counter class (R377). -/
  due : List (Nat × Nat × Nat × Ctr)
  /-- next batch number and the closed batches not retired, oldest first (R232). -/
  batch : Half
  closed : List Half
  tiles : AMap (Option Tile)
  halted : Bool
  /-- clock of the grant and of the last issue (R492, R445). -/
  granted : Nat
  lastIssue : Nat
  /-- cycles of waiting that the watchdog has counted (R445), and whether it is off (R446). -/
  watch : Nat
  watchOff : Bool
  /-- a reply word held for MBOX.wait (R485). -/
  reply : Option Word
  /-- lanes that have executed EXIT (R26). -/
  exited : Mask := 0
  /-- it is the only strand of its workgroup, which then has no observer but itself (R131). -/
  alone : Bool := false
  /-- clock of the last access to each slot of the block (R104). -/
  touched : AMap Nat := []
  /-- asynchronous faults to deliver whose group has been written, with the index where it begins (R370, R377). -/
  dueAt : List ((Nat × Nat × Nat × Ctr) × Word) := []
deriving DecidableEq, Repr

/-- An entry of a core's TLB (R114): partition, first address of the page, page size code and leaf entry. -/
structure TlbEnt where
  part : Nat
  va : Nat
  size : Nat
  leaf : DWord
  /-- physical address of the leaf entry. -/
  ent : Nat
deriving DecidableEq, Repr

/-- A walk that ended in a fault and has not yet been reported to its lanes (R410). -/
structure WalkFail where
  req : WalkReq
  sub : Nat
  /-- physical address of the table entry at which the walk failed (R411). -/
  ent : Nat
deriving DecidableEq, Repr

/-- A core: TLB, walks, clasp, matrix engine queue and op record counter (R12, R114, R123, R270, R271). -/
structure CoreSt where
  tlb : List TlbEnt
  walks : List WalkReq
  fails : List WalkFail
  clasp : List Node
  opNext : Half
  /-- operations the engine has accepted, oldest first: strand key and op id. -/
  engine : List (Nat × Nat)
  quarantined : Bool
  /-- the scratchpad and vault are being cleared (R348). -/
  clearing : Bool
  /-- the partition that held it last (R348). -/
  owner : Option Nat
  /-- workgroups whose move off the quarantined core is not over (R386). -/
  evac : List Nat
  /-- clasp entries disabled (R387). -/
  dead : Nat := 0
  /-- a cell of it has been found lastingly faulty (R384, R386). -/
  failing : Bool := false
  /-- words that the instruction cache holds, key partition * 2^57 + virtual address (R140). -/
  icache : List (Nat × Nat) := []
  /-- workgroups whose scratchpad allocations a compaction has still to move, the next first (R452). -/
  spadMoves : List Nat := []
deriving DecidableEq, Repr

/-- A register write that a dump holds (R488). -/
structure HeldWrite where
  strand : Nat
  op : Nat
  resolution : Bool
deriving DecidableEq, Repr

/-- A split due to enter the debug agent (R477, R481): why, the lanes that a watchpoint matched, and the clock at the stop cycle. -/
structure Entering where
  strand : Nat
  slot : Nat
  reason : Nat
  lanes : Mask
  since : Nat
  /-- QSTOP shows the stop already; not so at the end of a step till its cycle is over (R482). -/
  noted : Bool := true
deriving DecidableEq, Repr

/-- A quarter: block allocator, stop register, comparators and counters (R95, R476, R478, R492). -/
structure QuarterSt where
  /-- free blocks: start and size, ascending start. -/
  free : List (Nat × Nat)
  /-- blocks of strands that left Exited and have writes outstanding: start, size, writes left (R96). -/
  draining : List (Nat × Nat × Nat)
  /-- blocks still to be moved by a compaction: strand key and new start (R97). -/
  moves : List (Nat × Nat)
  /-- the placement a compaction serves: source to retry (R97). -/
  retry : Option Nat
  /-- drowsy slots: strand key and slot index (R104). -/
  drowsy : List (Nat × Nat)
  qhist : AMap DWord
  qstall : AMap DWord
  stopped : Bool
  req : Bool
  agent : Bool
  dumping : Bool
  cause : Nat
  slot : Nat
  comp : Nat
  cycle : Word
  /-- the split that may issue while stopped: the one that wrote REQ, or the one stepping (R476, R482). -/
  exempt : Option (Nat × Nat)
  /-- the splits due to enter the agent (R481). -/
  entering : List Entering
  /-- a stepping split: its next issue re-enters the agent (R482). -/
  stepping : Option (Nat × Nat)
  dbgia : AMap DWord
  held : List HeldWrite
  /-- address of the dump in progress. -/
  dumpAt : DWord
  issued : DWord
  /-- strand key that issued last. -/
  last : Nat
  /-- the strand that YIELD made the last candidate of the next choice (R170). -/
  yielder : Option Nat
  /-- the clock up to which QHIST and QSTALL have been counted (R492). -/
  since : DWord
  /-- the clock from which the vector pipe takes a next instruction (R13). -/
  pipe : Nat := 0
  /-- the clock at which the quarter resumes after the agent's TRET (R482). -/
  resumeAt : Option Nat := none
deriving DecidableEq, Repr

/-- A kernel descriptor as read at acceptance (R160). -/
structure Kernel where
  addr : DWord
  entry : VAddr
  strands : Nat
  logG : Nat
  scalars : Nat
  tiles : Nat
  spad : Nat
  vault : Nat
  coop : Bool
  stage : Option Nat
  args : Nat
  expected : Nat
  dieHint : Nat
deriving DecidableEq, Repr

/-- What a workgroup is doing (R40, R436, R381). -/
inductive WgPhase where
  | running | saving | saved | killed | restoring
deriving DecidableEq, Repr

/-- A workgroup: resident or saved (R37 to R41, R438). -/
structure Wg where
  phase : WgPhase
  part : Nat
  source : Nat
  queue : Nat
  rcb : Nat
  kernel : Kernel
  grid : Nat × Nat × Nat
  lin : Nat
  seq : DWord
  home : Nat
  cluster : Nat
  spread : Bool
  /-- strand keys in index order. -/
  strands : List Nat
  spadBase : Nat
  vaultAddr : Nat
  /-- kernel-constant space (R109). -/
  consts : List Byte
  yield : Bool
  retries : Nat
  /-- charge accumulated by strands that left Exited (R292). -/
  charge : Nat
  quarantine : Bool
  /-- pool granules of a saved workgroup: first and count (R435). -/
  pool : Nat × Nat
  /-- strand slots held until the workgroup retires, is saved or killed (R40, R444). -/
  slots : List Nat
  /-- clock of the placement (R301). -/
  since : Nat
  /-- the kill of a job has written its record (R366). -/
  job : Bool
  /-- a record that restores to its own cluster (R439). -/
  pinned : Bool
  /-- clock of a save's start (R436). -/
  saveAt : Nat := 0
  /-- the displacing decision whose outcome the save settles (R436): die, policy version and cycles. -/
  verdict : Option (Nat × Half × Nat) := none
  /-- the contexts and tile images of its record as the save wrote them (R440). -/
  image : List Host.Cell := []
deriving DecidableEq, Repr

/-- A source of workgroups: a started launch or a pipeline stage (R287, R293). -/
structure Source where
  part : Nat
  queue : Nat
  pkt : Nat
  pipe : Option Nat
  rcb : Nat
  kernel : Kernel
  grid : Nat × Nat × Nat
  total : Nat
  next : Nat
  cap : Nat
  args : List Byte
  argAddr : DWord
  seq : DWord
  event : DWord
  resident : Nat
  /-- saved workgroups in the order of their saves (R439). -/
  saved : List Nat
  removed : Bool
  readySince : Nat
  /-- dies on which it was ready, and dies on which only room was wanting, when last judged (R293, R294). -/
  readyDies : List Nat
  wantDies : List Nat
deriving DecidableEq, Repr

/-- A pipeline in progress (R48 to R52). -/
structure Pipe where
  part : Nat
  queue : Nat
  pkt : Nat
  lists : List DWord
  sources : List Nat
  quiet : Bool
  /-- stage and list of the APPENDs made so far: the lists a stage appends to (R51). -/
  appends : List (Nat × DWord)
deriving DecidableEq, Repr

/-- The stages of an accepted packet (R286). -/
inductive PktSt where
  | waiting | issued
deriving DecidableEq, Repr

/-- An accepted packet (R276, R281 to R283): its 16 words and what acceptance copied. -/
structure QPkt where
  queue : Nat
  part : Nat
  idx : Nat
  words : List Nat
  kernels : List Kernel
  args : List Byte
  st : PktSt
  /-- the detail of the SCHED 0x05 record with which it completes failed (R382, R449). -/
  failed : Option Nat
deriving DecidableEq, Repr

/-- The frozen S fields of an Open or Complete domain generation, with its progress (R80, R81, R84). -/
structure Dom where
  part : Nat
  slot : Nat
  gen : Nat
  leaves : Nat
  elems : Nat
  fmt : Ty
  overwrite : Bool
  scope : Nat
  scale : Int
  base : DWord
  spill : DWord
  spillLog : Nat
  sync : DWord
  ctr : DWord
  inc : Word
  quota : Nat
  group : Nat
  sBytes : List Byte
  /-- elements whose final write is done, ascending. -/
  written : List Nat
  flags : Half
  spillCount : AMap Nat
  /-- per slice, the elements found doubly covered with a label each (R429). -/
  overlap : AMap (List (Nat × DWord))
  /-- elements voided by a double coverage (R429). -/
  void : List Nat
  /-- per slice with an episode of back-pressure: arrivals held back in it, the lowest element and its node's label (R427, R430). -/
  full : AMap (Nat × Nat × DWord)
  /-- per slice a write that did not translate: the write index of its group, once written (R431). -/
  stuck : AMap (Option (Option Word))
  /-- what sent the node in a spill slot, key slot address (R460). -/
  spillDev : List (Nat × Nat) := []
deriving DecidableEq, Repr

/-- A joint operation in progress (R43): its members' strand keys and op ids. -/
structure Joint where
  members : List (Nat × Nat)
  /-- operand B by columns, once it is read: code, block scale and band scale of each element not outside (R273). -/
  b : Option (List (List (Option (Nat × Nat × Nat)))) := none
deriving DecidableEq, Repr

/-- An entry of a cluster's rendezvous latch (R43). -/
structure LatchEnt where
  part : Nat
  gang : DWord
  seq : Half
  members : List (Nat × Nat)
deriving DecidableEq, Repr

/-- A cluster barrier's round in progress (R233). -/
structure CBar where
  need : Nat
  round : Nat
  arrived : List Nat
deriving DecidableEq, Repr

/-- The exchange a swap engine runs (R127). -/
structure Swap where
  part : Nat
  near : Nat
  far : Nat
  /-- the pages' virtual addresses and the completion sync word of the SWAPF (R245). -/
  nearVa : Nat
  farVa : Nat
  sync : Option SyncRef
  wg : Nat
  strand : Nat
  op : Nat
  sectors : Nat
  /-- sectors exchanged: redirect bits 0 to `at_` - 1 are set. -/
  at_ : Nat
  /-- the two leaf entries, by address, and what they held when SWP was set (R418). -/
  nearEnt : Nat := 0
  farEnt : Nat := 0
  nearLeaf : DWord := 0
  farLeaf : DWord := 0
  /-- the SWAPF's op record number (R417). -/
  recNo : Half := 0
deriving DecidableEq, Repr

/-- A fault record (R365). -/
structure Rec where
  cls : Nat
  sub : Nat
  precise : Bool
  outcome : Nat
  strand : Option Nat
  op : Option Half
  rcb : Word
  version : Half
  decision : Option Nat
  retries : Nat
  pc : VAddr
  addr : DWord
  mask : Mask
  /-- the core that a record of class CORE is about, which has no strand (R365). -/
  core : Option Nat := none
deriving DecidableEq, Repr

/-- A group of records waiting for room or for its write (R366, R369); `split` is a parked split that waits, `op` a
suspended operation, `dom` a suspended write of a domain at a slice (R431). -/
structure Group where
  recs : List Rec
  split : Option (Nat × Nat)
  op : Option (Nat × Nat)
  dom : Option (Word × Nat) := none
  /-- the faults that it tells of and that strands will take at a wait (R377): strand key and fault. -/
  due : List (Nat × (Nat × Nat × Nat × Ctr)) := []
  /-- the packet that completes once the group is written: queue and index (R382). -/
  pkt : Option (Nat × Nat) := none
deriving DecidableEq, Repr

/-- A fault routed to the policy (R294, R364). -/
structure FaultEv where
  part : Nat
  wg : Option Nat
  split : Option (Nat × Nat)
  op : Option (Nat × Nat)
  fault : Rec
  core : Nat
  /-- the strand that takes the fault of an operation that goes on, at its wait on a counter class (R416, R422). -/
  tell : Option (Nat × Ctr) := none
deriving DecidableEq, Repr

/-- The event kinds of R294. -/
inductive EvKind where
  | dispatch | preempt | fault
deriving DecidableEq, Repr

/-- A policy program in force or staged (R305, R309). -/
structure Policy where
  version : Half
  code : List Nat
  entries : List Nat
  budget : Nat
  scratch : List Word
  /-- the words of its image (R305). -/
  words : List Nat := []
deriving DecidableEq, Repr

/-- A decision in progress (R298, R301): the event, the registers and the snapshot of the views. -/
structure Decision where
  kind : EvKind
  part : Nat
  prog : Policy
  pc : Nat
  x : List Word
  scratch : List Word
  cycles : Nat
  /-- visible sources in view order, with their twelve fields (R299). -/
  view : List (Nat × List Word)
  /-- core view, seven fields a core (R300). -/
  cores : List (List Word)
  /-- event fields (R301). -/
  ev : List Word
  /-- FIT of R303: per visible source, the die-local cores that fit. -/
  fits : List (List Nat)
  core : Option Nat
  victim : Option Nat
  flt : Option FaultEv
  /-- a DECIDE has ended it: the operands chosen. -/
  chosen : Option (Int × Int)
deriving DecidableEq, Repr

/-- A die's policy engine (R298) and its dispatcher's pending events. -/
structure DieSt where
  dec : Option Decision
  /-- partitions with a DISPATCH pending, the core whose room freed and the source that became ready (R294, R301). -/
  dispatch : List (Nat × Option Nat × Option Nat)
  /-- PREEMPT events: partition and arriving source. -/
  preempt : List (Nat × Nat)
  faults : List FaultEv
  swap : Option Swap
  decisions : DWord
  policyCycles : DWord
deriving DecidableEq, Repr

/-- One partition's copy of the policy on a die: the program in force, the image waiting and DRR's pointer. -/
structure PolDie where
  active : Policy
  staged : Option Policy
  rr : Nat
deriving DecidableEq, Repr

/-- A partition: its management block, registers, fault ring and policy (R308, R318, R338, R339, R368, R477). -/
structure Part where
  /-- registers k = 0 to 15 of the partition block (R338). -/
  block : AMap DWord
  spbase : DWord
  spsize : DWord
  /-- FABCFG and the table bases, k = 0 to 6 (R318). -/
  fab : AMap DWord
  polimg : DWord
  shadow : Nat
  reason : Nat
  wcet : Nat
  rejects : Half
  invalid : Half
  overruns : Word
  version : Half
  /-- words of the image being verified (R309). -/
  verify : Option (List Nat)
  polWest : PolDie
  polEast : PolDie
  frread : Word
  frresume : Word
  /-- log2 of the ring's slot count, read when the partition becomes live (R367). -/
  ringLog : Nat
  groups : List Group
  irq : AMap Nat
  dbgsel : DWord
  dbgdaddr : DWord
  dbgwp : AMap DWord
  trbase : DWord
  trctl : DWord
  tridx : Word
  /-- save-pool granules in use (R435). -/
  pool : List (Nat × Nat)
  /-- clock of the last rollover, or at going live (R292). -/
  period : Nat
  /-- cores removed from the masks that still hold a resident workgroup (R336). -/
  leaving : List Nat
  /-- the word last written to the debug-mailbox doorbell (R172). -/
  mbox : DWord := 0
  /-- queues that had a ready source when last judged (R295). -/
  credit : List Nat := []
  /-- nodes that the device has found VALID (R290). -/
  valid : List Nat := []
  /-- POLIMG as the LOAD in progress found it (R309). -/
  loadAt : DWord := 0
deriving DecidableEq, Repr

/-- A Chaelo or Ultra Ethernet port (R312, R454, R455, R494). -/
structure Port where
  trained : Bool
  up : Bool
  lanes : Nat
  /-- frames in the hop's replay buffer, oldest first (R316). -/
  replay : List Pkt
  crcRetry : DWord
  spurious : DWord
  staleInc : DWord
  swDrop : DWord
  ueRetx : DWord
  sent : DWord
  received : DWord
  /-- frames dropped for another EtherType than ETYPE (R314). -/
  etypeDrop : DWord := 0
deriving DecidableEq, Repr

/-- A flow out to a device on a plane, and the flow in from it (R316, R457). -/
structure Flow where
  next : Word
  /-- sent and not acknowledged, oldest first, with the clock of the last send and resends made. -/
  unacked : List (Pkt × Nat × Nat)
  /-- next sequence number to perform, inward. -/
  inNext : Word
  /-- the receiver performs no more of it (R457). -/
  recovering : Bool
  /-- clock of the last FABRIC 0x03 record and duplicates since (R459). -/
  dupAt : Option Nat := none
  dupCount : Nat := 0
  /-- packets above the next expected number (R459). -/
  ahead : List Pkt := []
  /-- a recovery query is out: packets join the flow and go out with its recovery (R457). -/
  asking : Bool := false
deriving DecidableEq, Repr

/-- What the device knows of another device of the pod (R456, R462). -/
structure Peer where
  incarn : Half
  planes : DWord
  lost : Bool
  heard : Nat
  /-- clock of the last FABRIC 0x04 record and drops since (R463). -/
  staleAt : Option Nat := none
  staleCount : Nat := 0
  /-- planes on which resends have run out (R458). -/
  dead : DWord := 0
  /-- clock from which no plane has reached it (R462). -/
  cutAt : Option Nat := none
deriving DecidableEq, Repr

/-- A node or root packet, of this device or of a switch port, answered not-ready, and since when (R325). -/
structure NotReady where
  pkt : Pkt
  since : Nat
  /-- clock of the last answer, and the sequence number under which it is on its way again. -/
  last : Nat
  sent : Option Word
deriving DecidableEq, Repr

/-- An Ultra Ethernet ring entry in progress, or with k = 64 a packet of a system domain (R328, R469, R472): its packet, and
while a node or root is answered not-ready the clocks of the first answer and of the last (R325). -/
structure UeEntry where
  part : Nat
  k : Nat
  idx : Nat
  words : List Nat
  resends : Nat
  since : Nat
  pkt : UetPkt
  /-- the target has acknowledged every byte of a write. -/
  acked : Bool := false
  early : Option (Nat × Nat) := none
deriving DecidableEq, Repr

/-- The fabric endpoint (R312 to R330). -/
structure Fabric where
  ports : AMap Port
  flows : AMap Flow
  peers : AMap Peer
  /-- frames this device has sent, in order: what the switches carry away. -/
  outbox : List Pkt
  uetOut : List UetPkt
  notReady : List NotReady
  /-- generations of packets refused as stale for which DOMAIN 0x06 has been written: partition and handle (R325). -/
  staleGens : List (Nat × Word)
  portClasps : AMap (List Node)
  /-- Ultra Ethernet queues' applied WIDX and read index, key part * 64 + k. -/
  ueWidx : AMap Word
  ueRead : AMap Word
  ue : List UeEntry
  /-- entropy values excluded from spraying: part, peer, entropy, until (R471). -/
  excluded : List (Nat × Nat × Nat × Nat)
  announced : Nat
  dropped : DWord
  /-- what the last host read found (R342). -/
  hostData : Option DWord := none
  /-- ROD entries sent of an Ultra Ethernet queue, key part * 64 + k, and the order last performed of a sender's queue, key
  (sender * 16 + part) * 64 + k, with the session that the sender's incarnation makes (R328). -/
  rodSent : AMap Nat := []
  rodDone : AMap (Half × Nat) := []
  /-- RUD entries performed here: the sender's queue, its session, the ring index, and the answer given (R327). -/
  uetSeen : List (Nat × Half × Nat × UetBody) := []
  /-- the last packets of a peer's entropy value: part, peer, entropy, and for each whether it was lost, the latest first (R471). -/
  losses : List ((Nat × Nat × Nat) × List Bool) := []
  /-- ports that have answered a bad frame with a negative acknowledgment, in order (R454). -/
  naks : List Nat := []
deriving DecidableEq, Repr

/-- Device management outside the partitions: boot, identity, attestation and power (R314, R343 to R347). -/
structure Boot where
  stage : Nat
  rsaok : Bool
  slhok : Bool
  svn : Word
  refuse : Bool
  fuseSvn : Word
  image : List Byte
  /-- entry offset of the running image (R343). -/
  entry : Word := 0
  /-- the group of devices that firmware names, the bridge device first (R331, R342); none where it names no group. -/
  group : List Nat := []
  devid : BitVec 9
  incarn : Half
  /-- the incarnation of the last start (R314). -/
  lastIncarn : Half := 0
  pod : Half
  etype : Half
  attBusy : Bool
  attErr : Bool
  attAddr : DWord
  attPart : Nat
  thr : Bool
  freq : BitVec 8
  meas : Half
  cap : Half
deriving DecidableEq, Repr

/-- An L2 slice's clasp and counters (R16, R124, R494). -/
structure Slice where
  clasp : List Node
  counts : AMap DWord
  /-- clasp entries disabled (R387). -/
  dead : Nat := 0
deriving DecidableEq, Repr

/-- A word upset beyond correction: where, whether the re-read succeeds and whether the cell tests sound (R383,
R384). -/
structure Upset where
  place : Place
  addr : Nat
  rereadOk : Bool
  sound : Bool
  /-- the word of main memory stands in a line of the L2: is the line dirty (R421)? -/
  l2 : Option Bool := none
deriving DecidableEq, Repr

/-- An error that a unit's own check is about to find (R383, R387, R419): class and subclass of its record (DATA 0x01 a
register, DATA 0x03 accumulation memory, ENGINE 0x01 to 0x04), where, whether the retry succeeds and whether the cell
tests sound. -/
structure Check where
  cls : Nat
  sub : Nat
  unit : Nat
  addr : Nat
  retryOk : Bool
  sound : Bool
deriving DecidableEq, Repr

/-- What a step does next: an event, the issue of a split, time passing, or one instruction of a die's policy
engine. -/
inductive Todo where
  | event (i : Instr)
  | issue (strand split : Nat)
  | elapse (n : Nat)
  | policy (die : Nat)
  /-- the L2 writes a line of main memory back, or lets go of a clean one (R16, R421). -/
  | writeBack (line : Nat)
  /-- a core's instruction cache takes up a word of a partition of its own accord (R140). -/
  | prefetch (core part : Nat) (va : VAddr)
  /-- the switch of a port reports frames dropped (R458, R473). -/
  | switchDrop (port n : Nat)
deriving DecidableEq, Repr

/-- What an access through a FAR frame asks of another device (R319, R332): the address in the frame's space (device in
[49:41], offset below) and what is read, written or updated there; a host address in a bridge device's charge is that address
plus 2^51 and the device id times 2^52 (R331). A store of one b32 value is told apart (R321). -/
inductive FarReq where
  | load (a n : Nat)
  | store (a : Nat) (data : List Byte) (b32 : Bool)
  | atomic (a lane : Nat) (op : AtmOp) (ty : Ty) (c e : Nat)
  | update (a : Nat) (u : SyncUpd)
deriving DecidableEq, Repr

/-- Who makes an access through a FAR frame: an operation of a strand, the swap engine of a die, a split's instruction as it
issues or as it is fetched, the device itself for a partition. -/
inductive FarKey where
  | op (strand op : Nat) | swap (die : Nat) | issue (strand split : Nat) | fetch (strand split : Nat) | dev (part : Nat)
deriving DecidableEq, Repr

/-- A request that a peer has not answered: its packet's plane and sequence number. -/
structure FarWait where
  key : FarKey
  req : FarReq
  plane : Nat
  seq : Word
deriving DecidableEq, Repr

/-- Accesses through FAR frames of other devices (R317, R319, R332): the requests under way, the answers that their makers
have not used up yet, and, within a step, for whom accesses are made now, what they ask that no answer tells, and what the
device writes there on its own account. -/
structure FarIo where
  wait : List FarWait := []
  known : List (FarKey × FarReq × List Byte) := []
  cur : Option FarKey := none
  asked : List FarReq := []
  post : List (Nat × FarReq) := []
  /-- within a step, what the device itself reads there for partitions: what no answer tells yet, and what an answer told. -/
  ask : List (Nat × FarReq) := []
  told : List (Nat × FarReq) := []
  /-- events that wait for what other devices answer the device itself. -/
  held : List Instr := []
deriving DecidableEq, Repr

/-- The state of the device. -/
structure State where
  /-- arithmetic-clock cycles since reset (R170). -/
  clock : DWord
  /-- the order of coming steps; where it is empty the device's own rule chooses (Step.lean). -/
  agenda : List Todo
  /-- the split that is issuing: strand key and split slot. -/
  cur : Option (Nat × Nat)
  /-- the die whose policy engine executes: 0 West, 1 East. -/
  die : Nat
  /-- the model's own counter of free values. -/
  free : Nat
  flostra : List Host.Cell
  spad : List Host.Cell
  vault : List Host.Cell
  /-- host memory beyond the bridge device (R332). -/
  hostMem : List Host.Cell
  strands : List (Nat × Strand)
  cores : AMap CoreSt
  quarters : AMap QuarterSt
  wgs : List (Nat × Wg)
  wgNext : Nat
  sources : List (Nat × Source)
  srcNext : Nat
  pipes : List (Nat × Pipe)
  pkts : List QPkt
  parts : AMap Part
  dieW : DieSt
  dieE : DieSt
  doms : List Dom
  /-- nodes on their way to a slice: the slice and the node. -/
  toSlice : List (Nat × Node)
  slices : AMap Slice
  latches : AMap (List LatchEnt)
  joints : List (Nat × Joint)
  jointNext : Nat
  cbars : AMap CBar
  fabric : Fabric
  boot : Boot
  upsets : List Upset
  checks : List Check
  retired : List Nat
  disabled : List (Place × Nat)
  /-- accesses through FAR frames of other devices (R317, R319). -/
  far : FarIo := {}
deriving DecidableEq, Repr

/-- Why a step stops with a fault. -/
inductive Fault where
  /-- Raised by every instruction of a strand when no split is issuing: there is no strand for it to act on. Safe: the
  device never issues an instruction outside a split (R24, R27); only an agenda that names a strand's instruction as an
  event, which no device does, makes a step of this model end so. -/
  | noIssuer
  /-- Raised by every Horgedo instruction when its die has no decision in progress: there is no program for it to act
  in (R298). Safe, as above. -/
  | noDecision
deriving DecidableEq, Repr

/-- Why the model gives no step. -/
inductive Refusal where
  /-- The instruction's arm has no meaning yet. Safe: the model says nothing about it. -/
  | notModelled (mnemonic : String)
deriving DecidableEq, Repr

/-- A free split slot. -/
def Split.empty : Split :=
  { st := .free, pc := 0, mask := 0, stall := .none, words := [], wake := 0, bar := none, park := none, priv := false,
    pass := none, redo := none, posted := false }

/-- A register that holds U 0 (R88). -/
def VReg.zero : VReg := { shape := .u 0, pairHi := false }

/-- An invalid translation register (R88, R112). -/
def TReg.invalid : TReg :=
  { valid := false, base := 0, phys := 0, limit := 0, w := false, far := false, nc := false, fmt := 0, geom := 0,
    size := 0, direct := false }

/-- Registers at grant (R88). -/
def Regs.empty : Regs := { v := [], s := [], p := [], q := [], t := [] }

/-- A core after reset: no translation, no node, op records counted from 0 (R271). -/
def CoreSt.reset : CoreSt :=
  { tlb := [], walks := [], fails := [], clasp := [], opNext := 0, engine := [], quarantined := false,
    clearing := false, owner := none, evac := [] }

/-- A quarter after reset: one free block of 1024 slots (R95), QSTOP and comparators zero (R476, R478). -/
def QuarterSt.reset : QuarterSt :=
  { free := [(0, 1024)], draining := [], moves := [], retry := none, drowsy := [], qhist := [], qstall := [],
    stopped := false, req := false, agent := false, dumping := false, cause := 0, slot := 0, comp := 0, cycle := 0,
    exempt := none, entering := [], stepping := none, dbgia := [], held := [], dumpAt := 0, issued := 0,
    last := 0, yielder := none, since := 0 }

/-- Deficit round-robin: version 0, no program (R309). -/
def Policy.drr : Policy := { version := 0, code := [], entries := [0x3FF, 0x3FF, 0x3FF], budget := 96, scratch := [] }

/-- A die's copy of the policy after reset. -/
def PolDie.reset : PolDie := { active := Policy.drr, staged := none, rr := 0 }

/-- A partition after reset: every register zero (R308, R318, R338, R339, R368, R477, R479, R489). -/
def Part.reset : Part :=
  { block := [], spbase := 0, spsize := 0, fab := [], polimg := 0, shadow := 0, reason := 0, wcet := 0, rejects := 0,
    invalid := 0, overruns := 0, version := 0, verify := none, polWest := PolDie.reset, polEast := PolDie.reset,
    frread := 0, frresume := 0, ringLog := 0, groups := [], irq := [], dbgsel := 0, dbgdaddr := 0, dbgwp := [],
    trbase := 0, trctl := 0, tridx := 0, pool := [], period := 0, leaving := [] }

/-- A die after reset: no event, no decision. -/
def DieSt.reset : DieSt :=
  { dec := none, dispatch := [], preempt := [], faults := [], swap := none, decisions := 0, policyCycles := 0 }

/-- A port after reset: not trained; two lanes, an Ultra Ethernet port's four (R312). -/
def Port.reset (k : Nat) : Port :=
  { trained := false, up := false, lanes := if k < 64 then 2 else 4, replay := [], crcRetry := 0, spurious := 0, staleInc := 0, swDrop := 0,
    ueRetx := 0, sent := 0, received := 0 }

/-- A flow on which nothing has been sent (R316). -/
def Flow.reset : Flow := { next := 0, unacked := [], inNext := 0, recovering := false }

/-- A device not heard of. -/
def Peer.reset : Peer := { incarn := 0, planes := 0, lost := false, heard := 0 }

/-- A slice with an empty clasp. -/
def Slice.reset : Slice := { clasp := [], counts := [] }

/-- A cluster barrier with no arrival. -/
def CBar.reset : CBar := { need := 0, round := 0, arrived := [] }

/-- The fabric after reset. -/
def Fabric.reset : Fabric :=
  { ports := [], flows := [], peers := [], outbox := [], uetOut := [], notReady := [], staleGens := [], portClasps := [], ueWidx := [],
    ueRead := [], ue := [], excluded := [], announced := 0, dropped := 0 }

/-- Boot, identity, attestation and power after reset (R314, R344, R346, R347). -/
def Boot.reset : Boot :=
  { stage := 0, rsaok := false, slhok := false, svn := 0, refuse := false, fuseSvn := 0, image := [], devid := 0,
    incarn := 0, pod := 0, etype := 0x88B5, attBusy := false, attErr := false, attAddr := 0, attPart := 0, thr := false,
    freq := 36, meas := 0, cap := 2800 }

/-- The device right after reset: in the boot ROM, no partition live, no strand resident, no memory listed. -/
def State.reset : State :=
  { clock := 0, agenda := [], cur := none, die := 0, free := 0, flostra := [], spad := [], vault := [], hostMem := [],
    strands := [], cores := [], quarters := [], wgs := [], wgNext := 0, sources := [], srcNext := 0, pipes := [],
    pkts := [], parts := [], dieW := DieSt.reset, dieE := DieSt.reset, doms := [], toSlice := [], slices := [],
    latches := [], joints := [], jointNext := 0, cbars := [], fabric := Fabric.reset, boot := Boot.reset, upsets := [], checks := [],
    retired := [], disabled := [] }

end Sys2Proof.Machine
end

