-- ==== Sys2Proof/Machine/Maps.lean ====
section
/-! DEFINITION. Sorted maps and bytes of memory in their one canonical form: keys strictly rising, no entry that holds
the default. An unlisted byte of memory reads as 0 (assumption 1). -/

namespace Sys2Proof.Machine

open Sys2Proof

/-- The entry of a key. -/
def mapFind {α : Type} : List (Nat × α) → Nat → Option α
  | [], _ => none
  | (j, v) :: t, k => if j = k then some v else if k < j then none else mapFind t k

/-- The entry of a key, or the default. -/
def mapGet {α : Type} (d : α) (m : List (Nat × α)) (k : Nat) : α := (mapFind m k).getD d

/-- Insert or replace, keeping the keys in order. -/
def mapIns {α : Type} (k : Nat) (v : α) : List (Nat × α) → List (Nat × α)
  | [] => [(k, v)]
  | (j, w) :: t => if j = k then (k, v) :: t else if k < j then (k, v) :: (j, w) :: t else (j, w) :: mapIns k v t

/-- Remove a key. -/
def mapErase {α : Type} (k : Nat) : List (Nat × α) → List (Nat × α)
  | [] => []
  | (j, w) :: t => if j = k then t else if k < j then (j, w) :: t else (j, w) :: mapErase k t

/-- Store a value, dropping an entry equal to the default. -/
def mapPut {α : Type} [DecidableEq α] (d : α) (m : List (Nat × α)) (k : Nat) (v : α) : List (Nat × α) :=
  if v = d then mapErase k m else mapIns k v m

/-- Replace the entry of a key if there is one. -/
def mapMod {α : Type} (m : List (Nat × α)) (k : Nat) (f : α → α) : List (Nat × α) :=
  m.map fun e => if e.1 = k then (e.1, f e.2) else e

/-- The keys strictly rise and exceed a bound. -/
def mapSorted {α : Type} : List (Nat × α) → Bool
  | [] => true
  | [_] => true
  | (a, _) :: (b, v) :: t => decide (a < b) && mapSorted ((b, v) :: t)

/-- The canonical form of a byte memory. -/
def Memory.wf (m : List Host.Cell) : Bool := mapSorted m && m.all fun c => c.2 != 0

/-- One byte of memory; unlisted bytes read as 0. -/
def readByte (m : List Host.Cell) (a : Nat) : Byte := mapGet 0 m a

/-- Store one byte. -/
def writeByte (m : List Host.Cell) (a : Nat) (b : Byte) : List Host.Cell := mapPut 0 m a b

/-- The number that n bytes hold, the lowest address least significant (R3). -/
def readN (m : List Host.Cell) (a : Nat) : Nat → Nat
  | 0 => 0
  | n + 1 => (readByte m a).toNat + 256 * readN m (a + 1) n

/-- Store a number in n bytes, least significant first (R3). -/
def writeN (m : List Host.Cell) (a : Nat) : Nat → Nat → List Host.Cell
  | 0, _ => m
  | n + 1, v => writeN (writeByte m a (.ofNat 8 v)) (a + 1) n (v / 256)

/-- n bytes in ascending order. -/
def readBytes (m : List Host.Cell) (a : Nat) : Nat → List Byte
  | 0 => []
  | n + 1 => readByte m a :: readBytes m (a + 1) n

/-- Store bytes in ascending order. -/
def writeBytes (m : List Host.Cell) (a : Nat) : List Byte → List Host.Cell
  | [] => m
  | b :: t => writeBytes (writeByte m a b) (a + 1) t

/-- The number of a byte list, first byte least significant (R3). -/
def bytesVal : List Byte → Nat
  | [] => 0
  | b :: t => b.toNat + 256 * bytesVal t

/-- The n bytes of a number, least significant first (R3). -/
def bytesOf : Nat → Nat → List Byte
  | 0, _ => []
  | n + 1, v => .ofNat 8 v :: bytesOf n (v / 256)

/-- Replace a list element. -/
def setAt {α : Type} (l : List α) (i : Nat) (v : α) : List α := l.set i v

/-- The memory of a place (R107, R332). -/
def State.cells (s : State) (p : Place) : List Host.Cell :=
  match p with
  | .flostra => s.flostra | .spad => s.spad | .vault => s.vault | .host => s.hostMem | .peer => [] | .bell => []

/-- Replace the memory of a place. -/
def State.setCells (s : State) (p : Place) (m : List Host.Cell) : State :=
  match p with
  | .flostra => { s with flostra := m }
  | .spad => { s with spad := m }
  | .vault => { s with vault := m }
  | .host => { s with hostMem := m }
  | .peer => s
  | .bell => s

/-- Read n bytes at a place. -/
def State.load (s : State) (p : Place) (a n : Nat) : Nat := readN (s.cells p) a n

/-- Store n bytes at a place. -/
def State.store (s : State) (p : Place) (a n v : Nat) : State := s.setCells p (writeN (s.cells p) a n v)

/-- Write a value into an ascending list. -/
def insNat (x : Nat) : List Nat → List Nat
  | [] => [x]
  | y :: t => if x < y then x :: y :: t else if x = y then y :: t else y :: insNat x t

/-- A list in ascending order, each number once. -/
def sortNats (l : List Nat) : List Nat := l.foldr insNat []

end Sys2Proof.Machine
end

