-- ==== Sys2Proof/Machine/Ops.lean ====
section
/-! DEFINITION. Named operations over the state: numbering (R6, R10, R24), strands and their splits, fault records,
groups and routing (R364 to R369), taking a precise trap (R371, R373) and returning from one (R171, R372), and the
frame in which an instruction issues (R390, R391). -/

namespace Sys2Proof

/-- The words of an extended instruction (R138). -/
def Opnds.len (x : Opnds) : Nat := if x.lit.isSome then 5 else 3

/-- The type of an instruction; i32 where it takes none. -/
def Opnds.t (x : Opnds) : Ty := x.ty.getD .i32

/-- A type of 64 bits (R149). -/
def Ty.is64 (t : Ty) : Bool := t.width == 64

end Sys2Proof

namespace Sys2Proof.Machine

open Sys2Proof

/-- The core of a strand's key. -/
def coreOf (key : Nat) : Nat := key / 128
/-- The quarter of a strand's key, numbered over the device. -/
def quarterOf (key : Nat) : Nat := key / 32
/-- The strand slot of a strand's key (R24). -/
def slotOf (key : Nat) : Nat := key % 32
/-- The cluster of a core (R14). -/
def clusterOf (core : Nat) : Nat := core / 8
/-- The die of a core: 0 West, 1 East (R10). -/
def dieOf (core : Nat) : Nat := if core < 96 then 0 else 1

/-- The strand of a key. -/
def State.strand? (s : State) (key : Nat) : Option Strand := mapFind s.strands key
/-- Store a strand. -/
def State.setStrand (s : State) (key : Nat) (st : Strand) : State := { s with strands := mapIns key st s.strands }
/-- Change a strand, if it is there. -/
def State.onStrand (s : State) (key : Nat) (f : Strand → Strand) : State :=
  { s with strands := mapMod s.strands key f }

/-- A partition. -/
def State.part (s : State) (p : Nat) : Part := mapGet Part.reset s.parts p
/-- Store a partition. -/
def State.setPart (s : State) (p : Nat) (x : Part) : State := { s with parts := mapPut Part.reset s.parts p x }
/-- Change a partition. -/
def State.onPart (s : State) (p : Nat) (f : Part → Part) : State := s.setPart p (f (s.part p))

/-- A core. -/
def State.core (s : State) (c : Nat) : CoreSt := mapGet CoreSt.reset s.cores c
/-- Store a core. -/
def State.setCore (s : State) (c : Nat) (x : CoreSt) : State := { s with cores := mapPut CoreSt.reset s.cores c x }
/-- Change a core. -/
def State.onCore (s : State) (c : Nat) (f : CoreSt → CoreSt) : State := s.setCore c (f (s.core c))

/-- A quarter. -/
def State.quarter (s : State) (q : Nat) : QuarterSt := mapGet QuarterSt.reset s.quarters q
/-- Store a quarter. -/
def State.setQuarter (s : State) (q : Nat) (x : QuarterSt) : State :=
  { s with quarters := mapPut QuarterSt.reset s.quarters q x }
/-- Change a quarter. -/
def State.onQuarter (s : State) (q : Nat) (f : QuarterSt → QuarterSt) : State := s.setQuarter q (f (s.quarter q))

/-- A workgroup. -/
def State.wg? (s : State) (k : Nat) : Option Wg := mapFind s.wgs k
/-- Store a workgroup. -/
def State.setWg (s : State) (k : Nat) (w : Wg) : State := { s with wgs := mapIns k w s.wgs }
/-- Change a workgroup, if it is there. -/
def State.onWg (s : State) (k : Nat) (f : Wg → Wg) : State := { s with wgs := mapMod s.wgs k f }

/-- A source. -/
def State.source? (s : State) (k : Nat) : Option Source := mapFind s.sources k
/-- Change a source, if it is there. -/
def State.onSource (s : State) (k : Nat) (f : Source → Source) : State := { s with sources := mapMod s.sources k f }

/-- A die's dispatcher and policy engine. -/
def State.dieSt (s : State) (d : Nat) : DieSt := if d = 0 then s.dieW else s.dieE
/-- Store a die. -/
def State.setDie (s : State) (d : Nat) (x : DieSt) : State := if d = 0 then { s with dieW := x } else { s with dieE := x }
/-- Change a die. -/
def State.onDie (s : State) (d : Nat) (f : DieSt → DieSt) : State := s.setDie d (f (s.dieSt d))

/-- Change the context of a strand. -/
def Strand.onCtx (st : Strand) (f : Ctx → Ctx) : Strand := { st with ctx := f st.ctx }

/-- A split of a strand; a slot beyond the table reads as free. -/
def Strand.split (st : Strand) (i : Nat) : Split := st.ctx.splits.getD i Split.empty
/-- Store a split. -/
def Strand.setSplit (st : Strand) (i : Nat) (sp : Split) : Strand :=
  { st with ctx := { st.ctx with splits := st.ctx.splits.set i sp } }
/-- Change a split. -/
def Strand.onSplit (st : Strand) (i : Nat) (f : Split → Split) : Strand := st.setSplit i (f (st.split i))

/-- Is the lane in the mask? -/
def laneIn (m : Mask) (l : Nat) : Bool := m.getLsbD l
/-- The 256 lanes in order. -/
def lanes256 : List Nat := List.range 256
/-- All lanes. -/
def fullMask : Mask := BitVec.allOnes 256
/-- The lanes of a mask in ascending order. -/
def lanesOf (m : Mask) : List Nat := lanes256.filter (laneIn m)
/-- The mask of the lanes that satisfy a test. -/
def maskOf (p : Nat → Bool) : Mask :=
  BitVec.ofNat 256 ((List.range 256).foldr (fun l acc => (if p l then 1 else 0) + 2 * acc) 0)
/-- The lowest lane of a mask, 256 for none. -/
def lowLane (m : Mask) : Nat := ((lanesOf m).head?).getD 256
/-- Lanes in the mask. -/
def popMask (m : Mask) : Nat := (lanesOf m).length

/-- A fresh free value: what the spec leaves open (assumption 3). -/
def State.draw (s : State) : DWord × State := (Config.freeValue s.free, { s with free := s.free + 1 })

/-! ## Records, groups and routing -/

/-- The RCB node of a strand's workgroup (R365). -/
def State.rcbOf (s : State) (wg : Nat) : Word := match s.wg? wg with | some w => .ofNat 32 w.rcb | none => 0xFFFFFFFF

/-- The retry decisions already applied to a workgroup, saturating (R365). -/
def State.retriesOf (s : State) (wg : Nat) : Nat := match s.wg? wg with | some w => min 255 w.retries | none => 0

/-- A record that concerns no strand (R365). -/
def plainRec (cls sub : Nat) (addr : DWord) : Rec :=
  { cls := cls, sub := sub, precise := false, outcome := 0, strand := none, op := none, rcb := 0xFFFFFFFF, version := 0,
    decision := none, retries := 0, pc := 0, addr := addr, mask := 0 }

/-- A record about a strand (R365). -/
def State.strandRec (s : State) (key : Nat) (st : Strand) (cls sub : Nat) (pc : VAddr) (addr : DWord) (mask : Mask) : Rec :=
  { plainRec cls sub addr with
    strand := some key, rcb := s.rcbOf st.wg, retries := s.retriesOf st.wg, pc := pc, mask := mask }

/-- Queue a group for the partition's ring (R369); FAULT_GROUP_WRITE writes it whole or, where its producer cannot wait,
drops it. -/
def State.postGroup (s : State) (p : Nat) (g : Group) : State := s.onPart p fun x => { x with groups := x.groups ++ [g] }

/-- Queue a group of one record that no producer waits for. -/
def State.postRec (s : State) (p : Nat) (r : Rec) : State := s.postGroup p { recs := [r], split := none, op := none }

/-- Route a fault to the policy of its die (R294, R364). -/
def State.route (s : State) (e : FaultEv) : State :=
  s.onDie (dieOf e.core) fun d => { d with faults := d.faults ++ [e] }

/-- Is this the bridge device of its group (R20, R331)? -/
def State.isBridge (s : State) : Bool := s.boot.group.head? == some s.boot.devid.toNat

/-- Where a host address lies: in host memory, or, where another device is the bridge, in that device's charge, as an address
of `FarReq` (R331). -/
def State.hostPlace (s : State) (a : Nat) : Place × Nat :=
  match s.boot.group.head? with
  | some b => if b = s.boot.devid.toNat then (.host, a) else (.peer, 2 ^ 51 + b * 2 ^ 52 + a)
  | none => (.host, a)

/-- The device that answers for an address of `FarReq` (R331, R332). -/
def peerDev (a : Nat) : Nat := if 2 ^ 51 ≤ a then a / 2 ^ 52 else a / 2 ^ 41 % 512

/-- Send an interrupt message of a cause: an 8-byte store to INTADDR + 8 * cause in host memory, through the bridge device,
which holds the partition, the cause and the count of that cause's events (R341). -/
def State.interrupt (s : State) (p cause : Nat) : State :=
  let n := mapGet 0 (s.part p).irq cause + 1
  let addr := (mapGet 0 (s.part p).block 12).toNat / 64 % 2 ^ 44 * 64 + 8 * cause
  let v := p % 16 + 2 ^ 8 * cause + 2 ^ 16 * (n % 2 ^ 48)
  let s := s.onPart p fun x => { x with irq := mapPut 0 x.irq cause n }
  match s.hostPlace addr with
  | (.peer, a) => { s with far := { s.far with post := s.far.post ++ [(p, .store a (bytesOf 8 v) false)] } }
  | (q, a) => s.store q a 8 v

/-! ## Precise traps -/

/-- What a precise trap reports (R370, R371). -/
structure Trap where
  cls : Nat
  sub : Nat
  code : Nat
  lanes : Mask
  restart : Bool
  async : Bool
  oprec : Half
  /-- where the fault's group begins, 0 while no record is written. -/
  rseq : Nat := 0
deriving DecidableEq, Repr

/-- TCAUSE (R370). -/
def tcauseOf (t : Trap) (slot : Nat) : DWord :=
  .ofNat 64 (t.cls + 2^8 * t.sub + 2^16 * (slot % 4) + (if t.async then 2^18 else 0) + (if t.restart then 2^19 else 0))

/-- TINFO (R370). -/
def tinfoOf (t : Trap) (rseq : Nat) : DWord :=
  .ofNat 64 (t.code % 2^16 + 2^16 * (rseq % 2^16) + 2^32 * t.oprec.toNat + 2^48 * (lowLane t.lanes % 256))

/-- The trap registers as a trap leaves them (R371). -/
def Ctx.trapRegs (c : Ctx) (t : Trap) (slot : Nat) (tpc : VAddr) : Ctx :=
  { c with tcause := tcauseOf t slot, tpc := tpc.zeroExtend 64, tinfo := tinfoOf t t.rseq, tmask := t.lanes }

/-- TVEC.EN (R370). -/
def Ctx.hasHandler (c : Ctx) : Bool := c.tvec.getLsbD 0

/-- TVEC.ADDR: bits [56:2] (R370). -/
def Ctx.handler (c : Ctx) : VAddr := (c.tvec.toNat / 4 * 4 : Nat)

/-- Is the split privileged (R165)? -/
def Split.privileged (sp : Split) : Bool := sp.st == .trapped || (sp.st == .parked && sp.priv)

/-- The Parked state a trap leaves where it does not enter a handler (R373). -/
def parkByTrap : Park := { group := none, byTrap := true, op := none, redo := none, resume := false }

/-- The strand at handler entry, with a context given (R442). -/
def Strand.snap (st : Strand) (ctx : Ctx) : AtEntry :=
  let n (k : Ctr) : Nat := (st.ops.filter fun o => o.cls == k).length
  { ctx := ctx, counts := [n .ld, n .st, n .cp, n .mx, n .ct], gangSeq := st.gangSeq, batch := st.batch,
    closed := (st.closed.dropWhile fun b => !st.ops.any fun o => o.batch == some b).length, opNext := st.opNext }

/-- Take a precise trap (R371), or park where no handler can be entered (R373), routing the event. `pc` is the trapping
instruction's address, `tpc` where TRET resumes. -/
def State.takeTrap (s : State) (key slot : Nat) (t : Trap) (pc tpc : VAddr) : State :=
  match s.strand? key with
  | none => s
  | some st =>
    let sp := st.split slot
    let ctx := st.ctx.trapRegs t slot tpc
    if ctx.hasHandler && !sp.privileged then
      let entry : Ctx := { ctx with splits := ctx.splits.set slot { sp with st := .trapped, pc := tpc, words := [] } }
      let sp' := { sp with st := .trapped, pc := ctx.handler, stall := .none, words := [], pass := none, redo := none }
      s.setStrand key
        { st with ctx := { ctx with splits := ctx.splits.set slot sp' }, hold := some slot, atEntry := some (st.snap entry) }
    else
      let inner := sp.privileged
      let sp' := { sp with st := .parked, pc := tpc, stall := .trap, words := [], priv := inner, park := some parkByTrap,
                           pass := none, redo := none }
      let s := s.setStrand key { st with ctx := { ctx with splits := ctx.splits.set slot sp' } }
      let cls := if inner then 0x02 else t.cls
      let sub := if inner then 0x0B else t.sub
      let addr : DWord := if inner then .ofNat 64 (t.cls + 256 * t.sub) else 0
      let r := { s.strandRec key st cls sub pc addr t.lanes with
        precise := true, op := if t.async then some t.oprec else none }
      s.route { part := st.part, wg := some st.wg, split := some (key, slot), op := none, fault := r, core := coreOf key }

/-! ## The frame of issue -/

/-- The split that issues, with its strand. -/
structure Ic where
  key : Nat
  slot : Nat
  st : Strand
  sp : Split
deriving DecidableEq, Repr

/-- What an instruction comes to when it issues (R390, R391). -/
inductive Act where
  /-- its effect, the pc moving past it. -/
  | done (s : State)
  /-- its effect, the pc moving to a target. -/
  | jump (s : State) (pc : VAddr)
  /-- its effect with the split's own state already set. -/
  | stay (s : State)
  /-- a precise trap; nothing else changes (R391). -/
  | trap (t : Trap)
  /-- it waits at issue under a stall reason (R491). -/
  | wait (s : State) (r : Stall)
  /-- it waits for symbols to resolve (R101): the delivery point of a faulted .late load (R425). -/
  | waitSym (s : State) (syms : List Nat)
deriving DecidableEq, Repr

/-- A trap of class TRAP that concerns the whole split. -/
def Ic.trapWhole (c : Ic) (sub code : Nat) : Act :=
  .trap { cls := 0x02, sub := sub, code := code, lanes := c.sp.mask, restart := true, async := false, oprec := 0 }

/-- A trap of class TRAP that concerns some lanes (R392). -/
def Act.trapLanes (sub code : Nat) (lanes : Mask) : Act :=
  .trap { cls := 0x02, sub := sub, code := code, lanes := lanes, restart := true, async := false, oprec := 0 }

/-- The split that issues, from State.cur: it must be Ready or Trapped (R27). -/
def State.issuer (s : State) : Option Ic :=
  match s.cur with
  | none => none
  | some (key, slot) =>
    match s.strand? key with
    | none => none
    | some st =>
      let sp := st.split slot
      if sp.st == .ready || sp.st == .trapped then some { key := key, slot := slot, st := st, sp := sp } else none

/-- What every issue leaves behind: the rotation of splits (R28), the clock of the last issue (R445), the phase (R25),
the quarter's count and the end of a step under the debug agent (R482). -/
def State.noteIssue (s : State) (key slot : Nat) : State :=
  let s := s.onStrand key fun st =>
    { st with last := slot, lastIssue := s.clock.toNat, watch := 0, watchOff := false,
              phase := if st.phase == .granted then .running else st.phase }
  s.onQuarter (quarterOf key) fun q =>
    { q with issued := q.issued + 1, last := key, yielder := none,
             entering := if q.stepping == some (key, slot) then
                 q.entering ++ [{ strand := key, slot := slot, reason := 3, lanes := 0, since := s.clock.toNat + 1, noted := false }]
               else q.entering
             stepping := if q.stepping == some (key, slot) then none else q.stepping }

/-- The split after its instruction: at the next address, nothing fetched; a pass for that instruction is used (R478). -/
def Split.advance (sp : Split) (pc : VAddr) : Split :=
  { sp with pc := pc, stall := .none, words := [], pass := if sp.pass == some sp.pc then none else sp.pass, redo := none, posted := false, unit := false }

/-- A split released from a wait in state Barrier: Ready, or Trapped again in its handler (R27, R165). -/
def Split.wakeBar (p : Split) : Split :=
  { p with st := if p.priv then .trapped else .ready, priv := false, bar := none, stall := .none }

/-- A mask of bits hi to lo. -/
def bitMask (hi lo : Nat) : DWord := .ofNat 64 (2 ^ (hi + 1) - 2 ^ lo)

/-- The address after an instruction of `len` words (R138). -/
def Ic.nextPc (c : Ic) (len : Nat) : VAddr := c.sp.pc + .ofNat 57 (4 * len)

/-- The lanes that a load has translated. -/
def OpBody.lanesDone : OpBody → List Nat
  | .load accs _ _ => accs.map fun a => a.lane
  | .loadF els _ _ _ _ _ => els.map fun e => e.lane
  | _ => []

/-- The lanes of a load that has translated some: a scalar one performs once, for its split. -/
def OpBody.lanesOff (b : OpBody) (m : Mask) : Mask :=
  match b with
  | .load (_ :: _) _ (.s _) => 0
  | b => m &&& ~~~(b.lanesDone.foldl (fun m l => m ||| (1 <<< l : Mask)) 0)

/-- The lanes of a .late load that have neither translated nor performed (R424); a scalar one performs once, for its split. -/
def Op.lanesOpen (o : Op) (m : Mask) : Mask :=
  match o.body, o.held with
  | .load _ _ (.s _), _ :: _ => 0
  | b, l => b.lanesOff m &&& ~~~(l.foldl (fun m e => m ||| (1 <<< e.1 : Mask)) 0)

/-- The lanes an operation has still to perform. -/
def Op.lanesLeft (o : Op) (syms : List Sym) : Mask :=
  match o.sym with
  | some n =>
    (match syms.find? fun y => y.num == n with
      | some y =>
        match o.body with
        | .remote r => r.refused.foldl (fun m e => m ||| (1 <<< e.1 : Mask)) 0
        | _ => o.lanesOpen y.mask
      | none => 0)
  | none =>
    match o.body with
    | .remote r => r.refused.foldl (fun m e => m ||| (1 <<< e.1 : Mask)) 0
    | _ => 0

/-- An access to slots of a strand's block: none of them is drowsy any more, and the clock of the access is noted (R104). -/
def State.useSlots (s : State) (key : Nat) (slots : List Nat) : State :=
  if slots.isEmpty then s
  else
    let s := s.onQuarter (quarterOf key) fun q => { q with drowsy := q.drowsy.filter fun d => !(d.1 == key && slots.contains d.2) }
    s.onStrand key fun st => { st with touched := slots.foldl (fun m k => mapPut 0 m k s.clock.toNat) st.touched }

/-- Is a fault of a class and subclass one of a contribution, a remote or a joint operation, which no replay by FRRESUME takes up
(R377)? -/
def lastingFault (cls sub : Nat) : Bool := cls == 0x03 && (sub == 0x03 || sub == 0x04 || sub == 0x05 || sub == 0x07)

/-- Does a suspended operation park the split at its delivery point? One that cannot be replayed makes it wait for the decision
(R377). -/
def Op.parks (o : Op) : Bool := match o.susp with | some (c, n) => !lastingFault c n | none => false

/-- A parked split goes on (R373, R375): Ready, or in its handler, with the lanes that its redo still has to perform. -/
def Split.unpark (sp : Split) : Split :=
  match sp.park with
  | none => sp
  | some p => { sp with st := if sp.priv then .trapped else .ready, stall := .none, words := [], park := none, priv := false
                        redo := p.redo }

/-- Park a split at the delivery point of a suspended operation (R377, R425): ASYNC = 1, TPC at the instruction. -/
def State.parkAsync (s : State) (key slot : Nat) (o : Op) : State :=
  s.onStrand key fun st =>
    let sp := st.split slot
    let (cls, sub) := o.susp.getD (0x03, 0x01)
    let t : Trap := { cls := cls, sub := sub, code := 0, lanes := o.lanesLeft st.syms, restart := true, async := true,
                      oprec := .ofNat 16 o.recNo }
    let ctx := st.ctx.trapRegs t slot sp.pc
    let ctx := { ctx with tinfo := tinfoOf t (match o.group with | some w => w.toNat | none => 0) }
    let sp' := { sp with st := .parked, stall := .trap, words := [], priv := sp.st == .trapped,
                         park := some { group := o.group, byTrap := false, op := some o.id, redo := none, resume := false } }
    { st with ctx := { ctx with splits := ctx.splits.set slot sp' } }

/-- Bring an issue to its end. -/
def State.conclude (s : State) (c : Ic) (len : Nat) : Act → State
  | .done t => (t.onStrand c.key fun st => st.onSplit c.slot fun sp => sp.advance (c.nextPc len)).noteIssue c.key c.slot
  | .jump t pc => (t.onStrand c.key fun st => st.onSplit c.slot fun sp => sp.advance pc).noteIssue c.key c.slot
  | .stay t => t.noteIssue c.key c.slot
  | .trap t => (s.takeTrap c.key c.slot t c.sp.pc (if t.restart then c.sp.pc else c.nextPc len)).noteIssue c.key c.slot
  | .wait t r => t.onStrand c.key fun st => st.onSplit c.slot fun sp => { sp with stall := r }
  | .waitSym t syms =>
    match c.st.ops.find? fun o => o.parks && (match o.sym with | some n => syms.contains n | none => false) with
    | some o => t.parkAsync c.key c.slot o
    | none => t.onStrand c.key fun st => st.onSplit c.slot fun sp => { sp with stall := .pendant }

/-- Issue an instruction of `len` words whose effect is `f`. With no split issuing there is nothing for it to act on. -/
def issue (s : State) (len : Nat) (f : Ic → Act) : Host.Outcome State Fault Refusal :=
  match s.issuer with
  | none => .fault .noIssuer
  | some c => .next (s.conclude c len (f c))

/-- An extended instruction. -/
def issueX (s : State) (x : Opnds) (f : Ic → Act) : Host.Outcome State Fault Refusal := issue s x.len f

/-- Only a privileged split goes on (R165, R391 rank 2, R397). -/
def Ic.privileged (c : Ic) (k : Act) : Act := if c.sp.privileged then k else c.trapWhole 0x02 0

/-- Only a split with all 256 lanes goes on (R36, R391 rank 3, R398). -/
def Ic.wholeStrand (c : Ic) (k : Act) : Act := if c.sp.mask = fullMask then k else c.trapWhole 0x03 0

/-- Return from a trap (R171, R372): the split becomes Ready at TPC, as it stands there (assumption 120), and the other splits
resume. -/
def Strand.tret (st : Strand) (slot : Nat) : Strand :=
  let st := st.onSplit slot fun sp => { sp with st := .ready, pc := .ofNat 57 st.ctx.tpc.toNat, stall := .none, words := [],
                                                priv := false, park := none, pass := none, redo := none }
  { st with hold := none, atEntry := none }

/-- An event of the device: it always answers a next state. -/
def event (s : State) (f : State → State) : Host.Outcome State Fault Refusal := .next (f s)

/-- An instruction of the policy engine: it acts in the decision in progress on the die that executes (R298). -/
def policyOp (s : State) (f : Decision → Decision) : Host.Outcome State Fault Refusal :=
  match (s.dieSt s.die).dec with
  | none => .fault .noDecision
  | some d => .next (s.onDie s.die fun x => { x with dec := some (f d) })

end Sys2Proof.Machine
end

