-- ==== Sys2Proof/Machine/Operands.lean ====
section
/-! DEFINITION. Reading operands (R148, R163), shapes and slots (R90 to R93), writing results, and forms over symbols
(R98 to R101). -/

namespace Sys2Proof

/-- The vector register a D field names. -/
def Opnd.vnum : Opnd → Nat
  | .v n => n | _ => 0
/-- The scalar register a field names. -/
def Opnd.snum : Opnd → Nat
  | .s n => n | _ => 0
/-- The lane predicate a field names. -/
def Opnd.pnum : Opnd → Nat
  | .p n => n | _ => 0
/-- The scalar predicate a field names. -/
def Opnd.qnum : Opnd → Nat
  | .q n => n | _ => 0
/-- The translation register a field names. -/
def Opnd.tnum : Opnd → Nat
  | .t n => n | _ => 0
/-- The number of a raw field. -/
def Opnd.rawNum : Opnd → Nat
  | .raw n => n | _ => 0

end Sys2Proof

namespace Sys2Proof.Machine

open Sys2Proof

/-- A value cut to 32 or 64 bits. -/
def cutW (wide : Bool) (x : DWord) : DWord := if wide then x else (x.setWidth 32).setWidth 64

/-- Lane `l` of a known operand. -/
def Off.at (o : Off) (l : Nat) : DWord :=
  match o with
  | .u x => x
  | .a b st => (b + st * BitVec.ofNat 32 l).setWidth 64
  | .g ls => ls.getD l 0

/-- All the lanes of a known operand. -/
def Off.lanes (o : Off) : List DWord := lanes256.map o.at

/-- Is the operand uniform (R91)? -/
def Off.isU : Off → Bool
  | .u _ => true | _ => false

/-- The shape code of R106: 0 U, 1 A, 2 G. -/
def Off.code : Off → Nat
  | .u _ => 0 | .a _ _ => 1 | .g _ => 2

/-- A source operand: known, or a form over an unresolved symbol. -/
inductive Src where
  | known (o : Off) | pend (f : Form)
deriving DecidableEq, Repr

/-- A vector register; a register not written holds U 0 (R88). -/
def Regs.vreg (r : Regs) (n : Nat) : VReg := mapGet VReg.zero r.v n

/-- The known value of one vector register as a 32-bit operand. -/
def VShape.src : VShape → Src
  | .u x => .known (.u (x.setWidth 64))
  | .a b s => .known (.a b s)
  | .g _ ls => .known (.g (ls.map fun w => w.setWidth 64))
  | .p _ f => .pend f

/-- Two lane words as one 64-bit value (R88). -/
def joinW (lo hi : DWord) : DWord := lo ||| (hi <<< 32)

/-- A vector operand of 32 or 64 bits (R88, R90). -/
def Regs.readV (r : Regs) (n : Nat) (wide : Bool) : Src :=
  let lo := (r.vreg n).shape.src
  if !wide then lo
  else
    match lo, (r.vreg (n + 1)).shape.src with
    | .pend f, _ => .pend f
    | _, .pend f => .pend f
    | .known (.u x), .known (.u y) => .known (.u (joinW x y))
    | .known a, .known b => .known (.g (lanes256.map fun l => joinW (a.at l) (b.at l)))

/-- A scalar register (R88, R98). -/
def Regs.readS (r : Regs) (n : Nat) : Src :=
  match mapGet (SReg.val 0) r.s n with
  | .val x => .known (.u x)
  | .pend f => .pend f

/-- The value of a scalar register that holds no pendant. -/
def Regs.sval (r : Regs) (n : Nat) : DWord := match mapGet (SReg.val 0) r.s n with | .val x => x | .pend _ => 0

/-- Does a scalar hold a pendant? -/
def Regs.spend (r : Regs) (n : Nat) : Bool := match mapGet (SReg.val 0) r.s n with | .val _ => false | .pend _ => true

/-- Write a scalar. -/
def Regs.setS (r : Regs) (n : Nat) (x : DWord) : Regs := { r with s := mapPut (SReg.val 0) r.s n (.val x) }
/-- A lane predicate (R88). -/
def Regs.pred (r : Regs) (n : Nat) : Mask := mapGet 0 r.p n
/-- Write a lane predicate. -/
def Regs.setP (r : Regs) (n : Nat) (m : Mask) : Regs := { r with p := mapPut 0 r.p n m }
/-- A scalar predicate (R88). -/
def Regs.sp (r : Regs) (n : Nat) : Bool := mapGet false r.q n
/-- Write a scalar predicate. -/
def Regs.setQ (r : Regs) (n : Nat) (b : Bool) : Regs := { r with q := mapPut false r.q n b }
/-- A translation register (R112). -/
def Regs.treg (r : Regs) (n : Nat) : TReg := mapGet TReg.invalid r.t n
/-- Write a translation register. -/
def Regs.setT (r : Regs) (n : Nat) (t : TReg) : Regs := { r with t := mapPut TReg.invalid r.t n t }

/-- An operand field as a source (R148, R163): a scalar or literal gives its low bits, 1705 the lane index. The packed types give
the 32 bits that hold their elements (R187, R196, R219; DESIGN CHOICE, assumption 153). -/
def Regs.read (r : Regs) (lit : Option DWord) (wide : Bool) (o : Opnd) : Src :=
  match o with
  | .v n => r.readV n wide
  | .s n => match r.readS n with | .known (.u x) => .known (.u (cutW wide x)) | y => y
  | .lane => if wide then .known (.g (lanes256.map fun l => BitVec.ofNat 64 l)) else .known (.a 0 1)
  | .lit => .known (.u (cutW wide (lit.getD 0)))
  | _ => .known (.u 0)

/-! ## Slots -/

/-- The slot a shape takes, if any (R90). -/
def VShape.slots : VShape → List Nat
  | .g k _ => [k]
  | .p k f => k :: f.steps.flatMap fun st => st.slots
  | _ => []

/-- The live slots of a register file, each once: those of its registers, and the operand copies of every symbol not yet
resolved, whatever has become of the registers that held the forms (R93). -/
def Regs.live (r : Regs) : List Nat :=
  ((r.v.flatMap fun e => e.2.shape.slots) ++
    (r.s.flatMap fun e => match e.2 with | .val _ => [] | .pend f => f.steps.flatMap fun st => st.slots) ++
    r.held.map (·.2)).eraseDups

/-- The lowest slot not in a list (R93). -/
def freeSlot (used : List Nat) : Nat := ((List.range 1025).find? fun k => !used.contains k).getD 1024

/-- The slot a register keeps or takes. -/
def Regs.slotFor (r : Regs) (n : Nat) : Nat :=
  match (r.vreg n).shape with
  | .g k _ => k
  | .p k _ => k
  | _ => freeSlot r.live

/-- Store a register's shape and PAIRHI mark. -/
def Regs.setV (r : Regs) (n : Nat) (sh : VShape) (hi : Bool) : Regs :=
  { r with v := mapPut VReg.zero r.v n { shape := sh, pairHi := hi } }

/-- A 32-bit write leaves the other register of a pair on its own. -/
def Regs.unpair (r : Regs) (n : Nat) : Regs :=
  if n % 2 = 0 ∧ (r.vreg (n + 1)).pairHi then r.setV (n + 1) (r.vreg (n + 1)).shape false else r

/-- Write a value of 32 bits into a vector register, or of 64 into a pair, in the shape it comes in (R90). -/
def Regs.writeV (r : Regs) (n : Nat) (wide : Bool) (o : Off) : Regs :=
  if !wide then
    let r := r.unpair n
    match o with
    | .u x => r.setV n (.u (x.setWidth 32)) false
    | .a b s => r.setV n (.a b s) false
    | .g ls => r.setV n (.g (r.slotFor n) (ls.map fun d => d.setWidth 32)) false
  else
    match o with
    | .u x => (r.setV n (.u (x.setWidth 32)) false).setV (n + 1) (.u ((x >>> 32).setWidth 32)) true
    | o =>
      let r := r.setV n (.g (r.slotFor n) (o.lanes.map fun d : DWord => d.setWidth 32)) false
      r.setV (n + 1) (.g (r.slotFor (n + 1)) (o.lanes.map fun d : DWord => (d >>> 32).setWidth 32)) true

/-- Note the form record that a register takes under a symbol, and the operand copies of its steps (R93, R98). -/
def Regs.note (r : Regs) (code : Nat) (f : Form) : Regs :=
  { r with recs := if r.recs.contains (code, f.sym) then r.recs else r.recs ++ [(code, f.sym)]
           held := (r.held ++ f.steps.flatMap fun t => t.slots.map fun k => (f.sym, k)).eraseDups }

/-- Free the form records and operand copies of a symbol that has resolved (R93, R102). -/
def Regs.freeSym (r : Regs) (num : Nat) : Regs :=
  { r with recs := r.recs.filter fun e => e.2 != num, held := r.held.filter fun e => e.1 != num }

/-- Write a pendant form into a scalar register (R98). -/
def Regs.pendS (r : Regs) (n : Nat) (f : Form) : Regs :=
  { r with s := mapPut (SReg.val 0) r.s n (.pend f) }.note (2048 + n) f

/-- Write a pendant form into a vector register or pair (R90, R98). -/
def Regs.writeP (r : Regs) (n : Nat) (f : Form) : Regs :=
  let r := r.note n f
  if f.wide then
    let r := r.setV n (.p (r.slotFor n) f) false
    r.setV (n + 1) (.p (r.slotFor (n + 1)) f) true
  else (r.unpair n).setV n (.p ((r.unpair n).slotFor n) f) false

/-- Does a vector register hold a pendant that this write must wait for: any pendant for a partial write, and half of a
64-bit pendant for a 32-bit write (R101)? -/
def Regs.blocksWrite (r : Regs) (n : Nat) (wide full : Bool) : Bool :=
  let held (k : Nat) : Bool :=
    match (r.vreg k).shape with
    | .p _ f => !full || (f.wide && !wide)
    | _ => false
  held n || (wide && held (n + 1))

/-- The live slots exceed G (R93). -/
def Regs.overflows (r : Regs) (logG : Nat) : Bool := decide (2 ^ logG < r.live.length)

/-! ## Registers that a load in flight will write (R211) -/

/-- The destination of an operation. -/
def OpBody.dst : OpBody → Dst
  | .load _ _ d => d
  | .loadF _ ty _ _ _ d => .v d (ty.width == 64)
  | .loadT _ d => .v d true
  | .atomic _ _ ty _ _ nr d => if nr then .none else .v d (ty.width == 64)
  | .remote r => r.dst
  | .loadC _ _ d => d
  | _ => .none

/-- Will an operation in flight write this vector register? -/
def Op.writesV (o : Op) (n : Nat) : Bool :=
  o.sym.isNone && !o.done &&
    (match o.body.dst with
      | .v d w => n == d || (w && n == d + 1)
      | _ => false)

/-- Will an operation in flight write this scalar? -/
def Op.writesS (o : Op) (n : Nat) : Bool :=
  o.sym.isNone && !o.done && (match o.body.dst with | .s d => n == d | _ => false)

/-- Is an operand awaiting a load in flight? -/
def Strand.busy (st : Strand) (o : Opnd) (wide : Bool) : Bool :=
  match o with
  | .v n => st.ops.any fun p => p.writesV n || (wide && p.writesV (n + 1))
  | .s n => st.ops.any fun p => p.writesS n
  | _ => false

/-! ## The acting lanes -/

/-- The lanes a per-lane instruction acts on (R146, R163). -/
def Ic.act (c : Ic) (x : Opnds) : Mask :=
  match x.pred with
  | none => c.sp.mask
  | some (p, neg) => c.sp.mask &&& (if neg then ~~~(c.st.ctx.regs.pred p) else c.st.ctx.regs.pred p)

/-- The registers of the issuing strand. -/
def Ic.regs (c : Ic) : Regs := c.st.ctx.regs

/-- Replace the registers of the issuing strand. -/
def State.putRegs (s : State) (c : Ic) (r : Regs) : State :=
  s.onStrand c.key fun st => { st with ctx := { st.ctx with regs := r } }

/-- OR flags into MODE.FLAGS (R65, R70). -/
def orMode (m : DWord) (fl : Half) : DWord := m ||| ((fl.setWidth 64) <<< 16)

/-- OR flags into the MODE of the issuing strand (R70). -/
def State.raise (s : State) (key : Nat) (fl : Half) : State :=
  s.onStrand key fun st => { st with ctx := { st.ctx with mode := orMode st.ctx.mode fl } }

/-! ## Forms -/

/-- Add two known values modulo 2^w in the shape of R91. -/
def Off.zip (wide : Bool) (f : DWord → DWord → DWord) (g : Word → Word → Word) (x y : Off) : Off :=
  match x, y with
  | .u v, .u w => .u (cutW wide (f v w))
  | .a b s, .u k => if wide then .g (lanes256.map fun l => cutW wide (f (x.at l) (y.at l))) else .a (g b (k.setWidth 32)) (g s 0)
  | .u k, .a b s => if wide then .g (lanes256.map fun l => cutW wide (f (x.at l) (y.at l))) else .a (g (k.setWidth 32) b) (g 0 s)
  | .a b s, .a b' s' => if wide then .g (lanes256.map fun l => cutW wide (f (x.at l) (y.at l))) else .a (g b b') (g s s')
  | _, _ => .g (lanes256.map fun l => cutW wide (f (x.at l) (y.at l)))

/-- Sum of offsets (R91, R99). -/
def Off.add (wide : Bool) (x y : Off) : Off := Off.zip wide (· + ·) (· + ·) x y
/-- Difference of offsets (R91, R99). -/
def Off.sub (wide : Bool) (x y : Off) : Off := Off.zip wide (· - ·) (· - ·) x y

/-- Each lane changed by one linear function (R91, R99). -/
def Off.map (wide : Bool) (f : DWord → DWord) (x : Off) : Off :=
  match x with
  | .u v => .u (cutW wide (f v))
  | .a b s =>
    if wide then .g (lanes256.map fun l => cutW wide (f (x.at l)))
    else .a ((f (b.setWidth 64)).setWidth 32) ((f (s.setWidth 64)).setWidth 32)
  | .g ls => .g (ls.map fun d => cutW wide (f d))

/-- A shift left by a count, 0 from the width on (R185). -/
def shlW (wide : Bool) (x : DWord) (n : DWord) : DWord :=
  let w := if wide then 64 else 32
  if w ≤ n.toNat then 0 else cutW wide (x <<< n.toNat)

/-- The form of a load just issued: 1 * x + 0 (R98). -/
def Form.fresh (sym : Nat) (wide : Bool) : Form :=
  { sym := sym, float := false, wide := wide, scale := 1, off := .u 0, steps := [] }

/-- Does the form allow an integer step of this width (R99)? -/
def Form.intOk (f : Form) (wide : Bool) : Bool := !f.float && f.wide == wide

/-- Does the form allow a float step of this width: x with fewer than three steps (R100)? -/
def Form.fltOk (f : Form) (wide : Bool) : Bool :=
  f.wide == wide && (f.float || (f.scale == 1 && f.off == .u 0)) && decide (f.steps.length < 3)

/-- form + k (R99). -/
def Form.addK (f : Form) (k : Off) : Form := { f with off := Off.add f.wide f.off k }
/-- form - k (R99). -/
def Form.subK (f : Form) (k : Off) : Form := { f with off := Off.sub f.wide f.off k }
/-- k - form (R99). -/
def Form.subFrom (f : Form) (k : Off) : Form :=
  { f with scale := cutW f.wide (0 - f.scale), off := Off.sub f.wide k f.off }
/-- form * u (R99). -/
def Form.mulU (f : Form) (u : DWord) : Form :=
  { f with scale := cutW f.wide (f.scale * u), off := f.off.map f.wide fun d => d * u }
/-- form shifted left by u (R99). -/
def Form.shlU (f : Form) (u : DWord) : Form :=
  { f with scale := shlW f.wide f.scale u, off := f.off.map f.wide fun d => shlW f.wide d u }

/-- Form records in use in a quarter: each until its symbol has resolved, its register overwritten or not (R98, R102). -/
def State.formsUsed (s : State) (quarter : Nat) : Nat :=
  (s.strands.filter fun e => decide (quarterOf e.1 = quarter)).foldl (fun acc e => acc + e.2.ctx.regs.recs.length) 0

/-- Write a new form of a pendant step: traps where its slot exceeds G, waits where only operand copies do or where no
form record is free (R93, R98, R100). -/
def Ic.writeForm (c : Ic) (s : State) (n : Nat) (f : Form) (copies : List Nat) : Act :=
  let r := c.regs.writeP n f
  if r.overflows c.st.logG then
    let bare := c.regs.writeP n { f with steps := f.steps.map fun t => { t with slots := t.slots.filter fun k => !copies.contains k } }
    if bare.overflows c.st.logG then c.trapWhole 0x04 1 else .waitSym s [f.sym]
  else if !c.regs.recs.contains (n, f.sym) && decide (256 ≤ s.formsUsed (quarterOf c.key)) then .waitSym s [f.sym]
  else .done (s.putRegs c r)

/-! ## Per-lane computation -/

/-- What a per-lane instruction computes. -/
structure VecOp where
  /-- lane and operands to the lane's result and flags. -/
  f : Nat → List DWord → DWord × Half
  /-- the affine result of R91 where there is one. -/
  aff : List Off → Option Off := fun _ => none
  /-- the result depends on the lane beyond its operands: RSD draws, a lane predicate. -/
  perLane : Bool := false
  /-- the form a pendant operand gives, with the slots taken by operand copies (R99, R100). -/
  pnd : Regs → Nat → List Src → Option (Form × List Nat) := fun _ _ _ => none

/-- The value of a full or partial write and its flags (R91). -/
def VecOp.result (o : VecOp) (act : Mask) (old : Off) (srcs : List Off) : Off × Half :=
  let full := decide (act = fullMask)
  let lanewise : Unit → Off × Half := fun _ =>
    let rs := lanes256.map fun l =>
      if laneIn act l then o.f l (srcs.map fun k => k.at l) else (old.at l, 0)
    (.g (rs.map (·.1)), rs.foldl (fun a x => a ||| x.2) 0)
  if full && !o.perLane then
    if srcs.all Off.isU then let (v, fl) := o.f 0 (srcs.map fun k => k.at 0); (.u v, fl)
    else match o.aff srcs with
      | some r => (r, 0)
      | none => lanewise ()
  else lanewise ()

/-- The known values of sources, none when one is a pendant. -/
def knownAll : List Src → Option (List Off)
  | [] => some []
  | .known o :: t => (knownAll t).map fun l => o :: l
  | .pend _ :: _ => none

/-- The symbols that pendant sources stand over. -/
def srcSyms (l : List Src) : List Nat := l.filterMap fun y => match y with | .pend f => some f.sym | .known _ => none

/-- The symbols a vector register or pair holds. -/
def Regs.symsOf (r : Regs) (n : Nat) (wide : Bool) : List Nat :=
  srcSyms ((r.vreg n).shape.src :: if wide then [(r.vreg (n + 1)).shape.src] else [])

/-- The operand fields that a scalar pendant stands in: R99's vector steps take vector forms only (assumption 12). -/
def scalarPend (r : Regs) : List (Opnd × Bool) → Bool
  | [] => false
  | (.s n, _) :: t => r.spend n || scalarPend r t
  | _ :: t => scalarPend r t

/-- Issue a per-lane instruction that writes vector register `n` (R163, R164, R91, R101). -/
def Ic.vec (c : Ic) (s : State) (x : Opnds) (n : Nat) (dWide : Bool) (ops : List (Opnd × Bool)) (o : VecOp) : Act :=
  let act := c.act x
  let full := decide (act = fullMask)
  let r := c.regs
  let srcs := ops.map fun p => r.read x.lit p.2 p.1
  if ops.any (fun p => c.st.busy p.1 p.2) || c.st.busy (.v n) dWide then .wait s .scoreboard
  else
    match knownAll srcs with
    | none =>
      if full && !scalarPend r ops && !r.blocksWrite n dWide true then
        match o.pnd r n srcs with
        | some (f, copies) => c.writeForm s n f copies
        | none => .waitSym s (srcSyms srcs)
      else .waitSym s (srcSyms srcs)
    | some offs =>
      if r.blocksWrite n dWide full then .waitSym s (r.symsOf n dWide)
      else
        let old := match r.readV n dWide with | .known w => w | .pend _ => .u 0
        let (v, fl) := o.result act old offs
        let r' := r.writeV n dWide v
        if r'.overflows c.st.logG then c.trapWhole 0x04 1
        else .done ((s.putRegs c r').raise c.key fl)

/-- Operands all known and arrived: their values at lane 0, which is the value of a uniform one (R163). -/
def Ic.known (c : Ic) (s : State) (x : Opnds) (ops : List (Opnd × Bool)) (k : List Off → Act) : Act :=
  if ops.any (fun p => c.st.busy p.1 p.2) then .wait s .scoreboard
  else
    let srcs := ops.map fun p => c.regs.read x.lit p.2 p.1
    match knownAll srcs with
    | none => .waitSym s (srcSyms srcs)
    | some offs => k offs

/-- Write a scalar destination: it waits only for a load in flight to it (R101, R211). -/
def Ic.toS (c : Ic) (s : State) (n : Nat) (v : DWord) : Act :=
  if c.st.busy (.s n) false then .wait s .scoreboard else .done (s.putRegs c (c.regs.setS n v))

end Sys2Proof.Machine
end

