-- ==== Sys2Proof/Machine/Trans.lean ====
section
/-! DEFINITION. The transcendentals of R71 and R72 for FP32. Each is computed in fixed point with 512 fraction bits and
cut to 392 with a sticky rest; exact results are told apart first, and every other result is irrational. That the
distance of a result from every rounding boundary exceeds the error of about 2^-370 is UNVERIFIED (assumption 20). -/

namespace Sys2Proof.Machine

open Sys2Proof

/-- Fraction bits of the fixed point. -/
def fxBits : Nat := 512

/-- pi / 2 in fixed point. -/
def fxHalfPi : Nat :=
  0x1921fb54442d18469898cc51701b839a252049c1114cf98e804177d4c76273644a29410f31c6809bbdf2a33679a748636605614dbe4be286e9fc26adadaa3848b

/-- ln 2 in fixed point. -/
def fxLn2 : Nat :=
  0xb17217f7d1cf79abc9e3b39803f2f6af40f343267298b62d8a0d175b8baafa2be7b876206debac98559552fb4afa1b10ed2eae35c138214427573b291169b825

/-- Fixed-point product. -/
def fxMul (a b : Nat) : Nat := a * b / 2 ^ fxBits

/-- The alternating sums of sine (k odd) and cosine (k even) from the term t: t - t r^2 / ((k+1)(k+2)) + … -/
def fxSeries : Nat → Nat → Nat → Nat → Int
  | 0, _, _, _ => 0
  | fuel + 1, r2, k, t => (t : Int) - fxSeries fuel r2 (k + 2) (fxMul t r2 / ((k + 1) * (k + 2)))

/-- The sine of 0 ≤ r ≤ pi / 2. -/
def fxSin (r : Nat) : Nat := (fxSeries 70 (fxMul r r) 1 r).toNat

/-- The cosine of 0 ≤ r ≤ pi / 2. -/
def fxCos (r : Nat) : Nat := (fxSeries 70 (fxMul r r) 0 (2 ^ fxBits)).toNat

/-- e^f for 0 ≤ f ≤ 1: t + t f / k + … -/
def fxExpGo : Nat → Nat → Nat → Nat → Nat
  | 0, _, _, _ => 0
  | fuel + 1, f, k, t => t + fxExpGo fuel f (k + 1) (fxMul t f / k)

/-- e^f for 0 ≤ f ≤ 1. -/
def fxExp (f : Nat) : Nat := fxExpGo 110 f 1 (2 ^ fxBits)

/-- t + t^3 / 3 + t^5 / 5 + … from the power p of t. -/
def fxAtanhGo : Nat → Nat → Nat → Nat → Nat
  | 0, _, _, _ => 0
  | fuel + 1, t2, k, p => p / k + fxAtanhGo fuel t2 (k + 2) (fxMul p t2)

/-- A fixed-point magnitude as an exact value with a sticky rest, scaled by 2^n. -/
def fxVal (neg : Bool) (v : Nat) (n : Int) : Fv := .fin neg (v / 2 ^ 120) (n - 392) true

/-- m * 2^e in fixed point; exact for FP32 values. -/
def fxOf (m : Nat) (e : Int) : Nat := shiftInt m (e + fxBits)

/-- 2^x (R71, R72). -/
def Fv.exp2 (x : Fv) : Fv × Half :=
  match x with
  | .nan s => (.nan false, if s then flagInv else 0)
  | .inf true => (.zero false, 0)
  | .inf false => (.inf false, 0)
  | .zero _ => (.fin false 1 0 false, 0)
  | .fin neg m e _ =>
    if 0 ≤ e ∨ m % 2 ^ (-e).toNat = 0 then
      let i := shiftInt m e
      (.fin false 1 (if neg then -(i : Int) else i) false |> fun v => if 2000 < i then
        .fin false 1 (if neg then -2000 else 2000) true else v, 0)
    else
      let i : Int := (if neg then -1 else 1) * (fxOf m e : Nat)
      let n := i / (2 ^ fxBits : Nat)
      let f := (i % (2 ^ fxBits : Nat)).toNat
      if n < -2000 then (.fin false 1 (-2000) true, 0)
      else if 2000 < n then (.fin false 1 2000 true, 0)
      else (fxVal false (fxExp (fxMul f fxLn2)) n, 0)

/-- log2 x (R71, R72). -/
def Fv.log2 (x : Fv) : Fv × Half :=
  match x with
  | .nan s => (.nan false, if s then flagInv else 0)
  | .inf true => (.nan false, flagInv)
  | .inf false => (.inf false, 0)
  | .zero _ => (.inf true, flagDz)
  | .fin true _ _ _ => (.nan false, flagInv)
  | .fin false m e _ =>
    let k := m.log2
    if m = 2 ^ k then (Fv.ofInt (e + k), 0)
    else
      -- z = m / 2^k in (1, 2); above 3/2 it is halved, so that |ln z| stays small
      let high := decide (3 * 2 ^ k < 2 * m)
      let E : Int := e + k + (if high then 1 else 0)
      let d := if high then 2 ^ (k + 1) else 2 ^ k
      let num := (if high then d - m else m - d) * 2 ^ fxBits
      let t := num / (m + d)
      let ln := 2 * fxAtanhGo 130 (fxMul t t) 1 t
      let lg := ln * 2 ^ fxBits / fxLn2
      let s : Int := E * (2 ^ fxBits : Nat) + (if high then -(lg : Int) else lg)
      (fxVal (decide (s < 0)) s.natAbs 0, 0)

/-- Quadrant and remainder of a magnitude over pi / 2. -/
def fxReduce (m : Nat) (e : Int) : Nat × Nat := let x := fxOf m e; (x / fxHalfPi % 4, x % fxHalfPi)

/-- sin x in radians (R71, R72). -/
def Fv.sin (x : Fv) : Fv × Half :=
  match x with
  | .nan s => (.nan false, if s then flagInv else 0)
  | .inf _ => (.nan false, flagInv)
  | .zero n => (.zero n, 0)
  | .fin neg m e _ =>
    let (q, r) := fxReduce m e
    let v := if q % 2 = 0 then fxSin r else fxCos r
    (fxVal (neg != decide (2 ≤ q)) v 0, 0)

/-- cos x in radians (R71, R72). -/
def Fv.cos (x : Fv) : Fv × Half :=
  match x with
  | .nan s => (.nan false, if s then flagInv else 0)
  | .inf _ => (.nan false, flagInv)
  | .zero _ => (.fin false 1 0 false, 0)
  | .fin _ m e _ =>
    let (q, r) := fxReduce m e
    let v := if q % 2 = 0 then fxCos r else fxSin r
    (fxVal (q == 1 || q == 2) v 0, 0)

/-- tanh x (R71, R72): (E - 1) / (E + 1) with E = e^(2|x|). -/
def Fv.tanh (x : Fv) : Fv × Half :=
  match x with
  | .nan s => (.nan false, if s then flagInv else 0)
  | .inf n => (.fin n 1 0 false, 0)
  | .zero n => (.zero n, 0)
  | .fin neg m e _ =>
    let y := 2 * fxOf m e
    if 200 * 2 ^ fxBits < y then (.fin neg (2 ^ 200 - 1) (-200) true, 0)
    else
      let E := fxExp (y % fxLn2) * 2 ^ (y / fxLn2)
      (fxVal neg ((E - 2 ^ fxBits) * 2 ^ fxBits / (E + 2 ^ fxBits)) 0, 0)

end Sys2Proof.Machine
end

