-- ==== Sys2Proof/Machine/Tree.lean ====
section
/-! DEFINITION. The reduction tree: combine (R75), the root of a list of leaves (R74, R76) and spines (R86). -/

namespace Sys2Proof.Machine

open Sys2Proof

/-- The node formats (R75). -/
inductive NodeFmt where
  | f32 | f64 | int (width : Nat)
deriving DecidableEq, Repr

/-- A node's value, `none` for ABSENT, with the flags of the node (R75). -/
abbrev NVal := Option DWord × Half

/-- The node format of an accumulator format (R75). -/
def nodeFmtOf : Ty → NodeFmt
  | .f64 => .f64
  | .i64 | .n64 | .b64 => .int 64
  | .i32 | .n32 | .i16 | .n16 | .i8 | .n8 | .b32 => .int 32
  | _ => .f32

/-- The floating-point format of a node format; FP32 for the integer ones, where it is not used. -/
def NodeFmt.fmt : NodeFmt → Fmt
  | .f64 => fp64
  | _ => fp32

/-- `combine` of two present values (R75, R68): RNE, subnormals kept. -/
def combineVal (nf : NodeFmt) (x y : DWord) : DWord × Half :=
  match nf with
  | .int w => (.ofNat 64 ((x.toNat + y.toNat) % 2 ^ w), 0)
  | nf =>
    let f := nf.fmt
    let (c, fl) := f.finish rneArg (Fv.add .rne (f.val x.toNat) (f.val y.toNat))
    (.ofNat 64 c, fl)

/-- `combine` (R75): ABSENT gives the other operand; the node's flags join its children's. -/
def combine (nf : NodeFmt) (x y : NVal) : NVal :=
  match x.1, y.1 with
  | none, v => (v, x.2 ||| y.2)
  | v, none => (v, x.2 ||| y.2)
  | some a, some b => let (c, fl) := combineVal nf a b; (some c, x.2 ||| y.2 ||| fl)

/-- One level of the tree; a last node without a sibling is promoted (R76). -/
def pairUp (nf : NodeFmt) : List NVal → List NVal
  | a :: b :: t => combine nf a b :: pairUp nf t
  | l => l

/-- The root over all the leaves of a list (R74): pair up until one node is left. -/
def treeGo (nf : NodeFmt) : Nat → List NVal → NVal
  | _, [] => (none, 0)
  | _, [a] => a
  | 0, a :: _ => a
  | fuel + 1, l => treeGo nf fuel (pairUp nf l)

/-- The root over all the leaves of a list (R74). -/
def treeRoot (nf : NodeFmt) (l : List NVal) : NVal := treeGo nf l.length l

/-- A spine: levels with their values, youngest first (R86). -/
abbrev Spine := List (Nat × Option DWord)

/-- Merge the two top nodes while they have one level (R86). -/
def spineMerge (nf : NodeFmt) : Nat → Spine → Half → Spine × Half
  | fuel + 1, (j, v2) :: (k, v1) :: t, fl =>
    if j = k then
      let (v, g) := combine nf (v1, 0) (v2, 0)
      spineMerge nf fuel ((j + 1, v) :: t) (fl ||| g)
    else ((j, v2) :: (k, v1) :: t, fl)
  | _, s, fl => (s, fl)

/-- The largest level j with 2^j dividing a and a + 2^j at most b. -/
def chunkLevel : Nat → Nat → Nat → Nat
  | 0, _, _ => 0
  | j + 1, a, b => if a % 2 ^ (j + 1) = 0 ∧ a + 2 ^ (j + 1) ≤ b then j + 1 else chunkLevel j a b

/-- Fold a chunk of leaves, the first numbered `a`, into a spine (R86). -/
def spineFold (nf : NodeFmt) : Nat → Nat → List NVal → Spine → Half → Spine × Half
  | 0, _, _, sp, fl => (sp, fl)
  | _, _, [], sp, fl => (sp, fl)
  | fuel + 1, a, ls, sp, fl =>
    let j := chunkLevel 40 a (a + ls.length)
    let (v, g) := treeRoot nf (ls.take (2 ^ j))
    let (sp, fl) := spineMerge nf 64 ((j, v) :: sp) (fl ||| g)
    spineFold nf fuel (a + 2 ^ j) (ls.drop (2 ^ j)) sp fl

/-- Close a spine: right-nested combines from the youngest (R86). -/
def spineClose (nf : NodeFmt) : Spine → NVal
  | [] => (none, 0)
  | (_, v) :: t => t.foldl (fun acc x => combine nf (x.2, 0) acc) (v, 0)

end Sys2Proof.Machine
end

