-- ==== Sys2Proof/Machine/Flags.lean ====
section
/-! DEFINITION. The MODE register's fields (R65 to R67) and the arithmetic of one element with its flags (R60 to R73,
R188 to R193): every numerical flag a scalar, vector or conversion instruction raises is computed here. -/

namespace Sys2Proof.Machine

open Sys2Proof

/-- MODE.RND as it acts: 000 and 111 are RNE (R65). -/
def modeRnd (m : DWord) : Rnd :=
  match m.toNat % 8 with
  | 2 => .rtz | 3 => .rup | 4 => .rdn | 5 => .rna | 6 => .rsd | _ => .rne

/-- The effective rounding mode (R66). -/
def effMode (m : DWord) (r : Rnd) : Rnd := match r with | .dflt => modeRnd m | r => r

/-- MODE.FZ (R65). -/
def modeFz (m : DWord) : Bool := m.getLsbD 3
/-- MODE.SAT (R65). -/
def modeSat (m : DWord) : Bool := m.getLsbD 4
/-- MODE.SEED: the scalar that holds the seed (R65). -/
def modeSeed (m : DWord) : Nat := m.toNat / 32 % 128

/-- What rounding needs at issue (R63, R66, R67). -/
structure FpEnv where
  mode : Rnd
  fz : Bool
  sat : Bool
  seed : DWord
deriving DecidableEq, Repr

/-- The environment of an instruction (R66). -/
def Ic.fpEnv (c : Ic) (x : Opnds) : FpEnv :=
  let m := c.st.ctx.mode
  { mode := effMode m x.rnd, fz := modeFz m, sat := x.sat || modeSat m, seed := c.regs.sval (modeSeed m) }

/-- An RSD instruction reads its seed scalar at issue, so it waits for a pendant there (R63, R101). -/
def Ic.seedReady (c : Ic) (x : Opnds) (s : State) (k : Act) : Act :=
  let n := modeSeed c.st.ctx.mode
  if effMode c.st.ctx.mode x.rnd = .rsd then
    if c.st.busy (.s n) false then .wait s .scoreboard else if c.regs.spend n then .waitSym s (srcSyms [c.regs.readS n]) else k
  else k

/-- The rounding argument of an element (R63, R64). -/
def FpEnv.arg (e : FpEnv) (idx : Nat) : RndArg :=
  ⟨e.mode, if e.mode = .rsd then rsdBits e.seed (.ofNat 64 idx) else 0⟩

/-- An element's code as a value, a subnormal flushed under MODE.FZ (R67). -/
def FpEnv.val (e : FpEnv) (f : Fmt) (x : Nat) : Fv := f.val (f.flushIn e.fz (x % 2 ^ f.bits))

/-- Round a computed value, then flush a subnormal result (R60, R67, R68). -/
def FpEnv.fin (e : FpEnv) (f : Fmt) (idx : Nat) (r : Fv × Half) : Nat × Half :=
  f.flushOut e.fz (f.finish (e.arg idx) r)

/-- add(a, b) (R73). -/
def FpEnv.add (e : FpEnv) (f : Fmt) (idx a b : Nat) : Nat × Half := e.fin f idx (Fv.add e.mode (e.val f a) (e.val f b))
/-- add(a, -b) (R188). -/
def FpEnv.sub (e : FpEnv) (f : Fmt) (idx a b : Nat) : Nat × Half :=
  e.fin f idx (Fv.add e.mode (e.val f a) (e.val f b).neg)
/-- mul(a, b) (R73). -/
def FpEnv.mul (e : FpEnv) (f : Fmt) (idx a b : Nat) : Nat × Half := e.fin f idx (Fv.mul (e.val f a) (e.val f b))
/-- fma(a, b, c) (R73). -/
def FpEnv.fma (e : FpEnv) (f : Fmt) (idx a b c : Nat) : Nat × Half :=
  e.fin f idx (Fv.fma e.mode (e.val f a) (e.val f b) (e.val f c))
/-- One operand through an exact function, then one rounding (R71). -/
def FpEnv.un (e : FpEnv) (g : Fv → Fv × Half) (f : Fmt) (idx a : Nat) : Nat × Half := e.fin f idx (g (e.val f a))
/-- a / b (R71, R72). -/
def FpEnv.div (e : FpEnv) (f : Fmt) (idx a b : Nat) : Nat × Half := e.fin f idx (Fv.div (e.val f a) (e.val f b))

/-- The element format of a floating-point instruction and how many elements a lane holds (R188, R189). -/
def packCount (t : Ty) : Nat := match t with | .f16 | .bf16 => 2 | _ => 1

/-- Apply an element operation to a lane: once, or to both halves of a packed lane (R189). The operation takes the
element's logical index. -/
def perElem (t : Ty) (l : Nat) (xs : List DWord) (g : Nat → List Nat → Nat × Half) : DWord × Half :=
  if packCount t = 2 then
    let (a, fa) := g l (xs.map fun x => x.toNat % 65536)
    let (b, fb) := g (l + 256) (xs.map fun x => x.toNat / 65536 % 65536)
    (.ofNat 64 (a + 65536 * b), fa ||| fb)
  else
    let (a, fa) := g l (xs.map fun x => x.toNat)
    (.ofNat 64 a, fa)

/-- Replay a recorded float step on a resolved value (R100, R102). -/
def Step.replay (t : Step) (wide : Bool) (l : Nat) (x : DWord) : DWord × Half :=
  let e : FpEnv := { mode := t.rnd, fz := t.fz, sat := false, seed := t.seed }
  let f := if wide then fp64 else fp32
  let a := x.toNat
  let k := (t.k.at l).toNat
  let r := match t.kind with
    | 1 => e.add f l a k
    | 2 => e.sub f l a k
    | 3 => e.sub f l k a
    | 4 => e.mul f l a k
    | _ => e.fma f l a k (t.c.at l).toNat
  (.ofNat 64 r.1, r.2)

/-- The value of a form once its symbol's value is known (R99, R102). -/
def Form.resolve (f : Form) (l : Nat) (x : DWord) : DWord × Half :=
  if f.float then f.steps.foldl (fun acc t => let (v, g) := t.replay f.wide l acc.1; (v, acc.2 ||| g)) (x, 0)
  else (cutW f.wide (f.scale * x + f.off.at l), 0)

/-- Slots for the copies of G operands, lowest first (R100). -/
def copySlots (used : List Nat) (wide : Bool) : List Off → List Nat
  | [] => []
  | .g _ :: t =>
    let a := freeSlot used
    if wide then
      let b := freeSlot (a :: used)
      a :: b :: copySlots (b :: a :: used) wide t
    else a :: copySlots (a :: used) wide t
  | _ :: t => copySlots used wide t

/-- Record a float step on a form (R100). -/
def Form.step (r : Regs) (n : Nat) (f : Form) (e : FpEnv) (kind : Nat) (k c : Off) : Form × List Nat :=
  let used := (r.writeP n f).live
  let cp := copySlots used f.wide [k, c]
  let st : Step := { kind := kind, rnd := e.mode, fz := e.fz, seed := e.seed, k := k, c := c, slots := cp }
  ({ f with float := true, steps := f.steps ++ [st] }, cp)

/-- The class of a value for the flag of a contributed value: NF for infinite or NaN (R78). -/
def nfOf (f : Fmt) (x : Nat) : Half :=
  match f.val x with | .nan _ => flagNf | .inf _ => flagNf | _ => 0

/-! ## Integers -/

/-- The value of the low bits of an operand in a type (R59, R183). -/
def intVal (t : Ty) (x : DWord) : Int :=
  let w := t.width
  let n := x.toNat % 2 ^ w
  if t.signed && decide (2 ^ (w - 1) ≤ n) then (n : Int) - (2 ^ w : Nat) else n

/-- An integer modulo 2^w as bits. -/
def modW (w : Nat) (i : Int) : Nat := (i % (2 ^ w : Nat)).toNat

/-- A scalar result: sign-extended for i types, zero-extended otherwise (R183). -/
def scalarOut (t : Ty) (i : Int) : DWord :=
  let n := modW t.width i
  if t.signed && decide (2 ^ (t.width - 1) ≤ n) then .ofInt 64 ((n : Int) - (2 ^ t.width : Nat)) else .ofNat 64 n

/-- Quotient of R184. -/
def idiv (a b : Int) : Int := if b = 0 then -1 else Int.tdiv a b
/-- Remainder of R184. -/
def irem (a b : Int) : Int := if b = 0 then a else Int.tmod a b
/-- High half of a product (R182). -/
def imulh (t : Ty) (a b : Int) : Int := a * b / (2 ^ t.width : Nat)
/-- Shift right of R185. -/
def ishr (t : Ty) (a : Int) (n : Nat) : Int := a / (2 ^ (min n t.width) : Nat)
/-- Shift left of R185. -/
def ishl (t : Ty) (a : Int) (n : Nat) : Int := if t.width ≤ n then 0 else a * (2 ^ n : Nat)

/-- Leading zeros of a w-bit value (R182). -/
def clz (w n : Nat) : Nat := w - bitLen n
/-- One bits (R182). -/
def popc (n : Nat) : Nat := ((List.range 64).filter fun i => n.testBit i).length

/-- Bit-field extract (R185). -/
def bfe (t : Ty) (a o n : Nat) : Int :=
  let w := t.width
  let n' := if w ≤ o then 0 else min n (w - o)
  if n' = 0 then 0
  else
    let v := a / 2 ^ o % 2 ^ n'
    if t.signed && decide (2 ^ (n' - 1) ≤ v) then (v : Int) - (2 ^ n' : Nat) else v

/-- Bit-field insert (R185). -/
def bfi (w a d o n : Nat) : Nat :=
  let n' := if w ≤ o then 0 else min n (w - o)
  if n' = 0 then d
  else d / 2 ^ (o + n') * 2 ^ (o + n') + a % 2 ^ n' * 2 ^ o + d % 2 ^ o

/-- An integer comparison by its SEL code (R152, R179). -/
def icmp (sel : Nat) (a b : Int) : Bool :=
  match sel with
  | 0 => a == b | 1 => a != b | 2 => decide (a < b) | 3 => decide (a ≤ b) | 4 => decide (b < a) | _ => decide (b ≤ a)

end Sys2Proof.Machine
end

