-- ==== Sys2Proof/Machine/Translate.lean ====
section
/-! DEFINITION. Page tables, the TLB, translation registers and the spaces (R107, R110 to R118, R332, R335, R410). -/

namespace Sys2Proof.Machine

open Sys2Proof

/-- Bits [hi:lo] of an entry. -/
def bitsOf (e : DWord) (hi lo : Nat) : Nat := e.toNat / 2 ^ lo % 2 ^ (hi + 1 - lo)

/-- Register k of a partition's block (R338). -/
def Part.reg (p : Part) (k : Nat) : DWord := mapGet 0 p.block k
/-- PTROOT (R338). -/
def Part.ptroot (p : Part) : Nat := bitsOf (p.reg 0) 51 12 * 4096
/-- MEMLO (R338). -/
def Part.memlo (p : Part) : Nat := bitsOf (p.reg 1) 51 12 * 4096
/-- MEMHI (R338). -/
def Part.memhi (p : Part) : Nat := bitsOf (p.reg 2) 51 12 * 4096
/-- DOORBELL (R338). -/
def Part.doorbell (p : Part) : Nat := bitsOf (p.reg 11) 51 12 * 4096
/-- Does the partition hold a core (R338)? -/
def Part.hasCore (p : Part) (c : Nat) : Bool := decide (c < 192) && (p.reg (3 + c / 64)).getLsbD (c % 64)
/-- Does the partition still hold a core: in its mask, or leaving it with a workgroup resident (R336)? -/
def Part.holds (p : Part) (c : Nat) : Bool := p.hasCore c || p.leaving.contains c
/-- A virtual base of the block: bits [56:6] (R338). -/
def Part.vbase (p : Part) (k : Nat) : Nat := bitsOf (p.reg k) 56 6 * 64
/-- First byte of the save pool (R339). -/
def Part.poolLo (p : Part) : Nat := bitsOf p.spbase 51 16 * 65536
/-- End of the save pool (R339). -/
def Part.poolHi (p : Part) : Nat := p.poolLo + bitsOf p.spsize 15 0 * 65536

/-! ## Leaf entries (R111) -/

/-- V. -/
def leafV (e : DWord) : Bool := e.getLsbD 0
/-- LEAF. -/
def leafL (e : DWord) : Bool := e.getLsbD 1
/-- W. -/
def leafW (e : DWord) : Bool := e.getLsbD 2
/-- X. -/
def leafX (e : DWord) : Bool := e.getLsbD 3
/-- FAR. -/
def leafFar (e : DWord) : Bool := e.getLsbD 6
/-- NC. -/
def leafNc (e : DWord) : Bool := e.getLsbD 7
/-- FMT. -/
def leafFmt (e : DWord) : Nat := bitsOf e 11 8
/-- SWP. -/
def leafSwp (e : DWord) : Bool := e.getLsbD 12
/-- GEOM. -/
def leafGeom (e : DWord) : Nat := bitsOf e 55 52
/-- FRAME as an address. -/
def leafFrame (e : DWord) : Nat := bitsOf e 51 13 * 8192

/-- Bytes of a page by its size code: 0 64 KiB, 1 2 MiB, 2 1 GiB (R112). -/
def pageBytes (size : Nat) : Nat := match size with | 0 => 65536 | 1 => 2097152 | _ => 1073741824

/-- Bytes of a frame (R115). -/
def frameBytes (size fmt : Nat) : Nat := match fmt with | 0 => pageBytes size | 1 => 49152 | _ => 73728

/-- Why a walk fails: PAGE subclass and the entry concerned (R410, R411). -/
structure WalkErr where
  sub : Nat
  ent : Nat
deriving DecidableEq, Repr

/-- A leaf found by a walk. -/
structure LeafAt where
  leaf : DWord
  size : Nat
  ent : Nat
deriving DecidableEq, Repr

/-- Is the frame that a valid leaf names acceptable (R410: PAGE 0x04)? -/
def State.frameOk (s : State) (p : Part) (e : DWord) (size : Nat) : Bool :=
  let f := leafFrame e
  let fmt := leafFmt e
  let n := frameBytes size fmt
  decide (fmt ≤ 3) && decide (leafGeom e ≤ 13) && (fmt == 0 || size == 0) && (fmt != 0 || leafGeom e == 0)
    && (fmt != 0 || f % pageBytes size == 0)
    && (leafFar e
      || (f == p.doorbell && size == 0 && fmt == 0 && decide (Config.flostraBytes ≤ f))
      || (decide (p.memlo ≤ f) && decide (f + n ≤ p.memhi) && decide (f + n ≤ Config.flostraBytes)
          && (decide (f + n ≤ p.poolLo) || decide (p.poolHi ≤ f) || decide (p.poolHi ≤ p.poolLo))
          && s.retired.all fun r => decide (r + 65536 ≤ f ∨ f + n ≤ r)))

/-- Judge a leaf: structure and frame, then the permission (R410). -/
def State.judgeLeaf (s : State) (p : Part) (acc : Access) (e : DWord) (size ent : Nat) : Except WalkErr LeafAt :=
  if !s.frameOk p e size then .error ⟨0x04, ent⟩
  else
    match acc with
    | .write => if leafW e then .ok ⟨e, size, ent⟩ else .error ⟨0x02, ent⟩
    | .fetch => if leafX e then .ok ⟨e, size, ent⟩ else .error ⟨0x03, ent⟩
    | .read => .ok ⟨e, size, ent⟩

/-- Walk the levels (R110): each its number, index shift and index width. -/
def State.walkGo (s : State) (p : Part) (acc : Access) (va : Nat) : List (Nat × Nat × Nat) → Nat → Except WalkErr LeafAt
  | [], table => .error ⟨0x04, table⟩
  | (lv, sh, w) :: rest, table =>
    let ent := table + 8 * (va / 2 ^ sh % 2 ^ w)
    let e : DWord := .ofNat 64 (s.load .flostra ent 8)
    if !leafV e then .error ⟨0x01, ent⟩
    else if leafL e then
      if 3 ≤ lv then .error ⟨0x04, ent⟩ else s.judgeLeaf p acc e lv ent
    else if lv = 0 then .error ⟨0x04, ent⟩
    else s.walkGo p acc va rest (bitsOf e 51 8 * 256)

/-- The five levels of R110. -/
def walkLevels : List (Nat × Nat × Nat) := [(4, 48, 9), (3, 39, 9), (2, 30, 9), (1, 21, 9), (0, 16, 5)]

/-- A page walk of a partition (R110, R410). -/
def State.walk (s : State) (part : Nat) (acc : Access) (va : Nat) : Except WalkErr LeafAt :=
  let p := s.part part
  s.walkGo p acc va walkLevels p.ptroot

/-- Set A, and D for a write, in a leaf entry in memory (R111). -/
def State.touch (s : State) (ent : Nat) (acc : Access) : State :=
  let e := s.load .flostra ent 8
  let bits : Nat := if acc = .write then 0x30 else 0x10
  s.store .flostra ent 8 (e ||| bits)

/-- The TLB entry of a core that maps an address and allows the access (R114). -/
def CoreSt.tlbFind (c : CoreSt) (part : Nat) (acc : Access) (va : Nat) : Option TlbEnt :=
  c.tlb.find? fun t => t.part == part && decide (t.va ≤ va ∧ va < t.va + pageBytes t.size)
    && (match acc with | .write => leafW t.leaf | .fetch => leafX t.leaf | .read => true)

/-- Fill the TLB; the oldest entry makes room (R114). -/
def CoreSt.tlbFill (c : CoreSt) (part va : Nat) (l : LeafAt) : CoreSt :=
  let n := pageBytes l.size
  let t : TlbEnt := { part := part, va := va / n * n, size := l.size, leaf := l.leaf, ent := l.ent }
  { c with tlb := (t :: c.tlb.filter fun u => !(u.part == part && u.va == t.va && u.size == t.size)).take Config.tlbEntries }

/-- Where a physical address of a leaf's frame lies (R332). -/
def placeOf (part : Nat) (p : Part) (far : Bool) (pa : Nat) : Place × Nat :=
  if far then
    if pa / 2 ^ 50 % 4 = 3 then (.peer, pa % 2 ^ 50) else (.host, pa % 2 ^ 50)
  else if p.doorbell ≤ pa ∧ pa < p.doorbell + 65536 ∧ Config.flostraBytes ≤ pa then
    (.bell, part * 65536 + (pa - p.doorbell))
  else (.flostra, pa)

/-- A translated address: its place, its format and the leaf's bits that accesses look at. -/
structure Tr where
  place : Place
  pa : Nat
  fmt : Nat
  geom : Nat
  /-- the frame's first byte, and the offset in the page: elements on a formatted page (R115). -/
  frame : Nat
  off : Nat
  far : Bool
  nc : Bool
  ent : Nat
deriving DecidableEq, Repr

/-- Apply a leaf to an address (R110, R115, R116). -/
def leafTr (part : Nat) (p : Part) (e : DWord) (size ent va : Nat) : Tr :=
  let off := va % pageBytes size
  let f := leafFrame e
  let (pl, fr) := placeOf part p (leafFar e) f
  { place := pl, pa := fr + off, fmt := leafFmt e, geom := leafGeom e, frame := fr, off := off, far := leafFar e,
    nc := leafNc e, ent := ent }

/-- What a translation attempt gives: an address, a failure to report, or a walk to wait for. -/
inductive TrRes where
  | ok (t : Tr) | fail (e : WalkErr) | miss (w : WalkReq)
deriving DecidableEq, Repr

/-- Translate an address through a core's TLB, or take up the failed walk that was made for it (R114, R410). -/
def State.translate (s : State) (core part : Nat) (acc : Access) (va : Nat) : TrRes :=
  let c := s.core core
  match c.tlbFind part acc va with
  | some t => .ok (leafTr part (s.part part) t.leaf t.size t.ent va)
  | none =>
    let w : WalkReq := { core := core, part := part, va := .ofNat 57 (va / 65536 * 65536), acc := acc }
    match c.fails.find? fun f => f.req == w with
    | some f => .fail ⟨f.sub, f.ent⟩
    | none => .miss w

/-- Ask for walks that are not yet under way. -/
def State.askWalks (s : State) (core : Nat) (ws : List WalkReq) : State :=
  s.onCore core fun c => { c with walks := c.walks ++ ws.eraseDups.filter fun w => !c.walks.contains w }

/-- End a walk (R410): fill the TLB and set A and D, or note the failure for the access that waits. -/
def State.endWalk (s : State) (w : WalkReq) : State :=
  let s := s.onCore w.core fun c => { c with walks := c.walks.filter fun v => v != w }
  match s.walk w.part w.acc w.va.toNat with
  | .ok l => (s.onCore w.core fun c => c.tlbFill w.part w.va.toNat l).touch l.ent w.acc
  | .error e => s.onCore w.core fun c => { c with fails := c.fails ++ [{ req := w, sub := e.sub, ent := e.ent }] }

/-- Forget failures once they are reported, so that a re-issue walks again (R410). -/
def State.dropFails (s : State) (core part : Nat) : State :=
  s.onCore core fun c => { c with fails := c.fails.filter fun f => f.req.part != part }

/-- Translate at once, walking on a miss: for the engines, whose walks take no step of their own (assumption 16). -/
def State.trNow (s : State) (core part : Nat) (acc : Access) (va : Nat) : Except WalkErr Tr × State :=
  if 2 ^ 57 ≤ va then (.error ⟨0x01, 0⟩, s)
  else
    match (s.core core).tlbFind part acc va with
    | some t => (.ok (leafTr part (s.part part) t.leaf t.size t.ent va), s.touch t.ent acc)
    | none =>
      match s.walk part acc va with
      | .ok l =>
        (.ok (leafTr part (s.part part) l.leaf l.size l.ent va),
          (s.onCore core fun c => c.tlbFill part va l).touch l.ent acc)
      | .error e => (.error e, s)

/-- Translate for the device's own structures, which belong to no core: the packet processor, domains, rings. -/
def State.trDev (s : State) (part : Nat) (acc : Access) (va : Nat) : Option Tr :=
  if 2 ^ 57 ≤ va then none
  else
    match s.walk part acc va with
    | .ok l => some (leafTr part (s.part part) l.leaf l.size l.ent va)
    | .error _ => none

/-! ## Places of the other spaces -/

/-- A vault address: core and offset (R118). -/
def vaultCore (a : Nat) : Nat := a / 2 ^ 22 % 256

/-- Is a vault address inside the partition's window (R118)? -/
def Part.vaultOk (p : Part) (a : Nat) : Bool := p.holds (vaultCore a)

/-- The place of a scratchpad offset of a workgroup: its home core's scratchpad (R37, R117). -/
def Wg.spadPa (w : Wg) (off : Nat) : Nat := w.home * Config.spadBytes + w.spadBase + off

/-! ## The swap engine's redirection (R127) -/

/-- Where the far frame of an exchange lies. -/
def Swap.farPlace (x : Swap) : Place × Nat := if x.far / 2 ^ 50 % 4 = 3 then (.peer, x.far % 2 ^ 50) else (.host, x.far % 2 ^ 50)

/-- Where an access to a frame under exchange goes. -/
def Swap.redirect (x : Swap) (p : Place) (a : Nat) : Place × Nat :=
  let n := x.sectors * 4096
  let (fp, fa) := x.farPlace
  if p = .flostra ∧ x.near ≤ a ∧ a < x.near + n ∧ (a - x.near) / 4096 < x.at_ then (fp, fa + (a - x.near))
  else if p = fp ∧ fa ≤ a ∧ a < fa + n ∧ (a - fa) / 4096 < x.at_ then (.flostra, x.near + (a - fa))
  else (p, a)

/-- Where an access goes, through the exchanges of both dies, and to the host through the bridge device. -/
def State.redirect (s : State) (p : Place) (a : Nat) : Place × Nat :=
  let r : Place × Nat := match s.dieW.swap with | some x => x.redirect p a | none => (p, a)
  let r : Place × Nat := match s.dieE.swap with | some x => x.redirect r.1 r.2 | none => r
  if r.1 = .host then s.hostPlace r.2 else r

/-- Where the far frame of an exchange lies, a host frame in the charge of another bridge device there (R331). -/
def State.swapFar (s : State) (x : Swap) : Place × Nat :=
  match x.farPlace with
  | (.host, a) => s.hostPlace a
  | r => r

/-! ## Memory of other devices (R319, R332) -/

/-- The parts of n bytes at an address that lie in one 128-byte line each (R317). -/
def lineParts (a n : Nat) : List (Nat × Nat) :=
  (List.range ((a % 128 + n + 127) / 128)).map fun i =>
    let lo := max a ((a / 128 + i) * 128)
    (lo, min (a + n) ((a / 128 + i + 1) * 128) - lo)

/-- The answer to a request, where whoever makes it now has it. -/
def State.farKnown (s : State) (r : FarReq) : Option (List Byte) :=
  s.far.cur.bind fun k => (s.far.known.find? fun e => e.1 == k && e.2.1 == r).map fun e => e.2.2

/-- Note a request that no answer tells yet. -/
def State.farAsk (s : State) (r : FarReq) : State :=
  if (s.farKnown r).isSome || s.far.asked.contains r then s else { s with far := { s.far with asked := s.far.asked ++ [r] } }

/-- Read bytes of another device's memory: the answers to loads of its lines; free bytes till they are there. -/
def State.farRead (s : State) (a n : Nat) : List Byte × State :=
  (lineParts a n).foldl (fun acc p =>
    match acc.2.farKnown (.load p.1 p.2) with
    | some l => (acc.1 ++ l, acc.2)
    | none =>
      let l := (List.range p.2).map fun i => (Config.freeValue (acc.2.free + i)).setWidth 8
      (acc.1 ++ l, { acc.2 with free := acc.2.free + p.2 }.farAsk (.load p.1 p.2))) ([], s)

/-- The stores of the lines of some bytes of another device's memory. -/
def farStores (a : Nat) (l : List Byte) (b32 : Bool) : List FarReq :=
  (lineParts a l.length).map fun p => .store p.1 ((l.drop (p.1 - a)).take p.2) b32

/-- Write bytes of another device's memory. -/
def State.farWrite (s : State) (a : Nat) (l : List Byte) (b32 : Bool := false) : State :=
  (farStores a l b32).foldl (fun s r => s.farAsk r) s

/-- Write bytes of another device's memory on the device's own account. -/
def State.farPost (s : State) (part : Nat) (l : List FarReq) : State :=
  { s with far := { s.far with post := s.far.post ++ l.map fun r => (part, r) } }

/-- Bytes of a protection word (R419). -/
def protBytes : Place → Nat
  | .spad => 4
  | _ => 8

/-- What a write makes of the upset words that it reaches: one that is written whole is sound again, where its cell is, and a
line of the L2 is dirty from then on (R384, R420, R421). -/
def State.wrote (s : State) (p : Place) (a n : Nat) : State :=
  let after (u : Upset) : Option Upset :=
    if u.place != p then some u
    else if u.sound && decide (a ≤ u.addr ∧ u.addr + protBytes p ≤ a + n) then none
    else if decide (u.addr / 128 * 128 < a + n ∧ a < u.addr / 128 * 128 + 128) then some { u with l2 := u.l2.map fun _ => true }
    else some u
  { s with upsets := s.upsets.filterMap after }

/-- Read n bytes where an access goes. -/
def State.rd (s : State) (p : Place) (a n : Nat) : Nat × State :=
  let (q, b) := s.redirect p a
  if q = .peer then let (l, s) := s.farRead b n; (bytesVal l, s) else (s.load q b n, s)

/-- Store n bytes where an access goes; b32 tells a store of one b32 value. -/
def State.wr (s : State) (p : Place) (a n v : Nat) (b32 : Bool := false) : State :=
  let (q, b) := s.redirect p a
  if q = .peer then s.farWrite b (bytesOf n v) b32 else (s.store q b n v).wrote q b n

/-- Read n bytes in ascending order. -/
def State.rdBytes (s : State) (p : Place) (a n : Nat) : List Byte × State :=
  let (q, b) := s.redirect p a
  if q = .peer then s.farRead b n else (readBytes (s.cells q) b n, s)

/-- Store bytes in ascending order. -/
def State.wrBytes (s : State) (p : Place) (a : Nat) (l : List Byte) : State :=
  let (q, b) := s.redirect p a
  if q = .peer then s.farWrite b l else (s.setCells q (writeBytes (s.cells q) b l)).wrote q b l.length

/-- The 128-byte lines of n bytes at an address, as loads of them (R317). -/
def lineLoads (a n : Nat) : List FarReq := (lineParts a n).map fun p => .load (p.1 / 128 * 128) 128

/-- Bytes of another device's memory as the device reads them for a partition: the answers to its loads, free bytes before. -/
def State.farField (s : State) (part a n : Nat) : Nat :=
  bytesVal ((lineParts a n).flatMap fun p =>
    match s.far.known.find? fun e => e.1 == .dev part && e.2.1 == .load (p.1 / 128 * 128) 128 with
    | some e => (e.2.2.drop (p.1 % 128)).take p.2
    | none => (List.range p.2).map fun i => (Config.freeValue (2 ^ 128 + s.clock.toNat * 2 ^ 64 + p.1 + i)).setWidth 8)

/-- Read a field of a structure in a partition's memory; 0 where it does not translate. What the device itself reads of
another device's memory is what that answered (R319, R332, assumption 17). -/
def State.vread (s : State) (part va n : Nat) : Nat :=
  match s.trDev part .read va with
  | some t =>
    let (q, b) := s.redirect t.place t.pa
    if q = .peer then s.farField part b n else s.load q b n
  | none => 0

/-- Does an address of the partition translate for an access? -/
def State.vok (s : State) (part : Nat) (acc : Access) (va : Nat) : Bool := (s.trDev part acc va).isSome

/-- Write a field of a structure in a partition's memory; nothing where it does not translate. -/
def State.vwrite (s : State) (part va n v : Nat) : State :=
  match s.trDev part .write va with
  | some t =>
    let (q, b) := s.redirect t.place t.pa
    (if q = .peer then s.farPost part (farStores b (bytesOf n v) false) else (s.store q b n v).wrote q b n).touch t.ent .write
  | none => s

/-- Note what the device reads of another device's memory for a partition: what an answer tells and what it must still ask. -/
def State.farSeen (s : State) (part : Nat) (l : List FarReq) : State :=
  l.foldl (fun s r =>
    if s.far.known.any fun e => e.1 == .dev part && e.2.1 == r then { s with far := { s.far with told := s.far.told ++ [(part, r)] } }
    else { s with far := { s.far with ask := s.far.ask ++ [(part, r)] } }) s

/-- What the device reads of n bytes of a partition's memory sets A in the leaf entries that it goes through (R111), and is asked of
the device that holds it (R319). -/
def State.seen (s : State) (part va n : Nat) : State :=
  (List.range ((va % 4096 + n + 4095) / 4096)).foldl (fun s i =>
    let a := max va ((va / 4096 + i) * 4096)
    match s.trDev part .read a with
    | some t =>
      let (q, b) := s.redirect t.place t.pa
      let s := s.touch t.ent .read
      if q = .peer then s.farSeen part (lineLoads b (min (va + n) ((va / 4096 + i + 1) * 4096) - a)) else s
    | none => s) s

/-- Read bytes from a partition's memory, each through its own page. -/
def State.vreadBytes (s : State) (part va n : Nat) : List Byte :=
  (List.range n).map fun i => .ofNat 8 (s.vread part (va + i) 1)

/-- Write bytes to a partition's memory, each through its own page. -/
def State.vwriteBytes (s : State) (part va : Nat) (l : List Byte) : State :=
  (l.zipIdx).foldl (fun s e => s.vwrite part (va + e.2) 1 e.1.toNat) s

end Sys2Proof.Machine
end

