-- ==== Sys2Proof/Machine/Access.lean ====
section
/-! DEFINITION. Memory operands (R210), their checks (R404), translation of lanes with walks and parking (R366, R374,
R375, R410 to R412), operations in flight (R134, R211) and uncorrectable words (R383, R384, R419 to R422). -/

namespace Sys2Proof

/-- Bytes of a lane access. -/
def Ty.bytes (t : Ty) : Nat := max 1 (t.width / 8)

end Sys2Proof

namespace Sys2Proof.Machine

open Sys2Proof

/-- How an address operand is read: a vector lane by lane in 32 bits, a scalar or literal whole (R210). -/
def addrWide : Opnd → Bool
  | .v _ => false
  | _ => true

/-- The signed offset B gives lane `l` of a global form (R210, R113): the low 32 bits signed, or a scalar's 64. -/
def offsetOf (b : Opnd) (viaT : Bool) (k : Off) (l : Nat) : DWord :=
  match b with
  | .v _ => ((k.at l).setWidth 32).signExtend 64
  | _ => if viaT then ((k.at l).setWidth 32).signExtend 64 else k.at l

/-- A lane with its address: virtual for global, a byte offset in the allocation, or a vault address. -/
abbrev LaneAddr := Nat × DWord

/-- Is an address operand uniform (R210)? -/
def Off.uniformAddr (a b : Off) : Bool := a.isU && b.isU

/-- The addresses of the lanes of a memory operand (R210). -/
def laneAddrs (sp : Space) (regs : Regs) (a b : Opnd) (ka kb : Off) (lanes : List Nat) : List LaneAddr :=
  lanes.map fun l =>
    match sp, a with
    | .global, .t n => (l, ((regs.treg n).base.setWidth 64 + offsetOf b true kb l) &&& 0x1FFFFFFFFFFFFFF#64)
    | .global, _ => (l, ka.at l + offsetOf b false kb l)
    | _, _ => (l, ((ka.at l + kb.at l).setWidth 32).setWidth 64)

/-- The mask of the lanes of a list. -/
def laneMask (ls : List Nat) : Mask := ls.foldl (fun m l => m ||| (1 <<< l : Mask)) 0

/-- The scratchpad allocation of the strand's workgroup in bytes (R37). -/
def State.spadBytes (s : State) (wg : Nat) : Nat := match s.wg? wg with | some w => w.kernel.spad | none => 0

/-- The issue-time checks of an access of `n` bytes a lane (R404): illegal use first, then misalignment (R391). -/
def Ic.checkAddrs (c : Ic) (s : State) (sp : Space) (a : Opnd) (n : Nat) (ls : List LaneAddr) : Option Act :=
  let bad (p : DWord → Bool) : Mask := laneMask ((ls.filter fun e => p e.2).map (·.1))
  let mis := bad fun v => v.toNat % n != 0
  let misAct : Option Act := if mis ≠ 0 then some (Act.trapLanes 0x05 2 mis) else none
  match sp, a with
  | .global, .t k => if !(c.regs.treg k).valid then some (c.trapWhole 0x06 2) else misAct
  | .global, _ =>
    let far := bad fun v => decide (2 ^ 57 ≤ v.toNat)
    if far ≠ 0 then some (Act.trapLanes 0x06 2 far) else misAct
  | .spad, _ =>
    let out := bad fun v => decide (s.spadBytes c.st.wg < v.toNat + n)
    if out ≠ 0 then some (Act.trapLanes 0x06 2 out) else misAct
  | .vault, _ =>
    let out := bad fun v => v.toNat / 2 ^ 30 != 0
    if out ≠ 0 then some (Act.trapLanes 0x06 2 out) else misAct

/-- The direct path of a translation register (R113). -/
def TReg.directTr (t : TReg) (part : Nat) (p : Part) (acc : Access) (va : Nat) : Option Tr :=
  let o : Int := (va : Int) - t.base.toNat
  if t.valid && t.direct && decide (0 ≤ o ∧ o < t.limit.toNat) && (acc != .write || t.w) then
    let n := pageBytes t.size.toNat
    let (pl, pa) := placeOf part p t.far t.phys.toNat
    let off := va % n
    some { place := pl, pa := if t.fmt = 0 then pa + o.toNat else pa + off, fmt := t.fmt.toNat, geom := t.geom.toNat,
           frame := if t.fmt = 0 then pa + o.toNat - off else pa, off := off, far := t.far, nc := t.nc, ent := 0 }
  else none

/-- Does a frame of n bytes touch a retired block, which no direct path uses (R385)? -/
def State.retiredIn (s : State) (p : Place) (a n : Nat) : Bool :=
  p == .flostra && s.retired.any fun r => decide (r < a + n ∧ a < r + 65536)

/-- The leaf entry that maps an address, or the entry at which its walk fails (R411). -/
def State.entOf (s : State) (part va : Nat) : Nat := match s.walk part .read va with | .ok l => l.ent | .error e => e.ent

/-- Translate one lane of a space (R113, R118). -/
def Ic.trLane (c : Ic) (s : State) (sp : Space) (a : Opnd) (acc : Access) (v : DWord) : TrRes :=
  let part := c.st.part
  match sp with
  | .spad =>
    let pa := match s.wg? c.st.wg with | some w => w.spadPa v.toNat | none => v.toNat
    .ok { place := .spad, pa := pa, fmt := 0, geom := 0, frame := 0, off := v.toNat, far := false, nc := false, ent := 0 }
  | .vault =>
    if (s.part part).vaultOk v.toNat then
      .ok { place := .vault, pa := v.toNat, fmt := 0, geom := 0, frame := 0, off := 0, far := false, nc := false, ent := 0 }
    else .fail ⟨0x05, vaultCore v.toNat⟩
  | .global =>
    let direct : Option Tr := match a with
      | .t k => ((c.regs.treg k).directTr part (s.part part) acc v.toNat).filter fun (t : Tr) =>
          !s.retiredIn t.place t.frame (frameBytes (c.regs.treg k).size.toNat t.fmt)
      | _ => none
    match direct with
    | some t => .ok { t with ent := s.entOf part v.toNat }
    | none => s.translate (coreOf c.key) part acc v.toNat

/-- A plain access to a formatted page reaches frame bytes only: beyond them PAGE 0x04 (R116, R414). -/
def TrRes.plain (r : TrRes) (n : Nat) : TrRes :=
  match r with
  | .ok t => if t.fmt ≠ 0 ∧ frameBytes 0 t.fmt < t.off + n then .fail ⟨0x04, t.ent⟩ else r
  | _ => r

/-- The lanes sorted by how they translate. -/
structure Sorted where
  ok : List (Nat × DWord × Tr)
  fail : List (Nat × DWord × WalkErr)
  miss : List WalkReq
deriving DecidableEq, Repr

/-- Sort lanes by their translation; a lane is `ok` when each address it expands to translates. -/
def sortLanes (ls : List LaneAddr) (ex : DWord → List DWord) (f : DWord → TrRes) : Sorted :=
  ls.foldr (fun e acc =>
    let rs := (ex e.2).map fun v => (v, f v)
    match rs.filterMap fun r => match r.2 with | .miss w => some w | _ => none with
    | w :: ws => { acc with miss := w :: ws ++ acc.miss }
    | [] =>
      match rs.findSome? fun r => match r.2 with | .fail w => some (r.1, w) | _ => none with
      | some (v, w) => { acc with fail := (e.1, v, w) :: acc.fail }
      | none => { acc with ok := (rs.filterMap fun r => match r.2 with | .ok t => some (e.1, r.1, t) | _ => none) ++ acc.ok })
    { ok := [], fail := [], miss := [] }

/-- The scope at which the accesses of some lanes are ordered: the system, where one goes through a FAR or an NC frame (R111). -/
def reachScope (ok : List (Nat × DWord × Tr)) (scope : Nat) : Nat := if ok.any fun e => e.2.2.far || e.2.2.nc then 6 else scope

/-- The accesses of translated lanes. -/
def accsOf (l : List (Nat × DWord × Tr)) : List Acc :=
  l.map fun e => { lane := e.1, place := e.2.2.place, pa := e.2.2.pa, va := e.2.1 }

/-- Group failures into records, one per entry and subclass, by lowest lane (R366, R411). -/
def failGroups : List (Nat × DWord × WalkErr) → List (WalkErr × DWord × List Nat)
  | [] => []
  | (l, va, w) :: t =>
    -- the list is by ascending lane, so the first lane of a group is its lowest
    let rest := failGroups t
    match rest.find? fun g => g.1 == w with
    | some g => (w, va, l :: g.2.2) :: rest.filter fun h => h.1 != w
    | none => (w, va, [l]) :: rest

/-- The records of failed lanes of a class and, for PAGE, each failure's own subclass (R365, R366). -/
def State.failRecs (s : State) (c : Ic) (cls : Nat) (sub : WalkErr → Nat) (fails : List (Nat × DWord × WalkErr)) :
    List Rec :=
  (failGroups fails).map fun g => s.strandRec c.key c.st cls (sub g.1) c.sp.pc g.2.1 (laneMask g.2.2)

/-- Park the issuing split at its instruction with the lanes still to perform (R374). -/
def State.parkFail (s : State) (c : Ic) (lanes : Mask) (r : Redo) (recs : List Rec) : State :=
  let s := s.onStrand c.key fun st =>
    let sp := { st.split c.slot with
      st := .parked, stall := .trap, words := [], priv := c.sp.st == .trapped, redo := none
      park := some { group := none, byTrap := false, op := none, redo := some r, resume := false } }
    { st with ctx := { st.ctx with splits := st.ctx.splits.set c.slot sp, tmask := lanes, tpc := c.sp.pc.setWidth 64 } }
  let s := s.dropFails (coreOf c.key) c.st.part
  s.postGroup c.st.part { recs := recs, split := some (c.key, c.slot), op := none }

/-! ## Operations in flight -/

/-- Operations a counter holds (R211). -/
def Strand.count (st : Strand) (k : Ctr) : Nat := (st.ops.filter fun o => o.cls == k).length

/-- Is the counter at its limit of 255 (R211)? -/
def Strand.full (st : Strand) (k : Ctr) : Bool := decide (255 ≤ st.count k)

/-- A new operation of the issuing strand (R134, R271). -/
def Ic.newOp (c : Ic) (cls : Ctr) (body : OpBody) (ord scope : Nat) : Op :=
  { id := c.st.opNext, recNo := 0, cls := cls, pc := c.sp.pc, words := c.sp.words, body := body, sym := none,
    acq := ord % 2 == 1, rel := ord / 2 % 2 == 1, scope := scope, done := false, started := false, rows := 0, flags := 0,
    susp := none, group := none, batch := none, joint := none, lanes := c.sp.mask, slot := c.slot }

/-- Does an ordering at a scope bind an observer besides the strand itself (R131)? One at strand scope binds none, nor one at
workgroup scope where the strand is its workgroup's only one; a scope of 0 is the device (R151). -/
def binds (alone : Bool) (scope : Nat) : Bool := scope != 1 && !(scope == 2 && alone)

/-- Is an operation before a later one in program order (R29, R129)? Those of splits that have diverged and not met again share
neither a lane nor a slot (assumption 139). -/
def Op.precedes (p o : Op) : Bool := p.lanes &&& o.lanes != 0 || p.slot == o.slot

/-- An acquire of some lanes: what issues from an id on follows the .late loads now unresolved (R132). -/
def Strand.acquires (st : Strand) (lanes : Mask) (scope id : Nat) : Strand :=
  if binds st.alone scope then
    { st with ops := st.ops.map fun p =>
        if p.sym.isSome && !p.done && p.lanes &&& lanes != 0 then { p with fences := p.fences ++ [(id, lanes)] } else p }
  else st

/-- Add an operation to its strand. -/
def State.addOp (s : State) (key : Nat) (o : Op) : State :=
  s.onStrand key fun st =>
    let st := if o.acq then st.acquires o.lanes o.scope (o.id + 1) else st
    { st with ops := st.ops ++ [o], opNext := o.id + 1 }

/-- An instruction that acquires as it issues has done so (R132). -/
def State.acquired (s : State) (c : Ic) (scope : Nat) : State := s.onStrand c.key fun st => st.acquires c.sp.mask scope st.opNext

/-- What an instruction comes to that acquires at a scope where it ends (R132). -/
def Act.acquired (c : Ic) (scope : Nat) : Act → Act
  | .done t => .done (t.acquired c scope)
  | a => a

/-- The scalar registers that an instruction with an op record reads, in the order of its fields A to D (R271). -/
def recScalars (i : Instr) : List Nat :=
  let one (o : Opnd) : List Nat := match o with | .s n => [n] | _ => []
  let two (o : Opnd) : List Nat := match o with | .s n => [n, n + 1] | _ => []
  match i with
  | .mxmma x => two x.a ++ two x.b ++ two x.c
  | .mxld x => two x.a ++ two x.b
  | .mxst x => two x.a ++ two x.b ++ one x.c
  | .mxfin x => two x.a
  | .ctbm x => one x.a ++ two x.b ++ one x.c
  | .cpy2d x => one x.a ++ two x.b ++ one x.c ++ one x.d
  | .cpy x | .cpym x | .swapf x | .ctb x | .ctbn x | .rst x | .rsigCtr x | .rsigSync x => one x.a ++ one x.b ++ one x.c ++ one x.d
  | .rld x | .ratm x => one x.a ++ one x.b ++ one x.c
  | _ => []

/-- Add an operation that has an op record, numbered by its core (R271, R376); the record holds the scalars read. -/
def State.addRecOp (s : State) (key : Nat) (o : Op) : State :=
  let n := (s.core (coreOf key)).opNext
  let read : List DWord := match s.strand? key, decodeWords o.words with
    | some st, some (i, _) => (recScalars i).map st.ctx.regs.sval
    | _, _ => []
  (s.onCore (coreOf key) fun c => { c with opNext := n + 1 }).addOp key { o with recNo := n.toNat, hasRec := true, scalars := read }

/-- The operation of an id. -/
def Strand.op? (st : Strand) (id : Nat) : Option Op := st.ops.find? fun o => o.id == id

/-- Change an operation. -/
def Strand.onOp (st : Strand) (id : Nat) (f : Op → Op) : Strand :=
  { st with ops := st.ops.map fun o => if o.id == id then f o else o }

/-- Retire what can: an operation retires once it and every older one of its class have completed (R134). -/
def retireOps : List Op → List Ctr → List Op
  | [], _ => []
  | o :: t, held =>
    if o.done && !held.contains o.cls then retireOps t held else o :: retireOps t (o.cls :: held)

/-- The tile that an operation frees as it retires (R260). -/
def Op.frees (o : Op) : Option Nat := match o.body with | .mx .free h _ => some h | _ => none

/-- Retire what can; an MXFREE unbinds its tile as it retires (R260), and a split parked at the delivery point of an operation
that retires goes on (R377). -/
def Strand.retire (st : Strand) : Strand :=
  let left := retireOps st.ops []
  let gone := st.ops.filter fun o => !(left.any fun p => p.id == o.id)
  let awaited (sp : Split) : Bool := (sp.park.bind fun p => p.op).any fun i => gone.any fun o => o.id == i
  { st with ops := left, tiles := (gone.filterMap Op.frees).foldl (fun l h => mapPut none l h none) st.tiles
            ctx := { st.ctx with splits := st.ctx.splits.map fun sp => if awaited sp then sp.unpark else sp } }

/-- Mark an operation completed and retire in order (R134). -/
def Strand.complete (st : Strand) (id : Nat) : Strand :=
  (st.onOp id fun o => { o with done := true }).retire

/-- Offset in the frame of the block scale of element i (R115). -/
def scaleAt (fmt i : Nat) : Nat := if fmt = 1 then 32768 + i / 8 else 65536 + i / 32

/-- Offset in the frame of the band scale of element i of an E2M1 page (R115). -/
def bandAt (geom i : Nat) : Nat := 40960 + 2 * (i / (64 * 2 ^ (3 + geom)))

/-- A byte range: place, first byte, length, written. -/
abbrev ByteRange := Place × Nat × Nat × Bool

/-- The bytes of an element of a formatted page that a load reads: its own, its block scale and its band scale (R116). -/
def Elem.readRanges (e : Elem) : List ByteRange :=
  [(e.place, e.frame + (if e.fmt = 1 then e.off / 2 else e.off), 1, false), (e.place, e.frame + scaleAt e.fmt e.off, 1, false)]
    ++ if e.fmt = 1 then [(e.place, e.frame + bandAt e.geom e.off, 2, false)] else []

/-- The words that a load of an element reads, as accesses of its lane. -/
def Elem.reads (e : Elem) : List Acc := e.readRanges.map fun r => { lane := e.lane, place := r.1, pa := r.2.1, va := e.va }

/-- The bytes of the block of an element that STF writes, with the band scale that it reads (R217). -/
def Elem.writeRanges (e : Elem) : List ByteRange :=
  if e.fmt = 1 then
    [(e.place, e.frame + e.off / 8 * 4, 4, true), (e.place, e.frame + scaleAt 1 e.off, 1, true),
      (e.place, e.frame + bandAt e.geom e.off, 2, false)]
  else [(e.place, e.frame + e.off / 32 * 32, 32, true), (e.place, e.frame + scaleAt e.fmt e.off, 1, true)]

/-- A peer's memory as one line of bytes: each device's virtual addresses from its own multiple of 2^58 on. -/
def peerByte (peer : Nat) (a : DWord) : Nat := 2 ^ 60 + peer * 2 ^ 58 + a.toNat

/-- A range in a FAR frame of another device as a range of that device's memory (R332, assumption 17). -/
def farRange (r : ByteRange) : ByteRange :=
  if r.1 == .peer && decide (r.2.1 < 2 ^ 50) then (.peer, peerByte (r.2.1 / 2 ^ 41) (.ofNat 64 (r.2.1 % 2 ^ 41)), r.2.2) else r

/-- Byte ranges an operation touches, as its accesses name them. -/
def OpBody.spots : OpBody → List ByteRange
  | .load accs ty _ => accs.map fun a => (a.place, a.pa, ty.bytes, false)
  | .loadT accs _ => accs.map fun a => (a.place, a.pa, 2, false)
  | .loadF els _ _ _ _ _ => els.flatMap Elem.readRanges
  | .store accs ty _ => accs.map fun a => (a.place, a.pa, ty.bytes, true)
  | .storeF els _ _ _ _ _ => els.flatMap Elem.writeRanges
  | .atomic accs _ ty _ _ _ _ => accs.map fun a => (a.place, a.pa, ty.bytes, true)
  | .remote r => r.lanes.map fun e => (.peer, peerByte r.peer e.2, r.ty.bytes, match r.kind with | .load => false | _ => true)
  | .sync p a _ => [(p, a, 8, true)]
  | _ => []

/-- Byte ranges an operation touches. -/
def OpBody.ranges (b : OpBody) : List ByteRange := b.spots.map farRange

/-- The 128-byte sectors of main, host and peer memory and of vaults that ranges touch, each once (R18). -/
def sectorsOf (l : List ByteRange) : List (Place × Nat) :=
  (l.flatMap fun r => if r.1 == .spad then [] else (List.range ((r.2.1 % 128 + r.2.2.1 + 127) / 128)).map fun i => (r.1, r.2.1 / 128 + i)).eraseDups

/-- The sectors that a core has outstanding (R18). -/
def State.sectorsOut (s : State) (core : Nat) : Nat :=
  (s.strands.filter fun e => decide (coreOf e.1 = core)).foldl (fun n e =>
    e.2.ops.foldl (fun n o => if o.done then n else n + (sectorsOf o.body.ranges).length) n) 0

/-- Do ranges fit beside the sectors that a core has outstanding (R18)? -/
def State.sectorsFit (s : State) (core : Nat) (l : List ByteRange) : Bool := decide (s.sectorsOut core + (sectorsOf l).length ≤ 2048)

/-- A request that would pass a core's 2048 outstanding sectors waits at issue (R18, R121). -/
def Ic.sectorRoom (c : Ic) (s : State) (l : List ByteRange) (k : Act) : Act :=
  if s.sectorsFit (coreOf c.key) l then k else .wait s .scoreboard

/-- The addresses that an MXST writes or an access to memory names: space, address and length, row by row (R265). -/
def OpBody.names : OpBody → List (Space × Nat × Nat)
  | .mx (.store ty x rows cols _ _ _ _ _) _ _ =>
    let (r, c) := if x.trans then (cols, rows) else (rows, cols)
    (List.range r).map fun i => (x.space, x.addr.toNat + i * x.stride * ty.bytes, c * ty.bytes)
  | b =>
    let of (p : Place) (va : DWord) (n : Nat) : Space × Nat × Nat :=
      (match p with | .spad => .spad | .vault => .vault | _ => .global, va.toNat, n)
    (match b with
      | .load accs ty _ | .store accs ty _ | .atomic accs _ ty _ _ _ _ => accs.map fun a => of a.place a.va ty.bytes
      | .loadT accs _ => accs.map fun a => of a.place a.va 2
      | .loadF els _ _ _ _ _ | .storeF els _ _ _ _ _ => els.map fun e => of e.place e.va 1
      | _ => [])

/-- Is an operation an MXST? -/
def OpBody.isMxst : OpBody → Bool
  | .mx (.store ..) _ _ => true
  | _ => false

/-- Does an MXST name a byte that the other operation names (R130, R265)? -/
def mxstMeets (a b : OpBody) : Bool :=
  (a.isMxst || b.isMxst) && a.names.any fun x => b.names.any fun y =>
    x.1 == y.1 && decide (x.2.1 < y.2.1 + y.2.2 ∧ y.2.1 < x.2.1 + x.2.2)

/-- What keeps program order with a range: its bytes, and in a peer's memory its 128-byte lines (R317). -/
def inOrder (r : ByteRange) : ByteRange :=
  if r.1 == .peer then (.peer, r.2.1 / 128 * 128, (r.2.1 % 128 + r.2.2.1 + 127) / 128 * 128, r.2.2.2) else r

/-- Two reads of one location also keep program order (R130: coherence). -/
def sameLoc (a b : OpBody) : Bool :=
  mxstMeets a b || (a.ranges.map inOrder).any fun x => (b.ranges.map inOrder).any fun y =>
    x.1 == y.1 && decide (x.2.1 < y.2.1 + y.2.2.1 ∧ y.2.1 < x.2.1 + x.2.2.1)

/-- Does an operation load? -/
def Op.loads (o : Op) : Bool :=
  match o.body with
  | .load .. => true | .loadT .. => true | .loadF .. => true | .atomic .. => true | .remote r => (match r.kind with | .load => true | .atomic _ => true | _ => false) | _ => false

/-- Does an operation bring bytes of memory to its strand? -/
def Op.reads (o : Op) : Bool :=
  o.loads || match o.body with | .copy _ | .swap .. => true | .mx (.mma ..) _ _ => true | .mx (.load ..) _ _ => true | _ => false

/-- The bytes that a load names; none for an engine's operation, which names its own as it reads. -/
def Op.spots? (o : Op) : Option (List ByteRange) := if o.loads then some o.body.ranges else none

/-- Is an operation one of the strand's own stores, at the scope of a workgroup or a cluster? -/
def Op.narrow (o : Op) : Bool :=
  o.cls == .st && (o.scope == 2 || o.scope == 3) && match o.body with | .remote _ => false | _ => true

/-- Does an operation store? -/
def Op.stores (o : Op) : Bool :=
  match o.body with
  | .store .. => true | .storeF .. => true | .atomic .. => true | .sync .. => true | .mx (.store ..) _ _ => true | .remote r => (match r.kind with | .load => false | _ => true) | _ => false

/-- Does an older operation of a strand keep a later one back (R130, R132)? A release at the scope of a workgroup or a cluster may
perform before an older store, hidden from its observers till then (R131). -/
def Op.before (alone : Bool) (p o : Op) : Bool :=
  (p.acq && binds alone p.scope) || (o.rel && binds alone o.scope && (p.cls == .ld || (p.cls == .st && !o.narrow)))
    || (p.loads && o.stores) || sameLoc p.body o.body

/-- May an operation perform now: no older operation of the strand that R130 and R132 keep before it is outstanding? -/
def Strand.mayPerform (st : Strand) (o : Op) : Bool :=
  (st.ops.takeWhile fun p => p.id != o.id).all fun p =>
    p.done || !((p.precedes o && p.before st.alone o) || p.fences.any fun f => decide (f.1 ≤ o.id) && f.2 &&& o.lanes != 0)

/-- The narrow releases of a strand that have performed while an older store of it has not (R131). -/
def Strand.hides (st : Strand) : List Op :=
  st.ops.filter fun r => r.done && r.rel && r.narrow && binds st.alone r.scope &&
    (st.ops.takeWhile fun p => p.id != r.id).any fun p => !p.done && p.cls == .st && p.precedes r

/-- Does an operation meet the sector that a swap is exchanging with another device (R127)? An engine's operation, which names its
bytes as it goes, waits for any such sector. -/
def State.exchanging (s : State) (o : Op) : Bool :=
  [0, 1].any fun d =>
    match (s.dieSt d).swap with
    | none => false
    | some x =>
      ((s.far.wait.any fun w => w.key == .swap d) || s.far.known.any fun e => e.1 == .swap d) &&
        match o.body with
        | .copy _ => true
        | .mx _ _ _ => true
        | b => b.ranges.any fun r =>
          let meets (p : Place × Nat) : Bool :=
            r.1 == p.1 && decide (r.2.1 < p.2 + 4096 * (x.at_ + 1) ∧ p.2 + 4096 * x.at_ < r.2.1 + r.2.2.1)
          meets (.flostra, x.near) || meets (s.swapFar x)

/-- Is what an operation of a strand accesses held back: the sector under exchange (R127), or what it reads is hidden from it (R131),
written by a release of another strand, whose scope holds both, before the stores that it orders? -/
def State.hidden (s : State) (key : Nat) (o : Op) : Bool :=
  s.exchanging o || o.reads && s.strands.any fun e =>
    e.1 != key && e.2.hides.any fun r =>
      (if r.scope = 2 then ((s.strand? key).any fun st => st.wg == e.2.wg) else clusterOf (coreOf key) == clusterOf (coreOf e.1))
        && (o.spots?.elim true fun l => l.any fun x => r.body.ranges.any fun y =>
          x.1 == y.1 && decide (x.2.1 < y.2.1 + y.2.2.1 ∧ y.2.1 < x.2.1 + x.2.2.1))

/-- An access that performs as its instruction issues follows what R130 and R132 keep before it. -/
def Ic.follows (c : Ic) (s : State) (o : Op) (why : Stall) (k : Act) : Act :=
  if c.st.mayPerform o && !s.hidden c.key o then k else .wait s why

/-- A release at device scope follows the strand's older accesses (R132). -/
def Ic.released (c : Ic) (s : State) (why : Stall) (k : Act) : Act := c.follows s (c.newOp .st (.store [] .b32 []) 2 0) why k

/-- An access that performs as its instruction issues follows the strand's older acquires (R132). -/
def Ic.acquired (c : Ic) (s : State) (k : Act) : Act := c.follows s (c.newOp .ld (.load [] .b32 .none) 0 0) .scoreboard k

/-! ## Uncorrectable words -/

/-- The DATA subclass of a place (R364, R419). -/
def dataSub : Place → Nat
  | .spad => 0x02 | .vault => 0x04 | _ => 0x06

/-- The DATA subclass of an upset word (R364, R419, R421). -/
def Upset.sub (u : Upset) : Nat := if u.l2.isSome then 0x05 else dataSub u.place

/-- The upset word that a read of n bytes meets, if any. -/
def State.upsetAt (s : State) (p : Place) (a n : Nat) : Option Upset :=
  s.upsets.find? fun u => u.place == p && decide (u.addr < a + n ∧ a < u.addr + protBytes p)

/-- The loss pattern of a place's word (R420). -/
def lossOf (p : Place) : Nat := if p = .spad then 0xAAAAAAAA else 0xAAAAAAAAAAAAAAAA

/-- A row of a vault or of the L2 is disabled for the lasting fault of a word, with a CORE 0x03 record (R384). -/
def State.disableRow (s : State) (part : Nat) (p : Place) (a : Nat) : State :=
  if s.disabled.contains (p, a) then s
  else ({ s with disabled := s.disabled ++ [(p, a)] }).postRec part (plainRec 0x09 0x03 (.ofNat 64 (a + 2 ^ 63)))

/-- Treat an upset word found by a read (R383, R384, R420, R421): the state and OUTCOME 1, 2 or 3. A clean line of the L2 is read
again from main memory. -/
def State.treatUpset (s : State) (part : Nat) (u : Upset) : State × Nat :=
  let gone := { s with upsets := s.upsets.filter fun v => v != u }
  let r := { plainRec 0x05 u.sub (.ofNat 64 (u.addr + 2 ^ 63)) with outcome := 1 }
  if u.rereadOk || u.l2 == some false then (gone.postRec part r, 1)
  else if u.sound then (gone.store u.place u.addr (protBytes u.place) (lossOf u.place), 2)
  else
    match u.place, u.l2 with
    | .flostra, none =>
      let page := u.addr / 65536 * 65536
      if s.retired.contains page then (s, 3)
      else (({ s with retired := s.retired ++ [page] }).postRec part (plainRec 0x09 0x02 (.ofNat 64 (page + 2 ^ 63))), 3)
    | .flostra, some _ | .vault, _ => (s.disableRow part u.place u.addr, 3)
    | .spad, _ => (s.onCore (u.addr / Config.spadBytes) fun c => { c with failing := true }, 3)
    | _, _ => (s, 3)

/-- Treat an upset word that no reader of this device meets: a loss is routed to the policy (R422). -/
def State.lossAlone (s : State) (part : Nat) (u : Upset) : State :=
  let (s, o) := s.treatUpset part u
  if o = 1 then s
  else
    s.route { part := part, wg := none, split := none, op := none, core := if u.place = .vault then u.addr / Config.vaultBytes else 0
              fault := { plainRec 0x05 u.sub (.ofNat 64 (u.addr + 2 ^ 63)) with outcome := o } }

/-- Scan the words that the accesses of an instruction read: the state, the lanes whose words are lost, the subclass and
the worst outcome (R422). -/
def State.eccScan (s : State) (part n : Nat) (accs : List Acc) : State × List Nat × Nat × Nat :=
  accs.foldl (fun acc a =>
    let (q, b) := acc.1.redirect a.place a.pa
    match acc.1.upsetAt q b n with
    | none => acc
    | some u =>
      let (s', o) := acc.1.treatUpset part u
      if o = 1 then (s', acc.2) else (s', a.lane :: acc.2.1, u.sub, max o acc.2.2.2)) (s, [], 0, 0)

/-- Park the issuing split at its instruction, whatever TVEC holds, with a fault that is routed. -/
def State.parkRouted (s : State) (c : Ic) (t : Trap) (r : Rec) : State :=
  let s := (s.dropFails (coreOf c.key) c.st.part).onStrand c.key fun st =>
    let sp := { st.split c.slot with st := .parked, stall := .trap, words := [], priv := c.sp.st == .trapped,
                                     park := some parkByTrap }
    let ctx := st.ctx.trapRegs t c.slot c.sp.pc
    { st with ctx := { ctx with splits := ctx.splits.set c.slot sp } }
  s.route { part := c.st.part, wg := some c.st.wg, split := some (c.key, c.slot), op := none, fault := r,
            core := coreOf c.key }

/-- Deliver a loss precisely: nothing performs and the split parks whatever TVEC holds (R384, R422). -/
def State.parkLoss (s : State) (c : Ic) (lanes : Mask) (sub outcome code : Nat) : State :=
  s.parkRouted c { cls := 0x05, sub := sub, code := code, lanes := lanes, restart := true, async := false, oprec := 0 }
    { s.strandRec c.key c.st 0x05 sub c.sp.pc 0 lanes with outcome := outcome, precise := true }

/-! ## Sync words and memory counters -/

/-- An update of a sync word or counter (R228, R234, R235). -/
def SyncUpd.apply (u : SyncUpd) (w : DWord) : DWord :=
  match u with
  | .arm p e => 0x8000000000000000 ||| ((e.setWidth 64) <<< 48) ||| p.setWidth 64
  | .add d => w + d
  | .arrive n f =>
    let f := f &&& 0xFF7F
    let p : Word := w.setWidth 32
    let w := if p.toNat < n.toNat then w ||| 0x4000000000000000 else w
    let q : Word := if p.toNat < n.toNat then 0 else p - n
    (w &&& 0xFFFFFFFF00000000) ||| q.setWidth 64 ||| ((f.setWidth 64) <<< 32)

/-- Does a sync word pass for an epoch (R228)? -/
def syncPasses (w : DWord) (epoch : Nat) : Bool :=
  w.getLsbD 63 && w.toNat / 2 ^ 48 % 256 == epoch && w.toNat % 2 ^ 32 == 0

/-- Update the word at a place, indivisibly (R228). -/
def State.syncAt (s : State) (p : Place) (pa : Nat) (u : SyncUpd) : State :=
  let (q, b) := s.redirect p pa
  if q = .peer then s.farAsk (.update b u) else (s.store q b 8 (u.apply (.ofNat 64 (s.load q b 8))).toNat).wrote q b 8

/-- Where a sync word of a space lies for a strand's workgroup, if it translates. -/
def State.syncPlace (s : State) (core part wg : Nat) (sp : Space) (a : DWord) : Except WalkErr (Place × Nat) × State :=
  match sp with
  | .spad => (.ok (.spad, match s.wg? wg with | some w => w.spadPa a.toNat | none => a.toNat), s)
  | .vault => if (s.part part).vaultOk a.toNat then (.ok (.vault, a.toNat), s) else (.error ⟨0x05, vaultCore a.toNat⟩, s)
  | .global =>
    match s.trNow core part .write a.toNat with
    | (.ok t, s) => (.ok (t.place, t.pa), s)
    | (.error e, s) => (.error e, s)

/-- Update a word of the partition's global memory on the device's behalf; nothing where it does not translate. -/
def State.vsync (s : State) (part va : Nat) (u : SyncUpd) : State :=
  match s.trDev part .write va with
  | some t =>
    let (q, b) := s.redirect t.place t.pa
    (if q = .peer then s.farPost part [.update b u] else s.syncAt t.place t.pa u).touch t.ent .write
  | none => s

/-! ## The frame of a memory instruction -/

/-- One memory instruction, its operands known and its lanes' addresses checked, or a redo (R374, R375). -/
structure MemAct where
  space : Space
  a : Opnd
  acc : Access
  /-- bytes that each access touches. -/
  bytes : Nat
  /-- does it read memory (R422)? -/
  reads : Bool
  cls : Ctr
  /-- a per-split form, whose failure concerns the whole split (R412). -/
  whole : Bool := false
  lanes : List LaneAddr
  /-- the addresses a lane's address stands for. -/
  expand : DWord → List DWord := fun v => [v]
  /-- data captured at the first issue, lane by lane (R375). -/
  data : List DWord := []
  data2 : List DWord := []
  /-- the words that the translated lanes read, looked at for lost data (R420, R422). -/
  scan : List (Nat × DWord × Tr) → List Acc := accsOf
  /-- is each translated lane acceptable: formatted pages for LDF and STF (R404, R414)? -/
  judge : TrRes → TrRes
  /-- the bytes that translated lanes touch. -/
  ranges : List (Nat × DWord × Tr) → List ByteRange
  /-- the effect for the lanes that translate. -/
  perform : State → List (Nat × DWord × Tr) → State

/-- Write accesses set D in the leaf entries they go through (R111). -/
def State.touchAll (s : State) (part : Nat) (acc : Access) (sp : Space) (ok : List (Nat × DWord × Tr)) : State :=
  if sp != .global || acc != .write then s
  else
    ok.foldl (fun s e =>
      match s.walk part .read e.2.1.toNat with
      | .ok l => s.touch l.ent .write
      | .error _ => s) s

/-- The symbols of unresolved .late loads one of whose 128-byte sectors a store touches: by the sectors of the lanes that have
translated, and by address for every lane of the load (R101). -/
def Strand.lateHits (st : Strand) (sp : Space) (ok : List (Nat × DWord × Tr)) (rs : List ByteRange) : List Nat :=
  let hit := sectorsOf rs
  st.ops.filterMap fun o =>
    match o.sym, o.body with
    | none, _ => none
    | some n, .remote r => if (sectorsOf (OpBody.remote r).ranges).any hit.contains then some n else none
    | some n, b =>
      let named : Bool := match st.syms.find? fun y => y.num == n with
        | some y => y.space == sp && (lanesOf y.mask).any fun l => ok.any fun e =>
            decide ((y.addrs.getD l 0).toNat / 128 = e.2.1.toNat / 128)
        | none => false
      if named || (sectorsOf b.ranges).any hit.contains then some n else none

/-- The bytes that plain accesses of n bytes touch. -/
def plainRanges (ok : List (Nat × DWord × Tr)) (n : Nat) (w : Bool) : List ByteRange :=
  ok.map fun e => farRange (e.2.2.place, e.2.2.pa, n, w)

/-- Translate the lanes, perform those that translate and park for the others (R374); wait for walks (R114) and for room
among the core's outstanding sectors (R121). -/
def Ic.memIssue (c : Ic) (s : State) (m : MemAct) : Act :=
  if c.st.full m.cls then .wait s .counterWait
  else
    let r := sortLanes m.lanes m.expand fun v => m.judge (c.trLane s m.space m.a m.acc v)
    let late := if m.acc = .write then c.st.lateHits m.space r.ok (m.ranges r.ok) else []
    if !r.miss.isEmpty then .wait (s.askWalks (coreOf c.key) r.miss) .scoreboard
    else if !late.isEmpty then .waitSym s late
    else c.sectorRoom s (m.ranges r.ok) <|
      let (s1, lost, sub, out) := if m.reads then s.eccScan c.st.part m.bytes (m.scan r.ok) else (s, [], 0, 0)
      let maskFor (ls : List Nat) : Mask := if m.whole then c.sp.mask else laneMask ls
      if !lost.isEmpty then .stay (s1.parkLoss c (maskFor lost) sub out 2)
      else
        let s2 := if m.lanes.isEmpty || !r.ok.isEmpty then m.perform (s1.touchAll c.st.part m.acc m.space r.ok) r.ok else s1
        if r.fail.isEmpty then .done s2
        else
          let lanes := maskFor (r.fail.map (·.1))
          let redo : Redo := { lanes := lanes, addrs := lanes256.map fun l => mapGet 0 m.lanes l,
                               data := m.data, data2 := m.data2 }
          let recs := (s.failRecs c 0x01 (fun w => w.sub) r.fail).map fun q => if m.whole then { q with mask := lanes } else q
          .stay (s2.parkFail c lanes redo recs)

/-- The lanes and addresses of a redo (R375); a per-split form performs once. -/
def Redo.lanesOf (r : Redo) (whole : Bool) : List LaneAddr :=
  let ls := (Machine.lanesOf r.lanes).map fun l => (l, r.addrs.getD l 0)
  if whole then (ls.take 1) else ls

/-- The lanes of a first issue or of a redo. -/
def Ic.memLanes (c : Ic) (whole : Bool) (fresh : List LaneAddr) : List LaneAddr :=
  match c.sp.redo with
  | some r => r.lanesOf whole
  | none => fresh

/-- The data of a first issue or, for a redo, those captured then (R375). -/
def Ic.memData (c : Ic) (fresh : List DWord) : List DWord := match c.sp.redo with | some r => r.data | none => fresh
/-- The second data list likewise. -/
def Ic.memData2 (c : Ic) (fresh : List DWord) : List DWord := match c.sp.redo with | some r => r.data2 | none => fresh

/-- Checks that only a first issue makes (R375). -/
def Ic.firstIssue (c : Ic) (check : Option Act) (k : Act) : Act :=
  match c.sp.redo, check with
  | none, some a => a
  | _, _ => k

end Sys2Proof.Machine
end

