-- ==== Sys2Proof/Machine/Sint.lean ====
section
/-! DEFINITION. Scalar integer instructions (R182 to R185) and the shared operations their base forms call. -/

namespace Sys2Proof.Machine

open Sys2Proof

/-- A scalar result from known operands, each cut to the type (R183). -/
def sintOp (s : State) (len : Nat) (x : Opnds) (ops : List Opnd) (g : List DWord → DWord) :
    Host.Outcome State Fault Refusal :=
  issue s len fun c => c.known s x (ops.map fun o => (o, true)) fun offs =>
    c.toS s x.d.snum (g (offs.map fun o => o.at 0))

/-- A two-operand scalar result in the type's integers (R182). -/
def sint2 (s : State) (len : Nat) (x : Opnds) (t : Ty) (g : Int → Int → Int) : Host.Outcome State Fault Refusal :=
  sintOp s len x [x.a, x.b] fun vs => scalarOut t (g (intVal t (vs.getD 0 0)) (intVal t (vs.getD 1 0)))

/-- Write a pendant form into a scalar (R98, R99): it needs a form record. -/
def Ic.writeFormS (c : Ic) (s : State) (n : Nat) (f : Form) : Act :=
  if c.st.busy (.s n) false then .wait s .scoreboard
  else if !c.regs.spend n && decide (256 ≤ s.formsUsed (quarterOf c.key)) then .waitSym s [f.sym]
  else .done (s.putRegs c (c.regs.pendS n f))

/-- SADD and SMUL: a step on one pendant operand of a 64-bit type (R99), else the value. -/
def sintPnd (s : State) (len : Nat) (x : Opnds) (t : Ty) (g : Int → Int → Int) (h : Form → Off → Form) :
    Host.Outcome State Fault Refusal :=
  issue s len fun c =>
    if c.st.busy x.a true || c.st.busy x.b true then .wait s .scoreboard
    else
      match c.regs.read x.lit true x.a, c.regs.read x.lit true x.b with
      | .pend f, .known k => if f.intOk t.is64 then c.writeFormS s x.d.snum (h f k) else .waitSym s [f.sym]
      | .known k, .pend f => if f.intOk t.is64 then c.writeFormS s x.d.snum (h f k) else .waitSym s [f.sym]
      | .known a, .known b => c.toS s x.d.snum (scalarOut t (g (intVal t (a.at 0)) (intVal t (b.at 0))))
      | .pend f, .pend g => .waitSym s [f.sym, g.sym]

/-- Shared SADD (R182). -/
def saddOp (s : State) (len : Nat) (x : Opnds) (t : Ty) : Host.Outcome State Fault Refusal :=
  sintPnd s len x t (· + ·) Form.addK

/-- Shared SMUL (R182). -/
def smulOp (s : State) (len : Nat) (x : Opnds) (t : Ty) : Host.Outcome State Fault Refusal :=
  sintPnd s len x t (· * ·) fun f k => f.mulU (k.at 0)

/-- The count operand of a shift: its low w bits, unsigned (R185). -/
def shiftCount (t : Ty) (x : DWord) : Nat := x.toNat % 2 ^ t.width

/-- Shared scalar shift (R185). -/
def sshiftOp (s : State) (len : Nat) (x : Opnds) (t : Ty) (g : Ty → Int → Nat → Int) : Host.Outcome State Fault Refusal :=
  sintOp s len x [x.a, x.b] fun vs => scalarOut t (g t (intVal t (vs.getD 0 0)) (shiftCount t (vs.getD 1 0)))

/-- Shared SMOV (R182). -/
def smovOp (s : State) (len : Nat) (x : Opnds) (t : Ty) : Host.Outcome State Fault Refusal :=
  sintOp s len x [x.a] fun vs => scalarOut t (intVal t (vs.getD 0 0))

/-- A bitwise operation on the naturals below 2^w. -/
def bitOp (g : Nat → Nat → Nat) (a b : Int) : Int := (g a.toNat b.toNat : Nat)

def execSadd (x : Opnds) (s : State) : Host.Outcome State Fault Refusal := saddOp s x.len x x.t
def execSsub (x : Opnds) (s : State) : Host.Outcome State Fault Refusal := sint2 s x.len x x.t (· - ·)
def execSmul (x : Opnds) (s : State) : Host.Outcome State Fault Refusal := smulOp s x.len x x.t
def execSmad (x : Opnds) (s : State) : Host.Outcome State Fault Refusal :=
  sintOp s x.len x [x.a, x.b, x.c] fun vs =>
    scalarOut x.t (intVal x.t (vs.getD 0 0) * intVal x.t (vs.getD 1 0) + intVal x.t (vs.getD 2 0))
def execSmulh (x : Opnds) (s : State) : Host.Outcome State Fault Refusal := sint2 s x.len x x.t (imulh x.t)
def execSdiv (x : Opnds) (s : State) : Host.Outcome State Fault Refusal := sint2 s x.len x x.t idiv
def execSrem (x : Opnds) (s : State) : Host.Outcome State Fault Refusal := sint2 s x.len x x.t irem
def execSand (x : Opnds) (s : State) : Host.Outcome State Fault Refusal := sint2 s x.len x x.t (bitOp (· &&& ·))
def execSor (x : Opnds) (s : State) : Host.Outcome State Fault Refusal := sint2 s x.len x x.t (bitOp (· ||| ·))
def execSxor (x : Opnds) (s : State) : Host.Outcome State Fault Refusal := sint2 s x.len x x.t (bitOp (· ^^^ ·))
def execSshl (x : Opnds) (s : State) : Host.Outcome State Fault Refusal := sshiftOp s x.len x x.t ishl
def execSshr (x : Opnds) (s : State) : Host.Outcome State Fault Refusal := sshiftOp s x.len x x.t ishr
def execSsar (x : Opnds) (s : State) : Host.Outcome State Fault Refusal := sshiftOp s x.len x x.t ishr
def execSmin (x : Opnds) (s : State) : Host.Outcome State Fault Refusal := sint2 s x.len x x.t min
def execSmax (x : Opnds) (s : State) : Host.Outcome State Fault Refusal := sint2 s x.len x x.t max
def execSmov (x : Opnds) (s : State) : Host.Outcome State Fault Refusal := smovOp s x.len x x.t
def execSsel (x : Opnds) (s : State) : Host.Outcome State Fault Refusal :=
  issueX s x fun c => c.known s x [(x.a, true), (x.b, true)] fun offs =>
    let v := if c.regs.sp x.c.qnum then (offs.getD 0 (.u 0)).at 0 else (offs.getD 1 (.u 0)).at 0
    c.toS s x.d.snum (scalarOut x.t (intVal x.t v))
def execSclz (x : Opnds) (s : State) : Host.Outcome State Fault Refusal :=
  sintOp s x.len x [x.a] fun vs => .ofNat 64 (clz x.t.width (modW x.t.width (intVal x.t (vs.getD 0 0))))
def execSpopc (x : Opnds) (s : State) : Host.Outcome State Fault Refusal :=
  sintOp s x.len x [x.a] fun vs => .ofNat 64 (popc (modW x.t.width (intVal x.t (vs.getD 0 0))))
def execSbfe (x : Opnds) (s : State) : Host.Outcome State Fault Refusal :=
  sintOp s x.len x [x.a, x.b, x.c] fun vs =>
    scalarOut x.t (bfe x.t (modW x.t.width (intVal x.t (vs.getD 0 0))) (shiftCount x.t (vs.getD 1 0))
      (shiftCount x.t (vs.getD 2 0)))
/-- SBFI (R185). Where nothing is inserted the destination keeps its value, a 32-bit one zero-extended (assumption 121). -/
def execSbfi (x : Opnds) (s : State) : Host.Outcome State Fault Refusal :=
  sintOp s x.len x [x.a, x.b, x.c, x.d] fun vs =>
    let w := x.t.width
    let d := (vs.getD 3 0).toNat % 2 ^ w
    scalarOut x.t (bfi w ((vs.getD 0 0).toNat % 2 ^ w) d (shiftCount x.t (vs.getD 1 0)) (shiftCount x.t (vs.getD 2 0)) : Nat)

end Sys2Proof.Machine
end

