-- ==== Sys2Proof/Machine/Vint.lean ====
section
/-! DEFINITION. Vector integer instructions (R186, R187) and the shared operations their base forms call. -/

namespace Sys2Proof.Machine

open Sys2Proof

/-- Issue a per-lane instruction of `len` words into its D register. -/
def vecOp (s : State) (len : Nat) (x : Opnds) (dWide : Bool) (ops : List (Opnd × Bool)) (o : VecOp) :
    Host.Outcome State Fault Refusal :=
  issue s len fun c => c.vec s x x.d.vnum dWide ops o

/-- The first values of a list of operands. -/
def arg0 (vs : List DWord) : DWord := vs.getD 0 0
/-- The second operand. -/
def arg1 (vs : List DWord) : DWord := vs.getD 1 0
/-- The third operand. -/
def arg2 (vs : List DWord) : DWord := vs.getD 2 0

/-- A lane of a type from an integer: 32 bits, or 64 for a pair. -/
def laneOut (t : Ty) (i : Int) : DWord := .ofNat 64 (modW (max 32 t.width) i)

/-- A two-operand integer lane function (R186). -/
def laneInt2 (t : Ty) (g : Int → Int → Int) : Nat → List DWord → DWord × Half :=
  fun _ vs => (.ofNat 64 (modW t.width (g (intVal t (arg0 vs)) (intVal t (arg1 vs)))), 0)

/-- Plain two-operand VINT. -/
def vint2 (s : State) (len : Nat) (x : Opnds) (t : Ty) (g : Int → Int → Int) : Host.Outcome State Fault Refusal :=
  vecOp s len x t.is64 [(x.a, t.is64), (x.b, t.is64)] { f := laneInt2 t g }

/-- Plain one-operand VINT. -/
def vint1 (s : State) (len : Nat) (x : Opnds) (t : Ty) (g : Int → Int) : Host.Outcome State Fault Refusal :=
  vecOp s len x t.is64 [(x.a, t.is64)]
    { f := fun _ vs => (.ofNat 64 (modW t.width (g (intVal t (arg0 vs)))), 0) }

/-- The affine result of VADD and VSUB on 32-bit operands of shapes U and A (R91). -/
def affAddSub (wide : Bool) (g : Off → Off → Off) : List Off → Option Off
  | [x, y] => if wide || x.code == 2 || y.code == 2 then none else some (g x y)
  | _ => none

/-- The affine result of VMUL: A by U (R91). -/
def affMul (wide : Bool) : List Off → Option Off
  | [.a b s, .u k] => if wide then none else some ((Off.a b s).map false fun d => d * k)
  | [.u k, .a b s] => if wide then none else some ((Off.a b s).map false fun d => d * k)
  | _ => none

/-- The affine result of VSHL: A shifted by U (R91). -/
def affShl (wide : Bool) : List Off → Option Off
  | [.a b s, .u k] => if wide then none else some ((Off.a b s).map false fun d => shlW false d k)
  | _ => none

/-- Shared VADD (R186, R91, R99). -/
def vaddOp (s : State) (len : Nat) (x : Opnds) (t : Ty) : Host.Outcome State Fault Refusal :=
  let w := t.is64
  vecOp s len x w [(x.a, w), (x.b, w)]
    { f := laneInt2 t (· + ·), aff := affAddSub w (Off.add false),
      pnd := fun _ _ l => match l with
        | [.pend f, .known k] => if f.intOk w then some (f.addK k, []) else none
        | [.known k, .pend f] => if f.intOk w then some (f.addK k, []) else none
        | _ => none }

/-- Shared VSUB (R186, R91, R99). -/
def vsubOp (s : State) (len : Nat) (x : Opnds) (t : Ty) : Host.Outcome State Fault Refusal :=
  let w := t.is64
  vecOp s len x w [(x.a, w), (x.b, w)]
    { f := laneInt2 t (· - ·), aff := affAddSub w (Off.sub false),
      pnd := fun _ _ l => match l with
        | [.pend f, .known k] => if f.intOk w then some (f.subK k, []) else none
        | [.known k, .pend f] => if f.intOk w then some (f.subFrom k, []) else none
        | _ => none }

/-- Shared VMUL (R186, R91, R99): a step by a uniform only. -/
def vmulOp (s : State) (len : Nat) (x : Opnds) (t : Ty) : Host.Outcome State Fault Refusal :=
  let w := t.is64
  vecOp s len x w [(x.a, w), (x.b, w)]
    { f := laneInt2 t (· * ·), aff := affMul w,
      pnd := fun _ _ l => match l with
        | [.pend f, .known (.u k)] => if f.intOk w then some (f.mulU k, []) else none
        | [.known (.u k), .pend f] => if f.intOk w then some (f.mulU k, []) else none
        | _ => none }

/-- A lane shift (R185). -/
def laneShift (t : Ty) (g : Ty → Int → Nat → Int) : Nat → List DWord → DWord × Half :=
  fun _ vs => (.ofNat 64 (modW t.width (g t (intVal t (arg0 vs)) (shiftCount t (arg1 vs)))), 0)

/-- Shared VSHL (R185, R91, R99). -/
def vshlOp (s : State) (len : Nat) (x : Opnds) (t : Ty) : Host.Outcome State Fault Refusal :=
  let w := t.is64
  vecOp s len x w [(x.a, w), (x.b, w)]
    { f := laneShift t ishl, aff := affShl w,
      pnd := fun _ _ l => match l with
        | [.pend f, .known (.u k)] => if f.intOk w then some (f.shlU k, []) else none
        | _ => none }

/-- Shared VSHR and VSAR (R185). -/
def vshrOp (s : State) (len : Nat) (x : Opnds) (t : Ty) : Host.Outcome State Fault Refusal :=
  let w := t.is64
  vecOp s len x w [(x.a, w), (x.b, w)] { f := laneShift t ishr }

/-- Shared VMOV: the shape, the entry or the form of its source (R91, R99), a float form with its steps too (assumption 119). -/
def vmovOp (s : State) (len : Nat) (x : Opnds) (t : Ty) : Host.Outcome State Fault Refusal :=
  let w := t.is64
  vecOp s len x w [(x.a, w)]
    { f := fun _ vs => (arg0 vs, 0),
      aff := fun l => match l with
        | [.a b s] => if w then none else some (.a b s)
        | _ => none,
      pnd := fun _ _ l => match l with
        | [.pend f] => if f.wide == w then some (f, []) else none
        | _ => none }

/-- Shared VLANE (R186): the lane index, shape A. -/
def vlaneOp (s : State) (len : Nat) (x : Opnds) : Host.Outcome State Fault Refusal :=
  vecOp s len x false [(.lane, false)] { f := fun _ vs => (arg0 vs, 0), aff := fun _ => some (.a 0 1) }

/-- Change the state of an instruction that has its effect. -/
def Act.also (a : Act) (f : State → State) : Act := match a with | .done s => .done (f s) | b => b

/-- Element `j` of a lane, `w` bits wide. -/
def elemOf (w j : Nat) (x : DWord) : DWord := .ofNat 64 (x.toNat / 2 ^ (w * j) % 2 ^ w)

/-- VDOT4 of one lane (R187). -/
def dot4 (t : Ty) (a b c : DWord) : DWord :=
  .ofNat 64 (modW 32 ((List.range 4).foldl
    (fun acc j => acc + intVal t (elemOf 8 j a) * intVal t (elemOf 8 j b)) (intVal .i32 c)))

/-- VSADD of one lane: each element clamped to the type (R187). -/
def satAdd (t : Ty) (a b : DWord) : DWord :=
  let w := t.width
  let (lo, hi) := tyRange t
  .ofNat 64 ((List.range (32 / w)).foldr (fun j acc =>
    modW w (max lo (min hi (intVal t (elemOf w j a) + intVal t (elemOf w j b)))) + 2 ^ w * acc) 0)

def execVadd (x : Opnds) (s : State) : Host.Outcome State Fault Refusal := vaddOp s x.len x x.t
def execVsub (x : Opnds) (s : State) : Host.Outcome State Fault Refusal := vsubOp s x.len x x.t
def execVmul (x : Opnds) (s : State) : Host.Outcome State Fault Refusal := vmulOp s x.len x x.t
def execVmad (x : Opnds) (s : State) : Host.Outcome State Fault Refusal :=
  vecOp s x.len x false [(x.a, false), (x.b, false), (x.c, false)]
    { f := fun _ vs => (.ofNat 64 (modW 32 (intVal x.t (arg0 vs) * intVal x.t (arg1 vs) + intVal x.t (arg2 vs))), 0) }
def execVmulh (x : Opnds) (s : State) : Host.Outcome State Fault Refusal := vint2 s x.len x x.t (imulh x.t)
def execVand (x : Opnds) (s : State) : Host.Outcome State Fault Refusal := vint2 s x.len x x.t (bitOp (· &&& ·))
def execVor (x : Opnds) (s : State) : Host.Outcome State Fault Refusal := vint2 s x.len x x.t (bitOp (· ||| ·))
def execVxor (x : Opnds) (s : State) : Host.Outcome State Fault Refusal := vint2 s x.len x x.t (bitOp (· ^^^ ·))
def execVnot (x : Opnds) (s : State) : Host.Outcome State Fault Refusal := vint1 s x.len x x.t fun a => -1 - a
def execVshl (x : Opnds) (s : State) : Host.Outcome State Fault Refusal := vshlOp s x.len x x.t
def execVshr (x : Opnds) (s : State) : Host.Outcome State Fault Refusal := vshrOp s x.len x x.t
def execVsar (x : Opnds) (s : State) : Host.Outcome State Fault Refusal := vshrOp s x.len x x.t
def execVmin (x : Opnds) (s : State) : Host.Outcome State Fault Refusal := vint2 s x.len x x.t min
def execVmax (x : Opnds) (s : State) : Host.Outcome State Fault Refusal := vint2 s x.len x x.t max
def execVabs (x : Opnds) (s : State) : Host.Outcome State Fault Refusal :=
  vint1 s x.len x x.t fun a => (a.natAbs : Int)
def execVneg (x : Opnds) (s : State) : Host.Outcome State Fault Refusal := vint1 s x.len x x.t fun a => -a
def execVsel (x : Opnds) (s : State) : Host.Outcome State Fault Refusal :=
  let w := x.t.is64
  issueX s x fun c =>
    let p := c.regs.pred x.c.pnum
    c.vec s x x.d.vnum w [(x.a, w), (x.b, w)]
      { f := fun l vs => (if laneIn p l then arg0 vs else arg1 vs, 0), perLane := true }
def execVclz (x : Opnds) (s : State) : Host.Outcome State Fault Refusal :=
  vint1 s x.len x .b32 fun a => (clz 32 a.toNat : Nat)
def execVpopc (x : Opnds) (s : State) : Host.Outcome State Fault Refusal :=
  vint1 s x.len x .b32 fun a => (popc a.toNat : Nat)
def execVbfe (x : Opnds) (s : State) : Host.Outcome State Fault Refusal :=
  vecOp s x.len x false [(x.a, false), (x.b, false), (x.c, false)]
    { f := fun _ vs => (laneOut x.t (bfe x.t (arg0 vs).toNat (shiftCount x.t (arg1 vs)) (shiftCount x.t (arg2 vs))), 0) }
def execVbfi (x : Opnds) (s : State) : Host.Outcome State Fault Refusal :=
  vecOp s x.len x false [(x.a, false), (x.b, false), (x.c, false), (x.d, false)]
    { f := fun _ vs => (.ofNat 64 (bfi 32 (arg0 vs).toNat (vs.getD 3 0).toNat (shiftCount .b32 (arg1 vs))
        (shiftCount .b32 (arg2 vs))), 0) }
def execVdot4 (x : Opnds) (s : State) : Host.Outcome State Fault Refusal :=
  vecOp s x.len x false [(x.a, false), (x.b, false), (x.c, false)]
    { f := fun _ vs => (dot4 x.t (arg0 vs) (arg1 vs) (arg2 vs), 0) }
def execVmov (x : Opnds) (s : State) : Host.Outcome State Fault Refusal := vmovOp s x.len x x.t
def execVlane (x : Opnds) (s : State) : Host.Outcome State Fault Refusal := vlaneOp s x.len x

/-- VADDC (R187): the carry of each lane of act goes to the predicate that supplied its carry in. -/
def execVaddc (x : Opnds) (s : State) : Host.Outcome State Fault Refusal :=
  issueX s x fun c =>
    let p := c.regs.pred x.c.pnum
    let act := c.act x
    let sum (l : Nat) (a b : DWord) : Nat := a.toNat + b.toNat + (if laneIn p l then 1 else 0)
    let a := c.vec s x x.d.vnum false [(x.a, false), (x.b, false)]
      { f := fun l vs => (.ofNat 64 (sum l (arg0 vs) (arg1 vs) % 2 ^ 32), 0), perLane := true }
    match knownAll [c.regs.read x.lit false x.a, c.regs.read x.lit false x.b] with
    | some [ka, kb] =>
      let q := maskOf fun l => if laneIn act l then decide (2 ^ 32 ≤ sum l (ka.at l) (kb.at l)) else laneIn p l
      a.also fun t => t.onStrand c.key fun st =>
        { st with ctx := { st.ctx with regs := st.ctx.regs.setP x.c.pnum q } }
    | _ => a

def execVsadd (x : Opnds) (s : State) : Host.Outcome State Fault Refusal :=
  vecOp s x.len x false [(x.a, false), (x.b, false)]
    { f := fun _ vs => (satAdd x.t (arg0 vs) (arg1 vs), 0) }

end Sys2Proof.Machine
end

