-- ==== Sys2Proof/Machine/Vfp.lean ====
section
/-! DEFINITION. Vector floating-point instructions (R188 to R193, R71, R72) and the shared operations their base forms
call. -/

namespace Sys2Proof.Machine

open Sys2Proof

/-- Issue a floating-point instruction that rounds: `g` gives an element from its index and operands, `pnd` the step a
pendant operand records. -/
def vfpRound (s : State) (len : Nat) (x : Opnds) (t : Ty) (ops : List Opnd)
    (g : FpEnv → Nat → List Nat → Nat × Half)
    (pnd : FpEnv → Regs → Nat → List Src → Option (Form × List Nat) := fun _ _ _ _ => none) :
    Host.Outcome State Fault Refusal :=
  issue s len fun c => c.seedReady x s <|
    let e := c.fpEnv x
    c.vec s x x.d.vnum t.is64 (ops.map fun o => (o, t.is64))
      { f := fun l vs => perElem t l vs (g e), perLane := e.mode == .rsd, pnd := pnd e }

/-- Issue a floating-point instruction that does not round. -/
def vfpPlain (s : State) (len : Nat) (x : Opnds) (t : Ty) (ops : List Opnd)
    (g : FpEnv → List Nat → Nat × Half) : Host.Outcome State Fault Refusal :=
  issue s len fun c =>
    let e := c.fpEnv x
    c.vec s x x.d.vnum t.is64 (ops.map fun o => (o, t.is64)) { f := fun l vs => perElem t l vs fun _ => g e }

/-- Element operands. -/
def nat0 (xs : List Nat) : Nat := xs.getD 0 0
/-- The second element operand. -/
def nat1 (xs : List Nat) : Nat := xs.getD 1 0
/-- The third element operand. -/
def nat2 (xs : List Nat) : Nat := xs.getD 2 0

/-- Is the type one that forms carry: f32 or an f64 pair (R100)? -/
def fltForm (t : Ty) : Bool := packCount t == 1

/-- A step on a two-operand form: kind `k1` with the form first, `k2` with it second (R100). -/
def fltPnd2 (t : Ty) (k1 k2 : Nat) (e : FpEnv) (r : Regs) (n : Nat) : List Src → Option (Form × List Nat)
  | [.pend f, .known k] => if fltForm t && f.fltOk t.is64 then some (f.step r n e k1 k (.u 0)) else none
  | [.known k, .pend f] => if fltForm t && f.fltOk t.is64 then some (f.step r n e k2 k (.u 0)) else none
  | _ => none

/-- A step on a form as multiplicand of FFMA (R100). -/
def fltPnd3 (t : Ty) (e : FpEnv) (r : Regs) (n : Nat) : List Src → Option (Form × List Nat)
  | [.pend f, .known k, .known c] => if fltForm t && f.fltOk t.is64 then some (f.step r n e 5 k c) else none
  | [.known k, .pend f, .known c] => if fltForm t && f.fltOk t.is64 then some (f.step r n e 5 k c) else none
  | _ => none

/-- Shared FADD (R188). -/
def faddOp (s : State) (len : Nat) (x : Opnds) (t : Ty) : Host.Outcome State Fault Refusal :=
  vfpRound s len x t [x.a, x.b] (fun e i xs => e.add (fmtOf t) i (nat0 xs) (nat1 xs)) (fltPnd2 t 1 1)
/-- Shared FSUB (R188). -/
def fsubOp (s : State) (len : Nat) (x : Opnds) (t : Ty) : Host.Outcome State Fault Refusal :=
  vfpRound s len x t [x.a, x.b] (fun e i xs => e.sub (fmtOf t) i (nat0 xs) (nat1 xs)) (fltPnd2 t 2 3)
/-- Shared FMUL (R188). -/
def fmulOp (s : State) (len : Nat) (x : Opnds) (t : Ty) : Host.Outcome State Fault Refusal :=
  vfpRound s len x t [x.a, x.b] (fun e i xs => e.mul (fmtOf t) i (nat0 xs) (nat1 xs)) (fltPnd2 t 4 4)
/-- Shared FFMA: the addend is C, or D in the base form (R188). -/
def ffmaOp (s : State) (len : Nat) (x : Opnds) (t : Ty) : Host.Outcome State Fault Refusal :=
  vfpRound s len x t [x.a, x.b, x.c] (fun e i xs => e.fma (fmtOf t) i (nat0 xs) (nat1 xs) (nat2 xs)) (fltPnd3 t)
/-- Shared FMIN, FMAX, FMINP and FMAXP (R190). -/
def fminmaxOp (s : State) (len : Nat) (x : Opnds) (t : Ty) (isMax prop : Bool) : Host.Outcome State Fault Refusal :=
  vfpPlain s len x t [x.a, x.b] fun e xs => (fmtOf t).minMax isMax prop e.fz (nat0 xs) (nat1 xs)
/-- Shared one-operand function with one rounding (R71). -/
def ffunOp (s : State) (len : Nat) (x : Opnds) (t : Ty) (g : Fv → Fv × Half) : Host.Outcome State Fault Refusal :=
  vfpRound s len x t [x.a] fun e i xs => e.un g (fmtOf t) i (nat0 xs)

def execFadd (x : Opnds) (s : State) : Host.Outcome State Fault Refusal := faddOp s x.len x x.t
def execFsub (x : Opnds) (s : State) : Host.Outcome State Fault Refusal := fsubOp s x.len x x.t
def execFmul (x : Opnds) (s : State) : Host.Outcome State Fault Refusal := fmulOp s x.len x x.t
def execFfma (x : Opnds) (s : State) : Host.Outcome State Fault Refusal := ffmaOp s x.len x x.t
def execFmin (x : Opnds) (s : State) : Host.Outcome State Fault Refusal := fminmaxOp s x.len x x.t false false
def execFmax (x : Opnds) (s : State) : Host.Outcome State Fault Refusal := fminmaxOp s x.len x x.t true false
def execFminp (x : Opnds) (s : State) : Host.Outcome State Fault Refusal := fminmaxOp s x.len x x.t false true
def execFmaxp (x : Opnds) (s : State) : Host.Outcome State Fault Refusal := fminmaxOp s x.len x x.t true true
def execFabs (x : Opnds) (s : State) : Host.Outcome State Fault Refusal :=
  vfpPlain s x.len x x.t [x.a] fun _ xs => (nat0 xs % (fmtOf x.t).signBit, 0)
def execFneg (x : Opnds) (s : State) : Host.Outcome State Fault Refusal :=
  vfpPlain s x.len x x.t [x.a] fun _ xs => ((nat0 xs).xor (fmtOf x.t).signBit, 0)
def execFrcp (x : Opnds) (s : State) : Host.Outcome State Fault Refusal := ffunOp s x.len x x.t Fv.rcp
def execFrsq (x : Opnds) (s : State) : Host.Outcome State Fault Refusal := ffunOp s x.len x x.t Fv.rsq
def execFsqrt (x : Opnds) (s : State) : Host.Outcome State Fault Refusal := ffunOp s x.len x x.t Fv.sqrt
def execFdiv (x : Opnds) (s : State) : Host.Outcome State Fault Refusal :=
  vfpRound s x.len x x.t [x.a, x.b] fun e i xs => e.div (fmtOf x.t) i (nat0 xs) (nat1 xs)
def execFexp2 (x : Opnds) (s : State) : Host.Outcome State Fault Refusal := ffunOp s x.len x .f32 Fv.exp2
def execFlog2 (x : Opnds) (s : State) : Host.Outcome State Fault Refusal := ffunOp s x.len x .f32 Fv.log2
def execFsin (x : Opnds) (s : State) : Host.Outcome State Fault Refusal := ffunOp s x.len x .f32 Fv.sin
def execFcos (x : Opnds) (s : State) : Host.Outcome State Fault Refusal := ffunOp s x.len x .f32 Fv.cos
def execFtanh (x : Opnds) (s : State) : Host.Outcome State Fault Refusal := ffunOp s x.len x .f32 Fv.tanh
def execFclass (x : Opnds) (s : State) : Host.Outcome State Fault Refusal :=
  vfpPlain s x.len x x.t [x.a] fun _ xs => ((fmtOf x.t).fclass (nat0 xs), 0)

/-- FSCALE (R192): the power is the lane's signed 32-bit value in B, for f64 in the low word of the pair that B names (R149). -/
def execFscale (x : Opnds) (s : State) : Host.Outcome State Fault Refusal :=
  let f := fmtOf x.t
  issueX s x fun c => c.seedReady x s <|
    let e := c.fpEnv x
    c.vec s x x.d.vnum x.t.is64 [(x.a, x.t.is64), (x.b, false)]
      { f := fun l vs =>
          let r := e.fin f l (match e.val f (arg0 vs).toNat with
            | .nan g => (.nan false, if g then flagInv else 0)
            | v => (v.scale (intVal .i32 (arg1 vs)), 0))
          (.ofNat 64 r.1, r.2),
        perLane := e.mode == .rsd }
def execFrnd (x : Opnds) (s : State) : Host.Outcome State Fault Refusal :=
  let f := fmtOf x.t
  vfpRound s x.len x x.t [x.a] fun e i xs => f.frnd (e.arg i) (f.flushIn e.fz (nat0 xs))
def execFfrac (x : Opnds) (s : State) : Host.Outcome State Fault Refusal :=
  let f := fmtOf x.t
  vfpPlain s x.len x x.t [x.a] fun e xs => f.flushOut e.fz (f.ffrac (f.flushIn e.fz (nat0 xs)))

/-- FDOT2 of one lane (R193). -/
def fdot2 (t : Ty) (e : FpEnv) (l : Nat) (a b c : DWord) : DWord × Half :=
  let f := fmtOf t
  let leaf (j : Nat) : NVal :=
    let r := fp32.finish rneArg (Fv.mul (f.val (elemOf 16 j a).toNat) (f.val (elemOf 16 j b).toNat))
    (some (.ofNat 64 r.1), r.2)
  let n := combine .f32 (leaf 0) (leaf 1)
  let r := e.fin fp32 l (Fv.add e.mode (e.val fp32 c.toNat) (fp32.val (n.1.getD 0).toNat))
  (.ofNat 64 r.1, r.2 ||| n.2)

def execFdot2 (x : Opnds) (s : State) : Host.Outcome State Fault Refusal :=
  issueX s x fun c => c.seedReady x s <|
    let e := c.fpEnv x
    c.vec s x x.d.vnum false [(x.a, false), (x.b, false), (x.c, false)]
      { f := fun l vs => fdot2 x.t e l (arg0 vs) (arg1 vs) (arg2 vs), perLane := e.mode == .rsd }

end Sys2Proof.Machine
end

