-- ==== Sys2Proof/Machine/Cvt.lean ====
section
/-! DEFINITION. Conversion instructions (R194 to R198, R61, R62). -/

namespace Sys2Proof.Machine

open Sys2Proof

/-- The second type of a conversion, in MODB.SEL (R194). -/
def selTyOf (x : Opnds) : Ty := (Ty.ofCode x.sel).getD .f32

/-- Round a value into a narrow format under effective saturation: the flags of R61 replace those of the rounding, and a
signalling NaN adds INV (R68). -/
def roundSat (f : Fmt) (a : RndArg) (sat : Bool) (v : Fv) : Nat × Half :=
  let r := f.round a sat v
  (r.1, r.2 ||| (match v with | .nan true => flagInv | _ => 0))

/-- Is a conversion a narrowing one (R61, R194): does the result's format miss range or precision that the source's has
(assumption 13)? -/
def narrows (tt frm : Ty) : Bool :=
  decide ((fmtOf tt).ebits < (fmtOf frm).ebits ∨ (fmtOf tt).fbits < (fmtOf frm).fbits)

/-- FCVT of one element (R194): a narrowing conversion saturates under effective SAT (R61); one into a wider format is
exact. -/
def fcvtElem (tt frm : Ty) (e : FpEnv) (idx a : Nat) : Nat × Half :=
  (fmtOf tt).flushOut e.fz (roundSat (fmtOf tt) (e.arg idx) (e.sat && narrows tt frm) (e.val (fmtOf frm) a))

def execFcvt (x : Opnds) (s : State) : Host.Outcome State Fault Refusal :=
  let frm := selTyOf x
  issueX s x fun c => c.seedReady x s <|
    let e := c.fpEnv x
    c.vec s x x.d.vnum x.t.is64 [(x.a, frm.is64)]
      { f := fun l vs => let r := fcvtElem x.t frm e l (arg0 vs).toNat; (.ofNat 64 r.1, r.2),
        perLane := e.mode == .rsd }

def execFtoi (x : Opnds) (s : State) : Host.Outcome State Fault Refusal :=
  let frm := selTyOf x
  issueX s x fun c => c.seedReady x s <|
    let e := c.fpEnv x
    c.vec s x x.d.vnum x.t.is64 [(x.a, frm.is64)]
      { f := fun l vs =>
          let r := floatToInt x.t (e.arg l) (e.val (fmtOf frm) (arg0 vs).toNat)
          (laneOut x.t r.1, r.2),
        perLane := e.mode == .rsd }

def execItof (x : Opnds) (s : State) : Host.Outcome State Fault Refusal :=
  let frm := selTyOf x
  let f := fmtOf x.t
  issueX s x fun c => c.seedReady x s <|
    let e := c.fpEnv x
    c.vec s x x.d.vnum x.t.is64 [(x.a, frm.is64)]
      { f := fun l vs =>
          let r := f.round (e.arg l) false (Fv.ofInt (intVal frm (arg0 vs)))
          (.ofNat 64 r.1, r.2),
        perLane := e.mode == .rsd }

def execIext (x : Opnds) (s : State) : Host.Outcome State Fault Refusal :=
  let frm := selTyOf x
  vecOp s x.len x x.t.is64 [(x.a, frm.is64)]
    { f := fun _ vs =>
        let n := modW x.t.width (intVal frm (arg0 vs))
        (laneOut x.t (intVal x.t (.ofNat 64 n)), 0) }

/-- The elements FPACK writes: the first position and the width (R196). -/
def packPos (t : Ty) (cc : Nat) : Nat × Nat :=
  match t with | .f16 | .bf16 => (0, 16) | .e2m1 => (2 * cc, 4) | _ => (2 * cc, 8)

/-- The largest C of FPACK (R196, R403). -/
def packMax (t : Ty) : Nat := match t with | .f16 | .bf16 => 0 | .e2m1 => 3 | _ => 1

/-- FPACK of one lane (R196). -/
def fpackLane (t : Ty) (e : FpEnv) (cc l : Nat) (a b d : DWord) : DWord × Half :=
  let (j, w) := packPos t cc
  let el (k : Nat) (v : DWord) : Nat × Half :=
    (fmtOf t).flushOut e.fz (roundSat (fmtOf t) (e.arg (l + 256 * (j + k))) e.sat (e.val fp32 v.toNat))
  let (x0, f0) := el 0 a
  let (x1, f1) := el 1 b
  (.ofNat 64 (bfi 32 (x0 + 2 ^ w * x1) d.toNat (w * j) (2 * w)), f0 ||| f1)

def execFpack (x : Opnds) (s : State) : Host.Outcome State Fault Refusal :=
  issueX s x fun c => c.seedReady x s <| c.known s x [(x.c, false)] fun offs =>
    let cc := ((offs.getD 0 (.u 0)).at 0).toNat
    let e := c.fpEnv x
    let keep := packMax x.t ≠ 0
    if ((([(x.a, false), (x.b, false)] ++ if keep then [(x.d, false)] else []).any fun p => c.st.busy p.1 p.2)) then
      .wait s .scoreboard
    else if (knownAll [c.regs.read x.lit false x.a, c.regs.read x.lit false x.b]).isNone then
      .waitSym s (srcSyms [c.regs.read x.lit false x.a, c.regs.read x.lit false x.b])
    else if packMax x.t < cc then c.trapWhole 0x06 4
    else c.vec s x x.d.vnum false ([(x.a, false), (x.b, false)] ++ if keep then [(x.d, false)] else [])
      { f := fun l vs => fpackLane x.t e cc l (arg0 vs) (arg1 vs) (arg2 vs), perLane := e.mode == .rsd }

/-- Elements of a lane for a narrow type (R196). -/
def laneElems (t : Ty) : Nat := 32 / t.width

def execFunpk (x : Opnds) (s : State) : Host.Outcome State Fault Refusal :=
  issueX s x fun c => c.known s x [(x.a, false), (x.b, false)] fun offs =>
    let j := ((offs.getD 1 (.u 0)).at 0).toNat
    if laneElems x.t ≤ j then c.trapWhole 0x06 3
    else c.vec s x x.d.vnum false [(x.a, false), (x.b, false)]
      { f := fun _ vs =>
          let r := roundSat fp32 rneArg false ((fmtOf x.t).val (elemOf x.t.width j (arg0 vs)).toNat)
          (.ofNat 64 r.1, r.2) }

/-! ## Block scales -/

/-- The larger of two magnitudes. -/
def maxMag (a b : Nat × Int) : Nat × Int := if exceeds b.1 b.2 a.1 a.2 then b else a

/-- The largest magnitude of some values; zero for none. -/
def amaxOf (vs : List Fv) : Nat × Int :=
  vs.foldl (fun acc v => match v with | .fin _ m e _ => maxMag acc (m, e) | _ => acc) (0, 0)

/-- Is the value infinite or NaN? -/
def Fv.notFinite : Fv → Bool
  | .nan _ => true | .inf _ => true | _ => false

/-- Is the value a signalling NaN? -/
def Fv.isSnan : Fv → Bool
  | .nan true => true | _ => false

/-- The E8M0 code of a block (R197). -/
def e8m0Code (el : Ty) (vs : List Fv) : Nat × Half :=
  if vs.any Fv.notFinite then (0xFF, flagNf ||| (if vs.any Fv.isSnan then flagInv else 0))
  else
    let (m, ex) := amaxOf vs
    if m = 0 then (127, 0)
    else
      let big : Nat := if el == .e4m3 then 448 else 57344
      (((List.range 255).find? fun c : Nat => !exceeds m ex big ((c : Int) - 127)).getD 254, 0)

/-- The E3M5 code of a block under a band scale (R197). -/
def e3m5Code (beta : Fv) (vs : List Fv) : Nat × Half :=
  match beta with
  | .fin false bm be _ =>
    if vs.any Fv.notFinite then (0xFF, flagNf)
    else
      let (m, ex) := amaxOf vs
      if m = 0 then (0, 0)
      else
        let fits (c : Nat) : Bool :=
          match e3m5Val c with
          | .fin _ cm ce _ => !exceeds m ex (cm * 6 * bm) (ce + be)
          | _ => false
        (((List.range 256).find? fits).getD 0xFF, 0)
  | _ => (0x00, flagInv)

/-- Lanes in a block of a scale type (R197). -/
def blockLanes (sc : Ty) : Nat := if sc == .e8m0 then 32 else 8

def execSclq (x : Opnds) (s : State) : Host.Outcome State Fault Refusal :=
  issueX s x fun c => c.known s x [(x.a, false), (x.c, false)] fun offs =>
    let a := offs.getD 0 (.u 0)
    let beta := (fmtOf .bf16).val (((offs.getD 1 (.u 0)).at 0).toNat % 65536)
    let act := c.act x
    let k := blockLanes x.t
    let code (j : Nat) : Nat × Half :=
      let vs := ((List.range k).map fun i => k * j + i).filter (laneIn act) |>.map fun l => fp32.val (a.at l).toNat
      if x.t == .e8m0 then e8m0Code (selTyOf x) vs else e3m5Code beta vs
    let codes := (List.range (256 / k)).map code
    c.vec s x x.d.vnum false [(x.a, false), (x.c, false)]
      { f := fun l _ => let r := codes.getD (l / k) (0, 0); (.ofNat 64 r.1, r.2) }

/-- The scale S of R198 and whether it is NaN. -/
def scaleOf (el : Ty) (b cc : DWord) : Fv :=
  if el == .e2m1 then (Fv.mul (e3m5Val (b.toNat % 256)) ((fmtOf .bf16).val (cc.toNat % 65536))).1
  else e8m0Val (b.toNat % 256)

/-- Is the value NaN? -/
def Fv.isNan : Fv → Bool
  | .nan _ => true | _ => false

/-- Is the value zero? -/
def Fv.isZero : Fv → Bool
  | .zero _ => true | _ => false

/-- BQNT of one lane (R198). -/
def bqntLane (el : Ty) (e : FpEnv) (l : Nat) (a b cc : DWord) : DWord × Half :=
  let f := fmtOf el
  let v := fp32.val a.toNat
  let sc := scaleOf el b cc
  let r : Nat × Half :=
    if sc.isNan then let r := roundSat f (e.arg l) false (.nan false); (r.1, r.2 ||| flagInv)
    else if v.isNan then roundSat f (e.arg l) e.sat v
    else if sc.isZero then
      if v.isZero then (0, 0) else ((if v.isNeg then 8 else 0) + 7, flagDz ||| flagOf ||| flagSat ||| flagNx)
    else
      let q := Fv.div v sc
      let r := roundSat f (e.arg l) e.sat q.1
      (r.1, r.2 ||| q.2)
  (.ofNat 64 r.1, r.2)

def execBqnt (x : Opnds) (s : State) : Host.Outcome State Fault Refusal :=
  issueX s x fun c => c.seedReady x s <|
    let e := c.fpEnv x
    c.vec s x x.d.vnum false [(x.a, false), (x.b, false), (x.c, false)]
      { f := fun l vs => bqntLane x.t e l (arg0 vs) (arg1 vs) (arg2 vs), perLane := e.mode == .rsd }

/-- BDQ of one lane (R198). -/
def bdqLane (el : Ty) (e : FpEnv) (l : Nat) (a b cc : DWord) : DWord × Half :=
  let sc := scaleOf el b cc
  let r := fp32.finish (e.arg l) (Fv.mul ((fmtOf el).val (a.toNat % 2 ^ el.width)) sc)
  (.ofNat 64 r.1, r.2 ||| (if sc.isNan then flagInv else 0))

def execBdq (x : Opnds) (s : State) : Host.Outcome State Fault Refusal :=
  issueX s x fun c => c.seedReady x s <|
    let e := c.fpEnv x
    c.vec s x x.d.vnum false [(x.a, false), (x.b, false), (x.c, false)]
      { f := fun l vs => bdqLane x.t e l (arg0 vs) (arg1 vs) (arg2 vs), perLane := e.mode == .rsd }

end Sys2Proof.Machine
end

