-- ==== Sys2Proof/Machine/Mem.lean ====
section
/-! DEFINITION. MEM (R212 to R219): loads and stores of the three spaces, LDT, LDF, STF, TRX, PREF and LDC. An
instruction here translates and captures at issue; its operation performs at its own event (StrandEv.lean). -/

namespace Sys2Proof.Machine

open Sys2Proof

/-- A destination field as a destination. -/
def dstOf (d : Opnd) (t : Ty) : Dst := match d with | .s n => .s n | d => .v d.vnum t.is64

/-- The destination of a plain load: it waits for a load in flight to it, and for a pendant it would write in part
(R101, R211); a vector takes shape G, whose slot counts at issue (R91, R93). -/
def Ic.loadDest (c : Ic) (s : State) (dst : Dst) (full : Bool) (k : Regs → Act) : Act :=
  match dst with
  | .none => k c.regs
  | .s n => if c.st.busy (.s n) false then .wait s .scoreboard else k c.regs
  | .v n wide =>
    if c.st.busy (.v n) wide then .wait s .scoreboard
    else if c.regs.blocksWrite n wide full then .waitSym s (c.regs.symsOf n wide)
    else
      let old := match c.regs.readV n wide with | .known o => o | .pend _ => .u 0
      let r := c.regs.writeV n wide (.g old.lanes)
      if r.overflows c.st.logG then c.trapWhole 0x04 1 else k r

/-- A symbol of the quarter not in use (R98). -/
def State.freeSym (s : State) (quarter : Nat) : Option Nat :=
  let used := (s.strands.filter fun e => decide (quarterOf e.1 = quarter)).flatMap fun e => e.2.syms.map fun y => y.num
  (List.range 256).find? fun n => !used.contains n

/-- Can a .late load take a symbol and a form record (R98)? -/
def Ic.lateOk (c : Ic) (s : State) : Bool :=
  decide (c.st.syms.length < 32) && decide (s.formsUsed (quarterOf c.key) < 256)

/-- What a load does once its lanes are known. -/
structure LoadAct where
  space : Space
  a : Opnd
  bytes : Nat
  whole : Bool
  dst : Dst
  act : Mask
  lanes : List LaneAddr
  expand : DWord → List DWord := fun v => [v]
  scan : List (Nat × DWord × Tr) → List Acc := accsOf
  judge : TrRes → TrRes
  ord : Nat
  scope : Nat
  /-- stride of LDT, kept for a redo. -/
  data : List DWord := []
  body : List (Nat × DWord × Tr) → OpBody

/-- A .late load (R98, R424): its symbol holds the lanes; those that fail translation suspend it and do not park. -/
def Ic.lateIssue (c : Ic) (s : State) (m : LoadAct) (num : Nat) : Act :=
  if c.st.full .ld then .wait s .counterWait
  else
    let r := sortLanes m.lanes m.expand fun v => m.judge (c.trLane s m.space m.a .read v)
    if !r.miss.isEmpty then .wait (s.askWalks (coreOf c.key) r.miss) .scoreboard
    else c.sectorRoom s (m.body r.ok).ranges <|
      let full := m.whole || decide (m.act = fullMask)
      let put (old : List DWord) (regs : Regs) : Act :=
        let fails := r.fail
        let o := { c.newOp .ld (m.body r.ok) m.ord (reachScope r.ok m.scope) with
                   sym := some num, susp := if fails.isEmpty then none else some (0x03, 0x06) }
        let y : Sym := { num := num, op := o.id, space := m.space, mask := if m.whole then c.sp.mask else m.act,
                         addrs := lanes256.map fun l => mapGet 0 m.lanes l, old := old, words := c.sp.words }
        let s1 := (s.putRegs c regs).onStrand c.key fun st => { st with syms := st.syms ++ [y] }
        let s2 := s1.addOp c.key o
        if fails.isEmpty then .done s2
        else
          let recs := s.failRecs c 0x03 (fun _ => 0x06) fails
          .done ((s2.dropFails (coreOf c.key) c.st.part).postGroup c.st.part
            { recs := recs, split := none, op := some (c.key, o.id) })
      match m.dst with
      | .none => .done s
      | .s n =>
        if c.st.busy (.s n) false then .wait s .scoreboard
        else put [] (c.regs.pendS n (Form.fresh num true))
      | .v n wide =>
        if c.st.busy (.v n) wide then .wait s .scoreboard
        else if c.regs.blocksWrite n wide full then .waitSym s (c.regs.symsOf n wide)
        else
          let old := match c.regs.readV n wide with | .known o => o.lanes | .pend _ => []
          let regs := c.regs.writeP n (Form.fresh num wide)
          if regs.overflows c.st.logG then c.trapWhole 0x04 1 else put old regs

/-- A load, .late where it asks for it and can be (R98), else plain. -/
def Ic.loadIssue (c : Ic) (s : State) (late : Bool) (m : LoadAct) : Act :=
  let plain : Act :=
    c.loadDest s m.dst (m.whole || decide (m.act = fullMask)) fun regs =>
      c.memIssue s
        { space := m.space, a := m.a, acc := .read, bytes := m.bytes, reads := true, cls := .ld, whole := m.whole,
          lanes := m.lanes, expand := m.expand, data := m.data, scan := m.scan, judge := m.judge, ranges := fun ok => (m.body ok).ranges
          perform := fun s ok => (s.putRegs c regs).addOp c.key (c.newOp .ld (m.body ok) m.ord (reachScope ok m.scope)) }
  if late && c.sp.redo.isNone && c.lateOk s then
    match s.freeSym (quarterOf c.key) with
    | some num => c.lateIssue s m num
    | none => plain
  else plain

/-- A trap of a per-split form concerns the whole split (R392). -/
def Act.whole (c : Ic) (a : Act) : Act := match a with | .trap t => .trap { t with lanes := c.sp.mask } | b => b

/-- LD, LDS, LDV (R213). -/
def ldOp (s : State) (len : Nat) (x : Opnds) (sp : Space) : Host.Outcome State Fault Refusal :=
  issue s len fun c => c.known s x [(x.a, addrWide x.a), (x.b, addrWide x.b)] fun offs =>
    let ka := offs.getD 0 (.u 0)
    let kb := offs.getD 1 (.u 0)
    let whole := match x.d with | .s _ => true | _ => false
    let act := if whole then c.sp.mask else c.act x
    let fresh := laneAddrs sp c.regs x.a x.b ka kb (if whole then [lowLane act] else lanesOf act)
    let check : Option Act :=
      if whole && !Off.uniformAddr ka kb then some (c.trapWhole 0x06 2)
      else
        match c.checkAddrs s sp x.a x.t.bytes fresh with
        | some a => some (if whole then a.whole c else a)
        | none => none
    c.firstIssue check <|
      c.loadIssue s x.late
        { space := sp, a := x.a, bytes := x.t.bytes, whole := whole, dst := dstOf x.d x.t, act := act
          lanes := c.memLanes whole fresh, judge := fun r => r.plain x.t.bytes, ord := x.ord, scope := x.scope
          body := fun ok => .load (accsOf ok) x.t (dstOf x.d x.t) }

/-- ST, STS, STV (R213). -/
def stOp (s : State) (len : Nat) (x : Opnds) (sp : Space) : Host.Outcome State Fault Refusal :=
  issue s len fun c => c.known s x [(x.a, addrWide x.a), (x.b, addrWide x.b), (x.d, x.t.is64)] fun offs =>
    let act := c.act x
    let fresh := laneAddrs sp c.regs x.a x.b (offs.getD 0 (.u 0)) (offs.getD 1 (.u 0)) (lanesOf act)
    let data := c.memData ((offs.getD 2 (.u 0)).lanes)
    c.firstIssue (c.checkAddrs s sp x.a x.t.bytes fresh) <|
      c.memIssue s
        { space := sp, a := x.a, acc := .write, bytes := x.t.bytes, reads := false, cls := .st
          lanes := c.memLanes false fresh, data := data, judge := fun r => r.plain x.t.bytes
          ranges := fun ok => (OpBody.store (accsOf ok) x.t data).ranges
          perform := fun s ok => s.addOp c.key (c.newOp .st (.store (accsOf ok) x.t data) x.ord (reachScope ok x.scope)) }

def execLd (x : Opnds) (s : State) : Host.Outcome State Fault Refusal := ldOp s x.len x .global
def execSt (x : Opnds) (s : State) : Host.Outcome State Fault Refusal := stOp s x.len x .global
def execLds (x : Opnds) (s : State) : Host.Outcome State Fault Refusal := ldOp s x.len x .spad
def execSts (x : Opnds) (s : State) : Host.Outcome State Fault Refusal := stOp s x.len x .spad
def execLdv (x : Opnds) (s : State) : Host.Outcome State Fault Refusal := ldOp s x.len x .vault
def execStv (x : Opnds) (s : State) : Host.Outcome State Fault Refusal := stOp s x.len x .vault

/-- LDT (R214): lane l takes column l div 8 of rows 4 (l mod 8) to 4 (l mod 8) + 3. -/
def execLdt (x : Opnds) (s : State) : Host.Outcome State Fault Refusal :=
  issueX s x fun c => c.known s x [(x.a, addrWide x.a), (x.b, addrWide x.b), (x.c, true)] fun offs =>
    let ka := offs.getD 0 (.u 0)
    let kb := offs.getD 1 (.u 0)
    let act := c.act x
    let data := c.memData [(offs.getD 2 (.u 0)).at 0]
    let stride := data.getD 0 0
    let base := ((laneAddrs .global c.regs x.a x.b ka kb [lowLane c.sp.mask]).map (·.2)).getD 0 0
    let fresh : List LaneAddr := (lanesOf act).map fun l =>
      (l, base + .ofNat 64 (4 * (l % 8)) * stride + .ofNat 64 (2 * (l / 8)))
    let valid : Bool := match x.a with | .t n => (c.regs.treg n).valid | _ => true
    let far : Bool := match x.a with | .t _ => false | _ => decide (2 ^ 57 ≤ base.toNat)
    let check : Option Act :=
      if !valid || far || !Off.uniformAddr ka kb then some (c.trapWhole 0x06 2)
      else if stride.toNat % 8 ≠ 0 ∨ stride.toNat < 8 ∨ 2 ^ 31 - 8 < stride.toNat then some (c.trapWhole 0x06 4)
      else if base.toNat % 8 ≠ 0 then some (c.trapWhole 0x05 2)
      else none
    c.firstIssue check <|
      c.loadIssue s false
        { space := .global, a := x.a, bytes := 2, whole := false, dst := .v x.d.vnum true, act := act
          lanes := c.memLanes false fresh, expand := fun v => (List.range 4).map fun k => v + .ofNat 64 k * stride
          judge := fun r => r.plain 2, ord := 0, scope := 0, data := data
          body := fun ok => .loadT (accsOf ok) x.d.vnum }

/-- The elements of translated lanes of a formatted page. -/
def elemsOf (l : List (Nat × DWord × Tr)) : List Elem :=
  l.map fun e => { lane := e.1, place := e.2.2.place, frame := e.2.2.frame, off := e.2.2.off, fmt := e.2.2.fmt,
                   geom := e.2.2.geom, va := e.2.1 }

/-- On a redo an unformatted page is a translation failure, PAGE 0x04 (R375). -/
def Ic.judgeFmt (c : Ic) (r : TrRes) : TrRes :=
  match r with
  | .ok t => if t.fmt = 0 ∧ c.sp.redo.isSome then .fail ⟨0x04, t.ent⟩ else r
  | _ => r

/-- The lanes of a first issue that reach unformatted pages (R404): judged once every lane has been looked up, before the
destination's slots are (R391). The walks that have failed for other lanes are made again when it is issued again (R410). -/
def Ic.unformatted (c : Ic) (s : State) (a : Opnd) (acc : Access) (lanes : List LaneAddr) : Option Act :=
  let r := sortLanes lanes (fun v => [v]) fun v => c.trLane s .global a acc v
  let bad := laneMask ((r.ok.filter fun e => e.2.2.fmt == 0).map (·.1))
  if !r.miss.isEmpty then some (.wait (s.askWalks (coreOf c.key) r.miss) .scoreboard)
  else if bad != 0 then
    let t : Trap := { cls := 0x02, sub := 0x06, code := 2, lanes := bad, restart := true, async := false, oprec := 0 }
    some (if r.fail.isEmpty then .trap t else .stay ((s.dropFails (coreOf c.key) c.st.part).takeTrap c.key c.slot t c.sp.pc c.sp.pc))
  else none

/-- LDF (R216). -/
def execLdf (x : Opnds) (s : State) : Host.Outcome State Fault Refusal :=
  issueX s x fun c => c.seedReady x s <| c.known s x [(x.b, addrWide x.b)] fun offs =>
    let act := c.act x
    let fresh := laneAddrs .global c.regs x.a x.b (.u 0) (offs.getD 0 (.u 0)) (lanesOf act)
    let e := c.fpEnv x
    let check : Option Act :=
      match c.checkAddrs s .global x.a 1 fresh with
      | some a => some a
      | none => c.unformatted s x.a .read fresh
    c.firstIssue check <|
      c.loadIssue s x.late
        { space := .global, a := x.a, bytes := 1, whole := false, dst := .v x.d.vnum false, act := act
          lanes := c.memLanes false fresh, scan := fun ok => (elemsOf ok).flatMap Elem.reads, judge := c.judgeFmt, ord := 0, scope := 0
          body := fun ok => .loadF (elemsOf ok) x.t e.mode e.fz e.seed x.d.vnum }

/-- Elements of a block of a formatted page (R217). -/
def blockElems (fmt : Nat) : Nat := if fmt = 1 then 8 else 32

/-- The lanes of blocks that act covers only in part (R404). -/
def partBlocks (els : List Elem) : List Nat :=
  (els.filter fun e =>
    let n := blockElems e.fmt
    let mates := els.filter fun f => f.place == e.place && f.frame == e.frame && f.off / n == e.off / n
    mates.length ≠ n || (mates.map fun f => f.off).eraseDups.length ≠ n).map fun e => e.lane

/-- STF (R217). -/
def execStf (x : Opnds) (s : State) : Host.Outcome State Fault Refusal :=
  issueX s x fun c => c.seedReady x s <| c.known s x [(x.b, addrWide x.b), (x.d, false)] fun offs =>
    let act := c.act x
    let fresh := laneAddrs .global c.regs x.a x.b (.u 0) (offs.getD 0 (.u 0)) (lanesOf act)
    let data := c.memData ((offs.getD 1 (.u 0)).lanes)
    let e := c.fpEnv x
    let partial' : Unit → Option Act := fun _ =>
      let r := sortLanes fresh (fun v => [v]) fun v => c.trLane s .global x.a .write v
      let bad := laneMask (partBlocks (elemsOf r.ok))
      if r.miss.isEmpty && bad != 0 then some (Act.trapLanes 0x06 2 bad) else none
    let check : Option Act :=
      match c.checkAddrs s .global x.a 1 fresh with
      | some a => some a
      | none =>
        match c.unformatted s x.a .write fresh with
        | some a => some a
        | none => partial' ()
    c.firstIssue check <|
      c.memIssue s
        { space := .global, a := x.a, acc := .write, bytes := 1, reads := false, cls := .st
          lanes := c.memLanes false fresh, data := data, judge := c.judgeFmt
          ranges := fun ok => (OpBody.storeF (elemsOf ok) e.mode e.sat e.fz e.seed data).ranges
          perform := fun s ok =>
            s.addOp c.key (c.newOp .st (.storeF (elemsOf ok) e.mode e.sat e.fz e.seed data) 0 (reachScope ok 0)) }

/-- Fill a translation register from a TLB entry (R112, R218). -/
def tregOf (a : Nat) (t : TlbEnt) : TReg :=
  let n := pageBytes t.size
  let fmt := leafFmt t.leaf
  { valid := true, base := .ofNat 57 a, phys := .ofNat 52 (leafFrame t.leaf + (if fmt = 0 then a % n else 0))
    limit := .ofNat 64 (n - a % n), w := leafW t.leaf, far := leafFar t.leaf, nc := leafNc t.leaf, fmt := .ofNat 4 fmt
    geom := .ofNat 4 (leafGeom t.leaf), size := .ofNat 2 t.size, direct := true }

/-- TRX (R218, R412). -/
def execTrx (x : Opnds) (s : State) : Host.Outcome State Fault Refusal :=
  issueX s x fun c => c.known s x [(x.a, true)] fun offs =>
    let fresh := (offs.getD 0 (.u 0)).at 0
    let a := match c.sp.redo with | some r => r.addrs.getD (lowLane c.sp.mask) 0 | none => fresh
    if 2 ^ 57 ≤ a.toNat then c.trapWhole 0x06 2
    else
      let put (s : State) (t : TReg) : State := s.putRegs c (c.regs.setT x.d.tnum t)
      match (s.core (coreOf c.key)).tlbFind c.st.part .read a.toNat with
      | some t => .done ((put s (tregOf a.toNat t)).touch t.ent .read)
      | none =>
        match s.translate (coreOf c.key) c.st.part .read a.toNat with
        | .fail e =>
          let s := put s TReg.invalid
          let redo : Redo := { lanes := c.sp.mask, addrs := lanes256.map fun _ => a, data := [], data2 := [] }
          .stay (s.parkFail c c.sp.mask redo [s.strandRec c.key c.st 0x01 e.sub c.sp.pc a c.sp.mask])
        | .miss w => .wait (s.askWalks (coreOf c.key) [w]) .scoreboard
        | .ok _ => .done s

/-- PREF (R219): it changes no state that the machine shows; its requests need room among the core's (R18). -/
def execPref (x : Opnds) (s : State) : Host.Outcome State Fault Refusal :=
  issueX s x fun c => c.known s x [(x.a, addrWide x.a), (x.b, addrWide x.b)] fun offs =>
    let ls := laneAddrs .global c.regs x.a x.b (offs.getD 0 (.u 0)) (offs.getD 1 (.u 0)) (lanesOf (c.act x))
    let r := sortLanes ls (fun v => [v]) fun v => c.trLane s .global x.a .read v
    c.sectorRoom s (plainRanges r.ok 1 false) (.done s)

/-- How LDC reads its offset: in the width of its type, a scalar whole (R149). -/
def ldcWide (x : Opnds) : Bool := match x.a with | .s _ => true | _ => x.t.is64

/-- The offset of LDC: a literal gives as many bits as its type has (R149). -/
def ldcOff (x : Opnds) (v : DWord) : DWord := match x.a with | .lit => .ofNat 64 (v.toNat % 2 ^ x.t.width) | _ => v

/-- LDC (R109, R219). -/
def execLdc (x : Opnds) (s : State) : Host.Outcome State Fault Refusal :=
  issueX s x fun c => c.known s x [(x.a, ldcWide x)] fun offs =>
    let ka := offs.getD 0 (.u 0)
    let whole := match x.d with | .s _ => true | _ => false
    let act := if whole then c.sp.mask else c.act x
    let n := x.t.bytes
    let lanes : List LaneAddr := (if whole then [lowLane act] else lanesOf act).map fun l => (l, ldcOff x (ka.at l))
    let bad (p : Nat → Bool) : Mask := laneMask ((lanes.filter fun e => p e.2.toNat).map (·.1))
    let past := bad fun v => decide (65536 < v + n)
    let mis := bad fun v => v % n != 0
    if c.st.full .ld then .wait s .counterWait
    else if whole && !ka.isU then c.trapWhole 0x06 2
    else if past ≠ 0 then Act.trapLanes 0x06 2 (if whole then c.sp.mask else past)
    else if mis ≠ 0 then Act.trapLanes 0x05 2 (if whole then c.sp.mask else mis)
    else
      c.loadDest s (dstOf x.d x.t) (whole || decide (act = fullMask)) fun regs =>
        .done ((s.putRegs c regs).addOp c.key
          (c.newOp .ld (.loadC (lanes.map fun e => (e.1, e.2.toNat)) x.t (dstOf x.d x.t)) 0 0))

end Sys2Proof.Machine
end

