-- ==== Sys2Proof/Machine/Atm.lean ====
section
/-! DEFINITION. ATM (R220, R221): integer atomics at the single copy of their location. -/

namespace Sys2Proof.Machine

open Sys2Proof

/-- The new value of an atomic (R220): `old`, the operand and, for ACAS, the expected value, as w-bit numbers. -/
def atmNew (op : AtmOp) (t : Ty) (old c e : Nat) : Nat :=
  let v (n : Nat) : Int := intVal t (.ofNat 64 n)
  match op with
  | .add => (old + c) % 2 ^ t.width
  | .and => old &&& c
  | .or => old ||| c
  | .xor => old ^^^ c
  | .min => if v c < v old then c else old
  | .max => if v old < v c then c else old
  | .xch => c
  | .cas => if old = e then c else old
  | .inc => if c ≤ old then 0 else old + 1

/-- The space an atomic names (R220). -/
def atmSpace (x : Opnds) : Space := match x.sel % 4 with | 1 => .spad | 2 => .vault | _ => .global

/-- Issue an atomic (R221). -/
def atmOp (s : State) (x : Opnds) (op : AtmOp) : Host.Outcome State Fault Refusal :=
  issueX s x fun c =>
    let nr := decide (4 ≤ x.sel)
    let w := x.t.is64
    let dataOp := if nr then x.d else x.c
    let ops := [(x.a, addrWide x.a), (x.b, addrWide x.b), (dataOp, w)] ++ (if op = .cas then [(x.d, w)] else [])
    c.known s x ops fun offs =>
      let sp := atmSpace x
      let act := c.act x
      let fresh := laneAddrs sp c.regs x.a x.b (offs.getD 0 (.u 0)) (offs.getD 1 (.u 0)) (lanesOf act)
      let data := c.memData ((offs.getD 2 (.u 0)).lanes)
      let exp := c.memData2 ((offs.getD 3 (.u 0)).lanes)
      let n := x.t.bytes
      let go (regs : Regs) : Act :=
        c.memIssue s
          { space := sp, a := x.a, acc := .write, bytes := n, reads := true, cls := if nr then .st else .ld
            lanes := c.memLanes false fresh, data := data, data2 := exp, judge := fun r => r.plain n
            ranges := fun ok => (OpBody.atomic (accsOf ok) op x.t data exp nr x.d.vnum).ranges
            perform := fun s ok => (s.putRegs c regs).addOp c.key
              (c.newOp (if nr then .st else .ld) (.atomic (accsOf ok) op x.t data exp nr x.d.vnum) x.ord (reachScope ok x.scope)) }
      c.firstIssue (c.checkAddrs s sp x.a n fresh) <|
        if nr then go c.regs else c.loadDest s (.v x.d.vnum w) (decide (act = fullMask)) go

def execAadd (x : Opnds) (s : State) : Host.Outcome State Fault Refusal := atmOp s x .add
def execAand (x : Opnds) (s : State) : Host.Outcome State Fault Refusal := atmOp s x .and
def execAor (x : Opnds) (s : State) : Host.Outcome State Fault Refusal := atmOp s x .or
def execAxor (x : Opnds) (s : State) : Host.Outcome State Fault Refusal := atmOp s x .xor
def execAmin (x : Opnds) (s : State) : Host.Outcome State Fault Refusal := atmOp s x .min
def execAmax (x : Opnds) (s : State) : Host.Outcome State Fault Refusal := atmOp s x .max
def execAxch (x : Opnds) (s : State) : Host.Outcome State Fault Refusal := atmOp s x .xch
def execAcas (x : Opnds) (s : State) : Host.Outcome State Fault Refusal := atmOp s x .cas
def execAinc (x : Opnds) (s : State) : Host.Outcome State Fault Refusal := atmOp s x .inc

end Sys2Proof.Machine
end

