-- ==== Sys2Proof/Machine/Dbg.lean ====
section
/-! DEFINITION. Quarters under debug (R475 to R482), trace records (R489, R490) and the accounting of cycles (R491 to
R493). -/

namespace Sys2Proof.Machine

open Sys2Proof

/-- The partition that holds a core (R334). -/
def State.partOfCore (s : State) (core : Nat) : Option Nat := (s.parts.find? fun e => e.2.holds core).map (·.1)

/-- Write a trace record of a kind at the ring's next slot (R490): `loc` is bytes 6 and 7, `body` bytes 16 to 31. -/
def State.traceRec (s : State) (part kind loc : Nat) (body : Nat) : State :=
  let p := s.part part
  let size := bitsOf p.trbase 4 0
  if !p.trctl.getLsbD 0 || !p.trctl.getLsbD kind || decide (size < 6 ∨ 24 < size) then s
  else
    let a := bitsOf p.trbase 56 12 * 4096 + 32 * (p.tridx.toNat % 2 ^ size)
    let put (s : State) (o v : Nat) : State := s.vwrite part (a + o) 8 (v % 2 ^ 64)
    let s := put s 0 (p.tridx.toNat + kind * 2 ^ 32 + loc * 2 ^ 48)
    let s := put s 8 s.clock.toNat
    let s := put (put s 16 body) 24 (body / 2 ^ 64)
    s.onPart part fun x => { x with tridx := x.tridx + 1 }

/-- Core and quarter as trace and fault records name them (R365). -/
def locOf (q : Nat) : Nat := q / 4 + q % 4 * 256

/-- A trace record about a quarter, in the ring of the partition that holds its core. -/
def State.traceQuarter (s : State) (q kind body : Nat) : State :=
  match s.partOfCore (q / 4) with
  | some p => s.traceRec p kind (locOf q) body
  | none => s

/-- The value QSTOP reads (R476). -/
def QuarterSt.qstop (q : QuarterSt) : DWord :=
  .ofNat 64 (q.cycle.toNat * 2 ^ 32 + q.comp % 16 * 2 ^ 14 + q.slot % 32 * 2 ^ 9 + (if q.dumping then 2 ^ 8 else 0)
    + q.cause % 16 * 2 ^ 4 + (if q.req then 4 else 0) + (if q.agent then 2 else 0) + (if q.stopped then 1 else 0))

/-- Stop a quarter (R475, R476): the cause, and for a match or step the slot and comparator. -/
def State.stopQuarter (s : State) (q cause : Nat) (slot comp : Option Nat) (pc : VAddr) : State :=
  let s := s.onQuarter q fun x =>
    { x with stopped := true, req := true, cause := cause, slot := slot.getD x.slot, comp := comp.getD x.comp,
             cycle := s.clock.setWidth 32 }
  s.traceQuarter q 2 ((s.quarter q).qstop.toNat + pc.toNat * 2 ^ 64)

/-- Resume a quarter (R475): no split is due to enter the agent any more. -/
def State.resumeQuarter (s : State) (q : Nat) : State :=
  let s := s.onQuarter q fun x =>
    { x with stopped := false, exempt := none, stepping := none, entering := [], resumeAt := none }
  s.traceQuarter q 3 (s.quarter q).qstop.toNat

/-- A write of QSTOP.REQ (R476): 1 stops a running quarter, 0 lets it run, at once or at the agent's TRET. -/
def State.writeReq (s : State) (q : Nat) (req : Bool) (cause : Nat) (exempt : Option (Nat × Nat)) : State :=
  let x := s.quarter q
  if req == x.req then s
  else if req then
    if x.stopped then s.onQuarter q fun x => { x with req := true, resumeAt := none }
    else (s.stopQuarter q cause none none 0).onQuarter q fun x => { x with exempt := exempt }
  else
    let s := s.onQuarter q fun x => { x with req := false, exempt := none }
    if x.agent then s else if x.stopped then s.resumeQuarter q else s

/-- REASON of DBGMB (R481). -/
def Ctx.dbgReason (c : Ctx) : Nat := bitsOf c.dbgmb 63 60

/-- A split is in the debug agent (R481): it is Trapped and holds its strand's DBGMB. -/
def Strand.inAgent (st : Strand) (slot : Nat) : Bool :=
  st.ctx.dbgReason != 0 && bitsOf st.ctx.dbgmb 58 57 == slot && (st.split slot).privileged

/-- Is some split of a strand in the debug agent? -/
def Strand.agentHere (st : Strand) : Bool := (List.range 4).any st.inAgent

/-- Enter the debug agent (R481), at DVEC, unless it is disabled or the split is Trapped. -/
def State.enterAgent (s : State) (q : Nat) (e : Entering) : State :=
  let s := s.onQuarter q fun x => { x with entering := x.entering.erase e }
  match s.strand? e.strand with
  | none => s
  | some st =>
    let s := s.seen st.part ((s.part st.part).vbase 14) 8
    let dvec : DWord := .ofNat 64 (s.vread st.part ((s.part st.part).vbase 14) 8)
    let sp := st.split e.slot
    if !dvec.getLsbD 0 || (sp.st == .trapped && e.reason != 3) || sp.st == .free then s
    else
      let mb : DWord := .ofNat 64 (e.reason * 2 ^ 60 + e.slot % 4 * 2 ^ 57 + sp.pc.toNat)
      let ctx := { st.ctx with dbgmb := mb, tmask := if e.lanes == 0 then sp.mask else e.lanes }
      let sp0 := { sp with st := .trapped, pc := .ofNat 57 ctx.tpc.toNat, words := [] }
      let entry : Ctx := { ctx with splits := ctx.splits.set e.slot sp0 }
      let sp' := { sp with st := .trapped, pc := .ofNat 57 (bitsOf dvec 56 2 * 4), stall := .none, words := [] }
      let s := s.setStrand e.strand
        { st with ctx := { ctx with splits := ctx.splits.set e.slot sp' }, hold := some e.slot, atEntry := some (st.snap entry) }
      s.onQuarter q fun x => { x with agent := true }

/-- The strands resident in a quarter. -/
def State.residents (s : State) (q : Nat) : List (Nat × Strand) := s.strands.filter fun e => decide (quarterOf e.1 = q)

/-- Is a strand of a quarter, one aside, in the agent (R476)? -/
def State.agentIn (s : State) (q but : Nat) : Bool := (s.residents q).any fun e => e.1 != but && e.2.agentHere

/-- A strand has left its quarter: with the last that was in the agent there, a quarter that is to run resumes (R476). -/
def State.agentLeft (s : State) (q key : Nat) : State :=
  let x := s.quarter q
  if !x.agent || s.agentIn q key then s
  else
    let s := s.onQuarter q fun x => { x with agent := false }
    if x.stopped && !x.req then s.resumeQuarter q else s

/-- What follows an agent's TRET (R482): a step, a resume 8 cycles later, or the quarter stays stopped. -/
def State.agentOver (s : State) (key slot : Nat) (step : Bool) : State :=
  let q := quarterOf key
  let other := s.agentIn q key
  s.onQuarter q fun x =>
    { x with agent := other, stepping := if step then some (key, slot) else none
             resumeAt := if step || x.req || other then none else some (s.clock.toNat + 8) }

/-- The agent's TRET (R482): back to DBGMB.PC; a pass for another address lapses (R478). -/
def State.agentTret (s : State) (key slot : Nat) : State :=
  match s.strand? key with
  | none => s
  | some st =>
    let mb := st.ctx.dbgmb
    let pc : VAddr := .ofNat 57 mb.toNat
    let mb' : DWord := .ofNat 64 (mb.toNat % 2 ^ 60)
    let st := st.onCtx fun c => { c with dbgmb := mb' }
    let st := st.onSplit slot fun sp =>
      { sp with st := .ready, pc := pc, stall := .none, words := [], priv := false, park := none, redo := none,
                pass := if sp.pass == some pc then sp.pass else none }
    (s.setStrand key { st with hold := none, atEntry := none }).agentOver key slot (mb.getLsbD 59)

/-- The cycle in which a stepped instruction has issued is over: its quarter's stop takes the next (R482). -/
def State.stepStop (s : State) (q : Nat) (e : Entering) : State :=
  let pc := match s.strand? e.strand with | some st => (st.split e.slot).pc | none => 0
  (s.stopQuarter q 5 (some (slotOf e.strand)) none pc).onQuarter q fun x =>
    { x with entering := x.entering.map fun y => { y with noted := true } }

/-- What a passing cycle brings to quarters under debug (R482): the stop of a step, the resume due after the agent's TRET. -/
def State.debugTick (s : State) : State :=
  s.quarters.foldl (fun s e =>
    let s := match e.2.entering.find? fun x => !x.noted with | some x => s.stepStop e.1 x | none => s
    match e.2.resumeAt with
    | some t => if t ≤ s.clock.toNat ∧ e.2.req = false then s.resumeQuarter e.1 else s
    | none => s) s

/-! ## Which split may issue -/

/-- Is a split held by its strand's handler (R171)? -/
def Strand.heldBack (st : Strand) (slot : Nat) : Bool := match st.hold with | some h => h != slot | none => false

/-- May a split of a quarter issue while it is stopped (R475, R476, R482)? -/
def State.stopAllows (s : State) (key slot : Nat) : Bool :=
  let q := s.quarter (quarterOf key)
  !q.stopped || q.exempt == some (key, slot) || q.stepping == some (key, slot)
    || (match s.strand? key with | some st => st.inAgent slot | none => false)

/-- Does a workgroup's strands issue: it is being saved, killed or restored (R381, R436, R440)? -/
def State.wgRuns (s : State) (wg : Nat) : Bool := match s.wg? wg with | some w => w.phase == .running | none => true

/-- Is the strand stopped for a compaction, its block the next to be moved (R97) or its workgroup's scratchpad (R452)? -/
def State.moving (s : State) (key : Nat) : Bool :=
  (s.quarter (quarterOf key)).moves.head?.map (·.1) == some key ||
    match s.strand? key with
    | some st => (s.wg? st.wg).any fun w => (s.core w.home).spadMoves.head? == some st.wg
    | none => false

/-- Is a split ready to try its next instruction (R27, R28, R170)? -/
def State.mayIssue (s : State) (key slot : Nat) : Bool :=
  match s.strand? key with
  | none => false
  | some st =>
    let sp := st.split slot
    (sp.st == .ready || sp.st == .trapped) && !st.halted && !st.heldBack slot && decide (sp.wake ≤ s.clock.toNat)
      && s.stopAllows key slot && s.wgRuns st.wg && !s.moving key

/-- Is a split eligible (R28): it may issue, its next instruction is fetched, and it does not wait for an operand or for its unit, as
`State.foresee` finds at the start of the cycle? -/
def State.eligible (s : State) (key slot : Nat) : Bool :=
  s.mayIssue key slot &&
    match s.strand? key with
    | some st =>
      let sp := st.split slot
      !sp.words.isEmpty && sp.stall == .none && !(sp.unit && decide (s.clock.toNat < (s.quarter (quarterOf key)).pipe))
    | none => false

/-- Number of a stall reason (R491). -/
def Stall.code : Stall → Nat
  | .none => 0 | .pendant => 1 | .scoreboard => 2 | .counterWait => 3 | .batchWait => 4 | .barrier => 5 | .syncWord => 6
  | .tileDependence => 7 | .matrixBusy => 8 | .copy => 9 | .fetch => 10 | .drowsyWake => 11 | .splitWait => 12
  | .fabric => 13 | .trap => 14 | .halted => 15

/-- The stall reason of a split, the first that holds in the order of R491; a strand whose block moves is charged to copy (R97), and a
split Joining or at a barrier, which fetches nothing, to that wait (assumption 122). -/
def State.reasonOf (s : State) (key slot : Nat) : Nat :=
  match s.strand? key with
  | none => 0
  | some st =>
    let sp := st.split slot
    if st.halted || (s.quarter (quarterOf key)).stopped then 15
    else if sp.st == .parked || st.heldBack slot then 14
    else if s.moving key then 9
    else if sp.st == .joining then 12
    else if sp.st == .barrier then 5
    else if sp.words.isEmpty then 10
    else sp.stall.code

/-- The stall reason of a strand (R491). -/
def State.strandReason (s : State) (key : Nat) : Nat :=
  match s.strand? key with
  | none => 0
  | some st =>
    if st.phase == .exited then 3
    else s.reasonOf key (((List.range 4).find? fun i => (st.split i).st != .free).getD 0)

/-- Is some split of a strand eligible? -/
def State.strandEligible (s : State) (key : Nat) : Bool := (List.range 4).any fun i => s.eligible key i

/-- The QHIST bucket of a count (R492). -/
def bucketOf (n : Nat) : Nat :=
  if n ≤ 2 then n else if n ≤ 4 then 3 else if n ≤ 8 then 4 else if n ≤ 16 then 5 else 6

/-- The oldest resident strand of a quarter: the earliest grant, then the lowest slot (R492). -/
def State.oldest (s : State) (q : Nat) : Option Nat :=
  ((s.residents q).foldl (fun best e =>
    match best with
    | none => some e
    | some b => if e.2.granted < b.2.granted then some e else some b) none).map (·.1)

/-- Add to a counter of 64 bits. -/
def bump (m : AMap DWord) (k n : Nat) : AMap DWord := mapPut 0 m k (mapGet 0 m k + BitVec.ofNat 64 n)

/-- Count n cycles of a quarter that begin with a state (R492): what it held before is idle time. -/
def State.countQuarter (t s : State) (q n : Nat) : State :=
  let k := ((s.residents q).filter fun e => s.strandEligible e.1).length
  let why := match s.oldest q with | some key => s.strandReason key | none => 0
  t.onQuarter q fun x =>
    let idle := (t.clock - x.since).toNat
    let x := { x with qhist := bump x.qhist 0 idle, qstall := bump x.qstall 0 idle, since := t.clock + BitVec.ofNat 64 n }
    { x with qhist := bump x.qhist (bucketOf k) n, qstall := if k = 0 then bump x.qstall why n else x.qstall }

/-- A member field of GANG (R42). -/
def gangField (g : DWord) (i : Nat) : Nat := g.toNat / 2 ^ (10 * i) % 1024
/-- The members a GANG value names, in index order, as strand keys (R42). -/
def gangMembers (g : DWord) (core : Nat) : List Nat :=
  ((List.range 6).filter fun i => gangField g i != 0x3FF).map fun i =>
    let f := gangField g i
    (clusterOf core * 8 + f / 128) * 128 + f % 128
/-- Does a GANG value name a gang (R42)? -/
def gangNamed (g : DWord) : Bool :=
  gangField g 0 != 0x3FF && decide (2 ≤ ((List.range 6).filter fun i => gangField g i != 0x3FF).length)

/-- Does a strand of the partition in a cluster stand halted or saved? -/
def State.someAway (s : State) (part cluster : Nat) : Bool :=
  (s.wgs.any fun e => e.2.part == part && e.2.cluster == cluster && e.2.phase == .saved)
    || s.strands.any fun e => e.2.part == part && e.2.halted && clusterOf (coreOf e.1) == cluster

/-- The latch entries in which an operation of a strand waits for the others of its gang (R43). -/
def State.latched (s : State) (key : Nat) : List LatchEnt :=
  (s.latches.flatMap (·.2)).filter fun e => e.members.any fun m => m.1 == key

/-- Does a split wait at a barrier, or for an operation in the rendezvous latch (R445)? -/
def State.waitsTogether (s : State) (key : Nat) (sp : Split) : Bool :=
  match sp.bar with
  | some (.workgroup _) | some (.cluster _ _) => true
  | some (.take _) => false
  | none =>
    (sp.stall == .counterWait || sp.stall == .batchWait || sp.stall == .tileDependence || sp.stall == .matrixBusy)
      && !(s.latched key).isEmpty

/-- Does a strand that a split's wait includes stand halted or saved (R445): of its workgroup at its barrier, of its gang at the latch,
of its partition and cluster at a cluster barrier, whose participants it does not name (assumption 151)? -/
def State.includesAway (s : State) (key : Nat) (st : Strand) (sp : Split) : Bool :=
  match sp.bar with
  | some (.workgroup _) => s.strands.any fun e => e.2.wg == st.wg && e.2.halted
  | some (.cluster _ _) => s.someAway st.part (clusterOf (coreOf key))
  | some (.take _) => false
  | none =>
    let gang := (s.latched key).flatMap fun e => gangMembers e.gang (coreOf key)
    s.strands.any fun e => e.2.part == st.part && gang.contains e.2.name &&
      (e.2.halted || (s.wg? e.2.wg).any fun w => w.phase == .saved)

/-- Is a strand's watchdog count suspended (R445)? -/
def State.watchHeld (s : State) (key : Nat) (st : Strand) : Bool :=
  let live := (List.range 4).filter fun i => (st.split i).st != .free
  st.halted || (s.quarter (quarterOf key)).stopped
    || (live.any fun i =>
        s.eligible key i || (st.split i).st == .trapped || decide (s.clock.toNat < (st.split i).wake)
          || (match (st.split i).park with | some p => p.group.isSome | none => false))
    || (!live.isEmpty && live.all (fun i => s.waitsTogether key (st.split i)) && live.any fun i => s.includesAway key st (st.split i))

/-- Let n cycles pass, which began with the state given: the quarters that then held a strand are counted, the others from their own
clock (R492), and the waits of their strands (R445); a reset of the device begins both anew. -/
def State.tick (t s : State) (n : Nat) : State :=
  let s := if t.clock = s.clock then s else t
  let qs := ((s.strands.map fun e => quarterOf e.1).filter fun q => decide (q < 768)).eraseDups
  let u := qs.foldl (fun u q => u.countQuarter s q n) t
  let held (e : Nat × Strand) : Bool := match s.strand? e.1 with | some st => s.watchHeld e.1 st | none => true
  let waits (e : Nat × Strand) : Nat × Strand := if held e then e else (e.1, { e.2 with watch := e.2.watch + n })
  { u with clock := t.clock + .ofNat 64 n, strands := u.strands.map waits }

/-- A QHIST bucket as it reads (R493). -/
def State.qhist (s : State) (q i : Nat) : DWord :=
  let x := s.quarter q
  mapGet 0 x.qhist i + (if i = 0 then s.clock - x.since else 0)

/-- A QSTALL counter as it reads (R493). -/
def State.qstall (s : State) (q i : Nat) : DWord :=
  let x := s.quarter q
  mapGet 0 x.qstall i + (if i = 0 then s.clock - x.since else 0)

/-- Write a QHIST bucket or a QSTALL counter (R493). -/
def State.setCount (s : State) (q i : Nat) (stall : Bool) (v : DWord) : State :=
  s.onQuarter q fun x =>
    let w := v - (if i = 0 then s.clock - x.since else 0)
    if stall then { x with qstall := mapPut 0 x.qstall i w } else { x with qhist := mapPut 0 x.qhist i w }

end Sys2Proof.Machine
end

