-- ==== Sys2Proof/Machine/Fab.lean ====
section
/-! DEFINITION. Sending on the Chaelo fabric: planes, flows and packets (R315 to R317, R456), and accesses through FAR frames
of other devices (R319 to R321, R332). The payload of a memory
packet, which the spec does not lay out, is the model's own (assumption 21). -/

namespace Sys2Proof

/-- The MAC address of a port (R313): locally administered. -/
def macOf (dev port : Nat) : BitVec 48 := .ofNat 48 (0x020000000000 + dev * 2 ^ 8 + port)

/-- The frame of a packet: MAC addresses and EtherType (R313, R314). -/
def Pkt.frame (p : Pkt) (etype : Half) : Pkt := { p with etype := etype, dmac := macOf p.dst p.plane, smac := macOf p.src p.plane }

end Sys2Proof

namespace Sys2Proof.Machine

open Sys2Proof

/-- fold6 (R317): the XOR of the 6-bit groups. -/
def fold6 (x : Nat) : Nat := (List.range 11).foldl (fun acc i => acc ^^^ (x / 2 ^ (6 * i) % 64)) 0

/-- Does the device carry fabric traffic: has the boot ROM accepted an image (R388)? -/
def State.fabricOn (s : State) : Bool := decide (2 ≤ s.boot.stage)

/-- A port. -/
def State.port (s : State) (k : Nat) : Port := mapGet (Port.reset k) s.fabric.ports k
/-- Change the fabric. -/
def State.onFab (s : State) (f : Fabric → Fabric) : State := { s with fabric := f s.fabric }
/-- Change a port. -/
def State.onPort (s : State) (k : Nat) (f : Port → Port) : State :=
  s.onFab fun x => { x with ports := mapPut (Port.reset k) x.ports k (f (mapGet (Port.reset k) x.ports k)) }
/-- A flow toward a device on a plane. -/
def flowKey (dev plane : Nat) : Nat := dev * 64 + plane
/-- A flow. -/
def State.flow (s : State) (dev plane : Nat) : Flow := mapGet Flow.reset s.fabric.flows (flowKey dev plane)
/-- Change a flow. -/
def State.onFlow (s : State) (dev plane : Nat) (f : Flow → Flow) : State :=
  s.onFab fun x =>
    { x with flows := mapPut Flow.reset x.flows (flowKey dev plane) (f (mapGet Flow.reset x.flows (flowKey dev plane))) }
/-- What is known of a device. -/
def State.peer (s : State) (dev : Nat) : Peer := mapGet Peer.reset s.fabric.peers dev
/-- Change what is known of a device. -/
def State.onPeer (s : State) (dev : Nat) (f : Peer → Peer) : State :=
  s.onFab fun x => { x with peers := mapPut Peer.reset x.peers dev (f (mapGet Peer.reset x.peers dev)) }

/-- Is a plane live at this device? Port 63 of a bridge device is the host adapter's (R331). -/
def State.planeUp (s : State) (k : Nat) : Bool := (s.port k).up && !(k == 63 && s.isBridge)
/-- Is a plane live at both ends by the latest announcements (R456), its resends not used up (R458)? This device's own loopback
needs its own end only. -/
def State.planeLive (s : State) (dev k : Nat) : Bool :=
  s.planeUp k && (dev == s.boot.devid.toNat || ((s.peer dev).planes &&& ~~~(s.peer dev).dead).getLsbD k)
/-- The first live plane from a start, ascending modulo 64 (R456); the start where none is live. -/
def State.planeFrom (s : State) (dev start : Nat) : Nat :=
  (((List.range 64).map fun k => (start + k) % 64).find? fun k => s.planeLive dev k).getD start
/-- The plane of a memory packet (R317). One to a line for which a flow under recovery still has a packet goes out behind that
packet (R457). -/
def State.planeOf (s : State) (dev va : Nat) : Nat :=
  let behind (k : Nat) : Bool := let f := s.flow dev k
    f.asking && f.unacked.any fun e => decide (e.1.addr.toNat / 128 = va / 128)
  ((List.range 64).find? behind).getD (s.planeFrom dev (fold6 ((va / 128 % 2 ^ 50) ^^^ dev)))

/-- A packet of this device; `send` gives it its sequence number. -/
def State.mkPkt (s : State) (opc dev plane : Nat) (incarn fabid : Half) (addr : DWord) (payload : List Byte) : Pkt :=
  { opc := opc, plane := plane, src := s.boot.devid.toNat, port := false, dst := dev, tincarn := incarn,
    sincarn := s.boot.incarn, fabid := fabid, seq := 0, ack := 0, flags := 0, addr := addr, payload := payload }

/-- FABID of a partition (R318). -/
def Part.fabid (p : Part) : Half := (mapGet 0 p.fab 0).setWidth 16

/-- Bytes 0 to 15 of a packet's header (R315). -/
def pktHead (p : Pkt) : Nat :=
  1 + 2 ^ 4 * p.opc + 2 ^ 8 * p.plane + 2 ^ 16 * (p.src + if p.port then 2 ^ 15 else 0) + 2 ^ 32 * p.dst
    + 2 ^ 48 * p.tincarn.toNat + 2 ^ 64 * p.sincarn.toNat + 2 ^ 80 * p.fabid.toNat + 2 ^ 96 * p.seq.toNat

/-- The partition of a fabric binding id (R319). -/
def State.partOfFab (s : State) (f : Half) : Option Nat :=
  if f = 0 then none else (s.parts.find? fun e => e.2.fabid == f).map (·.1)

/-- A packet record (R490): one packet in 2^(10 + SAMP) that a port sends or receives. -/
def State.tracePkt (s : State) (p : Pkt) : State :=
  match s.partOfFab p.fabid with
  | none => s
  | some n =>
    let c := (s.port p.plane).sent + (s.port p.plane).received
    if c.toNat % 2 ^ (10 + bitsOf (s.part n).trctl 15 11) = 0 then s.traceRec n 5 0 (pktHead p) else s

/-- Put a frame on a port: its hop keeps it for a resend (R316, R454). -/
def State.emit (s : State) (p : Pkt) : State :=
  let p := p.frame s.boot.etype
  let s := s.onPort p.plane fun q => { q with sent := q.sent + 1, replay := (q.replay ++ [p]).drop (q.replay.length - 255) }
  (s.onFab fun x => { x with outbox := x.outbox ++ [p] }).tracePkt p

/-- Send a packet as the next of a flow, the ordinary one or that of node packets toward a switch port (R460); it stays
with the sender until acknowledged (R316, R458). One of a flow under recovery goes out as that ends (R457). -/
def State.sendOn (s : State) (flow : Nat) (p : Pkt) : State :=
  let fl := s.flow flow p.plane
  let p := { p with seq := fl.next, ack := (s.flow p.dst p.plane).inNext - 1 }
  (s.onFlow flow p.plane fun f => { f with next := f.next + 1, unacked := f.unacked ++ [(p, s.clock.toNat, 0)] }) |> fun s =>
    if fl.asking then s else s.emit p

/-- Send a packet on its ordinary flow. -/
def State.send (s : State) (p : Pkt) : State := s.sendOn p.dst p

/-! ## Remote operations (R237 to R239) -/

/-- ATM minor number of an operation (R220). -/
def AtmOp.code : AtmOp → Nat
  | .add => 0 | .and => 1 | .or => 2 | .xor => 3 | .min => 4 | .max => 5 | .xch => 6 | .cas => 7 | .inc => 8

/-- The atomic of a minor number (R220). -/
def AtmOp.ofCode (n : Nat) : AtmOp :=
  match n with
  | 0 => .add | 1 => .and | 2 => .or | 3 => .xor | 4 => .min | 5 => .max | 6 => .xch | 7 => .cas | _ => .inc

/-- Is an address in a partition's BF16 window (R321)? -/
def Part.inWindow (p : Part) (va : Nat) : Bool :=
  decide (bitsOf (mapGet 0 p.fab 2) 56 0 ≤ va ∧ va < bitsOf (mapGet 0 p.fab 3) 56 0)

/-- Is an address in the BF16 window of the partition that a fabric binding id names at a device? -/
def State.windowAt (s : State) (dev : Nat) (fabid : Half) (va : Nat) : Bool :=
  if dev = s.boot.devid.toNat then
    match s.partOfFab fabid with | some n => (s.part n).inWindow va | none => false
  else Config.peerWindow dev fabid.toNat va

/-- A 32-bit value as the BF16 window carries it (R321): rounded to nearest even, a NaN the canonical one. -/
def windowCode (x : Nat) : Nat := ((fmtOf .bf16).round rneArg false (fp32.val x)).1

/-- The payload of a store (R321): a b32 value for a BF16 window as its code, anything else bit for bit. -/
def storePayload (narrow : Bool) (data : List Byte) : List Byte :=
  if narrow then 1 :: bytesOf 2 (windowCode (bytesVal data)) else 0 :: data

/-- The bytes that a store's payload writes (R321): a BF16 code stands in the high half. -/
def storedBytes : List Byte → List Byte
  | [] => []
  | k :: l => if k = 1 then 0 :: 0 :: l else l

/-- OPC and payload of one lane's request (R315): a load names its size, an atomic its operation, type and operands. -/
def Remote.request (r : Remote) (lane : Nat) (win : Bool) : Nat × List Byte :=
  let d := (r.data.getD lane 0).toNat
  let e := (r.data2.getD lane 0).toNat
  match r.kind with
  | .load => (1, [.ofNat 8 r.ty.bytes])
  | .store => (3, storePayload (win && r.ty.bytes == 4) (bytesOf r.ty.bytes d))
  | .atomic op => (4, [.ofNat 8 op.code, .ofNat 8 r.ty.code] ++ bytesOf 8 d ++ bytesOf 8 e)
  | .ctr => (8, bytesOf 8 d)
  | .sync => (9, bytesOf 8 d)

/-- Send the requests of some lanes of a remote operation, in ascending lane order. -/
def State.sendLanes (s : State) (part key op : Nat) (r : Remote) (lanes : List (Nat × DWord)) : State :=
  lanes.foldl (fun s e =>
    let plane := s.planeOf r.peer e.2.toNat
    let (opc, payload) := r.request e.1 (s.windowAt r.peer (s.part part).fabid e.2.toNat)
    let seq := (s.flow r.peer plane).next
    let s := s.send (s.mkPkt opc r.peer plane r.incarn (s.part part).fabid e.2 payload)
    s.onStrand key fun st => st.onOp op fun o =>
      match o.body with
      | .remote q => { o with body := .remote { q with wait := q.wait ++ [(plane, seq, e.1)] } }
      | _ => o) s

/-- Send the remote operations of a strand that may perform now (R130, R132, R317). -/
def State.pump (s : State) (key : Nat) : State :=
  match s.strand? key with
  | none => s
  | some st =>
    st.ops.foldl (fun s o =>
      match o.body with
      | .remote r =>
        if !o.started && !o.done && st.mayPerform o then
          (s.onStrand key fun st => st.onOp o.id fun o => { o with started := true }).sendLanes st.part key o.id r r.lanes
        else s
      | _ => s) s

/-! ## Accesses through FAR frames of other devices (R319 to R321, R332) -/

/-- The incarnation of a device as this one knows it (R320). -/
def State.incarnOf (s : State) (dev : Nat) : Half :=
  if dev = s.boot.devid.toNat then s.boot.incarn else (s.peer dev).incarn

/-- The place that a request names. -/
def FarReq.at_ : FarReq → Nat
  | .load a _ => a | .store a _ _ => a | .atomic a _ _ _ _ _ => a | .update a _ => a

/-- The device that a request goes to (R331, R332). -/
def FarReq.dev (r : FarReq) : Nat := peerDev r.at_

/-- The address that its packet carries (assumption 17); one on the host's memory has bit 63 set (R331, assumption 10). -/
def FarReq.addr (r : FarReq) : Nat := if 2 ^ 51 ≤ r.at_ then 2 ^ 63 + r.at_ % 2 ^ 50 else r.at_ % 2 ^ 41

/-- Does a request bring bytes back? -/
def FarReq.reads : FarReq → Bool
  | .load .. => true | .atomic .. => true | _ => false

/-- OPC and payload of a request (R315); arming a sync word stores the whole of it. -/
def FarReq.packet (r : FarReq) (win : Bool) : Nat × List Byte :=
  match r with
  | .load _ n => (1, [.ofNat 8 n])
  | .store _ l b32 => (3, storePayload (win && b32) l)
  | .atomic _ _ op ty c e => (4, [.ofNat 8 op.code, .ofNat 8 ty.code] ++ bytesOf 8 c ++ bytesOf 8 e)
  | .update _ (.add d) => (8, bytesOf 8 d.toNat)
  | .update _ (.arrive n f) => (9, bytesOf 8 (n.toNat + 2 ^ 32 * f.toNat))
  | .update _ u => (3, 0 :: bytesOf 8 (u.apply 0).toNat)

/-- Send a request for a partition, on the plane of its line (R317), with the incarnation last reported (R320); who waits for
it is told its number. -/
def State.farSend (s : State) (part : Nat) (key : Option FarKey) (r : FarReq) : State :=
  let dev := r.dev
  let fabid := (s.part part).fabid
  let plane := s.planeOf dev r.addr
  let (opc, payload) := r.packet (s.windowAt dev fabid r.addr)
  let w : List FarWait := match key with | some k => [{ key := k, req := r, plane := plane, seq := (s.flow dev plane).next }] | none => []
  let s := s.send (s.mkPkt opc dev plane (s.incarnOf dev) fabid (.ofNat 64 r.addr) payload)
  { s with far := { s.far with wait := s.far.wait ++ w } }

/-- Does a request of someone wait for its answer? -/
def FarIo.waits (f : FarIo) (k : FarKey) : Bool := f.wait.any fun w => w.key == k

/-- Forget the answers that someone has used up. -/
def FarIo.used (f : FarIo) (k : FarKey) : FarIo := { f with known := f.known.filter fun e => !(e.1 == k) }

/-- Do what may access other devices' memory for a maker of such accesses: an effect that asks nothing of them stands at
once; else it stands once every answer is there, those that bring bytes first. -/
def State.farDo (s : State) (part : Nat) (k : FarKey) (f : State → State) : State :=
  let t := f s
  if t.far.asked.isEmpty then t
  else if s.far.waits k then s
  else
    let u := f { s with far := { s.far with cur := some k, asked := [] } }
    match u.far.asked with
    | [] => { u with far := { (u.far.used k) with cur := s.far.cur } }
    | l =>
      let first := l.filter FarReq.reads
      (if first.isEmpty then l else first).foldl (fun s r => s.farSend part (some k) r) s

/-- What an operation of a strand does as it performs. -/
def State.farFor (s : State) (key op : Nat) (f : State → State) : State :=
  s.farDo ((s.strand? key).elim 0 fun st => st.part) (.op key op) f

/-- Is whoever made a request still there? -/
def State.farAlive (s : State) (k : FarKey) : Bool :=
  match k with
  | .op key op => ((s.strand? key).bind fun st => st.op? op).isSome
  | .swap die => (s.dieSt die).swap.isSome
  | .dev _ => true
  | .issue key slot | .fetch key slot =>
    match s.strand? key with | some st => (st.split slot).st == .ready || (st.split slot).st == .trapped | none => false

/-- What a step comes to that read other devices' memory on the device's own account (R319, R332): with an answer missing nothing
happens yet, and what is missing is asked; else the answers are used up (assumption 17). -/
def State.settled (s t : State) : State :=
  match t.far.ask.eraseDups with
  | [] =>
    if t.far.told.isEmpty then t
    else { t with far := { t.far with told := [], known := t.far.known.filter fun e => !t.far.told.any fun x => e.1 == .dev x.1 && e.2.1 == x.2 } }
  | l => (l.filter fun e => !s.far.wait.any fun w => w.key == .dev e.1 && w.req == e.2).foldl (fun s e =>
    s.farSend e.1 (some (.dev e.1)) e.2) s

/-- What the device itself reads of a partition's memory for an instruction (R111): the split waits while another device's answer is
missing (R319). -/
def Ic.deviceReads (c : Ic) (s : State) (a n : Nat) (k : State → Act) : Act :=
  let t := s.seen c.st.part a n
  if t.far.ask.isEmpty then k t else .wait (s.settled t) .fabric

/-- The device reads n bytes at each of some addresses (R111, R319). -/
def State.seenAll (s : State) (part : Nat) (l : List Nat) (n : Nat) : State := l.foldl (fun s a => s.seen part a n) s

/-- What the device itself reads for an instruction at each of some addresses. -/
def Ic.deviceReadsAll (c : Ic) (s : State) (l : List Nat) (n : Nat) (k : State → Act) : Act :=
  match l with
  | [] => k s
  | _ :: _ => let t := s.seenAll c.st.part l n; if t.far.ask.isEmpty then k t else .wait (s.settled t) .fabric

/-- At the end of a step: what the device writes to other devices goes out, and answers for no one are forgotten. -/
def State.flushFar (s : State) : State :=
  let t := s.far.post.foldl (fun s e => s.farSend e.1 none e.2) s
  let alive (k : FarKey) : Bool := t.farAlive k
  { t with far := { t.far with post := [], asked := [], known := t.far.known.filter fun e => alive e.1, wait := t.far.wait.filter fun w => alive w.key } }

/-- Complete an operation of a strand; what it held back may then go out. -/
def State.finishOp (s : State) (key op : Nat) : State := (s.onStrand key fun st => st.complete op).pump key

end Sys2Proof.Machine
end

