-- ==== Sys2Proof/Machine/Prd.lean ====
section
/-! DEFINITION. Predicate instructions (R179 to R181) and the shared comparison of the base forms. -/

namespace Sys2Proof.Machine

open Sys2Proof

/-- Merge new predicate bits into the lanes of act. -/
def mergeMask (act old new : Mask) : Mask := (old &&& ~~~act) ||| (new &&& act)

/-- Write the lanes of act of a lane predicate. -/
def Ic.toP (c : Ic) (s : State) (act : Mask) (n : Nat) (m : Mask) : Act :=
  .done (s.putRegs c (c.regs.setP n (mergeMask act (c.regs.pred n) m)))

/-- Write a scalar predicate. -/
def Ic.toQ (c : Ic) (s : State) (n : Nat) (b : Bool) : Act := .done (s.putRegs c (c.regs.setQ n b))

def execPset (x : Opnds) (s : State) : Host.Outcome State Fault Refusal :=
  let w := x.t.is64
  issueX s x fun c => c.known s x [(x.a, w), (x.b, w)] fun offs =>
    let a := offs.getD 0 (.u 0)
    let b := offs.getD 1 (.u 0)
    c.toP s (c.act x) x.d.pnum (maskOf fun l => icmp x.sel (intVal x.t (a.at l)) (intVal x.t (b.at l)))

def execPfset (x : Opnds) (s : State) : Host.Outcome State Fault Refusal :=
  let w := x.t.is64
  let f := fmtOf x.t
  issueX s x fun c => c.known s x [(x.a, w), (x.b, w)] fun offs =>
    let a := offs.getD 0 (.u 0)
    let b := offs.getD 1 (.u 0)
    let act := c.act x
    let e := c.fpEnv x
    let r (l : Nat) : Bool × Half := fcmp x.sel (e.val f (a.at l).toNat) (e.val f (b.at l).toNat)
    let fl : Half := (lanesOf act).foldl (fun acc l => acc ||| (r l).2) 0
    (c.toP s act x.d.pnum (maskOf fun l => (r l).1)).also fun t => t.raise c.key fl

/-- The bit that a look-up table of SEL[3:0] gives for two bits (R179). -/
def lutBit (n : Nat) (a b : Bool) : Bool := n.testBit ((if a then 2 else 0) + (if b then 1 else 0))

def execPlog (x : Opnds) (s : State) : Host.Outcome State Fault Refusal :=
  issueX s x fun c =>
    let a := c.regs.pred x.a.pnum
    let b := c.regs.pred x.b.pnum
    c.toP s (c.act x) x.d.pnum (maskOf fun l => lutBit (x.sel % 16) (laneIn a l) (laneIn b l))

/-- PMOV in its five forms (R180). -/
def execPmov (x : Opnds) (s : State) : Host.Outcome State Fault Refusal :=
  issueX s x fun c =>
    let act := c.act x
    match x.d, x.a with
    | .p d, .p a => c.toP s act d (c.regs.pred a)
    | .p d, .v _ => c.known s x [(x.a, false)] fun offs =>
        c.toP s act d (maskOf fun l => ((offs.getD 0 (.u 0)).at l).getLsbD 0)
    | .v d, .p a =>
      let p := c.regs.pred a
      c.vec s x d false [] { f := fun l _ => (if laneIn p l then 1 else 0, 0), perLane := true }
    | .s d, .p a =>
      c.toS s d (((c.regs.pred a) >>> (64 * x.xs)).setWidth 64)
    | .p d, .s _ => c.known s x [(x.a, true)] fun offs =>
        let v := ((offs.getD 0 (.u 0)).at 0).setWidth 256
        let win : Mask := ((BitVec.allOnes 64).setWidth 256) <<< (64 * x.xs)
        c.toP s (act &&& win) d (v <<< (64 * x.xs))
    | _, _ => .done s

/-- VOTE (R181). -/
def execVote (x : Opnds) (s : State) : Host.Outcome State Fault Refusal :=
  issueX s x fun c =>
    let m := c.sp.mask
    let p := c.regs.pred x.a.pnum
    match x.sel with
    | 0 => c.toQ s x.d.qnum ((p &&& m) != 0)
    | 1 => c.toQ s x.d.qnum ((p &&& m) == m)
    | _ => c.known s x [(x.a, false)] fun offs =>
        let a := offs.getD 0 (.u 0)
        c.toQ s x.d.qnum ((lanesOf m).all fun l => a.at l == a.at (lowLane m))

def execPcnt (x : Opnds) (s : State) : Host.Outcome State Fault Refusal :=
  issueX s x fun c => c.toS s x.d.snum (.ofNat 64 (popMask (c.sp.mask &&& c.regs.pred x.a.pnum)))

def execPfirst (x : Opnds) (s : State) : Host.Outcome State Fault Refusal :=
  issueX s x fun c => c.toS s x.d.snum (.ofNat 64 (lowLane (c.sp.mask &&& c.regs.pred x.a.pnum)))

/-- Shared QSET (R179). -/
def qsetOp (s : State) (len : Nat) (x : Opnds) (t : Ty) (sel : Nat) : Host.Outcome State Fault Refusal :=
  issue s len fun c => c.known s x [(x.a, true), (x.b, true)] fun offs =>
    c.toQ s x.d.qnum (icmp sel (intVal t ((offs.getD 0 (.u 0)).at 0)) (intVal t ((offs.getD 1 (.u 0)).at 0)))

def execQset (x : Opnds) (s : State) : Host.Outcome State Fault Refusal := qsetOp s x.len x x.t x.sel

def execQlog (x : Opnds) (s : State) : Host.Outcome State Fault Refusal :=
  issueX s x fun c => c.toQ s x.d.qnum (lutBit (x.sel % 16) (c.regs.sp x.a.qnum) (c.regs.sp x.b.qnum))

end Sys2Proof.Machine
end

