-- ==== Sys2Proof/Machine/Recon.lean ====
section
/-! DEFINITION. Splits and the reconvergence stack (R26 to R33, R500), workgroup barriers (R39) and the exit of lanes. -/

namespace Sys2Proof.Machine

open Sys2Proof

/-- Does the entry cover some lane of a mask? An entry covers all lanes of a split or none (R30). -/
def Entry.covers (e : Entry) (m : Mask) : Bool := (e.expected &&& m) != 0

/-- The lanes of an entry's deferred path. -/
def Entry.deferredMask (e : Entry) : Mask := match e.deferred with | some (_, m) => m | none => 0

/-- Is the entry due (R500): a deferred path, and every other lane arrived? -/
def Entry.due (e : Entry) : Bool :=
  e.deferred.isSome && ((e.expected &&& ~~~e.deferredMask) &&& ~~~e.arrived) == 0

/-- Is the entry complete (R32)? -/
def Entry.complete (e : Entry) : Bool := e.deferred.isNone && e.expected != 0 && (e.arrived &&& e.expected) == e.expected

/-- Indices of the entries that cover a mask, oldest first (R30). -/
def coverIdx (stack : List Entry) (m : Mask) : List Nat :=
  (List.range stack.length).filter fun i => match stack[i]? with | some e => e.covers m | none => false

/-- Index of the top covering entry (R30). -/
def topCover (stack : List Entry) (m : Mask) : Option Nat := (coverIdx stack m).getLast?

/-- The lowest free split slot. -/
def freeSplit (sps : List Split) : Option Nat :=
  (List.range sps.length).find? fun i => match sps[i]? with | some p => p.st == .free | none => false

/-- The lowest split Joining on entry `i` (R500). -/
def joinerOf (sps : List Split) (stack : List Entry) (i : Nat) : Option Nat :=
  (List.range sps.length).find? fun k =>
    match sps[k]? with | some p => p.st == .joining && topCover stack p.mask == some i | none => false

/-- A split sent along a path. -/
def Split.path (p : Split) (pc : VAddr) (m : Mask) : Split :=
  { p with st := .ready, pc := pc, mask := m, stall := .none, words := [], bar := none, park := none, pass := none,
           redo := none, posted := false }

/-- Words of JOIN in bytes: its survivor goes on after it (R32). -/
def joinBytes : VAddr := 12

/-- The split that has just become Joining, where the entry it joins covers a path's lanes (R500 case 3). -/
def joinerFor (sps : List Split) (stack : List Entry) (joiner : Option Nat) (m : Mask) : Option Nat :=
  match joiner with
  | none => none
  | some k =>
    match sps[k]? with
    | some p =>
      (match topCover stack p.mask with
        | some j => (match stack[j]? with
          | some f => if p.st == .joining && (f.expected &&& m) == m then some k else none
          | none => none)
        | none => none)
    | none => none

/-- Complete entry `i` (R32): the lowest split holding arrived lanes survives with the expected lanes, other such splits
free their slots; where no split holds any, the lanes go on as a deferred path would (R500, assumption 15). -/
def completeEntry (sps : List Split) (stack : List Entry) (i : Nat) (e : Entry) (joiner : Option Nat) :
    Option (List Split × List Entry) :=
  let holds (k : Nat) : Bool :=
    match sps[k]? with | some p => p.st != .free && (p.mask &&& e.arrived) != 0 | none => false
  let pick := match (List.range sps.length).find? holds with
    | some k => some k
    | none => match freeSplit sps with
      | some k => some k
      | none => joinerFor sps stack joiner e.expected
  match pick with
  | none => none
  | some k =>
    some ((List.range sps.length).map fun j =>
            let p := (sps[j]?).getD Split.empty
            if j = k then p.path (e.joinPc + joinBytes) e.expected
            else if p.st != .free && (p.mask &&& e.arrived) != 0 then Split.empty else p,
          stack.eraseIdx i)

/-- Start the deferred path of due entry `i`: a split Joining on it, else a free slot, else the split that has just
become Joining on an entry that covers the path's lanes (R500). -/
def startDeferred (sps : List Split) (stack : List Entry) (i : Nat) (e : Entry) (joiner : Option Nat) :
    Option (List Split × List Entry) :=
  match e.deferred with
  | none => none
  | some (pc, m) =>
    let pick := match joinerOf sps stack i with
      | some k => some k
      | none => match freeSplit sps with
        | some k => some k
        | none => joinerFor sps stack joiner m
    match pick with
    | none => none
    | some k => some (sps.set k (((sps[k]?).getD Split.empty).path pc m), stack.set i { e with deferred := none })

/-- One thing that the stack lets happen at once: an empty entry goes (R33), a complete one completes, a due one starts
its path; the oldest entry first (assumption 15). The first `n` entries of the stack are held in memory (R35): their
number follows. -/
def settleOne (sps : List Split) (stack : List Entry) (n : Nat) (joiner : Option Nat) :
    Option (List Split × List Entry × Nat) :=
  let gone (i : Nat) : Nat := if i < n then n - 1 else n
  (List.range stack.length).findSome? fun i =>
    match stack[i]? with
    | none => none
    | some e =>
      if e.expected == 0 then some (sps, stack.eraseIdx i, gone i)
      else if e.complete then (completeEntry sps stack i e joiner).map fun r => (r.1, r.2, gone i)
      else if e.due then (startDeferred sps stack i e joiner).map fun r => (r.1, r.2, n)
      else none

/-- Let everything happen that can. -/
def settle : Nat → List Split → List Entry → Nat → Option Nat → List Split × List Entry × Nat
  | 0, sps, stack, n, _ => (sps, stack, n)
  | fuel + 1, sps, stack, n, joiner =>
    match settleOne sps stack n joiner with
    | none => (sps, stack, n)
    | some (sps', stack', n') => settle fuel sps' stack' n' joiner

/-! ## Entries in memory (R34, R35) -/

/-- Fields of an image: byte offset, bytes, value. Bytes of no field are zero. -/
abbrev Fields := List (Nat × Nat × Nat)

/-- Fields moved by an offset. -/
def Fields.shift (l : Fields) (o : Nat) : Fields := l.map fun e => (e.1 + o, e.2.1, e.2.2)

/-- A lane mask in 32 bytes. -/
def maskFields (o : Nat) (m : Mask) : Fields := (List.range 4).map fun i => (o + 8 * i, 8, m.toNat / 2 ^ (64 * i) % 2 ^ 64)

/-- An entry of the reconvergence stack in 128 bytes (R35). -/
def Entry.fields (e : Entry) : Fields :=
  let d := e.deferred.getD (0, 0)
  [(0, 8, e.joinPc.toNat)] ++ maskFields 8 e.expected ++ maskFields 40 e.arrived ++ maskFields 72 d.2
    ++ [(104, 8, d.1.toNat), (112, 1, e.owner % 4 + if e.deferred.isSome then 128 else 0), (113, 1, e.pending)]

/-- A lane mask of 32 bytes. -/
def readMask (rd : Nat → Nat → Nat) (o : Nat) : Mask :=
  .ofNat 256 (rd o 8 + rd (o + 8) 8 * 2 ^ 64 + rd (o + 16) 8 * 2 ^ 128 + rd (o + 24) 8 * 2 ^ 192)

/-- An entry of the reconvergence stack (R35). -/
def readEntry (rd : Nat → Nat → Nat) (o : Nat) : Entry :=
  { joinPc := .ofNat 57 (rd o 8), owner := rd (o + 112) 1 % 4, expected := readMask rd (o + 8), arrived := readMask rd (o + 40)
    pending := rd (o + 113) 1
    deferred := if rd (o + 112) 1 / 128 = 1 then some (.ofNat 57 (rd (o + 104) 8), readMask rd (o + 72)) else none }

/-- SPILLP.COUNT (R35). -/
def spillCount (c : Ctx) : Nat := c.spillp.toNat / 2 ^ 57

/-- The address of spilled entry i (R35). -/
def spillAddr (x : Ctx) (i : Nat) : Nat := bitsOf x.spillp 56 7 * 128 + 128 * i

/-- SPILLP.COUNT made n. -/
def Ctx.setSpilled (x : Ctx) (n : Nat) : Ctx := { x with spillp := .ofNat 64 (x.spillp.toNat % 2 ^ 57 + 2 ^ 57 * n) }

/-- Where the entries of a strand's stack that are held in memory lie, the oldest first (R35). -/
def Ctx.spillAddrs (x : Ctx) : List Nat := (List.range (spillCount x)).map (spillAddr x)

/-- The entries of a strand's stack that are held in memory, oldest first (R35). -/
def State.spilled (s : State) (part : Nat) (x : Ctx) : List Entry :=
  (List.range (spillCount x)).map fun i => readEntry (fun o k => s.vread part (spillAddr x i + o) k) 0

/-- Write fields of a structure in a partition's memory. -/
def State.vfields (s : State) (part a : Nat) (l : Fields) : State :=
  l.foldl (fun s e => s.vwrite part (a + e.1) e.2.1 e.2.2) s

/-- Write the entries held in memory that have changed (R26, R500). -/
def State.putSpilled (s : State) (part : Nat) (x : Ctx) (was now : List Entry) : State :=
  (now.zipIdx).foldl (fun s e => if was[e.2]? = some e.1 then s else s.vfields part (spillAddr x e.2) e.1.fields) s

/-- Change the context of the issuing strand. -/
def State.putCtx (s : State) (c : Ic) (x : Ctx) : State := s.onStrand c.key fun st => { st with ctx := x }

/-- Settle a strand's splits with its whole stack, the entries `mem` held in memory (read there as `was`) and those of
the context, and give the strand the context (R26, R32, R33, R500). -/
def State.settleWith (s : State) (c : Ic) (x : Ctx) (was mem : List Entry) (joiner : Option Nat) : State :=
  let r := settle (64 + 2 * mem.length) x.splits (mem ++ x.stack) mem.length joiner
  (s.putSpilled c.st.part x was (r.2.1.take r.2.2)).putCtx c
    (({ x with splits := r.1, stack := r.2.1.drop r.2.2 } : Ctx).setSpilled r.2.2)

/-- Settle a context for the issuing strand. -/
def State.settleCtx (s : State) (c : Ic) (x : Ctx) (joiner : Option Nat) : State :=
  let mem := s.spilled c.st.part x
  s.settleWith c x mem mem joiner

/-- Remove lanes from an entry (R26, R33). -/
def Entry.drop (e : Entry) (b : Mask) : Entry :=
  { e with expected := e.expected &&& ~~~b, arrived := e.arrived &&& ~~~b,
           deferred := match e.deferred with
             | some (pc, m) => if (m &&& ~~~b) == 0 then none else some (pc, m &&& ~~~b)
             | none => none }

/-- The lanes of a context that have not exited, the entries held in memory given (R27). -/
def Ctx.lanes (c : Ctx) (mem : List Entry) : Mask :=
  (c.splits.foldl (fun m p => if p.st == .free then m else m ||| p.mask) 0) |||
    ((mem ++ c.stack).foldl (fun m e => m ||| e.deferredMask ||| e.arrived) 0)

/-- The lanes of a strand that wait at a barrier. -/
def Strand.atBarLanes (st : Strand) (b : BarWait) : Mask :=
  st.ctx.splits.foldl (fun m p => if p.st == .barrier && p.bar == some b then m ||| p.mask else m) 0

/-- Has the strand arrived at barrier `k` of its workgroup: exited, or every lane it has left waiting there (R39)? -/
def Strand.atBar (st : Strand) (b : BarWait) : Bool :=
  st.phase == .exited || (st.atBarLanes b != 0 && (st.atBarLanes b ||| st.exited) == BitVec.allOnes 256)

/-- Release the splits of a strand that wait at a barrier. -/
def Strand.releaseBar (st : Strand) (b : BarWait) : Strand :=
  st.onCtx fun c => { c with splits := c.splits.map fun p =>
    if p.st == .barrier && p.bar == some b then p.wakeBar else p }

/-- Change some strands. -/
def State.onStrands (s : State) (keys : List Nat) (f : Strand → Strand) : State :=
  keys.foldl (fun s k => s.onStrand k f) s

/-- Release barrier `k` of a workgroup if every strand of it has arrived and one waits there (R39). -/
def State.tryBar (s : State) (wg k : Nat) : State :=
  match s.wg? wg with
  | none => s
  | some w =>
    let at' (key : Nat) : Bool := match s.strand? key with | some st => st.atBar (.workgroup k) | none => true
    let waits (key : Nat) : Bool :=
      match s.strand? key with
      | some st => st.ctx.splits.any fun p => p.st == .barrier && p.bar == some (.workgroup k)
      | none => false
    if w.strands.all at' && w.strands.any waits then s.onStrands w.strands (·.releaseBar (.workgroup k)) else s

/-- Release every barrier of a workgroup that an exit has made complete (R39). -/
def State.tryBars (s : State) (wg : Nat) : State := (List.range 16).foldl (fun s k => s.tryBar wg k) s

/-- A partition's barrier k of a cluster (R14). -/
def cbarKey (part core k : Nat) : Nat := (part * 24 + clusterOf core) * 16 + k

/-- Count a strand whose lanes all wait at its cluster barrier `k`, and release the round when it is full (R233). -/
def State.cbarArrive (s : State) (key k : Nat) : State :=
  match s.strand? key with
  | none => s
  | some st =>
    let ck := cbarKey st.part (coreOf key) k
    let cb := mapGet CBar.reset s.cbars ck
    let b := BarWait.cluster k cb.round
    if st.phase != .exited && st.atBar b && !cb.arrived.contains key then
      let arr := cb.arrived ++ [key]
      if cb.need ≤ arr.length then
        { s.onStrands arr (·.releaseBar b) with
          cbars := mapPut CBar.reset s.cbars ck { need := 0, round := (cb.round + 1) % 65536, arrived := [] } }
      else { s with cbars := mapPut CBar.reset s.cbars ck { cb with arrived := arr } }
    else s

/-- The exit of lanes by the issuing split (R26, R178), the split's own state included; `pc` is the next address. The lanes
leave every entry of the stack, those held in memory too (assumption 106). -/
def State.exitLanes (s : State) (c : Ic) (b : Mask) (pc : VAddr) : State :=
  let ctx := c.st.ctx
  let left := c.sp.mask &&& ~~~b
  let sp := if left == 0 then Split.empty else { c.sp.advance pc with mask := left }
  let mem := s.spilled c.st.part ctx
  let s := s.settleWith c { ctx with splits := ctx.splits.set c.slot sp, stack := ctx.stack.map (Entry.drop · b) } mem
    (mem.map (Entry.drop · b)) none
  let s := s.onStrand c.key fun st =>
    let out := st.exited ||| (c.sp.mask &&& b)
    { st with exited := out, phase := if out == BitVec.allOnes 256 then .exited else st.phase,
              hold := if left == 0 && st.hold == some c.slot then none else st.hold }
  (List.range 16).foldl (fun s k => s.cbarArrive c.key k) (s.tryBars c.st.wg)

end Sys2Proof.Machine
end

