-- ==== Sys2Proof/Machine/Ctl.lean ====
section
/-! DEFINITION. Control flow (R176 to R178, R31 to R33): branches, divergence, reconvergence and exit. -/

namespace Sys2Proof.Machine

open Sys2Proof

/-- The target PC + 4 * offset, which does not wrap (R139, R176): one beyond 64 bits reads as their greatest value, and so does one
below 0 (assumption 140). -/
def target (pc : VAddr) (off : DWord) : DWord :=
  let t : Int := (pc.toNat : Int) + 4 * off.toInt
  if 0 ≤ t then .ofNat 64 (min t.toNat (2 ^ 64 - 1)) else .allOnes 64

/-- Does a target lie at or above 2^57 (R176)? -/
def farTarget (t : DWord) : Bool := decide (2 ^ 57 ≤ t.toNat)

/-- Transfer control to a literal target, an illegal use at or above 2^57 (R176, R403). -/
def Ic.branch (c : Ic) (s : State) (off : DWord) : Act :=
  let t := target c.sp.pc off
  if farTarget t then c.trapWhole 0x06 3 else .jump s (t.setWidth 57)

/-- Transfer control to an address in a scalar (R176, R391, R403). -/
def Ic.branchTo (c : Ic) (s : State) (a : DWord) : Act :=
  if farTarget a then c.trapWhole 0x06 2
  else if a.toNat % 4 ≠ 0 then c.trapWhole 0x05 2
  else .jump s (a.setWidth 57)

/-- Change the state of a taken branch. -/
def Act.onJump (a : Act) (f : State → State) : Act := match a with | .jump s pc => .jump (f s) pc | b => b

/-- Shared BRA. -/
def braOp (s : State) (len : Nat) (off : DWord) : Host.Outcome State Fault Refusal := issue s len fun c => c.branch s off

/-- Shared BRAQ (R176). -/
def braqOp (s : State) (len q : Nat) (neg : Bool) (off : DWord) : Host.Outcome State Fault Refusal :=
  issue s len fun c => if (c.regs.sp q != neg) then c.branch s off else .done s

/-- Shared EXIT: the lanes of act exit (R26, R178). -/
def exitOp (s : State) (len : Nat) (x : Opnds) : Host.Outcome State Fault Refusal :=
  issue s len fun c => c.deviceReadsAll s c.st.ctx.spillAddrs 128 fun s => .stay (s.exitLanes c (c.act x) (c.nextPc len))

def execBra (x : Opnds) (s : State) : Host.Outcome State Fault Refusal := braOp s x.len (x.lit.getD 0)
def execBraq (x : Opnds) (s : State) : Host.Outcome State Fault Refusal :=
  braqOp s x.len x.a.qnum (x.sel % 2 == 1) (x.lit.getD 0)
def execExit (x : Opnds) (s : State) : Host.Outcome State Fault Refusal := exitOp s x.len x

/-- BRD (R31, R177). -/
def execBrd (x : Opnds) (s : State) : Host.Outcome State Fault Refusal :=
  issueX s x fun c =>
    let ctx := c.st.ctx
    let lit := x.lit.getD 0
    let off (w : Word) : DWord := w.signExtend 64
    let tTarget := target c.sp.pc (off (lit.setWidth 32))
    let jTarget := target c.sp.pc (off ((lit >>> 32).setWidth 32))
    let m := c.sp.mask
    let p := c.regs.pred x.a.pnum
    let taken := m &&& (if x.sel % 2 = 1 then ~~~p else p)
    let fall := m &&& ~~~taken
    let next := c.nextPc x.len
    if 16 ≤ ctx.stack.length then c.trapWhole 0x08 0
    else if farTarget jTarget || (taken != 0 && farTarget tTarget) then c.trapWhole 0x06 3
    else
      let e : Entry := { joinPc := jTarget.setWidth 57, owner := c.slot, expected := m, arrived := 0, pending := 1,
                         deferred := none }
      let t := tTarget.setWidth 57
      let here (pc : VAddr) (mask : Mask) : Split := { c.sp.advance pc with mask := mask }
      if taken == 0 then .jump (s.putCtx c { ctx with stack := ctx.stack ++ [e] }) next
      else if fall == 0 then .jump (s.putCtx c { ctx with stack := ctx.stack ++ [e] }) t
      else
        match freeSplit ctx.splits with
        | some k =>
          let sps := (ctx.splits.set c.slot (here t taken)).set k (Split.empty.path next fall)
          .stay (s.putCtx c { ctx with splits := sps, stack := ctx.stack ++ [{ e with pending := 2 }] })
        | none =>
          let sps := ctx.splits.set c.slot (here t taken)
          .stay (s.putCtx c
            { ctx with splits := sps, stack := ctx.stack ++ [{ e with pending := 2, deferred := some (next, fall) }] })

/-- JOIN (R32, R400, R500). -/
def execJoin (x : Opnds) (s : State) : Host.Outcome State Fault Refusal :=
  issueX s x fun c =>
    let ctx := c.st.ctx
    match topCover ctx.stack c.sp.mask with
    | none => if spillCount ctx ≠ 0 then c.trapWhole 0x09 0 else c.trapWhole 0x06 0
    | some i =>
      match ctx.stack[i]? with
      | none => c.trapWhole 0x06 0
      | some e =>
        if e.joinPc ≠ c.sp.pc then c.trapWhole 0x06 0
        else
          let e := { e with arrived := e.arrived ||| c.sp.mask }
          match e.deferred with
          | some (pc, m) =>
            let sps := ctx.splits.set c.slot { c.sp.advance pc with mask := m }
            .stay (s.putCtx c { ctx with splits := sps, stack := ctx.stack.set i { e with deferred := none } })
          | none =>
            let sps := ctx.splits.set c.slot { c.sp.advance c.sp.pc with st := .joining }
            c.deviceReadsAll s ctx.spillAddrs 128 fun s => .stay (s.settleCtx c { ctx with splits := sps, stack := ctx.stack.set i e } (some c.slot))

/-- BRK (R33, R177, R400, R500). Every entry held in memory counts as covering where it chooses RECONV_REFILL or an illegal use
(DESIGN CHOICE, assumption 154). -/
def execBrk (x : Opnds) (s : State) : Host.Outcome State Fault Refusal :=
  issueX s x fun c =>
    let ctx := c.st.ctx
    let m := c.sp.mask
    let b := match x.a with | .p n => m &&& c.regs.pred n | _ => m
    if b == 0 then .done s
    else
      let n := x.sel % 16 + 1
      let cov := coverIdx ctx.stack m
      let t := target c.sp.pc (x.lit.getD 0)
      let rest := m &&& ~~~b
      let slot := if rest == 0 then none else freeSplit ctx.splits
      let outer := if cov.length ≤ n then none else cov[cov.length - n - 1]?
      let outerHeld := cov.length ≤ n && decide (n < cov.length + spillCount ctx)
      if cov.length < n then
        if cov.length + spillCount ctx < n then c.trapWhole 0x06 0 else c.trapWhole 0x09 0
      else if rest != 0 && slot.isNone && outerHeld then c.trapWhole 0x09 0
      else if farTarget t then c.trapWhole 0x06 3
      else c.deviceReadsAll s ctx.spillAddrs 128 fun s =>
        let top := cov.drop (cov.length - n)
        let stack := (List.range ctx.stack.length).map fun i =>
          let e := (ctx.stack[i]?).getD { joinPc := 0, owner := 0, expected := 0, arrived := 0, pending := 0, deferred := none }
          if top.contains i then e.drop b else e
        let t57 : VAddr := t.setWidth 57
        let next := c.nextPc x.len
        if rest == 0 then
          let sps := ctx.splits.set c.slot (c.sp.advance t57)
          .stay (s.settleCtx c { ctx with splits := sps, stack := stack } none)
        else
          let sps := ctx.splits.set c.slot { c.sp.advance next with mask := rest }
          match slot with
          | some k =>
            let sps := sps.set k (Split.empty.path t57 b)
            .stay (s.settleCtx c { ctx with splits := sps, stack := stack } none)
          | none =>
            match outer with
            | some i =>
              match stack[i]? with
              | some e =>
                if e.deferred.isSome then .wait s .splitWait
                else
                  .stay (s.settleCtx c { ctx with splits := sps, stack := stack.set i { e with deferred := some (t57, b) } } none)
              | none => .wait s .splitWait
            | none => .wait s .splitWait

/-- CALL (R176). -/
def execCall (x : Opnds) (s : State) : Host.Outcome State Fault Refusal :=
  issueX s x fun c =>
    if c.st.busy x.d true then .wait s .scoreboard
    else (c.branch s (x.lit.getD 0)).onJump fun t => t.putRegs c (c.regs.setS x.d.snum ((c.nextPc x.len).setWidth 64))

/-- RET (R176). -/
def execRet (x : Opnds) (s : State) : Host.Outcome State Fault Refusal :=
  issueX s x fun c => c.known s x [(x.a, true)] fun offs => c.branchTo s ((offs.getD 0 (.u 0)).at 0)

/-- JMPI (R176). -/
def execJmpi (x : Opnds) (s : State) : Host.Outcome State Fault Refusal :=
  issueX s x fun c => c.known s x [(x.a, true)] fun offs => c.branchTo s ((offs.getD 0 (.u 0)).at 0)

/-- CALLI (R176): the target is read before the return address is written. -/
def execCalli (x : Opnds) (s : State) : Host.Outcome State Fault Refusal :=
  issueX s x fun c => c.known s x [(x.a, true)] fun offs =>
    if c.st.busy x.d true then .wait s .scoreboard
    else (c.branchTo s ((offs.getD 0 (.u 0)).at 0)).onJump fun t =>
      t.putRegs c (c.regs.setS x.d.snum ((c.nextPc x.len).setWidth 64))

/-- LOOP (R178). -/
def execLoop (x : Opnds) (s : State) : Host.Outcome State Fault Refusal :=
  issueX s x fun c => c.known s x [(x.d, true)] fun offs =>
    let v := (offs.getD 0 (.u 0)).at 0 - 1
    let put (t : State) : State := t.putRegs c (c.regs.setS x.d.snum v)
    if v = 0 then .done (put s) else (c.branch s (x.lit.getD 0)).onJump put

end Sys2Proof.Machine
end

