-- ==== Sys2Proof/Machine/Syn.lean ====
section
/-! DEFINITION. SYN (R227 to R236): fences, waits, batches, barriers, sync words and memory counters; the delivery of
asynchronous faults at a wait (R377, R425). -/

namespace Sys2Proof.Machine

open Sys2Proof

/-! ## Waiting and delivery -/

/-- The operations of a class that keep its count from being met: all but the youngest n. -/
def Strand.blockers (st : Strand) (k : Ctr) (n : Nat) : List Op :=
  let l := st.ops.filter fun o => o.cls == k
  l.take (l.length - n)

/-- Trap at the delivery point with a fault whose decision has been applied (R377); TINFO tells where its group begins, once it has
been written (R370). -/
def State.deliverDue (s : State) (c : Ic) (d : Nat × Nat × Nat × Ctr) : State :=
  let at_ := c.st.dueAt.find? fun e => e.1 == d
  let s := s.onStrand c.key fun st => { st with due := st.due.erase d, dueAt := at_.elim st.dueAt fun e => st.dueAt.erase e }
  let t : Trap := { cls := d.1, sub := d.2.1, code := 0, lanes := c.sp.mask, restart := true, async := true,
                    oprec := .ofNat 16 d.2.2.1, rseq := at_.elim 0 fun e => e.2.toNat }
  s.takeTrap c.key c.slot t c.sp.pc c.sp.pc

/-- Go on once no listed operation is left: a due fault of the classes traps first, then a suspended operation parks
the split at this instruction (R377). -/
def Ic.waitOps (c : Ic) (s : State) (classes : List Ctr) (left : List Op) (why : Stall) (k : Act) : Act :=
  match c.st.due.find? fun d => classes.contains d.2.2.2 with
  | some d => .stay (s.deliverDue c d)
  | none =>
    if left.isEmpty then k
    else
      match left.find? fun o => o.parks with
      | some o => .stay (s.parkAsync c.key c.slot o)
      | none => .wait s why

/-- WAIT over the classes named with a count (R231). -/
def waitOp (s : State) (len : Nat) (counts : List (Ctr × Nat)) : Host.Outcome State Fault Refusal :=
  issue s len fun c =>
    c.waitOps s (counts.map (·.1)) (counts.flatMap fun e => c.st.blockers e.1 e.2) .counterWait (.done s)

/-- A named count of WAIT; 2047 names none (R229). -/
def waitCount (k : Ctr) (o : Opnd) : List (Ctr × Nat) := if o.rawNum = 2047 then [] else [(k, o.rawNum)]

/-- WAIT (R229, R231): the CT count lies in MODB[6:0], 127 for none. -/
def execWait (x : Opnds) (s : State) : Host.Outcome State Fault Refusal :=
  let ct := x.sel + 32 * x.cls
  waitOp s x.len (waitCount .ld x.d ++ waitCount .st x.a ++ waitCount .cp x.b ++ waitCount .mx x.c
    ++ (if ct = 127 then [] else [(.ct, ct)]))

/-- FENCE (R230, R425). -/
def execFence (x : Opnds) (s : State) : Host.Outcome State Fault Refusal :=
  issueX s x fun c => c.waitOps s [] (c.st.blockers .ld 0 ++ c.st.blockers .st 0) .counterWait (.done s)

/-- The closed batches not retired: the oldest go once none of their operations is left (R232). -/
def Strand.openBatches (st : Strand) : List Half :=
  st.closed.dropWhile fun b => !st.ops.any fun o => o.batch == some b

/-- BATCH (R232). -/
def execBatch (x : Opnds) (s : State) : Host.Outcome State Fault Refusal :=
  issueX s x fun c =>
    let closed := c.st.openBatches
    if c.st.busy x.d true then .wait s .scoreboard
    else if 16 ≤ closed.length then .wait s .batchWait
    else
      let n := c.st.batch
      let s := s.onStrand c.key fun st =>
        { st with batch := n + 1, closed := closed ++ [n],
                  ops := st.ops.map fun o => if o.cls == .mx && o.batch.isNone then { o with batch := some n } else o }
      .done (s.putRegs c (c.regs.setS x.d.snum (n.setWidth 64)))

/-- Does WAITB n' select batch b (R232)? -/
def batchSelected (n b : Half) : Bool := decide ((n - b).toNat < 2 ^ 15)

/-- WAITB (R232). -/
def execWaitb (x : Opnds) (s : State) : Host.Outcome State Fault Refusal :=
  issueX s x fun c => c.known s x [(x.a, true)] fun offs =>
    let n : Half := ((offs.getD 0 (.u 0)).at 0).setWidth 16
    let sel := c.st.openBatches.filter (batchSelected n)
    let left := c.st.ops.filter fun o => match o.batch with | some b => sel.contains b | none => false
    c.waitOps s [.mx] left .batchWait (.done s)

/-! ## Barriers -/

/-- Put the issuing split in state Barrier past its instruction (R27, R39). -/
def State.toBarrier (s : State) (c : Ic) (len : Nat) (b : BarWait) : State :=
  s.onStrand c.key fun st => st.onSplit c.slot fun sp =>
    { sp.advance (c.nextPc len) with st := .barrier, bar := some b, stall := .barrier, priv := sp.st == .trapped }

/-- A barrier waits for the strand's loads and stores to retire (R233). -/
def Ic.drained (c : Ic) : Bool := c.st.count .ld == 0 && c.st.count .st == 0

/-- BAR (R39, R233). -/
def execBar (x : Opnds) (s : State) : Host.Outcome State Fault Refusal :=
  issueX s x fun c => c.known s x [(x.a, true)] fun offs =>
    let k := ((offs.getD 0 (.u 0)).at 0).toNat
    if 15 < k then c.trapWhole 0x06 2
    else if !c.drained then .wait s .barrier
    else .stay ((s.toBarrier c x.len (.workgroup k)).tryBar c.st.wg k)

/-- CBAR (R233, R405). -/
def execCbar (x : Opnds) (s : State) : Host.Outcome State Fault Refusal :=
  issueX s x fun c => c.known s x [(x.a, true), (x.b, true)] fun offs =>
    let k := ((offs.getD 0 (.u 0)).at 0).toNat
    let b := ((offs.getD 1 (.u 0)).at 0).toNat
    let ck := cbarKey c.st.part (coreOf c.key) k
    let cb := mapGet CBar.reset s.cbars ck
    if 15 < k then c.trapWhole 0x06 2
    else if b = 0 ∨ 1024 < b ∨ (cb.need ≠ 0 ∧ cb.need ≠ b) then c.trapWhole 0x06 3
    else if !c.drained then .wait s .barrier
    else
      let s := { s with cbars := mapPut CBar.reset s.cbars ck { cb with need := b } }
      .stay ((s.toBarrier c x.len (.cluster k cb.round)).cbarArrive c.key k)

/-! ## Sync words and counters -/

/-- The space of a sync-word operand (R229). -/
def msSpace (x : Opnds) : Space := match x.xs with | 1 => .spad | 2 => .vault | _ => .global

/-- The lane and address of a sync-word operand, with its checks (R229, R404, R405). -/
def Ic.msAddr (c : Ic) (s : State) (x : Opnds) (ka kb : Off) : List LaneAddr × Option Act :=
  let ls := laneAddrs (msSpace x) c.regs x.a x.b ka kb [lowLane c.sp.mask]
  (ls, (c.checkAddrs s (msSpace x) x.a 8 ls).map fun a => a.whole c)

/-- Issue an update of a sync word or counter: a release store of the strand (R228, R234, R235). The two operands are
captured at issue. -/
def msUpdate (s : State) (x : Opnds) (ops : List Opnd) (u : DWord → DWord → SyncUpd) : Host.Outcome State Fault Refusal :=
  issueX s x fun c =>
    c.known s x ([(x.a, addrWide x.a), (x.b, addrWide x.b)] ++ ops.map fun o => (o, true)) fun offs =>
      let (fresh, check) := c.msAddr s x (offs.getD 0 (.u 0)) (offs.getD 1 (.u 0))
      let data := c.memData ((offs.drop 2).map fun o => o.at 0)
      c.firstIssue check <|
        c.memIssue s
          { space := msSpace x, a := x.a, acc := .write, bytes := 8, reads := true, cls := .st, whole := true
            lanes := c.memLanes true fresh, data := data, judge := fun r => r.plain 8
            ranges := fun ok => plainRanges ok 8 true
            perform := fun s ok =>
              match ok with
              | [] => s
              | e :: _ => s.addOp c.key
                  (c.newOp .st (.sync e.2.2.place e.2.2.pa (u (data.getD 0 0) (data.getD 1 0))) 2 (reachScope ok x.scope)) }

/-- Read a word as its instruction issues; one of another device's memory comes by the fabric (R319), and the split waits. -/
def Ic.peek (c : Ic) (s : State) (p : Place) (a n : Nat) (k : State → Nat → Act) : Act :=
  let f : FarKey := .issue c.key c.slot
  let (v, t) := { s with far := { s.far with cur := some f } }.rd p a n
  match t.far.asked with
  | [] => k { t with far := { (t.far.used f) with cur := none } } v
  | l => .wait (if s.far.waits f then s else l.foldl (fun s r => s.farSend c.st.part (some f) r) s) .fabric

/-- Read a sync word or counter at issue, as an acquire (R229, R235): it follows the strand's accesses that R130 and
R132 keep before it. -/
def msRead (s : State) (x : Opnds) (ops : List Opnd) (k : Ic → State → DWord → List DWord → Act) :
    Host.Outcome State Fault Refusal :=
  issueX s x fun c =>
    c.known s x ([(x.a, addrWide x.a), (x.b, addrWide x.b)] ++ ops.map fun o => (o, true)) fun offs =>
      let (fresh, check) := c.msAddr s x (offs.getD 0 (.u 0)) (offs.getD 1 (.u 0))
      c.firstIssue check <|
        if c.st.busy x.d true then .wait s .scoreboard
        else
          let lanes := c.memLanes true fresh
          let r := sortLanes lanes (fun v => [v]) fun v => (c.trLane s (msSpace x) x.a .read v).plain 8
          if !r.miss.isEmpty then .wait (s.askWalks (coreOf c.key) r.miss) .scoreboard
          else
            match r.ok with
            | [] =>
              let redo : Redo := { lanes := c.sp.mask, addrs := lanes256.map fun l => mapGet 0 lanes l, data := [], data2 := [] }
              .stay (s.parkFail c c.sp.mask redo
                ((s.failRecs c 0x01 (fun w => w.sub) r.fail).map fun q => { q with mask := c.sp.mask }))
            | e :: _ =>
              let scope := reachScope r.ok x.scope
              c.sectorRoom s (plainRanges r.ok 8 false) <| c.follows s (c.newOp .ld (.load (accsOf r.ok) .b64 .none) 1 scope) .scoreboard <|
                let (s1, lost, sub, out) := s.eccScan c.st.part 8 (accsOf r.ok)
                if !lost.isEmpty then .stay (s1.parkLoss c c.sp.mask sub out 2)
                else
                  c.peek s1 e.2.2.place e.2.2.pa 8 fun s2 v =>
                    (k c s2 (.ofNat 64 v) ((offs.drop 2).map fun o => o.at 0)).acquired c scope

/-- SYARM (R234). -/
def execSyarm (x : Opnds) (s : State) : Host.Outcome State Fault Refusal :=
  msUpdate s x [x.d, x.c] fun d e => .arm (d.setWidth 32) (e.setWidth 8)
/-- SYARV (R228, R229). -/
def execSyarv (x : Opnds) (s : State) : Host.Outcome State Fault Refusal :=
  msUpdate s x [x.d, x.c] fun d f => .arrive (d.setWidth 32) (f.setWidth 16)
/-- SYFLG (R229). -/
def execSyflg (x : Opnds) (s : State) : Host.Outcome State Fault Refusal :=
  msUpdate s x [x.d] fun d _ => .arrive 0 (d.setWidth 16)
/-- SIGNAL (R235). -/
def execSignal (x : Opnds) (s : State) : Host.Outcome State Fault Refusal := msUpdate s x [x.d] fun d _ => .add d

/-- SYTST (R229). -/
def execSytst (x : Opnds) (s : State) : Host.Outcome State Fault Refusal :=
  msRead s x [] fun c s w _ => .done (s.putRegs c (c.regs.setS x.d.snum w))
/-- SYWAIT (R234). -/
def execSywait (x : Opnds) (s : State) : Host.Outcome State Fault Refusal :=
  msRead s x [x.c] fun c s w vs =>
    if syncPasses w ((vs.getD 0 0).toNat % 256) then .done (s.putRegs c (c.regs.setS x.d.snum w)) else .wait s .syncWord
/-- WAITC (R235). -/
def execWaitc (x : Opnds) (s : State) : Host.Outcome State Fault Refusal :=
  msRead s x [x.c] fun c s w vs =>
    if 0 ≤ (w - vs.getD 0 0).toInt then .done (s.putRegs c (c.regs.setS x.d.snum w)) else .wait s .syncWord

end Sys2Proof.Machine
end

