-- ==== Sys2Proof/Machine/Base.lean ====
section
/-! DEFINITION. The base forms (R143, R144): each has the effect of its extended equivalent, unpredicated, in one word,
or in three with a literal. -/

namespace Sys2Proof.Machine

open Sys2Proof

/-- The fields of a base form's extended equivalent (R143): RND 000, no predicate, SAT, MODA and MODB zero. -/
def baseX (t : Ty) (d a b : Opnd) (lit : Option DWord) : Opnds :=
  { ty := some t, rnd := .dflt, sat := false, pred := none, cache := 0, g := false, late := false, ord := 0, scope := 0,
    xs := 0, cls := 0, sel := 0, d := d, a := a, b := b, c := .zero, lit := lit }

/-- A sign-extended imm8 (R143). -/
def imm64 (i : BitVec 8) : DWord := i.signExtend 64

/-- A count of eight bits. -/
def cnt64 (n : Nat) : DWord := .ofNat 64 n

/-- Three scalars. -/
def baseSSS (t : Ty) (d a b : Nat) : Opnds := baseX t (.s d) (.s a) (.s b) none
/-- Three vectors. -/
def baseVVV (t : Ty) (d a b : Nat) : Opnds := baseX t (.v d) (.v a) (.v b) none

/-- NOP: fields ignored. -/
def execNopBase (_ _ _ : Nat) (s : State) : Host.Outcome State Fault Refusal := issue s 1 fun _ => .done s
def execSaddBase (d a b : Nat) (s : State) : Host.Outcome State Fault Refusal := saddOp s 1 (baseSSS .i64 d a b) .i64
def execSaddImmBase (d a : Nat) (imm : BitVec 8) (s : State) : Host.Outcome State Fault Refusal :=
  saddOp s 1 (baseX .i64 (.s d) (.s a) .lit (some (imm64 imm))) .i64
def execSaddLit (d a : Nat) (lit : DWord) (s : State) : Host.Outcome State Fault Refusal :=
  saddOp s 3 (baseX .i64 (.s d) (.s a) .lit (some lit)) .i64
def execSsubBase (d a b : Nat) (s : State) : Host.Outcome State Fault Refusal :=
  sint2 s 1 (baseSSS .i64 d a b) .i64 (· - ·)
def execSmulBase (d a b : Nat) (s : State) : Host.Outcome State Fault Refusal := smulOp s 1 (baseSSS .i64 d a b) .i64
def execSandBase (d a b : Nat) (s : State) : Host.Outcome State Fault Refusal :=
  sint2 s 1 (baseSSS .b64 d a b) .b64 (bitOp (· &&& ·))
def execSorBase (d a b : Nat) (s : State) : Host.Outcome State Fault Refusal :=
  sint2 s 1 (baseSSS .b64 d a b) .b64 (bitOp (· ||| ·))
def execSxorBase (d a b : Nat) (s : State) : Host.Outcome State Fault Refusal :=
  sint2 s 1 (baseSSS .b64 d a b) .b64 (bitOp (· ^^^ ·))
def execSshlBase (d a n : Nat) (s : State) : Host.Outcome State Fault Refusal :=
  sshiftOp s 1 (baseX .b64 (.s d) (.s a) .lit (some (cnt64 n))) .b64 ishl
def execSshrBase (d a n : Nat) (s : State) : Host.Outcome State Fault Refusal :=
  sshiftOp s 1 (baseX .b64 (.s d) (.s a) .lit (some (cnt64 n))) .b64 ishr
def execSmovBase (d a : Nat) (s : State) : Host.Outcome State Fault Refusal :=
  smovOp s 1 (baseX .b64 (.s d) (.s a) .zero none) .b64
def execSmovImmBase (d : Nat) (imm : BitVec 8) (s : State) : Host.Outcome State Fault Refusal :=
  smovOp s 1 (baseX .i64 (.s d) .lit .zero (some (imm64 imm))) .i64
def execSmovLit (d : Nat) (lit : DWord) (s : State) : Host.Outcome State Fault Refusal :=
  smovOp s 3 (baseX .i64 (.s d) .lit .zero (some lit)) .i64
/-- SEL of lt (R152). -/
def execQsetLtBase (d a b : Nat) (s : State) : Host.Outcome State Fault Refusal :=
  qsetOp s 1 (baseX .i64 (.q d) (.s a) (.s b) none) .i64 2
/-- SEL of eq (R152). -/
def execQsetEqBase (d a b : Nat) (s : State) : Host.Outcome State Fault Refusal :=
  qsetOp s 1 (baseX .i64 (.q d) (.s a) (.s b) none) .i64 0
def execBraBase (off : BitVec 24) (s : State) : Host.Outcome State Fault Refusal := braOp s 1 (off.signExtend 64)
def execBraqBase (q : Nat) (neg : Bool) (off : BitVec 16) (s : State) : Host.Outcome State Fault Refusal :=
  braqOp s 1 q neg (off.signExtend 64)
def execVaddBase (d a b : Nat) (s : State) : Host.Outcome State Fault Refusal := vaddOp s 1 (baseVVV .i32 d a b) .i32
def execVsubBase (d a b : Nat) (s : State) : Host.Outcome State Fault Refusal := vsubOp s 1 (baseVVV .i32 d a b) .i32
def execVmulBase (d a b : Nat) (s : State) : Host.Outcome State Fault Refusal := vmulOp s 1 (baseVVV .i32 d a b) .i32
def execVandBase (d a b : Nat) (s : State) : Host.Outcome State Fault Refusal :=
  vint2 s 1 (baseVVV .b32 d a b) .b32 (bitOp (· &&& ·))
def execVorBase (d a b : Nat) (s : State) : Host.Outcome State Fault Refusal :=
  vint2 s 1 (baseVVV .b32 d a b) .b32 (bitOp (· ||| ·))
def execVxorBase (d a b : Nat) (s : State) : Host.Outcome State Fault Refusal :=
  vint2 s 1 (baseVVV .b32 d a b) .b32 (bitOp (· ^^^ ·))
def execVshlBase (d a n : Nat) (s : State) : Host.Outcome State Fault Refusal :=
  vshlOp s 1 (baseX .b32 (.v d) (.v a) .lit (some (cnt64 n))) .b32
def execVshrBase (d a n : Nat) (s : State) : Host.Outcome State Fault Refusal :=
  vshrOp s 1 (baseX .b32 (.v d) (.v a) .lit (some (cnt64 n))) .b32
def execVaddImmBase (d a : Nat) (imm : BitVec 8) (s : State) : Host.Outcome State Fault Refusal :=
  vaddOp s 1 (baseX .i32 (.v d) (.v a) .lit (some (imm64 imm))) .i32
def execVaddLit (d a : Nat) (lit : DWord) (s : State) : Host.Outcome State Fault Refusal :=
  vaddOp s 3 (baseX .i32 (.v d) (.v a) .lit (some lit)) .i32
def execVmovBase (d a : Nat) (s : State) : Host.Outcome State Fault Refusal :=
  vmovOp s 1 (baseX .b32 (.v d) (.v a) .zero none) .b32
def execVmovScalarBase (d a : Nat) (s : State) : Host.Outcome State Fault Refusal :=
  vmovOp s 1 (baseX .b32 (.v d) (.s a) .zero none) .b32
def execVlaneBase (d : Nat) (s : State) : Host.Outcome State Fault Refusal :=
  vlaneOp s 1 (baseX .n32 (.v d) .zero .zero none)
def execFaddBase (d a b : Nat) (s : State) : Host.Outcome State Fault Refusal := faddOp s 1 (baseVVV .f32 d a b) .f32
def execFsubBase (d a b : Nat) (s : State) : Host.Outcome State Fault Refusal := fsubOp s 1 (baseVVV .f32 d a b) .f32
def execFmulBase (d a b : Nat) (s : State) : Host.Outcome State Fault Refusal := fmulOp s 1 (baseVVV .f32 d a b) .f32
/-- C = D (R143). -/
def execFfmaBase (d a b : Nat) (s : State) : Host.Outcome State Fault Refusal :=
  ffmaOp s 1 { baseVVV .f32 d a b with c := .v d } .f32
def execFminBase (d a b : Nat) (s : State) : Host.Outcome State Fault Refusal :=
  fminmaxOp s 1 (baseVVV .f32 d a b) .f32 false false
def execFmaxBase (d a b : Nat) (s : State) : Host.Outcome State Fault Refusal :=
  fminmaxOp s 1 (baseVVV .f32 d a b) .f32 true false
def execFrcpBase (d a : Nat) (s : State) : Host.Outcome State Fault Refusal :=
  ffunOp s 1 (baseX .f32 (.v d) (.v a) .zero none) .f32 Fv.rcp
def execLdBase (d a b : Nat) (s : State) : Host.Outcome State Fault Refusal :=
  ldOp s 1 (baseX .b32 (.v d) (.t a) (.v b) none) .global
def execStBase (d a b : Nat) (s : State) : Host.Outcome State Fault Refusal :=
  stOp s 1 (baseX .b32 (.v d) (.t a) (.v b) none) .global
/-- Byte offset 4 · imm8 (R143). -/
def execLdsBase (d a : Nat) (imm : BitVec 8) (s : State) : Host.Outcome State Fault Refusal :=
  ldOp s 1 (baseX .b32 (.v d) (.v a) .lit (some (imm64 imm * 4))) .spad
def execWaitBase (ld st : Nat) (s : State) : Host.Outcome State Fault Refusal := waitOp s 1 [(.ld, ld), (.st, st)]
def execExitBase (s : State) : Host.Outcome State Fault Refusal := exitOp s 1 (baseX .b32 .zero .zero .zero none)

end Sys2Proof.Machine
end

