-- ==== Sys2Proof/Machine/Landing.lean ====
section
/-! DEFINITION. How values reach registers: a load's destination (R91, R213), the resolution of a symbol (R102), elements of
formatted pages as they are read (R115, R116, R216), and what a lost remote access leaves (R420, R464). -/

namespace Sys2Proof.Machine

open Sys2Proof

/-- A loaded value extended for its register (R213). -/
def extendTy (t : Ty) (x : Nat) : DWord := .ofInt 64 (intVal t (.ofNat 64 x))

/-- Values by lane. -/
abbrev LaneVals := List (Nat × DWord)

/-- Write a load's values into its destination; lanes without one keep theirs (R91, R213). -/
def Regs.land (r : Regs) (d : Dst) (vals : LaneVals) : Regs :=
  match d with
  | .none => r
  | .s n => r.setS n ((vals.head?.map (·.2)).getD 0)
  | .v n wide =>
    let old := match r.readV n wide with | .known o => o | .pend _ => .u 0
    r.writeV n wide (.g (lanes256.map fun l => match mapFind vals l with | some v => v | none => old.at l))

/-- Change the registers that an operation writes: the strand's own and, for one issued before the handler was entered,
those of the context at entry (R442). -/
def Strand.landRegs (st : Strand) (op : Nat) (f : Ctx → Ctx) : Strand :=
  { st with ctx := f st.ctx
            atEntry := st.atEntry.map fun e => if op < e.opNext then { e with ctx := f e.ctx } else e }

/-- A context with its registers changed and flags raised (R70). -/
def Ctx.landed (fl : Half) (f : Regs → Regs) (c : Ctx) : Ctx := { c with regs := f c.regs, mode := orMode c.mode fl }

/-- Resolve every register that holds a symbol: the values of `x` by lane. -/
def Regs.resolve (r : Regs) (num : Nat) (x : Nat → DWord) : Regs × Half :=
  let (r, fl) := r.v.foldl (fun (acc : Regs × Half) e =>
    match e.2.shape with
    | .p _ f =>
      if f.sym = num ∧ e.2.pairHi = false then
        let vs := lanes256.map fun l => f.resolve l (x l)
        (acc.1.writeV e.1 f.wide (.g (vs.map (·.1))), acc.2 ||| vs.foldl (fun (a : Half) v => a ||| v.2) 0)
      else acc
    | _ => acc) (r, 0)
  r.s.foldl (fun (acc : Regs × Half) e =>
    match e.2 with
    | .pend f => if f.sym = num then let v := f.resolve 0 (x 0); (acc.1.setS e.1 v.1, acc.2 ||| v.2) else acc
    | .val _ => acc) (r.freeSym num, fl)

/-- The unknown of a symbol by lane: the data where the load acted, elsewhere the values held before it (R98). -/
def Sym.value (y : Sym) (d : Dst) (vals : LaneVals) (l : Nat) : DWord :=
  match d with
  | .s _ => (vals.head?.map (·.2)).getD 0
  | _ => if laneIn y.mask l then mapGet 0 vals l else y.old.getD l 0

/-- A strand whose symbol resolves with values by lane (R102), or whose values join those of the symbol that carries the
destination (R239). -/
def Strand.settleSym (st : Strand) (op : Nat) (y : Sym) (d : Dst) (vals : LaneVals) (fl : Half) : Strand :=
  let x := y.value d vals
  match y.lead with
  | some n =>
    { st with syms := (st.syms.filter fun z => z.num != y.num).map fun z =>
        if z.num = n then { z with old := lanes256.map fun l => if laneIn y.mask l then x l else z.old.getD l 0 } else z }
  | none =>
    let f (c : Ctx) : Ctx := let (r, g) := c.regs.resolve y.num x; { c with regs := r, mode := orMode c.mode (fl ||| g) }
    { st.landRegs op f with syms := st.syms.filter fun z => z.num != y.num }

/-- The slots that a load's destination stands in. -/
def Regs.dstSlots (r : Regs) (d : Dst) : List Nat :=
  let of (n : Nat) : List Nat := match (r.vreg n).shape with | .g k _ => [k] | .p k _ => [k] | _ => []
  match d with
  | .v n wide => of n ++ if wide then of (n + 1) else []
  | _ => []

/-- The loss pattern in a destination lane of a type (R420). -/
def lossWord (t : Ty) : DWord := if 32 < t.width then 0xAAAAAAAAAAAAAAAA else 0xAAAAAAAA

/-! ## Formatted pages -/

/-- The element format of a page (R115). -/
def pageTy (fmt : Nat) : Ty := if fmt = 1 then .e2m1 else if fmt = 2 then .e4m3 else .e5m2

/-- The code of element i from its byte (R115). -/
def elemCode (fmt i byte : Nat) : Nat := if fmt = 1 then byte / 2 ^ (4 * (i % 2)) % 16 else byte

/-- The exact value of an element from its code, block scale and band scale (R116), with the flags of a product that has
none. -/
def elemVal (fmt code scale band : Nat) : Fv × Half :=
  if fmt = 1 then
    let a := Fv.mul ((fmtOf .e2m1).val code) (e3m5Val scale)
    let b := Fv.mul a.1 ((fmtOf .bf16).val band)
    (b.1, a.2 ||| b.2)
  else Fv.mul ((fmtOf (pageTy fmt)).val code) (e8m0Val scale)

/-- Read the codes of an element of a frame: its own, its block scale and its band scale. -/
def State.rdCodes (s : State) (p : Place) (frame fmt geom i : Nat) : (Nat × Nat × Nat) × State :=
  let (b, s) := s.rd p (frame + (if fmt = 1 then i / 2 else i)) 1
  let (k, s) := s.rd p (frame + scaleAt fmt i) 1
  let (n, s) := if fmt = 1 then s.rd p (frame + bandAt geom i) 2 else (0, s)
  ((elemCode fmt i b, k, n), s)

/-- Read an element of a frame. -/
def State.rdElem (s : State) (p : Place) (frame fmt geom i : Nat) : (Fv × Half) × State :=
  let (x, s) := s.rdCodes p frame fmt geom i
  (elemVal fmt x.1 x.2.1 x.2.2, s)

/-- LDF's values: each element rounded into the destination's format (R216), with the flags. -/
def State.rdElems (s : State) (els : List Elem) (t : Ty) (e : FpEnv) : LaneVals × Half × State :=
  els.foldl (fun (acc : LaneVals × Half × State) x =>
    let (v, s) := acc.2.2.rdElem x.place x.frame x.fmt x.geom x.off
    let r := e.fin (fmtOf t) x.lane v
    (acc.1 ++ [(x.lane, .ofNat 64 r.1)], acc.2.1 ||| r.2, s)) ([], 0, s)

/-- The 64-bit values of LDT's lanes from their four elements each (R214). -/
def tileLanes (accs : List Acc) (vs : LaneVals) : LaneVals :=
  (accs.map fun a => a.lane).eraseDups.map fun l =>
    let es := (vs.filter fun e => e.1 == l).map fun e => e.2.toNat % 65536
    (l, .ofNat 64 (es.getD 0 0 + es.getD 1 0 * 2 ^ 16 + es.getD 2 0 * 2 ^ 32 + es.getD 3 0 * 2 ^ 48))

/-- The values that the bytes of a load's lanes hold now. -/
def State.rdPlain (s : State) (accs : List Acc) (t : Ty) : LaneVals :=
  accs.map fun a => (a.lane, extendTy t (s.rd a.place a.pa t.bytes).1)

/-- Values of a load's lanes with the loss pattern in those that read another device's memory, or the host's through one. -/
def State.lanesLost (s : State) (at_ : List (Nat × Place × Nat)) (t : Ty) (vals : LaneVals) : LaneVals :=
  vals.map fun v => (v.1, if at_.any fun a => a.1 == v.1 && (s.redirect a.2.1 a.2.2).1 == .peer then lossWord t else v.2)

/-! ## Loss (R464) -/

/-- What the destination lanes of a lost access get: the data that came, else the loss pattern (R464); an atomic that a lost device
shared has performed in no lane here. -/
def State.lostVals (s : State) (b : OpBody) : LaneVals :=
  match b with
  | .remote r =>
    (match r.kind with
      | .load | .atomic _ => r.lanes.map fun l => (l.1, (mapFind r.got l.1).getD (lossWord r.ty))
      | _ => [])
  | .load accs t _ => s.lanesLost (accs.map fun a => (a.lane, a.place, a.pa)) t (s.rdPlain accs t)
  | .loadT accs _ => s.lanesLost (accs.map fun a => (a.lane, a.place, a.pa)) .b64 (tileLanes accs (s.rdPlain accs .n16))
  | .loadF els t rnd fz seed _ =>
    s.lanesLost (els.map fun e => (e.lane, e.place, e.frame)) t (s.rdElems els t { mode := rnd, fz := fz, sat := false, seed := seed }).1
  | .atomic accs _ t _ _ false _ => accs.map fun a => (a.lane, lossWord t)
  | _ => []

/-- Give a lost access its values, in its registers or where its symbol resolves (R464). -/
def State.loseOp (s : State) (key op : Nat) : State :=
  match (s.strand? key).bind fun st => (st.op? op).map fun o => (st, o) with
  | none => s
  | some (st, o) =>
    let vals := s.lostVals o.body
    if vals.isEmpty then s
    else
      match o.sym.bind fun n => st.syms.find? fun y => y.num == n with
      | some y => s.onStrand key fun st => st.settleSym op y o.body.dst (o.held ++ vals) o.flags
      | none => s.onStrand key fun st => st.landRegs op (Ctx.landed 0 fun r => r.land o.body.dst vals)

end Sys2Proof.Machine
end

