-- ==== Sys2Proof/Machine/Clasp.lean ====
section
/-! DEFINITION. Reduction domains (R74 to R84): descriptors, arming and closing, nodes and the core clasps (R123); the
home slice of a line (R120) and the records of class DOMAIN (R427). -/

namespace Sys2Proof.Machine

open Sys2Proof

/-- The home slice of a physical address (R120). -/
def homeSlice (pa : Nat) : Nat :=
  let x := pa / 128
  let t := (x ^^^ (x / 2 ^ 17) ^^^ (x / 2 ^ 34)) % 2 ^ 32
  t * 0x9E3779B1 % 2 ^ 32 / 256 % 96

/-- Bytes of an accumulator format (R80). -/
def accBytes (t : Ty) : Nat := t.width / 8

/-- An accumulator format code, if R80 allows it. -/
def accFormat (c : Nat) : Option Ty :=
  match c with
  | 0x08 => some .f32 | 0x09 => some .f64 | 0x0A => some .f16 | 0x0B => some .bf16
  | 0x00 => some .i32 | 0x01 => some .n32 | 0x02 => some .i64 | 0x03 => some .n64
  | _ => none

/-- Levels of a tree of L leaves (R74). -/
def treeDepth (l : Nat) : Nat := if l ≤ 1 then 0 else (l - 1).log2 + 1

/-- Handle fields (R79). -/
def handleSlot (h : Word) : Nat := h.toNat % 2 ^ 20
/-- GENERATION of a handle (R79). -/
def handleGen (h : Word) : Nat := h.toNat / 2 ^ 20
/-- A handle from slot and generation (R79). -/
def mkHandle (slot gen : Nat) : Word := .ofNat 32 (slot % 2 ^ 20 + gen % 4096 * 2 ^ 20)

/-- Address of a domain descriptor (R79). -/
def State.domAddr (s : State) (part slot : Nat) : Nat := (s.part part).vbase 7 + 64 * slot

/-- GEN and STATE of a slot, as the descriptor in memory holds them (R80). -/
def State.domGenState (s : State) (part slot : Nat) : Nat × Nat :=
  let v := s.vread part (s.domAddr part slot + 58) 2
  (v % 4096, v / 4096 % 4)

/-- Write GEN and STATE (R80). -/
def State.setDomGenState (s : State) (part slot gen st : Nat) : State :=
  s.vwrite part (s.domAddr part slot + 58) 2 (gen % 4096 + st * 4096)

/-- The generation a handle names, if the device holds its frozen copy (R81). -/
def State.dom? (s : State) (part : Nat) (h : Word) : Option Dom :=
  s.doms.find? fun d => d.part == part && d.slot == handleSlot h && d.gen == handleGen h

/-- Replace a generation's record. -/
def State.setDom (s : State) (x : Dom) : State :=
  { s with doms := s.doms.map fun d => if d.part == x.part && d.slot == x.slot && d.gen == x.gen then x else d }

/-- Every element has its final write (R84). -/
def Dom.complete (d : Dom) : Bool := decide (d.elems ≤ d.written.length)

/-- The generation a handle names is Open (R81, R401). -/
def State.openDom? (s : State) (part : Nat) (h : Word) : Option Dom :=
  match s.dom? part h with
  | some d => if d.complete then none else some d
  | none => none

/-- Handle of a generation. -/
def Dom.handle (d : Dom) : Word := mkHandle d.slot d.gen
/-- Node format of a domain (R75). -/
def Dom.nf (d : Dom) : NodeFmt := nodeFmtOf d.fmt
/-- Depth of a domain's trees (R74). -/
def Dom.depth (d : Dom) : Nat := treeDepth d.leaves
/-- Is a label valid (R77)? -/
def Dom.labelOk (d : Dom) (level index : Nat) : Bool := decide (level ≤ 40) && decide (index * 2 ^ level < d.leaves)
/-- Is a node implicitly absent (R76)? -/
def Dom.absentAt (d : Dom) (level index : Nat) : Bool := decide (d.leaves ≤ index * 2 ^ level)
/-- Virtual address of an element's accumulator (R80). -/
def Dom.accAddr (d : Dom) (e : Nat) : Nat := d.base.toNat + e * accBytes d.fmt

/-- Home slice of an element: that of its accumulator's line; where the address does not translate the virtual address stands in
(DESIGN CHOICE, assumption 145). -/
def State.elemSlice (s : State) (d : Dom) (e : Nat) : Nat :=
  match s.trDev d.part .read (d.accAddr e) with
  | some t => homeSlice t.pa
  | none => homeSlice (d.accAddr e)

/-- The label of a node as 64 bits (R77). -/
def Node.label (n : Node) : DWord := .ofNat 64 (n.level * 2 ^ 58 + n.index)
/-- Does a node belong to a generation? -/
def Node.of (n : Node) (d : Dom) : Bool := n.part == d.part && n.handle == d.handle
/-- Same key (R77). -/
def Node.sameKey (a b : Node) : Bool :=
  a.part == b.part && a.handle == b.handle && a.elem == b.elem && a.level == b.level && a.index == b.index
/-- Is a node with the key of another one sent again by flow recovery (R460)? -/
def Node.again (a b : Node) : Bool := a.dev.isSome && a.dev == b.dev && a.sameKey b
/-- Are two nodes siblings (R77)? -/
def Node.sibling (a b : Node) : Bool :=
  a.part == b.part && a.handle == b.handle && a.elem == b.elem && a.level == b.level && a.index == (b.index ^^^ 1)

/-- The parent two siblings form (R75, R77). -/
def Node.join (d : Dom) (a b : Node) : Node :=
  let r := combine d.nf (a.val, a.flags) (b.val, b.flags)
  { a with level := a.level + 1, index := a.index / 2, val := r.1, flags := r.2, src := none, dev := none, core := none }

/-- A node promoted past an implicitly absent sibling (R76). -/
def Node.promote (a : Node) : Node := { a with level := a.level + 1, index := a.index / 2 }

/-! ## Credit to contributing operations -/

/-- A node of an operation has been accepted, or discarded by a close (R223, R430): the operation completes with its
last node. -/
def State.credit (s : State) (src : Option (Nat × Nat)) : State :=
  match src with
  | none => s
  | some (key, op) =>
    s.onStrand key fun st =>
      match st.op? op with
      | some o =>
        (match o.body with
          | .contribute (n + 1) =>
            let st := st.onOp op fun o => { o with body := .contribute n }
            if n = 0 then st.complete op else st
          | .mx .. => st
          | _ => st)
      | none => st

/-! ## The core clasp (R123) -/

/-- Send a node on to its element's home slice. -/
def State.toHome (s : State) (d : Dom) (n : Node) : State := { s with toSlice := s.toSlice ++ [(s.elemSlice d n.elem, n)] }

/-- A core clasp sends a held node on to its home slice; one whose generation is over has none, and is gone (R225). -/
def State.forward (s : State) (core : Nat) (n : Node) : State :=
  match s.doms.find? fun d => n.of d with
  | some d => s.toHome d { n with core := some core }
  | none => s

/-- Entries of a core's clasp taken by nodes that their slices hold back (R430). -/
def State.coreBack (s : State) (core : Nat) : Nat := (s.toSlice.filter fun e => e.2.back && e.2.core == some core).length

/-- Take a node into a core clasp: promote, pair, hold; the oldest entries make room; a root goes on to the home slice,
where the final write is made (R123, R124). A node with a source is one that an operation waits for; where nodes held back
leave no entry, it goes on not yet accepted (R223, R430, assumption 33). -/
def State.claspCore (s : State) (core : Nat) (d : Dom) : Nat → Node → State
  | 0, n => s.toHome d n
  | fuel + 1, n =>
    if d.depth ≤ n.level then s.toHome d { n with core := some core }
    else if d.absentAt n.level (n.index ^^^ 1) then s.claspCore core d fuel n.promote
    else
      let held := (s.core core).clasp
      match held.find? fun m => m.sibling n with
      | some m =>
        let s := (s.onCore core fun c => { c with clasp := c.clasp.erase m }).credit n.src
        s.claspCore core d fuel (Node.join d n m)
      | none =>
        let k := held.length + (s.core core).dead + s.coreBack core + 1 - Config.coreClaspEntries
        if held.length < k then s.toHome d { n with core := some core }
        else
          let n' := { n with src := none, since := s.clock.toNat }
          let s := (s.credit n.src).onCore core fun c => { c with clasp := c.clasp.drop k ++ [n'] }
          (held.take k).foldl (fun s m => s.forward core m) s

/-- Contribute nodes from a core in order (R223). -/
def State.contribute (s : State) (core : Nat) (d : Dom) (ns : List Node) : State :=
  ns.foldl (fun s n => s.claspCore core d 48 n) s

/-! ## Records of class DOMAIN (R427) -/

/-- The 32 bytes that stand in place of a lane mask. -/
def domMask (elem count : Nat) (label : DWord) (diff : DWord) : Mask :=
  .ofNat 256 (min elem (2 ^ 32 - 1) + min count (2 ^ 32 - 1) * 2 ^ 32 + label.toNat * 2 ^ 64 + diff.toNat * 2 ^ 128)

/-- A DOMAIN record with no strand (R427). -/
def domRec (sub : Nat) (h : Word) (elem count : Nat) (label diff : DWord) : Rec :=
  { plainRec 0x04 sub (h.setWidth 64) with mask := domMask elem count label diff }

/-! ## Arming -/

/-- The participant list of a group (R322): device id, incarnation and pod of each entry. -/
def State.groupList (s : State) (part g : Nat) : List (Nat × Nat × Nat) :=
  let base := bitsOf (mapGet 0 (s.part part).fab 1) 56 0 + 65536 * g
  let n := s.vread part base 4
  if 4095 < n then []
  else (List.range n).map fun i =>
    let e := s.vread part (base + 16 + 8 * i) 8
    (e % 512, e / 2 ^ 16 % 2 ^ 16, e / 2 ^ 32 % 2 ^ 16)

/-- The count field of a group (R322). -/
def State.groupCount (s : State) (part g : Nat) : Nat :=
  s.vread part (bitsOf (mapGet 0 (s.part part).fab 1) 56 0 + 65536 * g) 4

/-- Read a descriptor's S fields (R80); none where a field is out of range (R405). -/
def State.readDom (s : State) (part slot gen : Nat) : Option Dom :=
  let a := s.domAddr part slot
  let rd (o n : Nat) : Nat := s.vread part (a + o) n
  let l := rd 0 8 % 2 ^ 41
  let e := rd 8 4
  let mode := rd 13 1
  let scope := mode / 2 % 4
  let quota := rd 52 2
  let log := rd 54 1
  let g := rd 60 4
  let here := (s.groupList part g).any fun x => x.1 == s.boot.devid.toNat && x.2.2 == s.boot.pod.toNat
  match accFormat (rd 12 1) with
  | none => none
  | some fmt =>
    if l = 0 ∨ 2 ^ 40 < l ∨ e = 0 ∨ scope = 3 ∨ 2048 < quota ∨ 24 < log then none
    else if scope ≠ 0 ∧ (s.groupCount part g = 0 ∨ 4095 < s.groupCount part g ∨ !here) then none
    else some
      { part := part, slot := slot, gen := gen, leaves := l, elems := e, fmt := fmt, overwrite := mode % 2 == 1
        scope := scope, scale := (BitVec.ofNat 16 (rd 14 2)).toInt, base := .ofNat 64 (rd 16 8)
        spill := .ofNat 64 (rd 24 8), spillLog := log, sync := .ofNat 64 (rd 32 8), ctr := .ofNat 64 (rd 40 8)
        inc := .ofNat 32 (rd 48 4), quota := if quota = 0 then 256 else quota, group := g
        sBytes := s.vreadBytes part a 64, written := [], flags := 0, spillCount := [], overlap := [], void := []
        full := [], stuck := [] }

/-- The handle of a CTBM whose nodes have not been sent, unless they have been refused (R82, R266, R402). -/
def Op.ctbHandle (o : Op) : Option Word :=
  match o.body with
  | .mx (.ctb h ..) _ _ => if o.susp = some (0x03, 0x03) then none else some h
  | _ => none

/-- Is a node of any generation of a slot on its way, held or still to be sent by a CTBM (R82)? -/
def State.slotInFlight (s : State) (part slot : Nat) : Bool :=
  let mine (n : Node) : Bool := n.part == part && handleSlot n.handle == slot
  s.strands.any (fun e => e.2.part == part && e.2.ops.any fun o => o.ctbHandle.any fun h => handleSlot h == slot) ||
  s.toSlice.any (fun e => mine e.2) || s.cores.any (fun c => c.2.clasp.any mine) ||
    s.slices.any (fun c => c.2.clasp.any mine)

/-- What DOMARM waits for: the slot Idle or Complete and nothing of it in flight (R82, R224). -/
def State.canArm (s : State) (part slot : Nat) : Bool :=
  (s.domGenState part slot).2 != 1 && !s.slotInFlight part slot

/-- Arm the next generation (R81): the state and the new handle; none where the descriptor is out of range. -/
def State.arm (s : State) (part slot : Nat) : Option (State × Word) :=
  let gen := ((s.domGenState part slot).1 + 1) % 4096
  match s.readDom part slot gen with
  | none => none
  | some d =>
    let s := if d.scope = 0 then s else s.seen part (bitsOf (mapGet 0 (s.part part).fab 1) 56 0 + 65536 * d.group) (16 + 8 * s.groupCount part d.group)
    let s := (s.vwrite part (s.domAddr part slot + 56) 2 0).setDomGenState part slot gen 1
    some ({ s with doms := (s.doms.filter fun x => !(x.part == part && x.slot == slot)) ++ [d] }, mkHandle slot gen)

/-! ## Ending a generation -/

/-- The descriptor bytes that differ from the frozen copy, S fields only (R432). -/
def State.domDiff (s : State) (d : Dom) : DWord :=
  let now := s.vreadBytes d.part (s.domAddr d.part d.slot) 64
  .ofNat 64 (((List.range 64).filter fun i => !(decide (56 ≤ i ∧ i < 60)) && now.getD i 0 != d.sBytes.getD i 0).foldl
    (fun acc i => acc + 2 ^ i) 0)

/-- Write DOMAIN 0x04 where software changed the frozen fields (R432). -/
def State.checkFrozen (s : State) (d : Dom) : State :=
  let diff := s.domDiff d
  if diff = 0 then s else s.postRec d.part (domRec 0x04 d.handle 0 0 (BitVec.allOnes 64) diff)

/-! ## The spill area (R83) -/

/-- Is a slot occupied for a generation? -/
def State.slotTaken (s : State) (d : Dom) (a : Nat) : Bool :=
  decide (s.vread d.part (a + 26) 1 % 2 = 1 ∧ s.vread d.part a 4 = d.handle.toNat)

/-- The node that a slot holds. -/
def State.slotNode (s : State) (d : Dom) (a : Nat) : Node :=
  let lab := s.vread d.part (a + 8) 8
  { part := d.part, handle := d.handle, elem := s.vread d.part (a + 4) 4, level := lab / 2 ^ 58, index := lab % 2 ^ 40
    val := if s.vread d.part (a + 26) 1 / 2 % 2 = 1 then none else some (.ofNat 64 (s.vread d.part (a + 16) 8))
    flags := .ofNat 16 (s.vread d.part (a + 24) 2), src := none, since := s.clock.toNat, dev := mapFind d.spillDev a }

/-- The addresses of a generation's spill slots that hold a node of it. -/
def State.slotsHeld (s : State) (d : Dom) : List Nat :=
  ((List.range (2 ^ d.spillLog)).map fun i => d.spill.toNat + 32 * i).filter fun a => s.slotTaken d a

/-- Clear the valid bits of an ended generation's spill slots (R83). -/
def State.clearSpill (s : State) (d : Dom) : State :=
  (s.slotsHeld d).foldl (fun s a => s.vwrite d.part (a + 26) 1 (s.vread d.part (a + 26) 1 - 1)) s

/-- The first address of a list that a device write does not reach, with its PAGE subclass (R431). -/
def State.writeFault (s : State) (part : Nat) (l : List Nat) : Option (Nat × Nat) :=
  l.findSome? fun a => match s.walk part .write a with | .ok _ => none | .error x => some (a, x.sub)

/-- Suspend a slice's write for a generation under a PAGE group (R431). -/
def State.stick (s : State) (d : Dom) (sl addr sub : Nat) : State :=
  (s.setDom { d with stuck := mapPut none d.stuck sl (some none) }).postGroup d.part
    { recs := [plainRec 0x01 sub (.ofNat 64 addr)], split := none, op := none, dom := some (d.handle, sl) }

/-- Discard every node of a generation that is held: in the clasps, held back at a slice, or spilled. A blocked contribution
retires as accepted; a node still on its way arrives after the close, and is refused (R225, R402, R430). -/
def State.discardNodes (s : State) (d : Dom) : State :=
  let keep (l : List Node) : List Node := l.filter fun n => !n.of d
  let gone (e : Nat × Node) : Bool := e.2.back && e.2.of d
  let srcs := (s.toSlice.filter gone).map fun e => e.2.src
  let s := { s with
    toSlice := s.toSlice.filter fun e => !gone e
    cores := s.cores.map fun (e : Nat × CoreSt) => (e.1, { e.2 with clasp := keep e.2.clasp })
    slices := s.slices.map fun (e : Nat × Slice) => (e.1, { e.2 with clasp := keep e.2.clasp }) }
  let s := { s with cores := s.cores.filter fun e => e.2 != CoreSt.reset,
                    slices := s.slices.filter fun e => e.2 != Slice.reset }
  srcs.foldl (fun s x => s.credit x) (s.clearSpill d)

/-- The lowest element without a final write. -/
def Dom.lowestOpen (d : Dom) : Nat := ((List.range (d.written.length + 1)).find? fun e => !d.written.contains e).getD 0

/-- The nodes of an element held anywhere in the device: in clasps, held back, or spilled. -/
def State.heldNodes (s : State) (d : Dom) (e : Nat) : List Node :=
  ((s.cores.flatMap fun c => c.2.clasp) ++ (s.slices.flatMap fun c => c.2.clasp) ++ (s.toSlice.map (·.2)).filter (·.back)
    ++ (s.slotsHeld d).map (s.slotNode d)).filter fun n => n.of d && n.elem == e

/-- The label of the lowest-level node held for an element, or all ones (R428). -/
def State.heldLabel (s : State) (d : Dom) (e : Nat) : DWord :=
  match s.heldNodes d e with
  | [] => BitVec.allOnes 64
  | n :: t => (t.foldl (fun a b => if b.level < a.level then b else a) n).label

/-- The double coverage of a generation that ends, by slice, with an element's label: what was found, and the nodes still held in
the slices' clasps and the spill area of elements that have their final write (R429). -/
def State.leftovers (s : State) (d : Dom) : AMap (List (Nat × DWord)) :=
  let left := (s.slices.flatMap fun e => e.2.clasp.map fun n => (e.1, n)) ++
    (s.slotsHeld d).map fun a => let n := s.slotNode d a; (s.elemSlice d n.elem, n)
  (left.filter fun e => e.2.of d && d.written.contains e.2.elem).foldl (fun acc e =>
    let l := mapGet [] acc e.1
    if l.any fun x => x.1 == e.2.elem then acc else mapPut [] acc e.1 (l ++ [(e.2.elem, e.2.label)])) d.overlap

/-- The records that a generation owes when it ends: one of its double coverage for each slice that found any (R429), and
one for each episode of back-pressure still open (R430). -/
def State.domEnds (s : State) (d : Dom) : State :=
  let s := (s.leftovers d).foldl (fun s e =>
    match e.2 with
    | [] => s
    | (x, lab) :: t =>
      s.postRec d.part (domRec 0x02 d.handle (t.foldl (fun m y => min m y.1) x) (t.length + 1) lab 0)) s
  d.full.foldl (fun s e => s.postRec d.part (domRec 0x03 d.handle e.2.2.1 e.2.1 e.2.2.2 0)) s

/-- The first spill slot that a close cannot clear: its slice, address and PAGE subclass (R431). -/
def State.closeFault (s : State) (d : Dom) : Option (Nat × Nat × Nat) :=
  (s.slotsHeld d).findSome? fun a =>
    (s.writeFault d.part [a + 26]).map fun x => (s.elemSlice d (s.slotNode d a).elem, x.1, x.2)

/-- Close an Open generation with a record (R225, R428, R466): discard, record, Idle. A spill slot that the device cannot write keeps its
valid bit (assumption 33). -/
def State.closeDom (s : State) (d : Dom) (r : Rec) : State :=
  let s := (((s.domEnds d).discardNodes d).checkFrozen d).postRec d.part r
  let s := s.setDomGenState d.part d.slot d.gen 0
  { s with doms := s.doms.filter fun x => !(x.part == d.part && x.slot == d.slot && x.gen == d.gen) }

end Sys2Proof.Machine
end

