-- ==== Sys2Proof/Machine/Red.lean ====
section
/-! DEFINITION. RED (R222 to R226): contributions and domains. -/

namespace Sys2Proof.Machine

open Sys2Proof

/-- Can values of a type enter a node format exactly (R223)? -/
def convertible (t : Ty) (nf : NodeFmt) : Bool :=
  match nf with
  | .f32 => t == .f32 || t == .f16 || t == .bf16
  | .f64 => t == .f64 || t == .f32 || t == .f16 || t == .bf16
  | .int w => (t == .i32 || t == .n32 || t == .i64 || t == .n64) && decide (t.width ≤ w)

/-- A contributed value as node bits, with NF for an infinite or NaN value (R78, R223); a signalling NaN that is widened raises no
INV (assumption 116). -/
def toNode (t : Ty) (nf : NodeFmt) (x : DWord) : DWord × Half :=
  match nf with
  | .int w => (.ofNat 64 (modW w (intVal t x)), 0)
  | nf =>
    let f := fmtOf t
    let c := x.toNat % 2 ^ f.bits
    let v := if f.bits = nf.fmt.bits then c else (nf.fmt.round rneArg false (f.val c)).1
    (.ofNat 64 v, nfOf f c)

/-- The label of a lane: level and index, and whether bits [57:40] are zero (R222). -/
def laneLabel (x : Opnds) (c : DWord) : Nat × Nat × Bool :=
  if x.xs = 0 then (x.sel, c.toNat % 2 ^ 32, true)
  else (c.toNat / 2 ^ 58, c.toNat % 2 ^ 40, decide (c.toNat / 2 ^ 40 % 2 ^ 18 = 0))

/-- CTB and CTBN (R223, R401, R405). -/
def ctbOp (s : State) (x : Opnds) (absent : Bool) : Host.Outcome State Fault Refusal :=
  issueX s x fun c =>
    let w := x.t.is64
    let ops := [(x.a, true), (x.b, false), (x.c, decide (x.xs ≠ 0))] ++ (if absent then [] else [(x.d, w)])
    c.known s x ops fun offs =>
      if c.st.full .ct then .wait s .counterWait
      else
        let h : Word := ((offs.getD 0 (.u 0)).at 0).setWidth 32
        match s.openDom? c.st.part h with
        | none => c.trapWhole 0x07 2
        | some d =>
          let act := lanesOf (c.act x)
          let elem (l : Nat) : Nat := ((offs.getD 1 (.u 0)).at l).toNat % 2 ^ 32
          let lab (l : Nat) := laneLabel x ((offs.getD 2 (.u 0)).at l)
          let badE := laneMask (act.filter fun l => decide (d.elems ≤ elem l))
          let badL := laneMask (act.filter fun l => !((lab l).2.2 && d.labelOk (lab l).1 (lab l).2.1))
          if !absent && !convertible x.t d.nf then c.trapWhole 0x06 7
          else if badE ≠ 0 then Act.trapLanes 0x06 3 badE
          else if badL ≠ 0 then Act.trapLanes 0x06 4 badL
          else c.acquired s <|
            let id := c.st.opNext
            let node (l : Nat) : Node :=
              let v := toNode x.t d.nf ((offs.getD 3 (.u 0)).at l)
              { part := c.st.part, handle := h, elem := elem l, level := (lab l).1, index := (lab l).2.1
                val := if absent then none else some v.1, flags := if absent then 0 else v.2
                src := some (c.key, id), since := s.clock.toNat }
            let o := c.newOp .ct (.contribute act.length) 0 0
            let s := s.addRecOp c.key o
            let s := if act.isEmpty then s.onStrand c.key fun st => st.complete id else s
            .done (s.contribute (coreOf c.key) d (act.map node))

def execCtb (x : Opnds) (s : State) : Host.Outcome State Fault Refusal := ctbOp s x false
def execCtbn (x : Opnds) (s : State) : Host.Outcome State Fault Refusal := ctbOp s x true

/-- Reach a slot's descriptor through the core's translation: a failure parks the whole split (R412). -/
def Ic.withDom (c : Ic) (s : State) (slot : Nat) (acc : Access) (k : State → Act) : Act :=
  let a : DWord := .ofNat 64 (s.domAddr c.st.part slot)
  match c.trLane s .global (.s 0) acc a with
  | .ok _ => c.deviceReads s (s.domAddr c.st.part slot) 64 k
  | .miss w => .wait (s.askWalks (coreOf c.key) [w]) .scoreboard
  | .fail e =>
    let redo : Redo := { lanes := c.sp.mask, addrs := lanes256.map fun _ => a, data := [], data2 := [] }
    .stay (s.parkFail c c.sp.mask redo [s.strandRec c.key c.st 0x01 e.sub c.sp.pc a c.sp.mask])

/-- DOMARM (R224, R405): the S fields are judged after the wait, as they are then read (assumption 110). -/
def execDomarm (x : Opnds) (s : State) : Host.Outcome State Fault Refusal :=
  issueX s x fun c => c.known s x [(x.a, true)] fun offs =>
    let slot := ((offs.getD 0 (.u 0)).at 0).toNat % 2 ^ 20
    if c.st.busy x.d true then .wait s .scoreboard
    else c.withDom s slot .write fun s =>
      if !s.canArm c.st.part slot then .wait s .syncWord
      else c.acquired s <|
        match s.arm c.st.part slot with
        | none => c.trapWhole 0x06 2
        | some (s, h) => Act.acquired c 0 (.done (s.putRegs c (c.regs.setS x.d.snum (h.setWidth 64))))

/-- DOMCLOSE (R225, R428): it waits while a slot that it must clear cannot be written (R431, assumption 33). -/
def execDomclose (x : Opnds) (s : State) : Host.Outcome State Fault Refusal :=
  issueX s x fun c => c.known s x [(x.a, true)] fun offs =>
    let h : Word := ((offs.getD 0 (.u 0)).at 0).setWidth 32
    let slot := handleSlot h
    if c.st.count .ct ≠ 0 then .wait s .counterWait
    else c.withDom s slot .write fun s => c.acquired s <|
      let (gen, st) := s.domGenState c.st.part slot
      if gen ≠ handleGen h then .done s
      else
        match s.dom? c.st.part h with
        | some d =>
          if d.complete then
            .done ({ s.setDomGenState c.st.part slot gen 0 with
              doms := s.doms.filter fun y => !(y.part == d.part && y.slot == d.slot && y.gen == d.gen) })
          else
            match s.closeFault d with
            | some (sl, a, sub) => .wait (if (mapGet none d.stuck sl).isSome then s else s.stick d sl a sub) .scoreboard
            | none =>
            let e := d.lowestOpen
            let r := { s.strandRec c.key c.st 0x04 0x01 c.sp.pc (h.setWidth 64) 0 with
              mask := domMask e (d.elems - d.written.length) (s.heldLabel d e) 0 }
            .done (s.closeDom d r)
        | none => .done (if st = 2 then s.setDomGenState c.st.part slot gen 0 else s)

/-- The result of a query (R226). -/
def State.domWord (s : State) (part : Nat) (h : Word) : DWord :=
  let (gen, st) := s.domGenState part (handleSlot h)
  let flags := s.vread part (s.domAddr part (handleSlot h) + 56) 2
  .ofNat 64 (gen + st * 4096 + (if gen = handleGen h then 0 else 2 ^ 14) + flags * 65536)

/-- DOMQ (R226). -/
def execDomq (x : Opnds) (s : State) : Host.Outcome State Fault Refusal :=
  issueX s x fun c => c.known s x [(x.a, true)] fun offs =>
    let h : Word := ((offs.getD 0 (.u 0)).at 0).setWidth 32
    c.withDom s (handleSlot h) .read fun s => c.acquired s <| c.toS s x.d.snum (s.domWord c.st.part h)

/-- DOMQ.wait (R226): it ends once the generation is no longer Open. -/
def execDomqWait (x : Opnds) (s : State) : Host.Outcome State Fault Refusal :=
  issueX s x fun c => c.known s x [(x.a, true)] fun offs =>
    let h : Word := ((offs.getD 0 (.u 0)).at 0).setWidth 32
    c.withDom s (handleSlot h) .read fun s => c.acquired s <|
      let (gen, st) := s.domGenState c.st.part (handleSlot h)
      if gen = handleGen h ∧ st = 1 then .wait s .syncWord else (c.toS s x.d.snum (s.domWord c.st.part h)).acquired c 0

end Sys2Proof.Machine
end

