-- ==== Sys2Proof/Machine/Mtx.lean ====
section
/-! DEFINITION. MTX and CTBM (R252 to R273): the issue of matrix instructions, their checks (R407), tiles and the
rendezvous latch (R42, R43). The operations perform at their own events (EngineEv.lean). -/

namespace Sys2Proof.Machine

open Sys2Proof

/-! ## Tiles -/

/-- A tile bound to a handle. -/
def Strand.tile? (st : Strand) (h : Nat) : Option Tile := mapGet none st.tiles h
/-- Store a tile, or unbind a handle. -/
def Strand.setTile (st : Strand) (h : Nat) (t : Option Tile) : Strand := { st with tiles := mapPut none st.tiles h t }
/-- Change a bound tile. -/
def Strand.onTile (st : Strand) (h : Nat) (f : Tile → Tile) : Strand :=
  match st.tile? h with | some t => st.setTile h (some (f t)) | none => st

/-- Change a joint operation's record. -/
def State.onJoint (s : State) (n : Nat) (f : Joint → Joint) : State := { s with joints := mapMod s.joints n f }

/-- Take an operation out of its engine's queue (R270). -/
def State.unqueue (s : State) (key op : Nat) : State :=
  s.onCore (coreOf key) fun c => { c with engine := c.engine.erase (key, op) }

/-- Granules of a tile (R253). -/
def tileGranules (rows cols depth : Nat) : Nat := (4 * rows * cols * (1 + depth) + 4095) / 4096

/-- Granules in use on a core (R253). -/
def State.granulesUsed (s : State) (core : Nat) : Nat :=
  (s.strands.filter fun e => decide (coreOf e.1 = core)).foldl (fun acc e =>
    e.2.tiles.foldl (fun acc t => match t.2 with | some u => acc + tileGranules u.rows u.cols u.depth | none => acc) acc) 0

/-- The tile an operation works on. -/
def Op.tile (o : Op) : Option Nat := match o.body with | .mx _ h _ => some h | _ => none

/-- Are the older operations of the strand on a tile complete (R268)? An MXFREE waits also for a CTBM whose nodes are not all
accepted (R260). -/
def Strand.tileReady (st : Strand) (o : Op) (h : Nat) : Bool :=
  (st.ops.takeWhile fun p => p.id != o.id).all fun p =>
    p.done || (p.tile != some h && !(o.frees.isSome && p.sentOf == some h))

/-- A suspended operation on the tile: MXST, CTBM and MXROW.flags are its delivery point (R377). -/
def Ic.tileDeliver (c : Ic) (s : State) (h : Nat) (k : Act) : Act :=
  match c.st.ops.find? fun o => o.parks && o.tile == some h with
  | some o => .stay (s.parkAsync c.key c.slot o)
  | none => k

/-- Tiles the kernel declares (R160). -/
def State.kernelTiles (s : State) (wg : Nat) : Nat := match s.wg? wg with | some w => w.kernel.tiles | none => 0

/-- A bound tile, or the trap for a handle out of range or not bound (R407). -/
def Ic.withTile (c : Ic) (s : State) (h code : Nat) (k : Tile → Act) : Act :=
  if s.kernelTiles c.st.wg ≤ h then c.trapWhole 0x06 code
  else
    match c.st.tile? h with
    | none => c.trapWhole 0x06 code
    | some t => if t.freeing then c.trapWhole 0x06 code else k t

/-- An element of a tile: +0 where nothing is stored (R260). -/
def Tile.val (t : Tile) (i j : Nat) : Option Word := mapGet (some 0) t.vals (i * 256 + j)
/-- The spine of an element. -/
def Tile.spine (t : Tile) (i j : Nat) : Spine :=
  (mapGet [] t.spines (i * 256 + j)).map fun e => (e.1, e.2.map fun w => w.setWidth 64)

/-! ## Pairs -/

/-- A pair operand: s2k and s2k+1 as read at issue (R254). -/
def pairOps (o : Opnd) : List (Opnd × Bool) := [(o, true), (.s (o.snum + 1), true)]

/-- The formats of an operand pair (R255). -/
def matFormat (c : Nat) : Option Ty :=
  match c with
  | 0x0B => some .bf16 | 0x0A => some .f16 | 0x0C => some .e4m3 | 0x0D => some .e5m2 | 0x0E => some .e2m1 | 0x06 => some .i8
  | _ => none

/-- A space code of a matrix operand or sync word. -/
def spaceOf (n : Nat) : Space := match n with | 1 => .spad | 2 => .vault | _ => .global

/-- An operand pair (R255); `fmt` is given by TY for MXLD and MXST, whose pair then holds zero (R261, R265). -/
def readPair (lo hi : DWord) (fmt : Option Ty) : Option MatRef :=
  let stride := hi.toNat % 2 ^ 32
  let code := hi.toNat / 2 ^ 32 % 32
  let sp := hi.toNat / 2 ^ 37 % 4
  let f := match fmt with
    | some t => if code = 0 then some t else none
    | none => matFormat code
  match f with
  | none => none
  | some t =>
    if stride = 0 ∨ 2 ^ 31 ≤ stride ∨ sp = 3 ∨ hi.toNat / 2 ^ 40 ≠ 0 then none
    else some { addr := lo, stride := stride, fmt := t, space := spaceOf sp, trans := hi.getLsbD 39, viaRec := none }

/-- A tensor shape record (R257) at its address, with the origins of the pair. -/
def State.readRecord (s : State) (part a : Nat) (origin : DWord) : Option MatRef :=
  let rd (o n : Nat) : Nat := s.vread part (a + o) n
  let sp := rd 21 1 % 4
  match matFormat (rd 20 1) with
  | none => none
  | some t =>
    if sp = 3 ∨ rd 16 4 = 0 then none
    else some
      { addr := .ofNat 64 (rd 0 8), stride := rd 16 4, fmt := t, space := spaceOf sp, trans := rd 21 1 / 4 % 2 == 1
        viaRec := some (rd 8 4, rd 12 4, origin.toNat % 2 ^ 32, origin.toNat / 2 ^ 32) }

/-- Address of a tensor shape record (R257). -/
def State.recAddr (s : State) (part slot : Nat) : Nat := (s.part part).vbase 8 + 64 * slot

/-- Reach a tensor shape record: a failure parks the whole split (R407, R412). -/
def Ic.withRec (c : Ic) (s : State) (h : Word) (acc : Access) (k : State → Nat → Act) : Act :=
  let a := s.recAddr c.st.part (handleSlot h)
  match c.trLane s .global (.s 0) acc (.ofNat 64 a) with
  | .ok _ => c.deviceReads s a 64 fun s => k s a
  | .miss w => .wait (s.askWalks (coreOf c.key) [w]) .scoreboard
  | .fail e =>
    let redo : Redo := { lanes := c.sp.mask, addrs := lanes256.map fun _ => .ofNat 64 a, data := [], data2 := [] }
    .stay (s.parkFail c c.sp.mask redo [s.strandRec c.key c.st 0x01 e.sub c.sp.pc (.ofNat 64 a) c.sp.mask])

/-- GEN of a tensor shape record (R257). -/
def State.recGen (s : State) (part a : Nat) : Nat := s.vread part (a + 22) 2 % 4096

/-- A control pair (R259). -/
structure Control where
  m : Nat
  n : Nat
  k : Nat
  sync : Option SyncRef
  zeros : Bool
deriving DecidableEq, Repr

/-- Read a control pair (R259). -/
def readControl (lo hi : DWord) : Control :=
  let v := lo.toNat
  let sp := v / 2 ^ 48 % 4
  { m := v % 512, n := v / 2 ^ 16 % 512, k := v / 2 ^ 32 % 8192
    sync := if sp = 3 then none else some { space := spaceOf sp, addr := hi }
    zeros := decide (v / 2 ^ 9 % 128 = 0 ∧ v / 2 ^ 25 % 128 = 0 ∧ v / 2 ^ 45 % 8 = 0 ∧ v / 2 ^ 50 = 0 ∧ (sp ≠ 3 ∨ hi = 0)) }

/-- The checks of a sync target (R407): alignment, then the range of a scratchpad or vault word. -/
def Ic.syncCheck (c : Ic) (s : State) (r : Option SyncRef) (code : Nat) : Option Act :=
  match r with
  | none => none
  | some r =>
    let range : Bool :=
      match r.space with
      | .spad => decide (r.addr.toNat + 8 ≤ s.spadBytes c.st.wg)
      | .vault => decide (r.addr.toNat < 2 ^ 30)
      | .global => true
    if !range then some (c.trapWhole 0x06 code)
    else if r.addr.toNat % 8 ≠ 0 then some (c.trapWhole 0x05 code)
    else none

/-! ## Extents -/

/-- Stored coordinates of operand element (r, c) (R255, R257); none outside a record. -/
def MatRef.stored (x : MatRef) (r c : Nat) : Option (Nat × Nat) :=
  let (r, c) := if x.trans then (c, r) else (r, c)
  match x.viaRec with
  | none => some (r, c)
  | some (rows, cols, ro, co) => if r + ro < rows ∧ c + co < cols then some (r + ro, c + co) else none

/-- Is the format narrow, its address counting elements (R255)? -/
def narrowFmt (t : Ty) : Bool := t == .e4m3 || t == .e5m2 || t == .e2m1

/-- Bytes of a frame image of a narrow format (R255). -/
def imageBytes (t : Ty) : Nat := if t == .e2m1 then 49152 else 73728

/-- The end of the bytes that element e of a frame image needs: its scale lies beyond its code (R115). -/
def imageEnd (t : Ty) (e : Nat) : Nat :=
  let o := e % 65536
  e / 65536 * imageBytes t + (if t == .e2m1 then 40960 + 2 * (o / 512) + 2 else 65536 + o / 32 + 1)

/-- One past the last byte, from the operand's base, of the elements (0, 0) to (rows - 1, cols - 1) read or written. -/
def MatRef.extent (x : MatRef) (rows cols : Nat) : Nat :=
  let (r, c) := if x.trans then (cols, rows) else (rows, cols)
  let (r, c) := match x.viaRec with
    | none => (r, c)
    | some (rs, cs, ro, co) => if ro < rs ∧ co < cs then (min (r + ro) rs, min (c + co) cs) else (0, 0)
  if r = 0 ∨ c = 0 then 0
  else
    let last := (r - 1) * x.stride + (c - 1)
    let base := match x.space with | .vault => x.addr.toNat % 2 ^ 22 | _ => x.addr.toNat
    if narrowFmt x.fmt then imageEnd x.fmt (base + last) - base
    else (last + 1) * Ty.bytes x.fmt

/-- Does an operand stay within the allocation or its vault (R407)? -/
def Ic.extentOk (c : Ic) (s : State) (x : MatRef) (rows cols : Nat) : Bool :=
  let n := x.extent rows cols
  match x.space with
  | .global => true
  | .spad => n == 0 || decide (x.addr.toNat + n ≤ s.spadBytes c.st.wg)
  | .vault => decide (x.addr.toNat < 2 ^ 30) && (n == 0 || decide (x.addr.toNat % 2 ^ 22 + n ≤ 2 ^ 22))

/-! ## Issue -/

/-- Queue a matrix operation: it waits for room in the engine's queue (R270) and in its counter (R211). -/
def Ic.mxIssue (c : Ic) (s : State) (cls : Ctr) (k : MxKind) (h : Nat) (sync : Option SyncRef) (upd : Tile → Tile) : Act :=
  if c.st.full cls then .wait s .counterWait
  else if Config.engineQueue ≤ (s.core (coreOf c.key)).engine.length then .wait s .matrixBusy
  else
    let o := c.newOp cls (.mx k h sync) 0 0
    let s := (s.addRecOp c.key o).onCore (coreOf c.key) fun x => { x with engine := x.engine ++ [(c.key, o.id)] }
    .done (s.onStrand c.key fun st => st.onTile h upd)

/-- MXALLOC (R260, R407). -/
def execMxalloc (x : Opnds) (s : State) : Host.Outcome State Fault Refusal :=
  issueX s x fun c => c.wholeStrand <| c.known s x [(x.a, true), (x.b, true), (x.c, true)] fun offs =>
    let v (i : Nat) : Nat := ((offs.getD i (.u 0)).at 0).toNat
    let h := x.d.rawNum
    let (rows, cols, depth) := (v 0, v 1, v 2)
    let bound := c.st.tile? h
    if s.kernelTiles c.st.wg ≤ h then c.trapWhole 0x06 1
    else if (match bound with | some t => !t.freeing | none => false) then c.trapWhole 0x06 1
    else if rows = 0 ∨ 256 < rows then c.trapWhole 0x06 2
    else if cols = 0 ∨ 256 < cols then c.trapWhole 0x06 3
    else if 8 < depth then c.trapWhole 0x06 4
    else if Config.granules < tileGranules rows cols depth then c.trapWhole 0x06 2
    else if bound.isSome then .wait s .tileDependence
    else if Config.granules < s.granulesUsed (coreOf c.key) + tileGranules rows cols depth then .wait s .tileDependence
    else
      let t : Tile := { rows := rows, cols := cols, fp := x.t == .f32, depth := depth, vals := [], spines := [], n := 0,
                        flags := 0, nIssue := 0, freeing := false, last := none }
      .done (s.onStrand c.key fun st => st.setTile h (some t))

/-- MXFREE (R260). -/
def execMxfree (x : Opnds) (s : State) : Host.Outcome State Fault Refusal :=
  issueX s x fun c => c.wholeStrand <| c.withTile s x.d.rawNum 1 fun _ =>
    c.mxIssue s .mx .free x.d.rawNum none fun t => { t with freeing := true }

/-- MXZERO and MXZERO.abs (R261). -/
def mxzeroOp (s : State) (x : Opnds) (abs : Bool) : Host.Outcome State Fault Refusal :=
  issueX s x fun c => c.wholeStrand <| c.withTile s x.d.rawNum 1 fun _ =>
    c.mxIssue s .mx (.zero abs) x.d.rawNum none fun t => { t with nIssue := 0 }

def execMxzero (x : Opnds) (s : State) : Host.Outcome State Fault Refusal := mxzeroOp s x false
def execMxzeroAbs (x : Opnds) (s : State) : Host.Outcome State Fault Refusal := mxzeroOp s x true

/-- MXLD (R261, R407). -/
def execMxld (x : Opnds) (s : State) : Host.Outcome State Fault Refusal :=
  issueX s x fun c => c.wholeStrand <| c.known s x (pairOps x.a ++ pairOps x.b) fun offs =>
    let v (i : Nat) : DWord := (offs.getD i (.u 0)).at 0
    let h := x.d.rawNum
    c.withTile s h 1 fun t =>
      let ct := readControl (v 2) (v 3)
      match readPair (v 0) (v 1) (some x.t) with
      | none => c.trapWhole 0x06 2
      | some r =>
        if !ct.zeros ∨ ct.m = 0 ∨ 256 < ct.m ∨ ct.n = 0 ∨ 256 < ct.n ∨ ct.k ≠ 0 then c.trapWhole 0x06 3
        else if t.rows < ct.m ∨ t.cols < ct.n then c.trapWhole 0x06 3
        else if !c.extentOk s r ct.m ct.n then c.trapWhole 0x06 2
        else if (x.t == .i32) = t.fp then c.trapWhole 0x06 7
        else
          match c.syncCheck s ct.sync 3 with
          | some a => a
          | none => c.mxIssue s .mx (.load x.t r ct.m ct.n) h ct.sync fun t => { t with nIssue := 0 }

/-- The row of R85 a format belongs to. -/
def matRow (t : Ty) : Nat := match t with | .bf16 | .f16 => 0 | .e4m3 | .e5m2 => 1 | .e2m1 => 2 | _ => 3

/-- Ones in a run count (R263). -/
def popcount (n : Nat) : Nat := ((List.range 41).filter fun i => n.testBit i).length

/-- Does a run of n leaves take K more (R263)? -/
def Tile.takes (t : Tile) (n k : Nat) (fin : Bool) : Bool :=
  decide (n + k ≤ 2 ^ 40) && (fin || decide (popcount (n + k) ≤ t.depth))

/-- Latch entries a partition may hold in a cluster (R43). -/
def State.latchShare (s : State) (cluster : Nat) : Nat :=
  let k := (s.parts.filter fun p => (List.range 8).any fun i => p.2.holds (cluster * 8 + i)).length
  16 / max 1 k

/-- Enter the rendezvous latch under the strand's GANG and sequence number (R43). -/
def Ic.toLatch (c : Ic) (s : State) (k : MxKind) (h : Nat) (sync : Option SyncRef) (upd : Tile → Tile) : Act :=
  let cl := clusterOf (coreOf c.key)
  let g := c.st.ctx.gang
  let ents := mapGet [] s.latches cl
  let mine (e : LatchEnt) : Bool := e.part == c.st.part && e.gang == g && e.seq == c.st.gangSeq
  let o := { c.newOp .mx (.mx k h sync) 0 0 with joint := some 0 }
  let put (s : State) (l : List LatchEnt) : Act :=
    let s := (s.addRecOp c.key o).onStrand c.key fun st => ({ st with gangSeq := st.gangSeq + 1 }).onTile h upd
    .done { s with latches := mapPut [] s.latches cl l }
  if c.st.full .mx then .wait s .counterWait
  else if ents.any mine then
    put s (ents.map fun e => if mine e then { e with members := e.members ++ [(c.key, o.id)] } else e)
  else if 16 ≤ ents.length ∨ s.latchShare cl ≤ (ents.filter fun e => e.part == c.st.part).length then .wait s .matrixBusy
  else put s (ents ++ [{ part := c.st.part, gang := g, seq := c.st.gangSeq, members := [(c.key, o.id)] }])

/-- An MXMMA operand as its pair names it. -/
inductive MatRes where
  | ok (x : MatRef)
  /-- outside R255 or R257. -/
  | bad
  | stale
  /-- the record's address has to be walked, or does not translate. -/
  | miss (w : WalkReq)
  | fail (a : DWord) (e : WalkErr)
deriving DecidableEq, Repr

/-- The matrix of an operand that has one. -/
def MatRes.mat? : MatRes → Option MatRef
  | .ok x => some x
  | _ => none

/-- An MXMMA operand: by address, or through a record read once at issue (R255, R257, R401). Bits [63:32] of the first scalar of a
record's pair are ignored (assumption 141). -/
def Ic.matOperand (c : Ic) (s : State) (lo hi : DWord) (viaRec : Bool) : MatRes :=
  let of (r : Option MatRef) : MatRes := match r with | some x => .ok x | none => .bad
  if viaRec then
    let h : Word := lo.setWidth 32
    let a := s.recAddr c.st.part (handleSlot h)
    match c.trLane s .global (.s 0) .read (.ofNat 64 a) with
    | .ok _ => if s.recGen c.st.part a ≠ handleGen h then .stale else of (s.readRecord c.st.part a hi)
    | .miss w => .miss w
    | .fail e => .fail (.ofNat 64 a) e
  else of (readPair lo hi none)

/-- The device reads the record that an operand names, if it names one (R257). -/
def Ic.recRead (c : Ic) (s : State) (lo : DWord) (viaRec : Bool) (k : State → Act) : Act :=
  if viaRec then c.deviceReads s (s.recAddr c.st.part (handleSlot (lo.setWidth 32))) 64 k else k s

/-- Park the whole split for a record that does not translate (R407, R412). -/
def Ic.recFail (c : Ic) (s : State) (a : DWord) (e : WalkErr) : Act :=
  let redo : Redo := { lanes := c.sp.mask, addrs := lanes256.map fun _ => a, data := [], data2 := [] }
  .stay (s.parkFail c c.sp.mask redo [s.strandRec c.key c.st 0x01 e.sub c.sp.pc a c.sp.mask])

/-- Operand B of a member other than member 0, whose own is ignored (R273). -/
def MatRef.unused : MatRef := { addr := 0, stride := 1, fmt := .bf16, space := .global, trans := false, viaRec := none }

/-- MXMMA (R262, R263, R273, R407), its conditions in the order of R391: stale records, illegal uses, records that do not
translate. A member of a gang other than member 0 takes B and N from member 0; its A may be of another row of R85 than member 0's B
(assumption 142). -/
def execMxmma (x : Opnds) (s : State) : Host.Outcome State Fault Refusal :=
  issueX s x fun c => c.wholeStrand <| c.known s x (pairOps x.a ++ pairOps x.b ++ pairOps x.c) fun offs =>
    let v (i : Nat) : DWord := (offs.getD i (.u 0)).at 0
    let h := x.d.rawNum
    let fin := x.sel % 2 == 1
    let g := c.st.ctx.gang
    let other := x.g && gangNamed g && (gangMembers g (coreOf c.key)).head? != some c.st.name
    c.recRead s (v 0) (x.xs % 2 == 1) fun s => c.recRead s (v 2) (!other && x.xs / 2 % 2 == 1) fun s =>
    let ra := c.matOperand s (v 0) (v 1) (x.xs % 2 == 1)
    let rb := if other then MatRes.ok MatRef.unused else c.matOperand s (v 2) (v 3) (x.xs / 2 % 2 == 1)
    let walks := [ra, rb].filterMap fun r => match r with | .miss w => some w | _ => none
    if !walks.isEmpty then .wait (s.askWalks (coreOf c.key) walks) .scoreboard
    else if ra = .stale then c.trapWhole 0x07 2
    else if rb = .stale then c.trapWhole 0x07 3
    else if ra = .bad then c.trapWhole 0x06 2
    else if rb = .bad then c.trapWhole 0x06 3
    else
      c.withTile s h 1 fun t =>
        let ct := readControl (v 4) (v 5)
        let badN := !other && decide (ct.n = 0 ∨ 256 < ct.n)
        let rowsDiffer : Bool := match ra, rb with | .ok a, .ok b => !other && matRow a.fmt != matRow b.fmt | _, _ => false
        if x.g && (!gangNamed g || !(gangMembers g (coreOf c.key)).contains c.st.name) then c.trapWhole 0x06 0
        else if !ct.zeros ∨ ct.m = 0 ∨ 256 < ct.m ∨ badN = true ∨ ct.k = 0 ∨ 4096 < ct.k then c.trapWhole 0x06 4
        else if t.rows < ct.m ∨ (t.cols < ct.n ∧ !other) then c.trapWhole 0x06 4
        else if rowsDiffer || (ra.mat?.any fun a => (a.fmt == .i8) == t.fp) then c.trapWhole 0x06 2
        else if ra.mat?.any fun a => !c.extentOk s a ct.m ct.k then c.trapWhole 0x06 2
        else if !other && rb.mat?.any fun b => !c.extentOk s b ct.k ct.n then c.trapWhole 0x06 3
        else if !t.takes t.nIssue ct.k fin then c.trapWhole 0x06 1
        else
          match c.syncCheck s ct.sync 4, ra, rb with
          | some z, _, _ => z
          | none, .fail y e, _ | none, _, .fail y e => c.recFail s y e
          | none, .ok a, .ok b =>
            let upd (t : Tile) : Tile := { t with nIssue := if fin then 0 else t.nIssue + ct.k }
            let body : MxKind := .mma a b ct.m ct.n ct.k fin
            if x.g then c.toLatch s body h ct.sync upd else c.mxIssue s .mx body h ct.sync upd
          | none, _, _ => c.trapWhole 0x06 2

/-- MXFIN (R264). -/
def execMxfin (x : Opnds) (s : State) : Host.Outcome State Fault Refusal :=
  issueX s x fun c => c.wholeStrand <|
    c.known s x (match x.a with | .s _ => pairOps x.a | _ => []) fun offs =>
      let v (i : Nat) : DWord := (offs.getD i (.u 0)).at 0
      let sync := match x.a with | .s _ => (readControl (v 0) (v 1)).sync | _ => none
      c.withTile s x.d.rawNum 1 fun _ =>
        match c.syncCheck s sync 2 with
        | some z => z
        | none => c.mxIssue s .mx .fin x.d.rawNum sync fun t => { t with nIssue := 0 }

/-- MXST (R265, R407). -/
def execMxst (x : Opnds) (s : State) : Host.Outcome State Fault Refusal :=
  issueX s x fun c => c.wholeStrand <| c.seedReady x s <|
    c.known s x (pairOps x.a ++ pairOps x.b ++ [(x.c, true)]) fun offs =>
      let v (i : Nat) : DWord := (offs.getD i (.u 0)).at 0
      let h := x.d.rawNum
      c.withTile s h 1 fun t => c.tileDeliver s h <|
        let ct := readControl (v 2) (v 3)
        let e := c.fpEnv x
        match readPair (v 0) (v 1) (some x.t) with
        | none => c.trapWhole 0x06 2
        | some r =>
          if !ct.zeros ∨ ct.m = 0 ∨ 256 < ct.m ∨ ct.n = 0 ∨ 256 < ct.n ∨ ct.k ≠ 0 then c.trapWhole 0x06 3
          else if t.rows < ct.m ∨ t.cols < ct.n then c.trapWhole 0x06 3
          else if (v 4).toNat / 2 ^ 56 ≠ 0 then c.trapWhole 0x06 4
          else if !c.extentOk s { r with fmt := if narrowFmt x.t then .i8 else x.t } ct.m ct.n then c.trapWhole 0x06 2
          else if x.t.isFloat != t.fp then c.trapWhole 0x06 7
          else
            match c.syncCheck s ct.sync 3 with
            | some z => z
            | none =>
              c.mxIssue s .mx (.store x.t r ct.m ct.n ((v 4).toNat % 2 ^ 32) ((v 4).toNat / 2 ^ 32 % 2 ^ 24) e.mode e.sat e.seed)
                h ct.sync id

/-- CTBM (R266, R401, R407). -/
def execCtbm (x : Opnds) (s : State) : Host.Outcome State Fault Refusal :=
  issueX s x fun c => c.wholeStrand <| c.known s x ([(x.a, true)] ++ pairOps x.b ++ [(x.c, true)]) fun offs =>
    let v (i : Nat) : DWord := (offs.getD i (.u 0)).at 0
    let h := x.d.rawNum
    let dh : Word := (v 0).setWidth 32
    match s.openDom? c.st.part dh with
    | none => c.trapWhole 0x07 2
    | some d =>
      c.withTile s h 1 fun t => c.tileDeliver s h <|
        let r := (v 1).toNat
        let (i0, j0, rows, cols) := (r % 256, r / 2 ^ 8 % 256, r / 2 ^ 16 % 512, r / 2 ^ 32 % 512)
        let (e0, stride) := ((v 2).toNat % 2 ^ 32, (v 2).toNat / 2 ^ 32)
        let (level, index, zeros) := ((v 3).toNat / 2 ^ 58, (v 3).toNat % 2 ^ 40, (v 3).toNat / 2 ^ 40 % 2 ^ 18)
        let other := r / 2 ^ 25 % 128 + r / 2 ^ 41
        if rows = 0 ∨ cols = 0 ∨ 256 < rows ∨ 256 < cols ∨ other ≠ 0 ∨ t.rows < i0 + rows ∨ t.cols < j0 + cols then
          c.trapWhole 0x06 3
        else if d.elems ≤ e0 + (rows - 1) * stride + (cols - 1) then c.trapWhole 0x06 3
        else if zeros ≠ 0 ∨ !d.labelOk level index then c.trapWhole 0x06 4
        else if !convertible (if t.fp then .f32 else .i32) d.nf then c.trapWhole 0x06 2
        else c.mxIssue s .ct (.ctb dh i0 j0 rows cols e0 stride level index) h none id

/-- MXGANG (R272): it waits for the strand's .g operations. -/
def execMxgang (x : Opnds) (s : State) : Host.Outcome State Fault Refusal :=
  issueX s x fun c => c.wholeStrand <| c.known s x [(x.a, true)] fun offs =>
    if c.st.ops.any fun o => o.joint.isSome then .wait s .tileDependence
    else
      .done (s.onStrand c.key fun st =>
        { st with gangSeq := 0, name := c.key, ctx := { st.ctx with gang := (offs.getD 0 (.u 0)).at 0 } })

/-- The op record number, rows and done bit of the youngest MX operation on a tile (R271); none was ever issued: a free
value (assumption 22). -/
def Ic.rowWord (c : Ic) (s : State) (t : Tile) (h : Nat) : DWord × State :=
  match (c.st.ops.filter fun o => o.tile == some h && o.cls == .mx).getLast? with
  | some o =>
    let rows := if o.done || (match o.body with | .mx (.mma ..) _ _ => true | _ => false) then o.rows else 0
    (.ofNat 64 (o.recNo + rows * 2 ^ 16 + (if o.done then 2 ^ 31 else 0)), s)
  | none =>
    match t.last with
    | some (n, rows) => (.ofNat 64 (n.toNat + rows * 2 ^ 16 + 2 ^ 31), s)
    | none => s.draw

/-- MXROW (R271). -/
def execMxrow (x : Opnds) (s : State) : Host.Outcome State Fault Refusal :=
  issueX s x fun c => c.wholeStrand <| c.withTile s x.a.rawNum 2 fun t =>
    let (v, s) := c.rowWord s t x.a.rawNum
    c.toS s x.d.snum v

/-- MXROW.flags (R269). -/
def execMxrowFlags (x : Opnds) (s : State) : Host.Outcome State Fault Refusal :=
  issueX s x fun c => c.wholeStrand <| c.withTile s x.a.rawNum 2 fun t => c.tileDeliver s x.a.rawNum <|
    if c.st.ops.any fun o => (o.tile == some x.a.rawNum || o.sentOf == some x.a.rawNum) && !o.done then .wait s .tileDependence
    else c.toS s x.d.snum (t.flags.setWidth 64)

/-- MXSHP.q (R258, R401). -/
def execMxshpQ (x : Opnds) (s : State) : Host.Outcome State Fault Refusal :=
  issueX s x fun c => c.wholeStrand <| c.known s x [(x.a, true)] fun offs =>
    let h : Word := ((offs.getD 0 (.u 0)).at 0).setWidth 32
    c.withRec s h .read fun s a =>
      if s.recGen c.st.part a ≠ handleGen h then c.trapWhole 0x07 2
      else c.toS s x.d.snum (.ofNat 64 (s.vread c.st.part (a + 8) 4 + s.vread c.st.part (a + 12) 4 * 2 ^ 32))

/-- MXSHP.gen (R258). -/
def execMxshpGen (x : Opnds) (s : State) : Host.Outcome State Fault Refusal :=
  issueX s x fun c => c.wholeStrand <| c.known s x [(x.a, true)] fun offs =>
    let h : Word := ((offs.getD 0 (.u 0)).at 0).setWidth 32
    c.withRec s h .write fun s a =>
      if c.st.busy x.d true then .wait s .scoreboard
      else
        let gen := (s.recGen c.st.part a + 1) % 4096
        let old := s.vread c.st.part (a + 22) 2
        let s := s.vwrite c.st.part (a + 22) 2 (old / 4096 * 4096 + gen)
        .done (s.putRegs c (c.regs.setS x.d.snum ((mkHandle (handleSlot h) gen).setWidth 64)))

end Sys2Proof.Machine
end

