-- ==== Sys2Proof/Machine/Cpy.lean ====
section
/-! DEFINITION. CPY (R241 to R245): the issue of copies and swaps. They perform at their own events (EngineEv.lean). -/

namespace Sys2Proof.Machine

open Sys2Proof

/-- A signed 32-bit field. -/
def int32 (n : Nat) : Int := (BitVec.ofNat 32 n).toInt

/-- Is a range of addresses, rows included, inside its space (R406)? -/
def Ic.copyRange (c : Ic) (s : State) (sp : Space) (a : DWord) (n rows : Nat) (stride : Int) : Bool :=
  if n = 0 then true
  else
    let far : Int := (rows - 1 : Nat) * stride
    let lo : Int := (a.toNat : Int) + min 0 far
    let hi : Int := (a.toNat : Int) + max 0 far + n
    match sp with
    | .global => decide (0 ≤ lo ∧ hi ≤ 2 ^ 57)
    | .spad => decide (0 ≤ lo ∧ hi ≤ s.spadBytes c.st.wg)
    | .vault => decide (a.toNat < 2 ^ 30 ∧ lo / 2 ^ 22 = a.toNat / 2 ^ 22 ∧ (hi - 1) / 2 ^ 22 = a.toNat / 2 ^ 22)

/-- The sync word of a copy: C names none when it is 1704 (R241). -/
def copySync (x : Opnds) (v : DWord) : Option SyncRef :=
  match x.c with | .zero => none | _ => some { space := spaceOf x.xs, addr := v }

/-- Is a sync word misaligned (R406)? -/
def syncMis (r : Option SyncRef) : Bool := match r with | some r => r.addr.toNat % 8 != 0 | none => false

/-- Queue a copy in the CP class. -/
def Ic.cpIssue (c : Ic) (s : State) (b : OpBody) : Act :=
  if c.st.full .cp then .wait s .counterWait else .done (s.addRecOp c.key (c.newOp .cp b 0 0))

/-- CPY (R242). -/
def execCpy (x : Opnds) (s : State) : Host.Outcome State Fault Refusal :=
  issueX s x fun c => c.wholeStrand <| c.known s x [(x.d, true), (x.a, true), (x.b, true), (x.c, true)] fun offs =>
    let v (i : Nat) : DWord := (offs.getD i (.u 0)).at 0
    let n := (v 2).toNat % 2 ^ 32
    let (ds, ss) := (spaceOf (x.sel % 4), spaceOf (x.sel / 4))
    let sync := copySync x (v 3)
    if !c.copyRange s ds (v 0) n 1 0 then c.trapWhole 0x06 1
    else if !c.copyRange s ss (v 1) n 1 0 then c.trapWhole 0x06 2
    else if syncMis sync then c.trapWhole 0x05 4
    else c.cpIssue s (.copy { dstSpace := ds, dst := v 0, srcSpace := ss, src := v 1, rowBytes := n, rows := 1, dstStride := 0,
                              srcStride := 0, recv := [], multi := false, sync := sync, written := 0 })

/-- CPY2D (R242). -/
def execCpy2d (x : Opnds) (s : State) : Host.Outcome State Fault Refusal :=
  issueX s x fun c => c.wholeStrand <|
    c.known s x ([(x.d, true), (x.a, true)] ++ pairOps x.b ++ [(x.c, true)]) fun offs =>
      let v (i : Nat) : DWord := (offs.getD i (.u 0)).at 0
      let (rb, rows) := ((v 2).toNat % 2 ^ 32, (v 2).toNat / 2 ^ 32)
      let (sd, ss') := (int32 ((v 3).toNat % 2 ^ 32), int32 ((v 3).toNat / 2 ^ 32))
      let (ds, ss) := (spaceOf (x.sel % 4), spaceOf (x.sel / 4))
      let sync := copySync x (v 4)
      if rb = 0 ∨ 2 ^ 31 < rb ∨ rows = 0 then c.trapWhole 0x06 3
      else if !c.copyRange s ds (v 0) rb rows sd then c.trapWhole 0x06 1
      else if !c.copyRange s ss (v 1) rb rows ss' then c.trapWhole 0x06 2
      else if syncMis sync then c.trapWhole 0x05 4
      else c.cpIssue s (.copy { dstSpace := ds, dst := v 0, srcSpace := ss, src := v 1, rowBytes := rb, rows := rows
                                dstStride := sd, srcStride := ss', recv := [], multi := false, sync := sync, written := 0 })

/-- The workgroups of a source resident on a core (R243): its home, or a core that holds one of its strands. -/
def State.residentOn (s : State) (source core : Nat) : List (Nat × Wg) :=
  s.wgs.filter fun e => e.2.source == source && (e.2.phase == .running || e.2.phase == .restoring)
    && e.2.strands.any fun k => decide (coreOf k = core)

/-- CPYM (R243, R406). -/
def execCpym (x : Opnds) (s : State) : Host.Outcome State Fault Refusal :=
  issueX s x fun c => c.wholeStrand <| c.known s x [(x.d, true), (x.a, true), (x.b, true), (x.c, true)] fun offs =>
    let v (i : Nat) : DWord := (offs.getD i (.u 0)).at 0
    let n := (v 2).toNat % 2 ^ 32
    let (ds, ss) := (spaceOf (x.sel % 4), spaceOf (x.sel / 4))
    let sync := copySync x (v 3)
    let mask := (v 0).toNat / 2 ^ 56
    let off := (v 0).toNat % 2 ^ 22
    let cl := clusterOf (coreOf c.key)
    let source := match s.wg? c.st.wg with | some w => w.source | none => 0
    let cores := ((List.range 8).filter fun i => mask.testBit i).map fun i => cl * 8 + i
    let recv := cores.map fun k => (k, s.residentOn source k)
    if mask = 0 ∨ ds = .global ∨ (recv.any fun e => decide (e.2.length ≠ 1)) = true then c.trapWhole 0x06 1
    else
      let base (e : Nat × List (Nat × Wg)) : Nat :=
        match ds, e.2 with | .vault, _ => e.1 * Config.vaultBytes | _, w :: _ => w.2.spadPa 0 | _, [] => 0
      let fits (e : Nat × List (Nat × Wg)) : Bool :=
        match ds, e.2 with
        | .vault, _ => decide (off + n ≤ Config.vaultBytes)
        | _, w :: _ => decide (off + n ≤ w.2.kernel.spad)
        | _, [] => false
      if n ≠ 0 && !recv.all fits then c.trapWhole 0x06 1
      else if !c.copyRange s ss (v 1) n 1 0 then c.trapWhole 0x06 2
      else if syncMis sync then c.trapWhole 0x05 4
      else c.cpIssue s (.copy { dstSpace := ds, dst := .ofNat 64 off, srcSpace := ss, src := v 1, rowBytes := n, rows := 1
                                dstStride := 0, srcStride := 0, recv := recv.map fun e => (e.1, base e, false), multi := true
                                wgs := recv.filterMap fun e => e.2.head?.map (·.1)
                                sync := sync, written := 0 })

/-- A translation register whose page overlaps [lo, hi) without its direct path (R113). -/
def TReg.undirect (t : TReg) (lo hi : Nat) : TReg :=
  let n := pageBytes t.size.toNat
  let p := t.base.toNat / n * n
  if t.valid ∧ p < hi ∧ lo < p + n then { t with direct := false } else t

/-- The translation registers of a strand after a TLBINV or a swap of [lo, hi) (R113). -/
def Strand.undirect (st : Strand) (lo hi : Nat) : Strand :=
  st.onCtx fun c => { c with regs := { c.regs with t := c.regs.t.map fun r => (r.1, r.2.undirect lo hi) } }

/-- The translation registers of a partition lose their direct path on an overlapping page (R113). -/
def State.clearDirect (s : State) (part lo hi : Nat) : State :=
  { s with strands := s.strands.map fun (e : Nat × Strand) =>
      if e.2.part == part then (e.1, e.2.undirect lo hi) else e }

/-- Is the frame of a leaf whole in main memory, as the near frame of an exchange is (R127)? -/
def nearLeaf (e : DWord) : Bool := !leafFar e

/-- SWAPF (R245, R406, R415). -/
def execSwapf (x : Opnds) (s : State) : Host.Outcome State Fault Refusal :=
  issueX s x fun c => c.privileged <| c.wholeStrand <|
    c.known s x [(x.a, true), (x.b, true), (x.c, true)] fun offs =>
      let v (i : Nat) : DWord := (offs.getD i (.u 0)).at 0
      let part := c.st.part
      let sync := copySync x (v 2)
      let far (d : DWord) : Bool := decide (2 ^ 57 ≤ d.toNat)
      if far (v 0) ∨ far (v 1) then c.trapWhole 0x06 2
      else
        match s.walk part .read (v 0).toNat, s.walk part .read (v 1).toNat with
        | .ok a, .ok b =>
          if a.size ≠ b.size ∨ leafFmt a.leaf ≠ leafFmt b.leaf ∨ !nearLeaf a.leaf ∨ nearLeaf b.leaf then c.trapWhole 0x06 2
          else if syncMis sync then c.trapWhole 0x05 4
          else if c.st.full .cp then .wait s .counterWait
          else if leafSwp a.leaf ∨ leafSwp b.leaf ∨ (s.dieSt (dieOf (coreOf c.key))).swap.isSome then .wait s .copy
          else
            let n := pageBytes a.size
            let (lo, hi) := ((v 0).toNat / n * n, (v 1).toNat / n * n)
            let setSwp (s : State) (l : LeafAt) : State :=
              s.store .flostra l.ent 8 ((s.load .flostra l.ent 8) ||| 0x1000)
            let s := (setSwp (setSwp s a) b).clearDirect part lo (lo + n)
            let s := s.clearDirect part hi (hi + n)
            let o := c.newOp .cp (.swap (.ofNat 64 lo) (.ofNat 64 hi) sync) 0 0
            let sw : Swap :=
              { part := part, near := leafFrame a.leaf, far := leafFrame b.leaf, nearVa := lo, farVa := hi, sync := sync
                wg := c.st.wg, strand := c.key, op := o.id
                sectors := frameBytes a.size (leafFmt a.leaf) / 4096, at_ := 0
                nearEnt := a.ent, farEnt := b.ent, nearLeaf := a.leaf, farLeaf := b.leaf
                recNo := (s.core (coreOf c.key)).opNext }
            .done ((s.addRecOp c.key o).onDie (dieOf (coreOf c.key)) fun d => { d with swap := some sw })
        | _, _ => c.trapWhole 0x06 2

end Sys2Proof.Machine
end

