-- ==== Sys2Proof/Machine/Res.lean ====
section
/-! DEFINITION. Resources of a workgroup: the buddy allocator (R95), strand slots, scratchpad and vault runs, region
control block nodes (R53, R54, R290 to R292), placement (R37) and the grant of a strand (R25, R27, R88, R370). -/

namespace Sys2Proof.Machine

open Sys2Proof

/-! ## The buddy allocator (R95) -/

/-- The upper halves that cutting a block down to n slots frees. -/
def buddyHalves : Nat → Nat → Nat → Nat → List (Nat × Nat)
  | 0, _, _, _ => []
  | fuel + 1, b, size, n => if size ≤ n then [] else (b + size / 2, size / 2) :: buddyHalves fuel b (size / 2) n

/-- The better of two blocks: the smaller, then the lower start. -/
def buddyBest (a b : Nat × Nat) : Nat × Nat :=
  if b.2 < a.2 ∨ (b.2 = a.2 ∧ b.1 < a.1) then b else a

/-- Grant n slots from the free blocks: the block's start and the free blocks left. -/
def buddyGrant (free : List (Nat × Nat)) (n : Nat) : Option (Nat × List (Nat × Nat)) :=
  match free.filter fun b => decide (n ≤ b.2) with
  | [] => none
  | b :: t =>
    let x := t.foldl buddyBest b
    some (x.1, (buddyHalves 11 x.1 x.2 n).foldl (fun l h => mapIns h.1 h.2 l) (mapErase x.1 free))

/-- Release a block: it merges with its free buddies. -/
def buddyRelease : Nat → List (Nat × Nat) → Nat → Nat → List (Nat × Nat)
  | 0, free, b, size => mapIns b size free
  | fuel + 1, free, b, size =>
    let mate := if b / size % 2 = 0 then b + size else b - size
    if size < 1024 ∧ mapFind free mate = some size then
      buddyRelease fuel (mapErase mate free) (min b mate) (2 * size)
    else mapIns b size free

/-! ## Granting strands -/

/-- The context of a strand at grant (R27, R88, R42, R65, R370). -/
def Ctx.atGrant (entry : VAddr) (trapvec : DWord) : Ctx :=
  { regs := Regs.empty
    splits := [{ Split.empty with st := .ready, pc := entry, mask := fullMask }, Split.empty, Split.empty, Split.empty]
    stack := [], mode := 1, gang := 0xFFFFFFFFFFFFFFF, tcause := 0, tpc := 0, tinfo := 0
    tvec := if trapvec.getLsbD 0 then trapvec else 0, spillp := 0, dbgmb := 0, tmask := 0 }

/-- A strand at grant (R25, R88). -/
def Strand.atGrant (key part wg idx logG block clock : Nat) (ctx : Ctx) : Strand :=
  { phase := .granted, part := part, wg := wg, idx := idx, logG := logG, block := block, ctx := ctx, savep := 0
    gangSeq := 0, name := key, last := 3, hold := none, atEntry := none, loaded := none, syms := [], ops := [], opNext := 0, due := []
    batch := 0, closed := [], tiles := [], halted := false, granted := clock, lastIssue := clock, watch := 0, watchOff := false
    reply := none }

/-- The strand slots of a quarter that no workgroup holds (R40, R444), by key. -/
def State.freeSlots (s : State) (q : Nat) : List Nat :=
  ((List.range 32).map fun i => 32 * q + i).filter fun k => (s.strand? k).isNone && !s.wgs.any fun w => w.2.slots.contains k

/-- The aligned free blocks of what is left of 1024 slots (R95). -/
def freeBlocks (taken : List (Nat × Nat)) : Nat → Nat → Nat → List (Nat × Nat)
  | 0, _, _ => []
  | fuel + 1, b, size =>
    if taken.all fun t => decide (t.1 + t.2 ≤ b ∨ b + size ≤ t.1) then [(b, size)]
    else if size ≤ 8 then []
    else freeBlocks taken fuel b (size / 2) ++ freeBlocks taken fuel (b + size / 2) (size / 2)

/-- Blocks held in a quarter: those of resident strands and those that drain. -/
def State.heldBlocks (s : State) (q : Nat) : List (Nat × Nat) :=
  (s.residents q).map (fun e => (e.2.block, 2 ^ e.2.logG)) ++ (s.quarter q).draining.map fun d => (d.1, d.2.1)

/-- The free blocks of a quarter: while blocks of it are being moved, what neither they nor their new places hold (R95, R97). -/
def State.freeIn (s : State) (q : Nat) : List (Nat × Nat) :=
  let x := s.quarter q
  if x.moves.isEmpty then x.free
  else
    let places := x.moves.filterMap fun m => (s.strand? m.1).map fun st => (m.2, 2 ^ st.logG)
    (freeBlocks (s.heldBlocks q ++ places) 8 0 1024).foldl (fun l b => mapIns b.1 b.2 l) []

/-- The quarter of a core that takes the next strand (R37): the fewest resident strands, then the lowest number. -/
def State.pickQuarter (s : State) (core logG : Nat) : Option Nat :=
  let able := ((List.range 4).map fun i => 4 * core + i).filter fun q =>
    !(s.freeSlots q).isEmpty && (buddyGrant (s.freeIn q) (2 ^ logG)).isSome
  match able with
  | [] => none
  | q :: t => some (t.foldl (fun b x => if (s.residents x).length < (s.residents b).length then x else b) q)

/-- Grant strand `idx` of a workgroup on a core: the lowest free strand slot (assumption 23) and a block (R95). -/
def State.grantStrand (s : State) (core part wg idx logG : Nat) (ctx : Ctx) : Option (State × Nat) :=
  match s.pickQuarter core logG with
  | none => none
  | some q =>
    match (s.freeSlots q).head?, buddyGrant (s.freeIn q) (2 ^ logG) with
    | some key, some (b, free) =>
      some ((s.onQuarter q fun x => { x with free := free }).setStrand key
        (Strand.atGrant key part wg idx logG b s.clock.toNat ctx), key)
    | _, _ => none

/-- Seat as many of the strands as a core takes, in ascending index (R37): the state, their keys, the indices left. -/
def State.seatMany (s : State) (core part wg logG : Nat) (ctx : Ctx) : List Nat → State × List Nat × List Nat
  | [] => (s, [], [])
  | i :: t =>
    match s.grantStrand core part wg i logG ctx with
    | none => (s, [], i :: t)
    | some (s', key) => let r := s'.seatMany core part wg logG ctx t; (r.1, key :: r.2.1, r.2.2)

/-- Resident strands of a core. -/
def State.coreResidents (s : State) (core : Nat) : Nat := (s.strands.filter fun e => decide (coreOf e.1 = core)).length

/-- May a partition's work be placed on a core (R294, R336, R348, R386)? -/
def State.usable (s : State) (part core : Nat) : Bool :=
  (s.part part).hasCore core && !(s.core core).quarantined && !(s.core core).clearing

/-- The cores of a die that a partition may use. -/
def State.usableCores (s : State) (part die : Nat) : List Nat :=
  ((List.range 96).map fun c => 96 * die + c).filter fun c => s.usable part c

/-- Insert a core into a list ordered by fewest resident strands, then lowest number. -/
def State.insCore (s : State) (c : Nat) : List Nat → List Nat
  | [] => [c]
  | d :: t =>
    if s.coreResidents c < s.coreResidents d ∨ (s.coreResidents c = s.coreResidents d ∧ c < d) then c :: d :: t
    else d :: s.insCore c t

/-- Cores by fewest resident strands, then lowest number (R296). -/
def State.byLoad (s : State) (l : List Nat) : List Nat := l.foldr (fun c acc => s.insCore c acc) []

/-- Seat the strands left on further cores: the home core takes as many as it can, then the core whose room freed and each other
core of the cluster in the order of load at the placement's start (R296, assumption 108). -/
def State.seatRest (s : State) (part wg logG : Nat) (ctx : Ctx) : List Nat → List Nat → State × List Nat × List Nat
  | _, [] => (s, [], [])
  | [], left => (s, [], left)
  | c :: cs, left =>
    let r := s.seatMany c part wg logG ctx left
    let q := r.1.seatRest part wg logG ctx cs r.2.2
    (q.1, r.2.1 ++ q.2.1, q.2.2)

/-! ## Scratchpad and vault runs -/

/-- The lowest start at which n bytes fit among taken runs, below a limit; the starts tried are 0 and the runs' ends
(assumption 23). -/
def firstFit (taken : List (Nat × Nat)) (n limit : Nat) : Option Nat :=
  let free (a : Nat) : Bool := decide (a + n ≤ limit) && taken.all fun t => decide (t.1 + t.2 ≤ a ∨ a + n ≤ t.1)
  let starts := sortNats (0 :: taken.map fun t => t.1 + t.2)
  if n = 0 then some 0 else starts.find? free

/-- Does a workgroup hold its cores: it is not saved? -/
def Wg.resident (w : Wg) : Bool := w.phase != .saved

/-- Scratchpad runs taken on a core. -/
def State.spadRuns (s : State) (core : Nat) : List (Nat × Nat) :=
  (s.wgs.filter fun e => e.2.resident && e.2.home == core).map fun e => (e.2.spadBase, e.2.kernel.spad)

/-- Vault runs taken above a core, of resident and saved workgroups (R438, R444). -/
def State.vaultRuns (s : State) (core : Nat) : List (Nat × Nat) :=
  (s.wgs.filter fun e => e.2.kernel.vault != 0 && vaultCore e.2.vaultAddr == core).map fun e =>
    (e.2.vaultAddr % 2 ^ 22, e.2.kernel.vault)

/-! ## Region control block nodes -/

/-- Address of a node (R290). -/
def State.rcbAddr (s : State) (part n : Nat) : Nat := (s.part part).vbase 10 + 256 * n

/-- A field of a node. -/
def State.rcb (s : State) (part n off size : Nat) : Nat := s.vread part (s.rcbAddr part n + off) size

/-- LEVEL of a node (R290). -/
def State.rcbLevel (s : State) (part n : Nat) : Nat := s.rcb part n 0 1 % 4

/-- A node and its ancestors up to the root (R53). -/
def State.rcbPath (s : State) (part : Nat) : Nat → Nat → List Nat
  | 0, n => [n]
  | fuel + 1, n =>
    let p := s.rcb part n 4 4
    if s.rcbLevel part n = 0 ∨ p = 0xFFFFFFFF then [n] else n :: s.rcbPath part fuel p

/-- The path of a node (R53: four levels). -/
def State.rcbNodes (s : State) (part n : Nat) : List Nat := s.rcbPath part 3 n

/-- The effective value of a field with inherit bit `bit` (R53, R291). -/
def State.rcbEff (s : State) (part off size bit : Nat) : Nat → Nat → Nat
  | 0, n => s.rcb part n off size
  | fuel + 1, n =>
    let p := s.rcb part n 4 4
    if s.rcbLevel part n ≠ 0 ∧ (s.rcb part n 2 2).testBit bit ∧ p ≠ 0xFFFFFFFF then s.rcbEff part off size bit fuel p
    else s.rcb part n off size

/-- Effective core-cycles per period; 0 is no limit. -/
def State.effCycles (s : State) (part n : Nat) : Nat := s.rcbEff part 8 8 0 3 n
/-- Effective priority (R54). -/
def State.effPrio (s : State) (part n : Nat) : Nat := s.rcbEff part 18 1 5 3 n % 16
/-- Effective fault domain (R54). -/
def State.effDomain (s : State) (part n : Nat) : Nat := s.rcbEff part 20 2 6 3 n

/-- Resident workgroups under a node. -/
def State.wgsUnder (s : State) (part n : Nat) : List Wg :=
  ((s.wgs.filter fun e => e.2.part == part && e.2.resident && (s.rcbNodes part e.2.rcb).contains n).map (·.2))

/-- Use of a node: cores, register slots, scratchpad bytes, vault bytes (R53, R291). -/
def State.nodeUse (s : State) (part n : Nat) : Nat × Nat × Nat × Nat :=
  let ws := s.wgsUnder part n
  let sum (f : Wg → Nat) : Nat := ws.foldl (fun a w => a + f w) 0
  ((ws.flatMap fun w => w.home :: w.slots.map coreOf).eraseDups.length, sum fun w => w.strands.length * 2 ^ w.kernel.logG,
    sum fun w => w.kernel.spad, sum fun w => w.kernel.vault)

/-- Balance of a node (R290, R292). -/
def State.balance (s : State) (part n : Nat) : Int := (BitVec.ofNat 64 (s.rcb part n 128 8)).toInt

/-- Does a node's use stay within its effective limits (R54)? -/
def State.withinLimits (s : State) (part n : Nat) : Bool :=
  let (cores, slots, spad, vault) := s.nodeUse part n
  decide (cores ≤ s.rcbEff part 16 2 1 3 n ∧ slots ≤ s.rcbEff part 24 4 2 3 n ∧ spad ≤ s.rcbEff part 32 8 3 3 n
    ∧ vault ≤ s.rcbEff part 40 8 4 3 n)

/-- Is a node's period balance positive, or has it no balance check (R54, R292)? -/
def State.solvent (s : State) (part n : Nat) : Bool := s.effCycles part n == 0 || decide (0 < s.balance part n)

/-- Look at a node's VALID: the count of core-cycles charged begins anew when the node becomes valid (R290; the device sees
VALID where it maintains the node, assumption 109). -/
def State.seeNode (s : State) (part n : Nat) : State :=
  let known := (s.part part).valid.contains n
  match s.rcb part n 1 1 % 2 == 1, known with
  | true, false => (s.vwrite part (s.rcbAddr part n + 160) 8 0).onPart part fun p => { p with valid := n :: p.valid }
  | false, true => s.onPart part fun p => { p with valid := p.valid.erase n }
  | _, _ => s

/-- Write the use of the nodes of a path into their D fields (R290). -/
def State.writeUse (s : State) (part n : Nat) : State :=
  (s.rcbNodes part n).foldl (fun s k =>
    let s := s.seeNode part k
    let a := s.rcbAddr part k
    let (cores, slots, spad, vault) := s.nodeUse part k
    (((s.vwrite part (a + 136) 2 cores).vwrite part (a + 140) 4 slots).vwrite part (a + 144) 8 spad).vwrite part (a + 152) 8 vault) s

/-- Charge core-cycles to every node of a path (R292). -/
def State.chargeNodes (s : State) (part n c : Nat) : State :=
  (s.rcbNodes part n).foldl (fun s k =>
    let s := s.seeNode part k
    let a := s.rcbAddr part k
    let b := s.balance part k - c
    (s.vwrite part (a + 128) 8 (BitVec.ofInt 64 b).toNat).vwrite part (a + 160) 8 (s.rcb part k 160 8 + c)) s

/-! ## Placement (R37) -/

/-- Where a workgroup is placed: a new one of a source, or a saved one (R439). -/
structure Seat where
  part : Nat
  wg : Nat
  kernel : Kernel
  rcb : Nat
  ctx : Ctx
  /-- strand indices to seat. -/
  idxs : List Nat
  /-- the cluster a saved record names, where it must return to it (R439). -/
  cluster : Option Nat
  /-- a saved workgroup keeps its vault allocation (R438). -/
  keepVault : Bool
  /-- the core whose room freed (R296). -/
  freed : Option Nat := none
deriving DecidableEq, Repr

/-- Cores with the one whose room freed first, where it is among them (R296). -/
def freedFirst (freed : Option Nat) (l : List Nat) : List Nat :=
  match freed with
  | some c => if l.contains c then c :: l.erase c else l
  | none => l

/-- Seat a workgroup with a home core: whole on it, or spread over its cluster when `spread` allows: the state, the keys
and the scratchpad's and vault's starts. -/
def State.seatAt (s : State) (x : Seat) (home : Nat) (spread : Bool) : Option (State × List Nat × Nat × Nat) :=
  let clusterOk := match x.cluster with | some k => clusterOf home == k | none => true
  let spad := firstFit (s.spadRuns home) x.kernel.spad Config.spadBytes
  let vault := if x.keepVault then some 0 else firstFit (s.vaultRuns home) x.kernel.vault Config.vaultBytes
  if !s.usable x.part home || !clusterOk then none
  else
    match spad, vault with
    | some b, some v =>
      let r := s.seatMany home x.part x.wg x.kernel.logG x.ctx x.idxs
      if r.2.2.isEmpty then some (r.1, r.2.1, b, v)
      else if !spread || r.2.1.isEmpty then none
      else
        let others := ((List.range 8).map fun i => clusterOf home * 8 + i).filter fun c => c != home && s.usable x.part c
        let q := r.1.seatRest x.part x.wg x.kernel.logG x.ctx (freedFirst x.freed (s.byLoad others)) r.2.2
        if q.2.2.isEmpty then some (q.1, r.2.1 ++ q.2.1, b, v) else none
    | _, _ => none

/-- Does a single core of the partition hold the whole workgroup (R37)? -/
def State.fitsWhole (s : State) (x : Seat) : Bool :=
  (s.usableCores x.part 0 ++ s.usableCores x.part 1).any fun c => (s.seatAt x c false).isSome

/-- Seat a workgroup at a home core: spread only where no single core of the partition holds it (R37). -/
def State.seat (s : State) (x : Seat) (home : Nat) : Option (State × List Nat × Nat × Nat) :=
  match s.seatAt x home false with
  | some r => some r
  | none => if s.fitsWhole x then none else s.seatAt x home true

/-- The home cores of a die on which a workgroup can be placed (R303 FIT). -/
def State.homes (s : State) (x : Seat) (die : Nat) : List Nat :=
  (s.usableCores x.part die).filter fun c => (s.seat x c).isSome

/-- Place a workgroup by the order of R296: the core whose room freed, a fitting core of the hinted die, the fitting core
with the fewest resident strands. -/
def State.fallbackPlace (s : State) (x : Seat) (core : Option Nat) (hint : Nat) : Option Nat :=
  let freed := match core with | some c => if (s.seat x c).isSome then some c else none | none => none
  let hinted := if hint = 1 then s.homes x 0 else if hint = 2 then s.homes x 1 else []
  match freed, (s.byLoad hinted).head? with
  | some c, _ => some c
  | none, some c => some c
  | none, none => (s.byLoad (s.homes x 0 ++ s.homes x 1)).head?

end Sys2Proof.Machine
end

