-- ==== Sys2Proof/Machine/Queue.lean ====
section
/-! DEFINITION. User queues and their notify registers (R275 to R280, R450), records of class SCHED (R447), work lists
(R48 to R52), kernel descriptors (R160) and packets as the processor reads them (R281 to R285, R448). -/

namespace Sys2Proof.Machine

open Sys2Proof

/-! ## Queues -/

/-- QFIRST of a partition (R338). -/
def Part.qfirst (p : Part) : Nat := bitsOf (p.reg 6) 11 0
/-- QCOUNT of a partition (R338). -/
def Part.qcount (p : Part) : Nat := bitsOf (p.reg 6) 27 16
/-- Does a partition own a queue (R334)? -/
def Part.ownsQueue (p : Part) (q : Nat) : Bool := decide (p.qfirst ≤ q ∧ q < p.qfirst + p.qcount ∧ q < 4096)
/-- The partition of a queue. -/
def State.partOfQueue (s : State) (q : Nat) : Option Nat := (s.parts.find? fun e => e.2.ownsQueue q).map (·.1)
/-- Is a partition live (R340)? -/
def Part.live (p : Part) : Bool := (List.range 192).any p.holds

/-- Address of a queue descriptor (R275). -/
def State.qAddr (s : State) (part q : Nat) : Nat := (s.part part).vbase 9 + 64 * q
/-- A field of a queue descriptor (R275). -/
def State.qf (s : State) (part q off n : Nat) : Nat := s.vread part (s.qAddr part q + off) n
/-- Write a field of a queue descriptor. -/
def State.setQf (s : State) (part q off n v : Nat) : State := s.vwrite part (s.qAddr part q + off) n v

/-- May a queue take notify writes (R279): enabled, and its fields in range? -/
def State.queueOk (s : State) (part q : Nat) : Bool :=
  let log := s.qf part q 8 1
  let quantum := s.qf part q 16 8
  s.qf part q 9 1 % 2 == 1 && s.qf part q 0 8 % 4096 == 0 && decide (4 ≤ log ∧ log ≤ 16)
    && decide (1 ≤ quantum ∧ quantum ≤ 2 ^ 40) && s.qf part q 9 1 / 2 == 0 && s.qf part q 10 1 / 2 == 0
    && s.qf part q 11 1 == 0 && s.qf part q 12 4 == 0 && s.qf part q 48 8 == 0 && s.qf part q 56 8 == 0

/-- The die whose packet processor serves a queue (R275). -/
def State.qDie (s : State) (part q : Nat) : Nat := s.qf part q 10 1 % 2

/-- The deficit of a queue (R275, R295). -/
def State.deficit (s : State) (part q : Nat) : Int := (BitVec.ofNat 64 (s.qf part q 32 8)).toInt
/-- Set a deficit, saturating (R275). -/
def State.setDeficit (s : State) (part q : Nat) (d : Int) : State :=
  s.setQf part q 32 8 (BitVec.ofInt 64 (max (-(2 ^ 63)) (min (2 ^ 63 - 1) d))).toNat

/-- A record of class SCHED (R447). -/
def schedRec (sub detail queue idx value : Nat) (addr : DWord) : Rec :=
  { plainRec 0x08 sub addr with
    mask := .ofNat 256 (detail % 256 + queue % 2 ^ 16 * 2 ^ 32 + idx % 2 ^ 32 * 2 ^ 64 + value % 2 ^ 64 * 2 ^ 128) }

/-- A write of WIDX to a queue's notify register (R278, R279, R450). -/
def State.notify (s : State) (part q : Nat) (w : Word) : State :=
  let ignored (s : State) (detail c : Nat) : State := s.postRec part (schedRec 0x02 detail q c w.toNat 0)
  if !(s.part part).ownsQueue q then ignored s 2 0
  else
    let s := s.seen part (s.qAddr part q) 64
    let c : Word := .ofNat 32 (s.qf part q 28 4)
    let r : Word := .ofNat 32 (s.qf part q 24 4)
    if !s.queueOk part q then ignored s 3 c.toNat
    else if w = c then s
    else if (w - r).toNat ≤ 2 ^ s.qf part q 8 1 then s.setQf part q 28 4 w.toNat
    else ignored s 1 c.toNat

/-! ## Work lists (R49) -/

/-- The pipeline a strand's workgroup belongs to, with its stage. -/
def State.pipeOf (s : State) (wg : Nat) : Option (Nat × Pipe × Nat) :=
  match s.wg? wg with
  | none => none
  | some w =>
    match s.source? w.source with
    | none => none
    | some src =>
      match src.pipe with
      | none => none
      | some k => (mapFind s.pipes k).map fun p => (k, p, w.kernel.stage.getD 0)

/-- Words of an item (R49, R246). -/
def State.itemWords (s : State) (part l : Nat) : Nat := 2 ^ (s.vread part (l + 12) 1 % 8)
/-- Capacity in items. -/
def State.listCap (s : State) (part l : Nat) : Nat := s.vread part (l + 8) 4
/-- Head: items taken. -/
def State.listHead (s : State) (part l : Nat) : Nat := s.vread part (l + 16) 8
/-- Tail: items appended. -/
def State.listTail (s : State) (part l : Nat) : Nat := s.vread part (l + 24) 8
/-- Items a list holds. -/
def State.listCount (s : State) (part l : Nat) : Nat :=
  (BitVec.ofNat 64 (s.listTail part l) - BitVec.ofNat 64 (s.listHead part l)).toNat
/-- The stage that takes from a list. -/
def State.listStage (s : State) (part l : Nat) : Nat := s.vread part (l + 13) 1
/-- Address of an item of a list. -/
def State.itemAddr (s : State) (part l i : Nat) : Nat :=
  s.vread part l 8 + i % max 1 (s.listCap part l) * (4 * s.itemWords part l)
/-- Is a work-list descriptor within R49? -/
def State.listOk (s : State) (part l : Nat) : Bool :=
  let cap := s.listCap part l
  let size := s.vread part (l + 12) 1
  decide (size ≤ 4) && decide (s.vread part l 8 % (4 * 2 ^ (size % 8)) = 0)
    && ((List.range 19).any fun i => cap == 2 ^ (i + 6)) && decide (s.listStage part l ≤ 7)

/-- Items in a stage's input lists (R51). -/
def State.stageItems (s : State) (p : Pipe) (stage : Nat) : Nat :=
  (p.lists.filter fun l => s.listStage p.part l.toNat == stage).foldl (fun a l => a + s.listCount p.part l.toNat) 0

/-- Is a list at least three-quarters full (R51)? -/
def State.listFull (s : State) (part l : Nat) : Bool := decide (3 * s.listCap part l ≤ 4 * s.listCount part l)

/-- Is a stage blocked (R51): a list it has appended to is three-quarters full? -/
def State.stageBlocked (s : State) (p : Pipe) (stage : Nat) : Bool :=
  p.appends.any fun e => e.1 == stage && s.listFull p.part e.2.toNat

/-- Let the splits that wait at TAKE on the lists that satisfy a test try again. -/
def State.wakeTakes (s : State) (part : Nat) (f : Nat → Strand → Bool) : State :=
  { s with strands := s.strands.map fun (e : Nat × Strand) =>
      if e.2.part == part then
        (e.1, e.2.onCtx fun c => { c with splits := c.splits.map fun p =>
          match p.bar with
          | some (.take l) => if p.st == .barrier && f l e.2 then p.wakeBar else p
          | _ => p })
      else e }

/-! ## Kernel descriptors (R160) -/

/-- Read a kernel descriptor; none where a field is outside R160. -/
def State.readKernel (s : State) (part a : Nat) : Option Kernel :=
  let rd (o n : Nat) : Nat := s.vread part (a + o) n
  let entry := rd 0 8 % 2 ^ 57
  let flags := rd 20 2
  let stage := flags / 2 % 2 == 1
  let die := rd 44 1
  if a % 128 ≠ 0 ∨ entry % 4 ≠ 0 ∨ rd 8 1 = 0 ∨ 8 < rd 8 1 ∨ rd 9 1 < 3 ∨ 10 < rd 9 1 ∨ 128 < rd 10 1
      ∨ 64 < rd 11 1 ∨ rd 12 4 % 4 ≠ 0 ∨ 393216 < rd 12 4 ∨ rd 16 4 % 128 ≠ 0 ∨ 4194304 < rd 16 4 ∨ 7 < rd 22 1
      ∨ (!stage ∧ rd 22 1 ≠ 0) ∨ 3 < die ∨ 32 < rd 45 1 then none
  else some
    { addr := .ofNat 64 a, entry := .ofNat 57 entry, strands := rd 8 1, logG := rd 9 1, scalars := rd 10 1, tiles := rd 11 1
      spad := rd 12 4, vault := rd 16 4, coop := flags % 2 == 1, stage := if stage then some (rd 22 1) else none
      args := rd 24 4, expected := rd 40 4, dieHint := die }

/-! ## Packets -/

/-- Address of packet i of a queue's ring (R275). -/
def State.pktAddr (s : State) (part q i : Nat) : Nat := s.qf part q 0 8 + 64 * (i % 2 ^ s.qf part q 8 1)

/-- A field of a packet: byte offset and size. -/
def QPkt.field (p : QPkt) (off n : Nat) : Nat :=
  (List.range n).foldr (fun i acc =>
    p.words.getD ((off + i) / 4) 0 / 2 ^ (8 * ((off + i) % 4)) % 256 + 256 * acc) 0

/-- TYPE (R281). -/
def QPkt.type (p : QPkt) : Nat := p.field 0 1
/-- RCB node (R282). -/
def QPkt.rcb (p : QPkt) : Nat := p.field 4 4
/-- Grid (R283). -/
def QPkt.grid (p : QPkt) : Nat × Nat × Nat := (p.field 16 4, p.field 20 2, p.field 22 2)

/-- Does a pipeline table lie within R284: the stages' entries in order, each descriptor address, node and cap? -/
def State.pipeStages (s : State) (part a : Nat) : List (Nat × Nat × Nat) :=
  ((List.range 8).map fun i => (s.vread part (a + 16 * i) 8, s.vread part (a + 16 * i + 8) 4, s.vread part (a + 16 * i + 12) 2))

/-- The lists of a pipeline table (R284). -/
def State.pipeLists (s : State) (part a : Nat) : List Nat :=
  ((List.range 16).map fun i => s.vread part (a + 128 + 8 * i) 8).filter fun l => l != 0

/-- The stages present: the leading entries with a descriptor. -/
def stagesOf (l : List (Nat × Nat × Nat)) : List (Nat × Nat × Nat) := l.takeWhile fun e => e.1 != 0

/-- Do n pages from one on translate? A page is 64 KiB or more (R110). -/
def State.pagesOk (s : State) (part : Nat) : Nat → Nat → Bool
  | 0, _ => true
  | n + 1, page => s.vok part .read (page * 65536) && s.pagesOk part n (page + 1)

/-- A structure of n bytes that a packet names translates; address 0 names none (R282). -/
def State.named (s : State) (part : Nat) (e : Nat × Nat) : Bool :=
  e.1 == 0 || e.2 == 0 || (s.vok part .read e.1 && s.pagesOk part ((e.1 + e.2 - 1) / 65536 - e.1 / 65536) (e.1 / 65536 + 1))

/-- The event word's address and mode (R289). -/
def eventMode (w : Nat) : Nat := w % 8
/-- ADDR of an event word (R289). -/
def eventAddr (w : Nat) : Nat := w / 8 % 2 ^ 54 * 8

/-- The kernel descriptors that a packet names. -/
def State.pktKernels (s : State) (p : QPkt) : List Nat :=
  if p.type = 1 then [p.field 8 8]
  else if p.type = 2 then (stagesOf (s.pipeStages p.part (p.field 8 8))).map (·.1) else []

/-- Argument bytes of a packet's kernels (R109, R160). -/
def State.pktArgs (s : State) (p : QPkt) : Nat :=
  (s.pktKernels p).foldl (fun a k => max a (s.vread p.part (k + 24) 4)) 0

/-- The structures a packet names: address and bytes (R281 to R284). -/
def State.pktNames (s : State) (p : QPkt) : List (Nat × Nat) :=
  let (gx, gy, gz) := p.grid
  let ev := p.field 56 8
  let event := match eventMode ev with
    | 1 => [(eventAddr ev, 8)] | 3 => [(eventAddr ev, 8)] | 2 => [(eventAddr ev, 8 * (gx * gy * gz))] | _ => []
  let args := [(p.field 24 8, min (s.pktArgs p) 65472)]
  [(p.field 32 8, 8), (p.field 40 8, 8)] ++
    match p.type with
    | 1 => [(p.field 8 8, 128)] ++ args ++ event
    | 2 => [(p.field 8 8, 256)] ++ (s.pktKernels p).map (fun a => (a, 128))
        ++ (s.pipeLists p.part (p.field 8 8)).map (fun a => (a, 64)) ++ args ++ event
    | 3 => [(p.field 8 8, 8), (p.field 24 8, 8)]
    | 4 => [(p.field 8 8, 8), (p.field 24 8, 8)]
    | 5 => [(p.field 16 8, 8)]
    | _ => []

/-- The first check of R448 that a packet fails: its detail and the failing field's value; `fits` judges whether a number
of workgroups of a kernel fit the empty partition (R47, R448). -/
def State.pktFault (s : State) (p : QPkt) (fits : Kernel → Nat → Bool) : Option (Nat × Nat) :=
  let part := p.part
  let t := p.type
  let work := t = 1 ∨ t = 2
  let desc := p.field 8 8
  let table := s.pipeStages part desc
  let stages := stagesOf table
  let kaddrs := s.pktKernels p
  let node (n lv : Nat) : Bool :=
    s.vok part .read (s.rcbAddr part n) && s.rcb part n 1 1 % 2 == 1 && s.rcbLevel part n == lv
  let ev := p.field 56 8
  let (gx, gy, gz) := p.grid
  let unaligned := ([p.field 32 8, p.field 40 8] ++ if t = 5 then [p.field 16 8] else []).find? fun a => a % 8 != 0
  let badK := kaddrs.find? fun a =>
    match s.readKernel part a with | some k => t == 1 && k.stage.isSome | none => true
  let stageOk (e : (Nat × Nat × Nat) × Nat) : Bool :=
    node e.1.2.1 3 && s.rcb part e.1.2.1 4 4 == p.rcb
      && (match s.readKernel part e.1.1 with | some k => k.stage == some e.2 | none => false)
  let fit (a : Nat) : Bool :=
    match s.readKernel part a with
    | some k => fits k (if k.coop && t == 1 then gx * gy * gz else 1)
    | none => true
  if t = 0 ∨ 5 < t then some (1, t)
  else if p.field 1 1 % 4 = 3 ∨ p.field 1 1 / 4 % 4 = 3 then some (2, 3)
  else
    match (s.pktNames p).find? fun e => !s.named part e with
    | some e => some (3, e.1)
    | none =>
      if work ∧ !node p.rcb 2 then some (4, p.rcb)
      else
        match unaligned, badK with
        | some a, _ => some (5, a)
        | none, some a => some (6, a)
        | none, none =>
          if t = 1 ∧ (gx = 0 ∨ gy = 0 ∨ gz = 0) then some (7, p.field 16 8)
          else if work ∧ (3 < eventMode ev ∨ (t = 2 ∧ eventMode ev = 2)) then some (8, ev)
          else if t = 2 ∧ (desc % 256 ≠ 0 ∨ stages.isEmpty ∨ ((table.drop stages.length).any fun e => e.1 != 0)
              ∨ !(stages.zipIdx.all stageOk) ∨ !((s.pipeLists part desc).all fun l => s.listOk part l)) then some (9, desc)
          else if work ∧ 65472 < s.pktArgs p then some (10, s.pktArgs p)
          else
            match kaddrs.find? fun a => !fit a with
            | some a => some (11, a)
            | none => none

end Sys2Proof.Machine
end

