-- ==== Sys2Proof/Machine/Image.lean ====
section
/-! DEFINITION. The context of a strand as bytes (R35, R105, R106, R112): the image that ESAVE.ctx and a save write, and
the reading of one by ELOAD.ctx. -/

namespace Sys2Proof.Machine

open Sys2Proof

/-- A translation register in 32 bytes (R112). -/
def TReg.fields (t : TReg) : Fields :=
  let bit (b : Bool) (i : Nat) : Nat := if b then 2 ^ i else 0
  [(0, 8, t.base.toNat + bit t.valid 63), (8, 8, t.phys.toNat), (16, 8, t.limit.toNat),
    (24, 8, bit t.w 0 + bit t.far 1 + bit t.nc 2 + t.fmt.toNat * 2 ^ 3 + t.geom.toNat * 2 ^ 7 + t.size.toNat * 2 ^ 11)]

/-- Code of a split state (R105). -/
def SplitSt.code : SplitSt → Nat
  | .free => 0 | .ready => 1 | .joining => 2 | .barrier => 3 | .parked => 4 | .trapped => 5

/-- The forms of a register file in the order of their form records: register, is it a scalar, form. -/
def Regs.formsIn (r : Regs) : List (Nat × Bool × Form) :=
  (r.v.filterMap fun e => match e.2.shape with | .p _ f => if e.2.pairHi then none else some (e.1, false, f) | _ => none)
    ++ r.s.filterMap fun e => match e.2 with | .pend f => some (e.1, true, f) | _ => none

/-- Number of the form record of a register. -/
def Regs.formIdx (r : Regs) (n : Nat) (scalar : Bool) : Nat :=
  ((r.formsIn).findIdx? fun e => e.1 == n && e.2.1 == scalar).getD 0

/-- The words of a slot image: 256 lanes (R105). -/
def slotFields (slot : Nat) (lanes : List Word) : Fields :=
  (lanes.zipIdx).map fun e => (0x1E000 + 1024 * slot + 4 * e.2, 4, e.1.toNat)

/-- One word of each lane, the high one for the odd register of a pair. -/
def laneWords (hi : Bool) (l : List DWord) : List Word := l.map fun d : DWord => if hi then (d >>> 32).setWidth 32 else d.setWidth 32

/-- The old values under a symbol (R98). -/
def oldOf (syms : List Sym) (n l : Nat) : DWord := match syms.find? fun y => y.num == n with | some y => y.old.getD l 0 | none => 0

/-- Is a lane outside the load of a symbol? -/
def outside (syms : List Sym) (n l : Nat) : Bool :=
  match syms.find? fun y => y.num == n with | some y => !laneIn y.mask l | none => false

/-- What the slot of a pendant register holds (R93): a G offset, which for a lane outside the load is the lane's final
value, or the old values. -/
def Form.slotLanes (f : Form) (syms : List Sym) : List DWord :=
  lanes256.map fun l =>
    match f.off with
    | .g ls => if outside syms f.sym l then cutW f.wide (f.scale * oldOf syms f.sym l + ls.getD l 0) else ls.getD l 0
    | _ => oldOf syms f.sym l

/-- An operand of a step, or an offset: a G one by its slots (R106), the second of a pair in bits [63:32] (assumption 117). -/
def Off.enc (o : Off) (slots : List Nat) : Nat :=
  match o with
  | .u x => x.toNat
  | .a b s => b.toNat + s.toNat * 2 ^ 32
  | .g _ => slots.getD 0 0 + slots.getD 1 0 * 2 ^ 32

/-- The slots of a step's operands: k's, then c's (R100). -/
def Step.slotsOf (t : Step) (wide : Bool) : List Nat × List Nat :=
  let n := if wide then 2 else 1
  match t.k with
  | .g _ => (t.slots.take n, t.slots.drop n)
  | _ => ([], t.slots)

/-- A float step in 32 bytes (R106). -/
def Step.fields (t : Step) (wide : Bool) : Fields :=
  let (a, b) := t.slotsOf wide
  [(0, 1, t.kind), (1, 1, t.rnd.code % 8 + (if t.fz then 8 else 0) + t.k.code * 16 + t.c.code * 64),
    (8, 8, t.k.enc a), (16, 8, t.c.enc b), (24, 8, t.seed.toNat)]

/-- The slots of a step's copies with their lanes. -/
def Step.copies (t : Step) (wide : Bool) : Fields :=
  let (a, b) := t.slotsOf wide
  let put (o : Off) (sl : List Nat) : Fields := (sl.zipIdx).flatMap fun e => slotFields e.1 (laneWords (e.2 == 1) o.lanes)
  (match t.k with | .g _ => put t.k a | _ => []) ++ (match t.c with | .g _ => put t.c b | _ => [])

/-- A form record in 128 bytes (R106). -/
def Form.fields (f : Form) (symIdx : Nat) (slots : List Nat) : Fields :=
  [(0, 1, symIdx), (1, 1, (if f.float then 1 else 0) + (if f.wide then 2 else 0) + f.off.code * 4), (2, 1, f.steps.length),
    (8, 8, if f.float then 0 else f.scale.toNat), (16, 8, if f.float then 0 else f.off.enc slots)]
    ++ (f.steps.zipIdx).flatMap fun e => (e.1.fields f.wide).shift (32 + 32 * e.2)

/-- Tag byte, shape-store entry and slots of a vector register (R90, R105). The second slot index of a 64-bit pair stands in the odd
register's entry; the entry repeats the high word of a U pair or the form index of a P one there (DESIGN CHOICE,
assumption 117). -/
def Regs.vFields (r : Regs) (syms : List Sym) (n : Nat) (x : VReg) : Fields :=
  let tag (c : Nat) : Nat × Nat × Nat := (0x1800 + n, 1, c + if x.pairHi then 4 else 0)
  let ent (v : Nat) : Nat × Nat × Nat := (0x2000 + 8 * n, 8, v)
  let even := if x.pairHi then n - 1 else n
  match x.shape with
  | .u v =>
    let hi := if (r.vreg (n + 1)).pairHi then (match (r.vreg (n + 1)).shape with | .u w => w.toNat | _ => 0) else 0
    [tag 0, ent (v.toNat + hi * 2 ^ 32)]
  | .a b s => [tag 1, ent (b.toNat + s.toNat * 2 ^ 32)]
  | .g k ls => [tag 2, ent (k % 1024)] ++ slotFields k ls
  | .p k f =>
    [tag 3, ent (r.formIdx even false % 256 + k % 1024 * 2 ^ 8)] ++ slotFields k (laneWords x.pairHi (f.slotLanes syms))

/-- The slots a form's register holds. -/
def Regs.pairSlots (r : Regs) (n : Nat) (wide : Bool) : List Nat :=
  let at' (k : Nat) : Nat := match (r.vreg k).shape with | .p s _ => s | .g s _ => s | _ => 0
  if wide then [at' n, at' (n + 1)] else [at' n]

/-- The vector registers with something to write: those listed, and the even register of a 64-bit pair whose low half is zero
(R90). -/
def Regs.shaped (r : Regs) : List (Nat × VReg) :=
  r.v ++ r.v.filterMap fun e => if e.2.pairHi && !(r.v.any fun f => f.1 + 1 == e.1) then some (e.1 - 1, VReg.zero) else none

/-- All the fields of a context image (R105): the context, the strand's key, log2 G, its kernel descriptor's address, the
symbols unresolved, the five counters, the gang sequence number and the batch state. Header byte 3 has a bit for each split that is
not Free (assumption 118). -/
def ctxFields (key logG kernel : Nat) (c : Ctx) (syms : List Sym) (counts : List Nat) (gangSeq batch : Half) (closed : Nat) :
    Fields :=
  let r := c.regs
  let symIdx (n : Nat) : Nat := (syms.findIdx? fun y => y.num == n).getD 0
  let forms := r.formsIn
  let valid := (c.splits.zipIdx).foldl (fun a e => a + if e.1.st == .free then 0 else 2 ^ e.2) 0
  [(0, 1, 1), (2, 1, logG), (3, 1, valid), (4, 1, c.stack.length), (5, 1, syms.length), (6, 2, forms.length),
    (8, 4, coreOf key + quarterOf key % 4 * 2 ^ 8 + slotOf key * 2 ^ 10), (16, 8, kernel)]
    ++ ([c.mode, c.gang, c.tcause, c.tpc, c.tinfo, c.tvec, c.spillp, c.dbgmb].zipIdx).map (fun e => (0x40 + 8 * e.2, 8, e.1.toNat))
    ++ [(0x80, 8, gangSeq.toNat)] ++ (counts.zipIdx).map (fun e => (0x88 + e.2, 1, e.1 % 256))
    ++ [(0x90, 2, batch.toNat), (0x92, 1, closed)] ++ maskFields 0x100 c.tmask
    ++ (c.splits.zipIdx).flatMap (fun e =>
        ([(0, 8, e.1.pc.toNat), (40, 1, e.1.st.code)] ++ maskFields 8 e.1.mask : Fields).shift (0x140 + 64 * e.2))
    ++ r.s.filterMap (fun e => match e.2 with | .val x => some (0x400 + 8 * e.1, 8, x.toNat) | .pend _ => none)
    ++ r.p.flatMap (fun e => maskFields (0x800 + 32 * e.1) e.2)
    ++ r.q.map (fun e => (0xA00 + e.1, 1, if e.2 then 1 else 0))
    ++ r.t.flatMap (fun e => e.2.fields.shift (0xA40 + 32 * e.1))
    ++ r.s.filterMap (fun e => match e.2 with | .pend _ => some (0xC40 + 2 * e.1, 2, r.formIdx e.1 true + 1) | .val _ => none)
    ++ (c.stack.zipIdx).flatMap (fun e => e.1.fields.shift (0x1000 + 128 * e.2))
    ++ r.shaped.flatMap (fun e => r.vFields syms e.1 e.2)
    ++ (syms.zipIdx).flatMap (fun e =>
        ((e.1.words.zipIdx).map (fun w => (4 * w.2, 4, w.1)) ++ maskFields 32 e.1.mask : Fields).shift (0x5000 + 64 * e.2))
    ++ (forms.zipIdx).flatMap (fun e =>
        ((e.1.2.2.fields (symIdx e.1.2.2.sym) (if e.1.2.1 then [] else r.pairSlots e.1.1 e.1.2.2.wide)).shift (0x6000 + 128 * e.2))
          ++ e.1.2.2.steps.flatMap fun t => t.copies e.1.2.2.wide)
    ++ (syms.zipIdx).flatMap (fun e => (e.1.addrs.zipIdx).map fun a => (0xE000 + 2048 * e.2 + 8 * a.2, 8, a.1.toNat))

/-- Bytes of a context image (R105). -/
def ctxBytes (logG : Nat) : Nat := 122880 + 1024 * 2 ^ logG

/-- Remove the entries of a run of n bytes: they then read as 0. -/
def clearRun (m : List Host.Cell) (a n : Nat) : List Host.Cell := m.filter fun c => decide (c.1 < a ∨ a + n ≤ c.1)

/-- Write an image over n bytes of main memory, as the copy engine writes the save pool (R436). -/
def State.poolWrite (s : State) (a n : Nat) (l : Fields) : State :=
  let m := clearRun s.flostra a n
  { s with flostra := l.foldl (fun m e => writeN m (a + e.1) e.2.1 e.2.2) m }

/-- Write an image over n bytes of a partition's memory. -/
def State.vimage (s : State) (part a n : Nat) (l : Fields) : State :=
  let s := (List.range ((n + 4095) / 4096)).foldl (fun s i =>
    match s.trDev part .write (a + 4096 * i) with
    | some t => let (q, b) := s.redirect t.place t.pa; s.setCells q (clearRun (s.cells q) b (min 4096 (n - 4096 * i)))
    | none => s) s
  l.foldl (fun s e => s.vwrite part (a + e.1) e.2.1 e.2.2) s

/-! ## Reading -/

/-- A translation register (R112): it uses the direct path anew. -/
def readTReg (rd : Nat → Nat → Nat) (o : Nat) : TReg :=
  let f := rd (o + 24) 8
  { valid := (rd o 8).testBit 63, base := .ofNat 57 (rd o 8), phys := .ofNat 52 (rd (o + 8) 8), limit := .ofNat 64 (rd (o + 16) 8)
    w := f.testBit 0, far := f.testBit 1, nc := f.testBit 2, fmt := .ofNat 4 (f / 8), geom := .ofNat 4 (f / 128)
    size := .ofNat 2 (f / 2048), direct := true }

/-- The lanes of a slot image. -/
def readSlot (rd : Nat → Nat → Nat) (k : Nat) : Lanes := lanes256.map fun l => .ofNat 32 (rd (0x1E000 + 1024 * k + 4 * l) 4)

/-- The lanes of one slot, or of two as 64-bit values. -/
def readLanes (rd : Nat → Nat → Nat) (lo hi : Nat) (wide : Bool) : List DWord :=
  let a := readSlot rd lo
  let b := if wide then readSlot rd hi else []
  lanes256.map fun l => joinW ((a.getD l 0).setWidth 64) ((b.getD l 0).setWidth 64)

/-- A known operand by its shape code (R106). -/
def readOff (rd : Nat → Nat → Nat) (code v : Nat) (wide : Bool) : Off × List Nat :=
  match code with
  | 0 => (.u (.ofNat 64 v), [])
  | 1 => (.a (.ofNat 32 v) (.ofNat 32 (v / 2 ^ 32)), [])
  | _ =>
    let (lo, hi) := (v % 1024, v / 2 ^ 32 % 1024)
    (.g (readLanes rd lo hi wide), if wide then [lo, hi] else [lo])

/-- A float step (R106). -/
def readStep (rd : Nat → Nat → Nat) (o : Nat) (wide : Bool) : Step :=
  let f := rd (o + 1) 1
  let k := readOff rd (f / 16 % 4) (rd (o + 8) 8) wide
  let c := readOff rd (f / 64 % 4) (rd (o + 16) 8) wide
  { kind := rd o 1, rnd := (Rnd.ofCode (f % 8)).getD .rne, fz := f.testBit 3, seed := .ofNat 64 (rd (o + 24) 8), k := k.1, c := c.1
    slots := k.2 ++ c.2 }

/-- A form record (R106); its symbol is the index of its symbol record. -/
def readForm (rd : Nat → Nat → Nat) (n : Nat) : Form :=
  let o := 0x6000 + 128 * n
  let f := rd (o + 1) 1
  let float := f % 2 == 1
  let wide := f / 2 % 2 == 1
  { sym := rd o 1 % 32, float := float, wide := wide, scale := if float then 1 else .ofNat 64 (rd (o + 8) 8)
    off := if float then .u 0 else (readOff rd (f / 4 % 4) (rd (o + 16) 8) wide).1
    steps := (List.range (min 3 (rd (o + 2) 1))).map fun i => readStep rd (o + 32 + 32 * i) wide }

/-- The old values of a symbol record (R98): the slot of a register that holds the symbol without a G offset. -/
def readOld (rd : Nat → Nat → Nat) (vs : List (Nat × Form × Nat × Nat)) (k : Nat) : List DWord :=
  match vs.find? fun e => e.2.1.sym == k && e.2.1.off.code != 2 with
  | some e => readLanes rd e.2.2.1 e.2.2.2 e.2.1.wide
  | none => lanes256.map fun _ => 0

/-- A form with its G offset made to fit the old values of its symbol: outside the load the slot holds final values. -/
def Form.refit (f : Form) (mask : Mask) (old : List DWord) : Form :=
  match f.off with
  | .g ls => { f with off := .g (lanes256.map fun l =>
      if laneIn mask l then ls.getD l 0 else cutW f.wide (ls.getD l 0 - f.scale * old.getD l 0)) }
  | _ => f

/-- The bits of a strand's control register that a write sets; the others are reserved and read zero (R8, R65, R35, R89, R370,
R481). Bit 7 of the flags is reserved too (R69). -/
def csrMask (n : Nat) : DWord :=
  match n with
  | 0x000 => bitMask 31 24 ||| bitMask 22 16 ||| bitMask 11 0
  | 0x002 => bitMask 19 0
  | 0x003 => bitMask 56 0
  | 0x004 => bitMask 55 0
  | 0x005 => bitMask 56 2 ||| 1
  | 0x006 => bitMask 63 7
  | 0x007 => bitMask 56 12
  | _ => bitMask 63 0

/-- A symbol of a context image whose data go to a destination that an earlier symbol of the same instruction carries (R239). -/
def leadOf (syms : List Sym) (vs : List (Nat × Form × Nat × Nat)) (y : Sym) : Option Nat :=
  if vs.any fun e => e.2.1.sym == y.num then none
  else (syms.find? fun z => decide (z.num < y.num) && z.words == y.words && (z.mask &&& y.mask) == 0
    && vs.any fun e => e.2.1.sym == z.num).map fun z => z.num

/-- Read a context image (R105): the context and its symbol records, whose numbers are the record indices. -/
def readCtx (rd : Nat → Nat → Nat) : Ctx × List Sym :=
  let tag (n : Nat) : Nat := rd (0x1800 + n) 1
  let ent (n : Nat) : Nat := rd (0x2000 + 8 * n) 8
  let names := List.range 1536
  let pend := names.filter fun n => tag n % 4 == 3
  let even := pend.filter fun n => tag n / 4 % 2 == 0
  let vs := even.map fun n => (n, readForm rd (ent n % 256), ent n / 256 % 1024, ent (n + 1) / 256 % 1024)
  let syms : List Sym := (List.range (min 32 (rd 5 1))).map fun k =>
    { num := k, op := 0, space := .global, mask := readMask rd (0x5000 + 64 * k + 32)
      addrs := lanes256.map fun l => .ofNat 64 (rd (0xE000 + 2048 * k + 8 * l) 8), old := readOld rd vs k
      words := (List.range 5).map fun i => rd (0x5000 + 64 * k + 4 * i) 4 }
  let syms := syms.map fun y => { y with lead := leadOf syms vs y }
  let fit (f : Form) : Form := match syms[f.sym]? with | some y => f.refit y.mask y.old | none => f
  let vreg (n : Nat) : VReg :=
    let hi := tag n / 4 % 2 == 1
    let e := ent n
    let sh : VShape :=
      match tag n % 4 with
      | 0 => .u (.ofNat 32 (if hi then ent (n - 1) / 2 ^ 32 else e))
      | 1 => .a (.ofNat 32 e) (.ofNat 32 (e / 2 ^ 32))
      | 2 => .g (e % 1024) (readSlot rd (e % 1024))
      | _ => .p (e / 256 % 1024) (fit (readForm rd (e % 256)))
    { shape := sh, pairHi := hi }
  let put {α : Type} [DecidableEq α] (d : α) (l : List Nat) (f : Nat → α) : AMap α := l.foldl (fun m n => mapPut d m n (f n)) []
  let sreg (n : Nat) : SReg :=
    let k := rd (0xC40 + 2 * n) 2
    if k = 0 then .val (.ofNat 64 (rd (0x400 + 8 * n) 8)) else .pend (readForm rd (k - 1))
  let split (i : Nat) : Split :=
    let o := 0x140 + 64 * i
    let st : SplitSt := match rd (o + 40) 1 with
      | 1 => .ready | 2 => .joining | 3 => .barrier | 4 => .parked | 5 => .trapped | _ => .free
    { Split.empty with st := st, pc := .ofNat 57 (rd o 8), mask := readMask rd (o + 8) }
  let csr (i n : Nat) : DWord := .ofNat 64 (rd (0x40 + 8 * i) 8) &&& csrMask n
  ({ regs := { v := put VReg.zero names vreg, s := put (SReg.val 0) (List.range 128) sreg
               p := put 0 (List.range 16) fun n => readMask rd (0x800 + 32 * n)
               q := put false (List.range 8) fun n => rd (0xA00 + n) 1 % 2 == 1
               t := put TReg.invalid (List.range 16) fun n => readTReg rd (0xA40 + 32 * n) }
     splits := (List.range 4).map split, stack := (List.range (min 16 (rd 4 1))).map fun i => readEntry rd (0x1000 + 128 * i)
     mode := csr 0 0x000, gang := csr 1 0x001, tcause := csr 2 0x002, tpc := csr 3 0x003, tinfo := csr 4 0x004
     tvec := csr 5 0x005, spillp := csr 6 0x006, dbgmb := csr 7 0x008
     tmask := readMask rd 0x100 }, syms)

end Sys2Proof.Machine
end

