-- ==== Sys2Proof/Machine/Rmt.lean ====
section
/-! DEFINITION. RMT (R237 to R240): remote access, one operation for each peer that the lanes name (R239). -/

namespace Sys2Proof.Machine

open Sys2Proof

/-- The distinct peers of the acting lanes, ascending (R239). -/
def peersOf (ps : List (Nat × Nat)) : List Nat := sortNats (ps.map (·.2))

/-- Is a peer value acceptable: [15:9] zero (R405)? -/
def peerOk (p : Nat) : Bool := decide (p / 2 ^ 9 % 2 ^ 7 = 0)

/-- A remote access, its operands known. -/
structure RmtAct where
  kind : RmtKind
  ty : Ty
  cls : Ctr
  dst : Dst
  late : Bool
  whole : Bool
  ord : Nat
  scope : Nat
  /-- lane and peer value. -/
  peers : List (Nat × Nat)
  lanes : List LaneAddr
  data : List DWord
  data2 : List DWord

/-- The checks of R405: peers, then addresses, then alignment. -/
def Ic.rmtCheck (c : Ic) (m : RmtAct) (n : Nat) : Option Act :=
  let fix (x : Mask) : Mask := if m.whole then c.sp.mask else x
  let badP := laneMask ((m.peers.filter fun e => !peerOk e.2).map (·.1))
  let far := laneMask ((m.lanes.filter fun e => decide (2 ^ 57 ≤ e.2.toNat)).map (·.1))
  let mis := laneMask ((m.lanes.filter fun e => e.2.toNat % n != 0).map (·.1))
  if badP ≠ 0 then some (Act.trapLanes 0x06 2 (fix badP))
  else if far ≠ 0 then some (Act.trapLanes 0x06 3 (fix far))
  else if mis ≠ 0 then some (Act.trapLanes 0x05 3 (fix mis))
  else none

/-- The bytes of its peers' memory that a remote instruction names. -/
def RmtAct.ranges (m : RmtAct) : List ByteRange :=
  m.peers.flatMap fun e => (m.lanes.filter fun l => l.1 == e.1).map fun l => (.peer, peerByte (e.2 % 512) l.2, m.ty.bytes, false)

/-- The unresolved .late loads of the strand, through a FAR frame or remote, one of whose sectors a remote instruction touches
(R101). -/
def Strand.lateRemote (st : Strand) (m : RmtAct) : List Nat :=
  let touched := sectorsOf m.ranges
  st.ops.filterMap fun o => if (sectorsOf o.body.ranges).any touched.contains then o.sym else none

/-- Issue one operation per peer (R239) and send what may go. -/
def Ic.rmtIssue (c : Ic) (s : State) (m : RmtAct) : Act :=
  let ps := peersOf m.peers
  let act := laneMask (m.peers.map (·.1))
  let k := ps.length
  if 255 < c.st.count m.cls + k then .wait s .counterWait
  else c.sectorRoom s m.ranges <|
    let late := match m.kind with | .load => [] | _ => c.st.lateRemote m
    if !late.isEmpty then .waitSym s late
    else
      let lanesFor (p : Nat) : List LaneAddr := m.lanes.filter fun l => m.peers.contains (l.1, p)
      let body (p : Nat) : OpBody := .remote
        { kind := m.kind, peer := p % 512, incarn := .ofNat 16 (p / 2 ^ 16), ty := m.ty, lanes := lanesFor p
          data := m.data, data2 := m.data2, dst := m.dst, got := [], wait := [], refused := [] }
      let add (s : State) (syms : List Nat) : State :=
        (ps.zipIdx).foldl (fun s e =>
          let o := { c.newOp m.cls (body e.1) m.ord m.scope with id := c.st.opNext + e.2, sym := syms[e.2]? }
          s.addRecOp c.key o) s
      let plain : Act :=
        c.loadDest s m.dst (decide (act = fullMask)) fun regs => .done ((add (s.putRegs c regs) []).pump c.key)
      let used := (s.strands.filter fun e => decide (quarterOf e.1 = quarterOf c.key)).flatMap fun e => e.2.syms.map (·.num)
      let free := (List.range 256).filter fun n => !used.contains n
      match m.dst with
      | .v n wide =>
        if m.late && k != 0 && decide (c.st.syms.length + k ≤ 32) && decide (k ≤ free.length)
            && decide (s.formsUsed (quarterOf c.key) < 256) then
          if c.st.busy (.v n) wide then .wait s .scoreboard
          else if c.regs.blocksWrite n wide (decide (act = fullMask)) then .waitSym s (c.regs.symsOf n wide)
          else
            let nums := free.take k
            let old := match c.regs.readV n wide with | .known o => o.lanes | .pend _ => []
            let regs := c.regs.writeP n (Form.fresh (nums.headD 0) wide)
            if regs.overflows c.st.logG then c.trapWhole 0x04 1
            else
              let ys : List Sym := (ps.zipIdx).map fun e =>
                { num := nums.getD e.2 0, op := c.st.opNext + e.2, space := .global, mask := laneMask ((lanesFor e.1).map (·.1))
                  addrs := lanes256.map fun l => mapGet 0 m.lanes l, old := old, words := c.sp.words
                  lead := if e.2 = 0 then none else some (nums.headD 0) }
              let s := (s.putRegs c regs).onStrand c.key fun st => { st with syms := st.syms ++ ys }
              .done ((add s nums).pump c.key)
        else plain
      | _ => plain

/-- The addresses b + c' of the acting lanes (R237). -/
def rmtLanes (b c : Off) (cOp : Opnd) (ls : List Nat) : List LaneAddr :=
  ls.map fun l => (l, b.at l + offsetOf cOp false c l)

/-- The peers of the acting lanes. -/
def rmtPeers (a : Off) (ls : List Nat) : List (Nat × Nat) := ls.map fun l => (l, (a.at l).toNat % 2 ^ 32)

/-- RLD (R237, R239). -/
def execRld (x : Opnds) (s : State) : Host.Outcome State Fault Refusal :=
  issueX s x fun c => c.known s x [(x.a, false), (x.b, true), (x.c, addrWide x.c)] fun offs =>
    let ls := lanesOf (c.act x)
    let m : RmtAct :=
      { kind := .load, ty := x.t, cls := .ld, dst := dstOf x.d x.t, late := x.late, whole := false, ord := x.ord
        scope := x.scope, peers := rmtPeers (offs.getD 0 (.u 0)) ls
        lanes := rmtLanes (offs.getD 1 (.u 0)) (offs.getD 2 (.u 0)) x.c ls, data := [], data2 := [] }
    match c.rmtCheck m x.t.bytes with
    | some a => a
    | none => c.rmtIssue s m

/-- RST (R237, R239). -/
def execRst (x : Opnds) (s : State) : Host.Outcome State Fault Refusal :=
  issueX s x fun c => c.known s x [(x.a, false), (x.b, true), (x.c, addrWide x.c), (x.d, x.t.is64)] fun offs =>
    let ls := lanesOf (c.act x)
    let m : RmtAct :=
      { kind := .store, ty := x.t, cls := .st, dst := .none, late := false, whole := false, ord := x.ord
        scope := x.scope, peers := rmtPeers (offs.getD 0 (.u 0)) ls
        lanes := rmtLanes (offs.getD 1 (.u 0)) (offs.getD 2 (.u 0)) x.c ls
        data := (offs.getD 3 (.u 0)).lanes, data2 := [] }
    match c.rmtCheck m x.t.bytes with
    | some a => a
    | none => c.rmtIssue s m

/-- RATM (R238): .cas takes the expected value from the even register of its pair and the new value from the odd one. -/
def execRatm (x : Opnds) (s : State) : Host.Outcome State Fault Refusal :=
  issueX s x fun c =>
    let cas := decide (x.sel = 7)
    let n := x.d.vnum
    let ops := [(x.a, false), (x.b, true), (x.c, addrWide x.c), (x.d, x.t.is64)] ++ (if cas then [(.v (n + 1), false)] else [])
    c.known s x ops fun offs =>
      let ls := lanesOf (c.act x)
      let d := (offs.getD 3 (.u 0)).lanes
      let m : RmtAct :=
        { kind := .atomic (AtmOp.ofCode x.sel), ty := x.t, cls := .ld, dst := .v n x.t.is64, late := false, whole := false
          ord := x.ord, scope := x.scope, peers := rmtPeers (offs.getD 0 (.u 0)) ls
          lanes := rmtLanes (offs.getD 1 (.u 0)) (offs.getD 2 (.u 0)) x.c ls
          data := if cas then (offs.getD 4 (.u 0)).lanes else d, data2 := if cas then d else [] }
      match c.rmtCheck m x.t.bytes with
      | some a => a
      | none => c.rmtIssue s m

/-- RSIG (R238): one signal or arrival at the uniform peer, a release. -/
def rsigOp (s : State) (x : Opnds) (kind : RmtKind) : Host.Outcome State Fault Refusal :=
  issueX s x fun c => c.known s x [(x.a, false), (x.b, true), (x.c, true), (x.d, true)] fun offs =>
    let ls := [lowLane c.sp.mask]
    let m : RmtAct :=
      { kind := kind, ty := .b64, cls := .st, dst := .none, late := false, whole := true, ord := 2, scope := x.scope
        peers := rmtPeers (offs.getD 0 (.u 0)) ls
        lanes := rmtLanes (offs.getD 1 (.u 0)) (offs.getD 2 (.u 0)) x.c ls
        data := (offs.getD 3 (.u 0)).lanes, data2 := [] }
    match c.rmtCheck m 8 with
    | some a => a
    | none => c.rmtIssue s m

def execRsigCtr (x : Opnds) (s : State) : Host.Outcome State Fault Refusal := rsigOp s x .ctr
def execRsigSync (x : Opnds) (s : State) : Host.Outcome State Fault Refusal := rsigOp s x .sync

end Sys2Proof.Machine
end

