-- ==== Sys2Proof/Machine/Late.lean ====
section
/-! DEFINITION. .late loads issued again (R98, R103, R375, R424, R440, R443): the lanes not yet translated, at the
addresses captured at issue. -/

namespace Sys2Proof.Machine

open Sys2Proof

/-- Translate an address of a space on an engine's behalf. -/
def State.engTr (s : State) (core part wg : Nat) (sp : Space) (acc : Access) (a : DWord) : TrRes × State :=
  let plain (p : Place) (pa : Nat) : TrRes :=
    .ok { place := p, pa := pa, fmt := 0, geom := 0, frame := 0, off := 0, far := false, nc := false, ent := 0 }
  match sp with
  | .spad => (plain .spad (match s.wg? wg with | some w => w.spadPa a.toNat | none => a.toNat), s)
  | .vault => (if (s.part part).vaultOk a.toNat then plain .vault a.toNat else .fail ⟨0x05, vaultCore a.toNat⟩, s)
  | .global =>
    match s.trNow core part acc a.toNat with
    | (.ok t, s) => (.ok t, s)
    | (.error e, s) => (.fail e, s)

/-- Translate one lane of a load. -/
def State.lateTr (s : State) (core part wg : Nat) (sp : Space) (a : DWord) : TrRes × State :=
  s.engTr core part wg sp .read a

/-- Translate lanes one after another: those that do, those that do not, the state. -/
def State.lateLanes (s : State) (core part wg : Nat) (sp : Space) (judge : TrRes → TrRes) :
    List LaneAddr → List (Nat × DWord × Tr) × List (Nat × DWord × WalkErr) × State
  | [] => ([], [], s)
  | (l, a) :: t =>
    let (r, s) := s.lateTr core part wg sp a
    let (ok, bad, s) := s.lateLanes core part wg sp judge t
    match judge r with
    | .ok x => ((l, a, x) :: ok, bad, s)
    | .fail e => (ok, (l, a, e) :: bad, s)
    | .miss _ => (ok, bad, s)

/-- A load's operation with further lanes translated. -/
def OpBody.addLanes (b : OpBody) (l : List (Nat × DWord × Tr)) : OpBody :=
  match b with
  | .load accs ty d => .load (accs ++ accsOf l) ty d
  | .loadF els ty m fz sd d => .loadF (els ++ elemsOf l) ty m fz sd d
  | b => b

/-- A load's operation with no lane translated. -/
def OpBody.noLanes : OpBody → OpBody
  | .load _ ty d => .load [] ty d
  | .loadF _ ty m fz sd d => .loadF [] ty m fz sd d
  | .remote r => .remote { r with wait := [], got := [], refused := [] }
  | b => b

/-- How a lane of a load must translate: plain accesses stay on frame bytes, LDF needs a formatted page (R375, R414). -/
def OpBody.judge (b : OpBody) (r : TrRes) : TrRes :=
  match b, r with
  | .load _ ty _, r => r.plain ty.bytes
  | .loadF .., .ok t => if t.fmt = 0 then .fail ⟨0x04, t.ent⟩ else r
  | _, r => r

/-- Records about an operation of a strand (R365, R376). -/
def State.opRec (s : State) (key : Nat) (st : Strand) (o : Op) (cls sub : Nat) (addr : DWord) (mask : Mask) : Rec :=
  { s.strandRec key st cls sub o.pc addr mask with op := if o.hasRec then some (.ofNat 16 o.recNo) else none }

/-- Issue the load of a symbol again for the lanes it has not translated (R375, R424): a lane that faults again makes a
new group. -/
def State.reissueLate (s : State) (key op : Nat) : State :=
  match s.strand? key with
  | none => s
  | some st =>
    match st.op? op with
    | none => s
    | some o =>
      match st.syms.find? fun y => some y.num == o.sym, o.body with
      | none, _ => s
      | some _, .remote _ =>
        (s.onStrand key fun st => st.onOp op fun o => { o with susp := none, group := none, started := false
                                                               body := o.body.noLanes }).pump key
      | some y, b =>
        let whole := match b.dst with | .s _ => true | _ => false
        let left := lanesOf (o.lanesOpen y.mask)
        let lanes : List LaneAddr := (if whole then left.take 1 else left).map fun l => (l, y.addrs.getD l 0)
        let (ok, bad, s) := s.lateLanes (coreOf key) st.part st.wg y.space b.judge lanes
        let set (s : State) (susp : Option (Nat × Nat)) : State :=
          s.onStrand key fun st => st.onOp op fun o => { o with susp := susp, group := none, body := o.body.addLanes ok }
        if bad.isEmpty then set s none
        else
          let recs := (failGroups bad).map fun g =>
            { s.opRec key st o 0x03 0x06 g.2.1 (if whole then y.mask else laneMask g.2.2) with op := none }
          (set s (some (0x03, 0x06))).postGroup st.part { recs := recs, split := none, op := some (key, op) }

/-- The .late load that a symbol record names: its space and operands, with the operation before any lane translates
(R105). A remote load takes its peers from operand A as the context holds it. -/
def lateBody (c : Ctx) (y : Sym) : Option (Space × OpBody) :=
  let env (x : Opnds) : FpEnv :=
    { mode := effMode c.mode x.rnd, fz := modeFz c.mode, sat := false, seed := c.regs.sval (modeSeed c.mode) }
  match decodeWords y.words with
  | some (.ld x, _) => some (.global, .load [] x.t (dstOf x.d x.t))
  | some (.lds x, _) => some (.spad, .load [] x.t (dstOf x.d x.t))
  | some (.ldv x, _) => some (.vault, .load [] x.t (dstOf x.d x.t))
  | some (.ldf x, _) => some (.global, .loadF [] x.t (env x).mode (env x).fz (env x).seed x.d.vnum)
  | some (.rld x, _) =>
    let a := match c.regs.read x.lit false x.a with | .known o => o | .pend _ => .u 0
    let p := (a.at (lowLane y.mask)).toNat
    some (.global, .remote
      { kind := .load, peer := p % 512, incarn := .ofNat 16 (p / 2 ^ 16), ty := x.t
        lanes := (lanesOf y.mask).map fun l => (l, y.addrs.getD l 0), data := [], data2 := [], dst := dstOf x.d x.t
        got := [], wait := [], refused := [] })
  | _ => none

/-- The symbols of a form list renumbered. -/
def Form.renum (f : Form) (g : Nat → Nat) : Form := { f with sym := g f.sym }

/-- A register file with its symbols renumbered. -/
def Regs.renum (r : Regs) (g : Nat → Nat) : Regs :=
  { r with
    v := r.v.map fun (e : Nat × VReg) =>
      match e.2.shape with | .p k f => (e.1, { e.2 with shape := .p k (f.renum g) }) | _ => e
    held := r.held.map fun e => (g e.1, e.2)
    recs := r.recs.map fun e => (e.1, g e.2)
    s := r.s.map fun (e : Nat × SReg) => match e.2 with | .pend f => (e.1, .pend (f.renum g)) | _ => e }

/-- Symbols of a quarter that no strand of it holds (R98). -/
def State.freeSyms (s : State) (quarter : Nat) : List Nat :=
  let used := (s.strands.filter fun e => decide (quarterOf e.1 = quarter)).flatMap fun e => e.2.syms.map fun y => y.num
  (List.range 256).filter fun n => !used.contains n

/-- Translation registers that come from memory use the direct path only where the page tables still give what they hold: the
device keeps them coherent (R113). -/
def State.recohere (s : State) (part : Nat) (r : Regs) : Regs :=
  { r with t := r.t.map fun (e : Nat × TReg) =>
      let t := e.2
      let same : Bool := match s.walk part .read t.base.toNat with
        | .ok l =>
          let f := leafFrame l.leaf + (if leafFmt l.leaf = 0 then t.base.toNat % pageBytes l.size else 0)
          f == t.phys.toNat && leafFar l.leaf == t.far && leafW l.leaf == t.w && leafFmt l.leaf == t.fmt.toNat
            && leafGeom l.leaf == t.geom.toNat && l.size == t.size.toNat && !leafSwp l.leaf
        | .error _ => false
      (e.1, { t with direct := t.valid && same }) }

/-- A register file read from memory with the form records and operand copies that its pendants take (R93, R98). -/
def Regs.forms (r : Regs) : Regs :=
  (r.formsIn).foldl (fun r e => r.note (if e.2.1 then 2048 + e.1 else e.1) e.2.2) { r with held := [], recs := [] }

/-- Issue the symbol records of a loaded context, which have no operation yet (R443). -/
def State.issueSyms (s : State) (key : Nat) (c : Ctx) : List Sym → State
  | [] => s
  | y :: t =>
    match s.strand? key with
    | none => s
    | some st =>
      match lateBody c y with
      | none => s.issueSyms key c t
      | some (sp, b) =>
        let o : Op :=
          { id := st.opNext, recNo := 0, cls := .ld, pc := 0, words := y.words, body := b, sym := some y.num, acq := false
            rel := false, scope := 0, done := false, started := false, rows := 0, flags := 0, susp := none, group := none
            batch := none, joint := none }
        let s := s.onStrand key fun st => { st with ops := st.ops ++ [o], opNext := o.id + 1
                                                    syms := st.syms ++ [{ y with op := o.id, space := sp }] }
        let s := match b with
          | .remote _ =>
            let n := (s.core (coreOf key)).opNext
            (s.onCore (coreOf key) fun x => { x with opNext := n + 1 }).onStrand key fun st =>
              st.onOp o.id fun o => { o with recNo := n.toNat, hasRec := true }
          | _ => s
        (s.reissueLate key o.id).issueSyms key c t

end Sys2Proof.Machine
end

