-- ==== Sys2Proof/Machine/Wgs.lean ====
section
/-! DEFINITION. Workgroups and their sources: starting and restoring a workgroup (R37, R41, R46, R47, R54, R439), the
readiness of a source and the events it raises (R51, R293, R294), the end of packets (R288, R382), retirement (R40, R289,
R292) and kills (R381). -/

namespace Sys2Proof.Machine

open Sys2Proof

/-! ## Starting -/

/-- Insert by an order. -/
def insBy {α : Type} (lt : α → α → Bool) (x : α) : List α → List α
  | [] => [x]
  | y :: t => if lt x y then x :: y :: t else y :: insBy lt x t

/-- Bytes 0 to 63 of kernel-constant space and the argument block (R109). -/
def kernelConsts (vault : Nat) (k : Kernel) (argAddr seq : DWord) (args : List Byte) : List Byte :=
  bytesOf 8 (vault % 2 ^ 30) ++ bytesOf 4 k.spad ++ bytesOf 4 k.vault ++ bytesOf 8 argAddr.toNat ++ bytesOf 8 seq.toNat
    ++ bytesOf 32 0 ++ args

/-- Does a node's path allow a start, with what has just been placed counted (R54)? -/
def State.pathOk (s : State) (part n : Nat) : Bool :=
  (s.rcbNodes part n).all fun k => s.solvent part k && s.withinLimits part k

/-- Workgroups of a source not yet dispatched, saved ones aside; a stage has no end (R46, R48). -/
def Source.left (x : Source) : Nat := if x.pipe.isSome then 1 else x.total - x.next

/-- Where a source's next new workgroup goes. -/
def State.newSeat (s : State) (x : Source) (freed : Option Nat := none) : Seat :=
  { freed := freed, part := x.part, wg := s.wgNext, kernel := x.kernel, rcb := x.rcb
    ctx := Ctx.atGrant x.kernel.entry (mapGet 0 (s.part x.part).block 15), idxs := List.range x.kernel.strands
    cluster := none, keepVault := false }

/-- A strand granted as the only one of its workgroup (R131). -/
def State.markAlone (s : State) (keys : List Nat) : State :=
  match keys with
  | [k] => s.onStrand k fun st => { st with alone := true }
  | _ => s

/-- Start the next workgroup of a source with a home core: none where it does not fit or, unless `free` leaves the limits
aside, its path does not allow it. -/
def State.startNew (s : State) (src home : Nat) (free : Bool := false) (freed : Option Nat := none) : Option State :=
  match s.source? src with
  | none => none
  | some x =>
    match s.seat (s.newSeat x freed) home with
    | none => none
    | some (s1, keys, spad, voff) =>
      let vault := if x.kernel.vault = 0 then 0 else home * 2 ^ 22 + voff
      let w : Wg :=
        { phase := .running, part := x.part, source := src, queue := x.queue, rcb := x.rcb, kernel := x.kernel, grid := x.grid
          lin := if x.pipe.isSome then x.next % 2 ^ 32 else x.next, seq := x.seq, home := home, cluster := clusterOf home
          spread := keys.any fun k => coreOf k != home, strands := keys, spadBase := spad, vaultAddr := vault
          consts := kernelConsts vault x.kernel x.argAddr x.seq x.args, yield := false, retries := 0, charge := 0
          quarantine := false, pool := (0, 0), slots := keys, since := s.clock.toNat, job := false, pinned := false }
      let s2 := ({ s1.markAlone keys with wgs := mapIns s.wgNext w s1.wgs, wgNext := s.wgNext + 1 }).onSource src fun y =>
        { y with next := y.next + 1, resident := y.resident + 1 }
      if free || s2.pathOk x.part x.rcb then some (s2.writeUse x.part x.rcb) else none

/-! ## Keys of saved strands -/

/-- The key that strand `idx` of a saved workgroup is kept under. -/
def savedKey (wg idx : Nat) : Nat := 1048576 + 8 * wg + idx

/-- A key after renaming. -/
def renKey (m : List (Nat × Nat)) (k : Nat) : Nat := ((m.find? fun e => e.1 == k).map (·.2)).getD k

/-- A strand and operation, or a strand and split, after renaming. -/
def renPair (m : List (Nat × Nat)) (e : Nat × Nat) : Nat × Nat := (renKey m e.1, e.2)

/-- A routed fault after renaming. -/
def FaultEv.rekey (f : FaultEv) (m : List (Nat × Nat)) : FaultEv :=
  { f with split := f.split.map (renPair m), op := f.op.map (renPair m), tell := f.tell.map fun e => (renKey m e.1, e.2) }

/-- A die's pending faults after renaming. -/
def DieSt.rekey (d : DieSt) (m : List (Nat × Nat)) : DieSt :=
  { d with faults := d.faults.map fun f => f.rekey m
           dec := d.dec.map fun x => { x with flt := x.flt.map fun f => f.rekey m }
           swap := d.swap.map fun x => { x with strand := renKey m x.strand } }

/-- Who makes an access through a FAR frame after renaming. -/
def FarKey.rekey (m : List (Nat × Nat)) : FarKey → FarKey
  | .op k i => .op (renKey m k) i
  | .swap d => .swap d
  | .issue k i => .issue (renKey m k) i
  | .fetch k i => .fetch (renKey m k) i
  | .dev p => .dev p

/-- Accesses through FAR frames after renaming. -/
def FarIo.rekey (f : FarIo) (m : List (Nat × Nat)) : FarIo :=
  { f with wait := f.wait.map fun w => { w with key := w.key.rekey m }, known := f.known.map fun e => (e.1.rekey m, e.2) }

/-- Keep the strands of a workgroup under other keys, wherever their keys stand (R436, R440). -/
def State.rekey (s : State) (wg : Nat) (m : List (Nat × Nat)) : State :=
  let mine : List (Nat × Strand) := s.strands.filter fun e => m.any fun k => k.1 == e.1
  let rest : List (Nat × Strand) := s.strands.filter fun e => !m.any fun k => k.1 == e.1
  let pair (e : Nat × Nat) : Nat × Nat := renPair m e
  { s with
    strands := mine.foldl (fun l e => mapIns (renKey m e.1) e.2 l) rest
    wgs := mapMod s.wgs wg fun w => { w with strands := w.strands.map (renKey m) }
    joints := s.joints.map fun (e : Nat × Joint) => (e.1, { e.2 with members := e.2.members.map pair })
    cbars := s.cbars.map fun (e : Nat × CBar) => (e.1, { e.2 with arrived := e.2.arrived.map (renKey m) })
    parts := s.parts.map fun (e : Nat × Part) =>
      (e.1, { e.2 with groups := e.2.groups.map fun g =>
          { g with split := g.split.map pair, op := g.op.map pair, due := g.due.map fun d => (renKey m d.1, d.2) } })
    dieW := s.dieW.rekey m, dieE := s.dieE.rekey m
    toSlice := s.toSlice.map fun (e : Nat × Node) => (e.1, { e.2 with src := e.2.src.map pair })
    far := s.far.rekey m }

/-- Start the restore of a saved workgroup with a home core (R439, R440): its strands take slots and blocks; the images
follow (RESTORE_COMPLETE). -/
def State.startSaved (s : State) (wg home : Nat) (free : Bool := false) (freed : Option Nat := none) : Option State :=
  match s.wg? wg with
  | none => none
  | some w =>
    let old := w.strands
    let idxs := old.map fun k => (s.strand? k).elim 0 fun st => st.idx
    let seat : Seat :=
      { part := w.part, wg := wg, kernel := w.kernel, rcb := w.rcb, ctx := Ctx.atGrant 0 0, idxs := idxs
        cluster := if w.pinned then some w.cluster else none, keepVault := true, freed := freed }
    match s.seat seat home with
    | none => none
    | some (s1, keys, spad, _) =>
      -- the strands granted hold the blocks that the saved ones take over
      let s2 := (old.zip keys).foldl (fun s e =>
        match s.strand? e.1, s.strand? e.2 with
        | some st, some new =>
          { s with strands := mapIns e.1 { st with block := new.block, granted := s.clock.toNat, lastIssue := s.clock.toNat, watch := 0 }
                     (mapErase e.2 s.strands) }
        | _, _ => s) s1
      let s3 := (s2.rekey wg (old.zip keys)).onWg wg fun w =>
        { w with phase := .restoring, home := home, cluster := clusterOf home, spread := keys.any fun k => coreOf k != home
                 spadBase := spad, slots := keys }
      let s4 := s3.onSource w.source fun y => { y with resident := y.resident + 1, saved := y.saved.erase wg }
      let cores := (keys.map coreOf).eraseDups
      if (free || s4.pathOk w.part w.rcb) && cores.all fun c => decide (s4.granulesUsed c ≤ Config.granules) then
        some (s4.writeUse w.part w.rcb)
      else none

/-- The cores of a partition in the order in which R296 tries them: the core whose room freed, then those of the hinted die,
each by load (assumption 57). -/
def State.homeOrder (s : State) (part hint : Nat) (freed : Option Nat) : List Nat :=
  let on (d : Nat) : List Nat := s.usableCores part d
  freed.toList ++ (if hint = 1 then s.byLoad (on 0) else if hint = 2 then s.byLoad (on 1) else []) ++ s.byLoad (on 0 ++ on 1)

/-- Place workgroups of a source until none is left to dispatch, the first with the home core given, each other on the first
core of R296's order that it fits with its path's limits (R47, R296). -/
def State.startMany (s : State) (src : Nat) (free : Bool) (freed : Option Nat) : Nat → Option Nat → Option State
  | 0, _ => none
  | fuel + 1, home =>
    match s.source? src with
    | none => none
    | some x =>
      if x.left = 0 then some s
      else
        let next := match home with
          | some h => s.startNew src h free freed
          | none => (s.homeOrder x.part x.kernel.dieHint freed).findSome? fun c => s.startNew src c free freed
        next.bind fun s' => s'.startMany src free freed fuel none

/-- The most workgroups that resident strands leave room for: one strand each in every slot of the device. -/
def maxResident : Nat := 24576

/-- Is a source's next start that of a whole cooperative launch (R47)? -/
def Source.whole (x : Source) : Bool := x.kernel.coop && x.pipe.isNone && x.saved.isEmpty

/-- Dispatch from a source with a home core: its first saved workgroup, else the whole cooperative launch, else its next
workgroup (R439, R46, R47); `free` leaves the limits of its path aside, `freed` is the core whose room freed (R296). -/
def State.startAt (s : State) (src home : Nat) (free : Bool := false) (freed : Option Nat := none) : Option State :=
  match s.source? src with
  | none => none
  | some x =>
    match x.saved with
    | w :: _ => s.startSaved w home free freed
    | [] =>
      if x.left = 0 then none
      else if x.whole then s.startMany src free freed (min x.left maxResident + 1) (some home)
      else s.startNew src home free freed

/-- The seat that a source's next start takes. -/
def State.nextSeat (s : State) (x : Source) : Seat :=
  match x.saved with
  | w :: _ =>
    match s.wg? w with
    | some g => { s.newSeat x with wg := w, idxs := g.strands.map fun k => (s.strand? k).elim 0 fun st => st.idx
                                   cluster := if g.pinned then some g.cluster else none, keepVault := true }
    | none => s.newSeat x
  | [] => s.newSeat x

/-- The cores of a die with which a source can now be dispatched (R299 FITN, R303 FIT). -/
def State.fitCores (s : State) (src die : Nat) : List Nat :=
  match s.source? src with
  | none => []
  | some x => (s.usableCores x.part die).filter fun c => (s.startAt src c).isSome

/-! ## Readiness and the dispatcher's events (R51, R293, R294) -/

/-- Does a source have work that nothing but room keeps back: undispatched work, an allowing path, a demanding and
unblocked stage below its cap (R51, R54, R293)? -/
def State.wanting (s : State) (x : Source) : Bool :=
  let stage : Bool :=
    match x.pipe with
    | none => true
    | some k =>
      match mapFind s.pipes k with
      | none => false
      | some p =>
        let n := x.kernel.stage.getD 0
        !p.quiet && decide (0 < s.stageItems p n) && !s.stageBlocked p n && (x.cap == 0 || decide (x.resident < x.cap))
  let fits (k : Nat) : Bool :=
    let (_, slots, spad, vault) := s.nodeUse x.part k
    decide (slots + x.kernel.strands * 2 ^ x.kernel.logG ≤ s.rcbEff x.part 24 4 2 3 k
      ∧ spad + x.kernel.spad ≤ s.rcbEff x.part 32 8 3 3 k ∧ vault + x.kernel.vault ≤ s.rcbEff x.part 40 8 4 3 k)
  !x.removed && (!x.saved.isEmpty || (decide (0 < x.left) && stage))
    && (s.rcbNodes x.part x.rcb).all fun k => s.solvent x.part k && fits k

/-- Is a source ready on a die (R293)? -/
def State.readyOn (s : State) (src die : Nat) : Bool :=
  match s.source? src with
  | none => false
  | some x => s.wanting x && !(s.fitCores src die).isEmpty

/-- Has a die room for a source's next start, whatever the limits of its path (R294)? -/
def State.roomOn (s : State) (src die : Nat) : Bool :=
  match s.source? src with
  | none => false
  | some x => (s.usableCores x.part die).any fun c => (s.startAt src c true).isSome

/-- Raise a DISPATCH event: at most one is pending for a partition on a die (R294), and it keeps the core and the source for which
it was first raised (assumption 143). -/
def State.raiseDispatch (s : State) (die part : Nat) (core source : Option Nat) : State :=
  s.onDie die fun d =>
    if d.dispatch.any fun e => e.1 == part then d else { d with dispatch := d.dispatch ++ [(part, core, source)] }

/-- The running workgroups of a partition with a strand on a die. -/
def State.runningOn (s : State) (part die : Nat) : List (Nat × Wg) :=
  s.wgs.filter fun e => e.2.part == part && e.2.phase == .running && dieOf e.2.home == die

/-! ### Compaction's request (R97) and the reclaim of a core (R51) -/

/-- Insert a strand by descending block size, then ascending start (R97). -/
def insBlock (e : Nat × Strand) : List (Nat × Strand) → List (Nat × Strand)
  | [] => [e]
  | f :: t => if f.2.logG < e.2.logG ∨ (f.2.logG = e.2.logG ∧ e.2.block < f.2.block) then e :: f :: t else f :: insBlock e t

/-- The lowest aligned run of n slots clear of the runs taken. -/
def lowestRun (taken : List (Nat × Nat)) (n : Nat) : Option Nat :=
  ((List.range (1024 / n)).map fun i => i * n).find? fun b => taken.all fun t => decide (t.1 + t.2 ≤ b ∨ b + n ≤ t.1)

/-- Does a strand's block keep its place (R97, R451)? -/
def Strand.fixed (st : Strand) : Bool := st.phase == .exited || st.ops.any fun o => o.sym.isSome && o.susp.isSome

/-- The moves of a compaction: strand key and new start (R97). -/
def State.planMoves (s : State) (q : Nat) : List (Nat × Nat) :=
  let rs := ((s.residents q).filter fun e => !e.2.fixed).foldr insBlock []
  (rs.foldl (fun (acc : List (Nat × Nat) × List (Nat × Nat)) e =>
    let n := 2 ^ e.2.logG
    let others := acc.1.erase (e.2.block, n)
    match lowestRun others n with
    | some b => ((b, n) :: others, if b = e.2.block then acc.2 else acc.2 ++ [(e.1, b)])
    | none => acc) (s.heldBlocks q, [])).2

/-- Free slots of a quarter. -/
def QuarterSt.freeSlots (x : QuarterSt) : Nat := x.free.foldl (fun a b => a + b.2) 0

/-- Ask for a compaction of a quarter on a die where only fragmentation keeps a source's strand from being placed (R97). -/
def State.askCompaction (s : State) (die src : Nat) : State :=
  match s.source? src with
  | none => s
  | some x =>
    let n := 2 ^ x.kernel.logG
    let qs := (s.usableCores x.part die).flatMap fun c => (List.range 4).map fun i => 4 * c + i
    let pick := qs.find? fun q =>
      let y := s.quarter q
      y.moves.isEmpty && !(s.freeSlots q).isEmpty && decide (n ≤ y.freeSlots) && (buddyGrant y.free n).isNone && !(s.planMoves q).isEmpty
    match pick with
    | none => s
    | some q => let m := s.planMoves q; s.onQuarter q fun y => { y with moves := m, retry := some src }

/-- A core of a blocked stage is reclaimed for a consumer that is demanding and has no resident workgroup (R51): its
workgroups there receive YIELD. With `kept`, only a consumer that no room can start counts: another is the next DISPATCH
decision's. -/
def State.reclaim (s : State) (part : Nat) (kept : Bool := false) : State :=
  let stageSrc (p : Pipe) (n : Nat) : Option (Nat × Source) :=
    (p.sources.filterMap fun k => (s.source? k).map fun x => (k, x)).find? fun e => e.2.kernel.stage == some n
  let starved (p : Pipe) (b : Nat) : Bool :=
    p.appends.any fun e => e.1 == b && s.listFull part e.2.toNat &&
      (let c := s.listStage part e.2.toNat
       c != b && decide (0 < s.stageItems p c)
         && (match stageSrc p c with | some x => x.2.resident == 0 && !(kept && !x.2.readyDies.isEmpty) | none => false))
  let blocked := (s.pipes.filter fun e => e.2.part == part).flatMap fun e =>
    (List.range 8).filterMap fun b => if s.stageBlocked e.2 b && starved e.2 b then stageSrc e.2 b else none
  blocked.foldl (fun s e =>
    let ws := s.wgs.filter fun w => w.2.source == e.1 && w.2.phase == .running
    if ws.any fun w => w.2.yield then s
    else
      match (ws.map fun w => w.2.home).foldr (insBy fun a b => decide (a < b)) [] with
      | [] => s
      | core :: _ =>
        let mine := (ws.filter fun w => w.2.home == core).map (·.1)
        let s := mine.foldl (fun s k => s.onWg k fun w => { w with yield := true }) s
        s.wakeTakes part fun _ st => mine.contains st.wg) s

/-- Judge one source again: the dies on which it has become ready raise DISPATCH, those on which it has become ready but for
room that it has the priority for raise PREEMPT (R294), and where only fragmentation keeps it out a compaction is asked for
(R97). -/
def State.judgeSource (s : State) (k : Nat) : State :=
  match s.source? k with
  | none => s
  | some x =>
    let want := s.wanting x
    let ready := if want then [0, 1].filter fun d => s.readyOn k d else []
    let lacks := if want then [0, 1].filter fun d => !ready.contains d && !s.roomOn k d else []
    let prio := s.effPrio x.part x.rcb
    let s := s.onSource k fun y =>
      { y with readyDies := ready, wantDies := lacks
               readySince := if ready.isEmpty then 0 else if y.readySince = 0 then max 1 s.clock.toNat else y.readySince }
    let s := (ready.filter fun d => !x.readyDies.contains d).foldl (fun s d => s.raiseDispatch d x.part none (some k)) s
    let s := (lacks.filter fun d => !x.wantDies.contains d && !x.readyDies.contains d).foldl (fun s d =>
      if (s.runningOn x.part d).any fun e => decide (s.effPrio x.part e.2.rcb < prio) then
        s.onDie d fun y => { y with preempt := y.preempt ++ [(x.part, k)] }
      else s) s
    lacks.foldl (fun s d => s.askCompaction d k) s

/-- Judge the sources of a partition again; a queue whose last ready source is gone keeps its debt but not its credit (R295);
a core may be reclaimed (R51). -/
def State.refresh (s : State) (part : Nat) : State :=
  let mine := s.sources.filter fun e => e.2.part == part
  let s := mine.foldl (fun s e => s.judgeSource e.1) s
  let now := ((s.sources.filter fun e => e.2.part == part && !e.2.readyDies.isEmpty).map fun e => e.2.queue).eraseDups
  let gone := (s.part part).credit.filter fun q => !now.contains q
  let s := gone.foldl (fun s q => s.setDeficit part q (min (s.deficit part q) 0)) s
  (s.onPart part fun p => { p with credit := now }).reclaim part true

/-- Room has freed on cores of a partition (R294). -/
def State.roomFreed (s : State) (part : Nat) (cores : List Nat) : State :=
  (cores.eraseDups.foldl (fun s c => s.raiseDispatch (dieOf c) part (some c) none) s).refresh part

/-! ## The end of packets (R288, R382) -/

/-- A packet of a queue. -/
def State.pkt? (s : State) (part q idx : Nat) : Option QPkt :=
  s.pkts.find? fun p => p.part == part && p.queue == q && p.idx == idx

/-- Change a packet. -/
def State.onPkt (s : State) (part q idx : Nat) (f : QPkt → QPkt) : State :=
  { s with pkts := s.pkts.map fun p => if p.part == part && p.queue == q && p.idx == idx then f p else p }

/-- Forget the sources and pipelines of a packet. -/
def State.dropWork (s : State) (part q idx : Nat) : State :=
  { s with
    sources := s.sources.filter fun e => !(e.2.part == part && e.2.queue == q && e.2.pkt == idx)
    pipes := s.pipes.filter fun e => !(e.2.part == part && e.2.queue == q && e.2.pkt == idx) }

/-- A packet leaves its queue: the count of incomplete packets falls (R288, R382). -/
def State.releasePkt (s : State) (part q idx : Nat) : State :=
  let s := (s.setQf part q 44 4 (s.qf part q 44 4 - 1)).dropWork part q idx
  { s with pkts := s.pkts.filter fun p => !(p.part == part && p.queue == q && p.idx == idx) }.refresh part

/-- Complete a packet: its counter, then the release (R288); failed, its SCHED 0x05 record, and the release once that is written
or dropped (R382). -/
def State.endPkt (s : State) (part q idx : Nat) : State :=
  match s.pkt? part q idx with
  | none => s
  | some p =>
    match p.failed with
    | none => (if p.field 32 8 = 0 then s else s.vsync part (p.field 32 8) (.add 1)).releasePkt part q idx
    | some d =>
      let r := schedRec 0x05 d q idx 0 (.ofNat 64 (s.pktAddr part q idx))
      let s := (s.dropWork part q idx).onPkt part q idx fun p => { p with st := .issued }
      (s.postGroup part { recs := [r], split := none, op := none, pkt := some (q, idx) }).refresh part

/-- Is the work of a launch or pipeline over (R52, R288, R382)? -/
def State.workOver (s : State) (part q idx : Nat) : Bool :=
  let srcs := (s.sources.filter fun e => e.2.part == part && e.2.queue == q && e.2.pkt == idx).map (·.2)
  let quiet (k : Nat) : Bool := match mapFind s.pipes k with | some p => p.quiet | none => true
  !srcs.isEmpty && srcs.all fun x => x.resident == 0 && x.saved.isEmpty &&
    (x.removed || match x.pipe with | some k => quiet k | none => x.left == 0)

/-- End a launch or pipeline whose work is over. -/
def State.checkWork (s : State) (part q idx : Nat) : State := if s.workOver part q idx then s.endPkt part q idx else s

/-! ## Retirement -/

/-- Publish a workgroup's completion event (R40, R289). -/
def State.publish (s : State) (w : Wg) : State :=
  match s.source? w.source with
  | none => s
  | some x =>
    let a := eventAddr x.event.toNat
    match eventMode x.event.toNat with
    | 1 => s.vsync w.part a (.add 1)
    | 2 => s.vwrite w.part (a + 8 * w.lin) 8 1
    | 3 => s.vsync w.part a (.arrive 1 0)
    | _ => s

/-- The SCHED 0x06 record of a killed workgroup (R381, R447). -/
def State.killRec (s : State) (w : Wg) : Rec :=
  let idx := match s.source? w.source with | some x => x.pkt | none => 0
  { schedRec 0x06 0 w.queue idx 0 (.ofNat 64 (s.pktAddr w.part w.queue idx)) with rcb := .ofNat 32 w.rcb, retries := min 255 w.retries }

/-- A workgroup is gone from its cores and from its source: it has retired, or its kill is over (R40, R292, R381). -/
def State.endWg (s : State) (wg : Nat) : State :=
  match s.wg? wg with
  | none => s
  | some w =>
    let killed := w.phase == .killed || w.phase == .saved
    let c := (w.charge + 4095) / 4096
    let idx := match s.source? w.source with | some x => x.pkt | none => 0
    let cores := w.home :: w.slots.map coreOf
    let s := { s with wgs := mapErase wg s.wgs }
    let s := (s.writeUse w.part w.rcb).chargeNodes w.part w.rcb c
    let s := s.setDeficit w.part w.queue (s.deficit w.part w.queue - c)
    let s := if killed then (if w.job then s else s.postRec w.part (s.killRec w)) else s.publish w
    let s := s.onSource w.source fun x =>
      { x with resident := if w.phase == .saved then x.resident else x.resident - 1, saved := x.saved.erase wg }
    let s := if killed then s.onPkt w.part w.queue idx fun p => { p with failed := some (p.failed.getD 0) } else s
    (s.checkWork w.part w.queue idx).roomFreed w.part cores

/-! ## Kills (R380, R381, R444) -/

/-- Strand keys of the gangs that the strands of a workgroup belong to, by the names GANG uses (R42, R380). -/
def State.gangNames (s : State) (w : Wg) : List Nat :=
  w.strands.flatMap fun k =>
    match s.strand? k with
    | some st => if gangNamed st.ctx.gang then gangMembers st.ctx.gang (w.cluster * 8) else []
    | none => []

/-- The workgroups that a kill of one takes with it: those that hold a member of one of its gangs (R380). -/
def State.killSet (s : State) : Nat → List Nat → List Nat
  | 0, l => l
  | fuel + 1, l =>
    let names := l.flatMap fun k => match s.wg? k with | some w => s.gangNames w | none => []
    let more := (s.wgs.filter fun e => !l.contains e.1 && l.any (fun k => match s.wg? k with | some w => w.part == e.2.part | none => false)
      && e.2.strands.any fun k => match s.strand? k with | some st => names.contains st.name | none => false).map (·.1)
    if more.isEmpty then l else s.killSet fuel (l ++ more)

/-- Take strands out of the rendezvous latches (R437, R444). -/
def State.unlatch (s : State) (keys : List Nat) : State :=
  let drop (x : LatchEnt) : LatchEnt := { x with members := x.members.filter fun m => !keys.contains m.1 }
  let ls := s.latches.map fun (e : Nat × List LatchEnt) => (e.1, (e.2.map drop).filter fun x => !x.members.isEmpty)
  { s with latches := ls.filter fun e => !e.2.isEmpty }

/-- Take operations of strands out of the engines' queues; `keep` says which stay. -/
def State.dequeue (s : State) (keys : List Nat) (keep : Nat × Nat → Bool) : State :=
  let cs := s.cores.map fun (e : Nat × CoreSt) =>
    (e.1, { e.2 with engine := e.2.engine.filter fun m => !keys.contains m.1 || keep m })
  { s with cores := cs.filter fun e => e.2 != CoreSt.reset }

/-- Drop operations of a strand, with their symbols. -/
def Strand.dropOps (st : Strand) (f : Op → Bool) : Strand :=
  let gone := (st.ops.filter f).map fun o => o.id
  { { st with ops := st.ops.filter fun o => !f o }.retire with syms := st.syms.filter fun y => !gone.contains y.op }

/-- Give a save-pool run back (R435). -/
def State.freePool (s : State) (w : Wg) : State := s.onPart w.part fun p => { p with pool := p.pool.erase w.pool }

/-- A CORE record about a core (R365, R386). -/
def coreRec (sub core : Nat) : Rec := { plainRec 0x09 sub 0 with core := some core }

/-- The CORE 0x01 record of a quarantine: lasting, with the workgroup that was moved last (R365, R386). -/
def quarantineRec (core : Nat) (w : Option Wg) : Rec :=
  let r := { coreRec 0x01 core with outcome := 3 }
  match w with
  | some w => { r with rcb := .ofNat 32 w.rcb, retries := min 255 w.retries }
  | none => r

/-- The quarantine's move of a workgroup is over: when it was a core's last, the CORE 0x01 record is written (R386). -/
def State.evacDone (s : State) (wg : Nat) : State :=
  let mine := s.cores.filter fun e => e.2.evac.contains wg
  mine.foldl (fun s e =>
    let s := s.onCore e.1 fun c => { c with evac := c.evac.erase wg }
    if (s.core e.1).evac.isEmpty then
      match s.partOfCore e.1 with
      | some p => s.postRec p (quarantineRec e.1 (s.wg? wg))
      | none => s
    else s) s

/-- Number of an event kind (R301). -/
def EvKind.code : EvKind → Nat
  | .dispatch => 0 | .preempt => 1 | .fault => 2

/-- What a decision came to: its code, the source's queue and the home core (R490). -/
structure Verdict where
  code : Nat
  queue : Nat
  home : Nat
deriving DecidableEq, Repr

/-- The trace record of a decision (R490). -/
def State.traceDecision (s : State) (die part : Nat) (kind : EvKind) (version : Half) (cycles : Nat) (v : Verdict) : State :=
  s.traceRec part 4 die
    (kind.code + v.code * 2 ^ 8 + version.toNat * 2 ^ 32 + v.queue * 2 ^ 48 + v.home * 2 ^ 64 + cycles % 2 ^ 16 * 2 ^ 80)

/-- The save that a displacing decision has begun is over: it was made or, `code` 0, counts as keep (R436). -/
def State.settleVerdict (s : State) (wg code : Nat) : State :=
  match (s.wg? wg).bind fun w => w.verdict.map fun v => (w, v) with
  | none => s
  | some (w, die, version, cycles) =>
    (s.traceDecision die w.part .preempt version cycles ⟨code, w.queue, w.home⟩).onWg wg fun x => { x with verdict := none }

/-- Kill one workgroup (R381): its strands stop, its suspended operations and those that wait in a latch are discarded;
what a joint operation cannot finish without them goes too. A saved one is gone at once. -/
def State.killOne (s : State) (wg : Nat) (job : Bool) : State :=
  match s.wg? wg with
  | none => s
  | some w =>
    if w.phase = .killed then s
    else
      let s := if w.phase = .running then s else s.freePool w
      let s := (s.settleVerdict wg 0).onWg wg fun x => { x with job := job }
      if w.phase = .saved then
        State.endWg (wg := wg) (s.evacDone wg |> fun s => { s with strands := s.strands.filter fun e => !w.strands.contains e.1 })
      else
        let dead := (s.joints.filter fun e => e.2.members.any fun m =>
          match s.strand? m.1 with
          | some st => st.wg == wg && (match st.op? m.2 with | some o => o.susp.isSome | none => false)
          | none => false).map (·.1)
        let gone (o : Op) : Bool := !o.done && (o.susp.isSome || o.joint == some 0)
        let lost (o : Op) : Bool := match o.joint with | some n => dead.contains n | none => false
        let s := { s with joints := s.joints.filter fun e => !dead.contains e.1 }
        let s := s.unlatch w.strands
        let s := w.strands.foldl (fun s k => s.onStrand k fun st => st.dropOps gone) s
        let sts := s.strands.map fun (e : Nat × Strand) => if e.2.ops.any lost then (e.1, e.2.dropOps lost) else e
        let s := { s with strands := sts }
        let s := s.dequeue (s.strands.map (·.1)) fun m =>
          match s.strand? m.1 with | some st => (st.op? m.2).isSome | none => false
        (s.onWg wg fun x => { x with phase := .killed }).evacDone wg

/-- Kill a workgroup and those its gangs take with it (R380, R381). -/
def State.killWg (s : State) (wg : Nat) : State := (s.killSet 200 [wg]).foldl (fun s k => s.killOne k false) s

/-- Remove a source, failed with a detail (R381, R382, R449); its saved workgroups are killed, with those of their gangs (R444). -/
def State.removeSource (s : State) (k detail : Nat) : State :=
  match s.source? k with
  | none => s
  | some x =>
    let s := (s.onSource k fun y => { y with removed := true }).onPkt x.part x.queue x.pkt fun p =>
      { p with failed := some (p.failed.getD detail), st := .issued }
    ((x.saved.foldl (fun s w => s.killWg w) s).checkWork x.part x.queue x.pkt).refresh x.part

/-- Insert a workgroup by ascending home core (R366). -/
def insHome (e : Nat × Wg) : List (Nat × Wg) → List (Nat × Wg)
  | [] => [e]
  | f :: t => if e.2.home < f.2.home then e :: f :: t else f :: insHome e t

/-- Kill a job (R381): every workgroup of the partition with the fault domain, recorded as one group by ascending home
core (R366), and every source of the domain. -/
def State.killJob (s : State) (part domain : Nat) : State :=
  let ws := (s.wgs.filter fun e => e.2.part == part && e.2.phase != .killed && s.effDomain part e.2.rcb == domain).foldr insHome []
  let s := if ws.isEmpty then s else s.postGroup part { recs := ws.map fun e => s.killRec e.2, split := none, op := none }
  let srcs := (s.sources.filter fun e => e.2.part == part && s.effDomain part e.2.rcb == domain).map (·.1)
  let s := ws.foldl (fun s e => s.killOne e.1 true) s
  let more := (s.killSet 200 (ws.map (·.1))).filter fun k => !ws.any fun e => e.1 == k
  let s := more.foldl (fun s k => s.killOne k false) s
  srcs.foldl (fun s k => s.removeSource k 0) s

/-! ## Acceptance and lost cores (R448, R449) -/

/-- The partition with every core empty (R448). -/
def State.emptied (s : State) : State :=
  { s with strands := [], wgs := [], quarters := [], sources := []
           cores := s.cores.map fun (e : Nat × CoreSt) => (e.1, { e.2 with clearing := false }) }

/-- Place n workgroups of a kernel, one after another. -/
def State.seatN (s : State) (x : Seat) : Nat → Bool
  | 0 => true
  | n + 1 =>
    match s.fallbackPlace x none 0 with
    | none => false
    | some h =>
      match s.seat x h with
      | none => false
      | some (s', keys, spad, voff) =>
        let w : Wg :=
          { phase := .running, part := x.part, source := 0, queue := 0, rcb := x.rcb, kernel := x.kernel, grid := (1, 1, 1), lin := 0
            seq := 0, home := h, cluster := clusterOf h, spread := false, strands := keys, spadBase := spad
            vaultAddr := h * 2 ^ 22 + voff, consts := [], yield := false, retries := 0, charge := 0
            quarantine := false, pool := (0, 0), slots := keys, since := 0, job := false, pinned := false }
        ({ s' with wgs := mapIns s'.wgNext w s'.wgs, wgNext := s'.wgNext + 1 }).seatN { x with wg := s'.wgNext + 1 } n

/-- Do n workgroups of a kernel fit the empty partition (R47, R448)? One bound to a cluster must find room there (R439). -/
def State.fitsEmpty (s : State) (part : Nat) (k : Kernel) (n : Nat) (cluster : Option Nat := none) : Bool :=
  let x : Seat := { part := part, wg := s.wgNext, kernel := k, rcb := 0, ctx := Ctx.atGrant 0 0, idxs := List.range k.strands
                    cluster := cluster, keepVault := false }
  decide (n ≤ maxResident) && s.emptied.seatN x n

/-- Do a source's next start, as a whole cooperative launch its workgroups together, and each of its saved workgroups fit the
empty partition (R439, R449)? -/
def State.sourceFits (s : State) (x : Source) : Bool :=
  let whole := x.kernel.coop && x.pipe.isNone
  (x.left == 0 && !whole || s.fitsEmpty x.part x.kernel (if whole then x.left + x.saved.length + x.resident else 1))
    && x.saved.all fun k =>
      match s.wg? k with
      | some w => s.fitsEmpty x.part x.kernel 1 (if w.pinned then some w.cluster else none)
      | none => true

/-- The partition has lost cores: a source whose next start no longer fits the empty partition fails (R449). -/
def State.coresLost (s : State) (part : Nat) : State :=
  let mine := s.sources.filter fun e => e.2.part == part && !e.2.removed && (decide (0 < e.2.left) || !e.2.saved.isEmpty)
  mine.foldl (fun s e => if s.sourceFits e.2 then s else s.removeSource e.1 11) s

end Sys2Proof.Machine
end

