-- ==== Sys2Proof/Machine/Save.lean ====
section
/-! DEFINITION. Taking workgroups off their cores and back (R434 to R441, R444), quarantine (R386) and compaction (R97,
R451, R452). -/

namespace Sys2Proof.Machine

open Sys2Proof

/-! ## The workgroup record (R438) -/

/-- Rounded up to 4 KiB. -/
def up4k (n : Nat) : Nat := (n + 4095) / 4096 * 4096

/-- Bytes of a tile image: head, values, spines and a tag bit for each (R438, R253). -/
def Tile.imageBytes (t : Tile) : Nat :=
  let n := t.rows * t.cols * (1 + t.depth)
  64 + 4 * n + (n + 7) / 8

/-- The tiles of a strand. -/
def Strand.bound (st : Strand) : List (Nat × Tile) := st.tiles.filterMap fun e => e.2.map fun t => (e.1, t)

/-- The strands of a workgroup with their keys. -/
def State.members (s : State) (w : Wg) : List (Nat × Strand) := w.strands.filterMap fun k => (s.strand? k).map fun st => (k, st)

/-- The operations of a strand that a save records (R437): loads and stores have no op record. -/
def Strand.recOps (st : Strand) : List Op := st.ops.filter fun o => o.cls != .ld && o.cls != .st

/-- Bytes of a workgroup record (R438). -/
def State.recordBytes (s : State) (w : Wg) : Nat :=
  let ms := s.members w
  4096 + ms.length * up4k (ctxBytes w.kernel.logG) + up4k w.kernel.spad
    + ms.foldl (fun a e => e.2.bound.foldl (fun a t => a + up4k t.2.imageBytes) a) 0
    + 256 * ms.foldl (fun a e => a + e.2.recOps.length) 0

/-- A tile image (R438): values by row, then spine nodes oldest first, then one tag bit for each. -/
def Tile.fields (t : Tile) (h : Nat) : Fields :=
  let n := t.rows * t.cols
  let num (v : Option Word) : Nat := match v with | some w => w.toNat | none => 0
  let tagAt := 64 + 4 * n * (1 + t.depth)
  let tags := ((List.range n).filterMap fun e => if mapGet (some 0) t.vals (e / t.cols * 256 + e % t.cols) = none then some e else none)
    ++ (List.range n).flatMap fun e =>
      (((mapGet [] t.spines (e / t.cols * 256 + e % t.cols)).reverse.zipIdx).filter fun x => x.1.2.isNone).map fun x => n + e * t.depth + x.2
  [(0, 1, h), (1, 1, if t.fp then 8 else 0), (2, 2, t.rows), (4, 2, t.cols), (6, 1, t.depth), (7, 8, t.n), (15, 2, t.flags.toNat)]
    ++ (List.range n).map (fun e => (64 + 4 * e, 4, num (mapGet (some 0) t.vals (e / t.cols * 256 + e % t.cols))))
    ++ (List.range n).flatMap (fun e =>
        ((mapGet [] t.spines (e / t.cols * 256 + e % t.cols)).reverse.zipIdx).map fun x =>
          (64 + 4 * n + 4 * (e * t.depth + x.2), 4, num x.1.2))
    ++ (List.range ((n * (1 + t.depth) + 7) / 8)).map fun b =>
        (tagAt + b, 1, (List.range 8).foldl (fun a i => a + if tags.contains (8 * b + i) then 2 ^ i else 0) 0)

/-- Counters of a strand in the order LD, ST, CP, MX, CT. -/
def Strand.counts (st : Strand) : List Nat := [st.count .ld, st.count .st, st.count .cp, st.count .mx, st.count .ct]

/-- An op record (R438), with the number of the strand's open batch. The scalars read at issue stand in the order of the
instruction's fields (assumption 66). -/
def opFields (open' : Half) (o : Op) : Fields :=
  let mb : Fields := match o.batch with
    | some b => [(158, 2, b.toNat), (160, 1, 1)]
    | none => if o.cls == .mx then [(158, 2, open'.toNat)] else []
  let cp : Fields := match o.body with
    | .copy c =>
      let win := c.written / 512 * 512
      [(86, 8, 128 * win)] ++ (List.range 8).map fun i =>
        (94 + 8 * i, 8, (List.range 64).foldl (fun a j => a + if 64 * i + j < c.written - win then 2 ^ j else 0) 0)
    | _ => []
  ((o.words.zipIdx).map fun e => (4 * e.2, 4, e.1))
    ++ ((o.scalars.take 8).zipIdx.map fun e => (20 + 8 * e.2, 8, e.1.toNat)) ++ [(84, 2, o.rows)] ++ cp ++ mb

/-- A context with the scalars at and above a count zero (R161). -/
def Ctx.cutS (c : Ctx) (n : Nat) : Ctx := { c with regs := { c.regs with s := c.regs.s.filter fun x => decide (x.1 < n) } }

/-- The strands arrived at a barrier of a workgroup at which one waits, by index (R438). -/
def barMask (ms : List (Nat × Strand)) (k : Nat) : Nat :=
  let waits (st : Strand) : Bool := st.ctx.splits.any fun p => p.st == .barrier && p.bar == some (.workgroup k)
  if ms.any fun e => waits e.2 then
    ms.foldl (fun a e => if e.2.atBar (.workgroup k) then a ||| 2 ^ e.2.idx else a) 0
  else 0

/-- Where the contexts and the tile images of a record stand: first byte and length (R438). -/
def State.imageRun (s : State) (w : Wg) : Nat × Nat :=
  let ms := s.members w
  let tiles := ms.foldl (fun a e => e.2.bound.foldl (fun a t => a + up4k t.2.imageBytes) a) 0
  ((s.part w.part).poolLo + 65536 * w.pool.1 + 4096, ms.length * up4k (ctxBytes w.kernel.logG) + up4k w.kernel.spad + tiles)

/-- Write the workgroup record (R438). -/
def State.writeRecord (s : State) (w : Wg) : State :=
  let ms := s.members w
  let cx := ctxBytes w.kernel.logG
  let ctxAt (i : Nat) : Nat := 4096 + i * up4k cx
  let spadAt := 4096 + ms.length * up4k cx
  let tilesAt := spadAt + up4k w.kernel.spad
  let tiles := ms.flatMap fun e => e.2.bound
  let tileFields := tiles.foldl (fun (acc : Nat × Fields) t => (acc.1 + up4k t.2.imageBytes, acc.2 ++ (t.2.fields t.1).shift acc.1)) (tilesAt, [])
  let ops := ms.flatMap fun e => e.2.recOps.map fun o => (e.2.batch, o)
  let gang := ms.any fun e => gangNamed e.2.ctx.gang
  let held := s.cbars.filter fun c => c.2.arrived.any fun k => w.strands.contains k
  let bit (b : Bool) (i : Nat) : Nat := if b then 2 ^ i else 0
  let head : Fields :=
    [(0, 1, 1), (1, 1, ms.length), (2, 1, bit w.spread 0 + bit gang 1 + bit (!held.isEmpty) 2 + bit w.quarantine 3), (3, 1, w.cluster)
      , (4, 2, w.home), (8, 8, w.kernel.addr.toNat), (16, 4, w.rcb), (20, 2, w.queue), (24, 8, w.lin), (32, 8, w.seq.toNat)
      , (40, 4, w.kernel.spad), (44, 1, tiles.length), (46, 2, ops.length), (48, 8, w.vaultAddr)]
    ++ (ms.zipIdx).flatMap (fun e =>
        [(64 + 16 * e.2, 8, ctxAt e.2)
        , (72 + 16 * e.2, 1, bit (e.1.2.halted || (s.quarter (quarterOf e.1.1)).stopped) 0 + bit (e.1.2.ctx.splits.any fun p => p.st == .parked) 1 + bit (e.1.2.phase == .exited) 2)
        , (73 + 16 * e.2, 1, e.1.2.idx)])
    ++ (List.range 16).map (fun k => (192 + k, 1, barMask ms k)) ++ (held.zipIdx).flatMap fun e =>
        [(256 + 4 * e.2, 2, e.1.1 % 16), (258 + 4 * e.2, 2, e.1.2.round)]
  let ctxs : Fields := (ms.zipIdx).flatMap fun e =>
    let st := e.1.2
    (ctxFields e.1.1 w.kernel.logG w.kernel.addr.toNat (st.ctx.cutS w.kernel.scalars) st.syms st.counts st.gangSeq st.batch st.openBatches.length).shift (ctxAt e.2)
  let spad : Fields := ((readBytes s.spad (w.spadPa 0) w.kernel.spad).zipIdx).map fun e => (spadAt + e.2, 1, e.1.toNat)
  let opsF : Fields := (ops.zipIdx).flatMap fun e => (opFields e.1.1 e.1.2).shift (tileFields.1 + 256 * e.2)
  let base := (s.part w.part).poolLo + 65536 * w.pool.1
  s.poolWrite base (65536 * w.pool.2) (head ++ ctxs ++ spad ++ tileFields.2 ++ opsF)

/-! ## The save sequence (R435 to R437) -/

/-- Take a run of granules from the save pool (R435); none where it has too few, or none at all (R339). -/
def State.takePool (s : State) (part n : Nat) : Option (Nat × Nat) :=
  let p := s.part part
  (firstFit p.pool n (bitsOf p.spsize 15 0)).map fun b => (b, n)

/-- Begin to save a running workgroup (R436): none where the pool has no room. -/
def State.beginSave (s : State) (wg : Nat) (quarantine : Bool) : Option State :=
  match s.wg? wg with
  | none => none
  | some w =>
    if w.phase ≠ .running then none
    else
      match s.takePool w.part ((s.recordBytes w + 65535) / 65536) with
      | none => none
      | some run =>
        let s := s.onPart w.part fun p => { p with pool := run :: p.pool }
        some (s.onWg wg fun x => { x with phase := .saving, pool := run, quarantine := quarantine, saveAt := s.clock.toNat })

/-- Is a workgroup a receiver still to be served of a multicast copy, which may be suspended (R406, R436, assumption 144)? -/
def State.copyInto (s : State) (wg : Nat) : Bool :=
  s.strands.any fun e => e.2.ops.any fun o => !o.done &&
    match o.body with
    | .copy c => (c.recv.zip c.wgs).any fun r => r.2 == wg && !r.1.2.2
    | _ => false

/-- Are steps 2 and 3 of a save over (R436, R437), and any compaction under way (R451)? -/
def State.saveReady (s : State) (wg : Nat) (w : Wg) : Bool :=
  !s.copyInto wg && (s.members w).all fun e => (s.quarter (quarterOf e.1)).moves.isEmpty && e.2.ops.all fun o =>
    if o.cls == .ld || o.cls == .st then o.sym.isSome && !o.done
    else !(o.started && o.susp.isNone && !o.done && (match o.body with | .mx (.mma ..) _ _ => false | .mx .. => true | _ => false))

/-- A strand as it is saved: a .late load that is recorded starts again with every lane of its mask, and its group's replay is
cancelled (R426, R437); the pass of a matched instruction is dropped (R478); one of a stopped quarter is halted (R480). -/
def Strand.recorded (st : Strand) (stopped : Bool) : Strand :=
  let late (o : Op) : Op :=
    { o with started := false, body := o.body.noLanes, susp := none, group := none, held := [], flags := 0 }
  { st with ops := st.ops.map fun o => if o.sym.isSome && !o.done then late o else o
            halted := st.halted || stopped
            ctx := { st.ctx with splits := st.ctx.splits.map fun p => { p with pass := none } } }

/-- Take a strand's block out of use: it drains (R25, R96), and no failed walk of it is kept (R410). -/
def State.drain (s : State) (key : Nat) (st : Strand) (left : Nat) : State :=
  ((s.dropFails (coreOf key) st.part).agentLeft (quarterOf key) key).onQuarter (quarterOf key) fun q =>
    { q with draining := q.draining ++ [(st.block, 2 ^ st.logG, left)], drowsy := q.drowsy.filter fun d => d.1 != key
             moves := q.moves.filter fun m => m.1 != key
             exempt := q.exempt.filter fun e => e.1 != key, entering := q.entering.filter fun e => e.strand != key
             stepping := q.stepping.filter fun e => e.1 != key }

/-- What a strand's stay on its block adds to the charge (R292). -/
def State.stayCharge (s : State) (st : Strand) : Nat := (s.clock.toNat - st.granted) * max (2 ^ st.logG) 32

/-- Place a workgroup saved by a quarantine; where none has room it waits saved and its partition's policy hears (R386).
Its move is over with its restore, or with its wait. -/
def State.rehome (s : State) (wg : Nat) : State :=
  match s.wg? wg with
  | none => s.evacDone wg
  | some w =>
    let place := ((s.byLoad (s.usableCores w.part 0 ++ s.usableCores w.part 1)).findSome? fun c => s.startSaved wg c)
    match place with
    | some s' => s'
    | none =>
      let r := quarantineRec w.home (some w)
      (s.evacDone wg).route { part := w.part, wg := some wg, split := none, op := none, fault := r, core := w.home }

/-- The clock up to which steps 2 and 3 of a save may end (R436). -/
def Wg.saveLimit (w : Wg) : Nat := w.saveAt + 65536

/-- The end of a save (R436 steps 4 and 5, R444). -/
def State.completeSave (s : State) (wg : Nat) : State :=
  match s.wg? wg with
  | none => s
  | some w =>
    if w.phase ≠ .saving ∨ !s.saveReady wg w ∨ w.saveLimit < s.clock.toNat then s
    else
      let ms := s.members w
      let s := (s.writeRecord w).settleVerdict wg 1
      let (at', n) := s.imageRun w
      let image := s.flostra.filter fun c => decide (at' ≤ c.1 ∧ c.1 < at' + n)
      let pinned := w.spread || ms.any (fun e => gangNamed e.2.ctx.gang) || s.cbars.any fun c => c.2.arrived.any w.strands.contains
      let s := (s.unlatch w.strands).dequeue w.strands fun _ => false
      let charge := ms.foldl (fun a e => a + s.stayCharge e.2) w.charge
      let s := ms.foldl (fun s e =>
        let stopped := (s.quarter (quarterOf e.1)).stopped
        (s.drain e.1 e.2 (e.2.ops.filter fun o => o.sym.isSome).length).onStrand e.1 fun st => st.recorded stopped) s
      let s := s.rekey wg (ms.map fun e => (e.1, savedKey wg e.2.idx))
      let s := s.onWg wg fun x => { x with phase := .saved, slots := [], pinned := pinned, charge := charge, image := image }
      let s := s.onSource w.source fun x => { x with resident := x.resident - 1, saved := x.saved ++ [wg] }
      let s := (s.writeUse w.part w.rcb).roomFreed w.part (w.home :: w.slots.map coreOf)
      if w.quarantine then s.rehome wg else s

/-- Abandon a save (R436): the strands go on; for a quarantine it has failed and the workgroup is killed (R386). -/
def State.abandonSave (s : State) (wg : Nat) : State :=
  match s.wg? wg with
  | none => s
  | some w =>
    if w.phase ≠ .saving then s
    else
      let s := ((s.freePool w).settleVerdict wg 0).onWg wg fun x => { x with phase := .running, pool := (0, 0), quarantine := false }
      if w.quarantine then s.killWg wg else s

/-! ## Restore (R440, R441) -/

/-- Gang sequence number of an operation that waits in the latch: the strand's .g operations are numbered in order (R43). -/
def Strand.seqOf (st : Strand) (id : Nat) : Half :=
  st.gangSeq - .ofNat 16 ((st.ops.dropWhile fun o => o.id != id).filter fun o => o.joint.isSome).length

/-- Enter the latch again under a strand's tag and number (R437). -/
def State.relatch (s : State) (key id : Nat) : State :=
  match s.strand? key with
  | none => s
  | some st =>
    let cl := clusterOf (coreOf key)
    let seq := st.seqOf id
    let ents := mapGet [] s.latches cl
    let mine (e : LatchEnt) : Bool := e.part == st.part && e.gang == st.ctx.gang && e.seq == seq
    let l := if ents.any mine then ents.map fun e => if mine e then { e with members := e.members ++ [(key, id)] } else e
      else ents ++ [{ part := st.part, gang := st.ctx.gang, seq := seq, members := [(key, id)] }]
    { s with latches := mapPut [] s.latches cl l }

/-- Is an op record number before another, modulo 2^16 (R271)? -/
def recBefore (a b : Nat) : Bool := decide (2 ^ 15 ≤ (BitVec.ofNat 16 a - BitVec.ofNat 16 b).toNat)

/-- Insert an operation by op record number; one without a record goes first. -/
def insRec (e : Nat × Op) : List (Nat × Op) → List (Nat × Op)
  | [] => [e]
  | f :: t => if !e.2.hasRec || (f.2.hasRec && recBefore e.2.recNo f.2.recNo) then e :: f :: t else f :: insRec e t

/-- Issue a strand's recorded operations again (R437, R440). -/
def State.reenter (s : State) (key : Nat) (o : Op) : State :=
  match o.body with
  | .mx _ _ _ =>
    if o.done then s
    else if o.joint = some 0 then s.relatch key o.id
    else s.onCore (coreOf key) fun c => { c with engine := c.engine ++ [(key, o.id)] }
  | _ => if o.sym.isSome && !o.done then s.reissueLate key o.id else s

/-- Give a restored strand's symbols numbers of its new quarter (R98). -/
def State.renumSyms (s : State) (key : Nat) : State :=
  match s.strand? key with
  | none => s
  | some st =>
    let free := ({ s with strands := mapErase key s.strands }).freeSyms (quarterOf key)
    let m := (st.syms.map fun y => y.num).zip free
    let g (n : Nat) : Nat := renKey m n
    s.onStrand key fun st =>
      { st with
        ctx := { st.ctx with regs := st.ctx.regs.renum g }
        atEntry := st.atEntry.map fun e => { e with ctx := { e.ctx with regs := e.ctx.regs.renum g } }
        syms := st.syms.map fun y => { y with num := g y.num, lead := y.lead.map g }
        ops := st.ops.map fun o => { o with sym := o.sym.map g } }

/-- Has every quarter of a restored workgroup the symbols that its strands need (R98)? -/
def State.symsFit (s : State) (ms : List (Nat × Strand)) : Bool :=
  ms.all fun e =>
    let q := quarterOf e.1
    let total : Nat := (s.residents q).foldl (fun (a : Nat) x => a + x.2.syms.length) 0
    decide (total ≤ 256)

/-- A split of a strand whose context was changed in its record while it was saved (R440): one that waits as the saved split of its
slot does keeps what it waits for. -/
def Split.reread (p old : Split) : Split :=
  if p.st == old.st then { old with pc := p.pc, mask := p.mask, words := if p.pc = old.pc then old.words else [] }
  else if p.st == .parked || p.st == .barrier then { p with st := .ready }
  else p

/-- Take a strand's context from its record, where it was changed there while the workgroup was saved (R342, R440). -/
def State.rereadCtx (s : State) (key at' : Nat) : State :=
  match s.strand? key with
  | none => s
  | some st =>
    let (x, syms) := readCtx fun o n => s.load .flostra (at' + o) n
    let free := ({ s with strands := mapErase key s.strands }).freeSyms (quarterOf key)
    let g (n : Nat) : Nat := free.getD n 0
    let x := { x with regs := (s.recohere st.part (x.regs.renum g)).forms
                      splits := (x.splits.zipIdx).map fun e => e.1.reread (st.split e.2) }
    let s := s.onStrand key fun st =>
      { st with ctx := x, syms := [], ops := st.ops.filter fun o => o.sym.isNone, exited := ~~~x.lanes (s.spilled st.part x) }
    s.issueSyms key x (syms.map fun y => { y with num := g y.num, lead := y.lead.map g })

/-- A tile from its image (R253, R438), its shape as it was saved. -/
def Tile.reread (t : Tile) (rd : Nat → Nat → Nat) : Tile :=
  let n := t.rows * t.cols
  let tag (i : Nat) : Bool := (rd (64 + 4 * n * (1 + t.depth) + i / 8) 1).testBit (i % 8)
  let word (i : Nat) : Option Word := if tag i then none else some (.ofNat 32 (rd (64 + 4 * i) 4))
  let key (e : Nat) : Nat := e / t.cols * 256 + e % t.cols
  { t with
    n := rd 7 8 % 2 ^ 64, flags := .ofNat 16 (rd 15 2)
    vals := (List.range n).foldl (fun m e => mapPut (some 0) m (key e) (word e)) []
    spines := t.spines.map fun (x : Nat × List (Nat × Option Word)) =>
      let e := x.1 / 256 * t.cols + x.1 % 256
      (x.1, ((x.2.reverse.zipIdx).map fun y => (y.1.1, word (n + e * t.depth + y.2))).reverse) }

/-- Take the tiles of the strands of a workgroup from their images, where those were changed in its record (R342, R440). -/
def State.rereadTiles (s : State) (at' : Nat) (changed : Nat → Nat → Bool) (ms : List (Nat × Strand)) : State :=
  ((ms.flatMap fun e => e.2.bound.map fun t => (e.1, t)).foldl (fun (acc : Nat × State) e =>
    let (a, s) := acc
    let n := up4k e.2.2.imageBytes
    (a + n, if changed a n then
        s.onStrand e.1 fun st => st.onTile e.2.1 fun t => t.reread fun o k => s.load .flostra (a + o) k
      else s)) (at', s)).2

/-- Read a workgroup's record (R440): the scratchpad image always; a context or a tile image where it is no longer what the save
wrote. -/
def State.takeRecord (s : State) (w : Wg) : State :=
  let ms := s.members w
  let cx := up4k (ctxBytes w.kernel.logG)
  let (at', _) := s.imageRun w
  let cells (l : List Host.Cell) (a n : Nat) : List Host.Cell := l.filter fun c => decide (a ≤ c.1 ∧ c.1 < a + n)
  let changed (a n : Nat) : Bool := cells s.flostra a n != cells w.image a n
  let spadAt := at' + ms.length * cx
  let s := { s with spad := writeBytes s.spad (w.spadPa 0) (readBytes s.flostra spadAt w.kernel.spad) }
  let s := s.rereadTiles (spadAt + up4k w.kernel.spad) changed ms
  (ms.zipIdx).foldl (fun s e => if changed (at' + e.2 * cx) cx then s.rereadCtx e.1.1 (at' + e.2 * cx) else s) s

/-- The end of a restore (R440, R441, R444). -/
def State.completeRestore (s : State) (wg : Nat) : State :=
  match s.wg? wg with
  | none => s
  | some w =>
    let ms := s.members w
    if w.phase ≠ .restoring ∨ !s.symsFit ms then s
    else
      -- a scalar at or above the kernel's count reads zero (R161); a split resumed while saved goes on (R441)
      let s := ms.foldl (fun s e =>
        (s.onStrand e.1 fun st => st.onCtx fun c =>
          { c.cutS w.kernel.scalars with splits := c.splits.map fun p => if (p.park.map fun k => k.resume) == some true then p.unpark else p }).renumSyms e.1) s
      let ops := ((s.members w).flatMap fun e => e.2.ops.map fun o => (e.1, o)).foldr insRec []
      let s := s.takeRecord w
      let s := (s.freePool w).onWg wg fun x =>
        { x with phase := .running, pool := (0, 0), quarantine := false, since := s.clock.toNat, image := [] }
      let s := ops.foldl (fun s e => if ((s.strand? e.1).bind fun st => st.op? e.2.id).isSome then s.reenter e.1 e.2 else s) s
      let s := (ms.foldl (fun s e => s.pump e.1) s).evacDone wg
      if w.strands.any fun k => (s.core (coreOf k)).quarantined then
        match s.beginSave wg true with
        | some s' => s'
        | none => s.killWg wg
      else s.refresh w.part

/-! ## Quarantine (R386) -/

/-- Quarantine a core: nothing is placed there and its workgroups are moved. -/
def State.quarantine (s : State) (core : Nat) : State :=
  if (s.core core).quarantined then s
  else
    let ws := s.wgs.filter fun e => e.2.resident && e.2.phase != .killed && e.2.strands.any fun k => decide (coreOf k = core)
    let s := s.onCore core fun c => { c with quarantined := true, evac := ws.map (·.1) }
    let s := ws.foldl (fun s e =>
      match e.2.phase with
      | .running =>
        (match s.beginSave e.1 true with
          | some s' => s'
          | none => s.killWg e.1)
      | _ => s.onWg e.1 fun x => { x with quarantine := true }) s
    match s.partOfCore core with
    | none => s
    | some p => (if ws.isEmpty then s.postRec p (quarantineRec core none) else s).coresLost p

/-- Quarantine the cores of which a cell has been found lastingly faulty (R384, R386). -/
def State.quarantineFailing (s : State) : State :=
  ((s.cores.filter fun e => e.2.failing && !e.2.quarantined).map (·.1)).foldl (fun s c => s.quarantine c) s

/-! ## Compaction (R97, R451, R452) -/

/-- May a strand's block move now: its register writes are complete and its symbols resolved (R97)? -/
def Strand.movable (st : Strand) : Bool :=
  st.syms.isEmpty && st.ops.all fun o => o.done || (match o.body with | .loadT _ _ => false | b => b.dst == .none)

/-- End a compaction: the free blocks are made anew and the placement is tried once more (R97). -/
def State.endCompaction (s : State) (q : Nat) : State :=
  let free := (freeBlocks (s.heldBlocks q) 8 0 1024).foldl (fun l b => mapIns b.1 b.2 l) []
  let retry := (s.quarter q).retry
  let s := s.onQuarter q fun y => { y with free := free, retry := none }
  match retry with
  | none => s
  | some src =>
    match s.source? src with
    | none => s
    | some x =>
      if !s.wanting x then s
      else match s.startAt src (q / 4) with | some s' => s'.refresh x.part | none => s.refresh x.part

/-- Make the next move of a compaction (R97). -/
def State.moveBlock (s : State) (q : Nat) : State :=
  match (s.quarter q).moves with
  | [] => s
  | (key, b) :: rest =>
    let drop (s : State) : State :=
      let s := s.onQuarter q fun y => { y with moves := rest }
      if rest.isEmpty then s.endCompaction q else s
    match s.strand? key with
    | none => drop s
    | some st =>
      let n := 2 ^ st.logG
      let clear := ((s.heldBlocks q).erase (st.block, n)).all fun t => decide (t.1 + t.2 ≤ b ∨ b + n ≤ t.1)
      if st.fixed || !clear then drop s
      else if !st.movable then s
      else drop ((s.useSlots key st.ctx.regs.live).onStrand key fun st => { st with block := b })

/-- Insert a workgroup by descending scratchpad need, then ascending start. -/
def insSpad (e : Nat × Wg) : List (Nat × Wg) → List (Nat × Wg)
  | [] => [e]
  | f :: t =>
    if f.2.kernel.spad < e.2.kernel.spad ∨ (f.2.kernel.spad = e.2.kernel.spad ∧ e.2.spadBase < f.2.spadBase) then e :: f :: t
    else f :: insSpad e t

/-- Has a workgroup's scratchpad no access on its way (R452)? -/
def State.spadIdle (s : State) (wg : Nat) (w : Wg) : Bool :=
  !s.copyInto wg && (s.members w).all fun e => (s.quarter (quarterOf e.1)).moves.isEmpty && e.2.ops.all fun o =>
    match o.body with
    | .copy c => o.done || o.susp.isSome || (c.dstSpace != .spad && c.srcSpace != .spad)
    | .mx .. => o.done || !o.started || o.susp.isSome
    | b => b.ranges.all fun r => r.1 != .spad

/-- The workgroups whose scratchpad allocation a compaction of a core moves, in the order of R97 (R452), where a source lacks only
a contiguous run. -/
def State.planSpad (s : State) (core : Nat) : List Nat :=
  let taken := s.spadRuns core
  let used := taken.foldl (fun a t => a + t.2) 0
  let lacks := s.sources.any fun e => !e.2.wantDies.isEmpty && s.usable e.2.part core
    && decide (used + e.2.kernel.spad ≤ Config.spadBytes) && (firstFit taken e.2.kernel.spad Config.spadBytes).isNone
  if !lacks then []
  else
    let ws := (s.wgs.filter fun e => e.2.resident && e.2.home == core && e.2.kernel.spad != 0).foldr insSpad []
    (ws.foldl (fun (acc : List (Nat × Nat) × List Nat) e =>
      let n := e.2.kernel.spad
      let others := acc.1.erase (e.2.spadBase, n)
      match firstFit others n Config.spadBytes with
      | some b => if b < e.2.spadBase then ((b, n) :: others, acc.2 ++ [e.1]) else acc
      | none => acc) (taken, [])).2

/-- Make the next move of a compaction of a core's scratchpad (R452): its workgroup has stopped issuing, and moves once nothing is on
its way to the allocation; one that has gone, or is being saved or killed, is passed over. The placement is judged anew at the end. -/
def State.moveSpad (s : State) (core wg : Nat) (rest : List Nat) : State :=
  let pass (s : State) (part : Nat) : State :=
    let s := s.onCore core fun c => { c with spadMoves := rest }
    if rest.isEmpty then s.refresh part else s
  match s.wg? wg with
  | none => s.onCore core fun c => { c with spadMoves := rest }
  | some w =>
    let n := w.kernel.spad
    if w.phase ≠ .running ∨ w.home ≠ core then pass s w.part
    else if !s.spadIdle wg w then s
    else
      match firstFit ((s.spadRuns core).erase (w.spadBase, n)) n Config.spadBytes with
      | some b =>
        if w.spadBase ≤ b then pass s w.part
        else
          let s := { s with spad := writeBytes s.spad (core * Config.spadBytes + b) (readBytes s.spad (w.spadPa 0) n) }
          pass (s.onWg wg fun x => { x with spadBase := b }) w.part
      | none => pass s w.part

/-- Compact a core's scratchpad (R452): plan the moves, or make the next. -/
def State.compactSpad (s : State) (core : Nat) : State :=
  match (s.core core).spadMoves with
  | [] => match s.planSpad core with | [] => s | l => s.onCore core fun c => { c with spadMoves := l }
  | wg :: rest => s.moveSpad core wg rest

end Sys2Proof.Machine
end

