-- ==== Sys2Proof/Machine/Resume.lean ====
section
/-! DEFINITION. Replay of suspended operations and parked splits (R375, R377 to R379, R441, R465). -/

namespace Sys2Proof.Machine

open Sys2Proof

/-- Is a workgroup off its cores, or not back on them yet? -/
def State.wgAway (s : State) (wg : Nat) : Bool :=
  match s.wg? wg with | some w => w.phase == .saved || w.phase == .restoring | none => false

/-- Perform a suspended operation again from its record (R375, R377 to R379): a remote one sends the lanes refused, a
.late load the lanes not translated; an engine takes up the others where their progress stands. While the workgroup is
saved the replay waits for the restore (R441), which re-issues every .late load by itself (R426). -/
def State.replayOp (s : State) (key op : Nat) : State :=
  match s.strand? key with
  | none => s
  | some st =>
    match st.op? op with
    | none => s
    | some o =>
      let clear (s : State) : State :=
        let s := match o.joint with | some n => s.onJoint n fun j => { j with b := none } | none => s
        s.onStrand key fun st => st.onOp op fun o => { o with susp := none, group := none }
      match o.body, o.sym with
      | .remote r, none =>
        let s := clear s
        let s := s.onStrand key fun st => st.onOp op fun o => { o with body := .remote { r with refused := [] } }
        s.sendLanes st.part key op r r.refused
      | _, none => clear s
      | _, some _ => if s.wgAway st.wg then s else s.reissueLate key op

/-- Let a parked split go on, or mark it while its workgroup is saved (R375, R441). -/
def State.unparkSplit (s : State) (key slot : Nat) : State :=
  match s.strand? key with
  | none => s
  | some _ =>
    s.onStrand key fun st => st.onSplit slot fun sp =>
      if s.wgAway st.wg then { sp with park := sp.park.map fun p => { p with resume := true } } else sp.unpark

/-- Is the group that begins at write index w covered by SEQ (R375)? -/
def covered (seq w : Word) : Bool := decide (1 ≤ (seq - w).toNat ∧ (seq - w).toNat ≤ 2 ^ 31)

/-- A write of SEQ to FRRESUME (R368, R375). A split at the delivery point of an operation goes on when that retires (R377). -/
def State.frresume (s : State) (part : Nat) (seq : Word) : State :=
  let s := s.onPart part fun p => { p with frresume := seq }
  let free (d : Dom) : Dom :=
    if d.part = part then { d with stuck := d.stuck.filter fun e => (e.2.bind fun w => w.map (covered seq)) != some true } else d
  let s := { s with doms := s.doms.map free }
  let mine := s.strands.filter fun e => e.2.part == part
  mine.foldl (fun s e =>
    let s := (e.2.ops.filter fun o => o.susp.isSome && (o.group.map (covered seq)) == some true).foldl (fun s o => s.replayOp e.1 o.id) s
    (List.range 4).foldl (fun s i =>
      match (e.2.split i).park with
      | some p => if (e.2.split i).st == .parked && p.op.isNone && (p.group.map (covered seq)) == some true then s.unparkSplit e.1 i else s
      | none => s) s) s

/-- A write of RIDX to FRREAD (R368): ignored where it would leave more than C records unread. -/
def State.frread (s : State) (part : Nat) (w : Word) : State :=
  let p := s.part part
  let widx : Word := .ofNat 32 (s.vread part (p.vbase 13 + 8) 4)
  if 2 ^ p.ringLog < (widx - w).toNat then s else s.onPart part fun p => { p with frread := w }

end Sys2Proof.Machine
end

