-- ==== Sys2Proof/Machine/Policy.lean ====
section
/-! DEFINITION. Decisions (R51, R294 to R301, R304, R307, R309, R381): the views, deficit round-robin, the start of a
decision, its check and its effect. -/

namespace Sys2Proof.Machine

open Sys2Proof

/-! ## Views (R299 to R301) -/

/-- A value saturated into signed 32 bits (R299). -/
def satWord (i : Int) : Word := BitVec.ofInt 32 (max (-(2 ^ 31)) (min (2 ^ 31 - 1) i))

/-- Uncore cycles since a clock value, divided by 1024 (R299): 2.4 GHz against 3.6 GHz. -/
def State.uncoreK (s : State) (since : Nat) : Nat := (s.clock.toNat - since) * 2 / 3 / 1024

/-- AGE of a source (R299). -/
def State.ageOf (s : State) (x : Source) : Nat := if x.readySince = 0 then 0 else s.uncoreK x.readySince

/-- Items in a stage source's input lists. -/
def State.itemsOf (s : State) (x : Source) : Nat :=
  match x.pipe with
  | none => 0
  | some k => match mapFind s.pipes k with | some p => s.stageItems p (x.kernel.stage.getD 0) | none => 0

/-- The order of a queue's sources (R297): older packets first, among the stages of a pipeline the one with most items,
then the lowest. -/
def State.srcBefore (s : State) (a b : Nat × Source) : Bool :=
  if a.2.pipe.isSome && a.2.pipe == b.2.pipe then
    decide (s.itemsOf b.2 < s.itemsOf a.2 ∨ (s.itemsOf b.2 = s.itemsOf a.2 ∧ a.1 < b.1))
  else decide (a.1 < b.1)

/-- The order of the view (R299). -/
def State.viewBefore (s : State) (a b : Nat × Source) : Bool :=
  let (pa, pb) := (s.effPrio a.2.part a.2.rcb, s.effPrio b.2.part b.2.rcb)
  let (ta, tb) := (s.ageOf a.2, s.ageOf b.2)
  if pa ≠ pb then decide (pb < pa)
  else if ta ≠ tb then decide (tb < ta)
  else if a.2.queue ≠ b.2.queue then decide (a.2.queue < b.2.queue)
  else s.srcBefore a b

/-- The ready sources of a partition on a die. -/
def State.readySources (s : State) (part die : Nat) : List (Nat × Source) :=
  s.sources.filter fun e => e.2.part == part && s.readyOn e.1 die

/-- The visible sources in view order (R299). -/
def State.visible (s : State) (part die : Nat) : List (Nat × Source) :=
  ((s.readySources part die).foldr (insBy s.viewBefore) []).take 64

/-- Least period balance on a source's path, in units of 1024 (R299). -/
def State.budgetOf (s : State) (x : Source) : Int :=
  let l := (s.rcbNodes x.part x.rcb).filter fun n => s.effCycles x.part n != 0
  match l with
  | [] => 0x7FFFFFFF
  | n :: t => (t.foldl (fun a m => min a (s.balance x.part m)) (s.balance x.part n)) / 1024

/-- The twelve fields of a source (R299). -/
def State.srcView (s : State) (die k : Nat) (x : Source) : List Word :=
  let stage := x.kernel.stage.getD 0
  let qnum : Nat := x.queue + (if x.pipe.isSome then stage * 2 ^ 12 + 2 ^ 15 else 0) + (if x.kernel.coop then 2 ^ 16 else 0)
  let need : Nat := x.kernel.strands % 16 + x.kernel.logG * 2 ^ 4 + x.kernel.spad / 4 * 2 ^ 8
  let pend : Nat := if x.pipe.isSome then s.itemsOf x + x.saved.length else x.left + x.saved.length
  ([(s.effPrio x.part x.rcb : Int), (s.qf x.part x.queue 16 8 / 1024 : Nat), s.deficit x.part x.queue / 1024, (x.resident : Int)
    , (s.ageOf x : Int), (pend : Int), s.budgetOf x, (s.qf x.part x.queue 40 4 : Nat), (qnum : Int), (need : Int)
    , (x.kernel.expected : Int), ((s.fitCores k die).length : Int)] : List Int).map satWord

/-- The seven fields of a core (R300). -/
def State.coreView (s : State) (part core : Nat) : List Word :=
  let qs := (List.range 4).map fun i => 4 * core + i
  let free := (qs.map fun q => (s.freeSlots q).length).foldl (· + ·) 0
  let big := (qs.flatMap fun q => (s.quarter q).free.map (·.2)).foldl max 0
  let spad := Config.spadBytes - ((s.spadRuns core).map (·.2)).foldl (· + ·) 0
  let owned := (s.part part).hasCore core && !(s.core core).quarantined
  let wgs := (s.wgs.filter fun e => e.2.part == part && e.2.resident && e.2.slots.any fun k => decide (coreOf k = core)).length
  ([free, big, spad / 256, Config.granules - s.granulesUsed core, if owned then 1 else 0, wgs, clusterOf core] : List Nat).map fun n =>
    satWord n

/-- Does a strand of a workgroup run a handler, hold a parked split, stand halted or on a stopped quarter (R301, R480)? -/
def State.heldUp (s : State) (w : Wg) : Bool :=
  (s.members w).any fun e => e.2.halted || (s.quarter (quarterOf e.1)).stopped || e.2.ctx.splits.any fun p => p.st == .trapped || p.st == .parked

/-- Is workgroup a the likelier victim (R301): the lowest priority, the latest placement, the highest core? -/
def State.victimBefore (s : State) (a b : Nat × Wg) : Bool :=
  let (pa, pb) := (s.effPrio a.2.part a.2.rcb, s.effPrio b.2.part b.2.rcb)
  if pa ≠ pb then decide (pa < pb) else if a.2.since ≠ b.2.since then decide (b.2.since < a.2.since) else decide (b.2.home < a.2.home)

/-- The victim that the device proposes (R301). -/
def State.victim (s : State) (part die : Nat) : Option (Nat × Wg) :=
  (((s.runningOn part die).filter fun e => !e.2.kernel.coop && !s.heldUp e.2).foldr (insBy s.victimBefore) []).head?

/-- A partition's copy of its policy on a die. -/
def State.pol (s : State) (part die : Nat) : PolDie := if die = 0 then (s.part part).polWest else (s.part part).polEast
/-- Change a partition's copy of its policy on a die. -/
def State.onPol (s : State) (part die : Nat) (f : PolDie → PolDie) : State :=
  s.onPart part fun p => if die = 0 then { p with polWest := f p.polWest } else { p with polEast := f p.polEast }

/-- Events pending on a die (R301). -/
def DieSt.pending (d : DieSt) : Nat := d.dispatch.length + d.preempt.length + d.faults.length

/-- The source of a workgroup. -/
def State.sourceOf (s : State) (wg : Option Nat) : Option Nat := wg.bind fun k => (s.wg? k).map fun w => w.source

/-- The snapshot with which a decision starts (R294, R301). -/
def State.snapshot (s : State) (die part : Nat) (kind : EvKind) (core src : Option Nat) (flt : Option FaultEv) : Decision :=
  let prog := (s.pol part die).active
  let vis := s.visible part die
  let v := if kind = .preempt then s.victim part die else none
  let neg : Int := -1
  let local' (c : Option Nat) : Int := match c with | some k => (k % 96 : Nat) | none => neg
  let srcIdx : Int := match src with | some k => (match vis.findIdx? fun e => e.1 == k with | some i => i | none => neg) | none => neg
  let prio : Int := match src.bind s.source? with | some x => s.effPrio x.part x.rcb | none => 0
  let retries : Int := match flt with | some f => (match f.wg.bind s.wg? with | some w => w.retries | none => 0) | none => 0
  { kind := kind, part := part, prog := prog, pc := prog.entries.getD kind.code 0x3FF, x := List.replicate 16 0
    scratch := prog.scratch, cycles := 0, view := vis.map fun e => (e.1, s.srcView die e.1 e.2)
    cores := (List.range 96).map fun c => s.coreView part (96 * die + c)
    ev := ([(kind.code : Int), local' core, srcIdx, prio
      , match v with | some e => s.effPrio part e.2.rcb | none => 0
      , match v with | some e => s.uncoreK e.2.since | none => 0
      , match flt with | some f => f.fault.cls | none => 0, match flt with | some f => f.fault.sub | none => 0, retries
      , ((s.dieSt die).pending : Nat)] : List Int).map satWord
    fits := vis.map fun e => (s.fitCores e.1 die).map fun c => c % 96
    core := core, victim := v.map (·.1), flt := flt, chosen := none }

/-! ## Deficit round-robin (R295, R296) -/

/-- Visits that a queue waits for before its deficit is positive. -/
def drrVisits (deficit : Int) (quantum : Nat) : Nat := if 0 < deficit then 0 else ((-deficit) / max 1 quantum).toNat + 1

/-- One queue of the loop: distance from rr, queue, visits. -/
abbrev DrrQueue := Nat × Nat × Nat

/-- The queue that the loop stops at: the fewest visits, then the nearest. -/
def drrPick (l : List DrrQueue) : Option DrrQueue :=
  (l.foldr (insBy fun a b => decide (a.2.2 < b.2.2 ∨ (a.2.2 = b.2.2 ∧ a.1 < b.1))) []).head?

/-- The result of the loop of R295: the source chosen, with deficits and rr as the loop leaves them. -/
def State.drr (s : State) (part die : Nat) : Option (Nat × State) :=
  let ready := s.readySources part die
  let rr := (s.pol part die).rr
  let quantum (q : Nat) : Nat := s.qf part q 16 8
  let qs : List DrrQueue := ((ready.map fun e => e.2.queue).eraseDups).map fun q =>
    ((q + 4096 - rr) % 4096, q, drrVisits (s.deficit part q) (quantum q))
  match drrPick qs with
  | none => none
  | some (pos, q, n) =>
    let s := qs.foldl (fun s e =>
      let k := if e.1 < pos then n + 1 else n
      s.setDeficit part e.2.1 (s.deficit part e.2.1 + (k * quantum e.2.1 : Nat))) s
    let s := s.onPol part die fun p => { p with rr := q }
    (((ready.filter fun e => e.2.queue == q).foldr (insBy s.srcBefore) []).head?).map fun e => (e.1, s)

/-- The home core of R296: the core whose room freed, a fitting core of the hinted die, of those the one with the fewest resident
strands (assumption 57), the fitting core with the fewest resident strands. -/
def State.placeFor (s : State) (src : Nat) (core : Option Nat) : Option Nat :=
  match s.source? src with
  | none => none
  | some x =>
    let freed := match core with | some c => if s.usable x.part c && (s.startAt src c false core).isSome then some c else none | none => none
    let hint := x.kernel.dieHint
    let hinted := if hint = 1 then s.fitCores src 0 else if hint = 2 then s.fitCores src 1 else []
    match freed with
    | some c => some c
    | none =>
      match s.byLoad hinted with
      | c :: _ => some c
      | [] => (s.byLoad (s.fitCores src 0 ++ s.fitCores src 1)).head?

/-! ## The end of a decision -/

/-- Swap in an image that waits, where the die's engine is idle (R309) and the partition live (R453). -/
def State.swapPolicy (s : State) (part die : Nat) : State :=
  if (s.dieSt die).dec.isSome || !(s.part part).live then s
  else
    match (s.pol part die).staged with
    | none => s
    | some x =>
      let s := s.onPol part die fun p => { p with active := x, staged := none }
      let p := s.part part
      if p.polWest.staged.isNone && p.polEast.staged.isNone && p.shadow == 2 then s.onPart part fun p => { p with shadow := 0 } else s

/-- Every partition's swaps on a die: a decision boundary (R309). -/
def State.swapAll (s : State) (die : Nat) : State := (s.parts.map (·.1)).foldl (fun s p => s.swapPolicy p die) s

/-- A saturating count. -/
def satInc (w n : Nat) : Nat := min (2 ^ w - 1) (n + 1)

/-- Count an invalid decision (R304). -/
def State.countInvalid (s : State) (part : Nat) : State :=
  s.onPart part fun p => { p with invalid := .ofNat 16 (satInc 16 p.invalid.toNat) }

/-- The engine is idle after a decision, which the counts take in (R494); then the swaps (R309). -/
def State.idleDie (s : State) (die cycles : Nat) : State :=
  (s.onDie die fun d =>
    { d with dec := none, decisions := d.decisions + 1, policyCycles := d.policyCycles + BitVec.ofNat 64 cycles }).swapAll die

/-- Close a decision: its trace record, and the engine idle (R490). -/
def State.closeDecision (s : State) (die part : Nat) (kind : EvKind) (version : Half) (cycles : Nat) (v : Verdict) : State :=
  (s.traceDecision die part kind version cycles v).idleDie die cycles

/-- Keep the scratch words of a decision that was applied (R298). -/
def State.keepScratch (s : State) (die part : Nat) (d : Option Decision) : State :=
  match d with
  | some d => s.onPol part die fun p =>
      if p.active.version = d.prog.version then { p with active := { p.active with scratch := d.scratch } } else p
  | none => s

/-! ## DISPATCH -/

/-- Place from a source with a home core; further ready sources raise DISPATCH again (R294). -/
def State.dispatchTo (s : State) (die part src home : Nat) (freed : Option Nat) : Option State :=
  (s.startAt src home false freed).map fun s =>
    let s := s.refresh part
    if (s.readySources part die).isEmpty then s else s.raiseDispatch die part none none

/-- The fallback DISPATCH decision (R295, R296). -/
def State.fallbackDispatch (s : State) (die part : Nat) (core : Option Nat) : State × Verdict :=
  match s.drr part die with
  | some (src, s1) =>
    let q := match s.source? src with | some x => x.queue | none => 0
    (match (s1.placeFor src core).bind fun h => (s1.dispatchTo die part src h core).map fun t => (t, h) with
      | some (t, h) => (t, ⟨1, q, h⟩)
      | none => (s1, ⟨0, 0, 0⟩))
  | none => (s, ⟨0, 0, 0⟩)

/-- Apply a DISPATCH decision, checked against the snapshot and the state (R304). -/
def State.applyDispatch (s : State) (die part : Nat) (d : Option Decision) (core : Option Nat) (chosen : Option (Int × Int)) : State :=
  let version := match d with | some d => d.prog.version | none => 0
  let cycles := match d with | some d => d.cycles | none => 0
  let close (s : State) (v : Verdict) (ver : Half) : State := (s.reclaim part).closeDecision die part .dispatch ver cycles v
  let fallback (s : State) : State := let r := s.fallbackDispatch die part core; close r.1 r.2 0
  match chosen, d with
  | some (a, b), some dc =>
    if a = -1 then close (s.keepScratch die part d) ⟨0, 0, 0⟩ version
    else
      let entry := if 0 ≤ a then dc.view[a.toNat]? else none
      let fits := if 0 ≤ a then dc.fits.getD a.toNat [] else []
      let go : Option (State × Verdict) :=
        match entry with
        | none => none
        | some e =>
          let q := match s.source? e.1 with | some x => x.queue | none => 0
          let home := if !s.readyOn e.1 die then none
            else if b = -1 then s.placeFor e.1 core
            else if 0 ≤ b ∧ b < 96 ∧ fits.contains b.toNat = true ∧ s.usable part (96 * die + b.toNat) = true then some (96 * die + b.toNat)
            else none
          home.bind fun h => (s.dispatchTo die part e.1 h core).map fun t => (t, ⟨1, q, h⟩)
      match go with
      | some (t, v) => close (t.keepScratch die part d) v version
      | none => fallback (s.countInvalid part)
  | _, _ => fallback s

/-! ## PREEMPT -/

/-- May a workgroup still be displaced as the victim proposed (R301)? -/
def State.displaceable (s : State) (die part wg : Nat) : Bool :=
  (s.runningOn part die).any fun e => e.1 == wg && !e.2.kernel.coop && !s.heldUp e.2

/-- Apply a PREEMPT decision (R294, R303, R434, R435): a displacement for which the save pool has no room is kept; one whose
victim is no longer such a workgroup is invalid (R304). What a displacement came to is traced at the end of its save (R436). -/
def State.applyPreempt (s : State) (die part : Nat) (d : Option Decision) (chosen : Option (Int × Int)) : State :=
  let version := match d with | some d => d.prog.version | none => 0
  let cycles := match d with | some d => d.cycles | none => 0
  let keep (s : State) (v : Half) (q h : Nat) : State := s.closeDecision die part .preempt v cycles ⟨0, q, h⟩
  match chosen with
  | none => keep s 0 0 0
  | some (n, _) =>
    if n ≠ 1 then keep (s.keepScratch die part d) version 0 0
    else
      match (d.bind fun d => d.victim).filter fun v => s.displaceable die part v with
      | none => keep (s.countInvalid part) 0 0 0
      | some v =>
        let s := s.keepScratch die part d
        let (q, h) := match s.wg? v with | some w => (w.queue, w.home) | none => (0, 0)
        match s.beginSave v false with
        | some t => (t.onWg v fun w => { w with verdict := some (die, version, cycles) }).idleDie die cycles
        | none => keep s version 0 0

/-! ## FAULT (R377, R381, R446, R453) -/

/-- Is a record's fault one that no replay by FRRESUME takes up (R377)? -/
def Rec.lasting (r : Rec) : Bool := lastingFault r.cls r.sub

/-- The tile of an operation that counts in MX (R271). -/
def Op.mx? (o : Op) : Option Nat := if o.cls == .mx then o.tile else none

/-- Retire an operation whose fault will not be retried; the strand traps at its next wait on the class (R377). -/
def State.giveUp (s : State) (key op : Nat) (r : Rec) : State :=
  (((s.loseOp key op).unqueue key op).onStrand key fun st =>
    match st.op? op with
    | some o =>
      let st := match o.mx? with
        | some h => st.onTile h fun t => { t with last := some (.ofNat 16 o.recNo, o.rows) }
        | none => st
      let st := { st with due := st.due ++ [(r.cls, r.sub, o.recNo, o.cls)] }
      (st.onOp op fun o => { o with susp := none, group := none }).complete op
    | none => st).pump key

/-- Every member of a joint operation that failed at its start (R273). -/
def State.jointOps (s : State) (key op : Nat) : List (Nat × Nat) :=
  match (s.strand? key).bind fun st => (st.op? op).bind fun o => o.joint with
  | some n => (match mapFind s.joints n with | some j => j.members | none => [(key, op)])
  | none => [(key, op)]

/-- Does an operation's fault still wait for its decision or for its group to be written? -/
def State.groupPending (s : State) (part : Nat) (m : Nat × Nat) : Bool :=
  ((s.part part).groups.any fun g => g.op == some m) || (s.dieW.faults ++ s.dieE.faults).any fun f => f.op == some m

/-- An operation and the members of its joint operation that are suspended with it, under no group of their own (R375, R380). -/
def State.mates (s : State) (part key op : Nat) : List (Nat × Nat) :=
  (s.jointOps key op).filter fun m =>
    m == (key, op) || (!s.groupPending part m &&
      ((s.strand? m.1).bind fun st => st.op? m.2).any fun o => o.susp.isSome && o.group.isNone)

/-- The faults that the strands of given-up operations will take at a wait (R377). -/
def State.dueOf (s : State) (l : List (Nat × Nat)) (r : Rec) : List (Nat × (Nat × Nat × Nat × Ctr)) :=
  l.filterMap fun m => ((s.strand? m.1).bind fun st => st.op? m.2).map fun o => (m.1, (r.cls, r.sub, o.recNo, o.cls))

/-- Forget a joint operation. -/
def State.dropJoint (s : State) (key op : Nat) : State :=
  match (s.strand? key).bind fun st => (st.op? op).bind fun o => o.joint with
  | some n => { s with joints := mapErase n s.joints }
  | none => s

/-- Perform once more what a fault concerns (R373, R377, R386, R446). A contribution refused as stale and a joint
operation refused at its start are refused again (R273, R377). -/
def State.retryFault (s : State) (f : FaultEv) : State :=
  match f.split, f.op with
  | some (key, slot), _ =>
    if f.fault.cls = 0x08 then s.onStrand key fun st => { st with watch := 0, watchOff := false }
    else s.unparkSplit key slot
  | none, some (key, op) =>
    if f.fault.cls = 0x03 ∧ (f.fault.sub = 0x03 ∨ f.fault.sub = 0x07) then s.route f
    else (s.mates f.part key op).foldl (fun s m => s.replayOp m.1 m.2) s
  | none, none =>
    match f.wg, f.fault.cls with
    | some w, 0x09 => s.rehome w
    | _, _ => s

/-- The operations that a fault which is not retried gives up: every member of a joint operation refused at its start (R273,
R377). -/
def State.givenUp (s : State) (f : FaultEv) : List (Nat × Nat) :=
  match f.split, f.op with
  | none, some (key, op) => if !f.fault.lasting then [] else if f.fault.sub = 0x07 then s.jointOps key op else [(key, op)]
  | _, _ => []

/-- Leave what a fault concerns as it is (R381, R377, R446). -/
def State.leaveFault (s : State) (f : FaultEv) : State :=
  match f.split, f.op with
  | some (key, _), _ => if f.fault.cls = 0x08 then s.onStrand key fun st => { st with watchOff := true } else s
  | none, some (key, op) =>
    (s.givenUp f).foldl (fun s m => s.giveUp m.1 m.2 f.fault) (if f.fault.lasting ∧ f.fault.sub = 0x07 then s.dropJoint key op else s)
  | none, none =>
    match f.tell with
    | some (key, c) => s.onStrand key fun st => { st with due := st.due ++ [(f.fault.cls, f.fault.sub, (f.fault.op.getD 0).toNat, c)] }
    | none => s

/-- Apply a FAULT decision (R381) and record the fault (R365). With no reader concerned every decision acts as escalate
(R422). -/
def State.applyFault (s : State) (die : Nat) (f : FaultEv) (d : Option Decision) (chosen : Option (Int × Int)) : State :=
  let part := f.part
  let version := match d with | some d => d.prog.version | none => 0
  let cycles := match d with | some d => d.cycles | none => 0
  -- a workgroup that has gone or is being killed leaves only escalate to apply (R304)
  let stale : Bool := match f.wg, chosen with
    | some k, some (n, _) => n != 4 && (match s.wg? k with | some w => w.phase == .killed | none => true)
    | _, _ => false
  let chosen := if stale then none else chosen
  let s := if stale then s.countInvalid part else s
  let s := if chosen.isSome then s.keepScratch die part d else s
  let nobody : Bool := f.wg.isNone && f.split.isNone && f.op.isNone
  let asked := match chosen with | some (n, _) => if nobody then 4 else n.toNat | none => 4
  let retries := match f.wg.bind s.wg? with | some w => w.retries | none => 0
  let spent : Bool := asked == 0 && decide (64 ≤ retries)
  let n := if spent then 1 else asked
  let s := if spent then s.countInvalid part else s
  let node := f.wg.bind s.wg?
  let due := s.dueOf (s.givenUp f) f.fault
    ++ f.tell.toList.map fun t => (t.1, (f.fault.cls, f.fault.sub, (f.fault.op.getD 0).toNat, t.2))
  let applied := if n = 0 then f.fault.retries + 1 else f.fault.retries
  let r := { f.fault with decision := some n, version := if chosen.isSome then version else 0, retries := min 255 applied }
  let post (s : State) (keep : Bool) : State :=
    s.postGroup part { recs := [r], split := if keep then f.split else none, op := if keep then f.op else none
                       due := if n = 0 ∨ n = 2 ∨ n = 3 then [] else due }
  let kept : Bool := (!f.fault.lasting || f.split.isSome) && f.fault.cls != 0x08
  let s := match n with
    | 0 =>
      let s := match f.wg with | some k => s.onWg k fun w => { w with retries := w.retries + 1 } | none => s
      post (s.retryFault f) false
    | 2 => match f.wg with | some k => (post s false).killWg k | none => post s false
    | 3 => match node with | some w => (post s false).killJob part (s.effDomain part w.rcb) | none => post s false
    | 4 => post ((s.leaveFault f).interrupt part 2) kept
    | _ => post (s.leaveFault f) kept
  s.closeDecision die part .fault (if chosen.isSome then version else 0) cycles
    ⟨n, match node with | some w => w.queue | none => 0, f.core⟩

/-! ## One event of a die (R294) -/

/-- The engine's program for a kind of event, where the partition has one (R305, R309). -/
def State.hasProgram (s : State) (part die : Nat) (kind : EvKind) : Bool :=
  let p := (s.pol part die).active
  p.version != 0 && p.entries.getD kind.code 0x3FF != 0x3FF

/-- Begin the decision of an event or, without a program for it, make the fallback decision (R294, R305). -/
def State.beginDecision (s : State) (die part : Nat) (kind : EvKind) (core src : Option Nat) (flt : Option FaultEv) : State :=
  let d := s.snapshot die part kind core src flt
  if s.hasProgram part die kind then s.onDie die fun x => { x with dec := some d }
  else
    match kind, flt with
    | .dispatch, _ => s.applyDispatch die part none core none
    | .preempt, _ => s.applyPreempt die part none none
    | .fault, some f => s.applyFault die f none none
    | .fault, none => s

/-- End the decision in flight with what its program chose, or with the fallback (R304, R307). -/
def State.endDecision (s : State) (die : Nat) (d : Decision) (chosen : Option (Int × Int)) : State :=
  let s := s.onDie die fun x => { x with dec := none }
  match d.kind, d.flt with
  | .dispatch, _ => s.applyDispatch die d.part (some d) d.core chosen
  | .preempt, _ => s.applyPreempt die d.part (some d) chosen
  | .fault, some f => s.applyFault die f (some d) chosen
  | .fault, none => s

/-- A decision of a kind on a die: the one in flight ends once its program has decided; with the engine idle the first
pending event of the kind begins, FAULT before PREEMPT before DISPATCH (R294). -/
def State.decideEvent (s : State) (die : Nat) (kind : EvKind) (part : Option Nat) : State :=
  let x := s.dieSt die
  let mine (p : Nat) : Bool := match part with | some q => p == q | none => true
  match x.dec with
  | some d => if d.kind = kind ∧ mine d.part = true ∧ d.chosen.isSome = true then s.endDecision die d d.chosen else s
  | none =>
    match kind, x.faults, x.preempt, x.dispatch with
    | .fault, f :: t, _, _ =>
      (s.onDie die fun y => { y with faults := t }).beginDecision die f.part .fault (some f.core) (s.sourceOf f.wg) (some f)
    | .preempt, [], (p, src) :: t, _ =>
      if mine p then (s.onDie die fun y => { y with preempt := t }).beginDecision die p .preempt none (some src) none else s
    | .dispatch, [], [], (p, core, src) :: t =>
      if mine p then (s.onDie die fun y => { y with dispatch := t }).beginDecision die p .dispatch core src none else s
    | _, _, _, _ => s

end Sys2Proof.Machine
end

