-- ==== Sys2Proof/Machine/Mgmt.lean ====
section
/-! DEFINITION. The device management set (R337): its registers as they read (R308, R314, R318, R338, R339, R344, R346,
R347), who may reach them (R397), and what a write does, firmware's refusals included (R335, R339, R342). -/

namespace Sys2Proof.Machine

open Sys2Proof

/-! ## Layouts -/

/-- The bits of partition-block register k that a write sets (R338). -/
def blockMask (k : Nat) : DWord :=
  match k with
  | 0 | 1 | 2 | 11 => bitMask 51 12
  | 3 | 4 | 5 => bitMask 63 0
  | 6 => bitMask 27 16 ||| bitMask 11 0
  | 15 => bitMask 56 2 ||| 1
  | _ => bitMask 56 6

/-- The bits of fabric register k that a write sets (R318). -/
def fabMask (k : Nat) : DWord := if k = 0 then bitMask 23 0 else bitMask 56 0

/-- BOOTST (R344). -/
def Boot.bootst (b : Boot) : DWord :=
  .ofNat 64 (b.stage % 4 + (if b.rsaok then 4 else 0) + (if b.slhok then 8 else 0) + b.svn.toNat % 2 ^ 16 * 2 ^ 16
    + (if b.refuse then 2 ^ 32 else 0))

/-- PWR (R347). -/
def Boot.pwr (b : Boot) : DWord :=
  .ofNat 64 (b.cap.toNat + b.meas.toNat * 2 ^ 16 + b.freq.toNat * 2 ^ 32 + (if b.thr then 2 ^ 40 else 0))

/-- ATTREQ (R346). -/
def Boot.attreq (b : Boot) : DWord :=
  .ofNat 64 (b.attAddr.toNat + (if b.attErr then 2 ^ 62 else 0) + (if b.attBusy then 2 ^ 63 else 0))

/-- FABDEV (R314). -/
def Boot.fabdev (b : Boot) : DWord :=
  .ofNat 64 (b.devid.toNat + b.incarn.toNat * 2 ^ 16 + b.pod.toNat * 2 ^ 32)

/-- POLSTAT (R308). -/
def Part.polstat (p : Part) : DWord :=
  .ofNat 64 (p.shadow % 4 + p.reason % 16 * 2 ^ 8 + p.wcet % 2 ^ 13 * 2 ^ 16 + p.polWest.active.version.toNat * 2 ^ 32
    + p.polEast.active.version.toNat * 2 ^ 48)

/-- POLCNT (R308). -/
def Part.polcnt (p : Part) : DWord :=
  .ofNat 64 (p.overruns.toNat + p.invalid.toNat * 2 ^ 32 + p.rejects.toNat * 2 ^ 48)

/-- The partition of a register that belongs to one (R337). -/
def csrPart (n : Nat) : Option Nat :=
  if 0x480 ≤ n ∧ n < 0x4C0 then some ((n - 0x480) / 4)
  else if 0x500 ≤ n ∧ n < 0x580 then some ((n - 0x500) / 8)
  else if 0x600 ≤ n ∧ n < 0x700 then some ((n - 0x600) / 16)
  else if 0x700 ≤ n ∧ n < 0x720 then some ((n - 0x700) / 2)
  else none

/-- Does only firmware write a register of the management set (R337)? -/
def csrFirmware (n : Nat) : Bool := n = 0x400 || n = 0x401 || n = 0x440 || n = 0x441 || decide (0x600 ≤ n ∧ n < 0x720)

/-- A register of the management set as it reads (R337). -/
def State.mgmtRead (s : State) (n : Nat) : DWord :=
  match csrPart n with
  | none =>
    if n = 0x400 then s.boot.bootst
    else if n = 0x401 then s.boot.pwr
    else if n = 0x402 then s.boot.attreq
    else if n = 0x440 then s.boot.fabdev
    else if n = 0x441 then s.boot.etype.setWidth 64
    else 0
  | some i =>
    let p := s.part i
    if n < 0x4C0 then
      match (n - 0x480) % 4 with
      | 0 => p.polimg
      | 1 => 0
      | 2 => p.polstat
      | _ => p.polcnt
    else if n < 0x580 then mapGet 0 p.fab ((n - 0x500) % 8)
    else if n < 0x700 then p.reg ((n - 0x600) % 16)
    else if n % 2 = 0 then p.spbase
    else p.spsize

/-! ## Refusals -/

/-- Two ranges share something: an empty one does not. -/
def rangesMeet (a b : Nat × Nat) : Bool := decide (max a.1 b.1 < min a.2 b.2)

/-- The queues a partition owns as a range. -/
def Part.queues (p : Part) : Nat × Nat := (p.qfirst, p.qfirst + p.qcount)

/-- The device's main memory in bytes: 768 GiB (R342). -/
def mainBytes : Nat := 768 * 2 ^ 30

/-- Does a partition's page begin beyond main memory, or is it not set? -/
def Part.bellRange (p : Part) : Nat × Nat := (p.doorbell, p.doorbell + if p.doorbell = 0 then 0 else 65536)

/-- Would a register's new value give two partitions one resource, or break a limit that firmware refuses (R335, R339,
R342, R319)? `q` is the partition as it would become. -/
def State.refused (s : State) (i n : Nat) (q : Part) : Bool :=
  let others := (s.parts.filter fun e => e.1 != i).map (·.2)
  if 0x500 ≤ n ∧ n < 0x580 then n % 8 = 0 && q.fabid != 0 && others.any fun o => o.fabid == q.fabid
  else if 0x700 ≤ n then
    decide (q.poolLo < q.poolHi) &&
      (decide (q.poolLo < q.memlo ∨ q.memhi < q.poolHi) || others.any fun o => rangesMeet (q.poolLo, q.poolHi) (o.poolLo, o.poolHi))
  else if 0x600 ≤ n then
    match (n - 0x600) % 16 with
    | 1 | 2 => others.any fun o => rangesMeet (q.memlo, q.memhi) (o.memlo, o.memhi)
    | 3 | 4 | 5 => (List.range 192).any fun c => q.hasCore c && others.any fun o => o.holds c
    | 6 => decide (4096 < q.qfirst + q.qcount) || others.any fun o => rangesMeet q.queues o.queues
    | 11 => decide (q.doorbell < mainBytes) || others.any fun o => rangesMeet q.bellRange o.bellRange
    | _ => false
  else false

/-! ## Writes -/

/-- The staged policy of a POLCMD REVERT: deficit round-robin as version 0 (R309); a read or verification in progress is
discarded (R453). -/
def State.revert (s : State) (i : Nat) : State :=
  let s := s.onPart i fun p =>
    { p with polWest := { p.polWest with staged := some Policy.drr }, polEast := { p.polEast with staged := some Policy.drr },
             shadow := 2, verify := none }
  ((s.swapPolicy i 0).swapPolicy i 1).interrupt i 3

/-- A write of POLCMD (R308, R309): LOAD begins the reading of the image, REVERT stages deficit round-robin; both at
once do nothing. -/
def State.polcmd (s : State) (i : Nat) (v : DWord) : State :=
  match v.getLsbD 0, v.getLsbD 1 with
  | true, false =>
    if (s.part i).shadow = 1 then s else s.onPart i fun p => { p with shadow := 1, verify := none, loadAt := p.polimg }
  | false, true => s.revert i
  | _, _ => s

/-- A write of a policy or fabric register of partition i (R308, R318); the eighth fabric number is reserved (R337). -/
def State.partCsrWrite (s : State) (i n : Nat) (v : DWord) : State :=
  if n < 0x4C0 then
    match (n - 0x480) % 4 with
    | 0 => s.onPart i fun p => { p with polimg := v &&& bitMask 56 6 }
    | 1 => s.polcmd i v
    | 2 => s
    | _ => s.onPart i fun p =>
        { p with overruns := v.setWidth 32, invalid := .ofNat 16 (v.toNat / 2 ^ 32), rejects := .ofNat 16 (v.toNat / 2 ^ 48) }
  else
    let k := (n - 0x500) % 8
    let p := s.part i
    let q := { p with fab := mapPut 0 p.fab k (v &&& fabMask k) }
    if k = 7 then s
    else if s.refused i n q then { s with boot := { s.boot with refuse := true } } else s.setPart i q

/-- A write of ATTREQ (R346): it starts a report unless one is being made. -/
def State.attreq (s : State) (part : Nat) (v : DWord) : State :=
  if s.boot.attBusy then s
  else { s with boot := { s.boot with attBusy := true, attErr := false, attAddr := v &&& bitMask 56 6, attPart := part } }

/-- A write of PWR.CAP (R347). -/
def State.setCap (s : State) (w : Half) : State :=
  { s with boot := { s.boot with cap := .ofNat 16 (min 2800 (max 1000 w.toNat)) } }

/-- Cores that a write of a core mask adds join at once, cleared first where another partition held them last (R336,
R348); those it removes leave once no workgroup of the partition is resident there. -/
def State.moveCores (s : State) (i : Nat) (old : Part) : State :=
  let new := s.part i
  let cores := List.range 192
  let here (c : Nat) : Bool :=
    s.wgs.any fun e => e.2.part == i && e.2.resident && e.2.slots.any fun k => decide (coreOf k = c)
  let gone := cores.filter fun c => old.holds c && !new.hasCore c && here c
  let added := cores.filter fun c => new.hasCore c && !old.holds c
  let s := s.onPart i fun p => { p with leaving := gone }
  let s := added.foldl (fun s c => s.onCore c fun (x : CoreSt) =>
    { x with clearing := x.clearing || (match x.owner with | some o => o != i | none => false), owner := some i }) s
  let s := if !old.live && new.live then
      ((s.onPart i fun p => { p with ringLog := s.vread i (p.vbase 13) 1, period := s.clock.toNat }).swapPolicy i 0).swapPolicy i 1
    else s
  let s := if (cores.any fun c => old.hasCore c && !new.hasCore c) then s.coresLost i else s
  s.roomFreed i (added.filter fun c => !(s.core c).clearing)

/-- BOOTST.STAGE with firmware running: 3 while a partition is live, else 2 (R344). -/
def State.restage (s : State) : State :=
  if s.boot.stage < 2 then s
  else { s with boot := { s.boot with stage := if s.parts.any fun e => e.2.live then 3 else 2 } }

/-- A write of the management set by firmware (R335 to R339, R314, R344, R347). -/
def State.mgmtWrite (s : State) (n : Nat) (v : DWord) : State :=
  match csrPart n with
  | none =>
    if n = 0x400 then { s with boot := { s.boot with refuse := s.boot.refuse && !v.getLsbD 32 } }
    else if n = 0x401 then s.setCap (v.setWidth 16)
    else if n = 0x440 then
      { s with boot := { s.boot with devid := v.setWidth 9, incarn := .ofNat 16 (v.toNat / 2 ^ 16),
                                     pod := .ofNat 16 (v.toNat / 2 ^ 32) } }
    else if n = 0x441 then { s with boot := { s.boot with etype := v.setWidth 16 } }
    else s
  | some i =>
    if n < 0x580 then s.partCsrWrite i n v
    else
      let p := s.part i
      let k := (n - 0x600) % 16
      let q := if 0x700 ≤ n then
          (if n % 2 = 0 then { p with spbase := v &&& bitMask 51 16 } else { p with spsize := v &&& bitMask 15 0 })
        else { p with block := mapPut 0 p.block k (v &&& blockMask k) }
      if s.refused i n q then { s with boot := { s.boot with refuse := true } }
      else
        let s := s.setPart i q
        if n < 0x700 ∧ 3 ≤ k ∧ k ≤ 5 then (s.moveCores i p).restage else s

/-! ## Counters -/

/-- Is there a counter of an index, a class and an instance (R494)? -/
def perfHas (i cls inst : Nat) : Bool :=
  match cls with
  | 0 => decide (i ≤ 6) || decide (16 ≤ i ∧ i ≤ 33)
  | 1 => decide (inst < 768) && (decide (i ≤ 6) || decide (16 ≤ i ∧ i ≤ 33))
  | 2 => decide (inst < 96 ∧ i ≤ 7)
  | 3 => decide (inst < 72 ∧ i ≤ 6)
  | 4 => decide (inst < 2 ∧ i ≤ 1)
  | _ => false

/-- A PERFR number (R494): index, class and instance; none for a number with no counter, which reads 0 (R409). -/
def perfNum (a : DWord) : Option (Nat × Nat × Nat) :=
  let n := (a.toNat % 256, a.toNat / 2 ^ 8 % 256, a.toNat / 2 ^ 16)
  if a.toNat < 2 ^ 26 ∧ perfHas n.1 n.2.1 n.2.2 = true then some n else none

/-- Does a counter count what the model has no state for: cache hits and misses, corrected ECC errors? -/
def perfFree (i cls : Nat) : Bool := (decide (cls ≤ 1) && i == 33) || (cls == 2 && decide (i ≤ 2))

/-- A counter of a quarter (R494), but for its corrected ECC errors. -/
def State.quarterCount (s : State) (q i : Nat) : DWord :=
  if i ≤ 6 then s.qhist q i
  else if 16 ≤ i ∧ i ≤ 31 then s.qstall q (i - 16)
  else if i = 32 then (s.quarter q).issued
  else 0

/-- A counter by index, class and instance, for a strand of a quarter (R494). -/
def State.perf (s : State) (own : Nat) (i cls inst : Nat) : DWord :=
  match cls with
  | 0 => s.quarterCount own i
  | 1 => if inst < 768 then s.quarterCount inst i else 0
  | 2 => if inst < 96 ∧ i ≤ 7 then mapGet 0 (mapGet Slice.reset s.slices inst).counts i else 0
  | 3 =>
    if 72 ≤ inst then 0
    else
      let p := s.port inst
      match i with
      | 0 => p.crcRetry | 1 => p.spurious | 2 => p.staleInc | 3 => p.swDrop | 4 => p.ueRetx | 5 => p.sent
      | 6 => p.received | _ => 0
  | 4 =>
    if 2 ≤ inst then 0
    else
      let d := s.dieSt inst
      match i with
      | 0 => d.decisions | 1 => d.policyCycles | _ => 0
  | _ => 0

end Sys2Proof.Machine
end

