-- ==== Sys2Proof/Machine/Bell.lean ====
section
/-! DEFINITION. A partition's doorbell page (R277, R328, R368, R477): its registers as they read and what a write of
each does, the debug commands and the quarter dump (R487, R488) among them. -/

namespace Sys2Proof.Machine

open Sys2Proof

/-! ## Ultra Ethernet notify registers (R328) -/

/-- Ultra Ethernet queues of a partition (R318): at most 64. -/
def Part.ueqn (p : Part) : Nat := min 64 (bitsOf (mapGet 0 p.fab 0) 23 16)
/-- A field of the descriptor of Ultra Ethernet queue k (R275, R328). -/
def State.uef (s : State) (part k off n : Nat) : Nat := s.vread part ((mapGet 0 (s.part part).fab 6).toNat + 64 * k + off) n
/-- The applied WIDX of an Ultra Ethernet queue. -/
def State.ueWidx (s : State) (part k : Nat) : Word := mapGet 0 s.fabric.ueWidx (64 * part + k)
/-- The entries of an Ultra Ethernet queue taken up. -/
def State.ueRidx (s : State) (part k : Nat) : Word := mapGet 0 s.fabric.ueRead (64 * part + k)
/-- May an Ultra Ethernet queue take notify writes (R279, R328)? -/
def State.ueOk (s : State) (part k : Nat) : Bool :=
  s.uef part k 9 1 % 2 == 1 && s.uef part k 0 8 % 4096 == 0 && decide (4 ≤ s.uef part k 8 1 ∧ s.uef part k 8 1 ≤ 16)

/-- A write of WIDX to an Ultra Ethernet queue's notify register (R278, R328, R450). -/
def State.ueNotify (s : State) (part k : Nat) (w : Word) : State :=
  let c := s.ueWidx part k
  let ignored (detail : Nat) : State := s.postRec part (schedRec 0x02 detail k c.toNat w.toNat 0)
  if (s.part part).ueqn ≤ k then ignored 2
  else if !s.ueOk part k then ignored 3
  else if w = c then s
  else if (w - s.ueRidx part k).toNat ≤ 2 ^ s.uef part k 8 1 then
    s.onFab fun f => { f with ueWidx := mapPut 0 f.ueWidx (64 * part + k) w }
  else ignored 1

/-! ## Dumps (R487, R488) -/

/-- The operand code of a register destination (R148). -/
def Dst.code (d : Dst) : Option Nat :=
  match d with
  | .v n _ => some n
  | .s n => some (1536 + n)
  | Dst.none => Option.none

/-- The lanes an operation has still to write. -/
def OpBody.lanesOut : OpBody → Mask
  | .load accs _ _ | .loadT accs _ | .atomic accs _ _ _ _ _ _ => laneMask (accs.map fun a => a.lane)
  | .loadF els _ _ _ _ _ => laneMask (els.map fun e => e.lane)
  | .remote r => laneMask (r.lanes.map fun e => e.1)
  | .loadC offs _ _ => laneMask (offs.map fun o => o.1)
  | _ => 0

/-- The pending register writes of a strand as 48-byte entries (R488). -/
def Strand.pendingWrites (st : Strand) : List Fields :=
  st.ops.filterMap fun o =>
    if o.done then none
    else
      match o.body.dst.code with
      | none => none
      | some code =>
        let (num, mask) := match o.sym.bind fun n => st.syms.find? fun y => y.num == n with
          | some y => (y.num, y.mask)
          | none => (o.recNo, o.body.lanesOut)
        some ([(0, 2, code + if o.sym.isSome then 2048 else 0), (2, 2, num), (8, 8, o.pc.toNat)] ++ maskFields 16 mask)

/-- One strand's section of a dump: its bytes and fields (R487). -/
def State.dumpSection (s : State) (key : Nat) (st : Strand) : Nat × Fields :=
  let kernel := match s.wg? st.wg with | some w => w.kernel.addr.toNat | none => 0
  let ctx := ctxFields key st.logG kernel st.ctx st.syms st.counts st.gangSeq st.batch st.openBatches.length
  let listAt := up4k (ctxBytes st.logG)
  let ws := st.pendingWrites
  let list : Fields := (0, 4, ws.length) :: (ws.zipIdx).flatMap fun e => e.1.shift (16 + 48 * e.2)
  let tilesAt := listAt + up4k (16 + 48 * ws.length)
  st.bound.foldl (fun (acc : Nat × Fields) t => (acc.1 + up4k t.2.imageBytes, acc.2 ++ (t.2.fields t.1).shift acc.1))
    (tilesAt, ctx ++ list.shift listAt)

/-- Start a dump of a stopped quarter (R477, R487). -/
def State.dump (s : State) (part q : Nat) : State :=
  let x := s.quarter q
  if !x.stopped || x.dumping then s
  else
    let a := bitsOf (s.part part).dbgdaddr 56 12 * 4096
    let s := (s.residents q).foldl (fun s e => s.useSlots e.1 e.2.ctx.regs.live) s
    let s := s.onQuarter q fun x => { x with dumping := true, dumpAt := .ofNat 64 a }
    let x := s.quarter q
    let rs := s.residents q
    let stop : DWord := s.clock - ((s.clock.setWidth 32) - x.cycle).setWidth 64
    let head : Fields := [(0, 1, 1), (1, 1, rs.length), (2, 2, locOf q), (8, 8, stop.toNat), (16, 8, x.qstop.toNat)]
    let all := (rs.zipIdx).foldl (fun (acc : Nat × Fields) e =>
      let st := e.1.2
      let (n, l) := s.dumpSection e.1.1 st
      let flags := (if st.halted then 1 else 0) + (if (List.range 4).any st.inAgent then 2 else 0) + (if st.phase == .exited then 4 else 0)
      let dir : Fields := [(64 + 16 * e.2, 8, acc.1), (72 + 16 * e.2, 1, slotOf e.1.1), (73 + 16 * e.2, 1, flags)]
      (acc.1 + n, acc.2 ++ dir ++ l.shift acc.1)) (4096, head)
    s.vimage part a all.1 all.2

/-! ## Debug commands (R477) -/

/-- The quarter that DBGSEL names, if the partition owns its core. -/
def State.dbgQuarter (s : State) (part : Nat) : Option Nat :=
  let p := s.part part
  let core := bitsOf p.dbgsel 7 0
  if p.holds core then some (4 * core + bitsOf p.dbgsel 9 8) else none

/-- Do a command on the selected quarter. -/
def State.onSelected (s : State) (part : Nat) (f : State → Nat → State) : State :=
  match s.dbgQuarter part with
  | some q => f s q
  | none => s

/-- STOP. -/
def State.dbgStop (s : State) (part : Nat) : State := s.onSelected part fun s q => s.writeReq q true 1 none
/-- DUMP. -/
def State.dbgDump (s : State) (part : Nat) : State := s.onSelected part fun s q => s.dump part q
/-- ENTER: the lowest Ready split of the strand in a slot; the lowest that holds lanes where none is Ready yet. -/
def State.dbgEnter (s : State) (part slot : Nat) : State :=
  s.onSelected part fun s q =>
    let key := 32 * q + slot % 32
    match s.strand? key with
    | none => s
    | some st =>
      let ready := (List.range 4).find? fun i => (st.split i).st == .ready
      let any := (List.range 4).find? fun i => (st.split i).st != .free
      match ready <|> any with
      | none => s
      | some i =>
        let x := s.quarter q
        let since := s.clock.toNat - ((s.clock.setWidth 32) - x.cycle).toNat
        if x.stopped && !x.entering.any fun e => e.strand == key then
          s.onQuarter q fun x => { x with entering := x.entering ++ [{ strand := key, slot := i, reason := 4, lanes := 0, since := since }] }
        else s
/-- UNHALT. -/
def State.dbgUnhalt (s : State) (part slot : Nat) : State :=
  s.onSelected part fun s q => s.onStrand (32 * q + slot % 32) fun st => { st with halted := false }
/-- RESUME. -/
def State.dbgResume (s : State) (part : Nat) : State := s.onSelected part fun s q => s.writeReq q false 0 none

/-- A write of DBGCTL: its set bits take effect in order. -/
def State.dbgctl (s : State) (part : Nat) (v : DWord) : State :=
  let slot := bitsOf v 13 9
  let s := if v.getLsbD 0 then s.dbgStop part else s
  let s := if v.getLsbD 3 then s.dbgDump part else s
  let s := if v.getLsbD 4 then s.dbgEnter part slot else s
  let s := if v.getLsbD 2 then s.dbgUnhalt part slot else s
  if v.getLsbD 1 then s.dbgResume part else s

/-- A write of DBGREPLY (R485). -/
def State.dbgReply (s : State) (part : Nat) (v : DWord) : State :=
  let key := bitsOf v 7 0 * 128 + bitsOf v 9 8 * 32 + bitsOf v 14 10
  s.onStrand key fun st => if st.part = part then { st with reply := some (.ofNat 32 (v.toNat / 2 ^ 32)) } else st

/-! ## The page -/

/-- The register at an offset that is a multiple of 8, as it reads. -/
def State.bellReg (s : State) (part off : Nat) : DWord :=
  let p := s.part part
  let sel (f : QuarterSt → DWord) : DWord := match s.dbgQuarter part with | some q => f (s.quarter q) | none => 0
  if off < 0x8000 then
    if p.ownsQueue (off / 8) then .ofNat 64 (s.qf part (off / 8) 28 4) else 0
  else if off < 0x8200 then
    if (off - 0x8000) / 8 < p.ueqn then (s.ueWidx part ((off - 0x8000) / 8)).setWidth 64 else 0
  else if off = 0xE000 then p.dbgsel
  else if off = 0xE010 then sel QuarterSt.qstop
  else if off = 0xE018 then sel fun _ => p.dbgdaddr
  else if 0xE040 ≤ off ∧ off < 0xE080 then sel fun x => mapGet 0 x.dbgia ((off - 0xE040) / 8)
  else if 0xE100 ≤ off ∧ off < 0xE120 then mapGet 0 p.dbgwp ((off - 0xE100) / 8)
  else if off = 0xE180 then p.trbase
  else if off = 0xE188 then p.trctl
  else if off = 0xE190 then p.tridx.setWidth 64
  else if off = 0xF000 then p.frread.setWidth 64
  else if off = 0xF008 then p.frresume.setWidth 64
  else 0

/-- A write of the register at an offset that is a multiple of 8 (R7, R8). -/
def State.bellSet (s : State) (part off : Nat) (v : DWord) : State :=
  let w : Word := v.setWidth 32
  if off < 0x8000 then s.notify part (off / 8) w
  else if off < 0x8200 then s.ueNotify part ((off - 0x8000) / 8) w
  else if off = 0xE000 then s.onPart part fun p => { p with dbgsel := v &&& bitMask 9 0 }
  else if off = 0xE008 then s.dbgctl part v
  else if off = 0xE018 then s.onSelected part fun s _ => s.onPart part fun p => { p with dbgdaddr := v &&& bitMask 56 12 }
  else if 0xE040 ≤ off ∧ off < 0xE080 then
    s.onSelected part fun s q => s.onQuarter q fun x =>
      { x with dbgia := mapPut 0 x.dbgia ((off - 0xE040) / 8) (v &&& bitMask 63 2) }
  else if off = 0xE0F0 then s.dbgReply part v
  else if 0xE100 ≤ off ∧ off < 0xE120 then
    s.onPart part fun p => { p with dbgwp := mapPut 0 p.dbgwp ((off - 0xE100) / 8) (v &&& bitMask 63 3) }
  else if off = 0xE180 then s.onPart part fun p => { p with trbase := v &&& (bitMask 56 12 ||| bitMask 4 0) }
  else if off = 0xE188 then s.onPart part fun p => { p with trctl := v &&& bitMask 15 0 }
  else if off = 0xF000 then s.frread part w
  else if off = 0xF008 then s.frresume part w
  else s

/-- A read of n bytes of the page, all in one register. -/
def State.bellRead (s : State) (part off n : Nat) : Nat :=
  (s.bellReg part (off / 8 * 8)).toNat / 2 ^ (8 * (off % 8)) % 2 ^ (8 * n)

/-- Is a register one that acts on a write of its low half, so that a write of the other half alone does nothing (assumption 84)? Of
these DBGREPLY alone has a field in its high half. -/
def bellLow (off : Nat) : Bool := decide (off < 0x8200) || off == 0xE008 || off == 0xE0F0 || decide (0xF000 ≤ off)

/-- A write of n bytes of the page, all in one register: the bytes it does not cover keep what they read as. -/
def State.bellWrite (s : State) (part off n v : Nat) : State :=
  let reg := off / 8 * 8
  let sh := 8 * (off % 8)
  let old := (s.bellReg part reg).toNat
  let new := old % 2 ^ sh + v % 2 ^ (8 * n) * 2 ^ sh + old / 2 ^ (sh + 8 * n) * 2 ^ (sh + 8 * n)
  if bellLow reg && decide (4 ≤ off % 8) then s else s.bellSet part reg (.ofNat 64 new)

end Sys2Proof.Machine
end

