-- ==== Sys2Proof/Machine/Horgedo.lean ====
section
/-! DEFINITION. The Horgedo instructions (R298 to R303): what each does to the decision in progress on its die. An
instruction whose policy cycles would pass the budget does not execute: POLICY_OVERRUN ends the decision (R307). -/

namespace Sys2Proof.Machine

open Sys2Proof

/-- Register n of the policy engine. -/
def Decision.reg (d : Decision) (n : Nat) : Word := d.x.getD n 0
/-- Write register n. -/
def Decision.setReg (d : Decision) (n : Nat) (v : Word) : Decision := { d with x := d.x.set n v }
/-- Visible sources (R299). -/
def Decision.nq (d : Decision) : Nat := d.view.length
/-- An element of a list by a signed index, none outside it. -/
def signedAt {α : Type} (l : List α) (i : Int) : Option α := if 0 ≤ i then l[i.toNat]? else none
/-- Field f of view entry i (R299). -/
def Decision.field (d : Decision) (i : Int) (f : Nat) : Word :=
  match signedAt d.view i with | some e => e.2.getD f 0 | none => 0
/-- Field f of core c (R300). -/
def Decision.coreField (d : Decision) (c : Int) (f : Nat) : Word :=
  match signedAt d.cores c with | some e => e.getD f 0 | none => 0
/-- FIT of source a and core b (R303). -/
def Decision.fit (d : Decision) (a b : Int) : Bool :=
  match signedAt d.fits a with
  | some l => if b = -1 then !l.isEmpty else decide (0 ≤ b) && l.contains b.toNat
  | none => false

/-- The extreme of two fields over the view: `lt` says that the first pair of fields wins. -/
def Decision.arg (d : Decision) (lt : Int × Int → Int × Int → Bool) (f1 f2 : Nat) : Int :=
  let key (i : Nat) : Int × Int := ((d.field i f1).toInt, (d.field i f2).toInt)
  match (List.range d.nq).foldl (fun (best : Option Nat) i =>
      match best with
      | none => some i
      | some b => if lt (key i) (key b) then some i else some b) none with
  | some i => i
  | none => -1

/-- ARGMIN's order. -/
def argLess (a b : Int × Int) : Bool := decide (a.1 < b.1 ∨ (a.1 = b.1 ∧ a.2 < b.2))
/-- ARGMAX's order. -/
def argMore (a b : Int × Int) : Bool := decide (b.1 < a.1 ∨ (a.1 = b.1 ∧ b.2 < a.2))

/-- May an instruction of a cost execute: the decision has not ended and its budget allows it (R307)? -/
def Decision.affords (d : Decision) (cost : Nat) : Bool := d.chosen.isNone && decide (d.cycles + cost ≤ d.prog.budget)

/-- Execute an instruction of a cost that moves to a pc. -/
def hgTo (s : State) (cost : Nat) (pc : Decision → Nat) (f : Decision → Decision) : Host.Outcome State Fault Refusal :=
  policyOp s fun d => if d.affords cost then { f d with cycles := d.cycles + cost, pc := pc d } else d

/-- Execute an instruction of a cost that moves to the next word. -/
def hg (s : State) (cost : Nat) (f : Decision → Decision) : Host.Outcome State Fault Refusal := hgTo s cost (fun d => d.pc + 1) f

/-- One register from the decision. -/
def hgSet (s : State) (cost n : Nat) (f : Decision → Word) : Host.Outcome State Fault Refusal := hg s cost fun d => d.setReg n (f d)

/-- An offset in words. -/
def hgOff (imm : Half) : Nat := imm.toNat
/-- sext (R303). -/
def hgSext (imm : Half) : Word := imm.signExtend 32
/-- 1 or 0. -/
def hgBit (b : Bool) : Word := if b then 1 else 0

def execHgNop (s : State) : Host.Outcome State Fault Refusal := hg s 1 fun d => d
def execHgLi (d : Nat) (imm : Half) (s : State) : Host.Outcome State Fault Refusal := hgSet s 1 d fun _ => hgSext imm
def execHgLui (d : Nat) (imm : Half) (s : State) : Host.Outcome State Fault Refusal :=
  hgSet s 1 d fun y => (imm.setWidth 32 <<< 16) ||| (y.reg d &&& 0xFFFF)
def execHgMov (d a : Nat) (s : State) : Host.Outcome State Fault Refusal := hgSet s 1 d fun y => y.reg a
def execHgAdd (d a b : Nat) (s : State) : Host.Outcome State Fault Refusal := hgSet s 1 d fun y => y.reg a + y.reg b
def execHgAddi (d a : Nat) (imm : Half) (s : State) : Host.Outcome State Fault Refusal :=
  hgSet s 1 d fun y => y.reg a + hgSext imm
def execHgSub (d a b : Nat) (s : State) : Host.Outcome State Fault Refusal := hgSet s 1 d fun y => y.reg a - y.reg b
def execHgMul (d a b : Nat) (s : State) : Host.Outcome State Fault Refusal := hgSet s 2 d fun y => y.reg a * y.reg b
def execHgShl (d a n : Nat) (s : State) : Host.Outcome State Fault Refusal := hgSet s 1 d fun y => y.reg a <<< (n % 32)
def execHgShr (d a n : Nat) (s : State) : Host.Outcome State Fault Refusal := hgSet s 1 d fun y => y.reg a >>> (n % 32)
def execHgAnd (d a b : Nat) (s : State) : Host.Outcome State Fault Refusal := hgSet s 1 d fun y => y.reg a &&& y.reg b
def execHgOr (d a b : Nat) (s : State) : Host.Outcome State Fault Refusal := hgSet s 1 d fun y => y.reg a ||| y.reg b
def execHgMin (d a b : Nat) (s : State) : Host.Outcome State Fault Refusal :=
  hgSet s 1 d fun y => if (y.reg a).slt (y.reg b) then y.reg a else y.reg b
def execHgMax (d a b : Nat) (s : State) : Host.Outcome State Fault Refusal :=
  hgSet s 1 d fun y => if (y.reg a).slt (y.reg b) then y.reg b else y.reg a
def execHgSlt (d a b : Nat) (s : State) : Host.Outcome State Fault Refusal :=
  hgSet s 1 d fun y => hgBit ((y.reg a).slt (y.reg b))
def execHgSlti (d a : Nat) (imm : Half) (s : State) : Host.Outcome State Fault Refusal :=
  hgSet s 1 d fun y => hgBit ((y.reg a).slt (hgSext imm))
def execHgSeq (d a b : Nat) (s : State) : Host.Outcome State Fault Refusal :=
  hgSet s 1 d fun y => hgBit (y.reg a == y.reg b)
def execHgSeqi (d a : Nat) (imm : Half) (s : State) : Host.Outcome State Fault Refusal :=
  hgSet s 1 d fun y => hgBit (y.reg a == hgSext imm)
def execHgLdq (d a f : Nat) (s : State) : Host.Outcome State Fault Refusal :=
  hgSet s 2 d fun y => y.field (y.reg a).toInt f
def execHgLdk (d a f : Nat) (s : State) : Host.Outcome State Fault Refusal :=
  hgSet s 2 d fun y => y.coreField (y.reg a).toInt f
def execHgLde (d f : Nat) (s : State) : Host.Outcome State Fault Refusal := hgSet s 2 d fun y => y.ev.getD f 0
def execHgLdw (d n : Nat) (s : State) : Host.Outcome State Fault Refusal := hgSet s 2 d fun y => y.scratch.getD n 0
def execHgStw (a n : Nat) (s : State) : Host.Outcome State Fault Refusal :=
  hg s 2 fun y => { y with scratch := y.scratch.set n (y.reg a) }
def execHgNq (d : Nat) (s : State) : Host.Outcome State Fault Refusal := hgSet s 1 d fun y => .ofNat 32 y.nq
def execHgFit (d a b : Nat) (s : State) : Host.Outcome State Fault Refusal :=
  hgSet s 4 d fun y => hgBit (y.fit (y.reg a).toInt (y.reg b).toInt)
def execHgBz (a : Nat) (imm : Half) (s : State) : Host.Outcome State Fault Refusal :=
  hgTo s 1 (fun y => if y.reg a = 0 then y.pc + hgOff imm else y.pc + 1) fun y => y
def execHgBnz (a : Nat) (imm : Half) (s : State) : Host.Outcome State Fault Refusal :=
  hgTo s 1 (fun y => if y.reg a ≠ 0 then y.pc + hgOff imm else y.pc + 1) fun y => y
def execHgBr (imm : Half) (s : State) : Host.Outcome State Fault Refusal := hgTo s 1 (fun y => y.pc + hgOff imm) fun y => y
def execHgForq (d : Nat) (imm : Half) (s : State) : Host.Outcome State Fault Refusal :=
  hgTo s 1 (fun y => if y.nq = 0 then y.pc + hgOff imm else y.pc + 1) fun y => y.setReg d 0
def execHgNextq (d : Nat) (imm : Half) (s : State) : Host.Outcome State Fault Refusal :=
  hgTo s 1 (fun y => if (y.reg d + 1).toInt < y.nq then y.pc - hgOff imm else y.pc + 1) fun y => y.setReg d (y.reg d + 1)
def execHgArgmin (d f1 f2 : Nat) (s : State) : Host.Outcome State Fault Refusal :=
  hgSet s 18 d fun y => .ofInt 32 (y.arg argLess f1 f2)
def execHgArgmax (d f1 f2 : Nat) (s : State) : Host.Outcome State Fault Refusal :=
  hgSet s 18 d fun y => .ofInt 32 (y.arg argMore f1 f2)

/-- End the decision with what a DECIDE of a kind chose; a DECIDE of another kind, which the verifier refuses (R306 rule
8), chooses nothing. -/
def hgDecide (s : State) (kind : EvKind) (f : Decision → Int × Int) : Host.Outcome State Fault Refusal :=
  hg s 2 fun d => if d.kind = kind then { d with chosen := some (f d) } else d

def execHgDecideD (a b : Nat) (s : State) : Host.Outcome State Fault Refusal :=
  hgDecide s .dispatch fun d => ((d.reg a).toInt, (d.reg b).toInt)
def execHgDecideP (n : Nat) (s : State) : Host.Outcome State Fault Refusal := hgDecide s .preempt fun _ => (n, 0)
def execHgDecideF (n : Nat) (s : State) : Host.Outcome State Fault Refusal := hgDecide s .fault fun _ => (n, 0)

/-- Policy cycles of an operation code (R303). -/
def hgCost (op : Nat) : Nat :=
  if op = 0x07 ∨ (0x12 ≤ op ∧ op ≤ 0x16) ∨ 0x20 ≤ op then 2
  else if op = 0x18 then 4
  else if op = 0x1E ∨ op = 0x1F then 18
  else 1

/-- Execute the instruction of a word (R302, R303) in the decision in progress; a word that the verifier refuses (R306)
never executes. -/
def execHgWord (w : Nat) (s : State) : Host.Outcome State Fault Refusal :=
  let d := bitsN w 8 4
  let a := bitsN w 12 4
  let n := bitsN w 16 16
  let b := n % 16
  let imm : Half := .ofNat 16 n
  match w % 256 with
  | 0x00 => execHgNop s
  | 0x01 => execHgLi d imm s
  | 0x02 => execHgLui d imm s
  | 0x03 => execHgMov d a s
  | 0x04 => execHgAdd d a b s
  | 0x05 => execHgAddi d a imm s
  | 0x06 => execHgSub d a b s
  | 0x07 => execHgMul d a b s
  | 0x08 => execHgShl d a n s
  | 0x09 => execHgShr d a n s
  | 0x0A => execHgAnd d a b s
  | 0x0B => execHgOr d a b s
  | 0x0C => execHgMin d a b s
  | 0x0D => execHgMax d a b s
  | 0x0E => execHgSlt d a b s
  | 0x0F => execHgSlti d a imm s
  | 0x10 => execHgSeq d a b s
  | 0x11 => execHgSeqi d a imm s
  | 0x12 => execHgLdq d a n s
  | 0x13 => execHgLdk d a n s
  | 0x14 => execHgLde d n s
  | 0x15 => execHgLdw d n s
  | 0x16 => execHgStw a n s
  | 0x17 => execHgNq d s
  | 0x18 => execHgFit d a b s
  | 0x19 => execHgBz a imm s
  | 0x1A => execHgBnz a imm s
  | 0x1B => execHgBr imm s
  | 0x1C => execHgForq d imm s
  | 0x1D => execHgNextq d imm s
  | 0x1E => execHgArgmin d (n % 16) (n / 16) s
  | 0x1F => execHgArgmax d (n % 16) (n / 16) s
  | 0x20 => execHgDecideD a b s
  | 0x21 => execHgDecideP n s
  | 0x22 => execHgDecideF n s
  | _ => policyOp s fun d => d

end Sys2Proof.Machine
end

