-- ==== Sys2Proof/Machine/BootEv.lean ====
section
/-! DEFINITION. Events of device management: host accesses, reset and boot, management writes, cores that change
partition, attestation and power (R335, R336, R342 to R348, R388, R389). An event whose condition does not hold changes
nothing. -/

namespace Sys2Proof

/-! ## Firmware images (R343) -/

/-- n bytes of an image at an offset. -/
def Image.at_ (x : Image) (o n : Nat) : List Byte := (x.bytes.drop o).take n
/-- A header word of an image at an offset (R343). -/
def Image.word (x : Image) (o : Nat) : Nat := Machine.bytesVal (x.at_ o 4)
/-- Header and body, which both signatures cover. -/
def Image.signed (x : Image) : List Byte := x.bytes.take (512 + x.word 12)
/-- The RSA modulus, the SLH-DSA public key and the two signatures after the body. -/
def Image.rsaKey (x : Image) : List Byte := x.at_ (512 + x.word 12) 384
/-- The SLH-DSA public key. -/
def Image.slhKey (x : Image) : List Byte := x.at_ (896 + x.word 12) 48
/-- Does the RSA signature verify, under a key of the fused digest? -/
def Image.rsaOk (x : Image) : Bool :=
  Config.sha384 x.rsaKey == Config.rsaFuse && Config.rsaVerifies x.rsaKey (x.at_ (944 + x.word 12) 384) x.signed
/-- Does the SLH-DSA signature verify, under a key of the fused digest? -/
def Image.slhOk (x : Image) : Bool :=
  Config.sha384 x.slhKey == Config.slhFuse && Config.slhVerifies x.slhKey (x.at_ (1328 + x.word 12) 16224) x.signed
/-- The length of an image. -/
def Image.length (x : Image) : Nat := 17552 + x.word 12

end Sys2Proof

namespace Sys2Proof.Machine

open Sys2Proof

/-! ## The host's windows (R342) -/

/-- The partition whose doorbell page holds a physical address; one that names a host or peer frame is in none. -/
def State.bellOf (s : State) (a : Nat) : Option Nat :=
  if 2 ^ 50 ≤ a then none
  else (s.parts.find? fun e => decide (mainBytes ≤ e.2.doorbell ∧ e.2.doorbell ≤ a ∧ a < e.2.doorbell + 65536)).map (·.1)

/-- A host read (R342): main memory, a doorbell page's register, or all ones. -/
def State.hostRead (s : State) (a n : Nat) : Nat × State :=
  if a + n ≤ mainBytes then s.rd .flostra a n
  else
    match s.bellOf a with
    | some p => (s.bellRead p (a - (s.part p).doorbell) n, s)
    | none => (2 ^ (8 * n) - 1, s)

/-- A host write (R342): main memory, a doorbell page's registers, or nothing, counted by the device that is the bridge or has
none named. -/
def State.hostWrite (s : State) (a n v : Nat) : State :=
  if a + n ≤ mainBytes then s.wr .flostra a n v
  else
    match s.bellOf a with
    | some p => s.bellWrite p (a - (s.part p).doorbell) n v
    | none => if (s.hostPlace 0).1 = .host then s.onFab fun f => { f with dropped := f.dropped + 1 } else s

/-- HOST_ACCESS (R342). -/
def execHostAccess (a : HostReq) (s : State) : Host.Outcome State Fault Refusal :=
  event s fun s =>
    match a.data with
    | none => let (v, s) := s.hostRead a.addr a.size; s.onFab fun f => { f with hostData := some (.ofNat 64 v) }
    | some d => s.hostWrite a.addr a.size (d.toNat % 2 ^ (8 * a.size))

/-! ## Reset and boot (R314, R343, R388) -/

/-- Does the ROM accept an image: magic, format, key digests, both signatures over header and body, and the security version?
The signature checks are those of their standards. -/
def Boot.accepts (b : Boot) (x : Image) : Bool :=
  x.present && decide (x.length ≤ x.bytes.length) && x.word 0 == 0x4F584C47 && x.word 4 == 1 && x.rsaOk && x.slhOk
    && decide (b.fuseSvn.toNat ≤ x.word 8)

/-- The incarnation after another, skipping 0 (R314). -/
def nextIncarn (x : Half) : Half := if x = BitVec.allOnes 16 then 1 else x + 1

/-- Boot management after a reset (R343, R344, R388): the image accepted, flash before staging, and firmware's new
incarnation; or the recovery wait with the results of the last image tried. The group that firmware names stays as it is (assumption
10). -/
def Boot.restart (b : Boot) (flash staging : Image) : Boot :=
  let r := { Boot.reset with fuseSvn := b.fuseSvn, lastIncarn := b.lastIncarn, group := b.group }
  let start (x : Image) : Boot :=
    { r with stage := 2, rsaok := true, slhok := true, svn := .ofNat 32 (x.word 8), fuseSvn := .ofNat 32 (x.word 8)
             image := x.bytes.take x.length, entry := .ofNat 32 (x.word 16)
             incarn := nextIncarn b.lastIncarn, lastIncarn := nextIncarn b.lastIncarn }
  if r.accepts flash then start flash
  else if r.accepts staging then start staging
  else
    let x := if staging.present then staging else flash
    { r with stage := 1, rsaok := x.present && x.rsaOk, slhok := x.present && x.slhOk }

/-- The cores after a reset (R386): firmware tests a quarantined one and quarantines it again if it fails, which one known to have a
lasting fault does and the spec leaves open for another. With no image accepted no firmware runs, and a quarantine holds. -/
def State.coresKept (s : State) (booted : Bool) : AMap CoreSt :=
  let faulty (c : Nat) : Bool :=
    (s.core c).failing || s.upsets.any fun u => u.place == .spad && u.addr / Config.spadBytes == c && !u.sound
  s.cores.filterMap fun e =>
    let stays := !booted || faulty e.1 || (Config.freeValue (s.free + e.1)).getLsbD 0
    if e.2.quarantined && stays then some (e.1, { CoreSt.reset with quarantined := true, failing := e.2.failing }) else none

/-- The device after a reset. What lies outside it stays: host memory, the frames it has sent and the order of coming
steps; so do the retired frames, which firmware applies again (R385), rows disabled for a lasting fault, and lasting
faults of cells. No line is left in the L2. -/
def State.restart (s : State) (flash staging : Image) : State :=
  let boot := s.boot.restart flash staging
  { State.reset with
    boot := boot, agenda := s.agenda, free := s.free + 192, hostMem := s.hostMem, retired := s.retired
    cores := s.coresKept (boot.stage == 2), disabled := s.disabled, upsets := s.upsets.filter fun u => !u.sound && u.l2.isNone
    checks := s.checks.filter fun c => !c.sound, fabric := { Fabric.reset with outbox := s.fabric.outbox, uetOut := s.fabric.uetOut } }

/-- DEVICE_RESET (R343). -/
def execDeviceReset (flash staging : Image) (s : State) : Host.Outcome State Fault Refusal :=
  event s fun s => s.restart flash staging

/-- FIRMWARE_FAULT (R388): after acceptance it resets the device. -/
def execFirmwareFault (flash staging : Image) (s : State) : Host.Outcome State Fault Refusal :=
  event s fun s => if 2 ≤ s.boot.stage then s.restart flash staging else s

/-- MANAGEMENT_WRITE (R335): firmware runs once an image is accepted. -/
def execManagementWrite (csr : Nat) (v : DWord) (s : State) : Host.Outcome State Fault Refusal :=
  event s fun s => if 2 ≤ s.boot.stage then s.mgmtWrite csr v else s

/-! ## Cores that change partition (R336, R348) -/

/-- CORE_LEAVES_PARTITION (R336). -/
def execCoreLeavesPartition (part core : Nat) (s : State) : Host.Outcome State Fault Refusal :=
  event s fun s =>
    let here := s.wgs.any fun e => e.2.part == part && e.2.resident && e.2.slots.any fun k => decide (coreOf k = core)
    if here ∨ (s.part part).leaving.contains core = false then s
    else (s.onPart part fun p => { p with leaving := p.leaving.erase core }).restage

/-- SCRATCH_CLEAR_COMPLETE (R348): the core's scratchpad and the vault above it are zero, and work may be placed there. -/
def execScratchClearComplete (core : Nat) (s : State) : Host.Outcome State Fault Refusal :=
  event s fun s =>
    if (s.core core).clearing = false then s
    else
      let s := { s with spad := clearRun s.spad (core * Config.spadBytes) Config.spadBytes
                        vault := clearRun s.vault (core * Config.vaultBytes) Config.vaultBytes }
      let s := s.onCore core fun c => { c with clearing := false }
      match s.partOfCore core with
      | some p => s.roomFreed p [core]
      | none => s

/-! ## Attestation (R345, R346, R389) -/

/-- ATTREQ_WRITE (R346). -/
def execAttreqWrite (part : Nat) (v : DWord) (s : State) : Host.Outcome State Fault Refusal :=
  event s fun s => s.attreq part v

/-- What the digest of a partition covers (R345): its block, the words of its policy image (R305) and its fabric registers, in
this order (assumption 24). -/
def State.partBytes (s : State) (part : Nat) : List Byte :=
  let p := s.part part
  ((List.range 16).flatMap fun k => bytesOf 8 (mapGet 0 p.block k).toNat)
    ++ (p.polWest.active.words.flatMap fun w => bytesOf 4 w)
    ++ (List.range 8).flatMap fun k => bytesOf 8 (mapGet 0 p.fab k).toNat

/-- Exactly n bytes of a list, filled with zeros. -/
def padTo (n : Nat) (l : List Byte) : List Byte := (l ++ List.replicate n 0).take n

/-- Bytes 0 to 255 of a report (R345). -/
def State.reportHead (s : State) (nonce : List Byte) : List Byte :=
  let b := s.boot
  bytesOf 8 1 ++ bytesOf 16 Config.serial.toNat
    ++ bytesOf 8 (b.devid.toNat + b.pod.toNat * 2 ^ 16 + b.incarn.toNat * 2 ^ 32)
    ++ padTo 48 (Config.sha384 b.image) ++ bytesOf 4 b.svn.toNat ++ bytesOf 4 b.attPart
    ++ padTo 48 (Config.sha384 (s.partBytes b.attPart)) ++ padTo 32 nonce ++ bytesOf 8 s.clock.toNat ++ List.replicate 80 0

/-- Does every page of a buffer take a write? -/
def State.bufferOk (s : State) (part a n : Nat) : Bool :=
  s.vok part .write (a + n - 1) && (List.range ((n + 4095) / 4096)).all fun i => s.vok part .write (a + 4096 * i)

/-- ATTESTATION_REPORT (R345, R389): the report is written whole, or ERR is set and nothing is written. -/
def execAttestationReport (selfTest : Bool) (s : State) : Host.Outcome State Fault Refusal :=
  event s fun s =>
    if s.boot.attBusy = false then s
    else
      let part := s.boot.attPart
      let a := bitsOf s.boot.attAddr 56 6 * 64
      let fin (s : State) (err : Bool) : State := { s with boot := { s.boot with attBusy := false, attErr := err } }
      if !selfTest then (fin s true).postRec part (plainRec 0x09 0x01 0)
      else if !s.bufferOk part a 16896 then fin s true
      else
        let head := s.reportHead (s.vreadBytes part (a + 136) 32)
        fin (s.vwriteBytes part a (head ++ padTo 384 (Config.rsaSign head) ++ padTo 16224 (Config.slhSign head))) false

/-! ## Power (R347) -/

/-- CAP_WRITE (R347). -/
def execCapWrite (w : Half) (s : State) : Host.Outcome State Fault Refusal := event s fun s => s.setCap w

/-- POWER_THROTTLE (R347): the measured power; above the cap the clocks fall by a step of 0.1 GHz, never below 1.8 GHz. -/
def execPowerThrottle (meas : Half) (s : State) : Host.Outcome State Fault Refusal :=
  event s fun s =>
    let b := { s.boot with meas := meas }
    { s with boot := if b.cap.toNat < meas.toNat then { b with thr := true, freq := .ofNat 8 (max 18 (b.freq.toNat - 1)) } else b }

end Sys2Proof.Machine
end

