-- ==== Sys2Proof/Machine/Land.lean ====
section
/-! DEFINITION. How a memory operation performs: elements of formatted pages (R115, R116, R216, R217), loads and their
registers (R213, R214, R219), the resolution of a symbol (R102), stores, atomics and sync updates (R108, R220, R228). -/

namespace Sys2Proof.Machine

open Sys2Proof

/-! ## Bytes where an access goes -/

/-- Read n bytes of a lane's access: a doorbell page's registers answer themselves. -/
def State.rdAcc (s : State) (p : Place) (a n : Nat) : Nat × State :=
  if p = .bell then (s.bellRead (a / 65536) (a % 65536) n, s) else s.rd p a n

/-- Store n bytes of a lane's access. -/
def State.wrAcc (s : State) (p : Place) (a n v : Nat) : State :=
  if p = .bell then s.bellWrite (a / 65536) (a % 65536) n v else s.wr p a n v (decide (n = 4))

/-! ## Formatted pages -/

/-- Write the code of an element. -/
def State.wrElem (s : State) (p : Place) (frame fmt i code : Nat) : State :=
  if fmt = 1 then
    let a := frame + i / 2
    let (b, s) := s.rd p a 1
    s.wr p a 1 (if i % 2 = 0 then b / 16 * 16 + code % 16 else b % 16 + code % 16 * 16)
  else s.wr p (frame + i) 1 code

/-- Encode one block of a formatted page from its elements and their f32 values: the scale code, then each element code
(R217, R197, R198), with the flags. -/
def State.wrBlock (s : State) (e : FpEnv) (els : List (Elem × DWord)) : State × Half :=
  match els with
  | [] => (s, 0)
  | (f, _) :: _ =>
    let (band, s) := if f.fmt = 1 then s.rd f.place (f.frame + bandAt f.geom f.off) 2 else (0, s)
    let vs := els.map fun x => fp32.val (x.2.toNat % 2 ^ 32)
    let (k, fl) := if f.fmt = 1 then e3m5Code ((fmtOf .bf16).val band) vs else e8m0Code (pageTy f.fmt) vs
    let s := s.wr f.place (f.frame + scaleAt f.fmt f.off) 1 k
    els.foldl (fun (acc : State × Half) x =>
      let r := bqntLane (pageTy f.fmt) e x.1.off (x.2.setWidth 32 |>.setWidth 64) (.ofNat 64 k) (.ofNat 64 band)
      (acc.1.wrElem f.place f.frame f.fmt x.1.off r.1.toNat, acc.2 ||| r.2)) (s, fl)

/-- The blocks of an STF: elements of one frame and block together, in lane order. -/
def blocksOf : List (Elem × DWord) → List (List (Elem × DWord))
  | [] => []
  | x :: t =>
    let same (y : Elem × DWord) : Bool :=
      y.1.place == x.1.place && y.1.frame == x.1.frame && y.1.off / blockElems x.1.fmt == x.1.off / blockElems x.1.fmt
    match blocksOf t with
    | [] => [[x]]
    | bs => if bs.any (fun b => b.any same) then bs.map fun b => if b.any same then x :: b else b else [x] :: bs

/-! ## Loads -/

/-- The values of a load's lanes. -/
def State.rdLanes (s : State) (accs : List Acc) (t : Ty) : LaneVals × State :=
  accs.foldl (fun (acc : LaneVals × State) a =>
    let (v, s) := acc.2.rdAcc a.place a.pa t.bytes
    (acc.1 ++ [(a.lane, extendTy t v)], s)) ([], s)

/-- The values of LDT's lanes (R214). -/
def State.rdTile (s : State) (accs : List Acc) : LaneVals × State :=
  let (vs, s) := s.rdLanes accs .n16
  (tileLanes accs vs, s)

/-- The values of an LDC from a workgroup's kernel-constant space (R109). -/
def constLanes (consts : List Byte) (offs : List (Nat × Nat)) (t : Ty) : LaneVals :=
  offs.map fun o => (o.1, extendTy t (bytesVal ((List.range t.bytes).map fun i => consts.getD (o.2 + i) 0)))

/-- One lane's atomic (R220): the value found. One on another device's memory is performed there (R122). -/
def State.doAtomic (s : State) (a : Acc) (op : AtmOp) (t : Ty) (c e : Nat) : Nat × State :=
  let (q, b) := s.redirect a.place a.pa
  if q = .peer then
    let r : FarReq := .atomic b a.lane op t c e
    (bytesVal ((s.farKnown r).getD []), s.farAsk r)
  else
    let (old, s) := s.rdAcc a.place a.pa t.bytes
    (old, s.wrAcc a.place a.pa t.bytes (atmNew op t old c e))

/-- Atomics of an instruction, each lane's indivisibly (R220): the values found and the state. -/
def State.doAtomics (s : State) (accs : List Acc) (op : AtmOp) (t : Ty) (c e : List DWord) : LaneVals × State :=
  accs.foldl (fun (acc : LaneVals × State) a =>
    let (old, s) := acc.2.doAtomic a op t (c.getD a.lane 0).toNat (e.getD a.lane 0).toNat
    (acc.1 ++ [(a.lane, extendTy t old)], s)) ([], s)

/-- What a load or an atomic with a result brings, a remote one what its responses held: its values, flags and the state. -/
def State.loadVals (s : State) (wg : Nat) (b : OpBody) : LaneVals × Half × State :=
  match b with
  | .load accs t _ => let (v, s) := s.rdLanes accs t; (v, 0, s)
  | .loadT accs _ => let (v, s) := s.rdTile accs; (v, 0, s)
  | .loadF els t rnd fz seed _ => s.rdElems els t { mode := rnd, fz := fz, sat := false, seed := seed }
  | .loadC offs t _ => (constLanes (match s.wg? wg with | some w => w.consts | none => []) offs t, 0, s)
  | .atomic accs op t c e _ _ => let (v, s) := s.doAtomics accs op t c e; (v, 0, s)
  | .remote r => (r.got, 0, s)
  | _ => ([], 0, s)

/-- Does an operation bring values into registers through LOAD_DATA_ARRIVAL? -/
def OpBody.brings : OpBody → Bool
  | .load .. | .loadT .. | .loadF .. | .loadC .. => true
  | .atomic _ _ _ _ _ nr _ => !nr
  | _ => false

/-- A load's data arrive (R211). -/
def State.landLoad (s : State) (key op : Nat) : State :=
  match s.strand? key with
  | none => s
  | some st =>
    match st.op? op with
    | none => s
    | some o =>
      let (vals, fl, s) := s.loadVals st.wg o.body
      ((s.useSlots key (st.ctx.regs.dstSlots o.body.dst)).onStrand key fun st =>
        st.landRegs op (Ctx.landed fl fun r => r.land o.body.dst vals)).finishOp key op

/-! ## Resolution (R102) -/

/-- A resolution touches the slots of the registers that hold the symbol (R104). -/
def State.wakeDest (s : State) (key num : Nat) : State :=
  match s.strand? key with
  | none => s
  | some st => s.useSlots key (st.ctx.regs.v.flatMap fun e => match e.2.shape with | .p k f => if f.sym = num then [k] else [] | _ => [])

/-- A symbol's data arrive (R102): every register that holds it resolves and the symbol and its forms are freed. Where another
symbol carries the destination, the data join what that one stands for (R239). What lanes have held since they performed counts
(R424). -/
def State.resolveSym (s : State) (key op num : Nat) : State :=
  match s.strand? key with
  | none => s
  | some st =>
    match st.op? op, st.syms.find? fun y => y.num == num with
    | some o, some y =>
      let (vals, fl, s) := s.loadVals st.wg o.body
      ((s.wakeDest key y.num).onStrand key fun st => st.settleSym op y o.body.dst (o.held ++ vals) (o.flags ||| fl)).finishOp key op
    | _, _ => s

/-- The lanes of a .late load that have translated perform and hold what they read, with its flags (R424). -/
def State.holdLate (s : State) (key : Nat) (st : Strand) (o : Op) : State :=
  let (vals, fl, s) := s.loadVals st.wg o.body
  s.onStrand key fun st => st.onOp o.id fun o =>
    { o with held := o.held ++ vals, flags := o.flags ||| fl, body := o.body.noLanes }

/-! ## Stores -/

/-- The lanes of a store that write: of several at one address the highest (R108). -/
def topLanes : List Acc → List Acc
  | [] => []
  | a :: t => if t.any (fun b => b.place == a.place && b.pa == a.pa) then topLanes t else a :: topLanes t

/-- Does an operation perform through STORE_PERFORMED? -/
def OpBody.writes : OpBody → Bool
  | .store .. | .storeF .. | .sync .. => true
  | .atomic _ _ _ _ _ nr _ => nr
  | _ => false

/-- Perform a store, an STF, an atomic without result or a sync update. -/
def State.doStore (s : State) (key : Nat) (b : OpBody) : State :=
  match b with
  | .store accs t data =>
    (topLanes accs).foldl (fun s a => s.wrAcc a.place a.pa t.bytes ((data.getD a.lane 0).toNat % 2 ^ (8 * t.bytes))) s
  | .storeF els rnd sat fz seed data =>
    let e : FpEnv := { mode := rnd, fz := fz, sat := sat, seed := seed }
    let (s, fl) := (blocksOf (els.map fun x => (x, data.getD x.lane 0))).foldl (fun (acc : State × Half) b =>
      let (t, g) := acc.1.wrBlock e b; (t, acc.2 ||| g)) (s, 0)
    s.raise key fl
  | .atomic accs op t c e _ _ => (s.doAtomics accs op t c e).2
  | .sync p a u => s.syncAt p a u
  | _ => s

/-- An operation of a strand that may perform now: in flight, not suspended, nothing older keeping it back. -/
def State.ready? (s : State) (key op : Nat) : Option (Strand × Op) :=
  match s.strand? key with
  | none => none
  | some st =>
    match st.op? op with
    | none => none
    | some o => if !o.done && o.susp.isNone && st.mayPerform o && !s.hidden key o && !s.wgAway st.wg then some (st, o) else none

/-- A .late load some of whose lanes have faulted, where lanes that have translated may perform now (R424). -/
def State.lateReady? (s : State) (key op : Nat) : Option (Strand × Op) :=
  match s.strand? key with
  | none => none
  | some st =>
    match st.op? op with
    | none => none
    | some o =>
      if o.sym.isSome && o.susp.isSome && !o.done && !o.body.lanesDone.isEmpty && st.mayPerform o && !s.hidden key o && !s.wgAway st.wg
      then some (st, o) else none

end Sys2Proof.Machine
end

