-- ==== Sys2Proof/Machine/StrandEv.lean ====
section
/-! DEFINITION. Events of strands: data arriving and symbols resolving, stores performing, the end of a strand and of
its block, drowsy slots, page walks, instruction fetch and compaction. An event whose condition does not hold changes
nothing. -/

namespace Sys2Proof.Machine

open Sys2Proof

/-- Hold a register write that reaches a quarter under dump, unless its buffer is full (R488). -/
def State.holdWrite (s : State) (key op : Nat) (resolution : Bool) : State :=
  s.onQuarter (quarterOf key) fun q =>
    if 2048 ≤ q.held.length ∨ q.held.any fun h => h.strand == key && h.op == op then q
    else { q with held := q.held ++ [{ strand := key, op := op, resolution := resolution }] }

/-- The words that a load's reply reads. -/
def OpBody.replyAccs : OpBody → Nat × List Acc
  | .load accs t _ => (t.bytes, accs)
  | .loadF els _ _ _ _ _ => (1, els.flatMap Elem.reads)
  | _ => (1, [])

/-- A load's operation without some of its lanes. -/
def OpBody.without (b : OpBody) (ls : List Nat) : OpBody :=
  match b with
  | .load accs ty d => .load (accs.filter fun a => !ls.contains a.lane) ty d
  | .loadF els ty m fz sd d => .loadF (els.filter fun e => !ls.contains e.lane) ty m fz sd d
  | b => b

/-- The lanes of a .late load that have translated read their words: none of them lost, and the load goes on with `k`; or else it
is suspended for the lost lanes under a DATA fault, which is routed, and delivered where its symbol is waited for (R384, R425). -/
def State.lateRead (s : State) (key : Nat) (st : Strand) (o : Op) (k : State → State) : State :=
  let (n, accs) := o.body.replyAccs
  let (s, lost, sub, out) := s.eccScan st.part n accs
  if lost.isEmpty then k s
  else
    (s.onStrand key fun st => st.onOp o.id fun o =>
      { o with susp := some (0x05, sub), group := none, body := o.body.without lost }).route
      { part := st.part, wg := some st.wg, split := none, op := some (key, o.id), core := coreOf key
        fault := { s.opRec key st o 0x05 sub 0 (laneMask lost) with outcome := out } }

/-- LOAD_DATA_ARRIVAL (R211, R134, R424): a plain load's or an atomic's values reach its registers; lanes of a .late load of which
others have faulted perform. -/
def execLoadDataArrival (strand op : Nat) (s : State) : Host.Outcome State Fault Refusal :=
  event s fun s =>
    match s.ready? strand op with
    | none =>
      (match s.lateReady? strand op with
        | some (st, o) => s.farFor strand op fun s => s.lateRead strand st o fun s => s.holdLate strand st o
        | none => s)
    | some (_, o) =>
      if o.sym.isSome || !o.body.brings then s
      else if (s.quarter (quarterOf strand)).dumping then s.holdWrite strand op false
      else s.farFor strand op fun s => s.landLoad strand op

/-- Has every lane of a .late load its data, those of the other peers of its instruction first where it carries the destination
(R239)? -/
def Op.dataIn (o : Op) (syms : List Sym) : Bool :=
  o.lanesLeft syms == 0 && (syms.all fun y => y.lead.isNone || y.lead != o.sym) &&
    match o.body with
    | .remote r => o.started && r.wait.isEmpty
    | _ => true

/-- SYMBOL_RESOLUTION (R102). -/
def execSymbolResolution (strand sym : Nat) (s : State) : Host.Outcome State Fault Refusal :=
  event s fun s =>
    match (s.strand? strand).bind fun st => st.ops.find? fun o => o.sym == some sym with
    | none => s
    | some o =>
      match s.ready? strand o.id with
      | none => s
      | some (st, o) =>
        if !o.dataIn st.syms then s
        else if (s.quarter (quarterOf strand)).dumping then s.holdWrite strand o.id true
        else s.farFor strand o.id fun s => s.lateRead strand st o fun s => s.resolveSym strand o.id sym

/-- STORE_PERFORMED (R134). -/
def execStorePerformed (strand op : Nat) (s : State) : Host.Outcome State Fault Refusal :=
  event s fun s =>
    match s.ready? strand op with
    | none => s
    | some (_, o) => if o.body.writes then s.farFor strand op fun s => (s.doStore strand o.body).finishOp strand op else s

/-- STRAND_LEAVES_EXITED (R25, R40): its slot is free once its workgroup lets it go; its block drains; the last strand
retires the workgroup. -/
def execStrandLeavesExited (strand : Nat) (s : State) : Host.Outcome State Fault Refusal :=
  event s fun s =>
    match s.strand? strand with
    | none => s
    | some st =>
      match s.wg? st.wg with
      | none => s
      | some w =>
        -- in a kill, once every operation that it lets complete has completed (R444)
        let done := w.phase == .killed && (s.members w).all fun e => e.2.ops.isEmpty
        let may := done || (w.phase == .running && st.phase == .exited)
        -- a workgroup does not retire while it is a receiver of a multicast copy (R406)
        let awaited := (w.strands.erase strand).isEmpty && s.copyInto st.wg
        if !may || !st.ops.isEmpty || awaited then s
        else
          let c := s.stayCharge st
          let s := { s.drain strand st 0 with strands := mapErase strand s.strands }
          let s := s.onWg st.wg fun w => { w with strands := w.strands.erase strand, charge := w.charge + c }
          if (w.strands.erase strand).isEmpty then s.endWg st.wg else s.writeUse w.part w.rcb

/-- DRAINING_END (R96, R95): a write outstanding to a draining block arrives and is dropped (R437, R444); with none left the block
returns to the allocator. -/
def execDrainingEnd (quarter start : Nat) (s : State) : Host.Outcome State Fault Refusal :=
  event s fun s =>
    let q := s.quarter quarter
    match q.draining.find? fun d => d.1 == start with
    | none => s
    | some (b, n, left) =>
      if q.dumping then s
      else if left ≠ 0 then s.onQuarter quarter fun q =>
        { q with draining := q.draining.map fun d => if d.1 == start then (b, n, left - 1) else d }
      else
        let s := s.onQuarter quarter fun q =>
          { q with free := buddyRelease 8 q.free b n, draining := q.draining.filter fun d => d.1 != start }
        match s.partOfCore (quarter / 4) with
        | some p => s.roomFreed p [quarter / 4]
        | none => s

/-- SLOT_DROWSY (R104): a slot that no access has touched for 512 cycles. -/
def execSlotDrowsy (strand slot : Nat) (s : State) : Host.Outcome State Fault Refusal :=
  event s fun s =>
    match s.strand? strand with
    | none => s
    | some st =>
      if s.clock.toNat < max st.granted (mapGet 0 st.touched slot) + 512 ∨ 2 ^ st.logG ≤ slot then s
      else s.onQuarter (quarterOf strand) fun q =>
        if q.drowsy.contains (strand, slot) then q else { q with drowsy := q.drowsy ++ [(strand, slot)] }

/-- SLEEP_EXPIRY (R170). -/
def execSleepExpiry (strand split : Nat) (s : State) : Host.Outcome State Fault Refusal :=
  event s fun s => s.onStrand strand fun st => st.onSplit split fun sp =>
    if sp.wake ≤ s.clock.toNat then { sp with wake := 0 } else sp

/-- WALK_COMPLETE (R410). -/
def execWalkComplete (w : WalkReq) (s : State) : Host.Outcome State Fault Refusal :=
  event s fun s => if (s.core w.core).walks.contains w then s.endWalk w else s

/-- What the fetch of a split comes to: the words, a walk to make, or the failing word's address with its error. -/
inductive FetchRes where
  | words (l : List Nat) (accs : List Acc)
  | miss (w : WalkReq)
  | fail (va : VAddr) (e : WalkErr)
deriving DecidableEq, Repr

/-- Words of an instruction by L (R138). -/
def lenOf (w : Nat) : Nat := match w % 4 with | 0 => 1 | 3 => 5 | _ => 3

/-- The key of a partition's word in an instruction cache. -/
def icKey (part : Nat) (va : VAddr) : Nat := part * 2 ^ 57 + va.toNat

/-- The word that a core's instruction cache holds. -/
def State.cached (s : State) (core part : Nat) (va : VAddr) : Option Nat := mapFind (s.core core).icache (icKey part va)

/-- Word k of an instruction as fetch gives it (R140): what memory holds, or what the instruction cache still holds; which of
the two, where they differ, is a free value (assumption 113). -/
def State.wordAt (s : State) (core part : Nat) (va : VAddr) (k now : Nat) : Nat :=
  match s.cached core part va with
  | some old => if old = now then now else if (Config.freeValue s.free).getLsbD k then old else now
  | none => now

/-- The instruction cache takes up words from an address, but keeps those that it holds. -/
def State.cacheWords (s : State) (core part : Nat) (va : VAddr) (l : List Nat) : State :=
  l.zipIdx.foldl (fun s e =>
    let a := va + .ofNat 57 (4 * e.2)
    if (s.cached core part a).isSome then s
    else s.onCore core fun c => { c with icache := mapIns (icKey part a) e.1 c.icache }) s

/-- The instruction caches hold nothing of a partition any more (R140). -/
def State.dropCode (s : State) (part : Nat) : State :=
  s.cores.foldl (fun s e => s.onCore e.1 fun c => { c with icache := c.icache.filter fun w => w.1 / 2 ^ 57 != part }) s

/-- Fetch n words from an address, the first of them word k of its instruction. -/
def State.fetchWords (s : State) (core part : Nat) (pc : VAddr) (k : Nat) : Nat → FetchRes
  | 0 => .words [] []
  | n + 1 =>
    match (s.translate core part .fetch pc.toNat).plain 4 with
    | .miss w => .miss w
    | .fail e => .fail pc e
    | .ok t =>
      let w := s.wordAt core part pc k (s.rd t.place t.pa 4).1
      match s.fetchWords core part (pc + 4) (k + 1) n with
      | .words l as => .words (w :: l) ({ lane := 0, place := t.place, pa := t.pa, va := pc.setWidth 64 } :: as)
      | r => r

/-- Are words yet to come from another device's memory? -/
def State.farWords (s : State) (accs : List Acc) : Bool := !(s.rdLanes accs .b32).2.far.asked.isEmpty

/-- Fetch the instruction at an address: its first word gives its length (R138, R390). -/
def State.fetch (s : State) (core part : Nat) (pc : VAddr) : FetchRes :=
  match s.fetchWords core part pc 0 1 with
  | .words [w] accs => if s.farWords accs then .words [w] accs else s.fetchWords core part pc 0 (lenOf w)
  | r => r

/-- The instruction cache takes up a word of its own accord, where the core's TLB translates it. -/
def State.prefetch (s : State) (core part : Nat) (va : VAddr) : State :=
  match s.fetchWords core part va 0 1 with
  | .words [w] accs => if s.farWords accs then s else s.cacheWords core part va [w]
  | _ => s

/-- INSTRUCTION_FETCH_COMPLETE (R390): the words arrive, or the split parks at the instruction, once no handler of another split runs
(R392). -/
def execInstructionFetchComplete (strand split : Nat) (s : State) : Host.Outcome State Fault Refusal :=
  event s fun s =>
    match s.strand? strand with
    | none => s
    | some st =>
      let sp := st.split split
      if !(sp.st == .ready || sp.st == .trapped) || !sp.words.isEmpty || s.wgAway st.wg then s
      else
        let core := coreOf strand
        let c : Ic := { key := strand, slot := split, st := st, sp := sp }
        s.farDo st.part (.fetch strand split) fun s =>
        match s.fetch core st.part sp.pc with
        | .miss w => s.askWalks core [w]
        | .fail va e =>
          if st.heldBack split then s
          else
          let r := s.strandRec strand st 0x01 e.sub sp.pc (va.setWidth 64) sp.mask
          let s := s.parkFail c sp.mask { lanes := sp.mask, addrs := [], data := [], data2 := [] } [r]
          s.onStrand strand fun st => st.onSplit split fun p => { p with park := p.park.map fun k => { k with redo := none } }
        | .words l accs =>
          let (s1, lost, sub, out) := (if s.farWords accs then (s.rdLanes accs .b32).2 else s).eccScan st.part 4 accs
          if !lost.isEmpty && st.heldBack split then s
          else if lost.isEmpty then
            let s2 := s1.cacheWords core st.part sp.pc l
            let s2 := { s2 with free := s2.free + 1 }
            s2.onStrand strand fun st => st.onSplit split fun p => { p with words := l, stall := .none }
          else s1.parkLoss c sp.mask sub out 0

/-- COMPACTION_MOVE (R97). -/
def execCompactionMove (quarter : Nat) (s : State) : Host.Outcome State Fault Refusal := event s fun s => s.moveBlock quarter

/-- SCRATCHPAD_COMPACTION (R452). -/
def execScratchpadCompaction (core : Nat) (s : State) : Host.Outcome State Fault Refusal := event s fun s => s.compactSpad core

end Sys2Proof.Machine
end

