-- ==== Sys2Proof/Machine/Watch.lean ====
section
/-! DEFINITION. What breakpoints and watchpoints see of the instruction that a split is about to issue (R478, R479). -/

namespace Sys2Proof.Machine

open Sys2Proof

/-! ## Breakpoints (R478) -/

/-- The comparators of a quarter that match a strand slot at an address, the lowest first. -/
def QuarterSt.matching (q : QuarterSt) (slot : Nat) (pc : VAddr) : Option Nat :=
  (List.range 8).find? fun i =>
    let c := mapGet 0 q.dbgia i
    c.getLsbD 63 && (!c.getLsbD 62 || bitsOf c 61 57 == slot) && bitsOf c 56 2 == pc.toNat / 4

/-- Is a split's next instruction judged: the quarter runs, the split may issue, is not in the agent and holds no pass for it? A
match takes place in the cycle in which the instruction would issue (Order.lean, `poised`). -/
def State.judged (s : State) (key slot : Nat) : Option (Strand × Split) :=
  match s.strand? key with
  | none => none
  | some st =>
    let sp := st.split slot
    if s.mayIssue key slot && !sp.words.isEmpty && !(s.quarter (quarterOf key)).stopped && !st.inAgent slot && sp.pass != some sp.pc
    then some (st, sp) else none

/-- Is a match judged of its own accord now: the scheduler can choose the split, and nothing is known for which its instruction would
wait? -/
def State.poised (s : State) (key slot : Nat) : Bool :=
  s.eligible key slot &&
    match s.strand? key with
    | none => false
    | some st =>
      match decodeWords (st.split slot).words with
      | some (i, _) =>
        (match i.ext? with
          | some (_, _, x) => [x.d, x.a, x.b, x.c].all fun o => !st.busy o x.t.is64
          | none => true)
      | none => false

/-- The comparator that a split's next instruction matches. -/
def State.breakpoint (s : State) (key slot : Nat) : Option Nat :=
  (s.judged key slot).bind fun e => (s.quarter (quarterOf key)).matching (slotOf key) e.2.pc

/-! ## Watchpoints (R479) -/

/-- The global accesses of an instruction: reads, writes, bytes of each, and the lanes with their addresses. -/
structure Watched where
  reads : Bool
  writes : Bool
  bytes : Nat
  lanes : List LaneAddr
deriving DecidableEq, Repr

/-- The known values of operands; none where one waits. -/
def Ic.offs (c : Ic) (x : Opnds) (ops : List (Opnd × Bool)) : Option (List Off) :=
  if ops.any fun p => c.st.busy p.1 p.2 then none else knownAll (ops.map fun p => c.regs.read x.lit p.2 p.1)

/-- The lanes of an access at [A + B]. -/
def Ic.watchAB (c : Ic) (x : Opnds) (whole : Bool) (r w : Bool) (n : Nat) : Option Watched :=
  (c.offs x [(x.a, addrWide x.a), (x.b, addrWide x.b)]).map fun offs =>
    let act := if whole then c.sp.mask else c.act x
    let fresh := laneAddrs .global c.regs x.a x.b (offs.getD 0 (.u 0)) (offs.getD 1 (.u 0)) (if whole then [lowLane act] else lanesOf act)
    { reads := r, writes := w, bytes := n, lanes := c.memLanes whole fresh }

/-- The lanes of LDF and STF. -/
def Ic.watchFmt (c : Ic) (x : Opnds) (w : Bool) : Option Watched :=
  (c.offs x [(x.b, addrWide x.b)]).map fun offs =>
    { reads := !w, writes := w, bytes := 1
      lanes := c.memLanes false (laneAddrs .global c.regs x.a x.b (.u 0) (offs.getD 0 (.u 0)) (lanesOf (c.act x))) }

/-- The lanes of LDT, four elements each. -/
def Ic.watchTile (c : Ic) (x : Opnds) : Option Watched :=
  (c.offs x [(x.a, addrWide x.a), (x.b, addrWide x.b), (x.c, true)]).map fun offs =>
    let stride := (offs.getD 2 (.u 0)).at 0
    let base := ((laneAddrs .global c.regs x.a x.b (offs.getD 0 (.u 0)) (offs.getD 1 (.u 0)) [lowLane c.sp.mask]).map (·.2)).getD 0 0
    { reads := true, writes := false, bytes := 2
      lanes := (lanesOf (c.act x)).flatMap fun l => (List.range 4).map fun k =>
        (l, base + .ofNat 64 (4 * (l % 8) + k) * stride + .ofNat 64 (2 * (l / 8))) }

/-- The operands of a base load's or store's address: [tA + vB] (R143). -/
def baseAddr (a b : Nat) : Opnds :=
  { ty := some .b32, rnd := .dflt, sat := false, pred := none, cache := 0, g := false, late := false, ord := 0, scope := 0
    xs := 0, cls := 0, sel := 0, d := .zero, a := .t a, b := .v b, c := .zero, lit := none }

/-- The global accesses of a split's next instruction. -/
def Ic.watched (c : Ic) (i : Instr) : Option Watched :=
  let atomic (x : Opnds) : Option Watched :=
    if atmSpace x = .global then c.watchAB x false true true x.t.bytes else none
  match i with
  | .ld x => c.watchAB x (match x.d with | .s _ => true | _ => false) true false x.t.bytes
  | .st x => c.watchAB x false false true x.t.bytes
  | .ldt x => c.watchTile x
  | .ldf x => c.watchFmt x false
  | .stf x => c.watchFmt x true
  | .pref x => c.watchAB x false true false 1
  | .ldBase _ a b => c.watchAB (baseAddr a b) false true false 4
  | .stBase _ a b => c.watchAB (baseAddr a b) false false true 4
  | .aadd x | .aand x | .aor x | .axor x | .amin x | .amax x | .axch x | .acas x | .ainc x => atomic x
  | _ => none

/-- The lanes of an instruction that a watchpoint matches. -/
def watchLanes (wp : DWord) (w : Watched) : Mask :=
  let kind := bitsOf wp 62 61
  let len := 2 ^ (3 + bitsOf wp 60 57)
  let base := bitsOf wp 56 3 * 8 / len * len
  let hit : Bool := wp.getLsbD 63 && ((kind % 2 == 1 && w.reads) || (kind / 2 == 1 && w.writes))
  if hit then laneMask ((w.lanes.filter fun l => decide (l.2.toNat < base + len ∧ base < l.2.toNat + w.bytes)).map (·.1)) else 0

/-- A match of a split's next instruction: the stop's CAUSE, COMP, the reason of the agent's entry and the lanes (R478, R479). -/
structure Match where
  cause : Nat
  comp : Nat
  reason : Nat
  lanes : Mask
deriving DecidableEq, Repr

/-- The lowest watchpoint that a split's next instruction matches, with the lanes that do. -/
def State.watchpoint (s : State) (key slot : Nat) : Option (Nat × Mask) :=
  (s.judged key slot).bind fun e =>
    match decodeWords e.2.words with
    | none => none
    | some (i, _) =>
      match ({ key := key, slot := slot, st := e.1, sp := e.2 } : Ic).watched i with
      | none => none
      | some w =>
        (List.range 4).findSome? fun k =>
          let m := watchLanes (mapGet 0 (s.part e.1.part).dbgwp k) w
          if m = 0 then none else some (k, m)

/-- The match of a split's next instruction, a breakpoint's before a watchpoint's. -/
def State.matched (s : State) (key slot : Nat) : Option Match :=
  match s.breakpoint key slot with
  | some k => some ⟨2, k, 1, 0⟩
  | none => (s.watchpoint key slot).map fun e => ⟨3, e.1, 2, e.2⟩

end Sys2Proof.Machine
end

