-- ==== Sys2Proof/Machine/DebugEv.lean ====
section
/-! DEFINITION. Events of debug and trace (R475 to R490) and writes of registers with no event of their own (R7). An event
whose condition does not hold changes nothing. -/

namespace Sys2Proof.Machine

open Sys2Proof

/-- Stop a quarter at a match (R478, R479): the split holds a pass and is due to enter the agent. -/
def State.stopAt (s : State) (key slot cause comp reason : Nat) (lanes : Mask) : State :=
  match s.strand? key with
  | none => s
  | some st =>
    let q := quarterOf key
    let pc := (st.split slot).pc
    let s := s.onStrand key fun st => st.onSplit slot fun sp => { sp with pass := some pc }
    (s.stopQuarter q cause (some (slotOf key)) (some comp) pc).onQuarter q fun x =>
      { x with entering := x.entering ++ [{ strand := key, slot := slot, reason := reason, lanes := lanes, since := s.clock.toNat }] }

/-- BREAKPOINT_MATCH (R478): in the cycle in which the instruction would issue. -/
def execBreakpointMatch (strand split : Nat) (s : State) : Host.Outcome State Fault Refusal :=
  event s fun s =>
    match s.breakpoint strand split, s.poised strand split with
    | some k, true => s.stopAt strand split 2 k 1 0
    | _, _ => s

/-- WATCHPOINT_MATCH (R479): in the cycle in which the instruction would issue. -/
def execWatchpointMatch (strand split : Nat) (s : State) : Host.Outcome State Fault Refusal :=
  event s fun s =>
    match s.watchpoint strand split, s.poised strand split with
    | some (k, m), true => s.stopAt strand split 3 k 2 m
    | _, _ => s

/-- May a split enter the agent now: 12 cycles after the stop, one that ENTER named once it is Ready (R477, R481)? -/
def State.entersNow (s : State) (e : Entering) : Bool :=
  e.noted && decide (e.since + 12 ≤ s.clock.toNat) &&
    (e.reason != 4 || match s.strand? e.strand with
      | some st => (st.split e.slot).st == .ready || (st.split e.slot).st == .free
      | none => true)

/-- The first split of a stopped quarter that enters the agent now, after a step or for another reason. -/
def State.nextEntry (s : State) (q : Nat) (step : Bool) : Option Entering :=
  let x := s.quarter q
  if x.stopped then x.entering.find? fun e => (e.reason == 3) == step && s.entersNow e else none

/-- AGENT_ENTRY (R477, R481). -/
def execAgentEntry (quarter : Nat) (s : State) : Host.Outcome State Fault Refusal :=
  event s fun s => match s.nextEntry quarter false with | some e => s.enterAgent quarter e | none => s

/-- STEP_REENTRY (R482): 12 cycles after the stop that a step ends with. -/
def execStepReentry (quarter : Nat) (s : State) : Host.Outcome State Fault Refusal :=
  event s fun s => match s.nextEntry quarter true with | some e => s.enterAgent quarter e | none => s

/-- QSTOP_STOP (R476). -/
def execQstopStop (quarter : Nat) (s : State) : Host.Outcome State Fault Refusal :=
  event s fun s => s.writeReq quarter true 4 none
/-- QSTOP_RESUME (R476). -/
def execQstopResume (quarter : Nat) (s : State) : Host.Outcome State Fault Refusal :=
  event s fun s => s.writeReq quarter false 0 none
/-- DBG_STOP (R477). -/
def execDbgStop (part : Nat) (s : State) : Host.Outcome State Fault Refusal := event s fun s => s.dbgStop part
/-- DBG_DUMP (R477, R487). -/
def execDbgDump (part : Nat) (s : State) : Host.Outcome State Fault Refusal := event s fun s => s.dbgDump part
/-- DBG_ENTER (R477). -/
def execDbgEnter (part slot : Nat) (s : State) : Host.Outcome State Fault Refusal := event s fun s => s.dbgEnter part slot
/-- DBG_UNHALT (R477). -/
def execDbgUnhalt (part slot : Nat) (s : State) : Host.Outcome State Fault Refusal := event s fun s => s.dbgUnhalt part slot
/-- DBG_RESUME (R477). -/
def execDbgResume (part : Nat) (s : State) : Host.Outcome State Fault Refusal := event s fun s => s.dbgResume part
/-- DBGREPLY_WRITE (R485). -/
def execDbgreplyWrite (part : Nat) (v : DWord) (s : State) : Host.Outcome State Fault Refusal :=
  event s fun s => s.dbgReply part v

/-- Apply a register write that a dump held (R488). -/
def State.applyHeld (s : State) (h : HeldWrite) : State :=
  match (s.strand? h.strand).bind fun st => (st.op? h.op).map fun o => (st, o) with
  | none => s
  | some (st, o) =>
    match h.resolution, o.sym with
    | true, some n => s.lateRead h.strand st o fun s => s.resolveSym h.strand h.op n
    | _, _ => s.landLoad h.strand h.op

/-- DUMP_COMPLETE (R487, R488): the held writes are applied in their arrival order. -/
def execDumpComplete (quarter : Nat) (s : State) : Host.Outcome State Fault Refusal :=
  event s fun s =>
    let q := s.quarter quarter
    if q.dumping = false then s
    else q.held.foldl (fun s h => s.applyHeld h) (s.onQuarter quarter fun x => { x with dumping := false, held := [] })

/-- TRACE_SAMPLE (R490): at a multiple of the period, of the strand that issued in the last cycle or else the oldest. -/
def execTraceSample (quarter : Nat) (s : State) : Host.Outcome State Fault Refusal :=
  event s fun s =>
    match s.partOfCore (quarter / 4) with
    | none => s
    | some part =>
      if s.clock.toNat % 2 ^ (10 + bitsOf (s.part part).trctl 15 11) ≠ 0 then s
      else
        let last := (s.quarter quarter).last
        let issued := match s.strand? last with
          | some st => decide (quarterOf last = quarter) && decide (s.clock.toNat ≤ st.lastIssue + 1)
          | none => false
        let body := match (if issued then some last else s.oldest quarter) with
          | some key =>
            (match s.strand? key with
              | some st =>
                let n := ((s.residents quarter).filter fun e => s.strandEligible e.1).length
                (st.split st.last).pc.toNat + 2 ^ 64 * slotOf key + 2 ^ 72 * n + 2 ^ 80 * s.strandReason key
              | none => 0)
          | none => 0
        s.traceRec part 1 (locOf quarter) body

/-- MMIO_REGISTER_WRITE (R7): a write of a register of a partition's doorbell page. -/
def execMmioRegisterWrite (part off : Nat) (v : DWord) (s : State) : Host.Outcome State Fault Refusal :=
  event s fun s => if off % 8 = 0 ∧ off < 65536 then s.bellSet part off v else s

end Sys2Proof.Machine
end

