-- ==== Sys2Proof/Machine/Sys.lean ====
section
/-! DEFINITION. SYS (R165 to R175): control registers, MODE, time, traps and their return, the mailbox, TLB invalidation,
identity, and the save and load of a strand's context and stack. -/

namespace Sys2Proof.Machine

open Sys2Proof

/-! ## Control registers (R166) -/

/-- May the split read a control register (R166, R337, R397)? -/
def Ic.mayReadCsr (c : Ic) (n : Nat) : Bool :=
  if n = 0x000 ∨ n = 0x001 ∨ (0x100 ≤ n ∧ n < 0x120) then true
  else c.sp.privileged && (match csrPart n with | some p => p == c.st.part | none => true)

/-- May the split write a control register (R166, R337, R397)? -/
def Ic.mayWriteCsr (c : Ic) (n : Nat) : Bool :=
  c.sp.privileged && !csrFirmware n && (match csrPart n with | some p => p == c.st.part | none => true)

/-- A control register as it reads (R166). -/
def State.csr (s : State) (c : Ic) (n : Nat) : DWord :=
  let x := c.st.ctx
  let q := quarterOf c.key
  match n with
  | 0x000 => x.mode
  | 0x001 => x.gang
  | 0x002 => x.tcause
  | 0x003 => x.tpc
  | 0x004 => x.tinfo
  | 0x005 => x.tvec
  | 0x006 => x.spillp
  | 0x007 => c.st.savep
  | 0x008 => x.dbgmb
  | _ =>
    if n < 0x100 then .ofNat 64 (x.tmask.toNat / 2 ^ (64 * (n - 0x010)))
    else if n < 0x110 then s.qhist q (n - 0x100)
    else if n < 0x120 then s.qstall q (n - 0x110)
    else if n = 0x120 then (s.quarter q).qstop
    else s.mgmtRead n

/-- Replace 64 lanes of a mask. -/
def putMaskPart (m : Mask) (j : Nat) (v : DWord) : Mask :=
  maskOf fun l => if l / 64 = j then v.getLsbD (l % 64) else laneIn m l

/-- A CSRW (R168): reserved bits keep reading zero (R8). GANG starts its sequence numbers anew and names the strand by
the place it has now (R42, R43). -/
def State.csrWrite (s : State) (c : Ic) (n : Nat) (a : DWord) : State :=
  let v := a &&& csrMask n
  let on (f : Strand → Strand) : State := s.onStrand c.key f
  let ctx (f : Ctx → Ctx) : State := on fun st => st.onCtx f
  let q := quarterOf c.key
  match n with
  | 0x000 => ctx fun x => { x with mode := v }
  | 0x001 => on fun st => { st with ctx := { st.ctx with gang := v }, gangSeq := 0, name := c.key }
  | 0x002 => ctx fun x => { x with tcause := v }
  | 0x003 => ctx fun x => { x with tpc := v }
  | 0x004 => ctx fun x => { x with tinfo := v }
  | 0x005 => ctx fun x => { x with tvec := v }
  | 0x006 => ctx fun x => { x with spillp := v }
  | 0x007 => on fun st => { st with savep := v }
  | 0x008 => ctx fun x => { x with dbgmb := v }
  | _ =>
    if n < 0x100 then ctx fun x => { x with tmask := putMaskPart x.tmask (n - 0x010) v }
    else if n < 0x110 then s.setCount q (n - 0x100) false v
    else if n < 0x120 then s.setCount q (n - 0x110) true v
    else if n = 0x120 then s.writeReq q (v.getLsbD 2) 4 (some (c.key, c.slot))
    else if n = 0x402 then s.attreq c.st.part v
    else s.partCsrWrite (c.st.part) n v

/-- The symbols under which a recorded float step still has flags to raise (R70, R102). -/
def Strand.flagSyms (st : Strand) : List Nat :=
  let of (f : Form) : List Nat := if f.steps.isEmpty then [] else [f.sym]
  let r := st.ctx.regs
  (r.v.flatMap fun e => match e.2.shape with | .p _ f => of f | _ => [])
    ++ r.s.flatMap fun e => match e.2 with | .pend f => of f | .val _ => []

/-- Does an operation in flight raise flags when it performs: LDF and STF (R70, R216, R217)? -/
def Op.raises (o : Op) : Bool := !o.done && match o.body with | .loadF .. | .storeF .. => true | _ => false

/-- Wait until the strand's arithmetic has raised its flags, that of LDF and STF in flight too (R70, R168). -/
def Ic.flagsIn (c : Ic) (s : State) (k : Act) : Act :=
  if !c.st.flagSyms.isEmpty then .waitSym s c.st.flagSyms
  else if c.st.ops.any Op.raises then .wait s .scoreboard
  else k

/-- CSRR (R166, R168). -/
def execCsrr (x : Opnds) (s : State) : Host.Outcome State Fault Refusal :=
  issueX s x fun c =>
    let n := x.c.rawNum
    if !c.mayReadCsr n then c.trapWhole 0x02 0
    else
      let k := c.toS s x.d.snum (s.csr c n)
      if n = 0x000 then c.flagsIn s k else k

/-- CSRW (R166, R168). -/
def execCsrw (x : Opnds) (s : State) : Host.Outcome State Fault Refusal :=
  issueX s x fun c =>
    let n := x.c.rawNum
    if !c.mayWriteCsr n then c.trapWhole 0x02 0
    else c.known s x [(x.a, true)] fun offs => .done (s.csrWrite c n ((offs.getD 0 (.u 0)).at 0))

/-- MODE with one field replaced (R169). -/
def modeField (m : DWord) (sel : Nat) (a : DWord) : DWord :=
  let put (hi lo : Nat) : DWord := (m &&& ~~~bitMask hi lo) ||| ((a <<< lo) &&& bitMask hi lo)
  match sel with
  | 0 => put 2 0
  | 1 => put 3 3
  | 2 => put 4 4
  | 3 => put 11 5
  | 4 => put 31 16 &&& csrMask 0
  | _ => a &&& csrMask 0

/-- MODE (R169). -/
def execMode (x : Opnds) (s : State) : Host.Outcome State Fault Refusal :=
  issueX s x fun c => c.known s x [(x.a, true)] fun offs =>
    let m := c.st.ctx.mode
    let s' := s.onStrand c.key fun st => st.onCtx fun y => { y with mode := modeField m x.sel ((offs.getD 0 (.u 0)).at 0) }
    match x.d with
    | .s n => c.flagsIn s (if c.st.busy x.d false then .wait s .scoreboard else .done (s'.putRegs c (c.regs.setS n m)))
    | _ => .done s'

/-! ## Time, counters, identity -/

/-- NOP (R167). -/
def execNop (x : Opnds) (s : State) : Host.Outcome State Fault Refusal := issueX s x fun _ => .done s

/-- CLOCK (R170). -/
def execClock (x : Opnds) (s : State) : Host.Outcome State Fault Refusal := issueX s x fun c => c.toS s x.d.snum s.clock

/-- SLEEP (R170). -/
def execSleep (x : Opnds) (s : State) : Host.Outcome State Fault Refusal :=
  issueX s x fun c => c.known s x [(x.a, true)] fun offs =>
    let n := min ((offs.getD 0 (.u 0)).at 0).toNat (2 ^ 20)
    .done (s.onStrand c.key fun st => st.onSplit c.slot fun sp => { sp with wake := s.clock.toNat + n })

/-- YIELD (R170): the strand becomes the last candidate of its quarter's next choice. -/
def execYield (x : Opnds) (s : State) : Host.Outcome State Fault Refusal :=
  match s.issuer with
  | none => .fault .noIssuer
  | some c => .next ((s.conclude c x.len (.done s)).onQuarter (quarterOf c.key) fun q => { q with yielder := some c.key })

/-- PERFR (R170, R397, R494). -/
def execPerfr (x : Opnds) (s : State) : Host.Outcome State Fault Refusal :=
  issueX s x fun c => c.known s x [(x.a, true)] fun offs =>
    match perfNum ((offs.getD 0 (.u 0)).at 0) with
    | none => c.toS s x.d.snum 0
    | some (i, cls, inst) =>
      let own := quarterOf c.key
      if cls ≠ 0 ∧ ¬ (cls = 1 ∧ inst = own) ∧ c.sp.privileged = false then c.trapWhole 0x02 0
      else if perfFree i cls then
        let (v, s') := s.draw
        (match c.toS s x.d.snum v with | .done _ => c.toS s' x.d.snum v | a => a)
      else c.toS s x.d.snum (s.perf own i cls inst)

/-- The index x, y, z of a workgroup: a pipeline stage counts in x alone, modulo 2^32 (R41, R297). -/
def Wg.index (w : Wg) : Nat × Nat × Nat :=
  if w.kernel.stage.isSome then (w.lin % 2 ^ 32, 0, 0)
  else (w.lin % w.grid.1, w.lin / w.grid.1 % w.grid.2.1, w.lin / (w.grid.1 * w.grid.2.1))

/-- A value of IDQ (R174, R41). -/
def State.idq (s : State) (c : Ic) (sel : Nat) : DWord :=
  let (grid, idx, lin, home, stage, nstr) := match s.wg? c.st.wg with
    | some w => (w.grid, w.index, w.lin, w.home, w.kernel.stage.getD 0, w.kernel.strands)
    | none => ((1, 1, 1), (0, 0, 0), 0, coreOf c.key, 0, 1)
  .ofNat 64 (match sel with
    | 0 => grid.1 | 1 => grid.2.1 | 2 => grid.2.2 | 3 => idx.1 | 4 => idx.2.1 | 5 => idx.2.2
    | 6 => nstr | 7 => c.st.idx | 8 => coreOf c.key | 9 => quarterOf c.key % 4 | 10 => slotOf c.key
    | 11 => clusterOf (coreOf c.key) | 12 => home | 13 => stage | 14 => c.st.part | 15 => s.boot.devid.toNat
    | _ => lin)

/-- IDQ (R174): a vector destination takes shape U where the split holds every lane. -/
def execIdq (x : Opnds) (s : State) : Host.Outcome State Fault Refusal :=
  issueX s x fun c =>
    match x.d with
    | .v n => c.vec s x n false [] { f := fun _ _ => (s.idq c x.sel, 0) }
    | d => c.toS s d.snum (s.idq c x.sel)

/-! ## Traps and their return -/

/-- TRAP (R171, R408). -/
def execTrap (x : Opnds) (s : State) : Host.Outcome State Fault Refusal :=
  issueX s x fun c => c.known s x [(x.a, true)] fun offs =>
    .trap { cls := 0x02, sub := 0x0A, code := ((offs.getD 0 (.u 0)).at 0).toNat % 2 ^ 16, lanes := c.sp.mask, restart := false
            async := false, oprec := 0 }

/-- A split of a loaded context (R443): the trapped one goes on at TPC; one that waits as the live split of its slot does
keeps what it waits for, and one that waits for what the image does not name goes on. -/
def loadSplit (tpc : DWord) (live : Split) (p : Split) : Split :=
  if p.st == .trapped then { p with st := .ready, pc := .ofNat 57 tpc.toNat }
  else if p.st == live.st then { live with pc := p.pc, mask := p.mask, words := if p.pc = live.pc then live.words else [] }
  else if p.st == .parked || p.st == .barrier then { p with st := .ready }
  else p

/-- The strand with a loaded context in force, whose lanes are `live` (R443): counters, gang sequence number and batch state
stay live. -/
def Strand.install (st : Strand) (key : Nat) (x : Ctx) (live : Mask) : Strand :=
  let sps := (x.splits.zipIdx).map fun e => loadSplit x.tpc (st.split e.2) e.1
  { st with ctx := { x with splits := sps }, exited := ~~~live, name := if x.gang = st.ctx.gang then st.name else key, hold := none
            atEntry := none, loaded := none }

/-- TRET with a loaded context (R443): its symbol records are issued again once the quarter has symbols for them. -/
def Ic.tretLoaded (c : Ic) (s : State) (x : Ctx) (syms : List Sym) : Act :=
  let free := s.freeSyms (quarterOf c.key)
  if free.length < syms.length then .wait s .pendant
  else
    let g (n : Nat) : Nat := free.getD n 0
    let x := { x with regs := x.regs.renum g }
    let x := { x with regs := (s.recohere c.st.part x.regs).forms }
    c.deviceReadsAll s x.spillAddrs 128 fun s =>
    let s := s.onStrand c.key fun st => st.install c.key x (x.lanes (s.spilled c.st.part x))
    .stay (s.issueSyms c.key x (syms.map fun y => { y with num := g y.num, lead := y.lead.map g }))

/-- TRET (R171, R372, R443); in the debug agent that of R482, with the DBGMB and the splits of a loaded context in force (R443). -/
def execTret (x : Opnds) (s : State) : Host.Outcome State Fault Refusal :=
  issueX s x fun c => c.privileged <|
    if c.st.ctx.dbgReason ≠ 0 then
      match c.st.loaded with
      | none => .stay (s.agentTret c.key c.slot)
      | some (y, syms) =>
        match c.tretLoaded s y syms with
        | .stay t => .stay (if y.dbgReason = 0 then t.agentOver c.key c.slot (y.dbgmb.getLsbD 59) else t.agentTret c.key c.slot)
        | a => a
    else
      match c.st.loaded with
      | none => .stay (s.onStrand c.key fun st => st.tret c.slot)
      | some (y, syms) => c.tretLoaded s y syms

/-- HALT (R172). -/
def execHalt (x : Opnds) (s : State) : Host.Outcome State Fault Refusal :=
  issueX s x fun c => c.privileged (.done (s.onStrand c.key fun st => { st with halted := true }))

/-- An issued word whose encoding is reserved raises TRAP 0x01 with the CODE of the first field at fault (R394, R395). -/
def execReservedEncoding (code words : Nat) (s : State) : Host.Outcome State Fault Refusal :=
  issue s words fun c => c.trapWhole 0x01 code

/-! ## Mailbox (R172, R485) -/

/-- The partition has a mailbox (R403). -/
def Ic.mailbox (c : Ic) (s : State) (k : Act) : Act := if (s.part c.st.part).vbase 14 = 0 then c.trapWhole 0x06 0 else k

/-- Write a word to the partition's debug-mailbox doorbell, which sends the interrupt message of cause 1 (R172, R341). -/
def State.mboxPost (s : State) (part : Nat) (a : DWord) : State :=
  (s.onPart part fun p => { p with mbox := a }).interrupt part 1

/-- MBOX.post. -/
def execMboxPost (x : Opnds) (s : State) : Host.Outcome State Fault Refusal :=
  issueX s x fun c => c.privileged <| c.known s x [(x.a, true)] fun offs => c.mailbox s <|
    if c.st.busy x.d false then .wait s .scoreboard
    else .done ((s.mboxPost c.st.part ((offs.getD 0 (.u 0)).at 0)).putRegs c (c.regs.setS x.d.snum 0))

/-- MBOX.wait: it posts once, then waits for a reply word. -/
def execMboxWait (x : Opnds) (s : State) : Host.Outcome State Fault Refusal :=
  issueX s x fun c => c.privileged <| c.known s x [(x.a, true)] fun offs => c.mailbox s <|
    if c.st.busy x.d false then .wait s .scoreboard
    else
      let s := if c.sp.posted then s
        else (s.mboxPost c.st.part ((offs.getD 0 (.u 0)).at 0)).onStrand c.key fun st => st.onSplit c.slot fun sp => { sp with posted := true }
      match c.st.reply with
      | some w =>
        .done ((s.onStrand c.key fun st => { st with reply := none }).putRegs c (c.regs.setS x.d.snum (w.setWidth 64)))
      | none => .wait s .syncWord

/-! ## TLB invalidation (R173) -/

/-- Drop the partition's TLB entries, the walks that failed before and the direct paths that map a byte of [lo, hi) in every
core. -/
def State.tlbInv (s : State) (part lo hi : Nat) : State :=
  let keep (t : TlbEnt) : Bool := t.part != part || decide (hi ≤ t.va ∨ t.va + pageBytes t.size ≤ lo)
  let still (f : WalkFail) : Bool := f.req.part != part || decide (hi ≤ f.req.va.toNat ∨ f.req.va.toNat + 65536 ≤ lo)
  ({ s with cores := s.cores.map fun (e : Nat × CoreSt) =>
      (e.1, { e.2 with tlb := e.2.tlb.filter keep, fails := e.2.fails.filter still }) }).clearDirect part lo hi

/-- TLBINV. -/
def execTlbinv (x : Opnds) (s : State) : Host.Outcome State Fault Refusal :=
  issueX s x fun c => c.privileged <| c.known s x [(x.a, true), (x.b, true)] fun offs =>
    let a := ((offs.getD 0 (.u 0)).at 0).toNat
    let b := ((offs.getD 1 (.u 0)).at 0).toNat
    .done (if b = 0 then s else s.tlbInv c.st.part a (a + b))

/-- TLBINV.all. -/
def execTlbinvAll (x : Opnds) (s : State) : Host.Outcome State Fault Refusal :=
  issueX s x fun c => c.privileged (.done (s.tlbInv c.st.part 0 (2 ^ 57)))

/-! ## Context and stack images (R175, R442, R443) -/

/-- Reach every address of a list through the core's translation; a failure parks the whole split (R412). Its redo holds the
addresses `all`. -/
def Ic.reachOf (c : Ic) (s : State) (acc : Access) (all : List Nat) (l : List Nat) (k : State → Act) : Act :=
  match l with
  | [] => k s
  | a :: t =>
    let v : DWord := .ofNat 64 (a % 2 ^ 57)
    match c.trLane s .global (.s 0) acc v with
    | .ok _ => c.reachOf s acc all t k
    | .miss w => .wait (s.askWalks (coreOf c.key) [w]) .copy
    | .fail e =>
      let redo : Redo := { lanes := c.sp.mask, addrs := all.map fun x => .ofNat 64 x, data := [], data2 := [] }
      .stay (s.parkFail c c.sp.mask redo [s.strandRec c.key c.st 0x01 e.sub c.sp.pc v c.sp.mask])

/-- Reach every address of a list. -/
def Ic.reach (c : Ic) (s : State) (acc : Access) (l : List Nat) (k : State → Act) : Act := c.reachOf s acc l l k

/-- Reach the addresses of an image or, on a re-issue, those of its first issue (R375), and go on with them. -/
def Ic.reachImage (c : Ic) (s : State) (acc : Access) (l : List Nat) (k : State → List Nat → Act) : Act :=
  let all := match c.sp.redo with | some r => r.addrs.map fun v => v.toNat | none => l
  c.reachOf s acc all all fun s => k s all

/-- The first address of an image and those of its further pages. -/
def imagePages (a n : Nat) : List Nat := (List.range (n / 65536 + 2)).filterMap fun i =>
  let p := if i = 0 then a else (a / 65536 + i) * 65536
  if p < a + n then some p else none

/-- The save area of the strand (R89, R403). -/
def Ic.saveArea (c : Ic) (k : Nat → Act) : Act := if c.st.savep = 0 then c.trapWhole 0x06 0 else k c.st.savep.toNat

/-- The context at handler entry, with TMASK as the handler has left it (R372, R442): it waits until the strand's loads and stores that are not .late have retired. -/
def execEsaveCtx (x : Opnds) (s : State) : Host.Outcome State Fault Refusal :=
  issueX s x fun c => c.privileged <|
    c.waitOps s [] (c.st.ops.filter fun o => o.sym.isNone && (o.cls == .ld || o.cls == .st)) .counterWait <|
    c.saveArea fun a =>
      let n := ctxBytes c.st.logG
      c.reachImage s .write (imagePages a n) fun s l =>
        let a := l.headD a
        match c.st.atEntry with
        | none => .done s
        | some e =>
          let syms := c.st.syms.filter fun y => decide (y.op < e.opNext)
          let kernel := match s.wg? c.st.wg with | some w => w.kernel.addr.toNat | none => 0
          .done (s.vimage c.st.part a n (ctxFields c.key c.st.logG kernel { e.ctx with tmask := c.st.ctx.tmask } syms e.counts e.gangSeq e.batch e.closed))

/-- ELOAD.ctx (R443): it waits until no symbol is unresolved; the context takes effect at TRET. -/
def execEloadCtx (x : Opnds) (s : State) : Host.Outcome State Fault Refusal :=
  issueX s x fun c => c.privileged <|
    if !c.st.syms.isEmpty then .waitSym s (c.st.syms.map fun y => y.num)
    else c.saveArea fun a =>
      c.reachImage s .read (imagePages a (ctxBytes c.st.logG)) fun s l =>
        let a := l.headD a
        c.deviceReads s a (ctxBytes c.st.logG) fun s =>
        let rd (o n : Nat) : Nat := s.vread c.st.part (a + o) n
        if rd 2 1 ≠ c.st.logG then c.trapWhole 0x06 0
        else .done (s.onStrand c.key fun st => { st with loaded := some (readCtx rd) })

/-- ESAVE.stack (R175, R34, R400): the oldest entries go to memory. -/
def execEsaveStack (x : Opnds) (s : State) : Host.Outcome State Fault Refusal :=
  issueX s x fun c => c.privileged <| c.known s x [(x.a, true)] fun offs =>
    let a := ((offs.getD 0 (.u 0)).at 0).toNat
    let y := c.st.ctx
    if a < 1 ∨ y.stack.length < a then c.trapWhole 0x06 2
    else
      let at_ (i : Nat) : Nat := spillAddr y (spillCount y + i)
      c.reachImage s .write ((List.range a).map at_) fun s l =>
        let s := ((y.stack.take a).zipIdx).foldl (fun s e => s.vimage c.st.part (l.getD e.2 0) 128 e.1.fields) s
        .done (s.onStrand c.key fun st => st.onCtx fun z => { z with stack := z.stack.drop a })

/-- ELOAD.stack (R175, R34, R400): the youngest images come back beneath the stack. -/
def execEloadStack (x : Opnds) (s : State) : Host.Outcome State Fault Refusal :=
  issueX s x fun c => c.privileged <| c.known s x [(x.a, true)] fun offs =>
    let a := ((offs.getD 0 (.u 0)).at 0).toNat
    let y := c.st.ctx
    let n := spillCount y
    if n < a ∨ 16 < y.stack.length + a then c.trapWhole 0x06 2
    else
      let at_ (i : Nat) : Nat := spillAddr y (n - a + i)
      c.reachImage s .read ((List.range a).map at_) fun s l => c.deviceReadsAll s l 128 fun s =>
        let rd (i : Nat) (o k : Nat) : Nat := s.vread c.st.part (l.getD i 0 + o) k
        let es := (List.range a).map fun i => readEntry (rd i) 0
        .done (s.onStrand c.key fun st => st.onCtx fun z => { z with stack := es ++ z.stack })

end Sys2Proof.Machine
end

