-- ==== Sys2Proof/Machine/Eng.lean ====
section
/-! DEFINITION. What the matrix, copy and swap engines do when an operation performs: operands and their faults (R255 to
R257, R376, R413), leaves and bands (R85, R262, R271), the close of a run (R264), tile loads and stores (R261, R265),
contributions of a tile (R266), sectors of a copy (R379) and of an exchange (R127, R416, R417). -/

namespace Sys2Proof.Machine

open Sys2Proof

/-! ## When an operation may perform -/

/-- The pieces of n bytes at an address that lie in one page each. -/
def pagePieces (a n : Nat) : List (Nat × Nat) :=
  (List.range ((a % 65536 + n + 65535) / 65536)).map fun i =>
    let lo := max a ((a / 65536 + i) * 65536)
    (lo, min (a + n) ((a / 65536 + i + 1) * 65536) - lo)

/-- The bytes of a frame that hold n elements from one on, with their scales (R115, R116). -/
def codeRanges (p : Place) (frame fmt geom off n : Nat) : List ByteRange :=
  let of (f : Nat → Nat) (w : Nat) : ByteRange := (p, frame + f off, f (off + n - 1) + w - f off, false)
  [of (fun i => if fmt = 1 then i / 2 else i) 1, of (scaleAt fmt) 1] ++ if fmt = 1 then [of (bandAt geom) 2] else []

/-- Where n bytes of a space lie, as far as they translate now. -/
def State.engBytes (s : State) (key : Nat) (st : Strand) (sp : Space) (acc : Access) (a n : Nat) : List ByteRange :=
  (pagePieces a n).filterMap fun p =>
    match (s.engTr (coreOf key) st.part st.wg sp acc (.ofNat 64 p.1)).1 with
    | .ok t => some (t.place, t.pa, p.2, acc == .write)
    | _ => none

/-- FMT of the pages that hold a narrow format (R115). -/
def fmtPage (t : Ty) : Nat := match t with | .e2m1 => 1 | .e4m3 => 2 | _ => 3

/-- Where n stored elements of an operand lie from its k-th on, with their scales (R255). -/
def State.engElems (s : State) (key : Nat) (st : Strand) (x : MatRef) (k n : Nat) : List ByteRange :=
  let tr (sp : Space) (a : Nat) := (s.engTr (coreOf key) st.part st.wg sp .read (.ofNat 64 a)).1
  if narrowFmt x.fmt then
    match x.space with
    | .global =>
      (pagePieces (x.addr.toNat + k) n).flatMap fun p =>
        match tr .global p.1 with | .ok t => codeRanges t.place t.frame t.fmt t.geom t.off p.2 | _ => []
    | sp =>
      let hi := match sp with | .vault => x.addr.toNat / 2 ^ 22 * 2 ^ 22 | _ => 0
      (pagePieces (x.addr.toNat - hi + k) n).flatMap fun p =>
        match tr sp (hi + p.1 / 65536 * imageBytes x.fmt) with
        | .ok t => codeRanges t.place t.pa (fmtPage x.fmt) 0 (p.1 % 65536) p.2
        | _ => []
  else s.engBytes key st x.space .read (x.addr.toNat + k * x.fmt.bytes) (n * x.fmt.bytes)

/-- The stored elements of the first rows and columns of an operand, as runs: the first element's place and how many (R255, R257). -/
def MatRef.runs (x : MatRef) (rows cols : Nat) : List (Nat × Nat) :=
  let (r, c) := if x.trans then (cols, rows) else (rows, cols)
  (List.range r).filterMap fun i =>
    match x.viaRec with
    | none => some (i * x.stride, c)
    | some (rs, cs, ro, co) => if i + ro < rs ∧ co < cs then some ((i + ro) * x.stride + co, min c (cs - co)) else none

/-- Destination and source of row i. -/
def CopyOp.row (c : CopyOp) (i : Nat) : Nat × Nat :=
  (((c.dst.toNat : Int) + (i : Int) * c.dstStride).toNat, ((c.src.toNat : Int) + (i : Int) * c.srcStride).toNat)

/-- The bytes that an operation reads and writes: an engine's by the addresses that it names, as they translate now. -/
def State.opRanges (s : State) (key : Nat) (st : Strand) (o : Op) : List ByteRange :=
  match o.body with
  | .mx (.mma a b m n k _) _ _ =>
    (a.runs m k).flatMap (fun e => s.engElems key st a e.1 e.2)
      ++ if b == MatRef.unused then [] else (b.runs k n).flatMap fun e => s.engElems key st b e.1 e.2
  | .mx (.load ty x rows cols) _ _ =>
    (x.runs rows cols).flatMap fun e => s.engBytes key st x.space .read (x.addr.toNat + e.1 * ty.bytes) (e.2 * ty.bytes)
  | .mx (.store ty x rows cols ..) _ _ =>
    (x.runs rows cols).flatMap fun e => s.engBytes key st x.space .write (x.addr.toNat + e.1 * ty.bytes) (e.2 * ty.bytes)
  | .copy c =>
    (List.range c.rows).flatMap fun i =>
      s.engBytes key st c.srcSpace .read (c.row i).2 c.rowBytes
        ++ if c.multi then [] else s.engBytes key st c.dstSpace .write (c.row i).1 c.rowBytes
  | b => b.ranges

/-- Do two lists of ranges share a byte? -/
def bytesMeet (a b : List ByteRange) : Bool :=
  a.any fun x => b.any fun y => x.1 == y.1 && decide (x.2.1 < y.2.1 + y.2.2.1 ∧ y.2.1 < x.2.1 + x.2.2.1)

/-- An engine's operation that may perform now: it reads a location after the older stores of its strand there have performed, its
reads being relaxed loads (R130, R268). -/
def State.engReady? (s : State) (key op : Nat) : Option (Strand × Op) :=
  match s.ready? key op with
  | none => none
  | some (st, o) =>
    let older := (st.ops.takeWhile fun p => p.id != o.id).filter fun p => !p.done && p.stores && p.precedes o
    if older.isEmpty || !(bytesMeet (older.flatMap fun p => (s.opRanges key st p).map farRange) ((s.opRanges key st o).map farRange))
    then some (st, o) else none

/-- The MXMMA of an operation: operands, M, N, K and .fin. -/
def Op.mma? (o : Op) : Option (MatRef × MatRef × Nat × Nat × Nat × Bool) :=
  match o.body with | .mx (.mma a b m n k fin) _ _ => some (a, b, m, n, k, fin) | _ => none

/-- A matrix operation whose tile is ready for it (R268). -/
def State.mxReady? (s : State) (key op : Nat) : Option (Strand × Op × Nat) :=
  match s.engReady? key op with
  | none => none
  | some (st, o) =>
    match o.tile with
    | none => none
    | some h => if st.tileReady o h && !(o.joint == some 0) then some (st, o, h) else none

/-- Has an engine's operation started, so that later ones may (R270)? One that is suspended has (R376); one whose tile waits for an
operation that its engine has not accepted before it is passed over (assumption 111). -/
def State.engStarted (s : State) (before : List (Nat × Nat)) (e : Nat × Nat) : Bool :=
  match (s.strand? e.1).bind fun st => (st.op? e.2).map fun o => (st, o) with
  | none => true
  | some (st, o) =>
    o.done || o.started || o.susp.isSome || decide (0 < o.rows) || s.wgAway st.wg ||
      o.tile.any fun h => (st.ops.takeWhile fun p => p.id != o.id).any fun p =>
        !p.done && p.tile == some h && !before.contains (e.1, p.id)

/-- Does an engine run an MXMMA that it has begun and not ended? -/
def State.engBegun (s : State) (e : Nat × Nat) : Bool :=
  ((s.strand? e.1).bind fun st => st.op? e.2).any fun o =>
    o.susp.isNone && o.mma?.any fun x => decide (0 < o.rows ∧ o.rows < x.2.2.1)

/-- Does the engine of a core keep an operation of its queue from running now: one accepted before it has not started, or another
MXMMA has begun (R270)? -/
def State.engineBusy (s : State) (key op : Nat) : Bool :=
  let q := (s.core (coreOf key)).engine
  let before := q.takeWhile fun e => e != (key, op)
  let ahead := (before.zipIdx).any fun e => !s.engStarted (before.take e.2) e.1
  if s.engBegun (key, op) then before.any s.engBegun
  else ahead || (((s.strand? key).bind fun st => st.op? op).any fun o => o.mma?.isSome) && q.any fun e => e != (key, op) && s.engBegun e

/-! ## Suspension (R376, R413) -/

/-- Suspend an operation under the group of one record (R376): class, subclass and address. -/
def State.suspendOp (s : State) (key : Nat) (st : Strand) (o : Op) (sub addr : Nat) : State :=
  (s.onStrand key fun st => st.onOp o.id fun o => { o with susp := some (0x03, sub), group := none }).postGroup st.part
    { recs := [s.opRec key st o 0x03 sub (.ofNat 64 addr) 0], split := none, op := some (key, o.id) }

/-- Suspend an operation under a fault that goes to the policy first (R377, R383, R384). -/
def State.routeOp (s : State) (key : Nat) (st : Strand) (o : Op) (cls sub outcome addr : Nat) : State :=
  (s.onStrand key fun st => st.onOp o.id fun o => { o with susp := some (cls, sub), group := none }).route
    { part := st.part, wg := some st.wg, split := none, op := some (key, o.id), core := coreOf key
      fault := { s.opRec key st o cls sub (.ofNat 64 addr) 0 with outcome := outcome } }

/-! ## Checks of the units (R383, R419) -/

/-- Take a pending error of a unit, if there is one. -/
def State.takeCheck (s : State) (f : Check → Bool) : Option (Check × State) :=
  match s.checks.find? f with
  | some c => some (c, { s with checks := s.checks.erase c })
  | none => none

/-- An engine finds an error of its own (R383): a retry that succeeds leaves a record and the operation goes on; one that
fails suspends the operation and quarantines the core. The flag says whether the operation goes on. -/
def State.engCheck (s : State) (key : Nat) (st : Strand) (o : Op) (sub : Nat) : State × Bool :=
  match s.takeCheck fun c => c.cls == 0x06 && c.sub == sub && c.unit == coreOf key with
  | none => (s, true)
  | some (c, s) =>
    if c.retryOk then (s.postRec st.part { s.opRec key st o 0x06 sub 0 0 with outcome := 1 }, true)
    else ((s.routeOp key st o 0x06 sub 3 0).quarantine (coreOf key), false)

/-- An element of a tile is found upset (R384, R419, R420): corrected on a second read, or lost; a lost element holds the
pattern and is no longer ABSENT, and a lasting fault quarantines the core. -/
def State.accCheck (s : State) (key : Nat) (st : Strand) (o : Op) (h : Nat) : State × Bool :=
  match s.takeCheck fun c => c.cls == 0x05 && c.sub == 0x03 && c.unit == key && decide (c.addr / 65536 = h) with
  | none => (s, true)
  | some (c, s) =>
    if c.retryOk then (s.postRec st.part { s.opRec key st o 0x05 0x03 0 0 with outcome := 1 }, true)
    else
      let s := s.onStrand key fun st => st.onTile h fun t =>
        { t with vals := mapPut (some 0) t.vals (c.addr % 65536) (some 0xAAAAAAAA) }
      if c.sound then (s.routeOp key st o 0x05 0x03 2 0, false)
      else ((s.routeOp key st o 0x05 0x03 3 0).quarantine (coreOf key), false)

/-! ## Reading and writing for an engine -/

/-- An engine at work for a strand: the lowest address so far that did not translate, and a word lost (its DATA subclass,
outcome and address). -/
structure Eng where
  s : State
  core : Nat
  part : Nat
  wg : Nat
  bad : Option Nat
  lost : Option (Nat × Nat × Nat)
deriving DecidableEq, Repr

/-- An engine starting work for a strand. -/
def Eng.start (s : State) (key : Nat) (st : Strand) : Eng :=
  { s := s, core := coreOf key, part := st.part, wg := st.wg, bad := none, lost := none }

/-- Did everything so far translate and read whole? -/
def Eng.clean (e : Eng) : Bool := e.bad.isNone && e.lost.isNone

/-- Note an address that does not translate. -/
def Eng.fail (e : Eng) (a : Nat) : Eng := { e with bad := some (match e.bad with | some b => min a b | none => a) }

/-- Translate an address; `judge` says whether its page suits the access. -/
def Eng.tr (e : Eng) (sp : Space) (acc : Access) (a : Nat) (judge : TrRes → TrRes) : Option Tr × Eng :=
  let (r, s) := e.s.engTr e.core e.part e.wg sp acc (.ofNat 64 a)
  match judge r with
  | .ok t => (some t, { e with s := s })
  | _ => (none, { e with s := s }.fail a)

/-- Translate n bytes of one page. What is noted is the lowest address that does not translate: in a formatted page's frame the first
beyond it (R116, R413). -/
def Eng.trN (e : Eng) (sp : Space) (acc : Access) (a n : Nat) : Option Tr × Eng :=
  match e.tr sp acc a fun r => r.plain n with
  | (some t, e) => (some t, e)
  | (none, _) =>
    match e.tr sp acc a fun r => r.plain 1 with
    | (some t, e) => (none, e.fail (a + frameBytes 0 t.fmt - t.off))
    | (none, e) => (none, e)

/-- Look at the words that a read takes for lost data (R384, R422). -/
def Eng.scan (e : Eng) (p : Place) (pa n : Nat) : Eng :=
  let (q, b) := e.s.redirect p pa
  match e.s.upsetAt q b n with
  | none => e
  | some u =>
    let (s, out) := e.s.treatUpset e.part u
    if out = 1 then { e with s := s } else { e with s := s, lost := some (e.lost.getD (u.sub, out, u.addr + 2 ^ 63)) }

/-- The pieces of n bytes at an address that lie in one page each. -/
def pieces (a n : Nat) : List (Nat × Nat) :=
  let m := 65536 - a % 65536
  if n = 0 then [] else if n ≤ m then [(a, n)] else [(a, m), (a + m, n - m)]

/-- The parts of n bytes at an address that lie in one register of a doorbell page each. -/
def chunks8 (a n : Nat) : List (Nat × Nat) :=
  (List.range (n / 8 + 2)).filterMap fun i =>
    let lo := max a ((a / 8 + i) * 8)
    let hi := min (a + n) ((a / 8 + i + 1) * 8)
    if lo < hi then some (lo, hi - lo) else none

/-- Read n bytes at a place; of a doorbell page, register by register. -/
def State.rdWide (s : State) (p : Place) (a n : Nat) : Nat × State :=
  if p = .bell then ((chunks8 a n).foldl (fun v x => v + (s.rdAcc p x.1 x.2).1 * 2 ^ (8 * (x.1 - a))) 0, s) else s.rd p a n

/-- Write n bytes at a place; of a doorbell page, register by register. -/
def State.wrWide (s : State) (p : Place) (a n v : Nat) : State :=
  if p = .bell then (chunks8 a n).foldl (fun s x => s.wrAcc p x.1 x.2 (v / 2 ^ (8 * (x.1 - a)) % 2 ^ (8 * x.2))) s
  else s.wr p a n v

/-- Read n bytes of a space, at most 65,536 of them. -/
def Eng.read (e : Eng) (sp : Space) (a n : Nat) : Nat × Eng :=
  let r := (pieces a n).foldl (fun (acc : Nat × Nat × Eng) p =>
    let (v, sh, e) := acc
    match e.trN sp .read p.1 p.2 with
    | (some t, e) =>
      let e := e.scan t.place t.pa p.2
      let (x, s) := e.s.rdWide t.place t.pa p.2
      (v + x * 2 ^ sh, sh + 8 * p.2, { e with s := s })
    | (none, e) => (v, sh + 8 * p.2, e)) (0, 0, e)
  (r.1, r.2.2)

/-- Write n bytes of a space where they translate. -/
def Eng.write (e : Eng) (sp : Space) (a n v : Nat) : Eng :=
  ((pieces a n).foldl (fun (acc : Nat × Eng) p =>
    let (sh, e) := acc
    match e.trN sp .write p.1 p.2 with
    | (some t, e) => (sh + 8 * p.2, { e with s := e.s.wrWide t.place t.pa p.2 (v / 2 ^ sh % 2 ^ (8 * p.2)) })
    | (none, e) => (sh + 8 * p.2, e)) (0, e)).2

/-- Does a range translate for an access? What does not is noted. -/
def Eng.probe (e : Eng) (sp : Space) (acc : Access) (a n : Nat) : Eng :=
  (pieces a n).foldl (fun e p => (e.trN sp acc p.1 p.2).2) e

/-! ## Operand elements (R255 to R257) -/

/-- A narrow operand in global memory needs a page of its own format (R255, R414). -/
def narrowJudge (t : Ty) (r : TrRes) : TrRes :=
  match r with | .ok x => if x.fmt = fmtPage t then r else .fail ⟨0x04, x.ent⟩ | r => r

/-- An operand element: its value, the flags that value raises, and its integer for i8. -/
structure MVal where
  v : Fv
  fl : Half
  i : Int
deriving DecidableEq, Repr

/-- The codes of an operand element as read: its own, its block scale and its band scale. -/
abbrev MCodes := Nat × Nat × Nat

/-- An operand element from its codes (R116, R255). -/
def mval (t : Ty) (c : MCodes) : MVal :=
  if narrowFmt t then let (v, fl) := elemVal (fmtPage t) c.1 c.2.1 c.2.2; { v := v, fl := fl, i := 0 }
  else if t.isFloat then { v := (fmtOf t).val c.1, fl := 0, i := 0 }
  else { v := .zero false, fl := 0, i := intVal t (.ofNat 64 c.1) }

/-- Read the element k places from a matrix's first (R255). -/
def Eng.elem (e : Eng) (x : MatRef) (k : Nat) : MCodes × Eng :=
  if narrowFmt x.fmt then
    match x.space with
    | .global =>
      match e.tr .global .read (x.addr.toNat + k) (narrowJudge x.fmt) with
      | (some t, e) =>
        let e := (codeRanges t.place t.frame t.fmt t.geom t.off 1).foldl (fun e r => e.scan r.1 r.2.1 r.2.2.1) e
        let (c, s) := e.s.rdCodes t.place t.frame t.fmt t.geom t.off
        (c, { e with s := s })
      | (none, e) => ((0, 0, 0), e)
    | sp =>
      let hi := match sp with | .vault => x.addr.toNat / 2 ^ 22 * 2 ^ 22 | _ => 0
      let n := x.addr.toNat - hi + k
      match e.tr sp .read (hi + n / 65536 * imageBytes x.fmt) id with
      | (some t, e) =>
        let e := (codeRanges t.place t.pa (fmtPage x.fmt) 0 (n % 65536) 1).foldl (fun e r => e.scan r.1 r.2.1 r.2.2.1) e
        let (c, s) := e.s.rdCodes t.place t.pa (fmtPage x.fmt) 0 (n % 65536)
        (c, { e with s := s })
      | (none, e) => ((0, 0, 0), e)
  else
    let (c, e) := e.read x.space (x.addr.toNat + k * x.fmt.bytes) x.fmt.bytes
    ((c, 0, 0), e)

/-- Operand element (r, c), none outside its record (R257). -/
def Eng.operand (e : Eng) (x : MatRef) (r c : Nat) : Option MCodes × Eng :=
  match x.stored r c with
  | none => (none, e)
  | some (i, j) => let (v, e) := e.elem x (i * x.stride + j); (some v, e)

/-- Operand elements along a list of places. -/
def Eng.operands (e : Eng) (x : MatRef) (l : List (Nat × Nat)) : List (Option MCodes) × Eng :=
  let r := l.foldl (fun (acc : List (Option MCodes) × Eng) p =>
    let (v, e) := acc.2.operand x p.1 p.2
    (v :: acc.1, e)) ([], e)
  (r.1.reverse, r.2)

/-! ## Leaves and bands (R85, R262, R271) -/

/-- Node format of a tile (R262). -/
def Tile.nf (t : Tile) : NodeFmt := if t.fp then .f32 else .int 32

/-- A leaf: the exact product rounded once into the node format (R85); ABSENT where either element is outside. -/
def leafOf (fp : Bool) : Option MVal → Option MVal → NVal
  | some a, some b =>
    if fp then
      let (v, g) := Fv.mul a.v b.v
      let (c, fl) := fp32.finish rneArg (v, g ||| a.fl ||| b.fl)
      (some (.ofNat 64 c), fl)
    else (some (.ofNat 64 (modW 32 (a.i * b.i))), 0)
  | _, _ => (none, 0)

/-- Store a spine. -/
def Tile.setSpine (t : Tile) (i j : Nat) (sp : Spine) : Tile :=
  { t with spines := mapPut [] t.spines (i * 256 + j) (sp.map fun e => (e.1, e.2.map fun w => w.setWidth 32)) }

/-- Fold leaves into an element's spine (R86), with the flags raised so far. -/
def Tile.fold (t : Tile) (i j : Nat) (leaves : List NVal) (fl : Half) : Tile × Half :=
  let (sp, g) := spineFold t.nf (leaves.length + 1) t.n leaves (t.spine i j) fl
  (t.setSpine i j sp, g)

/-- Fold K ABSENT leaves into the elements of some rows from a column on. -/
def Tile.foldAbsent (t : Tile) (rows cols : List Nat) (k : Nat) (fl : Half) : Tile × Half :=
  rows.foldl (fun acc i => cols.foldl (fun (acc : Tile × Half) j => acc.1.fold i j (List.replicate k (none, 0)) acc.2) acc)
    (t, fl)

/-- Fold one band (R271): rows `r0` to `r1` of A against the columns of B, masked columns getting ABSENT leaves. -/
def Tile.foldBand (t : Tile) (as bs : List (List (Option MVal))) (r0 k : Nat) (fl : Half) : Tile × Half :=
  let cols := bs.length
  let (t, fl) := (as.zipIdx r0).foldl (fun acc row =>
    (bs.zipIdx).foldl (fun (acc : Tile × Half) col =>
      acc.1.fold row.2 col.2 ((row.1.zip col.1).map fun p => leafOf t.fp p.1 p.2) acc.2) acc) (t, fl)
  t.foldAbsent ((List.range as.length).map (· + r0)) ((List.range t.cols).drop cols) k fl

/-- Who supplies B, N and K of an operation (R273): member 0 of its joint operation, or the operation itself. -/
def State.supplier (s : State) (key : Nat) (o : Op) : Option (Nat × Strand × Op) :=
  let m := match o.joint with
    | some n => (mapFind s.joints n).bind fun j => j.members.head?
    | none => some (key, o.id)
  m.bind fun m => (s.strand? m.1).bind fun st => (st.op? m.2).map fun p => (m.1, st, p)

/-- Suspend every unfinished part of a joint operation; a replay reads B again (R380). -/
def State.suspendParts (s : State) (n cls sub : Nat) : State :=
  let ms := match mapFind s.joints n with | some j => j.members | none => []
  (ms.foldl (fun s m => s.onStrand m.1 fun st => st.onOp m.2 fun p =>
    match p.mma? with
    | some (_, _, rows, _) => if p.rows < rows ∧ p.susp.isNone = true then { p with susp := some (cls, sub), group := none } else p
    | none => p) s).onJoint n fun j => { j with b := none }

/-- A fault in operand B of a joint operation suspends every unfinished part, and member 0 with the record (R380). -/
def State.suspendJoint (s : State) (n key : Nat) (st : Strand) (o : Op) (addr : Nat) : State :=
  (s.suspendParts n 0x03 0x01).suspendOp key st o 0x01 addr

/-- Columns of the widest tile of a joint operation's members. -/
def State.jointCols (s : State) (n : Nat) : Nat :=
  ((mapFind s.joints n).elim [] fun j => j.members).foldl (fun a m =>
    max a (((s.strand? m.1).bind fun st => ((st.op? m.2).bind fun o => o.tile).bind st.tile?).elim 0 fun t => t.cols)) 0

/-- Operand B by columns: that of a joint operation is read once for every member (R273). -/
def State.readB (s : State) (key : Nat) (st : Strand) (b : MatRef) (joint : Option Nat) (n k cols : Nat) :
    List (List (Option MCodes)) × Eng :=
  let read (m : Nat) : List (List (Option MCodes)) × Eng :=
    let r := (List.range m).foldl (fun (acc : List (List (Option MCodes)) × Eng) j =>
      let (l, e) := acc.2.operands b ((List.range k).map fun x => (x, j))
      (l :: acc.1, e)) ([], Eng.start s key st)
    (r.1.reverse, r.2)
  match joint with
  | none => read (min n cols)
  | some g =>
    match (mapFind s.joints g).bind fun j => j.b with
    | some l => (l, Eng.start s key st)
    | none =>
      let (l, e) := read (min n (s.jointCols g))
      (l, if e.clean then { e with s := e.s.onJoint g fun j => { j with b := some l } } else e)

/-- Run the next band of an MXMMA (R271, R376, R378): it commits its rows, or the operation suspends with nothing
written. -/
def State.runBand (s : State) (key : Nat) (st : Strand) (o : Op) (h : Nat) : State :=
  match o.mma?, st.tile? h, s.supplier key o with
  | some (a, _, m, _, _, _), some t, some (bk, bst, bo) =>
    match bo.mma? with
    | none => s
    | some (_, b, _, n, k, _) =>
      let rows := (List.range m).drop o.rows |>.take 16
      let ks := List.range k
      let (bs, eb) := s.readB bk bst b o.joint n k t.cols
      match o.joint, eb.bad, eb.lost with
      | some g, some x, _ => eb.s.suspendJoint g bk bst bo x
      | some g, none, some (sub, out, x) => (eb.s.suspendParts g 0x05 sub).routeOp bk bst bo 0x05 sub out x
      | _, _, _ =>
        let e := { Eng.start eb.s key st with bad := eb.bad, lost := eb.lost }
        let (as, e) := rows.foldl (fun (acc : List (List (Option MCodes)) × Eng) i =>
          let (l, e) := acc.2.operands a (ks.map fun x => (i, x))
          (l :: acc.1, e)) ([], e)
        match e.bad, e.lost with
        | some x, _ => e.s.suspendOp key st o 0x01 x
        | none, some (sub, out, x) => e.s.routeOp key st o 0x05 sub out x
        | none, none =>
          let vals (x : MatRef) (l : List (List (Option MCodes))) := l.map fun r => r.map fun c => c.map (mval x.fmt)
          let (t', fl) := t.foldBand (vals a as.reverse) (vals b (bs.take (min n t.cols))) o.rows k o.flags
          e.s.onStrand key fun st =>
            (st.setTile h (some t')).onOp o.id fun o => { o with rows := min m (o.rows + 16), flags := fl }
  | _, _, _ => s

/-- The run count that issue sees after the operations of a strand on a tile that have not taken effect (R263, R407): a joint
operation counts member 0's K once it starts, and nothing once its start was refused (R273). -/
def State.runAhead (s : State) (st : Strand) (h : Nat) : Nat :=
  (st.ops.filter fun o => o.tile == some h && !o.done && !o.started).foldl (fun n o =>
    match o.body with
    | .mx (.mma _ _ _ _ k fin) _ _ =>
      if o.susp = some (0x03, 0x07) then n
      else if fin then 0
      else
        n + (match o.joint with
          | some (g + 1) =>
            (((mapFind s.joints (g + 1)).bind fun j => j.members.head?).bind fun m =>
              ((s.strand? m.1).bind fun x => x.op? m.2).bind fun p => p.mma?).elim k fun x => x.2.2.2.2.1
          | _ => k)
    | .mx (.store ..) _ _ | .mx (.ctb ..) _ _ | .mx .free _ _ => n
    | _ => 0) ((st.tile? h).elim 0 fun t => t.n)

/-- Bring a member's run count as issue sees it to what its joint operation makes of it (R273). -/
def State.recount (s : State) (m : Nat × Nat) : State :=
  match (s.strand? m.1).bind fun st => ((st.op? m.2).bind fun o => o.tile).map fun h => (st, h) with
  | some (st, h) => s.onStrand m.1 fun x => x.onTile h fun t => { t with nIssue := s.runAhead st h }
  | none => s

/-! ## The end of a run (R264) -/

/-- Close an element (R86, R264). -/
def Tile.closeElem (t : Tile) (i j : Nat) (fl : Half) : Tile × Half :=
  let (root, g) := spineClose t.nf (t.spine i j)
  let (c, g') : Option Word × Half :=
    match root, t.val i j with
    | none, c0 => (c0, 0)
    | some r, none => (some (r.setWidth 32), 0)
    | some r, some c0 =>
      let (x, f) := combineVal t.nf (c0.setWidth 64) r
      (some (x.setWidth 32), f)
  ({ t with vals := mapPut (some 0) t.vals (i * 256 + j) c }, fl ||| g ||| g')

/-- Every place of a tile. -/
def Tile.places (t : Tile) : List (Nat × Nat) := (List.range t.rows).flatMap fun i => (List.range t.cols).map fun j => (i, j)

/-- MXFIN's effect (R264): every element closed, the run over. -/
def Tile.close (t : Tile) (fl : Half) : Tile × Half :=
  let (t, fl) := t.places.foldl (fun (acc : Tile × Half) p => acc.1.closeElem p.1 p.2 acc.2) (t, fl)
  ({ t with n := 0, spines := [] }, fl)

/-- What is left of an MXMMA after its bands (R262): the rows beyond M, the run count, and with .fin the close. -/
def Tile.endMma (t : Tile) (m k : Nat) (fin : Bool) (fl : Half) : Tile × Half :=
  let (t, fl) := t.foldAbsent ((List.range t.rows).drop m) (List.range t.cols) k fl
  let t := { t with n := t.n + k }
  if fin then t.close fl else (t, fl)

/-! ## MXLD and MXST (R261, R265) -/

/-- The element of a matrix by address at (i, j) of the block, as MXLD and MXST place it. -/
def MatRef.at (x : MatRef) (i j : Nat) : Nat := if x.trans then j * x.stride + i else i * x.stride + j

/-- A value loaded into a tile: widened exactly, its NaNs canonical (R261). -/
def tileValue (t : Ty) (c : Nat) : Word × Half :=
  if t.isFloat then
    let v := (fmtOf t).val c
    let (r, fl) := fp32.round rneArg false v
    (.ofNat 32 r, fl ||| (match v with | .nan true => flagInv | _ => 0))
  else (.ofNat 32 c, 0)

/-- MXLD's block, element by element; the engine notes what does not translate. -/
def Eng.loadTile (e : Eng) (ty : Ty) (x : MatRef) (rows cols : Nat) (t : Tile) : Tile × Half × Eng :=
  let t0 := { t with vals := [], spines := [], n := 0, flags := 0 }
  ((List.range rows).flatMap fun i => (List.range cols).map fun j => (i, j)).foldl
    (fun (acc : Tile × Half × Eng) p =>
      let (c, e) := acc.2.2.read x.space (x.addr.toNat + x.at p.1 p.2 * ty.bytes) ty.bytes
      let (v, fl) := tileValue ty c
      ({ acc.1 with vals := mapPut (some 0) acc.1.vals (p.1 * 256 + p.2) (some v) }, acc.2.1 ||| fl, e)) (t0, 0, e)

/-- A tile element converted for MXST (R265). -/
def storeValue (fp : Bool) (ty : Ty) (rnd : Rnd) (sat : Bool) (seed : DWord) (idx : Nat) (v : Word) : Nat × Half :=
  if fp then
    if ty == .f32 then
      -- the value as the tile holds it; a NaN is the canonical one already
      let (_, fl) := fp32.round rneArg false (fp32.val v.toNat)
      (v.toNat, fl)
    else roundSat (fmtOf ty) { mode := rnd, rsd := rsdBits seed (.ofNat 64 idx) } sat (fp32.val v.toNat)
  else
    let x := intVal .i32 (v.setWidth 64)
    let (lo, hi) := tyRange ty
    if ty == .i32 then (v.toNat, 0)
    else if sat then
      let y := max lo (min hi x)
      (modW ty.width y, if y = x then 0 else flagSat)
    else (modW ty.width x, 0)

/-- The places of a block with their stored places. -/
def MatRef.block (x : MatRef) (rows cols : Nat) (bytes : Nat) : List (Nat × Nat × Nat) :=
  (List.range rows).flatMap fun i => (List.range cols).map fun j => (i, j, x.addr.toNat + x.at i j * bytes)

/-- MXST's block: it translates whole before anything is written. -/
def Eng.storeTile (e : Eng) (ty : Ty) (x : MatRef) (rows cols row0 col0 : Nat) (rnd : Rnd) (sat : Bool) (seed : DWord)
    (t : Tile) : Half × Eng :=
  let ps := x.block rows cols ty.bytes
  let e := ps.foldl (fun e p => e.probe x.space .write p.2.2 ty.bytes) e
  if !e.clean then (0, e)
  else ps.foldl (fun (acc : Half × Eng) p =>
    let (i, j, a) := p
    let v := (t.val i j).getD 0
    let (y, fl) := storeValue t.fp ty rnd sat seed ((row0 + i) * 2 ^ 24 + col0 + j) v
    (acc.1 ||| fl, acc.2.write x.space a ty.bytes y)) (0, e)

/-! ## The arrival (R228, R269) -/

/-- An arrival of an amount that may exceed 32 bits. -/
def State.arriveAt (s : State) (p : Place) (pa n : Nat) (fl : Half) : State :=
  if n < 2 ^ 32 then s.syncAt p pa (.arrive (.ofNat 32 n) fl)
  else (s.syncAt p pa (.arrive 0xFFFFFFFF fl)).syncAt p pa (.arrive 1 fl)

/-- Make an operation's arrival and complete it; a sync word that does not translate suspends it with only the arrival
left (R269, R413). -/
def State.arriveOp (s : State) (key : Nat) (st : Strand) (o : Op) (sub : Nat) (r : Option SyncRef) (n : Nat) (fl : Half) : State :=
  match r with
  | none => s.finishOp key o.id
  | some r =>
    match s.syncPlace (coreOf key) st.part st.wg r.space r.addr with
    | (.ok (p, pa), s) => (s.arriveAt p pa n fl).finishOp key o.id
    | (.error _, s) =>
      (s.onStrand key fun st => st.onOp o.id fun o => { o with started := true }).suspendOp key st o sub r.addr.toNat

/-- The tile of an operation that has done all its writes: the flags join, and MXROW finds its number (R269, R271). -/
def Tile.note (t : Tile) (o : Op) (rows : Nat) (fl : Half) (clear : Bool) : Tile :=
  { t with flags := if clear then fl else t.flags ||| fl, last := some (.ofNat 16 o.recNo, rows) }

/-- Rows that an operation reports when done (R271). -/
def MxKind.rowCount (k : MxKind) (t : Tile) : Nat :=
  match k with
  | .load _ _ rows _ => rows | .store _ _ rows _ _ _ _ _ _ => rows | .mma _ _ m _ _ _ => m | .ctb _ _ _ rows .. => rows
  | .free => 0 | .zero _ => t.rows | .fin => t.rows

/-- The tile writes of a matrix operation are done (R269): its rows and flags stand, and its arrival is left. -/
def State.endTile (s : State) (key : Nat) (o : Op) (h : Nat) (t : Tile) (rows : Nat) (fl : Half) (clear : Bool) : State :=
  s.onStrand key fun st => (st.setTile h (some (t.note o rows fl clear))).onOp o.id fun o =>
    { o with rows := rows, flags := fl, started := true }

/-- CTBM sends its nodes (R266): the values as they stand, the operation completing with the last one accepted. A
generation that has ended refuses them. -/
def State.sendTile (s : State) (key : Nat) (st : Strand) (o : Op) (t : Tile) (handle : Word) (i0 j0 rows cols e0 stride level index : Nat) : State :=
  match s.openDom? st.part handle with
  | none => s.routeOp key st o 0x03 0x03 0 0
  | some d =>
    let ps := (List.range rows).flatMap fun i => (List.range cols).map fun j => (i, j)
    let node (p : Nat × Nat) : Node :=
      let v := (t.val (i0 + p.1) (j0 + p.2)).map fun w => toNode (if t.fp then .f32 else .i32) d.nf (w.setWidth 64)
      { part := st.part, handle := handle, elem := e0 + p.1 * stride + p.2, level := level, index := index
        val := v.map (·.1), flags := (v.map (·.2)).getD 0, src := some (key, o.id), since := s.clock.toNat }
    let s := (s.unqueue key o.id).onStrand key fun st => st.onOp o.id fun o =>
      { o with body := .contribute (rows * cols), sentOf := o.tile }
    s.contribute (coreOf key) d (ps.map node)

/-- A matrix operation other than MXMMA performs, or suspends. -/
def State.runMx (s : State) (key : Nat) (st : Strand) (o : Op) (h : Nat) (t : Tile) : State :=
  match o.body with
  | .mx k _ sync =>
    let finish (s : State) (t : Tile) (fl : Half) (clear : Bool) : State :=
      ((s.endTile key o h t (k.rowCount t) fl clear).unqueue key o.id).arriveOp key st o 0x01 sync 1 fl
    let fault (e : Eng) : State :=
      match e.bad, e.lost with
      | some x, _ => e.s.suspendOp key st o 0x01 x
      | none, some (sub, out, x) => e.s.routeOp key st o 0x05 sub out x
      | none, none => e.s
    (match k with
      | .free => (s.unqueue key o.id).finishOp key o.id
      | .zero abs =>
        let vals := if abs then t.places.map fun p => (p.1 * 256 + p.2, (none : Option Word)) else []
        finish s { t with vals := vals, spines := [], n := 0 } 0 true
      | .load ty x rows cols =>
        let (t', fl, e) := (Eng.start s key st).loadTile ty x rows cols t
        if e.clean then finish e.s t' fl true else fault e
      | .fin => let (t', fl) := t.close 0; finish s t' fl false
      | .store ty x rows cols row0 col0 rnd sat seed =>
        let (fl, e) := (Eng.start s key st).storeTile ty x rows cols row0 col0 rnd sat seed t
        if e.clean then finish e.s t fl false else fault e
      | .ctb dh i0 j0 rows cols e0 stride level index => s.sendTile key st o t dh i0 j0 rows cols e0 stride level index
      | .mma .. => s)
  | _ => s

/-- The end of an MXMMA whose bands are done (R262). -/
def State.endMma (s : State) (key : Nat) (st : Strand) (o : Op) (h k : Nat) : State :=
  match o.mma?, st.tile? h with
  | some (_, _, m, _, _, fin), some t =>
    let (t', fl) := t.endMma m k fin o.flags
    (s.endTile key o h t' m fl false).unqueue key o.id
  | _, _ => s

/-! ## Copies (R241 to R244, R379) -/

/-- Sectors of a row's destination. -/
def rowSectors (d n : Nat) : Nat := if n = 0 then 0 else (d + n - 1) / 128 - d / 128 + 1

/-- Sectors of rows i, i + 1, …, fuel of them. -/
def CopyOp.sectors (c : CopyOp) (i : Nat) : Nat → Nat
  | 0 => 0
  | fuel + 1 => rowSectors (c.row i).1 c.rowBytes + c.sectors (i + 1) fuel

/-- Sector k, counted from row i: destination, source and length. -/
def CopyOp.sector (c : CopyOp) (i k : Nat) : Nat → Option (Nat × Nat × Nat)
  | 0 => none
  | fuel + 1 =>
    let (d, a) := c.row i
    let n := rowSectors d c.rowBytes
    if k < n then
      let lo := max d ((d / 128 + k) * 128)
      let hi := min (d + c.rowBytes) ((d / 128 + k + 1) * 128)
      some (lo, a + (lo - d), hi - lo)
    else c.sector (i + 1) (k - n) fuel

/-- The sectors of the window that holds the next one to be written. -/
def CopyOp.window (c : CopyOp) : List (Nat × Nat × Nat) :=
  let hi := c.written / 512 * 512 + 512
  ((List.range hi).drop c.written).filterMap fun k => c.sector 0 k c.rows

/-- Copy sectors in order; the first that does not translate or whose data are lost ends it. The count of those
written. -/
def Eng.copySectors (e : Eng) (ds ss : Space) : List (Nat × Nat × Nat) → Nat × Eng
  | [] => (0, e)
  | (d, a, n) :: t =>
    let (v, e1) := e.read ss a n
    let e1 := e1.probe ds .write d n
    if !e1.clean then (0, e1)
    else
      let (k, e2) := (e1.write ds d n v).copySectors ds ss t
      (k + 1, e2)

/-- Note every address of some sectors that does not translate. -/
def Eng.probeSectors (e : Eng) (ds ss : Space) (l : List (Nat × Nat × Nat)) : Eng :=
  l.foldl (fun e x => (e.probe ss .read x.2.1 x.2.2).probe ds .write x.1 x.2.2) e

/-- Run a copy window by window (R379): to its end, or to the fault that suspends it, which reports the lowest address of
the window (R413). -/
def State.runCopy (s : State) (key : Nat) (st : Strand) (o : Op) (total : Nat) : Nat → CopyOp → State
  | 0, _ => s
  | fuel + 1, c =>
    if total ≤ c.written then
      (s.onStrand key fun st => st.onOp o.id fun o => { o with body := .copy c }).arriveOp key st o 0x02 c.sync (c.rowBytes * c.rows) 0
    else
      let l := c.window
      let (k, e) := (Eng.start s key st).copySectors c.dstSpace c.srcSpace l
      let c' := { c with written := c.written + k }
      let keep (s : State) : State := s.onStrand key fun st => st.onOp o.id fun o => { o with body := .copy c' }
      match e.bad, e.lost with
      | some _, _ =>
        let e := e.probeSectors c.dstSpace c.srcSpace (l.drop k)
        (keep e.s).suspendOp key st o 0x02 (e.bad.getD 0)
      | none, some (sub, out, x) => (keep e.s).routeOp key st o 0x05 sub out x
      | none, none => e.s.runCopy key st o total fuel c'

/-- Read sectors of a copy's source in order, to the first that does not translate or whose data are lost. -/
def Eng.readSectors (e : Eng) (sp : Space) : List (Nat × Nat × Nat) → List (Nat × Nat × Nat) × Eng
  | [] => ([], e)
  | (d, a, n) :: t =>
    let (v, e) := e.read sp a n
    if !e.clean then ([], e)
    else
      let (l, e) := e.readSectors sp t
      ((d, n, v) :: l, e)

/-- Write sectors at a receiver of a multicast. -/
def State.castSectors (s : State) (c : CopyOp) (base : Nat) (l : List (Nat × Nat × Nat)) : State :=
  let pl : Place := match c.dstSpace with | .vault => .vault | _ => .spad
  l.foldl (fun s x => s.wr pl (base + x.1) x.2.1 x.2.2) s

/-- Serve one receiver of a multicast (R243), whose source is read once: the sectors that it has not had, then its arrival; the copy
completes with the last. A fault leaves every receiver with the sectors read before it, and a replay goes on with the one at which it
arose (R379). -/
def State.serve (s : State) (key : Nat) (st : Strand) (o : Op) (c : CopyOp) (core : Nat) : State :=
  match c.recv.find? fun r => r.1 == core && !r.2.2 with
  | none => s
  | some (_, base, _) =>
    let all := (List.range (rowSectors c.dst.toNat c.rowBytes)).filterMap fun k => c.sector 0 k 1
    let had := c.data.getD []
    let (new, e) := (Eng.start s key st).readSectors c.srcSpace (all.drop had.length)
    let l := had ++ new
    let keep (s : State) (c : CopyOp) : State := s.onStrand key fun st => st.onOp o.id fun o => { o with body := .copy c }
    if e.clean then
      let s := e.s.castSectors c base (l.drop c.written)
      let s := match c.sync with
        | some r => s.arriveAt (match c.dstSpace with | .vault => .vault | _ => .spad) (base + r.addr.toNat) c.rowBytes 0
        | none => s
      let c' := { c with data := some l, recv := c.recv.map fun r => if r.1 == core then (r.1, r.2.1, true) else r }
      let s := keep s c'
      if c'.recv.all fun r => r.2.2 then s.finishOp key o.id else s
    else
      let window := (all.drop l.length).take (512 - l.length % 512)
      let e := if e.lost.isSome then e else window.foldl (fun e x => e.probe c.srcSpace .read x.2.1 x.2.2) e
      let s := c.recv.foldl (fun s r => s.castSectors c r.2.1 (l.drop c.written)) e.s
      let s := keep s { c with data := some l, written := l.length }
      match e.bad, e.lost with
      | some x, _ => s.suspendOp key st o 0x02 x
      | none, some (sub, out, x) => s.routeOp key st o 0x05 sub out x
      | none, none => s

/-! ## The swap engine (R127, R415 to R417) -/

/-- Is the far frame out of reach (R417): its device is lost (R462), or this is the bridge device and its link to the host, once
trained, is down (R331)? -/
def State.farLost (s : State) (x : Swap) : Bool :=
  match s.swapFar x with
  | (.peer, a) => (s.peer (peerDev a)).lost
  | (.host, _) => s.isBridge && (s.port 63).trained && !(s.port 63).up
  | _ => false

/-- The issuer of a SWAPF with its operation, while both are there. -/
def State.swapIssuer (s : State) (x : Swap) : Option (Strand × Op) :=
  (s.strand? x.strand).bind fun st => (st.op? x.op).map fun o => (st, o)

/-- Route a fault that concerns a SWAPF (R416, R417): its record names the SWAPF; the issuer's strand, while it is there, takes it at
its delivery point, and with no issuer the event has no source (R422). -/
def State.routeSwap (s : State) (x : Swap) (cls sub outcome : Nat) (addr : DWord) : State :=
  match s.swapIssuer x with
  | some (st, o) =>
    let r := { s.opRec x.strand st o cls sub addr 0 with outcome := outcome, op := some x.recNo }
    s.route { part := x.part, wg := some st.wg, split := none, op := none, core := coreOf x.strand, fault := r, tell := some (x.strand, .cp) }
  | none =>
    s.route { part := x.part, wg := none, split := none, op := none, core := coreOf x.strand
              fault := { plainRec cls sub addr with outcome := outcome, op := some x.recNo } }

/-- Lost words of a sector that the engine reads (R416): the pattern stands in them, and each is routed to the policy. -/
def State.swapLoss (s : State) (x : Swap) (p : Place) (a : Nat) : State :=
  let us := s.upsets.filter fun u => u.place == p && decide (a ≤ u.addr ∧ u.addr < a + 4096)
  us.foldl (fun s u =>
    let (s, out) := s.treatUpset x.part u
    if out = 1 then s
    else (s.store p u.addr (protBytes p) (lossOf p)).routeSwap x 0x05 u.sub 2 (.ofNat 64 (u.addr + 2 ^ 63))) s

/-- Write a sector of a frame under exchange. -/
def State.putSector (s : State) (p : Place) (a : Nat) (l : List Byte) : State :=
  (s.setCells p (writeBytes (s.cells p) a l)).wrote p a l.length

/-- Exchange one sector (R127 steps 1 to 3). -/
def State.exchange (s : State) (x : Swap) : State :=
  let (fp, fa) := s.swapFar x
  let near := x.near + 4096 * x.at_
  let s := s.swapLoss x .flostra near
  let bufA := readBytes s.flostra near 4096
  let far := fa + 4096 * x.at_
  let (bufB, s) := if fp = .peer then s.farRead far 4096 else (readBytes (s.cells fp) far 4096, s)
  let s := s.putSector .flostra near bufB
  if fp = .peer then s.farWrite far bufA else s.putSector fp far bufA

/-- Make the completion arrival of a SWAPF and retire it (R127, R245); the arrival is made when its issuer is gone too, but for a
scratchpad that went with it (R415). -/
def State.swapDone (s : State) (x : Swap) : State :=
  match s.swapIssuer x with
  | some (st, o) => s.arriveOp x.strand st o 0x02 x.sync 1 0
  | none =>
    match x.sync with
    | some ⟨.global, a⟩ => s.vsync x.part a.toNat (.arrive 1 0)
    | some ⟨.vault, a⟩ => s.arriveAt .vault a.toNat 1 0
    | _ => s

/-- The masks of FRAME, FAR and NC in a leaf entry (R111). -/
def farFields : DWord := bitMask 51 13 ||| 0xC0

/-- The accesses of an operation in flight with their places changed. -/
def OpBody.move (b : OpBody) (f : Place → Nat → Place × Nat) : OpBody :=
  let acc (a : Acc) : Acc := let (p, x) := f a.place a.pa; { a with place := p, pa := x }
  let elem (e : Elem) : Elem := let (p, x) := f e.place e.frame; { e with place := p, frame := x }
  match b with
  | .load l t d => .load (l.map acc) t d
  | .loadT l d => .loadT (l.map acc) d
  | .loadF l t m fz sd d => .loadF (l.map elem) t m fz sd d
  | .store l t d => .store (l.map acc) t d
  | .storeF l m sat fz sd d => .storeF (l.map elem) m sat fz sd d
  | .atomic l op t c e nr d => .atomic (l.map acc) op t c e nr d
  | .sync p a u => let (q, x) := f p a; .sync q x u
  | b => b

/-- Accesses in flight keep to the frame that now holds their location (R127). -/
def State.moveAccs (s : State) (f : Place → Nat → Place × Nat) : State :=
  s.strands.foldl (fun s e => s.onStrand e.1 fun st => { st with ops := st.ops.map fun o => { o with body := o.body.move f } }) s

/-- Give up an exchange's hold on its two entries: `f` makes the near and the far entry anew, and the TLBs forget the pages (R127,
R417). -/
def State.freeEntries (s : State) (die : Nat) (x : Swap) (near far : DWord → DWord) : State :=
  let put (s : State) (a : Nat) (f : DWord → DWord) : State :=
    (s.store .flostra a 8 (f (.ofNat 64 (s.load .flostra a 8))).toNat).wrote .flostra a 8
  let s := put (put s x.nearEnt near) x.farEnt far
  let n := max 65536 (4096 * x.sectors)
  let s := (s.tlbInv x.part x.nearVa (x.nearVa + n)).tlbInv x.part x.farVa (x.farVa + n)
  s.onDie die fun d => { d with swap := none }

/-- The end of an exchange (R127): both entries take the other's FRAME, FAR and NC as they were when SWP was set, whatever software
has written there since (R418), SWP is clear, the TLBs forget the pages, and the arrival is made. -/
def State.endSwap (s : State) (die : Nat) (x : Swap) : State :=
  let mixed (own other : DWord) : DWord := (own &&& ~~~(farFields ||| 0x1000)) ||| (other &&& farFields)
  ((s.moveAccs x.redirect).freeEntries die x (mixed · x.farLeaf) (mixed · x.nearLeaf)).swapDone x

/-- An exchange stops because its far frame is out of reach (R417). -/
def State.breakSwap (s : State) (die : Nat) (x : Swap) : State :=
  let drop (e : DWord) : DWord := e &&& ~~~(0x1001 : DWord)
  ((s.freeEntries die x drop drop).routeSwap x 0x03 0x04 0 (.ofNat 64 (x.nearVa + 4096 * x.at_))).swapDone x

end Sys2Proof.Machine
end

