-- ==== Sys2Proof/Machine/EngineEv.lean ====
section
/-! DEFINITION. Events of the matrix, copy and swap engines (R43, R44, R127, R243, R244, R269, R271). An event whose
condition does not hold changes nothing. -/

namespace Sys2Proof.Machine

open Sys2Proof

/-! ## Joint operations -/

/-- The members of a latch entry in the order in which GANG lists them, once each has issued (R42, R43). -/
def State.latchFull (s : State) (cluster : Nat) (e : LatchEnt) : Option (List (Nat × Nat)) :=
  let want := gangMembers e.gang (cluster * 8)
  let ms := want.map fun k => e.members.find? fun m => match s.strand? m.1 with | some st => st.name == k | none => false
  if want.isEmpty || ms.any fun m => m.isNone then none else some (ms.filterMap id)

/-- The members whose part fails the limits of R263 against member 0's K (R273). -/
def State.jointBad (s : State) (ms : List (Nat × Nat)) (k : Nat) : List (Nat × Nat) :=
  ms.filter fun m =>
    match s.strand? m.1 with
    | some st =>
      (match st.op? m.2 with
        | some o =>
          (match o.mma?, o.tile.bind st.tile? with
            | some (_, _, _, _, _, fin), some t => !(t.takes t.n k fin)
            | _, _ => false)
        | none => false)
    | none => false

/-- Are the members' tiles ready, so that their run counts stand (R268), and their queues open (R270)? -/
def State.jointReady (s : State) (ms : List (Nat × Nat)) : Bool :=
  ms.all fun m =>
    match s.engReady? m.1 m.2 with
    | some (st, o) =>
      (match o.tile with | some h => st.tileReady o h | none => false)
        && decide ((s.core (coreOf m.1)).engine.length < Config.engineQueue)
    | none => false

/-- JOINT_OPERATION_START (R43, R273): the parts enter their engines' queues, or the operation is refused whole. -/
def execJointOperationStart (cluster entry : Nat) (s : State) : Host.Outcome State Fault Refusal :=
  event s fun s =>
    let ents := mapGet [] s.latches cluster
    match ents[entry]? with
    | none => s
    | some e =>
      match s.latchFull cluster e with
      | none => s
      | some ms =>
        if !s.jointReady ms then s
        else
          let n := s.jointNext + 1
          let s := { s with latches := mapPut [] s.latches cluster (ents.eraseIdx entry), jointNext := n
                            joints := mapIns n { members := ms } s.joints }
          let s := ms.foldl (fun s m => s.onStrand m.1 fun st => st.onOp m.2 fun o => { o with joint := some n }) s
          let k := match ms.head? with
            | some m => ((s.strand? m.1).bind fun st => (st.op? m.2).bind fun o => o.mma?).elim 0 fun x => x.2.2.2.2.1
            | none => 0
          match s.jointBad ms k with
          | [] =>
            let s := ms.foldl (fun s m => s.onCore (coreOf m.1) fun c => { c with engine := c.engine ++ [m] }) s
            ms.foldl State.recount s
          | bad :: _ =>
            let s := ms.foldl (fun s m => s.onStrand m.1 fun st => st.onOp m.2 fun o => { o with susp := some (0x03, 0x07) }) s
            let s := ms.foldl State.recount s
            match (s.strand? bad.1).bind fun st => (st.op? bad.2).map fun o => (st, o) with
            | some (st, o) => s.routeOp bad.1 st o 0x03 0x07 0 0
            | none => s

/-- A member's part with its strand, operation and tile; none while it is unfinished. -/
def State.partDone (s : State) (m : Nat × Nat) : Option (Nat × Strand × Op × Nat) :=
  match s.mxReady? m.1 m.2 with
  | some (st, o, h) =>
    (match o.mma? with
      | some (_, _, rows, _) => if rows ≤ o.rows then some (m.1, st, o, h) else none
      | none => none)
  | none => none

/-- JOINT_OPERATION_COMPLETE (R44, R273): with every part finished, every member's tile, arrival and counter together,
each arrival with the flags of all. -/
def execJointOperationComplete (joint : Nat) (s : State) : Host.Outcome State Fault Refusal :=
  event s fun s =>
    match mapFind s.joints joint with
    | none => s
    | some j =>
      let ps := j.members.map s.partDone
      if ps.isEmpty || ps.any fun p => p.isNone then s
      else
        let ps := ps.filterMap id
        let k := match ps.head? with | some p => (p.2.2.1.mma?).elim 0 fun x => x.2.2.2.2.1 | none => 0
        let s := ps.foldl (fun s p => if p.2.2.1.started then s else s.endMma p.1 p.2.1 p.2.2.1 p.2.2.2 k) s
        let fl := ps.foldl (fun (f : Half) p =>
          match (s.strand? p.1).bind fun st => st.op? p.2.2.1.id with | some o => f ||| o.flags | none => f) 0
        s.farFor ((j.members.headD (0, 0)).1) ((j.members.headD (0, 0)).2) fun s =>
        let s := { s with joints := mapErase joint s.joints }
        ps.foldl (fun s p =>
          let s := s.onStrand p.1 fun st => st.onOp p.2.2.1.id fun o => { o with flags := fl }
          match (s.strand? p.1).bind fun st => (st.op? p.2.2.1.id).map fun o => (st, o), p.2.2.1.body with
          | some (st, o), .mx _ _ sync => s.arriveOp p.1 st o 0x01 sync 1 fl
          | _, _ => s) s

/-! ## Matrix operations -/

/-- BAND_COMPLETE (R271): the next 16 rows of an MXMMA, unless the engine has an earlier one to run (R270) or finds an
error of its own (R383). -/
def execBandComplete (strand op : Nat) (s : State) : Host.Outcome State Fault Refusal :=
  event s fun s =>
    match s.mxReady? strand op with
    | none => s
    | some (st, o, h) =>
      match o.mma? with
      | none => s
      | some (_, _, m, _) =>
        if m ≤ o.rows ∨ s.engineBusy strand op = true then s
        else
          let (s, ok) := s.engCheck strand st o 0x01
          if !ok then s
          else
            let (s, ok) := s.accCheck strand st o h
            if !ok then s else s.farFor strand op fun s => s.runBand strand st o h

/-- MX_OPERATION_COMPLETE (R269): the tile's writes, then the arrival; only the arrival where that alone is left. A joint
operation's parts complete together (R44). -/
def execMxOperationComplete (strand op : Nat) (s : State) : Host.Outcome State Fault Refusal :=
  event s fun s =>
    match s.mxReady? strand op with
    | none => s
    | some (st, o, h) =>
      match o.body, st.tile? h with
      | .mx k _ sync, some t =>
        s.farFor strand op fun s =>
        if o.started then s.arriveOp strand st o 0x01 sync 1 o.flags
        else if o.mma?.isNone ∧ s.engineBusy strand op = true then s
        else
          match o.mma? with
          | some (_, _, m, _, kk, _) =>
            if o.joint.isSome ∨ o.rows < m then s
            else
              let s := s.endMma strand st o h kk
              (match (s.strand? strand).bind fun st => st.op? op with
                | some o => s.arriveOp strand st o 0x01 sync 1 o.flags
                | none => s)
          | none =>
            let (s, ok) := match k with
              | .free => (s, true) | .zero _ => (s, true) | .load .. => (s, true)
              | _ => s.accCheck strand st o h
            if !ok then s
            else
              match (s.strand? strand).bind fun st => st.tile? h with
              | some t => s.runMx strand st o h t
              | none => s.runMx strand st o h t
      | _, _ => s

/-! ## Copies -/

/-- COPY_COMPLETE (R244): the sectors not yet written, then the arrival of the bytes. A SWAPF whose arrival alone is left
makes it. -/
def execCopyComplete (strand op : Nat) (s : State) : Host.Outcome State Fault Refusal :=
  event s fun s =>
    match s.engReady? strand op with
    | none => s
    | some (st, o) =>
      match o.body with
      | .copy c =>
        if c.multi then s
        else
          let (s, ok) := s.engCheck strand st o 0x04
          if !ok then s
          else
            let total := c.sectors 0 c.rows
            s.farFor strand op fun s => s.runCopy strand st o total (total / 512 + 2) c
      | .swap _ _ sync => if o.started then s.farFor strand op fun s => s.arriveOp strand st o 0x02 sync 1 0 else s
      | _ => s

/-- CPYM_RECEIVER_ARRIVAL (R243). -/
def execCpymReceiverArrival (strand op core : Nat) (s : State) : Host.Outcome State Fault Refusal :=
  event s fun s =>
    match s.engReady? strand op with
    | none => s
    | some (st, o) =>
      match o.body with
      | .copy c =>
        if !c.multi then s
        else
          let (s, ok) := s.engCheck strand st o 0x04
          if ok then s.farFor strand op fun s => s.serve strand st o c core else s
      | _ => s

/-- SWAP_SECTOR (R127): one sector, and after the last the end of the exchange; an unreachable far frame stops it
(R417). -/
def execSwapSector (die : Nat) (s : State) : Host.Outcome State Fault Refusal :=
  event s fun s =>
    match (s.dieSt die).swap with
    | none => s
    | some x =>
      if x.at_ < x.sectors ∧ s.farLost x = true then s.breakSwap die x
      else
        s.farDo x.part (.swap die) fun s =>
        let s := if x.at_ < x.sectors then s.exchange x else s
        let y := { x with at_ := x.at_ + 1 }
        if x.at_ + 1 < x.sectors then s.onDie die fun d => { d with swap := some y } else s.endSwap die y

end Sys2Proof.Machine
end

