-- ==== Sys2Proof/Machine/Home.lean ====
section
/-! DEFINITION. The far side of a reduction: who is home for an element (R323, R326), an element's final write and the end
of a generation (R84, R429), the loop of a slice with its spill area (R83, R124), and the packets that carry nodes and
roots (R322 to R326). -/

namespace Sys2Proof.Machine

open Sys2Proof

/-- Arithmetic-clock cycles of n microseconds (R347). -/
def State.us (s : State) (n : Nat) : Nat := n * 100 * s.boot.freq.toNat

/-! ## Homes -/

/-- A participant: device id, incarnation and pod (R322). -/
abbrev Member := Nat × Nat × Nat

/-- The participant of a list that is home for an element of `elems` (R323). -/
def memberAt (l : List Member) (e elems : Nat) : Option Member := l[e * l.length / elems]?

/-- Is a participant this device? -/
def State.isMe (s : State) (m : Member) : Bool := m.1 == s.boot.devid.toNat && m.2.2 == s.boot.pod.toNat

/-- What this device is to an element: its home, the pod home of a system domain whose system home is another, or
another participant with the home of its pod. -/
inductive Role where
  | home
  | podHome (sys : Member)
  | other (home : Member)
deriving DecidableEq, Repr

/-- The participants of this device's pod, in list order. -/
def State.podList (s : State) (d : Dom) : List Member :=
  (s.groupList d.part d.group).filter fun m => m.2.2 == s.boot.pod.toNat

/-- The role of this device for an element (R323, R326). -/
def State.role (s : State) (d : Dom) (e : Nat) : Role :=
  if d.scope = 0 then .home
  else
    match memberAt (s.groupList d.part d.group) e d.elems, memberAt (s.podList d) e d.elems with
    | some h, some p =>
      if s.isMe h then .home
      else if d.scope = 1 then .other h
      else if s.isMe p then .podHome h
      else .other p
    | _, _ => .home

/-! ## Packets of nodes and roots (R322 to R324) -/

/-- The key of a node or root packet (R322). -/
def redKey (h : Word) (e : Nat) : DWord := .ofNat 64 (h.toNat + 2 ^ 32 * e)

/-- Payload of a node: label, value and the ABSENT mark (assumption 21). -/
def nodeBytes (n : Node) : List Byte :=
  bytesOf 8 n.label.toNat ++ bytesOf 8 ((n.val.getD 0).toNat) ++ [if n.val.isNone then 1 else 0]

/-- Payload of a root: value and the ABSENT mark. -/
def rootBytes (v : Option DWord) : List Byte := bytesOf 8 ((v.getD 0).toNat) ++ [if v.isNone then 1 else 0]

/-- The node that a packet carries, for a partition. A switch port's flow keeps its numbers, so a node of its with the key of another
is no copy sent again: it may come from another device (R429, R458, R460, assumption 148). -/
def pktNode (p : Pkt) (part clock : Nat) : Node :=
  let lab := bytesVal (p.payload.take 8)
  { part := part, handle := .ofNat 32 (p.addr.toNat % 2 ^ 32), elem := p.addr.toNat / 2 ^ 32, level := lab / 2 ^ 58
    index := lab % 2 ^ 40, flags := p.flags, src := none, since := clock
    val := if p.payload.getD 16 0 = 0 then some (.ofNat 64 (bytesVal ((p.payload.drop 8).take 8))) else none
    dev := if p.port then none else some p.src }

/-- The value that a root packet carries. -/
def pktRoot (p : Pkt) : Option DWord :=
  if p.payload.getD 8 0 = 0 then some (.ofNat 64 (bytesVal (p.payload.take 8))) else none

/-- Send a node toward the home of this pod: to the switch port on the element's plane, or straight there where that
plane is not live (R323). -/
def State.sendNode (s : State) (d : Dom) (n : Node) (home : Member) : State :=
  let k := fold6 n.elem
  let live := s.planeLive home.1 k
  let plane := if live then k else s.planeFrom home.1 k
  let p := s.mkPkt 6 home.1 plane (.ofNat 16 home.2.1) (s.part d.part).fabid (redKey n.handle n.elem) (nodeBytes n)
  s.sendOn (if live then 512 + home.1 else home.1) { p with flags := n.flags }

/-- A device by pod and id. -/
def Member.num (m : Member) : Nat := m.2.2 * 512 + m.1
/-- This device, likewise. -/
def State.myNum (s : State) : Nat := s.boot.pod.toNat * 512 + s.boot.devid.toNat

/-- Is an entropy value toward a peer excluded from spraying (R471)? A peer is one of a partition's table or, from 4096 on, a device of
the endpoint's own entries. -/
def State.excludedNow (s : State) (part peer e : Nat) : Bool :=
  s.fabric.excluded.any fun x => x.1 == part && x.2.1 == peer && x.2.2.1 == e && decide (s.clock.toNat < x.2.2.2)

/-- The entropy that the endpoint picks, of those not excluded if there are any (R328, R471). -/
def State.pickEntropy (s : State) (part peer x : Nat) : Nat :=
  (((List.range 256).map fun i => (x + i) % 256).find? fun e => !s.excludedNow part peer e).getD (x % 256)

/-- Send a packet of a system domain to a device as an RUD entry of the endpoint (R326, R472): with the JobID of the domain's
partition, on an entropy value that the spec leaves to the endpoint (assumption 3). -/
def State.sendUet (s : State) (d : Dom) (m : Member) (b : UetBody) : State :=
  let idx := mapGet 0 s.fabric.rodSent (64 * 2 ^ 20 + d.part)
  let (x, s) := s.draw
  let p : UetPkt := { dst := Config.deviceIp m.num, src := Config.deviceIp s.myNum, dstDev := m.num, srcDev := s.myNum
                      job := Config.jobOf d.part, entropy := s.pickEntropy d.part (4096 + m.num) (x.toNat % 256), session := s.boot.incarn
                      part := d.part, k := 64, idx := idx, body := b }
  s.onFab fun f =>
    { f with uetOut := f.uetOut ++ [p], rodSent := mapPut 0 f.rodSent (64 * 2 ^ 20 + d.part) (idx + 1)
             ue := f.ue ++ [{ part := d.part, k := 64, idx := idx, words := [d.handle.toNat], resends := 0, since := s.clock.toNat
                              pkt := p }] }

/-- Send a root to the other participants of this pod (R324). -/
def State.sendRootPod (s : State) (d : Dom) (e : Nat) (v : Option DWord) (fl : Half) : State :=
  (s.podList d).foldl (fun s m =>
    if s.isMe m then s
    else
      let p := s.mkPkt 7 m.1 (s.planeFrom m.1 (fold6 e)) (.ofNat 16 m.2.1) (s.part d.part).fabid (redKey d.handle e) (rootBytes v)
      s.send { p with flags := fl }) s

/-- Send a root to every other participant: in a pod domain by the fabric, in a system domain to every pod home by the endpoint,
which sends it on in its pod; this device does so itself where it is one (R324, R326). -/
def State.sendRoot (s : State) (d : Dom) (e : Nat) (v : Option DWord) (fl : Half) : State :=
  if d.scope ≠ 2 then s.sendRootPod d e v fl
  else
    let all := s.groupList d.part d.group
    ((all.map fun m => m.2.2).eraseDups).foldl (fun s p =>
      match memberAt (all.filter fun m => m.2.2 == p) e d.elems with
      | some m =>
        if s.isMe m then s.sendRootPod d e v fl else s.sendUet d m (.root d.handle (.ofNat 32 e) (v.getD 0) v.isNone fl)
      | none => s) s

/-! ## Slices -/

/-- A slice. -/
def State.slice (s : State) (i : Nat) : Slice := mapGet Slice.reset s.slices i
/-- Change a slice. -/
def State.onSlice (s : State) (i : Nat) (f : Slice → Slice) : State :=
  { s with slices := mapPut Slice.reset s.slices i (f (s.slice i)) }
/-- Count an event of a slice (R494). -/
def State.countSlice (s : State) (i k : Nat) : State :=
  s.onSlice i fun x => { x with counts := mapPut 0 x.counts k (mapGet 0 x.counts k + 1) }

/-! ## Double coverage and the end of a generation (R84, R429) -/

/-- The addresses of the completion writes. -/
def State.completionAddrs (s : State) (d : Dom) : List Nat :=
  [s.domAddr d.part d.slot + 56] ++ (if d.sync = 0 then [] else [d.sync.toNat]) ++ (if d.ctr = 0 then [] else [d.ctr.toNat])

/-- Complete a generation (R84): the records it owes, then the flags word, STATE, the sync word and the counter. -/
def State.completeDom (s : State) (d : Dom) : State :=
  let s := (s.domEnds d).checkFrozen d
  let s := { s with slices := s.slices.map fun (e : Nat × Slice) =>
                      (e.1, { e.2 with clasp := e.2.clasp.filter fun n => !n.of d }) }
  let s := { s with slices := s.slices.filter fun e => e.2 != Slice.reset }
  let s := s.clearSpill d
  let s := s.vwrite d.part (s.domAddr d.part d.slot + 56) 2 d.flags.toNat
  let s := s.setDomGenState d.part d.slot d.gen 2
  let s := if d.sync = 0 then s else s.vsync d.part d.sync.toNat (.arrive 1 d.flags)
  let s := if d.ctr = 0 then s else s.vsync d.part d.ctr.toNat (.add (d.inc.setWidth 64))
  s.setDom { d with overlap := [], full := [] }

/-- An element counts as written: the generation completes with the last. -/
def State.markWritten (s : State) (d : Dom) (e : Nat) (fl : Half) : State :=
  let d := { d with written := insNat e d.written, flags := d.flags ||| fl }
  let s := s.setDom d
  if d.complete then s.completeDom d else s

/-- An element found covered twice at a slice is noted there once (R429). -/
def Dom.overlaps (d : Dom) (sl e : Nat) (label : DWord) : Dom :=
  let l := mapGet [] d.overlap sl
  if l.any fun x => x.1 == e then d else { d with overlap := mapPut [] d.overlap sl (l ++ [(e, label)]) }

/-- A leaf of an element is found covered twice at a slice (R429): a device domain's element not yet written is voided. -/
def State.noteOverlap (s : State) (d : Dom) (sl e : Nat) (label : DWord) : State :=
  if d.complete then s.postRec d.part (domRec 0x02 d.handle e 1 label 0)
  else
    let d := d.overlaps sl e label
    if d.scope = 0 ∧ d.written.contains e = false then s.markWritten { d with void := insNat e d.void } e 0 else s.setDom d

/-! ## The final write (R84) -/

/-- The accumulator's new value for a root, none where it stays, with the flags. -/
def Dom.finalVal (d : Dom) (old : Nat) (root : Option DWord) : Option Nat × Half :=
  match root with
  | none => (if d.overwrite then some 0 else none, 0)
  | some r =>
    match d.nf with
    | .int _ =>
      let w := d.fmt.width
      (some ((if d.overwrite then r.toNat else old + r.toNat) % 2 ^ w), 0)
    | nf =>
      let f := fmtOf d.fmt
      let x := (nf.fmt.val r.toNat).scale d.scale
      let v := if d.overwrite then f.finish rneArg (x, (nanFlags [x]).getD 0) else f.finish rneArg (Fv.add .rne (f.val old) x)
      (some v.1, v.2)

/-- The addresses of the writes that an element's end brings on, where it is the last of the generation: the slots to clear and the
completion writes. -/
def State.endAddrs (s : State) (d : Dom) (e : Nat) : List Nat :=
  if d.elems ≤ (insNat e d.written).length then (s.slotsHeld d).map (· + 26) ++ s.completionAddrs d else []

/-- The first address of an element's final write, and of the writes that it brings on, that does not translate, with its PAGE
subclass. -/
def State.finalFault (s : State) (d : Dom) (e : Nat) (root : Option DWord) : Option (Nat × Nat) :=
  s.writeFault d.part ((if root.isNone ∧ d.overwrite = false then [] else [d.accAddr e]) ++ s.endAddrs d e)

/-- Likewise for an element that a double coverage voids (R429). -/
def State.voidFault (s : State) (d : Dom) (e : Nat) : Option (Nat × Nat) :=
  if d.scope = 0 ∧ d.written.contains e = false ∧ d.complete = false then s.writeFault d.part (s.endAddrs d e) else none

/-- Make an element's final write (R84). -/
def State.finalWrite (s : State) (d : Dom) (e : Nat) (root : Option DWord) (fl : Half) : State :=
  let n := accBytes d.fmt
  let s := if root.isSome ∧ d.overwrite = false then s.seen d.part (d.accAddr e) n else s
  let (v, g) := d.finalVal (s.vread d.part (d.accAddr e) n) root
  let s := match v with | some x => s.vwrite d.part (d.accAddr e) n x | none => s
  s.markWritten d e (fl ||| g)

/-! ## The spill area (R83) -/

/-- The address of a slot that a probe visits. -/
def Dom.probeAddr (d : Dom) (e : Nat) (label : DWord) (i : Nat) : Nat :=
  let h := (mix64 ((.ofNat 64 e * 0x9E3779B97F4A7C15) ^^^ label)).toNat
  d.spill.toNat + 32 * ((h + i) % 2 ^ d.spillLog)

/-- The addresses of the slots that a probe visits, in order. -/
def Dom.probes (d : Dom) (e : Nat) (label : DWord) : List Nat :=
  (List.range (min 8 (2 ^ d.spillLog))).map (d.probeAddr e label)

/-- Find a spilled node by element and label. -/
def State.findSpill (s : State) (d : Dom) (n : Node) : Option Nat :=
  (d.probes n.elem n.label).find? fun a =>
    s.slotTaken d a && decide (s.vread d.part (a + 4) 4 = n.elem) && decide (s.vread d.part (a + 8) 8 = n.label.toNat)

/-- Clear a slot's valid bit; the slice's spill count falls. -/
def State.clearSlot (s : State) (d : Dom) (sl a : Nat) : State :=
  (s.vwrite d.part (a + 26) 1 (s.vread d.part (a + 26) 1 / 2 * 2)).setDom
    { d with spillCount := mapPut 0 d.spillCount sl (mapGet 0 d.spillCount sl - 1), spillDev := mapErase a d.spillDev }

/-- Write a node into a slot. -/
def State.putSlot (s : State) (d : Dom) (sl a : Nat) (n : Node) : State :=
  let w (s : State) (o k v : Nat) : State := s.vwrite d.part (a + o) k v
  let s := w s 0 8 (d.handle.toNat + 2 ^ 32 * n.elem)
  let s := w s 8 8 n.label.toNat
  let s := w s 16 8 (n.val.getD 0).toNat
  let s := w s 24 8 (n.flags.toNat + 2 ^ 16 * (1 + if n.val.isNone then 2 else 0))
  s.setDom { d with spillCount := mapPut 0 d.spillCount sl (mapGet 0 d.spillCount sl + 1)
                    spillDev := match n.dev with | some x => mapIns a x d.spillDev | none => mapErase a d.spillDev }

/-! ## The loop of a slice (R124) -/

/-- The leaves that a node covers. -/
def Node.span (n : Node) : Nat × Nat := (n.index * 2 ^ n.level, (n.index + 1) * 2 ^ n.level)

/-- Do two nodes of an element meet without being siblings (R429)? -/
def Node.meets (a b : Node) : Bool :=
  a.elem == b.elem && a.handle == b.handle && a.part == b.part && !a.sibling b
    && decide (a.span.1 < b.span.2 ∧ b.span.1 < a.span.2)

/-- Entries that a generation holds in a slice. -/
def State.entriesHeld (s : State) (sl : Nat) (d : Dom) : Nat := ((s.slice sl).clasp.filter fun n => n.of d).length

/-- Has a slice an entry for a generation within its quota? -/
def State.entryFree (s : State) (sl : Nat) (d : Dom) : Bool :=
  decide (s.entriesHeld sl d < d.quota ∧ (s.slice sl).clasp.length + (s.slice sl).dead < Config.sliceClaspEntries)

/-- A contribution to a generation that is over (R223, R225, R377): its operation suspends under ASYNC 0x03, routed; a node
with no operation is gone. -/
def State.refuseNode (s : State) (n : Node) : State :=
  match n.src.bind fun e => (s.strand? e.1).bind fun st => (st.op? e.2).map fun o => (e.1, st, o) with
  | some (key, st, o) =>
    if o.susp.isSome then s
    else
      (s.onStrand key fun st => st.onOp o.id fun o => { o with susp := some (0x03, 0x03), group := none }).route
        { part := st.part, wg := some st.wg, split := none, op := some (key, o.id), core := coreOf key
          fault := s.opRec key st o 0x03 0x03 0 0 }
  | none => s

/-- A node that meets a double coverage and enters no combine: the coverage is noted and the node discarded, unless a write that this
brings on does not translate (R429, R431). -/
def State.sliceDup (s : State) (sl : Nat) (d : Dom) (n : Node) : State × Option Node :=
  match s.voidFault d n.elem with
  | some (a, sub) => (s.stick d sl a sub, some n)
  | none => ((s.noteOverlap d sl n.elem n.label).credit n.src, none)

/-- Place a node that has no sibling here: an entry, the way to its home, a spill slot; else it is held back (R124, R323). -/
def State.slicePlace (s : State) (sl : Nat) (d : Dom) (n : Node) : State × Option Node :=
  if s.entryFree sl d then
    let n' := { n with src := none, since := s.clock.toNat, back := false, core := none }
    (((s.onSlice sl fun x => { x with clasp := x.clasp ++ [n'] }).countSlice sl 4).credit n.src, none)
  else
    match s.role d n.elem with
    | .other home => ((s.sendNode d n home).credit n.src, none)
    | _ =>
      match (d.probes n.elem n.label).find? fun a => !s.slotTaken d a with
      | none => (s, some n)
      | some a =>
        match s.writeFault d.part [a] with
        | some (a, sub) => (s.stick d sl a sub, some n)
        | none => (((s.putSlot d sl a n).countSlice sl 6).credit n.src, none)

/-- Take a node through the loop of a slice (R124): the state, and the node where it is held back. A node that meets a held entry
without being its sibling or its copy is noted and goes on, unless its element is voided (R429). -/
def State.sliceGo (s : State) (sl : Nat) : Nat → Node → State × Option Node
  | 0, n => (s, some n)
  | fuel + 1, n =>
    match s.doms.find? fun d => n.of d with
    | none => (s.refuseNode n, none)
    | some d =>
      if d.written.contains n.elem || d.complete then s.sliceDup sl d n
      else if d.depth ≤ n.level then
        match s.finalFault d n.elem n.val with
        | some (a, sub) => (s.stick d sl a sub, some n)
        | none =>
          let s := (s.finalWrite d n.elem n.val n.flags).credit n.src
          (if d.scope = 0 then s else s.sendRoot d n.elem n.val n.flags, none)
      else if d.absentAt n.level (n.index ^^^ 1) then s.sliceGo sl fuel n.promote
      else
        let held := (s.slice sl).clasp
        let spilled : Bool := decide (0 < mapGet 0 d.spillCount sl)
        let sib : Node := { n with index := n.index ^^^ 1 }
        let copy : Option Nat := if spilled then s.findSpill d n else none
        if held.any (fun m => n.again m) || (n.dev.isSome && copy.any fun a => mapFind d.spillDev a == n.dev) then (s.credit n.src, none)
        else if held.any (fun m => m.sameKey n) || copy.isSome then s.sliceDup sl d n
        else if d.scope = 0 ∧ held.any (fun m => m.meets n) = true then s.sliceDup sl d n
        else
          let d := if held.any (fun m => m.meets n) then d.overlaps sl n.elem n.label else d
          let s := s.setDom d
          match held.find? fun m => m.sibling n with
          | some m =>
            let s := ((s.onSlice sl fun x => { x with clasp := x.clasp.erase m }).countSlice sl 3).credit n.src
            s.sliceGo sl fuel (Node.join d n m)
          | none =>
            match (if spilled then s.findSpill d sib else none) with
            | some a =>
              (match s.writeFault d.part [a + 26] with
                | some (a, sub) => (s.stick d sl a sub, some n)
                | none =>
                  let m := s.slotNode d a
                  let s := ((s.clearSlot d sl a).countSlice sl 5).credit n.src
                  s.sliceGo sl fuel (Node.join d n m))
            | none => s.slicePlace sl d n

/-- The end of an episode of back-pressure at a slice (R430): no arrival of the generation is held back there any
longer. -/
def State.endEpisode (s : State) (sl : Nat) (h : Word) (part : Nat) : State :=
  match s.doms.find? fun d => d.part == part && d.handle == h with
  | none => s
  | some d =>
    match d.full.find? fun e => e.1 == sl with
    | none => s
    | some (_, n, low, lab) =>
      if s.toSlice.any fun e => e.1 == sl && e.2.back && e.2.of d then s
      else
        (s.setDom { d with full := d.full.filter fun e => e.1 != sl }).postRec part
          (domRec 0x03 h low n lab 0)

/-- Hold a node back at a slice: it begins or joins an episode (R430). -/
def State.holdBack (s : State) (sl : Nat) (n : Node) : State :=
  match s.doms.find? fun d => n.of d with
  | none => s
  | some d =>
    if n.back || (mapGet none d.stuck sl).isSome then s
    else
      let (c, low, lab) := mapGet (0, n.elem, n.label) d.full sl
      s.setDom { d with full := mapIns sl (c + 1, if n.elem < low then (n.elem, n.label) else (low, lab)) d.full }

/-- An arrival at a slice: entry `idx` of those on their way. -/
def State.arriveSlice (s : State) (idx : Nat) : State :=
  match s.toSlice[idx]? with
  | none => s
  | some (sl, n) =>
    let before := s.toSlice.take idx
    let stuck := match s.doms.find? fun d => n.of d with | some d => (mapGet none d.stuck sl).isSome | none => false
    if stuck || before.any fun e => e.1 == sl && e.2.part == n.part && e.2.handle == n.handle && e.2.elem == n.elem && !e.2.back then s
    else
      let s1 := { s with toSlice := s.toSlice.eraseIdx idx }
      match s1.sliceGo sl 64 n with
      | (s2, none) => s2.endEpisode sl n.handle n.part
      | (s2, some m) =>
        let s3 := s2.holdBack sl { m with back := n.back }
        let stuck := match s3.doms.find? fun d => m.of d with | some d => (mapGet none d.stuck sl).isSome | none => false
        { s3 with toSlice := s3.toSlice.insertIdx idx (sl, { m with back := n.back || !stuck }) }

/-- A clasp entry is found upset (R383, R387): its second read stands, or its generation is lost here. -/
def State.claspHit (s : State) (c : Check) (n : Node) : State :=
  if c.retryOk then s.postRec n.part { plainRec 0x06 0x03 (n.handle.setWidth 64) with outcome := 1 }
  else
    let s := match s.doms.find? fun d => n.of d with
      | some d => s.closeDom d (domRec 0x05 d.handle n.elem 1 n.label 0)
      | none => s
    if c.sound then s else s.postRec n.part (plainRec 0x09 0x03 0)

/-- A pending error of a clasp: a slice by its number, a core by 1000 more than its own. -/
def State.claspCheck? (s : State) (unit : Nat) : Option Check :=
  s.checks.find? fun c => c.cls == 0x06 && c.sub == 0x03 && c.unit == unit

/-- A slice reads its clasp: an entry found upset, whose cell may be lost for good. -/
def State.claspCheck (s : State) (sl : Nat) : State :=
  match s.claspCheck? sl with
  | none => s
  | some c =>
    let s := { s with checks := s.checks.erase c }
    match (s.slice sl).clasp[c.addr]? with
    | none => s
    | some n =>
      let s := s.claspHit c n
      if c.retryOk || c.sound then s else s.onSlice sl fun x => { x with dead := x.dead + 1 }

/-- A core reads its clasp, likewise. -/
def State.coreClaspCheck (s : State) (core : Nat) : State :=
  match s.claspCheck? (1000 + core) with
  | none => s
  | some c =>
    let s := { s with checks := s.checks.erase c }
    match (s.core core).clasp[c.addr]? with
    | none => s
    | some n =>
      let s := s.claspHit c n
      if c.retryOk || c.sound then s else s.onCore core fun x => { x with dead := x.dead + 1 }

/-- Is an arrival at a slice served before a refill (R125): a new one, or one held back for which an entry is now free? -/
def State.arrivalFirst (s : State) (sl : Nat) : Bool :=
  s.toSlice.any fun e => e.1 == sl && s.doms.any fun d =>
    e.2.of d && (mapGet none d.stuck sl).isNone && (!e.2.back || s.entryFree sl d)

/-- Move one spilled node of a slice back into its clasp (R125), unless a write for its generation is suspended there; a node whose
way on is held up waits as an arrival does (R431). -/
def State.refill (s : State) (sl : Nat) (d : Dom) : State :=
  if mapGet 0 d.spillCount sl = 0 ∨ s.entryFree sl d = false ∨ s.arrivalFirst sl = true ∨ (mapGet none d.stuck sl).isSome = true then s
  else
    match (s.slotsHeld d).find? fun a => decide (s.elemSlice d (s.slotNode d a).elem = sl) with
    | none => s
    | some a =>
      match s.writeFault d.part [a + 26] with
      | some (a, sub) => s.stick d sl a sub
      | none =>
        match ((s.clearSlot d sl a).countSlice sl 7).sliceGo sl 64 (s.slotNode d a) with
        | (s, none) => s
        | (s, some m) => { s with toSlice := (sl, m) :: s.toSlice }

/-! ## Loss of a plane (R466) -/

/-- The lowest element of a generation on a plane with no final write here. -/
def Dom.lowestOn (d : Dom) (plane : Nat) : Option Nat :=
  let n := min (d.elems / 64 + 1) (d.written.length + 1)
  (List.range n).findSome? fun q =>
    let e := 64 * q + ((plane ^^^ fold6 q) % 64)
    if e < d.elems ∧ d.written.contains e = false then some e else none

/-- A plane has stopped being live for a device: Open generations of pod and system domains that it serves close (R466). -/
def State.planeLost (s : State) (dev plane : Nat) : State :=
  s.doms.foldl (fun s d =>
    if d.scope = 0 ∨ d.complete = true then s
    else if (s.groupList d.part d.group).any fun m => m.1 == dev && m.2.2 == s.boot.pod.toNat then
      match d.lowestOn plane with
      | some e => s.closeDom d (domRec 0x05 d.handle e 1 (BitVec.allOnes 64) 0)
      | none => s
    else s) s

/-! ## Nodes and roots that arrive (R325) -/

/-- How a packet's generation stands at this device (R325). -/
inductive Judged where
  | accepted (d : Dom)
  | early
  | over
deriving DecidableEq, Repr

/-- Judge a packet's handle by the slot's copy here. -/
def State.judge (s : State) (part : Nat) (h : Word) : Judged :=
  let (gen, _) := s.domGenState part (handleSlot h)
  let δ := (handleGen h + 4096 - gen % 4096) % 4096
  if δ = 0 then
    match s.openDom? part h with
    | some d => .accepted d
    | none => .over
  else if δ ≤ 2047 then .early else .over

/-- The handle and element of a node or root packet, and its label, all ones for a root's. -/
def redHandle (p : Pkt) : Word := .ofNat 32 (p.addr.toNat % 2 ^ 32)
/-- Its element. -/
def redElem (p : Pkt) : Nat := p.addr.toNat / 2 ^ 32
/-- Its label. -/
def redLabel (p : Pkt) : DWord := if p.opc = 6 then (pktNode p 0 0).label else BitVec.allOnes 64

/-- Report a packet of an ended generation (R325). -/
def State.staleRec (s : State) (part : Nat) (h : Word) (e : Nat) (label : DWord) : State :=
  s.postRec part (domRec 0x06 h e 1 label 0)

/-- A participant's final write for a root that reached it (R324); one already written is left alone. -/
def State.takeRoot (s : State) (d : Dom) (e : Nat) (v : Option DWord) (fl : Half) : State :=
  if d.written.contains e then s else s.finalWrite d e v fl

end Sys2Proof.Machine
end

