-- ==== Sys2Proof/Machine/Recv.lean ====
section
/-! DEFINITION. The fabric endpoint as receiver: records of class FABRIC (R473), acknowledgments and duplicates (R316,
R459), stale packets (R320, R463), answers to remote operations and their failures (R462 to R465), flow recovery (R457,
R458). An acknowledgment's payload tells what it answers (assumption 21). -/

namespace Sys2Proof

/-- What an answer's payload adds for a packet of a switch port (assumption 21). -/
def Pkt.portMark (p : Pkt) : List Byte := if p.port then [1] else []

/-- Do two packets take one path of one sender? -/
def Pkt.samePath (a b : Pkt) : Bool := a.dst == b.dst && a.plane == b.plane && a.port == b.port && a.src == b.src

end Sys2Proof

namespace Sys2Proof.Machine

open Sys2Proof

/-! ## Records of class FABRIC (R473) -/

/-- A FABRIC record. -/
def fabricRec (sub detail port lane queue seq count : Nat) (addr : DWord) : Rec :=
  { plainRec 0x07 sub addr with
    mask := .ofNat 256 (detail + 2 ^ 8 * port + 2 ^ 16 * lane + 2 ^ 32 * queue + 2 ^ 64 * seq + 2 ^ 96 * min count (2 ^ 32 - 1)) }

/-- Write a record that concerns no partition into the ring of every live partition. -/
def State.postAll (s : State) (r : Rec) : State :=
  (s.parts.filter fun e => e.2.live).foldl (fun s e => s.postRec e.1 r) s

/-- The peer value of a device with an incarnation (R237). -/
def peerVal (dev : Nat) (incarn : Half) : DWord := .ofNat 64 (dev + 2 ^ 16 * incarn.toNat)

/-! ## Answers -/

/-- Does sequence number a come before b on a flow? -/
def seqBefore (a b : Word) : Bool := decide (2 ^ 31 ≤ (a - b).toNat)

/-- The flow on which a packet came: a device's own, or that of the switch port toward this device (R460). -/
def pktFlow (p : Pkt) : Nat := if p.port then 1024 + p.src else p.src

/-- The flow of the switch port that faces a device toward a device (R460). -/
def portFlow (dev dst : Nat) : Nat := 2 ^ 20 + dev * 512 + dst

/-- A packet of a flow has been dealt with: the next one may be performed. -/
def Flow.pass (f : Flow) : Flow := { f with inNext := f.inNext + 1 }

/-- Take up a frame whose EtherType is ETYPE; any other is dropped at its port and counted (R314). -/
def State.framed (s : State) (p : Pkt) (f : State → State) : State :=
  if p.etype = s.boot.etype then f s
  else if s.planeUp p.plane && s.fabricOn then s.onPort p.plane fun q => { q with etypeDrop := q.etypeDrop + 1 }
  else s

/-- Send an acknowledgment of a flow (R315, R459): kind 0 for a packet just performed,
2 duplicate, 1 stale, 3 refused. -/
def State.sendAck (s : State) (p : Pkt) (kind : Nat) : State :=
  let a := s.mkPkt 0 p.src p.plane p.sincarn p.fabid (.ofNat 64 (p.seq.toNat + 2 ^ 32 * p.plane)) (.ofNat 8 kind :: p.portMark)
  s.emit { a with ack := if kind = 0 then p.seq else (s.flow (pktFlow p) p.plane).inNext - 1 }

/-- The remote operation that waits for the answer to a packet: strand, operation, its state and the lane. -/
def State.waiting (s : State) (dev plane : Nat) (seq : Word) : Option (Nat × Op × Remote × Nat) :=
  s.strands.findSome? fun e =>
    e.2.ops.findSome? fun o =>
      match o.body with
      | .remote r =>
        if r.peer = dev then (r.wait.find? fun w => w.1 == plane && w.2.1 == seq).map fun w => (e.1, o, r, w.2.2) else none
      | _ => none

/-- The access through a FAR frame that waits for the answer to a packet. -/
def State.farWaiting (s : State) (dev plane : Nat) (seq : Word) : Option FarWait :=
  s.far.wait.find? fun w => w.req.dev == dev && w.plane == plane && w.seq == seq

/-- A request through a FAR frame is answered: whoever made it goes on with the answer. -/
def State.farAnswer (s : State) (w : FarWait) (l : List Byte) : State :=
  { s with far := { s.far with wait := s.far.wait.erase w, known := s.far.known ++ [(w.key, w.req, l)] } }

/-- Is a remote operation all answered? -/
def Remote.answered (r : Remote) : Bool := r.wait.isEmpty && r.refused.isEmpty

/-- Store a remote operation's state; when it is all answered it completes: a store, signal or arrival at once, a plain
load or atomic with its values, a .late one through its symbol (R102). -/
def State.settle (s : State) (key : Nat) (o : Op) (r : Remote) : State :=
  let s := s.onStrand key fun st => st.onOp o.id fun o => { o with body := .remote r }
  if !r.answered || o.susp.isSome then s
  else
    match r.kind, o.sym with
    | .load, none | .atomic _, none =>
      if (s.quarter (quarterOf key)).dumping then
        s.onQuarter (quarterOf key) fun q => { q with held := q.held ++ [{ strand := key, op := o.id, resolution := false }] }
      else s.landLoad key o.id
    | .load, some _ | .atomic _, some _ => s
    | _, _ => s.finishOp key o.id

/-- A packet of a flow has been acknowledged: a store, signal or arrival is performed at pod scope (R317), a resent node
is accepted. -/
def State.ackedPkt (s : State) (p : Pkt) : State :=
  let s := s.onFab fun f =>
    { f with notReady := f.notReady.filter fun e => !(e.sent == some p.seq && e.pkt.samePath p) }
  if p.opc = 3 ∨ p.opc = 8 ∨ p.opc = 9 then
    match s.waiting p.dst p.plane p.seq with
    | some (key, o, r, _) => s.settle key o { r with wait := r.wait.filter fun w => !(w.1 == p.plane && w.2.1 == p.seq) }
    | none => (match s.farWaiting p.dst p.plane p.seq with | some w => s.farAnswer w [] | none => s)
  else s

/-- A cumulative acknowledgment of a flow (R316). -/
def State.takeAck (s : State) (flow plane : Nat) (ack : Word) : State :=
  let (gone, kept) := (s.flow flow plane).unacked.partition fun e => !seqBefore ack e.1.seq
  let s := if gone.isEmpty then s else s.onFlow flow plane fun f => { f with unacked := kept }
  gone.foldl (fun s e => s.ackedPkt e.1) s

/-- Take a packet that has been answered otherwise off its flow. -/
def State.dropUnacked (s : State) (flow plane : Nat) (seq : Word) : State :=
  s.onFlow flow plane fun f => { f with unacked := f.unacked.filter fun e => e.1.seq != seq }

/-- A packet under a sequence number, on the ordinary flow or that of node packets; on a switch port's own flow, by its number. -/
def State.sentPkt (s : State) (dev plane : Nat) (seq : Word) : Option (Nat × Pkt) :=
  (if dev < 512 then [dev, 512 + dev] else [dev]).findSome? fun f => ((s.flow f plane).unacked.find? fun e => e.1.seq == seq).map fun e => (f, e.1)

/-! ## Failures of remote operations (R462, R463) -/

/-- Fail a remote operation (R462): the lanes not answered, under ASYNC 0x04 or 0x05, routed; a retry sends them again. -/
def State.failRemote (s : State) (key : Nat) (o : Op) (r : Remote) (sub : Nat) (addr : DWord) : State :=
  match s.strand? key with
  | none => s
  | some st =>
    let left := if o.started then (r.wait.map fun w => w.2.2) ++ r.refused.map (·.1) else r.lanes.map (·.1)
    let lanes := r.lanes.filter fun l => left.contains l.1
    let s := s.onStrand key fun st => st.onOp o.id fun o =>
      { o with susp := some (0x03, sub), group := none, body := .remote { r with wait := [], refused := lanes } }
    s.route { part := st.part, wg := some st.wg, split := none, op := some (key, o.id), core := coreOf key
              fault := s.opRec key st o 0x03 sub addr (laneMask (lanes.map (·.1))) }

/-- The lanes of an operation whose accesses go to a device; an update of a sync word stands for its whole instruction. -/
def State.lanesTo (s : State) (o : Op) (dev : Nat) : Mask :=
  let there (p : Place) (a : Nat) : Bool := let (q, b) := s.redirect p a; q == .peer && peerDev b == dev
  match o.body with
  | .load accs _ _ | .loadT accs _ | .store accs _ _ | .atomic accs _ _ _ _ _ _ =>
    laneMask ((accs.filter fun a => there a.place a.pa).map fun a => a.lane)
  | .loadF els _ _ _ _ _ | .storeF els _ _ _ _ _ => laneMask ((els.filter fun e => there e.place e.frame).map fun e => e.lane)
  | .sync p a _ => if there p a then o.lanes else 0
  | _ => 0

/-- The issue of a split's instruction, where it may now be parked: no trap handler holds it back (R392). -/
def State.icAt (s : State) (key slot : Nat) : Option Ic :=
  (s.strand? key).bind fun st =>
    let sp := st.split slot
    if (sp.st == .ready || sp.st == .trapped) && !st.heldBack slot then some { key := key, slot := slot, st := st, sp := sp } else none

/-- Answer a read of the device's own that another device does not answer: free bytes (assumption 17). -/
def State.farFree (s : State) (w : FarWait) : State :=
  match w.req with
  | .load _ n =>
    { s with free := s.free + n }.farAnswer w ((List.range n).map fun i => (Config.freeValue (s.free + i)).setWidth 8)
  | _ => s.farAnswer w []

/-- Fail what makes an access through a FAR frame: an operation is suspended under an ASYNC fault, routed (R462, R463), and keeps
the answers that it has; a split that reads at issue or fetches is parked with it (assumption 149); an exchange stops (R417). -/
def State.failFar (s : State) (w : FarWait) (sub : Nat) (addr : DWord) : State :=
  let s1 := { s with far := { s.far with wait := s.far.wait.filter fun x => !(x.key == w.key) } }
  match w.key with
  | .op key id =>
    (match (s.strand? key).bind fun st => (st.op? id).map fun o => (st, o) with
      | some (st, o) =>
        if o.susp.isSome then s1
        else
          (s1.onStrand key fun st => st.onOp id fun o => { o with susp := some (0x03, sub), group := none }).route
            { part := st.part, wg := some st.wg, split := none, op := some (key, id), core := coreOf key
              fault := s.opRec key st o 0x03 sub addr (s.lanesTo o w.req.dev) }
      | none => s1)
  | .issue key slot | .fetch key slot =>
    (match s.icAt key slot with
      | some c =>
        s1.parkRouted c { cls := 0x03, sub := sub, code := 0, lanes := c.sp.mask, restart := true, async := false, oprec := 0 }
          (s.strandRec key c.st 0x03 sub c.sp.pc addr c.sp.mask)
      | none => s1)
  | .swap die => (match (s1.dieSt die).swap with | some x => s1.breakSwap die x | none => s1)
  | .dev _ => s.farFree w

/-- A node or root packet fails with no operation to answer for it: an ASYNC record of its partition, routed (R462, R463). -/
def State.failNode (s : State) (p : Pkt) (sub : Nat) (addr : DWord) : State :=
  match s.partOfFab p.fabid with
  | some part => s.route { part := part, wg := none, split := none, op := none, core := 0, fault := plainRec 0x03 sub addr }
  | none => s

/-- The node and root packets of this device on their way to another. -/
def State.nodesTo (s : State) (dev : Nat) : List Pkt :=
  ((s.fabric.flows.filter fun e => e.1 / 64 == dev || e.1 / 64 == 512 + dev).flatMap fun e => e.2.unacked.map (·.1)).filter
      (fun p => p.opc == 6 || p.opc == 7) ++
    (s.fabric.notReady.filter fun e => e.sent.isNone && !e.pkt.port && e.pkt.dst == dev).map (·.pkt)

/-- Every remote operation in flight to a device fails with PEER_RESET (R462), swaps with it among them (R417). -/
def State.failPeer (s : State) (dev : Nat) (incarn : Half) : State :=
  let addr := peerVal dev incarn
  let s := s.strands.foldl (fun s e =>
    e.2.ops.foldl (fun s o =>
      if o.done || o.susp.isSome then s
      else
        match o.body with
        | .remote r => if r.peer = dev ∧ o.started = true then s.failRemote e.1 o r 0x04 addr else s
        | _ => s) s) s
  let s := (s.far.wait.filter fun w => w.req.dev == dev).foldl (fun s w => if s.far.wait.contains w then s.failFar w 0x04 addr else s) s
  let s := (s.nodesTo dev).foldl (fun s p => s.failNode p 0x04 addr) s
  let s := [0, 1].foldl (fun s d =>
    match (s.dieSt d).swap with
    | some x =>
      (match s.swapFar x with
        | (.peer, a) => if peerDev a = dev then s.breakSwap d x else s
        | _ => s)
    | none => s) s
  s.onFab fun f =>
    { f with notReady := f.notReady.filter fun e => e.pkt.dst != dev
             flows := f.flows.filter fun e => !(e.1 / 64 % 512 == dev) }

/-! ## Receiving (R316, R319, R320, R459) -/

/-- A drop for a stale incarnation or an unbound FABID (R463): the answer, the count and, once a millisecond, the
record. -/
def State.dropStale (s : State) (p : Pkt) (part : Option Nat) (detail : Nat) : State :=
  let s := (s.sendAck p 1).onPort p.plane fun q => { q with staleInc := q.staleInc + 1 }
  let q := s.peer p.src
  let due := match q.staleAt with | some t => decide (t + s.us 1000 ≤ s.clock.toNat) | none => true
  if due then
    let r := fabricRec 0x04 detail p.plane p.plane 0 0 (q.staleCount + 1) (peerVal p.src p.sincarn)
    let s := s.onPeer p.src fun x => { x with staleAt := some s.clock.toNat, staleCount := 0 }
    match part with | some n => s.postRec n r | none => s.postAll r
  else s.onPeer p.src fun x => { x with staleCount := x.staleCount + 1 }

/-- Is a packet for the host's memory, which this device performs as the bridge of its group (R331, assumption 10)? -/
def State.hostBound (s : State) (p : Pkt) : Bool := s.isBridge && decide (2 ^ 63 ≤ p.addr.toNat)

/-- What a packet does, for the partition it is bound to; it says whether the receiver is done with it: one held back comes again. -/
abbrev PktAct := Pkt → State → Nat → State × Bool

/-- Take the packet that is next of its flow: one for another incarnation has had its answer, one that names a FABID not held here is
answered so (R319, R463). -/
def State.takeNext (s : State) (act : PktAct) (p : Pkt) : State × Bool :=
  if p.tincarn ≠ s.boot.incarn then (s, true)
  else
    match s.partOfFab p.fabid with
    | some part => act p s part
    | none => if s.hostBound p then act p s 0 else (s.dropStale p none 3, true)

/-- Take the packets of a flow that have come ahead of their turn, while the next one is there (R459). -/
def State.drainFlow (k plane : Nat) (take : State → Pkt → State × Bool) : Nat → State → State
  | 0, s => s
  | n + 1, s =>
    match (s.flow k plane).ahead.find? fun q => q.seq == (s.flow k plane).inNext with
    | none => s
    | some q =>
      match take s q with
      | (t, false) => t
      | (t, true) => State.drainFlow k plane take n (t.onFlow k plane fun f => { f with inNext := f.inNext + 1, ahead := f.ahead.erase q })

/-- Take a packet of a flow whose turn has come, and those that waited for it (R459). -/
def State.takeInTurn (s : State) (k : Nat) (p : Pkt) (take : State → Pkt → State × Bool) : State :=
  match take s p with
  | (t, false) => t
  | (t, true) => State.drainFlow k p.plane take 1024 (t.onFlow k p.plane Flow.pass)

/-- A packet ahead of its turn waits in the receiver's window of 1024 (R459); one beyond it is dropped. -/
def State.keepAhead (s : State) (k : Nat) (p : Pkt) : State :=
  let f := s.flow k p.plane
  if 1024 ≤ (p.seq - f.inNext).toNat ∨ (f.ahead.any fun q => q.seq == p.seq) = true then s
  else s.onFlow k p.plane fun f => { f with ahead := f.ahead ++ [p] }

/-- Receive a packet (R316, R319, R320, R457, R459): in the order of its flow, each once. A packet for another incarnation is
answered wherever it stands in its flow (R463). A packet for another device or of a stopped flow changes nothing. -/
def State.recv (s : State) (act : PktAct) (p : Pkt) : State :=
  s.framed p fun s =>
  if p.dst ≠ s.boot.devid.toNat ∨ s.planeUp p.plane = false ∨ s.fabricOn = false then s
  else
    let k := pktFlow p
    let fl := s.flow k p.plane
    if fl.recovering then s
    else
      let t := (s.onPort p.plane fun q => { q with received := q.received + 1 }).tracePkt p
      let bound := s.partOfFab p.fabid
      let t := if p.tincarn ≠ s.boot.incarn then t.dropStale p bound 0 else if p.port then t else t.takeAck p.src p.plane p.ack
      if seqBefore p.seq fl.inNext then
        if p.tincarn ≠ s.boot.incarn then t
        else if bound.isNone && !s.hostBound p then t.dropStale p none 3 else t.sendAck p 2
      else if p.seq = fl.inNext then t.takeInTurn k p fun s q => s.takeNext act q
      else t.keepAhead k p

/-- A peer's packet reads n bytes: a word upset beyond correction is treated with no reader of this device, and the packet finds
the word as that leaves it (R383, R384, assumption 112). -/
def State.peerReads (s : State) (part : Nat) (p : Place) (a n : Nat) : State :=
  let (q, b) := s.redirect p a
  (s.upsets.filter fun u => u.place == q && decide (u.addr < b + n ∧ b < u.addr + protBytes q)).foldl (fun s u => s.lossAlone part u) s

/-- Perform a memory packet at its address (R319), reading there or not: refused where the partition's tables refuse it. One for
the host goes to the adapter (R331). -/
def State.remoteAt (s : State) (p : Pkt) (part n : Nat) (acc : Access) (reads : Bool) (f : State → Place → Nat → State) : State :=
  let va := p.addr.toNat
  if s.hostBound p then (f s .host (va % 2 ^ 50)).sendAck p 0
  else if 2 ^ 57 ≤ va then s.sendAck p 3
  else
    match s.walk part acc va with
    | .error _ => s.sendAck p 3
    | .ok l =>
      let t := leafTr part (s.part part) l.leaf l.size l.ent va
      match (TrRes.ok t).plain n with
      | .ok t =>
        let s := s.touch t.ent acc
        (f (if reads then s.peerReads part t.place t.pa n else s) t.place t.pa).sendAck p 0
      | _ => s.sendAck p 3

/-- Send the answer of a load or an atomic (R315): its data, under the request's number. -/
def State.respond (s : State) (p : Pkt) (opc : Nat) (data : List Byte) : State :=
  let a := s.mkPkt opc p.src (s.planeFrom p.src p.plane) p.sincarn p.fabid (.ofNat 64 (p.seq.toNat + 2 ^ 32 * p.plane)) data
  s.send a

/-- A response reaches the issuer (R317): the lane's value, and the operation's end with its last. -/
def State.takeResponse (s : State) (p : Pkt) : State :=
  let seq : Word := .ofNat 32 (p.addr.toNat % 2 ^ 32)
  let plane := p.addr.toNat / 2 ^ 32 % 64
  match s.waiting p.src plane seq with
  | none => (match s.farWaiting p.src plane seq with | some w => s.farAnswer w p.payload | none => s)
  | some (key, o, r, lane) =>
    let r := { r with wait := r.wait.filter fun w => !(w.1 == plane && w.2.1 == seq)
                      got := mapIns lane (extendTy r.ty (bytesVal p.payload % 2 ^ r.ty.width)) r.got }
    s.settle key o r

/-- The records of a refusal: one for each table entry of the peer, with its lanes and the address of the lowest (R411, R465). -/
def refusalRecs (faults : List PeerFault) (mk : DWord → Mask → Rec) : List Rec :=
  (faults.map fun f => f.entry).eraseDups.map fun e =>
    let fs := faults.filter fun f => f.entry == e
    let low := fs.foldl (fun (a : Option PeerFault) f => match a with | some b => if f.lane < b.lane then some f else a | none => some f) none
    mk (low.elim 0 fun f => f.addr.setWidth 64) (laneMask (fs.map fun f => f.lane))

/-- A peer refuses an access through a FAR frame (R465): the operation suspends under a group of PAGE 0x06 records, a split that reads
at issue or fetches parks at its instruction; an exchange stops as at an unreachable frame (assumption 17). -/
def State.refuseFar (s : State) (p : Pkt) (w : FarWait) (faults : List PeerFault) : State :=
  let s := s.dropUnacked p.src w.plane w.seq
  let s1 := { s with far := { s.far with wait := s.far.wait.erase w } }
  match w.key with
  | .op key id =>
    (match (s.strand? key).bind fun st => (st.op? id).map fun o => (st, o) with
      | some (st, o) =>
        let recs := refusalRecs faults (s.opRec key st o 0x01 0x06)
        let s := s1.onStrand key fun st => st.onOp id fun o => { o with susp := some (0x01, 0x06), group := none }
        if recs.isEmpty then s else s.postGroup st.part { recs := recs, split := none, op := some (key, id) }
      | none => s1)
  | .issue key slot | .fetch key slot =>
    (match s.icAt key slot with
      | some c =>
        let s := s1.parkFail c c.sp.mask { lanes := c.sp.mask, addrs := [], data := [], data2 := [] }
          ((refusalRecs faults fun a _ => s.strandRec key c.st 0x01 0x06 c.sp.pc a c.sp.mask))
        s.onStrand key fun st => st.onSplit slot fun p => { p with park := p.park.map fun k => { k with redo := none } }
      | none => s1)
  | .swap die => (match (s1.dieSt die).swap with | some x => s1.breakSwap die x | none => s1)
  | .dev _ => s.farFree w

/-- A peer refuses lanes of an operation (R465): a group of PAGE 0x06 records, one for each of its table entries, and the
operation suspends. -/
def State.takeRefusal (s : State) (p : Pkt) (faults : List PeerFault) : State :=
  let seq : Word := .ofNat 32 (p.addr.toNat % 2 ^ 32)
  let plane := p.addr.toNat / 2 ^ 32 % 64
  match s.waiting p.src plane seq with
  | none => (match s.farWaiting p.src plane seq with | some w => s.refuseFar p w faults | none => s)
  | some (key, o, r, _) =>
    match s.strand? key with
    | none => s
    | some st =>
      let bad := r.lanes.filter fun l => faults.any fun f => f.lane == l.1
      let left := r.wait.filter fun w => !faults.any fun f => f.lane == w.2.2
      let gone := r.wait.filter fun w => faults.any fun f => f.lane == w.2.2
      let s := gone.foldl (fun s w => s.dropUnacked r.peer w.1 w.2.1) s
      let s := s.onStrand key fun st => st.onOp o.id fun o =>
        { o with susp := some (0x01, 0x06), group := none, body := .remote { r with wait := left, refused := r.refused ++ bad } }
      if bad.isEmpty then s
      else s.postGroup st.part { recs := refusalRecs faults (s.opRec key st o 0x01 0x06), split := none, op := some (key, o.id) }

/-! ## Flow recovery (R457, R458) -/

/-- Send a packet again on another plane under a new number; what waits for it waits for the new number. -/
def State.resendOn (s : State) (p : Pkt) (plane : Nat) : State :=
  let seq := (s.flow p.dst plane).next
  let waitsFor := s.waiting p.dst p.plane p.seq
  let s := s.send { p with plane := plane }
  let s := s.onFab fun f =>
    { f with notReady := f.notReady.map fun e =>
        if e.sent == some p.seq && e.pkt.samePath p then
          { e with sent := some seq, pkt := { e.pkt with plane := plane } } else e }
  match waitsFor with
  | some (key, o, r, _) =>
    s.onStrand key fun st => st.onOp o.id fun o =>
      { o with body := .remote { r with wait := r.wait.map fun w =>
          if w.1 == p.plane && w.2.1 == p.seq then (plane, seq, w.2.2) else w } }
  | none =>
    { s with far := { s.far with wait := s.far.wait.map fun w =>
        if w.req.dev == p.dst && w.plane == p.plane && w.seq == p.seq then { w with plane := plane, seq := seq } else w } }

/-- The answer to a recovery query (R457): what the receiver performed is done, the rest goes out again on the plane that
R456 now chooses; the old flow's numbers go on from what was performed (assumption 150). -/
def State.recover (s : State) (flow plane : Nat) (performed : Word) : State :=
  let s := s.takeAck flow plane performed
  let rest := (s.flow flow plane).unacked
  let s := s.onFlow flow plane fun f => { f with unacked := [], asking := false, next := performed + 1 }
  rest.foldl (fun s e => s.resendOn e.1 (s.planeFrom e.1.dst e.1.plane)) s

/-- No plane reaches a device. -/
def State.cutOff (s : State) (dev : Nat) : Bool := !(List.range 64).any fun k => s.planeLive dev k

end Sys2Proof.Machine
end

