-- ==== Sys2Proof/Machine/ReduceEv.lean ====
section
/-! DEFINITION. Events of reductions: holds that expire, arrivals at slices and switch-port clasps, refills, node and root
packets and their not-ready answers (R123 to R125, R322 to R326, R460). An event whose condition does not hold changes
nothing. -/

namespace Sys2Proof.Machine

open Sys2Proof

/-! ## Holds in the device -/

/-- CORE_CLASP_HOLD_EXPIRY (R123): a node held 256 cycles goes on to its home slice, where one of a generation that is over is refused
(R225). -/
def execCoreClaspHoldExpiry (core idx : Nat) (s : State) : Host.Outcome State Fault Refusal :=
  event s fun s =>
    match (s.core core).clasp[idx]? with
    | none => s
    | some n =>
      if s.clock.toNat < n.since + 256 then s
      else
        let s := s.coreClaspCheck core
        (s.onCore core fun c => { c with clasp := c.clasp.erase n }).forward core n

/-- NODE_ARRIVAL_SLICE (R124). -/
def execNodeArrivalSlice (idx : Nat) (s : State) : Host.Outcome State Fault Refusal :=
  event s fun s =>
    match s.toSlice[idx]? with
    | none => s
    | some (sl, _) => (s.claspCheck sl).arriveSlice idx

/-- SPILL_REFILL (R125): arrivals take precedence. -/
def execSpillRefill (slice dom : Nat) (s : State) : Host.Outcome State Fault Refusal :=
  event s fun s =>
    match s.doms[dom]? with
    | none => s
    | some d => s.refill slice d

/-- Take a held node out of a slice's clasp. -/
def State.unhold (s : State) (sl : Nat) (n : Node) : State := s.onSlice sl fun x => { x with clasp := x.clasp.erase n }

/-- SLICE_HOLD_EXPIRY (R323): 1024 uncore cycles are 1536 of the arithmetic clock. -/
def execSliceHoldExpiry (slice idx : Nat) (s : State) : Host.Outcome State Fault Refusal :=
  event s fun s =>
    match (s.slice slice).clasp[idx]? with
    | none => s
    | some n =>
      if s.clock.toNat < n.since + 1536 then s
      else
        let s := s.claspCheck slice
        match s.doms.find? fun d => n.of d with
        | none => s
        | some d =>
          match s.role d n.elem with
          | .other home => (s.unhold slice n).sendNode d n home
          | _ => s

/-- POD_HOME_HOLD_EXPIRY (R326). -/
def execPodHomeHoldExpiry (slice idx : Nat) (s : State) : Host.Outcome State Fault Refusal :=
  event s fun s =>
    match (s.slice slice).clasp[idx]? with
    | none => s
    | some n =>
      if s.clock.toNat < n.since + s.us 4 then s
      else
        let s := s.claspCheck slice
        match s.doms.find? fun d => n.of d with
        | none => s
        | some d =>
          match s.role d n.elem with
          | .podHome sys =>
            (s.unhold slice n).sendUet d sys
              (.node n.handle (.ofNat 32 n.elem) n.label (n.val.getD 0) n.val.isNone n.flags)
          | _ => s

/-! ## Switch-port clasps (R323, R460) -/

/-- Key of the clasp of the switch port of a plane that faces a device. -/
def portKey (plane dev : Nat) : Nat := plane * 512 + dev
/-- Nodes held in a port's clasp. -/
def State.portHeld (s : State) (plane dev : Nat) : List Node := mapGet [] s.fabric.portClasps (portKey plane dev)
/-- Change a port's clasp. -/
def State.onPortClasp (s : State) (plane dev : Nat) (f : List Node → List Node) : State :=
  s.onFab fun x => { x with portClasps := mapPut [] x.portClasps (portKey plane dev) (f (mapGet [] x.portClasps (portKey plane dev))) }
/-- A packet that a switch port forms goes out as the next of the port's own flow toward a device, and stays with the port until
acknowledged (R458, R460). -/
def State.portEmit (s : State) (p : Pkt) : State :=
  let k := portFlow p.src p.dst
  let p := { p with seq := (s.flow k p.plane).next }.frame s.boot.etype
  (s.onFlow k p.plane fun f => { f with next := f.next + 1, unacked := f.unacked ++ [(p, s.clock.toNat, 0)] }).onFab fun x =>
    { x with outbox := x.outbox ++ [p] }

/-- A node or root from the switch port of a plane that faces a device: for a device of an incarnation. -/
def State.portSend (s : State) (plane dev dst opc : Nat) (inc : Half) (fabid : Half) (key : DWord) (fl : Half) (payload : List Byte) : State :=
  s.portEmit { opc := opc, plane := plane, src := dev, port := true, dst := dst, tincarn := inc, sincarn := s.incarnOf dev, fabid := fabid
               seq := 0, ack := 0, flags := fl, addr := key, payload := payload }

/-- A port passes a node through to the device it faces, for the incarnation with which it came (R320). -/
def State.passNode (s : State) (plane dev : Nat) (n : Node) : State :=
  s.portSend plane dev dev 6 (n.inc.getD (s.incarnOf dev)) (s.part n.part).fabid (redKey n.handle n.elem) n.flags (nodeBytes n)

/-- A node in the loop of a switch-port clasp (R323, R324): it pairs, is held, or passes through; a root goes to every
participant. A node of the same key and source is one sent again (R460). -/
def State.portGo (s : State) (plane dev : Nat) : Nat → Node → State
  | 0, n => s.passNode plane dev n
  | fuel + 1, n =>
    match s.doms.find? fun d => n.of d with
    | none => s.passNode plane dev n
    | some d =>
      if d.depth ≤ n.level then
        if d.scope = 1 then
          (s.groupList d.part d.group).foldl (fun s m =>
            s.portSend plane dev m.1 7 (.ofNat 16 m.2.1) (s.part d.part).fabid (redKey n.handle n.elem) n.flags (rootBytes n.val)) s
        else s.passNode plane dev n
      else if d.absentAt n.level (n.index ^^^ 1) then s.portGo plane dev fuel n.promote
      else
        let held := s.portHeld plane dev
        match held.find? fun m => m.sibling n with
        | some m => (s.onPortClasp plane dev fun l => l.erase m).portGo plane dev fuel (Node.join d n m)
        | none =>
          if held.any (fun m => n.again m) then s
          else if Config.portClaspEntries ≤ held.length ∨ held.any (fun m => m.sameKey n) then s.passNode plane dev n
          else s.onPortClasp plane dev fun l => l ++ [{ n with since := s.clock.toNat }]

/-- A switch port acknowledges the nodes of a device. -/
def State.portAck (s : State) (dev : Nat) (p : Pkt) (kind : Nat) (ack : Word) : State :=
  let a : Pkt := { opc := 0, plane := p.plane, src := dev, port := true, dst := p.src, tincarn := p.sincarn, sincarn := p.tincarn
                   fabid := p.fabid, seq := 0, ack := ack, flags := 0, addr := .ofNat 64 (p.seq.toNat + 2 ^ 32 * p.plane)
                   payload := [.ofNat 8 kind] }
  s.onFab fun x => { x with outbox := x.outbox ++ [a.frame s.boot.etype] }

/-- A node packet whose turn has come at a switch port: it is accepted and goes through the port's loop. -/
def State.portTake (s : State) (dev : Nat) (p : Pkt) : State :=
  let s := s.portAck dev p 0 p.seq
  match s.partOfFab p.fabid with
  | none => s.portSend p.plane dev dev 6 p.tincarn p.fabid p.addr p.flags p.payload
  | some part => s.portGo p.plane dev 64 { pktNode p part s.clock.toNat with inc := some p.tincarn }

/-- PORT_CLASP_ARRIVAL (R323, R459, R460): of each source device the port accepts node packets in order, each once. -/
def execPortClaspArrival (dev : Nat) (p : Pkt) (s : State) : Host.Outcome State Fault Refusal :=
  event s fun s =>
    if p.opc ≠ 6 ∨ p.port = true ∨ p.dst ≠ dev ∨ s.planeLive dev p.plane = false then s
    else
      let key := 4096 + dev * 512 + p.src
      let next := (s.flow key p.plane).inNext
      if seqBefore p.seq next then s.portAck dev p 2 (next - 1)
      else if p.seq = next then s.takeInTurn key p fun s q => (s.portTake dev q, true)
      else s.keepAhead key p

/-- PORT_CLASP_HOLD_EXPIRY (R323, R467). -/
def execPortClaspHoldExpiry (plane dev idx : Nat) (s : State) : Host.Outcome State Fault Refusal :=
  event s fun s =>
    match (s.portHeld plane dev)[idx]? with
    | none => s
    | some n =>
      if s.clock.toNat < n.since + s.us 2 then s
      else (s.onPortClasp plane dev fun l => l.eraseIdx idx).passNode plane dev n

/-! ## Node and root packets (R324, R325) -/

/-- Answer a node or root packet that is not accepted (R325): not-ready (kind 0) or refused as stale (kind 1). -/
def State.notReadyTo (s : State) (p : Pkt) (kind : Nat) : State :=
  s.emit { s.mkPkt 10 p.src p.plane p.sincarn p.fabid (.ofNat 64 (p.seq.toNat + 2 ^ 32 * p.plane)) (.ofNat 8 kind :: p.portMark) with
           ack := p.seq }

/-- The receiver's record of a switch port's packet that is stale here: once for each generation (R325). -/
def State.staleOnce (s : State) (p : Pkt) (part : Nat) : State :=
  if s.fabric.staleGens.contains (part, redHandle p) then s
  else
    (s.onFab fun f => { f with staleGens := f.staleGens ++ [(part, redHandle p)] }).staleRec part (redHandle p) (redElem p) (redLabel p)

/-- A packet of an ended generation is refused: of a switch port's, the receiver writes the record (R325). -/
def State.refuseStale (s : State) (p : Pkt) (part : Nat) : State :=
  if p.port then (s.notReadyTo p 1).staleOnce p part else s.notReadyTo p 1

/-- A node packet at its target (R325): judged against the receiver's generation; an accepted node goes to its element's home slice. -/
def nodeAct : PktAct := fun p s part =>
  let n := pktNode p part s.clock.toNat
  match s.judge part n.handle with
  | .accepted d => ((s.toHome d n).sendAck p 0, true)
  | .early => (s.notReadyTo p 0, true)
  | .over => (s.refuseStale p part, true)

/-- A root packet at a participant (R324, R325). A final write that does not translate holds the packet back (R431). -/
def rootAct : PktAct := fun p s part =>
  let e := p.addr.toNat / 2 ^ 32
  match s.judge part (.ofNat 32 (p.addr.toNat % 2 ^ 32)) with
  | .accepted d =>
    if d.elems ≤ e ∨ d.written.contains e = true then (s.sendAck p 0, true)
    else
      let sl := s.elemSlice d e
      if (mapGet none d.stuck sl).isSome then (s, false)
      else
        (match s.finalFault d e (pktRoot p) with
          | some (a, sub) => (s.stick d sl a sub, false)
          | none => ((s.takeRoot d e (pktRoot p) p.flags).sendAck p 0, true))
  | .early => (s.notReadyTo p 0, true)
  | .over => (s.refuseStale p part, true)

end Sys2Proof.Machine
end

