-- ==== Sys2Proof/Machine/Ue.lean ====
section
/-! DEFINITION. The Ultra Ethernet endpoint: ring entries taken up, refused, performed, failed and completed (R327, R328,
R469, R470, R472). What UET 1.0 itself gives (segments, credits, cryptography) is outside the spec: an entry goes out as
one packet, and the answers that reach it are events. -/

namespace Sys2Proof.Machine

open Sys2Proof

/-! ## Ring entries (R328) -/

/-- Words of the ring entry at an index of an Ultra Ethernet queue. -/
def State.ueWords (s : State) (part k idx : Nat) : List Nat :=
  let a := s.uef part k 0 8 + 64 * (idx % 2 ^ s.uef part k 8 1)
  (List.range 16).map fun i => s.vread part (a + 4 * i) 4

/-- A field of a ring entry: byte offset and size. -/
def ueField (w : List Nat) (off n : Nat) : Nat :=
  (List.range n).foldr (fun i acc => w.getD ((off + i) / 4) 0 / 2 ^ (8 * ((off + i) % 4)) % 256 + 256 * acc) 0

/-- Operation, peer index, local and remote address, byte count and completion word of an entry. -/
def ueOp (w : List Nat) : Nat := ueField w 0 1
/-- Peer index. -/
def uePeerIdx (w : List Nat) : Nat := ueField w 4 4
/-- Local virtual address. -/
def ueLocal (w : List Nat) : Nat := ueField w 8 8
/-- Remote virtual address. -/
def ueRemote (w : List Nat) : Nat := ueField w 16 8
/-- Bytes. -/
def ueBytes (w : List Nat) : Nat := ueField w 24 4
/-- Completion sync word; 0 none. -/
def ueSync (w : List Nat) : Nat := ueField w 48 8

/-- A field of a partition's peer table entry (R329). -/
def State.uePeer (s : State) (part i off n : Nat) : Nat :=
  s.vread part (bitsOf (mapGet 0 (s.part part).fab 4) 56 0 + 32 * i + off) n
/-- The device of a peer table entry, by pod and id. -/
def State.ueDest (s : State) (part i : Nat) : Nat := s.uePeer part i 16 2 * 512 + s.uePeer part i 18 2 % 512
/-- The IP address of a peer table entry (R329), as its 16 bytes in order. -/
def State.ueIp (s : State) (part i : Nat) : BitVec 128 :=
  .ofNat 128 ((List.range 16).foldl (fun a k => a * 256 + s.uePeer part i k 1) 0)

/-- Does every byte of a run of a partition's memory translate for an access? -/
def State.runOk (s : State) (part : Nat) (acc : Access) (a n : Nat) : Bool :=
  decide (a + n ≤ 2 ^ 57) && s.vok part acc (a + n - 1)
    && (List.range ((n + 4095) / 4096)).all fun i => s.vok part acc (a + 4096 * i)

/-- Does an entry fail the checks of R470? -/
def State.ueBad (s : State) (part : Nat) (w : List Nat) : Bool :=
  let op := ueOp w
  let i := uePeerIdx w
  let n := ueBytes w
  decide (op = 0 ∨ 4 < op ∨ 2 < ueField w 1 1 ∨ 4096 ≤ i ∨ n = 0) || s.uePeer part i 0 32 == 0
    || (decide (3 ≤ op) && decide (n ≠ 8 ∨ ueLocal w % 8 ≠ 0 ∨ ueRemote w % 8 ≠ 0))
    || !s.runOk part (if op = 1 then .read else .write) (ueLocal w) n

/-- The port that serves an entropy value of a queue: of the die's four. -/
def State.uePort (s : State) (part k entropy : Nat) : Nat := 64 + 4 * (s.uef part k 10 1 % 2) + entropy % 4

/-- The entropy of an entry's packet: the entry's own, or under spray one that the endpoint picks (R328, R471). -/
def State.uePick (s : State) (part : Nat) (w : List Nat) (x : Nat) : Nat :=
  if ueField w 3 1 % 2 = 0 then ueField w 2 1 else s.pickEntropy part (uePeerIdx w) x

/-- What an entry asks. -/
def State.ueBody (s : State) (part : Nat) (w : List Nat) : UetBody :=
  let r : VAddr := .ofNat 57 (ueRemote w)
  match ueOp w with
  | 1 => .write r (s.vreadBytes part (ueLocal w) (ueBytes w))
  | 2 => .read r (ueBytes w)
  | 3 => .fetchAdd r (.ofNat 64 (ueField w 32 8))
  | _ => .compareSwap r (.ofNat 64 (ueField w 32 8)) (.ofNat 64 (ueField w 40 8))

/-- The packet of an entry, on an entropy value and in an order of its queue's ROD entries (R327 to R329). -/
def State.uePkt (s : State) (part k idx : Nat) (w : List Nat) (entropy order : Nat) : UetPkt :=
  let i := uePeerIdx w
  { dst := s.ueIp part i, src := Config.deviceIp s.myNum, dstDev := s.ueDest part i, srcDev := s.myNum, job := .ofNat 32 (s.uePeer part i 20 4)
    mode := ueField w 1 1, entropy := entropy, order := order, session := s.boot.incarn, part := part, k := k, idx := idx, body := s.ueBody part w }

/-- The arrival of an entry at its completion sync word (R328, R469). -/
def State.ueArrive (s : State) (part : Nat) (w : List Nat) (n : Nat) : State :=
  if ueSync w = 0 then s else s.vsync part (ueSync w) (.arrive (.ofNat 32 n) 0)

/-- An entry of an Ultra Ethernet queue has been taken up. -/
def State.ueTaken (s : State) (part k : Nat) : State :=
  s.onFab fun f => { f with ueRead := mapPut 0 f.ueRead (64 * part + k) (mapGet 0 f.ueRead (64 * part + k) + 1) }

/-- Must an entry wait for an older one of its queue: an ROD entry for an ROD entry in progress (R328, assumption 114)? -/
def State.ueHeld (s : State) (part k : Nat) (w : List Nat) : Bool :=
  ueField w 1 1 == 2 && s.fabric.ue.any fun u => u.part == part && u.k == k && u.pkt.mode == 2

/-- The endpoint reads the descriptor of a queue, the entry at an index and its peer's table entry (R111, R328, R329). -/
def State.ueSeen (s : State) (part k idx : Nat) : State :=
  let s := s.seen part ((mapGet 0 (s.part part).fab 6).toNat + 64 * k) 64
  let s := s.seen part (s.uef part k 0 8 + 64 * (idx % 2 ^ s.uef part k 8 1)) 64
  s.seen part (bitsOf (mapGet 0 (s.part part).fab 4) 56 0 + 32 * uePeerIdx (s.ueWords part k idx)) 32

/-- Take up the next entry of an Ultra Ethernet queue for an operation: refused (R470), or sent to its peer. -/
def State.ueTake (s : State) (part k op : Nat) : State :=
  let r := s.ueRidx part k
  if k < (s.part part).ueqn ∧ s.ueOk part k = true ∧ s.ueWidx part k ≠ r then
    let s := s.ueSeen part k r.toNat
    let w := s.ueWords part k r.toNat
    if s.ueBad part w then
      ((s.ueTaken part k).postRec part (fabricRec 0x05 0 (s.uePort part k (ueField w 2 1)) 0 k r.toNat 1 0)).ueArrive part w (2 ^ 32 - 1)
    else if ueOp w ≠ op ∨ s.ueHeld part k w = true then s
    else
      let s := if ueOp w = 1 then s.seen part (ueLocal w) (ueBytes w) else s
      let (x, s1) := if ueField w 3 1 % 2 = 1 then s.draw else (0, s)
      let order := mapGet 0 s.fabric.rodSent (64 * part + k) + 1
      let p := s.uePkt part k r.toNat w (s.uePick part w (x.toNat % 256)) order
      (s1.ueTaken part k).onFab fun f =>
        { f with uetOut := f.uetOut ++ [p], rodSent := if p.mode = 2 then mapPut 0 f.rodSent (64 * part + k) order else f.rodSent
                 ue := f.ue ++ [{ part := part, k := k, idx := r.toNat, words := w, resends := 0, since := s.clock.toNat, pkt := p }] }
  else s

/-- The entry in progress with a queue and index. -/
def State.ueEntry? (s : State) (part k idx : Nat) : Option UeEntry :=
  s.fabric.ue.find? fun u => u.part == part && u.k == k && u.idx == idx
/-- Forget an entry. -/
def State.ueDrop (s : State) (u : UeEntry) : State := s.onFab fun f => { f with ue := f.ue.erase u }

/-- Complete an entry (R328): the data that came are written, then the arrival of the byte count. -/
def State.ueDone (s : State) (u : UeEntry) (data : List Byte) : State :=
  let s := s.ueDrop u
  if u.k = 64 then s
  else
    let s := if ueOp u.words = 1 then s else s.vwriteBytes u.part (ueLocal u.words) data
    s.ueArrive u.part u.words (ueBytes u.words)

/-- Fail an entry (R469): FABRIC 0x06 and the arrival of 0xFFFF_FFFF bytes; one of the endpoint's own closes its generation
(R472). -/
def State.ueFail (s : State) (u : UeEntry) (detail : Nat) : State :=
  let s := s.ueDrop u
  let port := if u.k = 64 then 64 else s.uePort u.part u.k u.pkt.entropy
  let dev := u.pkt.dstDev % 512
  let s := s.postRec u.part (fabricRec 0x06 detail port 0 u.k u.idx 1 (if detail = 6 then peerVal dev (s.peer dev).incarn else 0))
  if u.k = 64 then
    match s.dom? u.part (.ofNat 32 (u.words.getD 0 0)) with
    | some d => if d.complete then s else s.closeDom d (domRec 0x05 d.handle d.lowestOpen 1 (BitVec.allOnes 64) 0)
    | none => s
  else s.ueArrive u.part u.words (2 ^ 32 - 1)

/-- The entries toward a device of this pod fail when it is lost (R469). -/
def State.uePeerLost (s : State) (dev : Nat) : State :=
  (s.fabric.ue.filter fun u => u.pkt.dstDev == s.boot.pod.toNat * 512 + dev).foldl (fun s u => s.ueFail u 6) s

/-- The peer of an entry, as its losses are counted (R471). -/
def UeEntry.peer (u : UeEntry) : Nat := if u.k = 64 then 4096 + u.pkt.dstDev else uePeerIdx u.words

/-- Note whether a packet toward a peer on an entropy value was lost: one that has lost 4 of its last 64 is excluded for 1 ms
(R471). -/
def State.noteLoss (s : State) (part peer e : Nat) (lost : Bool) : State :=
  let key := (part, peer, e)
  let l := (lost :: ((s.fabric.losses.find? fun x => x.1 == key).elim [] fun x => x.2)).take 64
  let bad : Bool := lost && decide (4 ≤ (l.filter id).length)
  s.onFab fun f =>
    { f with losses := (f.losses.filter fun x => x.1 != key) ++ [(key, l)]
             excluded := if bad then f.excluded ++ [(part, peer, e, s.clock.toNat + s.us 1000)] else f.excluded }

/-- Does the endpoint pick an entry's entropy itself (R328)? -/
def UeEntry.sprays (u : UeEntry) : Bool := u.k == 64 || ueField u.words 3 1 % 2 == 1

/-- Retransmit an entry's packet (R469), counted at its port, under spray on an entropy picked anew (R471); after 16 retransmissions
the entry fails. -/
def State.ueAgain (s : State) (u : UeEntry) : State :=
  if 16 ≤ u.resends ∨ u.since + s.us 50000 ≤ s.clock.toNat then s.ueFail u 4
  else
    let port := if u.k = 64 then 64 else s.uePort u.part u.k u.pkt.entropy
    let s := (s.onPort port fun q => { q with ueRetx := q.ueRetx + 1 }).noteLoss u.part u.peer u.pkt.entropy true
    let p := if u.sprays then { u.pkt with entropy := s.pickEntropy u.part u.peer u.pkt.entropy } else u.pkt
    s.onFab fun f =>
      { f with uetOut := f.uetOut ++ [p], ue := f.ue.map fun x => if x = u then { x with resends := x.resends + 1, pkt := p } else x }

/-- A node or root of the endpoint is stale at its target, or was too long not ready there: it is gone, and DOMAIN 0x06 says so
(R325). -/
def State.ueStale (s : State) (u : UeEntry) : State :=
  let s := s.ueDrop u
  match u.pkt.body with
  | .node h e label .. => s.staleRec u.part h e.toNat label
  | .root h e .. => s.staleRec u.part h e.toNat (BitVec.allOnes 64)
  | _ => s

end Sys2Proof.Machine
end

