-- ==== Sys2Proof/Machine/FabricEv.lean ====
section
/-! DEFINITION. Events of the Chaelo fabric: acknowledgments, remote accesses performed here and answered, not-ready
resends, flow recovery, announcements and lost peers (R316 to R325, R454 to R467), and of its links (R312, R454, R455).
An event whose condition does not hold changes nothing. -/

namespace Sys2Proof.Machine

open Sys2Proof

/-! ## Packets -/

/-- Is a packet an answer to this device of a kind that an acknowledgment's payload tells (assumption 21)? -/
def State.answerHere (s : State) (p : Pkt) (opc kind : Nat) : Bool :=
  p.opc == opc && p.dst == s.boot.devid.toNat && p.tincarn == s.boot.incarn && (p.payload.getD 0 0).toNat == kind
    && p.payload.getD 1 0 == 0

/-- Is a packet an answer of a kind to a switch port (assumption 21): the one that faces its destination? -/
def portAnswer (p : Pkt) (opc kind : Nat) : Bool := p.opc == opc && (p.payload.getD 0 0).toNat == kind && p.payload.getD 1 0 == 1

/-- The sequence number that an answer names. -/
def answerSeq (p : Pkt) : Word := .ofNat 32 (p.addr.toNat % 2 ^ 32)
/-- The plane that an answer names. -/
def answerPlane (p : Pkt) : Nat := p.addr.toNat / 2 ^ 32 % 64

/-- Post a record of a packet to the partition of its FABID, or to every one. -/
def State.postFab (s : State) (p : Pkt) (r : Rec) : State :=
  match s.partOfFab p.fabid with | some n => s.postRec n r | none => s.postAll r

/-- Count a duplicate, and record it at most once a millisecond for each flow (R459). -/
def State.spurious (s : State) (p : Pkt) (flow : Nat) : State :=
  let s := s.onPort p.plane fun q => { q with spurious := q.spurious + 1 }
  let f := s.flow flow p.plane
  let due := match f.dupAt with | some t => decide (t + s.us 1000 ≤ s.clock.toNat) | none => true
  if due then
    (s.onFlow flow p.plane fun f => { f with dupAt := some s.clock.toNat, dupCount := 0 }).postFab p
      (fabricRec 0x03 0 p.plane p.plane 0 (answerSeq p).toNat (f.dupCount + 1) 0)
  else s.onFlow flow p.plane fun f => { f with dupCount := f.dupCount + 1 }

/-- ACK (R316, R459). -/
def execAck (p : Pkt) (dup : Bool) (s : State) : Host.Outcome State Fault Refusal :=
  event s fun s => s.framed p fun s =>
    if portAnswer p 0 0 || portAnswer p 0 2 then s.takeAck (portFlow p.dst p.src) p.plane p.ack
    else if s.answerHere p 0 0 || s.answerHere p 0 2 then
      let flow := if p.port then 512 + p.src else p.src
      let s := s.takeAck flow p.plane p.ack
      if dup || s.answerHere p 0 2 then s.spurious p flow else s
    else s

/-- What a memory packet does at its target (R238, R317, R319, R321), what a response does at the issuer, and what a node or root does
(R324, R325). -/
def pktAct : PktAct := fun p s part =>
  match p.opc with
  | 1 =>
    let n := (p.payload.getD 0 0).toNat
    (s.remoteAt p part n .read true fun s pl a => let (v, s) := s.rdAcc pl a n; s.respond p 2 (bytesOf n v), true)
  | 2 | 5 => ((s.takeResponse p).sendAck p 0, true)
  | 3 =>
    let l := storedBytes p.payload
    (s.remoteAt p part l.length .write false fun s pl a => s.wrAcc pl a l.length (bytesVal l), true)
  | 4 =>
    let op := AtmOp.ofCode (p.payload.getD 0 0).toNat
    let t := (Ty.ofCode (p.payload.getD 1 0).toNat).getD .b32
    let c := bytesVal ((p.payload.drop 2).take 8)
    let e := bytesVal ((p.payload.drop 10).take 8)
    (s.remoteAt p part t.bytes .write true fun s pl a =>
      let (old, s) := s.rdAcc pl a t.bytes
      (s.wrAcc pl a t.bytes (atmNew op t old c e)).respond p 5 (bytesOf t.bytes old), true)
  | 6 => nodeAct p s part
  | 7 => rootAct p s part
  | 8 => (s.remoteAt p part 8 .write true fun s pl a => s.syncAt pl a (.add (.ofNat 64 (bytesVal p.payload))), true)
  | 9 =>
    let d := bytesVal p.payload
    (s.remoteAt p part 8 .write true fun s pl a =>
      s.syncAt pl a (.arrive (.ofNat 32 (d % 2 ^ 32)) (.ofNat 16 (d / 2 ^ 32))), true)
  | _ => (s, true)

/-- A packet of an operation arrives. -/
def State.arrivesAs (s : State) (opc : Nat) (p : Pkt) : State := if p.opc = opc then s.recv pktAct p else s

/-- LOAD_REQUEST (R317, R319). -/
def execLoadRequest (p : Pkt) (s : State) : Host.Outcome State Fault Refusal := event s fun s => s.arrivesAs 1 p
/-- LOAD_RESPONSE (R317). -/
def execLoadResponse (p : Pkt) (s : State) : Host.Outcome State Fault Refusal := event s fun s => s.arrivesAs 2 p
/-- STORE_PACKET (R317, R321). -/
def execStorePacket (p : Pkt) (s : State) : Host.Outcome State Fault Refusal := event s fun s => s.arrivesAs 3 p
/-- ATOMIC_REQUEST (R238): performed as the local atomic is. -/
def execAtomicRequest (p : Pkt) (s : State) : Host.Outcome State Fault Refusal := event s fun s => s.arrivesAs 4 p
/-- ATOMIC_RESPONSE (R238). -/
def execAtomicResponse (p : Pkt) (s : State) : Host.Outcome State Fault Refusal := event s fun s => s.arrivesAs 5 p
/-- NODE_PACKET (R325): judged against the receiver's generation; an accepted node goes to its element's home slice. -/
def execNodePacket (p : Pkt) (s : State) : Host.Outcome State Fault Refusal := event s fun s => s.arrivesAs 6 p
/-- ROOT_PACKET (R324, R325). A final write that does not translate holds the packet back (R431). -/
def execRootPacket (p : Pkt) (s : State) : Host.Outcome State Fault Refusal := event s fun s => s.arrivesAs 7 p
/-- COUNTER_SIGNAL (R238). -/
def execCounterSignal (p : Pkt) (s : State) : Host.Outcome State Fault Refusal := event s fun s => s.arrivesAs 8 p
/-- SYNC_ARRIVAL (R238). -/
def execSyncArrival (p : Pkt) (s : State) : Host.Outcome State Fault Refusal := event s fun s => s.arrivesAs 9 p

/-- STALE_ANSWER (R463): the operation, or the node or root, fails with the incarnation that the answer carries. -/
def execStaleAnswer (p : Pkt) (s : State) : Host.Outcome State Fault Refusal :=
  event s fun s => s.framed p fun s =>
    if portAnswer p 0 1 then s.dropUnacked (portFlow p.dst p.src) (answerPlane p) (answerSeq p)
    else if !s.answerHere p 0 1 then s
    else
      match s.sentPkt p.src (answerPlane p) (answerSeq p) with
      | none => s
      | some (flow, q) =>
        let w := s.waiting p.src (answerPlane p) (answerSeq p)
        let s := s.dropUnacked flow (answerPlane p) (answerSeq p)
        match w with
        | some (key, o, r, _) => s.failRemote key o r 0x05 (peerVal p.src p.sincarn)
        | none =>
          match s.farWaiting p.src (answerPlane p) (answerSeq p) with
          | some w => s.failFar w 0x05 (peerVal p.src p.sincarn)
          | none => if q.opc = 6 ∨ q.opc = 7 then s.failNode q 0x05 (peerVal p.src p.sincarn) else s

/-- REFUSED_ANSWER (R465). -/
def execRefusedAnswer (p : Pkt) (faults : List PeerFault) (s : State) : Host.Outcome State Fault Refusal :=
  event s fun s => s.framed p fun s => if s.answerHere p 0 3 then s.takeRefusal p faults else s

/-! ## Not-ready answers (R325) -/

/-- A packet that is stale at its receiver, or too long not ready there: the node is gone. Of this device's packets it writes the
record; of a switch port's the receiver does (R325). -/
def State.dropStalePkt (s : State) (q : Pkt) : State :=
  match s.partOfFab q.fabid with
  | some part =>
    if q.port then (if q.dst = s.boot.devid.toNat then s.staleOnce q part else s)
    else s.staleRec part (redHandle q) (redElem q) (redLabel q)
  | none => s

/-- NOT_READY (R325): the packet waits with its sender to be sent again; one refused as stale is never sent again. -/
def execNotReady (p : Pkt) (s : State) : Host.Outcome State Fault Refusal :=
  event s fun s => s.framed p fun s =>
    let toPort := portAnswer p 10 0 || portAnswer p 10 1
    if !(toPort || s.answerHere p 10 0 || s.answerHere p 10 1) then s
    else
      match s.sentPkt (if toPort then portFlow p.dst p.src else p.src) (answerPlane p) (answerSeq p) with
      | none => s
      | some (flow, q) =>
        let s := s.dropUnacked flow (answerPlane p) (answerSeq p)
        let mine (e : NotReady) : Bool := e.sent == some (answerSeq p) && e.pkt.samePath q
        if (p.payload.getD 0 0).toNat = 1 then
          let s := s.onFab fun f => { f with notReady := f.notReady.filter fun e => !mine e }
          if toPort then s else s.dropStalePkt q
        else if s.fabric.notReady.any mine then
          s.onFab fun f =>
            { f with notReady := f.notReady.map fun e => if mine e then { e with sent := none, last := s.clock.toNat } else e }
        else
          s.onFab fun f =>
            { f with notReady := f.notReady ++ [{ pkt := q, since := s.clock.toNat, last := s.clock.toNat, sent := none }] }

/-- Entries of the endpoint that wait with a node or root that is not ready at its target (R325, R326). -/
def State.ueEarly (s : State) : List (UeEntry × Nat × Nat) := s.fabric.ue.filterMap fun u => u.early.map fun t => (u, t)

/-- NOT_READY_RESEND (R325): the packets of the fabric come first, then those of the endpoint. -/
def execNotReadyResend (idx : Nat) (s : State) : Host.Outcome State Fault Refusal :=
  event s fun s =>
    match s.fabric.notReady[idx]? with
    | none =>
      (match s.ueEarly[idx - s.fabric.notReady.length]? with
        | some (u, _, t) =>
          if s.clock.toNat < t + s.us 1 then s
          else s.onFab fun f =>
            { f with uetOut := f.uetOut ++ [u.pkt]
                     ue := f.ue.map fun x => if x = u then { x with early := x.early.map fun t => (t.1, s.clock.toNat) } else x }
        | none => s)
    | some e =>
      if e.sent.isSome ∨ s.clock.toNat < e.last + s.us 1 then s
      else
        let flow := if e.pkt.port then portFlow e.pkt.src e.pkt.dst else e.pkt.dst
        let seq := (s.flow flow e.pkt.plane).next
        (if e.pkt.port then s.portEmit e.pkt else s.send e.pkt).onFab fun f =>
          { f with notReady := f.notReady.set idx { e with sent := some seq } }

/-- NOT_READY_TIMEOUT (R325): after 1 ms the packet is reported as stale. -/
def execNotReadyTimeout (idx : Nat) (s : State) : Host.Outcome State Fault Refusal :=
  event s fun s =>
    match s.fabric.notReady[idx]? with
    | none =>
      (match s.ueEarly[idx - s.fabric.notReady.length]? with
        | some (u, t, _) => if s.clock.toNat < t + s.us 1000 then s else s.ueStale u
        | none => s)
    | some e =>
      if e.sent.isSome ∨ s.clock.toNat < e.since + s.us 1000 then s
      else (s.onFab fun f => { f with notReady := f.notReady.eraseIdx idx }).dropStalePkt e.pkt

/-! ## Planes and peers (R456 to R458, R462, R466) -/

/-- Ask a device over another live plane how far it has performed an old flow (R457), where packets of it are unacknowledged; with no
plane to it the question waits for one. -/
def State.askRecovery (s : State) (dev plane : Nat) : State :=
  if (s.flow dev plane).unacked.isEmpty then s
  else
    let s := s.onFlow dev plane fun f => { f with asking := true }
    if s.cutOff dev then s
    else s.emit (s.mkPkt 0 dev (s.planeFrom dev plane) (s.incarnOf dev) 0 (.ofNat 64 (2 ^ 32 * plane)) [5])

/-- Note since when no plane reaches a device (R462). -/
def State.noteCut (s : State) (dev : Nat) : State :=
  s.onPeer dev fun q => { q with cutAt := if s.cutOff dev then some (q.cutAt.getD s.clock.toNat) else none }

/-- The flows toward a device on a plane recover (R457): node packets under way to the plane's switch port go straight to the device
(R323). -/
def State.flowGone (s : State) (dev plane : Nat) : State :=
  let rest := (s.flow (512 + dev) plane).unacked
  let s := s.onFlow (512 + dev) plane fun f => { f with unacked := [] }
  let s := rest.foldl (fun s e => s.resendOn e.1 (s.planeFrom dev plane)) s
  (s.askRecovery dev plane).noteCut dev

/-- The switch port of a plane that faces a device loses its nodes, those on its own flows among them (R466, R467). -/
def State.portGone (s : State) (dev plane : Nat) : State :=
  let ends (src dst : Nat) : Bool := src == dev || dst == dev
  (s.onPortClasp plane dev fun _ => []).onFab fun f =>
    { f with flows := f.flows.filter fun e =>
               !(e.1 % 64 == plane && decide (2 ^ 20 ≤ e.1 / 64) && ends (e.1 / 64 / 512 - 2 ^ 11) (e.1 / 64 % 512))
             notReady := f.notReady.filter fun e => !(e.pkt.port && e.pkt.plane == plane && ends e.pkt.src e.pkt.dst) }

/-- A plane has stopped being live for a device: its switch-port clasp there is lost, generations that it serves close
(R466), and its flows recover (R457). -/
def State.planeGone (s : State) (dev plane : Nat) : State := ((s.planeLost dev plane).portGone dev plane).flowGone dev plane

/-- RECOVERY_QUERY (R457): no more of the old flow is performed; the answer names what has been. -/
def execRecoveryQuery (dev plane via : Nat) (s : State) : Host.Outcome State Fault Refusal :=
  event s fun s =>
    if s.planeUp via ∧ s.fabricOn = true then
      let s := s.onFlow dev plane fun f => { f with recovering := true, ahead := [] }
      s.emit { s.mkPkt 0 dev via (s.incarnOf dev) 0 (.ofNat 64 (2 ^ 32 * plane)) [4] with ack := (s.flow dev plane).inNext - 1 }
    else s

/-- RECOVERY_ANSWER (R457). -/
def execRecoveryAnswer (dev plane : Nat) (performed : Word) (s : State) : Host.Outcome State Fault Refusal :=
  event s fun s => if !(s.flow dev plane).asking || !s.fabricOn then s else s.recover dev plane performed

/-- A peer is lost (R462). -/
def State.losePeer (s : State) (dev : Nat) : State :=
  ((s.onPeer dev fun q => { q with lost := true }).failPeer dev (s.peer dev).incarn).uePeerLost dev

/-- A packet goes out again as it was sent (R458). -/
def State.sendAgain (s : State) (p : Pkt) : State := if p.port then s.onFab fun f => { f with outbox := f.outbox ++ [p] } else s.emit p

/-- RECOVERY_TIMER_EXPIRY (R458): of a packet toward a device, or on a switch port's own flow, by its number. Where its plane is not
live the flow's recovery is asked for again (R457); after 8 resends the plane counts as not live for that device. -/
def execRecoveryTimerExpiry (dev plane : Nat) (seq : Word) (s : State) : Host.Outcome State Fault Refusal :=
  event s fun s =>
    match s.sentPkt dev plane seq with
    | none => s
    | some (flow, _) =>
      match (s.flow flow plane).unacked.find? fun e => e.1.seq == seq with
      | none => s
      | some (p, t, n) =>
        let d := dev % 512
        let again (m : Nat) : State := s.onFlow flow plane fun f =>
          { f with unacked := f.unacked.map fun e => if e.1.seq == seq then (e.1, s.clock.toNat, m) else e }
        if s.clock.toNat < t + s.us (if n = 0 then 60 else 120) then s
        else if s.planeLive d plane = false ∨ (s.flow flow plane).asking = true then (if p.port then s else (again n).flowGone d plane)
        else if n < 8 then (again (n + 1)).sendAgain p
        else if p.port then s.portGone d plane
        else (s.onPeer d fun q => { q with dead := q.dead ||| (1#64 <<< plane) }).flowGone d plane

/-- PEER_LOST_TIMEOUT (R462): no plane has reached the device for 2 ms, or nothing has been heard of it. -/
def execPeerLostTimeout (dev : Nat) (s : State) : Host.Outcome State Fault Refusal :=
  event s fun s =>
    let q := s.peer dev
    let due (t : Nat) : Bool := decide (t + s.us 2000 ≤ s.clock.toNat)
    if dev = s.boot.devid.toNat ∨ q.lost = true ∨ (due q.heard || q.cutAt.any due) = false then s else s.losePeer dev

/-- LIVE_PLANE_ANNOUNCEMENT (R456, R462): planes that are gone from it are lost for the device (R466), whatever this device's own port
does; flows on planes that it brings start afresh (assumption 150). -/
def execLivePlaneAnnouncement (dev : Nat) (incarn : Half) (planes : DWord) (s : State) : Host.Outcome State Fault Refusal :=
  event s fun s =>
    if dev = s.boot.devid.toNat ∨ s.fabricOn = false then s
    else
      let q := s.peer dev
      let fresh : Bool := q.incarn != 0 && q.incarn != incarn
      let gone := (List.range 64).filter fun k => q.planes.getLsbD k && !planes.getLsbD k
      let came := (List.range 64).filter fun k => planes.getLsbD k && !q.planes.getLsbD k
      let s := s.onPeer dev fun q => { q with incarn := incarn, planes := planes, lost := false, heard := s.clock.toNat
                                              dead := if fresh then 0 else q.dead &&& planes }
      let s := if fresh then (s.failPeer dev incarn).uePeerLost dev else s
      let s := came.foldl (fun s k => if (s.flow dev k).recovering then s.onFlow dev k fun f => { f with recovering := false } else s) s
      let s := gone.foldl (fun s k => s.planeGone dev k) s
      let asking := (s.fabric.flows.filter fun e => e.1 / 64 == dev && e.2.asking).map fun e => e.1 % 64
      ((if came.isEmpty then [] else asking).foldl (fun s k => s.askRecovery dev k) s).noteCut dev

/-- ANNOUNCEMENT_TIMER (R456): the live planes go to every device of the pod over every live plane. -/
def execAnnouncementTimer (s : State) : Host.Outcome State Fault Refusal :=
  event s fun s =>
    let live := (List.range 64).filter fun k => s.planeUp k && s.fabricOn
    let mask := live.foldl (fun a k => a + 2 ^ k) 0
    let devs := (List.range 512).filter fun d => d != s.boot.devid.toNat
    let s := live.foldl (fun s k =>
      devs.foldl (fun s d => s.emit (s.mkPkt 0 d k (s.incarnOf d) 0 0 (6 :: bytesOf 8 mask))) s) s
    s.onFab fun f => { f with announced := s.clock.toNat }

/-! ## Links (R312, R454, R455) -/

/-- Is a port of the Chaelo fabric? -/
def chaelo (port : Nat) : Bool := decide (port < 64)

/-- A port goes down (R455): its plane is no longer live here; port 63 of a bridge device has none (R331). -/
def State.downPort (s : State) (port detail : Nat) : State :=
  if (s.port port).up = false ∧ (s.port port).trained = false ∧ (s.port port).lanes = 0 then s
  else
    let s := s.onPort port fun q => { q with up := false, trained := false, lanes := 0 }
    let s := s.postAll (fabricRec 0x02 detail port 0 0 0 1 0)
    if chaelo port && !(port == 63 && s.isBridge) then
      let s := (s.planeLost s.boot.devid.toNat port).portGone s.boot.devid.toNat port
      let devs := ((s.fabric.flows.filter fun e => decide (e.1 % 64 = port ∧ e.1 / 64 < 1024)).map fun e => e.1 / 64 % 512).eraseDups
      let s := devs.foldl (fun s d => s.flowGone d port) s
      s.fabric.peers.foldl (fun s e => s.noteCut e.1) s
    else s

/-- A lane of a Chaelo port fails (R455): the port retrains on the other lane, or goes down. Of an Ultra Ethernet port's four lanes
the spec tells no loss (R312). -/
def State.loseLane (s : State) (port lane : Nat) : State :=
  let q := s.port port
  if !chaelo port || !q.up then s
  else if q.lanes = 2 then
    (s.onPort port fun q => { q with lanes := 1, trained := false }).postAll (fabricRec 0x01 1 port (lane % 2) 0 0 1 0)
  else s.downPort port 1

/-- LANE_LOSS (R455). -/
def execLaneLoss (port lane : Nat) (s : State) : Host.Outcome State Fault Refusal := event s fun s => s.loseLane port lane

/-- FRAME_CRC_FAILURE (R454): a frame received bad is answered with a negative acknowledgment, and the retry is counted; a frame that fails again takes a lane with it, which one the spec leaves
open. -/
def execFrameCrcFailure (port : Nat) (again : Bool) (s : State) : Host.Outcome State Fault Refusal :=
  event s fun s =>
    if (s.port port).up = false then s
    else if again then
      let (x, s) := s.draw
      s.loseLane port (x.toNat % 2)
    else (s.onPort port fun q => { q with crcRetry := q.crcRetry + 1 }).onFab fun f => { f with naks := f.naks ++ [port] }

/-- Send the frames of a port's replay buffer again, from one on (R454, R455). -/
def State.replayFrom (s : State) (port frame : Nat) : State :=
  s.onFab fun f => { f with outbox := f.outbox ++ (s.port port).replay.drop frame }

/-- NEGATIVE_ACKNOWLEDGMENT (R454). -/
def execNegativeAcknowledgment (port frame : Nat) (s : State) : Host.Outcome State Fault Refusal :=
  event s fun s =>
    if (s.port port).up then (s.onPort port fun q => { q with crcRetry := q.crcRetry + 1 }).replayFrom port frame else s

/-- LANE_RETRAIN_DONE (R455). -/
def execLaneRetrainDone (port : Nat) (s : State) : Host.Outcome State Fault Refusal :=
  event s fun s =>
    let q := s.port port
    if q.up && !q.trained then (s.onPort port fun q => { q with trained := true }).replayFrom port 0 else s

/-- PORT_DOWN (R455). -/
def execPortDown (port detail : Nat) (s : State) : Host.Outcome State Fault Refusal :=
  event s fun s => s.downPort port detail

/-- LINK_TRAINING_COMPLETE (R312): the port carries traffic; a port that went down stays down until reset (R455). -/
def execLinkTrainingComplete (port : Nat) (s : State) : Host.Outcome State Fault Refusal :=
  event s fun s =>
    let q := s.port port
    if port < 72 ∧ q.up = false ∧ 0 < q.lanes ∧ s.fabricOn = true then s.onPort port fun q => { q with trained := true, up := true } else s

end Sys2Proof.Machine
end

