-- ==== Sys2Proof/Machine/FaultEv.lean ====
section
/-! DEFINITION. Events of fault delivery: the fault ring and its two registers, and the patrol scrub (R365 to R369, R375,
R423). An event whose condition does not hold changes nothing. -/

namespace Sys2Proof.Machine

open Sys2Proof

/-! ## The ring (R365, R367, R369) -/

/-- The 64 bytes of a record, as a number: `more` records of its group follow. -/
def Rec.bits (r : Rec) (part more : Nat) : Nat :=
  let loc := match r.strand with | some k => coreOf k % 256 + 2 ^ 8 * (k / 32 % 4) + 2 ^ 10 * (k % 32) + 2 ^ 15 | none => r.core.getD 0 % 256
  r.cls % 256 + 2 ^ 8 * (r.sub % 256)
    + 2 ^ 16 * (part % 16 + (if r.precise then 16 else 0) + 32 * (r.outcome % 4) + if r.op.isSome then 128 else 0)
    + 2 ^ 24 * min 255 more + 2 ^ 32 * loc + 2 ^ 48 * (r.op.getD 0).toNat + 2 ^ 64 * r.rcb.toNat + 2 ^ 96 * r.version.toNat
    + 2 ^ 112 * (match r.decision with | some d => d % 8 + 8 | none => 0) + 2 ^ 120 * min 255 r.retries
    + 2 ^ 128 * (if r.strand.isSome then r.pc.toNat else 0) + 2 ^ 192 * r.addr.toNat + 2 ^ 256 * r.mask.toNat

/-- Address of the fault ring (R367). -/
def State.ringAt (s : State) (part : Nat) : Nat := (s.part part).vbase 13
/-- The ring's write index (R367). -/
def State.ringIdx (s : State) (part : Nat) : Word := .ofNat 32 (s.vread part (s.ringAt part + 8) 4)
/-- Records that the ring has room for (R369). -/
def State.ringRoom (s : State) (part : Nat) : Nat :=
  let p := s.part part
  2 ^ p.ringLog - (s.ringIdx part - p.frread).toNat

/-- Write one record at an index of the ring. -/
def State.writeRec (s : State) (part : Nat) (w : Word) (r : Rec) (more : Nat) : State :=
  let a := s.ringAt part + 64 + 64 * (w.toNat % 2 ^ (s.part part).ringLog)
  (List.range 8).foldl (fun s i => s.vwrite part (a + 8 * i) 8 (r.bits part more / 2 ^ (64 * i) % 2 ^ 64)) s

/-- The queue whose work a record is about, if any: its strand's, or the one a SCHED record names (R275, R447). -/
def State.recQueue (s : State) (r : Rec) : Option Nat :=
  match (r.strand.bind s.strand?).bind fun st => s.wg? st.wg with
  | some w => some w.queue
  | none => if r.cls = 0x08 ∧ r.sub ≠ 0x02 then some (r.mask.toNat / 2 ^ 32 % 2 ^ 16) else none

/-- Count a record in its queue's fault count (R275). -/
def State.countFault (s : State) (part : Nat) (r : Rec) : State :=
  match s.recQueue r with
  | some q => if (s.part part).ownsQueue q then s.setQf part q 40 4 ((s.qf part q 40 4 + 1) % 2 ^ 32) else s
  | none => s

/-- TINFO with the group's start in RSEQ (R370). -/
def withRseq (tinfo : DWord) (w : Word) : DWord :=
  (tinfo &&& ~~~(0xFFFF0000 : DWord)) ||| .ofNat 64 (w.toNat % 2 ^ 16 * 2 ^ 16)

/-- A parked split learns where its group begins. -/
def State.groupSplit (s : State) (key slot : Nat) (w : Word) : State :=
  s.onStrand key fun st =>
    let st := st.onSplit slot fun sp => { sp with park := sp.park.map fun p => { p with group := some w } }
    if (st.split slot).park.isSome ∧ st.ctx.tcause.toNat / 2 ^ 16 % 4 = slot then
      st.onCtx fun c => { c with tinfo := withRseq c.tinfo w }
    else st

/-- A suspended operation, with the members of its joint operation suspended with it and every split parked for one of them, learns
where its group begins (R375, R380). -/
def State.groupOp (s : State) (part key op : Nat) (w : Word) : State :=
  (s.mates part key op).foldl (fun s m =>
    let s := s.onStrand m.1 fun st => st.onOp m.2 fun o => if o.susp.isSome then { o with group := some w } else o
    match s.strand? m.1 with
    | none => s
    | some st =>
      (List.range 4).foldl (fun s i =>
        if ((st.split i).park.bind fun p => p.op) = some m.2 then s.groupSplit m.1 i w else s) s) s

/-- A suspended write of a domain learns where its group begins (R431). -/
def State.groupDom (s : State) (part : Nat) (h : Word) (sl : Nat) (w : Word) : State :=
  { s with doms := s.doms.map fun d =>
      if d.part == part && d.handle == h && (mapGet none d.stuck sl).isSome then
        { d with stuck := mapPut none d.stuck sl (some (some w)) } else d }

/-- Write a group whole, then the write index and the message of cause 0 (R369). -/
def State.writeGroup (s : State) (part : Nat) (g : Group) : State :=
  let w := s.ringIdx part
  let k := g.recs.length
  let s := g.recs.zipIdx.foldl (fun s e => (s.writeRec part (w + .ofNat 32 e.2) e.1 (k - 1 - e.2)).countFault part e.1) s
  let s := s.vwrite part (s.ringAt part + 8) 4 (w + .ofNat 32 k).toNat
  let s := s.interrupt part 0
  let s := match g.split with | some (key, slot) => s.groupSplit key slot w | none => s
  let s := match g.op with | some (key, op) => s.groupOp part key op w | none => s
  let s := g.due.foldl (fun s d => s.onStrand d.1 fun st => { st with dueAt := st.dueAt ++ [(d.2, w)] }) s
  match g.dom with | some (h, sl) => s.groupDom part h sl w | none => s

/-- Drop a group whose producer cannot wait (R369). -/
def State.dropGroup (s : State) (part : Nat) (g : Group) : State :=
  let a := s.ringAt part + 12
  s.vwrite part a 4 (min (2 ^ 32 - 1) (s.vread part a 4 + g.recs.length))

/-- Can the producer of a group wait for room? -/
def Group.waits (g : Group) : Bool := g.split.isSome || g.op.isSome || g.dom.isSome

/-- The first group that is to be written or dropped now: one that waits for room holds no other back. -/
def groupNow (room : Nat) : List Group → Option Group
  | [] => none
  | g :: t => if g.recs.length ≤ room || !g.waits then some g else groupNow room t

/-- FAULT_GROUP_WRITE (R369). -/
def execFaultGroupWrite (part : Nat) (s : State) : Host.Outcome State Fault Refusal :=
  event s fun s =>
    match groupNow (s.ringRoom part) (s.part part).groups with
    | none => s
    | some g =>
      let s' := s.onPart part fun p => { p with groups := p.groups.erase g }
      let t := if g.recs.length ≤ s.ringRoom part then s'.writeGroup part g else s'.dropGroup part g
      match g.pkt with | some (q, idx) => t.releasePkt part q idx | none => t

/-- FRREAD_WRITE (R368). -/
def execFrreadWrite (part : Nat) (w : Word) (s : State) : Host.Outcome State Fault Refusal := event s fun s => s.frread part w
/-- FRRESUME_WRITE (R375). -/
def execFrresumeWrite (part : Nat) (w : Word) (s : State) : Host.Outcome State Fault Refusal :=
  event s fun s => s.frresume part w

/-! ## The patrol scrub (R422, R423) -/

/-- The partition that a word of main memory or of a vault belongs to. -/
def State.ownerOf (s : State) (p : Place) (a : Nat) : Option Nat :=
  if p = .vault then s.partOfCore (a / Config.vaultBytes)
  else (s.parts.find? fun e => decide (e.2.memlo ≤ a ∧ a < e.2.memhi)).map (·.1)

/-- PATROL_SCRUB (R422, R423): an uncorrectable word is treated with no reader; a loss is routed to the policy. -/
def execPatrolScrub (space : Space) (addr : Nat) (s : State) : Host.Outcome State Fault Refusal :=
  event s fun s =>
    let p : Place := match space with | .global => .flostra | .spad => .spad | .vault => .vault
    if space = .spad then s
    else
      match s.upsetAt p addr 1, s.ownerOf p addr with
      | some u, some part => s.lossAlone part u
      | _, _ => s

/-- The L2 writes a line back, or lets go of a clean one (R16, R421): a word lost in a dirty line is found then, and the loss
pattern goes to main memory. -/
def State.writeBack (s : State) (line : Nat) : State :=
  (s.upsets.filter fun u => u.place == .flostra && u.addr / 128 == line).foldl (fun s u =>
    let gone (s : State) : State := { s with upsets := s.upsets.filter fun v => v != u }
    match u.l2, s.ownerOf .flostra u.addr with
    | some true, some part =>
      let t := gone (s.lossAlone part u)
      if u.rereadOk then t else t.store .flostra u.addr 8 (lossOf .flostra)
    | some _, _ => gone s
    | none, _ => s) s

end Sys2Proof.Machine
end

