-- ==== Sys2Proof/Machine/Pnd.lean ====
section
/-! DEFINITION. Pendant and shape instructions (R205 to R207). -/

namespace Sys2Proof.Machine

open Sys2Proof

/-- The pendant description of PNDQ (R206). -/
def formDesc (f : Form) : DWord :=
  .ofNat 64 (1 + (if f.float then 2 else 0) + (if f.wide then 4 else 0) + 2 ^ 3 * (f.sym % 256) + 2 ^ 11 * f.steps.length
    + 2 ^ 13 * f.off.code)

/-- PNDQ (R206): it never waits for a symbol. -/
def execPndq (x : Opnds) (s : State) : Host.Outcome State Fault Refusal :=
  issueX s x fun c =>
    let src := match x.a with | .v n => (c.regs.vreg n).shape.src | .s n => c.regs.readS n | _ => .known (.u 0)
    c.toS s x.d.snum (match src with | .pend f => formDesc f | .known _ => 0)

/-- PNDWAIT (R205). -/
def execPndwait (x : Opnds) (s : State) : Host.Outcome State Fault Refusal :=
  issueX s x fun c =>
    match x.a with
    | .v n => (match (c.regs.vreg n).shape.src with | .pend f => .waitSym s [f.sym] | .known _ => .done s)
    | .s n => if c.regs.spend n then .waitSym s (srcSyms [c.regs.readS n]) else .done s
    | _ => if c.st.syms.isEmpty then .done s else .waitSym s (c.st.syms.map fun y => y.num)

/-- The value VSHAPE gives each lane (R207). -/
def shapeOff (sel lowest : Nat) (a : Off) : Off :=
  match sel with
  | 0 => .u (a.at lowest)
  | 1 => .a ((a.at 0).setWidth 32) ((a.at 1 - a.at 0).setWidth 32)
  | _ => .g a.lanes

/-- VSHAPE (R207): a forced shape where act is all lanes, else shape G with the old values in the other lanes, a partial write
(R93; DESIGN CHOICE, assumption 155). -/
def execVshape (x : Opnds) (s : State) : Host.Outcome State Fault Refusal :=
  let w := x.t.is64
  issueX s x fun c => c.known s x [(x.a, w)] fun offs =>
    let v := shapeOff x.sel (lowLane c.sp.mask) (offs.getD 0 (.u 0))
    let act := c.act x
    let full := decide (act = fullMask)
    let d := x.d.vnum
    if c.st.busy x.d w then .wait s .scoreboard
    else if c.regs.blocksWrite d w full then .waitSym s (c.regs.symsOf d w)
    else
      let old := match c.regs.readV d w with | .known o => o | .pend _ => .u 0
      let v := if full then v else .g (lanes256.map fun l => if laneIn act l then v.at l else old.at l)
      let r := c.regs.writeV d w v
      if r.overflows c.st.logG then c.trapWhole 0x04 1 else .done (s.putRegs c r)

/-- The tag of a vector register: shape code and PAIRHI (R90, R206). -/
def VReg.tag (v : VReg) : Nat :=
  (match v.shape with | .u _ => 0 | .a _ _ => 1 | .g _ _ => 2 | .p _ _ => 3) + (if v.pairHi then 4 else 0)

/-- VSHQ (R206): it never waits for a symbol. -/
def execVshq (x : Opnds) (s : State) : Host.Outcome State Fault Refusal :=
  issueX s x fun c => c.toS s x.d.snum (.ofNat 64 (c.regs.vreg x.a.vnum).tag)

end Sys2Proof.Machine
end

