-- ==== Sys2Proof/Machine/PolicyEv.lean ====
section
/-! DEFINITION. Events of the policy engine: decisions, overruns, and the loading and verification of a policy image
(R294, R305 to R309). An event whose condition does not hold changes nothing. -/

namespace Sys2Proof.Machine

open Sys2Proof

/-! ## Decisions -/

/-- DISPATCH_DECISION (R294). -/
def execDispatchDecision (die part : Nat) (s : State) : Host.Outcome State Fault Refusal :=
  event s fun s => s.decideEvent (die % 2) .dispatch (some part)
/-- PREEMPT_DECISION (R294). -/
def execPreemptDecision (die part : Nat) (s : State) : Host.Outcome State Fault Refusal :=
  event s fun s => s.decideEvent (die % 2) .preempt (some part)
/-- FAULT_DECISION (R381). -/
def execFaultDecision (die : Nat) (s : State) : Host.Outcome State Fault Refusal :=
  event s fun s => s.decideEvent (die % 2) .fault none

/-- The word at a decision's pc. -/
def Decision.word (d : Decision) : Nat := d.prog.code.getD d.pc 0

/-- POLICY_OVERRUN (R307): the next instruction would pass the budget; the fallback decides. -/
def execPolicyOverrun (die : Nat) (s : State) : Host.Outcome State Fault Refusal :=
  event s fun s =>
    match (s.dieSt (die % 2)).dec with
    | none => s
    | some d =>
      if d.affords (hgCost (d.word % 256)) || d.chosen.isSome then s
      else (s.onPart d.part fun p => { p with overruns := if p.overruns = BitVec.allOnes 32 then p.overruns else p.overruns + 1 }).endDecision
        (die % 2) d none

/-! ## The image (R305) -/

/-- Words of the image at an address; none where one does not translate. The code is read as far as a legal length
goes. -/
def State.readImage (s : State) (part a : Nat) : Option (List Nat) :=
  let n := s.vread part (a + 4) 4 % 2 ^ 16
  let words := 20 + if n ≤ 1024 then n else 0
  if (List.range words).all fun i => s.vok part .read (a + 4 * i) then
    some ((List.range words).map fun i => s.vread part (a + 4 * i) 4)
  else none

/-- POLICY_LOAD (R309): the image at the address that POLIMG held when LOAD was written is read once; an unreadable one is kept
as no words. -/
def execPolicyLoad (part : Nat) (s : State) : Host.Outcome State Fault Refusal :=
  event s fun s =>
    let p := s.part part
    if p.shadow = 1 ∧ p.verify.isSome = true then s
    else
      let a := if p.shadow = 1 then p.loadAt else p.polimg
      (s.seen part a.toNat (4 * ((s.readImage part a.toNat).getD []).length)).onPart part fun p => { p with shadow := 1, verify := some ((s.readImage part a.toNat).getD []) }

/-- POLICY_REVERT (R309). -/
def execPolicyRevert (part : Nat) (s : State) : Host.Outcome State Fault Refusal := event s fun s => s.revert part

/-! ## The verifier (R306) -/

/-- Does a word write a register? -/
def hgWrites (w r : Nat) : Bool :=
  (match hgUses (hgOp w) (hgImm w) with | some (d, _, _) => d | none => false) && hgD w == r

/-- Where a branch goes: offset and next word, forward or, for NEXTQ, back. -/
def hgTarget (i w : Nat) : Option Nat :=
  if 0x19 ≤ hgOp w ∧ hgOp w ≤ 0x1C then some (i + hgImm w)
  else if hgOp w = 0x1D then some (i - hgImm w)
  else none

/-- Rule 6: forward branches stay within the code. -/
def hgForward (n : Nat) (e : Nat × Nat) : Bool :=
  if 0x19 ≤ hgOp e.1 ∧ hgOp e.1 ≤ 0x1C then decide (1 ≤ hgImm e.1 ∧ e.2 + hgImm e.1 < n) else true

/-- The loop of the NEXTQ at i: the first and last word of its body, where it is as rule 7 asks. -/
def hgLoop (code : List Nat) (i : Nat) : Option (Nat × Nat) :=
  let w := code.getD i 0
  let f := i - hgImm w
  let q := code.getD (f - 1) 0
  if hgImm w < i ∧ 1 ≤ f ∧ hgOp q = 0x1C ∧ hgD q = hgD w ∧ f - 1 + hgImm q = i + 1 then some (f, i) else none

/-- Rule 7. -/
def hgLoopsOk (code : List Nat) : Bool :=
  let idx := code.zipIdx
  let nexts := (idx.filter fun e => hgOp e.1 == 0x1D).map fun e => hgLoop code e.2
  let loops := nexts.filterMap id
  let inside (l : Nat × Nat) (j : Nat) : Bool := decide (l.1 ≤ j ∧ j ≤ l.2)
  nexts.all (fun l => l.isSome) &&
    loops.all fun l =>
      decide ((loops.filter fun m => m != l && inside m l.1 && inside m l.2).length ≤ 1) &&
        idx.all fun e =>
          (match hgTarget e.2 e.1 with | some t => inside l e.2 || !inside l t | none => true) &&
            (e.2 == l.2 || !inside l e.2 || !hgWrites e.1 (hgD (code.getD l.2 0)))

/-- Where control goes after a word; nothing after a DECIDE. -/
def hgNext (i w : Nat) : List Nat :=
  if 0x20 ≤ hgOp w then []
  else
    match hgTarget i w with
    | some t => if hgOp w = 0x1B then [t] else [i + 1, t]
    | none => [i + 1]

/-- Rule 8 from some words: each that can be reached lies in the code, and each DECIDE is of the kind. -/
def hgReach (code : List Nat) (kind : Nat) : Nat → List Nat → List Nat → Bool
  | 0, _, _ => true
  | _, [], _ => true
  | fuel + 1, i :: todo, seen =>
    if seen.contains i then hgReach code kind fuel todo seen
    else
      match code[i]? with
      | none => false
      | some w =>
        (hgOp w < 0x20 || hgOp w == 0x20 + kind) && hgReach code kind fuel (hgNext i w ++ todo) (i :: seen)

/-- Cost of a word from the costs of those after it (rule 9): `again` gives a loop's worst cost from the costs after its
FORQ. -/
def hgStepCost (again : Nat → Nat → List Nat → Nat) (e : Nat × Nat) (after : List Nat) : Nat :=
  let w := e.1
  let jump := after.getD (hgImm w - 1) 0
  let next := after.headD 0
  hgCost (hgOp w) +
    (if 0x20 ≤ hgOp w then 0
     else if hgOp w = 0x1B then jump
     else if hgOp w = 0x19 ∨ hgOp w = 0x1A then max next jump
     else if hgOp w = 0x1C then max jump (again e.2 (hgImm w) after)
     else next)

/-- Worst-case costs of words, the last first in the list of those after (rule 9): a loop's body is taken 64 times. Its
first pass counts with the costs found; each pass before it ends in its NEXTQ and the pass after. -/
def hgCosts (code : List Nat) : Nat → List (Nat × Nat) → List Nat → List Nat
  | 0, ws, tail => ws.foldr (fun e after => hgStepCost (fun _ _ a => a.headD 0) e after :: after) tail
  | d + 1, ws, tail =>
    ws.foldr (fun e after =>
      hgStepCost (fun f imm a =>
        let m := imm - 1
        if hgOp (code.getD (f + m) 0) ≠ 0x1D ∨ hgLoop code (f + m) ≠ some (f + 1, f + m) then a.headD 0
        else
          let body := (code.zipIdx.drop (f + 1)).take (m - 1)
          (List.range 63).foldl (fun (first : Nat) _ =>
            (hgCosts code d body ((1 + first) :: a.drop m)).headD 0) (a.headD 0)) e after :: after) tail

/-- Some words of the code with their places. -/
def hgPart (code : List Nat) (lo hi : Nat) : List (Nat × Nat) := (code.zipIdx.drop lo).take (hi - lo)

/-- Worst-case cost from the word `e`, before place `q` whose costs onward are `tail`; `loops` are the loops that hold e,
outermost first. The pass that begins at e counts as the first of a body's 64 (rule 9; assumption 105). -/
def hgFrom (code : List Nat) (e : Nat) : List (Nat × Nat) → Nat → List Nat → Nat
  | [], q, tail => (hgCosts code 2 (hgPart code e q) tail).headD 0
  | (f, l) :: inner, q, tail =>
    let after := hgCosts code 2 (hgPart code (l + 1) q) tail
    let pass (onward : Nat) : Nat := (hgCosts code 2 (hgPart code f l) (onward :: after)).headD 0
    let first := (List.range 62).foldl (fun (x : Nat) _ => pass (1 + x)) (pass (1 + after.headD 0))
    hgFrom code e inner l ((1 + first) :: after)

/-- Insert a loop into a list by its first word. -/
def hgByStart (x : Nat × Nat) : List (Nat × Nat) → List (Nat × Nat)
  | [] => [x]
  | y :: t => if x.1 ≤ y.1 then x :: y :: t else y :: hgByStart x t

/-- The loops whose body holds a word, outermost first. -/
def hgLoopsAt (code : List Nat) (e : Nat) : List (Nat × Nat) :=
  (((code.zipIdx.filter fun w => hgOp w.1 == 0x1D).filterMap fun w => hgLoop code w.2).filter fun l =>
    decide (l.1 ≤ e ∧ e ≤ l.2)).foldr hgByStart []

/-- The worst cost over the entries (rule 9). -/
def hgWorst (code entries : List Nat) : Nat :=
  let costs := hgCosts code 2 code.zipIdx []
  entries.foldl (fun a e =>
    if e = 0x3FF then a
    else max a (match hgLoopsAt code e with | [] => costs.getD e 0 | ls => hgFrom code e ls code.length [])) 0

/-- The code words of an image. -/
def imgCode (w : List Nat) : List Nat := w.drop 20
/-- The entries of an image. -/
def imgEntries (w : List Nat) : List Nat := [bitsN (w.getD 2 0) 0 10, bitsN (w.getD 2 0) 10 10, bitsN (w.getD 2 0) 20 10]

/-- The first rule of R306 that an image breaks. -/
def imgReason (w : List Nat) : Option Nat :=
  let n := w.getD 1 0 % 2 ^ 16
  let b := w.getD 1 0 / 2 ^ 16
  let code := imgCode w
  let es := imgEntries w
  if w.isEmpty then some 10
  else if w.getD 0 0 ≠ 0x14847 ∨ w.getD 3 0 ≠ 0 ∨ w.getD 2 0 / 2 ^ 30 ≠ 0 then some 1
  else if n = 0 ∨ 1024 < n then some 2
  else if b ≠ 0 ∧ (b < 16 ∨ 2048 < b) then some 3
  else if es.any fun e => e != 0x3FF && decide (n ≤ e) then some 4
  else if code.any fun c => !hgWordOk c then some 5
  else if code.zipIdx.any fun e => !hgForward n e then some 6
  else if !hgLoopsOk code then some 7
  else if es.zipIdx.any fun e => e.1 != 0x3FF && !hgReach code e.2 (2 * n + 2) [e.1] [] then some 8
  else if 4096 < hgWorst code es then some 9
  else none

/-- The next version number (R309). -/
def nextVersion (v : Half) : Half := if v = BitVec.allOnes 16 then 1 else v + 1

/-- The policy of an accepted image. -/
def imgPolicy (w : List Nat) (version : Half) : Policy :=
  let b := w.getD 1 0 / 2 ^ 16
  { version := version, code := imgCode w, entries := imgEntries w, budget := if b = 0 then Config.policyBudget else b
    scratch := ((w.drop 4).take 16).map (BitVec.ofNat 32), words := w }

/-- IMAGE_VERDICT (R306, R309, R341). -/
def execImageVerdict (part : Nat) (s : State) : Host.Outcome State Fault Refusal :=
  event s fun s =>
    match (s.part part).verify with
    | none => s
    | some w =>
      match imgReason w with
      | some r =>
        (s.onPart part fun p =>
          { p with shadow := 3, reason := r, verify := none
                   rejects := if p.rejects = BitVec.allOnes 16 then p.rejects else p.rejects + 1 }).interrupt part 3
      | none =>
        let v := nextVersion (s.part part).version
        let x := imgPolicy w v
        let s := s.onPart part fun p =>
          { p with shadow := 2, wcet := hgWorst (imgCode w) (imgEntries w), version := v, verify := none
                   polWest := { p.polWest with staged := some x }, polEast := { p.polEast with staged := some x } }
        ((s.swapPolicy part 0).swapPolicy part 1).interrupt part 3

end Sys2Proof.Machine
end

