-- ==== Sys2Proof/Machine/QueueEv.lean ====
section
/-! DEFINITION. Events of the packet processors: notify writes, acceptance, the start of packets of each type, quiescence
and accounting periods (R52, R276 to R292). An event whose condition does not hold changes nothing. -/

namespace Sys2Proof.Machine

open Sys2Proof

/-! ## Quiescence (R52) -/

/-- Does a strand wait at TAKE: a split of it does and none goes on? -/
def Strand.atTake (st : Strand) : Bool :=
  (st.ctx.splits.any fun p => p.st == .barrier && match p.bar with | some (.take _) => true | _ => false)
    && st.ctx.splits.all fun p => p.st == .free || p.st == .joining || p.st == .barrier

/-- QUIESCENCE (R52): the pipeline of a source is quiet, and every TAKE that waits tries again. -/
def execQuiescence (source : Nat) (s : State) : Host.Outcome State Fault Refusal :=
  event s fun s =>
    match (s.source? source).bind fun x => x.pipe.bind fun k => (mapFind s.pipes k).map fun p => (k, p) with
    | none => s
    | some (k, p) =>
      let wgs := (s.wgs.filter fun e => p.sources.contains e.2.source && e.2.resident).map (·.1)
      let empty := p.lists.all fun l => s.listCount p.part l.toNat == 0
      if p.quiet || !empty || s.strands.any (fun e => wgs.contains e.2.wg && !e.2.atTake) then s
      else
        let s := { s with pipes := mapIns k { p with quiet := true } s.pipes }
        (s.wakeTakes p.part fun l _ => p.lists.any fun x => x.toNat == l).checkWork p.part p.queue p.pkt

/-! ## Accounting periods (R292) -/

/-- A node's balance and period number at a rollover. -/
def State.rollNode (s : State) (part n : Nat) : State :=
  let limit : Int := s.effCycles part n
  let b := min (s.balance part n + limit) limit
  let a := s.rcbAddr part n
  (s.vwrite part (a + 128) 8 (BitVec.ofInt 64 b).toNat).vwrite part (a + 168) 8 ((s.rcb part n 168 8 + 1) % 2 ^ 64)

/-- Roll over every valid node from one on, as far as the table translates. -/
def State.rollFrom (s : State) (part : Nat) : Nat → Nat → State
  | 0, _ => s
  | fuel + 1, n =>
    if s.vok part .read (s.rcbAddr part n) then
      let s := s.seeNode part n
      (if s.rcb part n 1 1 % 2 = 1 then s.rollNode part n else s).rollFrom part fuel (n + 1)
    else s

/-- PERIOD_ROLLOVER (R292): CLOCK has reached a multiple of the root's period. -/
def execPeriodRollover (part : Nat) (s : State) : Host.Outcome State Fault Refusal :=
  event s fun s =>
    let p := s.rcb part 0 48 8
    let last := (s.part part).period
    if (s.part part).live = false ∨ p = 0 ∨ s.clock.toNat / p ≤ last / p then s
    else ((s.onPart part fun x => { x with period := (last / p + 1) * p }).rollFrom part (2 ^ 24) 0).refresh part

/-! ## Notify writes and acceptance (R276, R278, R285) -/

/-- NOTIFY_WRITE (R278). -/
def execNotifyWrite (part q : Nat) (w : Word) (s : State) : Host.Outcome State Fault Refusal :=
  event s fun s => s.notify part q w

/-- The 16 words of a ring slot. -/
def State.pktWords (s : State) (part q i : Nat) : List Nat :=
  (List.range 16).map fun j => s.vread part (s.pktAddr part q i + 4 * j) 4

/-- The device has read a packet, the descriptors it names and its arguments (R111). -/
def State.seenPkt (s : State) (p : QPkt) : State :=
  let s := s.seen p.part (s.pktAddr p.part p.queue p.idx) 64
  let s := if p.type = 2 then s.seen p.part (p.field 8 8) 256 else s
  let s := (s.pktKernels p).foldl (fun s k => s.seen p.part k 64) s
  if p.field 24 8 = 0 then s else s.seen p.part (p.field 24 8) (s.pktArgs p)

/-- PACKET_ACCEPT (R276, R285, R448): the next packet of the ring is refused, or copied with its kernels and arguments. -/
def execPacketAccept (q : Nat) (s : State) : Host.Outcome State Fault Refusal :=
  event s fun s =>
    match s.partOfQueue q with
    | none => s
    | some part =>
      let s := if (s.part part).live then s.seen part (s.qAddr part q) 64 else s
      let r := s.qf part q 24 4
      let a := s.pktAddr part q r
      if (s.part part).live = false ∨ s.queueOk part q = false ∨ s.qf part q 28 4 = r
          ∨ 64 ≤ (s.pkts.filter fun p => p.part == part && p.queue == q).length ∨ s.vok part .read a = false then s
      else
        let p : QPkt := { queue := q, part := part, idx := r, words := s.pktWords part q r, kernels := [], args := []
                          st := .waiting, failed := none }
        let s1 := s.setQf part q 24 4 ((r + 1) % 2 ^ 32)
        match s.pktFault p (s.fitsEmpty part) with
        | some (d, v) =>
          let coop := p.type = 1 ∧ ((s.readKernel part (p.field 8 8)).elim false fun k => k.coop) = true
          s1.postRec part (schedRec (if d = 11 ∧ coop then 0x03 else 0x01) d q r v (.ofNat 64 a))
        | none =>
          let p := { p with kernels := (s.pktKernels p).filterMap fun k => s.readKernel part k
                            args := if p.field 24 8 = 0 then [] else s.vreadBytes part (p.field 24 8) (s.pktArgs p) }
          let s1 := (s1.seenPkt p).setQf part q 44 4 (s1.qf part q 44 4 + 1)
          { (if p.type = 1 ∨ p.type = 2 then s1.dropCode part else s1) with pkts := s1.pkts ++ [p] }

/-! ## Starting (R286, R287) -/

/-- Has a packet issued (R286): a launch with its last workgroup dispatched, any other by its start? -/
def State.pktIssued (s : State) (p : QPkt) : Bool :=
  p.st != .waiting &&
    (p.type != 1 || (s.sources.all fun e =>
      !(e.2.part == p.part && e.2.queue == p.queue && e.2.pkt == p.idx) || e.2.removed || e.2.left == 0))

/-- Has a counter reached a threshold (R286)? A counter at address 0 is not named. -/
def State.reached (s : State) (part addr thr : Nat) : Bool :=
  addr == 0 || (BitVec.ofNat 64 (s.vread part addr 8) - BitVec.ofNat 64 thr).toInt ≥ 0

/-- Is packet a older than b in their queue? -/
def olderPkt (a b : QPkt) : Bool := decide (2 ^ 31 ≤ (BitVec.ofNat 32 a.idx - BitVec.ofNat 32 b.idx).toNat)

/-- May a packet start (R286)? -/
def State.mayStart (s : State) (p : QPkt) : Bool :=
  let older := s.pkts.filter fun x => x.part == p.part && x.queue == p.queue && olderPkt x p
  p.st == .waiting && older.all (fun x => s.pktIssued x) && (p.field 1 1 / 16 % 2 == 0 || older.isEmpty)
    && s.reached p.part (p.field 40 8) (p.field 48 8)

/-- The packet of a queue at an index, if it may start. -/
def State.startable (s : State) (q idx : Nat) : Option QPkt :=
  (s.pkts.find? fun p => p.queue == q && p.idx == idx).bind fun p => if s.mayStart p then some p else none

/-- A source for a packet (R287, R297). -/
def QPkt.source (p : QPkt) (pipe : Option Nat) (k : Kernel) (rcb total cap : Nat) (grid : Nat × Nat × Nat) : Source :=
  { part := p.part, queue := p.queue, pkt := p.idx, pipe := pipe, rcb := rcb, kernel := k, grid := grid, total := total
    next := 0, cap := cap, args := p.args, argAddr := .ofNat 64 (p.field 24 8), seq := .ofNat 64 p.idx
    event := .ofNat 64 (p.field 56 8), resident := 0, saved := [], removed := false, readySince := 0, readyDies := []
    wantDies := [] }

/-- Start a launch (R287). -/
def State.startLaunch (s : State) (p : QPkt) : State :=
  match p.kernels with
  | [] => s
  | k :: _ =>
    let (gx, gy, gz) := p.grid
    let s := s.onPkt p.part p.queue p.idx fun p => { p with st := .issued }
    let x := p.source none k p.rcb (gx * gy * gz) 0 p.grid
    ({ s with sources := mapIns s.srcNext x s.sources, srcNext := s.srcNext + 1 }).refresh p.part

/-- Start a pipeline (R287): every stage is a source. -/
def State.startPipeline (s : State) (p : QPkt) : State :=
  let table := stagesOf (s.pipeStages p.part (p.field 8 8))
  let n := s.srcNext
  let s := s.onPkt p.part p.queue p.idx fun p => { p with st := .issued }
  let srcs := (p.kernels.zip table).zipIdx.map fun e =>
    let cap := e.1.2.2.2
    (n + e.2, p.source (some n) e.1.1 e.1.2.2.1 0 cap (if cap = 0 then 2 ^ 32 - 1 else cap, 1, 1))
  let pipe : Pipe := { part := p.part, queue := p.queue, pkt := p.idx, lists := (s.pipeLists p.part (p.field 8 8)).map (BitVec.ofNat 64)
                       sources := srcs.map (·.1), quiet := false, appends := [] }
  let s := { s with sources := srcs.foldl (fun m (e : Nat × Source) => mapIns e.1 e.2 m) s.sources, srcNext := n + srcs.length
                    pipes := mapIns n pipe s.pipes }
  s.refresh p.part

/-- Perform a barrier-and packet (R287), once both counters have reached their thresholds. -/
def State.startBarrierAnd (s : State) (p : QPkt) : State :=
  let s := [p.field 8 8, p.field 24 8].foldl (fun s a => if a = 0 then s else s.seen p.part a 8) s
  if s.reached p.part (p.field 8 8) (p.field 16 8) && s.reached p.part (p.field 24 8) (p.field 56 8) then
    s.endPkt p.part p.queue p.idx
  else s

/-- Perform a signal packet (R287). -/
def State.startSignal (s : State) (p : QPkt) : State :=
  let s := if p.field 8 8 = 0 then s else s.vsync p.part (p.field 8 8) (.add (.ofNat 64 (p.field 16 8)))
  let s := if p.field 24 8 = 0 then s
    else s.vsync p.part (p.field 24 8) (.arrive (.ofNat 32 (p.field 56 4)) (.ofNat 16 (p.field 60 2)))
  s.endPkt p.part p.queue p.idx

/-- Perform a domain-arm packet (R224, R287): it waits for its slot and then judges the S fields (assumption 110); a descriptor out of range arms nothing, and the packet
completes failed (R449). -/
def State.startDomainArm (s : State) (p : QPkt) : State :=
  let slot := handleSlot (.ofNat 32 (p.field 8 4))
  let out (s : State) (v : Nat) : State := if p.field 16 8 = 0 then s else s.vwrite p.part (p.field 16 8) 8 v
  if !s.canArm p.part slot then s
  else
    match s.arm p.part slot with
    | none =>
      ((out s (2 ^ 64 - 1)).onPkt p.part p.queue p.idx fun p => { p with failed := some 12 }).endPkt p.part p.queue p.idx
    | some (s, h) => (out s h.toNat).endPkt p.part p.queue p.idx

/-- Start a packet by its type. -/
def State.startPkt (s : State) (p : QPkt) : State :=
  match p.type with
  | 1 => s.startLaunch p
  | 2 => s.startPipeline p
  | 3 => s.startBarrierAnd p
  | 4 => s.startSignal p
  | 5 => s.startDomainArm p
  | _ => s

/-- Start the packet of a queue at an index if it is of a type and may start. -/
def State.startType (s : State) (q idx type : Nat) : State :=
  match s.startable q idx with
  | some p => if p.type = type then s.startPkt p else s
  | none => s

/-- DEPENDENCE_POLL (R286): the counter is read again, and a packet that may start does. -/
def execDependencePoll (q idx : Nat) (s : State) : Host.Outcome State Fault Refusal :=
  event s fun s =>
    let s := match s.pkts.find? fun p => p.queue == q && p.idx == idx with
      | some p => if p.field 40 8 = 0 then s else s.seen p.part (p.field 40 8) 8
      | none => s
    match s.startable q idx with | some p => s.startPkt p | none => s

/-- LAUNCH_PACKET (R287). -/
def execLaunchPacket (q idx : Nat) (s : State) : Host.Outcome State Fault Refusal := event s fun s => s.startType q idx 1
/-- PIPELINE_PACKET (R287). -/
def execPipelinePacket (q idx : Nat) (s : State) : Host.Outcome State Fault Refusal := event s fun s => s.startType q idx 2
/-- BARRIER_AND_PACKET (R287). -/
def execBarrierAndPacket (q idx : Nat) (s : State) : Host.Outcome State Fault Refusal := event s fun s => s.startType q idx 3
/-- SIGNAL_PACKET (R287). -/
def execSignalPacket (q idx : Nat) (s : State) : Host.Outcome State Fault Refusal := event s fun s => s.startType q idx 4
/-- DOMAIN_ARM_PACKET (R287). -/
def execDomainArmPacket (q idx : Nat) (s : State) : Host.Outcome State Fault Refusal := event s fun s => s.startType q idx 5

end Sys2Proof.Machine
end

