-- ==== Sys2Proof/Machine/SaveEv.lean ====
section
/-! DEFINITION. Events of saves and restores and the hang watchdog (R436, R440, R445, R446). An event whose condition does
not hold changes nothing. -/

namespace Sys2Proof.Machine

open Sys2Proof

/-- SAVE_COMPLETE (R436). -/
def execSaveComplete (wg : Nat) (s : State) : Host.Outcome State Fault Refusal := event s fun s => s.completeSave wg

/-- SAVE_TIMEOUT (R436): 65,536 cycles without an end of steps 2 and 3. -/
def execSaveTimeout (wg : Nat) (s : State) : Host.Outcome State Fault Refusal :=
  event s fun s =>
    match s.wg? wg with
    | none => s
    | some w =>
      if s.clock.toNat < w.saveLimit ∨ (s.clock.toNat = w.saveLimit ∧ s.saveReady wg w = true) then s else s.abandonSave wg

/-- RESTORE_COMPLETE (R440). -/
def execRestoreComplete (wg : Nat) (s : State) : Host.Outcome State Fault Refusal := event s fun s => s.completeRestore wg

/-- The record of a strand that waits too long (R445, R447): the detail is its stall reason. -/
def State.hangRec (s : State) (key : Nat) (st : Strand) (w : Wg) (slot : Nat) : Rec :=
  let idx := match s.source? w.source with | some x => x.pkt | none => 0
  let m := (schedRec 0x04 (s.strandReason key) w.queue idx 0 0).mask
  s.strandRec key st 0x08 0x04 (st.split slot).pc 0 m

/-- HANG_WATCHDOG (R445): routed to the policy; until the decision the watchdog does not report again. -/
def execHangWatchdog (strand : Nat) (s : State) : Host.Outcome State Fault Refusal :=
  event s fun s =>
    match (s.strand? strand).bind fun st => (s.wg? st.wg).map fun w => (st, w) with
    | none => s
    | some (st, w) =>
      if st.watchOff || w.phase != .running || decide (st.watch < 2 ^ 32) then s
      else
        let slot := ((List.range 4).find? fun i => (st.split i).st != .free).getD 0
        (s.onStrand strand fun st => { st with watchOff := true }).route
          { part := st.part, wg := some st.wg, split := some (strand, slot), op := none, core := coreOf strand
            fault := s.hangRec strand st w slot }

end Sys2Proof.Machine
end

