-- ==== Sys2Proof/Machine/UeEv.lean ====
section
/-! DEFINITION. Events of the Ultra Ethernet endpoint (R327 to R330, R469 to R472). An event whose condition does not hold
changes nothing. -/

namespace Sys2Proof.Machine

open Sys2Proof

/-- UE_NOTIFY_WRITE (R278, R328). -/
def execUeNotifyWrite (part k : Nat) (w : Word) (s : State) : Host.Outcome State Fault Refusal :=
  event s fun s => s.ueNotify part k w

/-- UE_WRITE (R328). -/
def execUeWrite (part k : Nat) (s : State) : Host.Outcome State Fault Refusal := event s fun s => s.ueTake part k 1
/-- UE_READ (R328). -/
def execUeRead (part k : Nat) (s : State) : Host.Outcome State Fault Refusal := event s fun s => s.ueTake part k 2
/-- UE_FETCH_AND_ADD (R328). -/
def execUeFetchAndAdd (part k : Nat) (s : State) : Host.Outcome State Fault Refusal := event s fun s => s.ueTake part k 3
/-- UE_COMPARE_AND_SWAP (R328). -/
def execUeCompareAndSwap (part k : Nat) (s : State) : Host.Outcome State Fault Refusal := event s fun s => s.ueTake part k 4

/-- UE_ENTRY_COMPLETE (R328): a write once the target has acknowledged every byte, a read or an atomic with the data that
came back. -/
def execUeEntryComplete (part k idx : Nat) (data : List Byte) (s : State) : Host.Outcome State Fault Refusal :=
  event s fun s =>
    match s.ueEntry? part k idx with
    | none => s
    | some u =>
      if k = 64 ∨ ueOp u.words = 1 then (if u.acked then s.ueDone u [] else s)
      else if data.length = ueBytes u.words then s.ueDone u data
      else s

/-- UE_RETRANSMIT_TIMEOUT (R469). -/
def execUeRetransmitTimeout (part k idx : Nat) (s : State) : Host.Outcome State Fault Refusal :=
  event s fun s =>
    match s.ueEntry? part k idx with
    | none => s
    | some u => if u.acked then s else s.ueAgain u

/-- Bytes in flight toward a peer on an entropy value (R330). -/
def State.ueFlying (s : State) (part peer e : Nat) : Nat :=
  s.fabric.ue.foldl (fun n u =>
    if u.part = part ∧ u.k ≠ 64 ∧ u.acked = false ∧ u.pkt.entropy = e ∧ uePeerIdx u.words = peer then n + ueBytes u.words else n) 0

/-- PATH_TABLE_UPDATE (R330, R471): while a peer has traffic its 256 entries are rewritten; RTT and mark fraction are
measurements, free values here (assumption 3). -/
def execPathTableUpdate (part peer : Nat) (s : State) : Host.Outcome State Fault Refusal :=
  event s fun s =>
    if s.fabric.ue.any fun u => u.part == part && u.k != 64 && uePeerIdx u.words == peer then
      let base := bitsOf (mapGet 0 (s.part part).fab 5) 56 0 + 4096 * peer
      (List.range 256).foldl (fun s e =>
        let (x, s) := s.draw
        let rtt := if s.excludedNow part peer e then 2 ^ 32 - 1 else x.toNat % 2 ^ 32
        (s.vwrite part (base + 16 * e) 8 (rtt + x.toNat / 2 ^ 32 % 2 ^ 16 * 2 ^ 32)).vwrite part (base + 16 * e + 8) 8
          (s.ueFlying part peer e)) s
    else s

/-- ENTROPY_EXCLUSION_EXPIRY (R471). -/
def execEntropyExclusionExpiry (part peer entropy : Nat) (s : State) : Host.Outcome State Fault Refusal :=
  event s fun s =>
    s.onFab fun f =>
      { f with excluded := f.excluded.filter fun x =>
          !(x.1 == part && x.2.1 == peer && x.2.2.1 == entropy && decide (x.2.2.2 ≤ s.clock.toNat)) }

/-- Answer a packet: to its sender, about its entry. -/
def State.uetReply (s : State) (p : UetPkt) (b : UetBody) : State :=
  s.onFab fun f =>
    { f with uetOut := f.uetOut ++
        [{ p with dst := p.src, src := p.dst, dstDev := p.srcDev, srcDev := p.dstDev, udp := 4793, mode := 0, order := 0, body := b }] }

/-- The partition of a JobID (R327). -/
def State.partOfJob (s : State) (job : Word) : Option Nat := (s.parts.find? fun e => e.2.live && Config.jobOf e.1 == job).map (·.1)

/-- An access of the endpoint to a partition's memory that translates is performed and answered. -/
def State.uetAt (s : State) (part : Nat) (acc : Access) (a n : Nat) (f : State → State) : State :=
  if s.runOk part acc a n then f s else s

/-- A sender's queue among those whose entries are performed here. -/
def rodKey (p : UetPkt) : Nat := (p.srcDev * 16 + p.part) * 128 + p.k

/-- The answer that an entry of RUD or ROD got when it was performed here, in its sender's present session (R327). -/
def State.uetDone (s : State) (p : UetPkt) : Option UetBody :=
  (s.fabric.uetSeen.find? fun e => e.1 == rodKey p && e.2.1 == p.session && e.2.2.1 == p.idx).map fun e => e.2.2.2

/-- Must an ROD entry wait for an older one of its queue, or has a younger been performed (R328, assumption 114)? A sender that has
been reset begins anew. -/
def State.uetLate (s : State) (p : UetPkt) : Bool :=
  p.mode == 2 && match mapFind s.fabric.rodDone (rodKey p) with | some (h, n) => h == p.session && decide (p.order ≤ n) | none => false

/-- Perform what a peer's entry asks and answer it. An entry of RUD or ROD that comes again is answered as before, and performs once
(R327, R328); what a sender did before its reset is forgotten. -/
def State.uetOrdered (s : State) (p : UetPkt) (f : State → State × UetBody) : State :=
  if p.mode = 1 then let (t, b) := f s; t.uetReply p b
  else
    match s.uetDone p with
    | some b => s.uetReply p b
    | none =>
      if s.uetLate p then s.uetReply p .acked
      else
        let (t, b) := f s
        (t.onFab fun x =>
          { x with uetSeen := (x.uetSeen.filter fun e => !(e.1 == rodKey p && e.2.1 != p.session)) ++ [(rodKey p, p.session, p.idx, b)]
                   rodDone := if p.mode = 2 then mapIns (rodKey p) (p.session, p.order) x.rodDone else x.rodDone }).uetReply p b

/-- A node or root that reaches this device by the endpoint (R325, R326): it is judged as one of the fabric is. -/
def State.uetReduce (s : State) (p : UetPkt) (part : Nat) (h : Word) (e : Nat) (act : State → Dom → State) : State :=
  match s.judge part h with
  | .accepted d => if d.elems ≤ e then s.uetReply p .acked else act s d
  | .early => s.uetReply p .notReady
  | .over => s.uetReply p .stale

/-- A packet that a peer sends (R326 to R328): for the partition of its JobID. -/
def State.uetAsk (s : State) (p : UetPkt) (part : Nat) : State :=
  match p.body with
  | .write a data =>
    s.uetAt part .write a.toNat data.length fun s => s.uetOrdered p fun s => (s.vwriteBytes part a.toNat data, .acked)
  | .read a n =>
    s.uetAt part .read a.toNat n fun s => s.uetOrdered p fun s =>
      let s := s.seen part a.toNat n
      (s, .reply (s.vreadBytes part a.toNat n))
  | .fetchAdd a x =>
    s.uetAt part .write a.toNat 8 fun s => s.uetOrdered p fun s =>
      let s := s.seen part a.toNat 8
      let old := s.vread part a.toNat 8
      (s.vwrite part a.toNat 8 ((old + x.toNat) % 2 ^ 64), .reply (bytesOf 8 old))
  | .compareSwap a c x =>
    s.uetAt part .write a.toNat 8 fun s => s.uetOrdered p fun s =>
      let s := s.seen part a.toNat 8
      let old := s.vread part a.toNat 8
      (if old = c.toNat then s.vwrite part a.toNat 8 x.toNat else s, .reply (bytesOf 8 old))
  | .node h e label v absent fl =>
    s.uetReduce p part h e.toNat fun s d => s.uetOrdered p fun s =>
      (s.toHome d { part := part, handle := h, elem := e.toNat, level := label.toNat / 2 ^ 58, index := label.toNat % 2 ^ 40
                    val := if absent then none else some v, flags := fl, src := none, since := s.clock.toNat }, .acked)
  | .root h e v absent fl =>
    s.uetReduce p part h e.toNat fun s d =>
      let r := if absent then none else some v
      let sl := s.elemSlice d e.toNat
      if d.written.contains e.toNat then s.uetReply p .acked
      else if (mapGet none d.stuck sl).isSome then s
      else
        (match s.finalFault d e.toNat r with
          | some (a, sub) => s.stick d sl a sub
          | none => ((s.takeRoot d e.toNat r fl).sendRootPod d e.toNat r fl).uetReply p .acked)
  | _ => s

/-- An answer to an entry (R325, R328, R469): what a read or an atomic brings comes with UE_ENTRY_COMPLETE. -/
def State.uetAnswer (s : State) (b : UetBody) (u : UeEntry) : State :=
  let set (g : UeEntry → UeEntry) : State := s.onFab fun f => { f with ue := f.ue.map fun x => if x = u then g x else x }
  match b with
  | .acked => (set fun x => { x with acked := true, early := none }).noteLoss u.part u.peer u.pkt.entropy false
  | .nak | .trim => s.ueAgain u
  | .authFailed => s.ueFail u 5
  | .notReady => if u.k = 64 then set fun x => { x with early := some ((x.early.elim s.clock.toNat fun t => t.1), s.clock.toNat) } else s
  | .stale => if u.k = 64 then s.ueStale u else s
  | _ => s

/-- UET_PACKET_ARRIVAL (R326 to R328, R469, R471): placed straight into memory or a clasp, or acted on by its entry. A JobID that
no partition here has is answered as a failed check. -/
def execUetPacketArrival (p : UetPkt) (s : State) : Host.Outcome State Fault Refusal :=
  event s fun s =>
    match p.body with
    | .lost part peer e => s.noteLoss part peer e true
    | .acked | .nak | .trim | .authFailed | .notReady | .stale | .reply _ =>
      (match s.ueEntry? p.part p.k p.idx with
        | some u => s.uetAnswer p.body u
        | none => s)
    | .write .. | .read .. | .fetchAdd .. | .compareSwap .. | .node .. | .root .. =>
      if p.udp ≠ 4793 then s
      else
        match s.partOfJob p.job with
        | some part => s.uetAsk p part
        | none => s.uetReply p .authFailed

end Sys2Proof.Machine
end

