-- ==== Sys2Proof/Machine/Wrk.lean ====
section
/-! DEFINITION. WRK (R246 to R250): work lists and device launch. -/

namespace Sys2Proof.Machine

open Sys2Proof

/-- The list that A names in the strand's own pipeline (R246), or the traps of R406. -/
def Ic.withList (c : Ic) (s : State) (a : DWord) (k : State → Nat → Pipe → Nat → Act) : Act :=
  match s.pipeOf c.st.wg with
  | none => c.trapWhole 0x06 0
  | some (n, p, stage) => if p.lists.contains a then c.deviceReads s a.toNat 32 fun s => k s n p stage else c.trapWhole 0x06 2

/-- The pages of items i to i + k - 1 of a list. -/
def State.itemPages (s : State) (part l i k : Nat) : List Nat :=
  ((List.range k).map fun j => s.itemAddr part l (i + j)).foldr
    (fun a t => match t with | b :: _ => if a / 65536 = b / 65536 then a :: t.tail else a :: t | [] => [a]) []

/-- The bytes of a list's head and of some of its items, as requests to memory. -/
def State.listRanges (s : State) (part l i k : Nat) (w : Bool) : List ByteRange :=
  let n := 4 * s.itemWords part l
  ((l, 64) :: (List.range k).map fun j => (s.itemAddr part l (i + j), n)).filterMap fun e =>
    (s.trDev part .read e.1).map fun t => (t.place, t.pa, e.2, w)

/-- Read items of a list, one after another. -/
def Ic.itemsRead (c : Ic) (s : State) (l i : Nat) : Nat → (State → Act) → Act
  | 0, k => k s
  | n + 1, k => c.itemsRead s l i n fun s => c.deviceReads s (s.itemAddr c.st.part l (i + n)) (4 * s.itemWords c.st.part l) k

/-- The n vector registers that hold an item's words, as operands. -/
def itemOps (b n : Nat) : List (Opnd × Bool) := (List.range n).map fun i => (.v (b + i), false)

/-- A stage appends to a list (R51), be it that it waits for room there. -/
def State.noteAppend (s : State) (k stage : Nat) (a : DWord) : State :=
  { s with pipes := mapMod s.pipes k fun q =>
      if q.appends.contains (stage, a) then q else { q with appends := q.appends ++ [(stage, a)] } }

/-- APPEND (R247, R50): the run is written at issue, and an operation of class ST stands for it in the counter (R246). -/
def execAppend (x : Opnds) (s : State) : Host.Outcome State Fault Refusal :=
  issueX s x fun c => c.known s x [(x.a, true)] fun offs =>
    let a := (offs.getD 0 (.u 0)).at 0
    c.withList s a fun s k _ stage =>
      let part := c.st.part
      let l := a.toNat
      let n := s.itemWords part l
      let b := x.b.vnum
      if 1535 < b + n - 1 then c.trapWhole 0x06 3
      else c.known s x (itemOps b n) fun ws =>
        let lanes := lanesOf (c.act x)
        let tail := s.listTail part l
        if c.st.full .st then .wait s .counterWait
        else if c.st.busy x.d true then .wait s .scoreboard
        else if s.listCap part l < s.listCount part l + lanes.length then .wait ((s.noteAppend k stage a).refresh part) .barrier
        else c.sectorRoom s (s.listRanges part l tail lanes.length true) <| c.released s .barrier <|
          c.reach s .write (l :: s.itemPages part l tail lanes.length) fun s =>
          let s := (lanes.zipIdx).foldl (fun s e =>
            (ws.zipIdx).foldl (fun s w => s.vwrite part (s.itemAddr part l (tail + e.2) + 4 * w.2) 4 ((w.1.at e.1).setWidth 32).toNat) s) s
          let s := s.putRegs c (c.regs.setS x.d.snum (.ofNat 64 tail))
          let s := s.addOp c.key (c.newOp .st (.store [] .b32 []) 2 0)
          if lanes.isEmpty then .done s
          else
            let s := s.vwrite part (l + 24) 8 ((tail + lanes.length) % 2 ^ 64)
            .done (((s.noteAppend k stage a).wakeTakes part fun m _ => m == l).refresh part)

/-- The registers after a TAKE of some items: the words of item j go to the j-th lane of act, whose predicate is set. -/
def takeRegs (r : Regs) (b p : Nat) (lanes : List Nat) (items : List (List Word)) (n : Nat) : Regs :=
  let got := lanes.zip items
  let r := (List.range n).foldl (fun (r : Regs) i =>
    if got.isEmpty then r
    else
      let old := match r.readV (b + i) false with | .known o => o | .pend _ => .u 0
      r.writeV (b + i) false (.g (lanes256.map fun l =>
        match got.find? fun e => e.1 == l with
        | some e => ((e.2.getD i 0).setWidth 64)
        | none => old.at l))) r
  r.setP p ((r.pred p &&& ~~~laneMask lanes) ||| laneMask (got.map fun e => e.1))

/-- TAKE (R248, R52): items first, then QUIET, then YIELD; else the split waits in state Barrier. -/
def execTake (x : Opnds) (s : State) : Host.Outcome State Fault Refusal :=
  issueX s x fun c => c.known s x [(x.a, true)] fun offs =>
    let a := (offs.getD 0 (.u 0)).at 0
    c.withList s a fun s _ pipe _ =>
      let part := c.st.part
      let l := a.toNat
      let n := s.itemWords part l
      let b := x.b.vnum
      let lanes := lanesOf (c.act x)
      let ops := itemOps b n
      let yields := match s.wg? c.st.wg with | some w => w.yield | none => false
      if 1535 < b + n - 1 then c.trapWhole 0x06 3
      else if c.st.busy x.d true || ops.any (fun o => c.st.busy o.1 false) then .wait s .scoreboard
      else c.acquired s <|
        let have_ := s.listCount part l
        let put (s : State) (r : Regs) (v : DWord) : State := s.putRegs c (r.setS x.d.snum v)
        if 0 < have_ then
          let k := min have_ lanes.length
          let head := s.listHead part l
          if k ≠ 0 ∧ (List.range n).any fun i => c.regs.blocksWrite (b + i) false (decide (k = 256)) then
            .waitSym s ((List.range n).flatMap fun i => c.regs.symsOf (b + i) false)
          else c.sectorRoom s (s.listRanges part l head k false) <| c.reach s .write [l] fun s =>
            c.reach s .read (s.itemPages part l head k) fun s =>
            c.itemsRead s l head k fun s =>
            let items := (List.range k).map fun j => (List.range n).map fun i =>
              (BitVec.ofNat 32 (s.vread part (s.itemAddr part l (head + j) + 4 * i) 4))
            let r := takeRegs c.regs b x.c.pnum lanes items n
            if r.overflows c.st.logG then c.trapWhole 0x04 1
            else Act.acquired c 0 (.done ((put (s.vwrite part (l + 16) 8 ((head + k) % 2 ^ 64)) r (.ofNat 64 k)).refresh part))
        else if pipe.quiet || yields then
          .done (put s (takeRegs c.regs b x.c.pnum lanes [] n) (if pipe.quiet then bitMask 62 62 else bitMask 63 63))
        else .stay (s.onStrand c.key fun st => st.onSplit c.slot fun sp =>
          { sp with st := .barrier, bar := some (.take l), stall := .barrier, priv := sp.st == .trapped })

/-- WLQ (R246): tail - head, read together. -/
def execWlq (x : Opnds) (s : State) : Host.Outcome State Fault Refusal :=
  issueX s x fun c => c.known s x [(x.a, true)] fun offs =>
    let a := (offs.getD 0 (.u 0)).at 0
    c.withList s a fun s _ _ _ => c.acquired s <| c.reach s .read [a.toNat] fun s =>
      c.toS s x.d.snum (.ofNat 64 (s.listCount c.st.part a.toNat))

/-- QUIET (R249). -/
def execQuiet (x : Opnds) (s : State) : Host.Outcome State Fault Refusal :=
  issueX s x fun c =>
    match s.pipeOf c.st.wg with
    | none => c.trapWhole 0x06 0
    | some (_, p, _) =>
      let yields := match s.wg? c.st.wg with | some w => w.yield | none => false
      c.toS s x.d.snum (.ofNat 64 ((if p.quiet then 1 else 0) + (if yields then 2 else 0)))

/-- LAUNCH (R250, R278, R406): the index it uses is the queue's current WIDX. A packet address from 2^57 on traps with CODE 3,
ahead of the alignment check (DESIGN CHOICE, assumption 156). -/
def execLaunch (x : Opnds) (s : State) : Host.Outcome State Fault Refusal :=
  issueX s x fun c => c.known s x [(x.a, true), (x.b, true)] fun offs =>
    let q := ((offs.getD 0 (.u 0)).at 0).toNat % 4096
    let b := ((offs.getD 1 (.u 0)).at 0).toNat
    let part := c.st.part
    if !(s.part part).ownsQueue q then c.trapWhole 0x06 2
    else c.deviceReads s (s.qAddr part q) 64 fun s =>
    if s.qf part q 9 1 % 2 == 0 then c.trapWhole 0x06 2
    else if 2 ^ 57 ≤ b then c.trapWhole 0x06 3
    else if b % 64 ≠ 0 then c.trapWhole 0x05 3
    else if c.st.busy x.d true then .wait s .scoreboard
    else
      let widx := s.qf part q 28 4
      let r := s.qf part q 24 4
      if 2 ^ s.qf part q 8 1 ≤ (BitVec.ofNat 32 widx - BitVec.ofNat 32 r).toNat then .wait s .syncWord
      else c.released s .syncWord <| c.reach s .read [b] fun s => c.reach s .write [s.pktAddr part q widx] fun s => c.deviceReads s b 64 fun s =>
        let s := s.vwriteBytes part (s.pktAddr part q widx) (s.vreadBytes part b 64)
        .done ((s.notify part q (.ofNat 32 (widx + 1))).putRegs c (c.regs.setS x.d.snum (.ofNat 64 widx)))

end Sys2Proof.Machine
end

