-- ==== Sys2Proof/Machine/Xch.lean ====
section
/-! DEFINITION. Lane exchange instructions and reductions across lanes (R199 to R204). -/

namespace Sys2Proof.Machine

open Sys2Proof

/-- An exchange: each lane of `act` takes the value a function gives from the whole known sources (R200); shape G. -/
def Ic.exchange (c : Ic) (s : State) (x : Opnds) (ops : List (Opnd × Bool))
    (g : List Off → Nat → DWord) : Act :=
  c.known s x ops fun offs =>
    c.vec s x x.d.vnum x.t.is64 [] { f := fun l _ => (g offs l, 0), perLane := true }

/-- BFLY (R201). -/
def execBfly (x : Opnds) (s : State) : Host.Outcome State Fault Refusal :=
  let w := x.t.is64
  issueX s x fun c => c.exchange s x [(x.a, w), (x.b, w)] fun offs l =>
    if x.xs = 2 ∨ l / 2 ^ x.sel % 2 = x.xs then (offs.getD 0 (.u 0)).at (l ^^^ 2 ^ x.sel) else (offs.getD 1 (.u 0)).at l

/-- SHFL (R199): the index is a lane's low 32 bits modulo 256. -/
def execShfl (x : Opnds) (s : State) : Host.Outcome State Fault Refusal :=
  issueX s x fun c => c.exchange s x [(x.a, x.t.is64), (x.b, false)] fun offs l =>
    (offs.getD 0 (.u 0)).at (((offs.getD 1 (.u 0)).at l).toNat % 256)

/-- LROT (R202). -/
def execLrot (x : Opnds) (s : State) : Host.Outcome State Fault Refusal :=
  let sg := 2 ^ x.sel
  issueX s x fun c => c.exchange s x [(x.a, x.t.is64), (x.b, true)] fun offs l =>
    let k := ((offs.getD 1 (.u 0)).at 0).toNat % sg
    (offs.getD 0 (.u 0)).at (l / sg * sg + (l % sg + sg - k) % sg)

/-- LBCST (R202). -/
def execLbcst (x : Opnds) (s : State) : Host.Outcome State Fault Refusal :=
  let sg := 2 ^ x.sel
  issueX s x fun c => c.exchange s x [(x.a, x.t.is64), (x.b, true)] fun offs l =>
    (offs.getD 0 (.u 0)).at (l / sg * sg + ((offs.getD 1 (.u 0)).at 0).toNat % sg)

/-- The operation of a reduction on two present values (R203). -/
def redVal (t : Ty) (op : Nat) (a b : DWord) : DWord × Half :=
  let f := fmtOf t
  match op with
  | 0 => combineVal (nodeFmtOf t) a b
  | 1 =>
    if t.isFloat then let r := f.minMax false false false a.toNat b.toNat; (.ofNat 64 r.1, r.2)
    else (if intVal t a ≤ intVal t b then a else b, 0)
  | 2 =>
    if t.isFloat then let r := f.minMax true false false a.toNat b.toNat; (.ofNat 64 r.1, r.2)
    else (if intVal t a ≤ intVal t b then b else a, 0)
  | 3 => (a &&& b, 0)
  | 4 => (a ||| b, 0)
  | _ => (a ^^^ b, 0)

/-- The identity of a reduction (R203). -/
def redIdent (t : Ty) (op : Nat) : DWord :=
  let f := fmtOf t
  match op with
  | 1 => if t.isFloat then .ofNat 64 f.infCode else .ofNat 64 (modW t.width (tyRange t).2)
  | 2 => if t.isFloat then .ofNat 64 (f.signBit + f.infCode) else .ofNat 64 (modW t.width (tyRange t).1)
  | 3 => .ofNat 64 (2 ^ t.width - 1)
  | _ => 0

/-- One level of a sparse tree: present nodes by ascending index; siblings meet, a lone node is promoted (R74). -/
def sparseUp (t : Ty) (op : Nat) : List (Nat × DWord) → List (Nat × DWord) × Half
  | (i, a) :: (j, b) :: r =>
    if i / 2 = j / 2 then
      let (v, f) := redVal t op a b
      let (l, g) := sparseUp t op r
      ((i / 2, v) :: l, f ||| g)
    else
      let (l, g) := sparseUp t op ((j, b) :: r)
      ((i / 2, a) :: l, g)
  | [(i, a)] => ([(i / 2, a)], 0)
  | [] => ([], 0)

/-- The root of a sparse tree: `fuel` levels, the remaining ones only promoting. -/
def sparseRoot (t : Ty) (op : Nat) : Nat → List (Nat × DWord) → Half → Option DWord × Half
  | _, [], fl => (none, fl)
  | 0, (_, v) :: _, fl => (some v, fl)
  | fuel + 1, l, fl => let (l', g) := sparseUp t op l; sparseRoot t op fuel l' (fl ||| g)

/-- Leaves by ascending index; for one index the highest-numbered lane's value (R204). -/
def leafMap (act : Mask) (a b : Off) : List (Nat × DWord) :=
  (lanesOf act).foldl (fun acc l => mapIns (b.at l).toNat (a.at l) acc) []

/-- The lanes of act whose index another lane of act has too (R403). -/
def dupLanes (act : Mask) (b : Off) : Mask :=
  let ls := lanesOf act
  maskOf fun l => laneIn act l && ls.any fun k => k != l && b.at k == b.at l

/-- The operands of VRED and VSCAN with their checks (R203, R403): the leaf count is the whole of C (assumption 14). -/
def Ic.reduce (c : Ic) (s : State) (x : Opnds) (dups : Bool) (k : Mask → Off → Off → Act) : Act :=
  c.known s x [(x.a, x.t.is64), (x.b, false), (x.c, true)] fun offs =>
    let a := offs.getD 0 (.u 0)
    let b := offs.getD 1 (.u 0)
    let n := ((offs.getD 2 (.u 0)).at 0).toNat
    let act := c.act x
    if n = 0 ∨ 2 ^ 32 < n then c.trapWhole 0x06 4
    else
      let far := maskOf fun l => laneIn act l && decide (n ≤ (b.at l).toNat)
      let bad := if dups then far ||| dupLanes act b else far
      if bad ≠ 0 then Act.trapLanes 0x06 3 bad else k act a b

/-- VRED (R203): a vector result has shape G, whatever the operands' shapes (DESIGN CHOICE, assumption 152). -/
def execVred (x : Opnds) (s : State) : Host.Outcome State Fault Refusal :=
  issueX s x fun c => c.reduce s x true fun act a b =>
    let (r, fl) := sparseRoot x.t x.sel 33 (leafMap act a b) 0
    let v := r.getD (redIdent x.t x.sel)
    match x.d with
    | .s n => (c.toS s n v).also fun t => t.raise c.key fl
    | .v n => (c.vec s x n x.t.is64 [] { f := fun _ _ => (v, 0), perLane := true }).also fun t => t.raise c.key fl
    | _ => .done s

/-- VSCAN (R204): the result has shape G, whatever the operands' shapes (DESIGN CHOICE, assumption 152). -/
def execVscan (x : Opnds) (s : State) : Host.Outcome State Fault Refusal :=
  issueX s x fun c => c.reduce s x false fun act a b =>
    let leaves := leafMap act a b
    let pre (l : Nat) : DWord × Half :=
      let m := (b.at l).toNat + (if x.xs % 2 = 1 then 0 else 1)
      let (r, fl) := sparseRoot x.t x.sel 33 (leaves.filter fun e => decide (e.1 < m)) 0
      (r.getD (redIdent x.t x.sel), fl)
    c.vec s x x.d.vnum x.t.is64 [] { f := fun l _ => pre l, perLane := true }

/-- LCMP (R202): lanes 0 to n - 1 are written, whether active or not. -/
def execLcmp (x : Opnds) (s : State) : Host.Outcome State Fault Refusal :=
  let w := x.t.is64
  issueX s x fun c => c.known s x [(x.a, w)] fun offs =>
    let src := lanesOf (c.sp.mask &&& c.regs.pred x.b.pnum)
    let n := src.length
    let d := x.d.vnum
    if c.st.busy x.d w then .wait s .scoreboard
    else if c.regs.blocksWrite d w (decide (n = 256)) then .waitSym s (c.regs.symsOf d w)
    else
      let old := match c.regs.readV d w with | .known o => o | .pend _ => .u 0
      let r := c.regs.writeV d w
        (.g (lanes256.map fun j => if j < n then (offs.getD 0 (.u 0)).at (src.getD j 0) else old.at j))
      if r.overflows c.st.logG then c.trapWhole 0x04 1 else .done (s.putRegs c r)

end Sys2Proof.Machine
end

