-- ==== Sys2Proof/Machine/Dispatch.lean ====
section
/-! DEFINITION. The one dispatch: every instruction to its own meaning. -/

namespace Sys2Proof.Machine

open Sys2Proof

def exec (i : Instr) (s : State) : Host.Outcome State Fault Refusal :=
  match i with
  | .nopBase d a b => Sys2Proof.Machine.execNopBase d a b s
  | .saddBase d a b => Sys2Proof.Machine.execSaddBase d a b s
  | .saddImmBase d a imm => Sys2Proof.Machine.execSaddImmBase d a imm s
  | .saddLit d a lit => Sys2Proof.Machine.execSaddLit d a lit s
  | .ssubBase d a b => Sys2Proof.Machine.execSsubBase d a b s
  | .smulBase d a b => Sys2Proof.Machine.execSmulBase d a b s
  | .sandBase d a b => Sys2Proof.Machine.execSandBase d a b s
  | .sorBase d a b => Sys2Proof.Machine.execSorBase d a b s
  | .sxorBase d a b => Sys2Proof.Machine.execSxorBase d a b s
  | .sshlBase d a n => Sys2Proof.Machine.execSshlBase d a n s
  | .sshrBase d a n => Sys2Proof.Machine.execSshrBase d a n s
  | .smovBase d a => Sys2Proof.Machine.execSmovBase d a s
  | .smovImmBase d imm => Sys2Proof.Machine.execSmovImmBase d imm s
  | .smovLit d lit => Sys2Proof.Machine.execSmovLit d lit s
  | .qsetLtBase d a b => Sys2Proof.Machine.execQsetLtBase d a b s
  | .qsetEqBase d a b => Sys2Proof.Machine.execQsetEqBase d a b s
  | .braBase off => Sys2Proof.Machine.execBraBase off s
  | .braqBase q neg off => Sys2Proof.Machine.execBraqBase q neg off s
  | .vaddBase d a b => Sys2Proof.Machine.execVaddBase d a b s
  | .vsubBase d a b => Sys2Proof.Machine.execVsubBase d a b s
  | .vmulBase d a b => Sys2Proof.Machine.execVmulBase d a b s
  | .vandBase d a b => Sys2Proof.Machine.execVandBase d a b s
  | .vorBase d a b => Sys2Proof.Machine.execVorBase d a b s
  | .vxorBase d a b => Sys2Proof.Machine.execVxorBase d a b s
  | .vshlBase d a n => Sys2Proof.Machine.execVshlBase d a n s
  | .vshrBase d a n => Sys2Proof.Machine.execVshrBase d a n s
  | .vaddImmBase d a imm => Sys2Proof.Machine.execVaddImmBase d a imm s
  | .vaddLit d a lit => Sys2Proof.Machine.execVaddLit d a lit s
  | .vmovBase d a => Sys2Proof.Machine.execVmovBase d a s
  | .vmovScalarBase d a => Sys2Proof.Machine.execVmovScalarBase d a s
  | .vlaneBase d => Sys2Proof.Machine.execVlaneBase d s
  | .faddBase d a b => Sys2Proof.Machine.execFaddBase d a b s
  | .fsubBase d a b => Sys2Proof.Machine.execFsubBase d a b s
  | .fmulBase d a b => Sys2Proof.Machine.execFmulBase d a b s
  | .ffmaBase d a b => Sys2Proof.Machine.execFfmaBase d a b s
  | .fminBase d a b => Sys2Proof.Machine.execFminBase d a b s
  | .fmaxBase d a b => Sys2Proof.Machine.execFmaxBase d a b s
  | .frcpBase d a => Sys2Proof.Machine.execFrcpBase d a s
  | .ldBase d a b => Sys2Proof.Machine.execLdBase d a b s
  | .stBase d a b => Sys2Proof.Machine.execStBase d a b s
  | .ldsBase d a imm => Sys2Proof.Machine.execLdsBase d a imm s
  | .waitBase ld st => Sys2Proof.Machine.execWaitBase ld st s
  | .exitBase => Sys2Proof.Machine.execExitBase s
  | .nop x => Sys2Proof.Machine.execNop x s
  | .csrr x => Sys2Proof.Machine.execCsrr x s
  | .csrw x => Sys2Proof.Machine.execCsrw x s
  | .mode x => Sys2Proof.Machine.execMode x s
  | .clock x => Sys2Proof.Machine.execClock x s
  | .sleep x => Sys2Proof.Machine.execSleep x s
  | .trap x => Sys2Proof.Machine.execTrap x s
  | .tret x => Sys2Proof.Machine.execTret x s
  | .halt x => Sys2Proof.Machine.execHalt x s
  | .mboxPost x => Sys2Proof.Machine.execMboxPost x s
  | .mboxWait x => Sys2Proof.Machine.execMboxWait x s
  | .tlbinv x => Sys2Proof.Machine.execTlbinv x s
  | .tlbinvAll x => Sys2Proof.Machine.execTlbinvAll x s
  | .perfr x => Sys2Proof.Machine.execPerfr x s
  | .yield x => Sys2Proof.Machine.execYield x s
  | .idq x => Sys2Proof.Machine.execIdq x s
  | .esaveCtx x => Sys2Proof.Machine.execEsaveCtx x s
  | .esaveStack x => Sys2Proof.Machine.execEsaveStack x s
  | .eloadCtx x => Sys2Proof.Machine.execEloadCtx x s
  | .eloadStack x => Sys2Proof.Machine.execEloadStack x s
  | .bra x => Sys2Proof.Machine.execBra x s
  | .brd x => Sys2Proof.Machine.execBrd x s
  | .join x => Sys2Proof.Machine.execJoin x s
  | .brk x => Sys2Proof.Machine.execBrk x s
  | .call x => Sys2Proof.Machine.execCall x s
  | .ret x => Sys2Proof.Machine.execRet x s
  | .jmpi x => Sys2Proof.Machine.execJmpi x s
  | .calli x => Sys2Proof.Machine.execCalli x s
  | .exit x => Sys2Proof.Machine.execExit x s
  | .loop x => Sys2Proof.Machine.execLoop x s
  | .braq x => Sys2Proof.Machine.execBraq x s
  | .pset x => Sys2Proof.Machine.execPset x s
  | .pfset x => Sys2Proof.Machine.execPfset x s
  | .plog x => Sys2Proof.Machine.execPlog x s
  | .pmov x => Sys2Proof.Machine.execPmov x s
  | .vote x => Sys2Proof.Machine.execVote x s
  | .pcnt x => Sys2Proof.Machine.execPcnt x s
  | .pfirst x => Sys2Proof.Machine.execPfirst x s
  | .qset x => Sys2Proof.Machine.execQset x s
  | .qlog x => Sys2Proof.Machine.execQlog x s
  | .sadd x => Sys2Proof.Machine.execSadd x s
  | .ssub x => Sys2Proof.Machine.execSsub x s
  | .smul x => Sys2Proof.Machine.execSmul x s
  | .smad x => Sys2Proof.Machine.execSmad x s
  | .smulh x => Sys2Proof.Machine.execSmulh x s
  | .sdiv x => Sys2Proof.Machine.execSdiv x s
  | .srem x => Sys2Proof.Machine.execSrem x s
  | .sand x => Sys2Proof.Machine.execSand x s
  | .sor x => Sys2Proof.Machine.execSor x s
  | .sxor x => Sys2Proof.Machine.execSxor x s
  | .sshl x => Sys2Proof.Machine.execSshl x s
  | .sshr x => Sys2Proof.Machine.execSshr x s
  | .ssar x => Sys2Proof.Machine.execSsar x s
  | .smin x => Sys2Proof.Machine.execSmin x s
  | .smax x => Sys2Proof.Machine.execSmax x s
  | .smov x => Sys2Proof.Machine.execSmov x s
  | .ssel x => Sys2Proof.Machine.execSsel x s
  | .sclz x => Sys2Proof.Machine.execSclz x s
  | .spopc x => Sys2Proof.Machine.execSpopc x s
  | .sbfe x => Sys2Proof.Machine.execSbfe x s
  | .sbfi x => Sys2Proof.Machine.execSbfi x s
  | .vadd x => Sys2Proof.Machine.execVadd x s
  | .vsub x => Sys2Proof.Machine.execVsub x s
  | .vmul x => Sys2Proof.Machine.execVmul x s
  | .vmad x => Sys2Proof.Machine.execVmad x s
  | .vmulh x => Sys2Proof.Machine.execVmulh x s
  | .vand x => Sys2Proof.Machine.execVand x s
  | .vor x => Sys2Proof.Machine.execVor x s
  | .vxor x => Sys2Proof.Machine.execVxor x s
  | .vnot x => Sys2Proof.Machine.execVnot x s
  | .vshl x => Sys2Proof.Machine.execVshl x s
  | .vshr x => Sys2Proof.Machine.execVshr x s
  | .vsar x => Sys2Proof.Machine.execVsar x s
  | .vmin x => Sys2Proof.Machine.execVmin x s
  | .vmax x => Sys2Proof.Machine.execVmax x s
  | .vabs x => Sys2Proof.Machine.execVabs x s
  | .vneg x => Sys2Proof.Machine.execVneg x s
  | .vsel x => Sys2Proof.Machine.execVsel x s
  | .vclz x => Sys2Proof.Machine.execVclz x s
  | .vpopc x => Sys2Proof.Machine.execVpopc x s
  | .vbfe x => Sys2Proof.Machine.execVbfe x s
  | .vbfi x => Sys2Proof.Machine.execVbfi x s
  | .vdot4 x => Sys2Proof.Machine.execVdot4 x s
  | .vmov x => Sys2Proof.Machine.execVmov x s
  | .vlane x => Sys2Proof.Machine.execVlane x s
  | .vaddc x => Sys2Proof.Machine.execVaddc x s
  | .vsadd x => Sys2Proof.Machine.execVsadd x s
  | .fadd x => Sys2Proof.Machine.execFadd x s
  | .fsub x => Sys2Proof.Machine.execFsub x s
  | .fmul x => Sys2Proof.Machine.execFmul x s
  | .ffma x => Sys2Proof.Machine.execFfma x s
  | .fmin x => Sys2Proof.Machine.execFmin x s
  | .fmax x => Sys2Proof.Machine.execFmax x s
  | .fabs x => Sys2Proof.Machine.execFabs x s
  | .fneg x => Sys2Proof.Machine.execFneg x s
  | .frcp x => Sys2Proof.Machine.execFrcp x s
  | .frsq x => Sys2Proof.Machine.execFrsq x s
  | .fsqrt x => Sys2Proof.Machine.execFsqrt x s
  | .fdiv x => Sys2Proof.Machine.execFdiv x s
  | .fexp2 x => Sys2Proof.Machine.execFexp2 x s
  | .flog2 x => Sys2Proof.Machine.execFlog2 x s
  | .fsin x => Sys2Proof.Machine.execFsin x s
  | .fcos x => Sys2Proof.Machine.execFcos x s
  | .ftanh x => Sys2Proof.Machine.execFtanh x s
  | .fclass x => Sys2Proof.Machine.execFclass x s
  | .fscale x => Sys2Proof.Machine.execFscale x s
  | .frnd x => Sys2Proof.Machine.execFrnd x s
  | .ffrac x => Sys2Proof.Machine.execFfrac x s
  | .fminp x => Sys2Proof.Machine.execFminp x s
  | .fmaxp x => Sys2Proof.Machine.execFmaxp x s
  | .fdot2 x => Sys2Proof.Machine.execFdot2 x s
  | .fcvt x => Sys2Proof.Machine.execFcvt x s
  | .ftoi x => Sys2Proof.Machine.execFtoi x s
  | .itof x => Sys2Proof.Machine.execItof x s
  | .iext x => Sys2Proof.Machine.execIext x s
  | .fpack x => Sys2Proof.Machine.execFpack x s
  | .funpk x => Sys2Proof.Machine.execFunpk x s
  | .sclq x => Sys2Proof.Machine.execSclq x s
  | .bqnt x => Sys2Proof.Machine.execBqnt x s
  | .bdq x => Sys2Proof.Machine.execBdq x s
  | .bfly x => Sys2Proof.Machine.execBfly x s
  | .shfl x => Sys2Proof.Machine.execShfl x s
  | .lrot x => Sys2Proof.Machine.execLrot x s
  | .lbcst x => Sys2Proof.Machine.execLbcst x s
  | .vred x => Sys2Proof.Machine.execVred x s
  | .vscan x => Sys2Proof.Machine.execVscan x s
  | .lcmp x => Sys2Proof.Machine.execLcmp x s
  | .ld x => Sys2Proof.Machine.execLd x s
  | .st x => Sys2Proof.Machine.execSt x s
  | .lds x => Sys2Proof.Machine.execLds x s
  | .sts x => Sys2Proof.Machine.execSts x s
  | .ldv x => Sys2Proof.Machine.execLdv x s
  | .stv x => Sys2Proof.Machine.execStv x s
  | .ldt x => Sys2Proof.Machine.execLdt x s
  | .ldf x => Sys2Proof.Machine.execLdf x s
  | .stf x => Sys2Proof.Machine.execStf x s
  | .trx x => Sys2Proof.Machine.execTrx x s
  | .pref x => Sys2Proof.Machine.execPref x s
  | .ldc x => Sys2Proof.Machine.execLdc x s
  | .aadd x => Sys2Proof.Machine.execAadd x s
  | .aand x => Sys2Proof.Machine.execAand x s
  | .aor x => Sys2Proof.Machine.execAor x s
  | .axor x => Sys2Proof.Machine.execAxor x s
  | .amin x => Sys2Proof.Machine.execAmin x s
  | .amax x => Sys2Proof.Machine.execAmax x s
  | .axch x => Sys2Proof.Machine.execAxch x s
  | .acas x => Sys2Proof.Machine.execAcas x s
  | .ainc x => Sys2Proof.Machine.execAinc x s
  | .ctb x => Sys2Proof.Machine.execCtb x s
  | .ctbn x => Sys2Proof.Machine.execCtbn x s
  | .domarm x => Sys2Proof.Machine.execDomarm x s
  | .domclose x => Sys2Proof.Machine.execDomclose x s
  | .domq x => Sys2Proof.Machine.execDomq x s
  | .domqWait x => Sys2Proof.Machine.execDomqWait x s
  | .ctbm x => Sys2Proof.Machine.execCtbm x s
  | .fence x => Sys2Proof.Machine.execFence x s
  | .wait x => Sys2Proof.Machine.execWait x s
  | .batch x => Sys2Proof.Machine.execBatch x s
  | .waitb x => Sys2Proof.Machine.execWaitb x s
  | .bar x => Sys2Proof.Machine.execBar x s
  | .cbar x => Sys2Proof.Machine.execCbar x s
  | .syarm x => Sys2Proof.Machine.execSyarm x s
  | .syarv x => Sys2Proof.Machine.execSyarv x s
  | .sywait x => Sys2Proof.Machine.execSywait x s
  | .syflg x => Sys2Proof.Machine.execSyflg x s
  | .waitc x => Sys2Proof.Machine.execWaitc x s
  | .signal x => Sys2Proof.Machine.execSignal x s
  | .sytst x => Sys2Proof.Machine.execSytst x s
  | .rld x => Sys2Proof.Machine.execRld x s
  | .rst x => Sys2Proof.Machine.execRst x s
  | .ratm x => Sys2Proof.Machine.execRatm x s
  | .rsigCtr x => Sys2Proof.Machine.execRsigCtr x s
  | .rsigSync x => Sys2Proof.Machine.execRsigSync x s
  | .cpy x => Sys2Proof.Machine.execCpy x s
  | .cpym x => Sys2Proof.Machine.execCpym x s
  | .cpy2d x => Sys2Proof.Machine.execCpy2d x s
  | .swapf x => Sys2Proof.Machine.execSwapf x s
  | .append x => Sys2Proof.Machine.execAppend x s
  | .take x => Sys2Proof.Machine.execTake x s
  | .wlq x => Sys2Proof.Machine.execWlq x s
  | .quiet x => Sys2Proof.Machine.execQuiet x s
  | .launch x => Sys2Proof.Machine.execLaunch x s
  | .mxalloc x => Sys2Proof.Machine.execMxalloc x s
  | .mxfree x => Sys2Proof.Machine.execMxfree x s
  | .mxzero x => Sys2Proof.Machine.execMxzero x s
  | .mxzeroAbs x => Sys2Proof.Machine.execMxzeroAbs x s
  | .mxld x => Sys2Proof.Machine.execMxld x s
  | .mxmma x => Sys2Proof.Machine.execMxmma x s
  | .mxfin x => Sys2Proof.Machine.execMxfin x s
  | .mxst x => Sys2Proof.Machine.execMxst x s
  | .mxgang x => Sys2Proof.Machine.execMxgang x s
  | .mxrow x => Sys2Proof.Machine.execMxrow x s
  | .mxrowFlags x => Sys2Proof.Machine.execMxrowFlags x s
  | .mxshpQ x => Sys2Proof.Machine.execMxshpQ x s
  | .mxshpGen x => Sys2Proof.Machine.execMxshpGen x s
  | .pndq x => Sys2Proof.Machine.execPndq x s
  | .pndwait x => Sys2Proof.Machine.execPndwait x s
  | .vshape x => Sys2Proof.Machine.execVshape x s
  | .vshq x => Sys2Proof.Machine.execVshq x s
  | .reservedEncoding code words => Sys2Proof.Machine.execReservedEncoding code words s
  | .hgNop => Sys2Proof.Machine.execHgNop s
  | .hgLi d imm => Sys2Proof.Machine.execHgLi d imm s
  | .hgLui d imm => Sys2Proof.Machine.execHgLui d imm s
  | .hgMov d a => Sys2Proof.Machine.execHgMov d a s
  | .hgAdd d a b => Sys2Proof.Machine.execHgAdd d a b s
  | .hgAddi d a imm => Sys2Proof.Machine.execHgAddi d a imm s
  | .hgSub d a b => Sys2Proof.Machine.execHgSub d a b s
  | .hgMul d a b => Sys2Proof.Machine.execHgMul d a b s
  | .hgShl d a n => Sys2Proof.Machine.execHgShl d a n s
  | .hgShr d a n => Sys2Proof.Machine.execHgShr d a n s
  | .hgAnd d a b => Sys2Proof.Machine.execHgAnd d a b s
  | .hgOr d a b => Sys2Proof.Machine.execHgOr d a b s
  | .hgMin d a b => Sys2Proof.Machine.execHgMin d a b s
  | .hgMax d a b => Sys2Proof.Machine.execHgMax d a b s
  | .hgSlt d a b => Sys2Proof.Machine.execHgSlt d a b s
  | .hgSlti d a imm => Sys2Proof.Machine.execHgSlti d a imm s
  | .hgSeq d a b => Sys2Proof.Machine.execHgSeq d a b s
  | .hgSeqi d a imm => Sys2Proof.Machine.execHgSeqi d a imm s
  | .hgLdq d a f => Sys2Proof.Machine.execHgLdq d a f s
  | .hgLdk d a f => Sys2Proof.Machine.execHgLdk d a f s
  | .hgLde d f => Sys2Proof.Machine.execHgLde d f s
  | .hgLdw d n => Sys2Proof.Machine.execHgLdw d n s
  | .hgStw a n => Sys2Proof.Machine.execHgStw a n s
  | .hgNq d => Sys2Proof.Machine.execHgNq d s
  | .hgFit d a b => Sys2Proof.Machine.execHgFit d a b s
  | .hgBz a imm => Sys2Proof.Machine.execHgBz a imm s
  | .hgBnz a imm => Sys2Proof.Machine.execHgBnz a imm s
  | .hgBr imm => Sys2Proof.Machine.execHgBr imm s
  | .hgForq d imm => Sys2Proof.Machine.execHgForq d imm s
  | .hgNextq d imm => Sys2Proof.Machine.execHgNextq d imm s
  | .hgArgmin d f1 f2 => Sys2Proof.Machine.execHgArgmin d f1 f2 s
  | .hgArgmax d f1 f2 => Sys2Proof.Machine.execHgArgmax d f1 f2 s
  | .hgDecideD a b => Sys2Proof.Machine.execHgDecideD a b s
  | .hgDecideP n => Sys2Proof.Machine.execHgDecideP n s
  | .hgDecideF n => Sys2Proof.Machine.execHgDecideF n s
  | .loadDataArrival strand op => Sys2Proof.Machine.execLoadDataArrival strand op s
  | .symbolResolution strand sym => Sys2Proof.Machine.execSymbolResolution strand sym s
  | .storePerformed strand op => Sys2Proof.Machine.execStorePerformed strand op s
  | .strandLeavesExited strand => Sys2Proof.Machine.execStrandLeavesExited strand s
  | .drainingEnd quarter start => Sys2Proof.Machine.execDrainingEnd quarter start s
  | .slotDrowsy strand slot => Sys2Proof.Machine.execSlotDrowsy strand slot s
  | .sleepExpiry strand split => Sys2Proof.Machine.execSleepExpiry strand split s
  | .jointOperationStart cluster entry => Sys2Proof.Machine.execJointOperationStart cluster entry s
  | .jointOperationComplete joint => Sys2Proof.Machine.execJointOperationComplete joint s
  | .bandComplete strand op => Sys2Proof.Machine.execBandComplete strand op s
  | .mxOperationComplete strand op => Sys2Proof.Machine.execMxOperationComplete strand op s
  | .copyComplete strand op => Sys2Proof.Machine.execCopyComplete strand op s
  | .cpymReceiverArrival strand op core => Sys2Proof.Machine.execCpymReceiverArrival strand op core s
  | .compactionMove quarter => Sys2Proof.Machine.execCompactionMove quarter s
  | .scratchpadCompaction core => Sys2Proof.Machine.execScratchpadCompaction core s
  | .swapSector die => Sys2Proof.Machine.execSwapSector die s
  | .coreClaspHoldExpiry core idx => Sys2Proof.Machine.execCoreClaspHoldExpiry core idx s
  | .nodeArrivalSlice idx => Sys2Proof.Machine.execNodeArrivalSlice idx s
  | .spillRefill slice dom => Sys2Proof.Machine.execSpillRefill slice dom s
  | .quiescence source => Sys2Proof.Machine.execQuiescence source s
  | .periodRollover part => Sys2Proof.Machine.execPeriodRollover part s
  | .notifyWrite part q w => Sys2Proof.Machine.execNotifyWrite part q w s
  | .packetAccept q => Sys2Proof.Machine.execPacketAccept q s
  | .dependencePoll q idx => Sys2Proof.Machine.execDependencePoll q idx s
  | .launchPacket q idx => Sys2Proof.Machine.execLaunchPacket q idx s
  | .pipelinePacket q idx => Sys2Proof.Machine.execPipelinePacket q idx s
  | .barrierAndPacket q idx => Sys2Proof.Machine.execBarrierAndPacket q idx s
  | .signalPacket q idx => Sys2Proof.Machine.execSignalPacket q idx s
  | .domainArmPacket q idx => Sys2Proof.Machine.execDomainArmPacket q idx s
  | .dispatchDecision die part => Sys2Proof.Machine.execDispatchDecision die part s
  | .preemptDecision die part => Sys2Proof.Machine.execPreemptDecision die part s
  | .faultDecision die => Sys2Proof.Machine.execFaultDecision die s
  | .policyOverrun die => Sys2Proof.Machine.execPolicyOverrun die s
  | .policyLoad part => Sys2Proof.Machine.execPolicyLoad part s
  | .policyRevert part => Sys2Proof.Machine.execPolicyRevert part s
  | .imageVerdict part => Sys2Proof.Machine.execImageVerdict part s
  | .ack p dup => Sys2Proof.Machine.execAck p dup s
  | .loadRequest p => Sys2Proof.Machine.execLoadRequest p s
  | .loadResponse p => Sys2Proof.Machine.execLoadResponse p s
  | .storePacket p => Sys2Proof.Machine.execStorePacket p s
  | .atomicRequest p => Sys2Proof.Machine.execAtomicRequest p s
  | .atomicResponse p => Sys2Proof.Machine.execAtomicResponse p s
  | .nodePacket p => Sys2Proof.Machine.execNodePacket p s
  | .rootPacket p => Sys2Proof.Machine.execRootPacket p s
  | .counterSignal p => Sys2Proof.Machine.execCounterSignal p s
  | .syncArrival p => Sys2Proof.Machine.execSyncArrival p s
  | .notReady p => Sys2Proof.Machine.execNotReady p s
  | .notReadyResend idx => Sys2Proof.Machine.execNotReadyResend idx s
  | .notReadyTimeout idx => Sys2Proof.Machine.execNotReadyTimeout idx s
  | .portClaspArrival dev p => Sys2Proof.Machine.execPortClaspArrival dev p s
  | .sliceHoldExpiry slice idx => Sys2Proof.Machine.execSliceHoldExpiry slice idx s
  | .portClaspHoldExpiry plane dev idx => Sys2Proof.Machine.execPortClaspHoldExpiry plane dev idx s
  | .podHomeHoldExpiry slice idx => Sys2Proof.Machine.execPodHomeHoldExpiry slice idx s
  | .ueNotifyWrite part k w => Sys2Proof.Machine.execUeNotifyWrite part k w s
  | .ueWrite part k => Sys2Proof.Machine.execUeWrite part k s
  | .ueRead part k => Sys2Proof.Machine.execUeRead part k s
  | .ueFetchAndAdd part k => Sys2Proof.Machine.execUeFetchAndAdd part k s
  | .ueCompareAndSwap part k => Sys2Proof.Machine.execUeCompareAndSwap part k s
  | .ueEntryComplete part k idx data => Sys2Proof.Machine.execUeEntryComplete part k idx data s
  | .ueRetransmitTimeout part k idx => Sys2Proof.Machine.execUeRetransmitTimeout part k idx s
  | .pathTableUpdate part peer => Sys2Proof.Machine.execPathTableUpdate part peer s
  | .entropyExclusionExpiry part peer entropy => Sys2Proof.Machine.execEntropyExclusionExpiry part peer entropy s
  | .hostAccess a => Sys2Proof.Machine.execHostAccess a s
  | .frameCrcFailure port again => Sys2Proof.Machine.execFrameCrcFailure port again s
  | .negativeAcknowledgment port frame => Sys2Proof.Machine.execNegativeAcknowledgment port frame s
  | .laneLoss port lane => Sys2Proof.Machine.execLaneLoss port lane s
  | .laneRetrainDone port => Sys2Proof.Machine.execLaneRetrainDone port s
  | .portDown port detail => Sys2Proof.Machine.execPortDown port detail s
  | .livePlaneAnnouncement dev incarn planes => Sys2Proof.Machine.execLivePlaneAnnouncement dev incarn planes s
  | .announcementTimer => Sys2Proof.Machine.execAnnouncementTimer s
  | .recoveryQuery dev plane via => Sys2Proof.Machine.execRecoveryQuery dev plane via s
  | .recoveryAnswer dev plane performed => Sys2Proof.Machine.execRecoveryAnswer dev plane performed s
  | .recoveryTimerExpiry dev plane seq => Sys2Proof.Machine.execRecoveryTimerExpiry dev plane seq s
  | .peerLostTimeout dev => Sys2Proof.Machine.execPeerLostTimeout dev s
  | .staleAnswer p => Sys2Proof.Machine.execStaleAnswer p s
  | .refusedAnswer p faults => Sys2Proof.Machine.execRefusedAnswer p faults s
  | .deviceReset flash staging => Sys2Proof.Machine.execDeviceReset flash staging s
  | .firmwareFault flash staging => Sys2Proof.Machine.execFirmwareFault flash staging s
  | .managementWrite csr v => Sys2Proof.Machine.execManagementWrite csr v s
  | .coreLeavesPartition part core => Sys2Proof.Machine.execCoreLeavesPartition part core s
  | .scratchClearComplete core => Sys2Proof.Machine.execScratchClearComplete core s
  | .attreqWrite part v => Sys2Proof.Machine.execAttreqWrite part v s
  | .attestationReport selfTest => Sys2Proof.Machine.execAttestationReport selfTest s
  | .capWrite w => Sys2Proof.Machine.execCapWrite w s
  | .powerThrottle meas => Sys2Proof.Machine.execPowerThrottle meas s
  | .frreadWrite part w => Sys2Proof.Machine.execFrreadWrite part w s
  | .frresumeWrite part w => Sys2Proof.Machine.execFrresumeWrite part w s
  | .faultGroupWrite part => Sys2Proof.Machine.execFaultGroupWrite part s
  | .patrolScrub space addr => Sys2Proof.Machine.execPatrolScrub space addr s
  | .saveComplete wg => Sys2Proof.Machine.execSaveComplete wg s
  | .saveTimeout wg => Sys2Proof.Machine.execSaveTimeout wg s
  | .restoreComplete wg => Sys2Proof.Machine.execRestoreComplete wg s
  | .hangWatchdog strand => Sys2Proof.Machine.execHangWatchdog strand s
  | .breakpointMatch strand split => Sys2Proof.Machine.execBreakpointMatch strand split s
  | .watchpointMatch strand split => Sys2Proof.Machine.execWatchpointMatch strand split s
  | .agentEntry quarter => Sys2Proof.Machine.execAgentEntry quarter s
  | .stepReentry quarter => Sys2Proof.Machine.execStepReentry quarter s
  | .qstopStop quarter => Sys2Proof.Machine.execQstopStop quarter s
  | .qstopResume quarter => Sys2Proof.Machine.execQstopResume quarter s
  | .dbgStop part => Sys2Proof.Machine.execDbgStop part s
  | .dbgDump part => Sys2Proof.Machine.execDbgDump part s
  | .dbgEnter part slot => Sys2Proof.Machine.execDbgEnter part slot s
  | .dbgUnhalt part slot => Sys2Proof.Machine.execDbgUnhalt part slot s
  | .dbgResume part => Sys2Proof.Machine.execDbgResume part s
  | .dbgreplyWrite part v => Sys2Proof.Machine.execDbgreplyWrite part v s
  | .dumpComplete quarter => Sys2Proof.Machine.execDumpComplete quarter s
  | .traceSample quarter => Sys2Proof.Machine.execTraceSample quarter s
  | .mmioRegisterWrite part off v => Sys2Proof.Machine.execMmioRegisterWrite part off v s
  | .walkComplete w => Sys2Proof.Machine.execWalkComplete w s
  | .instructionFetchComplete strand split => Sys2Proof.Machine.execInstructionFetchComplete strand split s
  | .uetPacketArrival p => Sys2Proof.Machine.execUetPacketArrival p s
  | .linkTrainingComplete port => Sys2Proof.Machine.execLinkTrainingComplete port s

end Sys2Proof.Machine
end

