-- ==== Sys2Proof/Machine/Issue.lean ====
section
/-! DEFINITION. What stands between the choice of a split and the effect of its instruction: drowsy slots (R104), upset registers (R419, R420, R422) and the vector residue check (R383). -/

namespace Sys2Proof

/-- The operand fields of an instruction of a strand with their numbers in TINFO.CODE (R370): D 1, A 2, B 3, C 4. -/
def Instr.operands (i : Instr) : List (Nat × Opnd) :=
  match i.ext? with
  | some (_, _, x) => [(1, x.d), (2, x.a), (3, x.b), (4, x.c)]
  | none =>
    match i with
    | .saddBase d a b | .ssubBase d a b | .smulBase d a b | .sandBase d a b | .sorBase d a b | .sxorBase d a b =>
      [(1, .s d), (2, .s a), (3, .s b)]
    | .saddImmBase d a _ | .saddLit d a _ | .sshlBase d a _ | .sshrBase d a _ | .smovBase d a => [(1, .s d), (2, .s a)]
    | .smovImmBase d _ | .smovLit d _ => [(1, .s d)]
    | .qsetLtBase d a b | .qsetEqBase d a b => [(1, .q d), (2, .s a), (3, .s b)]
    | .vaddBase d a b | .vsubBase d a b | .vmulBase d a b | .vandBase d a b | .vorBase d a b | .vxorBase d a b
    | .faddBase d a b | .fsubBase d a b | .fmulBase d a b | .ffmaBase d a b | .fminBase d a b | .fmaxBase d a b =>
      [(1, .v d), (2, .v a), (3, .v b)]
    | .vshlBase d a _ | .vshrBase d a _ | .vaddImmBase d a _ | .vaddLit d a _ | .vmovBase d a | .frcpBase d a
    | .ldsBase d a _ => [(1, .v d), (2, .v a)]
    | .vmovScalarBase d a => [(1, .v d), (2, .s a)]
    | .vlaneBase d => [(1, .v d)]
    | .ldBase d a b | .stBase d a b => [(1, .v d), (2, .t a), (3, .v b)]
    | _ => []

/-- Does an instruction take operands of 64 bits? -/
def Instr.wideOps (i : Instr) : Bool := match i.ext? with | some (_, _, x) => x.t.is64 | none => false

/-- Does an instruction read its D field: it takes an operand there, or a part of what stands there? -/
def Instr.readsD : Instr → Bool
  | .st _ | .sts _ | .stv _ | .stf _ | .rst _ | .ratm _ | .rsigCtr _ | .rsigSync _ | .ctb _ | .acas _ | .cpy _ | .cpym _ | .cpy2d _
  | .loop _ | .syarm _ | .syarv _ | .syflg _ | .signal _ | .fpack _ | .sbfi _ | .vbfi _ | .ffmaBase _ _ _ | .stBase _ _ _ => true
  | _ => false

/-- The fields that name the first of two scalars (R241, R254). -/
def Instr.pairFields : Instr → List Nat
  | .cpy2d _ | .ctbm _ => [3]
  | .mxld _ | .mxst _ => [2, 3]
  | .mxmma _ => [2, 3, 4]
  | .mxfin _ => [2]
  | _ => []

/-- The operand fields that an instruction reads. -/
def Instr.reads (i : Instr) : List (Nat × Opnd) :=
  let l := if i.readsD then i.operands else i.operands.filter fun e => e.1 != 1
  l ++ l.filterMap fun e =>
    match e.2 with
    | .s n => if i.pairFields.contains e.1 then some (e.1, .s (n + 1)) else none
    | _ => none

end Sys2Proof

namespace Sys2Proof.Machine

open Sys2Proof

/-! ## Drowsy slots (R104) -/

/-- The slots of the strand's block that hold the lanes of a vector register. -/
def VReg.slots (r : VReg) : List Nat := match r.shape with | .g k _ => [k] | .p k _ => [k] | _ => []

/-- The vector registers of an operand. -/
def vregsOf (wide : Bool) : Opnd → List Nat
  | .v n => if wide then [n, n + 1] else [n]
  | _ => []

/-- Does an instruction take a field as 64 bits a lane: a pair of registers, where it names a vector register? -/
def wideField (i : Instr) (code : Nat) : Bool :=
  match i with
  | .fcvt x | .ftoi x | .itof x | .iext x => if code = 1 then x.t.is64 else (selTyOf x).is64
  | .ctb x | .ctbn x => if code = 4 then x.xs != 0 else code == 1 && x.t.is64
  | .rld x | .rst x => code == 1 && x.t.is64
  | .ratm x => code == 1 && (x.t.is64 || x.sel == 7)
  | .ld x | .st x | .lds x | .sts x | .ldv x | .stv x | .aadd x | .aand x | .aor x | .axor x | .amin x | .amax x | .axch x | .acas x
  | .ainc x => code != 2 && code != 3 && x.t.is64
  | i => i.wideOps

/-- The vector registers that an instruction names, with those of a work-list item (R247, R248). -/
def State.vregsNamed (s : State) (st : Strand) (i : Instr) : List Nat :=
  let item (x : Opnds) : List Nat :=
    match st.ctx.regs.read x.lit true x.a with
    | .known a => (List.range (s.itemWords st.part (a.at 0).toNat)).map fun k => x.b.vnum + k
    | .pend _ => []
  match i with
  | .append x | .take x => item x
  | i => i.operands.flatMap fun e => vregsOf (wideField i e.1) e.2

/-- The slots that an instruction touches as it issues: those of its vector registers; ESAVE.ctx touches all that hold lanes; VSHQ
and PNDQ read the shape store only (R206). -/
def State.slotsTouched (s : State) (st : Strand) (i : Instr) : List Nat :=
  let r := st.ctx.regs
  match i with
  | .vshq _ | .pndq _ => []
  | .esaveCtx _ => r.live
  | i => (s.vregsNamed st i).flatMap fun n => (mapGet VReg.zero r.v n).slots

/-- The drowsy ones among slots of a strand. -/
def State.drowsyOf (s : State) (key : Nat) (slots : List Nat) : List (Nat × Nat) :=
  (s.quarter (quarterOf key)).drowsy.filter fun d => d.1 == key && slots.contains d.2

/-- The drowsy slots that an instruction touches. -/
def State.drowsyHit (s : State) (key : Nat) (st : Strand) (i : Instr) : List (Nat × Nat) := s.drowsyOf key (s.slotsTouched st i)

/-- The slots that an instruction touches are in use at its issue (R104). -/
def State.useFor (s : State) (key : Nat) (i : Instr) : State :=
  match s.strand? key with
  | some st => s.useSlots key (s.slotsTouched st i)
  | none => s

/-- The slots that an instruction has taken for what it writes: a result's, or an operand's copy (R93). -/
def newSlots (key : Nat) (s t : State) : List Nat :=
  match s.strand? key, t.strand? key with
  | some a, some b => b.ctx.regs.live.filter fun k => !a.ctx.regs.live.contains k
  | _, _ => []

/-- Cycles of a wake that touches n drowsy slots (R104). -/
def wakeCycles (n : Nat) : Nat := min 6 (1 + n)

/-- Wake slots: the split stalls for the wake, and the slots are drowsy no more. -/
def State.wakeSlots (s : State) (key slot : Nat) (hit : List (Nat × Nat)) : State :=
  let s := s.onQuarter (quarterOf key) fun q => { q with drowsy := q.drowsy.filter fun d => !hit.contains d }
  s.onStrand key fun st => st.onSplit slot fun sp =>
    { sp with stall := .drowsyWake, wake := s.clock.toNat + wakeCycles hit.length }

/-! ## Upset registers and the vector residue check (R383, R419, R420, R422) -/

/-- Where an upset of a register lies, as `Check.addr` gives it: lane l of vector register n at 256 * n + l, scalar register n
at 65,536 + n, the shape entry of vector register n at 131,072 + n, the form of vector register n at 196,608 + n and of scalar register n
at 262,144 + n. -/
inductive RegCell where
  | lane (n l : Nat) | scalar (n : Nat) | shape (n : Nat) | form (n : Nat) | formS (n : Nat)
deriving DecidableEq, Repr

/-- The cell of a number. -/
def RegCell.of (a : Nat) : RegCell :=
  if a < 65536 then .lane (a / 256) (a % 256) else if a < 131072 then .scalar (a - 65536)
  else if a < 196608 then .shape (a - 131072) else if a < 262144 then .form (a - 196608) else .formS (a - 262144)

/-- Does an operand read a cell? A form stands only in a pendant register. -/
def opndMeets (r : Regs) (wide : Bool) (o : Opnd) (c : RegCell) : Bool :=
  match c, o with
  | .form n, _ => (vregsOf wide o).contains n && match (r.vreg n).shape with | .p .. => true | _ => false
  | .lane n _, _ => (vregsOf wide o).contains n
  | .shape n, _ => (vregsOf wide o).contains n
  | .scalar n, .s m => n == m
  | .formS n, .s m => n == m && r.spend n
  | _, _ => false

/-- The lanes that lose a cell. -/
def RegCell.lanes (c : RegCell) (mask : Mask) : Mask := match c with | .lane _ l => 1 <<< l | _ => mask

/-- A cell as it stands once its word is lost (R420): the loss pattern; a lost shape entry leaves shape U. A lost form entry leaves
its pendant no value that the spec states: shape U, or a scalar, with a free one (assumption 3). -/
def Regs.lose (r : Regs) (free : Word) : RegCell → Regs
  | .form n => { r with v := mapPut VReg.zero r.v n { shape := .u free, pairHi := false } }
  | .lane n l =>
    { r with v := mapPut VReg.zero r.v n (match mapGet VReg.zero r.v n with
        | { shape := .g k lanes, pairHi := h } => { shape := .g k (lanes.set l 0xAAAAAAAA), pairHi := h }
        | x => x) }
  | .formS n => { r with s := mapPut (.val 0) r.s n (.val (free.setWidth 64)) }
  | .scalar n => { r with s := mapPut (.val 0) r.s n (.val 0xAAAAAAAAAAAAAAAA) }
  | .shape n => { r with v := mapPut VReg.zero r.v n { shape := .u 0xAAAAAAAA, pairHi := false } }

/-- Does an instruction read the lanes of its operands? VSHQ and PNDQ read their shapes and forms only (R206). -/
def readsLanes : Instr → Bool
  | .vshq _ | .pndq _ => false
  | _ => true

/-- The upset register that an instruction reads, with the operand field. -/
def State.regUpset (s : State) (key : Nat) (i : Instr) : Option (Check × Nat) :=
  s.checks.findSome? fun c =>
    let cell := RegCell.of c.addr
    let read : Bool := readsLanes i || match cell with | .lane _ _ => false | _ => true
    if c.cls == 0x05 && c.sub == 0x01 && c.unit == key && read then
      (i.reads.find? fun e => opndMeets ((s.strand? key).elim Regs.empty fun st => st.ctx.regs) (wideField i e.1) e.2 cell).map fun e =>
        (c, e.1)
    else none

/-- The upset element of a tile that MXROW.flags is about to find (R419): it does once the tile has no operation under way (R269). -/
def State.tileUpset (s : State) (st : Strand) (key : Nat) (i : Instr) : Option (Check × Nat) :=
  match i with
  | .mxrowFlags x =>
    let h := x.a.rawNum
    if st.ops.any fun o => (o.tile == some h || o.sentOf == some h) && !o.done then none
    else (s.checks.find? fun c => c.cls == 0x05 && c.sub == 0x03 && c.unit == key && decide (c.addr / 65536 = h)).map fun c => (c, h)
  | _ => none

/-- Does an instruction run on the vector unit, whose results carry a residue (R383)? -/
def onVectorUnit (i : Instr) : Bool := i.operands.any fun e => match e with | (1, .v _) => true | _ => false

/-- The residue error that the vector unit is about to find. -/
def State.residue (s : State) (core : Nat) (i : Instr) : Option Check :=
  if onVectorUnit i then s.checks.find? fun c => c.cls == 0x06 && c.sub == 0x02 && c.unit == core else none

/-- Park a split whose vector instruction failed its check twice, under ENGINE 0x02, and quarantine the core (R383, R386). -/
def State.parkResidue (s : State) (c : Ic) : State :=
  let t : Trap := { cls := 0x06, sub := 0x02, code := 0, lanes := c.sp.mask, restart := true, async := false, oprec := 0 }
  let s := s.onStrand c.key fun st =>
    let sp := { st.split c.slot with st := .parked, stall := .trap, words := [], priv := c.sp.st == .trapped
                                     park := some parkByTrap }
    let ctx := st.ctx.trapRegs t c.slot c.sp.pc
    { st with ctx := { ctx with splits := ctx.splits.set c.slot sp } }
  let r := { s.strandRec c.key c.st 0x06 0x02 c.sp.pc 0 c.sp.mask with outcome := 3, precise := true }
  (s.route { part := c.st.part, wg := some c.st.wg, split := some (c.key, c.slot), op := none, fault := r
             core := coreOf c.key }).quarantine (coreOf c.key)

/-- A record of a success on retry, about a split's instruction (R383). -/
def State.retryRec (s : State) (c : Ic) (cls sub : Nat) : State :=
  s.postRec c.st.part { s.strandRec c.key c.st cls sub c.sp.pc 0 0 with outcome := 1 }

/-- A word that an instruction itself reads fails its check (R383, R384, R420, R422): a record where the retry succeeds; else the split
parks, a sound cell holds what `lose` leaves, and a lasting fault quarantines the core. -/
def State.ownRead (s : State) (c : Ic) (k : Check) (code : Nat) (lanes : Mask) (lose : State → State) : State × Bool :=
  let gone := { s with checks := s.checks.erase k }
  if k.retryOk then (gone.retryRec c k.cls k.sub, true)
  else if k.sound then ((lose gone).parkLoss c lanes k.sub 2 code, false)
  else ((s.parkLoss c lanes k.sub 3 code).quarantine (coreOf c.key), false)

/-- The checks of the register file, of accumulation memory and of the vector unit as an instruction issues: the state, and whether it
goes on. -/
def State.unitChecks (s : State) (c : Ic) (i : Instr) : State × Bool :=
  match s.regUpset c.key i, s.tileUpset c.st c.key i with
  | some (k, code), _ =>
    let cell := RegCell.of k.addr
    s.ownRead c k code (cell.lanes c.sp.mask) fun t =>
      let (v, t) := t.draw
      t.onStrand c.key fun st => st.onCtx fun x => { x with regs := x.regs.lose (v.setWidth 32) cell }
  | none, some (k, h) =>
    s.ownRead c k 2 c.sp.mask fun t => t.onStrand c.key fun st => st.onTile h fun y =>
      { y with vals := mapPut (some 0) y.vals (k.addr % 65536) (some 0xAAAAAAAA) }
  | none, none =>
    match s.residue (coreOf c.key) i with
    | none => (s, true)
    | some k =>
      let gone := { s with checks := s.checks.erase k }
      if k.retryOk then (gone.retryRec c 0x06 0x02, true) else (gone.parkResidue c, false)

/-! ## The issue -/

/-- What stops an instruction short of its effect at issue: the state without it; none where it goes on. -/
inductive Gate where
  | pass (s : State)
  | held (s : State)
deriving DecidableEq, Repr

/-- A split's next instruction at the gate: a drowsy slot or a unit's check holds it. -/
def State.gate (s : State) (key slot : Nat) (i : Instr) : Gate :=
  match s.strand? key with
  | none => .held s
  | some st =>
    match s.drowsyHit key st i with
    | [] =>
      let (s, ok) := s.unitChecks { key := key, slot := slot, st := st, sp := st.split slot } i
      if ok then .pass s else .held s
    | hit => .held (s.wakeSlots key slot hit)

/-- The instruction whose words a split holds; none before the fetch completes. -/
def State.fetched (s : State) (key slot : Nat) : Option Instr :=
  (s.strand? key).bind fun st => (decodeWords (st.split slot).words).map (·.1)

/-- The state in which a split that may issue issues, with its instruction; or the state in which it does not. -/
def State.chooseSplit (s : State) (key slot : Nat) : State × Option Instr :=
  if s.mayIssue key slot then
    match s.fetched key slot with
    | none => (s, none)
    | some i =>
      match s.gate key slot i with
      | .held t => (t, none)
      | .pass t => ({ t.useFor key i with cur := some (key, slot) }, some i)
  else (s, none)

/-! ## The vector pipe (R13, R208, R251) -/

/-- Beats of an instruction of the vector pipe whose result is not all U or A: twice as many for register pairs. -/
def beats (n : Nat) (x : Opnds) : Nat := if x.t.is64 then 2 * n else n

/-- Beats of a load: none into a scalar, which is one access for its split (R251). -/
def loadBeats (x : Opnds) : Nat := match x.d with | .s _ => 0 | _ => beats 8 x

/-- Vector-pipe cycles of an instruction (R208, R251), where it computes: nothing for one of the scalar pipe. -/
def pipeOf : Instr → Nat
  | .vaddBase .. | .vsubBase .. | .vmulBase .. | .vandBase .. | .vorBase .. | .vxorBase .. | .vshlBase .. | .vshrBase ..
  | .vaddImmBase .. | .vaddLit .. | .vmovBase .. | .vmovScalarBase .. | .vlaneBase .. | .faddBase .. | .fsubBase .. | .fmulBase ..
  | .ffmaBase .. | .fminBase .. | .fmaxBase .. | .ldBase .. | .stBase .. | .ldsBase .. => 8
  | .frcpBase .. => 32
  | .vadd x | .vsub x | .vmul x | .vmad x | .vmulh x | .vand x | .vor x | .vxor x | .vnot x | .vshl x | .vshr x | .vsar x
  | .vmin x | .vmax x | .vabs x | .vneg x | .vsel x | .vclz x | .vpopc x | .vbfe x | .vbfi x | .vmov x | .vlane x | .vaddc x
  | .vsadd x | .vdot4 x => beats 8 x
  | .fadd x | .fsub x | .fmul x | .ffma x | .fmin x | .fmax x | .fminp x | .fmaxp x | .fabs x | .fneg x | .fclass x
  | .fscale x | .frnd x | .ffrac x | .fdot2 x => beats 8 x
  | .frcp x | .frsq x | .fsqrt x | .fdiv x => if x.t.is64 then 128 else 32
  | .fexp2 _ | .flog2 _ | .fsin _ | .fcos _ | .ftanh _ => 32
  | .pset _ | .pfset _ | .plog _ | .pmov _ | .fcvt _ | .ftoi _ | .itof _ | .iext _ | .fpack _ | .funpk _ | .sclq _ | .bqnt _
  | .bdq _ | .bfly _ | .lrot _ | .lbcst _ | .pref _ => 8
  | .vshape x => beats 8 x
  | .shfl _ | .lcmp _ | .vred _ | .vscan _ | .ldt _ => 16
  | .ld x | .lds x | .ldv x | .ldc x => loadBeats x
  | .st x | .sts x | .stv x | .ldf x | .stf x | .acas x | .aadd x | .aand x | .aor x | .axor x
  | .amin x | .amax x | .axch x | .ainc x | .ctb x | .ctbn x | .rld x | .rst x => beats 8 x
  | .ratm x => if x.sel = 7 then 16 else beats 8 x
  | .append _ | .take _ => 8
  | _ => 0

/-- Does an operand take beats: a lane predicate, or a vector register whose shape is G or P (R92)? -/
def Regs.beaten (r : Regs) (wide : Bool) (o : Opnd) : Bool :=
  match o with
  | .p _ => true
  | o => (vregsOf wide o).any fun n => match (mapGet VReg.zero r.v n).shape with | .g .. | .p .. => true | _ => false

/-- Does a pendant stand in an instruction's destination: a step has been recorded, not computed (R99, R100, R208)? -/
def Regs.recorded (r : Regs) (i : Instr) : Bool :=
  i.operands.any fun e => e.1 == 1 && (vregsOf i.wideOps e.2).any fun n =>
    match (mapGet VReg.zero r.v n).shape with | .p .. => true | _ => false

/-- Is an instruction one of accesses to memory: it takes its beats whatever its registers hold (R251)? -/
def perLaneAccess (i : Instr) : Bool :=
  match i with
  | .ldBase .. | .stBase .. | .ldsBase .. | .ld _ | .st _ | .lds _ | .sts _ | .ldv _ | .stv _ | .ldt _ | .ldf _ | .stf _ | .ldc _
  | .aadd _ | .aand _ | .aor _ | .axor _ | .amin _ | .amax _ | .axch _ | .acas _ | .ainc _ | .ctb _ | .ctbn _ | .rld _ | .rst _
  | .ratm _ | .append _ | .take _ | .pref _ => true
  | _ => false

/-- The cycles for which the vector pipe has worked on an instruction that has taken a split from one state to another: none where
it has not issued, has trapped or has run in the scalar pipe (R92). -/
def pipeCycles (i : Instr) (key slot : Nat) (s t : State) : Nat :=
  let q := quarterOf key
  match s.strand? key, t.strand? key with
  | some a, some b =>
    if (t.quarter q).issued = (s.quarter q).issued || ((b.split slot).st == .trapped && (a.split slot).st != .trapped) then 0
    else if perLaneAccess i then pipeOf i
    else if b.ctx.regs.recorded i then 0
    else if i.operands.any fun e => (if e.1 = 1 then b else a).ctx.regs.beaten (wideField i e.1) e.2 then pipeOf i
    else 0
  | _, _ => 0

/-! ## The policy engine -/

/-- The word that a die's policy engine executes next (R302); none with no decision in progress, one that a DECIDE has ended
or one whose next instruction would pass the budget (R307). -/
def State.policyWord (s : State) (die : Nat) : Option Nat :=
  (s.dieSt die).dec.bind fun d =>
    let w := d.prog.code.getD d.pc 0
    if d.affords (hgCost (w % 256)) then some w else none

end Sys2Proof.Machine
end

