-- ==== Sys2Proof/Machine/Order.lean ====
section
/-! DEFINITION. What one item of the agenda does, and the order that the model takes where the agenda is empty: the spec
orders no two units of the device (R129 to R132 order what a program sees), so the agenda gives an order from outside and
the rule below is one of those allowed (assumption 4). -/

namespace Sys2Proof.Machine

open Sys2Proof

/-- A meaning with its operands. -/
abbrev Meaning : Type := State → Host.Outcome State Fault Refusal

/-- A split's instruction with its unit: one that needs the vector pipe waits while an earlier one works through its beats, and
keeps it for its own (R13). -/
def State.withPipe (s : State) (key slot : Nat) (i : Instr) (t : State) : State :=
  let q := quarterOf key
  let n := pipeCycles i key slot s t
  if n = 0 then t
  else if s.clock.toNat < (s.quarter q).pipe then { s with cur := none }.onStrand key fun st => st.onSplit slot fun sp => { sp with unit := true }
  else t.onQuarter q fun x => { x with pipe := s.clock.toNat + n }

/-- A split's next instruction after its effect: one that takes a drowsy slot for what it writes waits for the wake instead, and the
slots it takes are in use (R104). -/
def State.withSlots (s : State) (key slot : Nat) (t : State) : State :=
  let new := newSlots key s t
  match s.drowsyOf key new with
  | [] => t.useSlots key new
  | hit => { s with cur := none }.wakeSlots key slot hit

/-- A split's next instruction, with no regard to matches (R390, R391). -/
def attempt (key slot : Nat) : Meaning := fun s =>
  match s.chooseSplit key slot with
  | (t, none) => .next t
  | (t, some i) =>
    match exec i t with
    | .next u => .next (s.settled (t.withPipe key slot i (t.withSlots key slot u)))
    | r => r

/-- Has a split's instruction issued, or come to be parked, from one state to another? -/
def issuedBy (key slot : Nat) (s t : State) : Bool :=
  (t.quarter (quarterOf key)).issued != (s.quarter (quarterOf key)).issued
    || (match t.strand? key with | some st => (st.split slot).st == .parked | none => false)

/-- A split tries its next instruction (R390, R391): one that would issue and matches stops its quarter instead (R478 to R480). -/
def tryIssue (key slot : Nat) : Meaning := fun s =>
  match s.matched key slot, attempt key slot s with
  | some m, .next t => .next (if issuedBy key slot s t then s.stopAt key slot m.cause m.comp m.reason m.lanes else t)
  | _, r => r

/-- Would a split issue now (R28)? -/
def State.wouldIssue (s : State) (key slot : Nat) : Bool :=
  s.mayIssue key slot &&
    match attempt key slot s with
    | .next t => (t.quarter (quarterOf key)).issued != (s.quarter (quarterOf key)).issued
    | _ => false

/-- A split as the start of a cycle finds it: what its next instruction would wait for, or that it would issue (R28, R491). -/
def State.prospect (s : State) (key slot : Nat) (sp : Split) : Split :=
  if !s.mayIssue key slot || sp.words.isEmpty then sp
  else
    match attempt key slot s with
    | .next t =>
      if issuedBy key slot s t then { sp with stall := .none, unit := false }
      else match t.strand? key with
        | some st => { sp with stall := (st.split slot).stall, unit := (st.split slot).unit }
        | none => sp
    | _ => sp

/-- What every split of the device waits for, or that it is eligible (R28, R491, R492). -/
def State.foresee (s : State) : State :=
  { s with strands := s.strands.map fun e =>
      (e.1, e.2.onCtx fun c => { c with splits := c.splits.zipIdx.map fun x => s.prospect e.1 x.2 x.1 }) }

/-- The splits in rotation after the last that issued (R28). -/
def splitOrder (last : Nat) : List Nat := (List.range 4).map fun i => (last + 1 + i) % 4

/-- Does a split of the strand come first in the rotation (R28)? -/
def State.outOfTurn (s : State) (key slot : Nat) : Bool :=
  match s.strand? key with
  | none => false
  | some st => ((splitOrder st.last).takeWhile fun k => k != slot).any fun k => s.wouldIssue key k

/-- A split in its turn tries its next instruction (R28). -/
def issueStep (key slot : Nat) : Meaning := fun s => if s.outOfTurn key slot then .next s else tryIssue key slot s

/-- A die's policy engine executes its next word (R298, R302). -/
def policyStep (die : Nat) : Meaning := fun s =>
  match s.policyWord die with
  | some w => execHgWord w { s with die := die }
  | none => .next s

/-- n cycles pass that began with the state given, with what they bring to quarters under debug (R482) and to what splits wait for. -/
def State.cycles (t s : State) (n : Nat) : State := ((t.tick s n).debugTick).foresee

/-- The end of a step that began with the state given: what the device writes to other devices goes out, cores found lastingly faulty
are quarantined (R386), and cycles pass. -/
def State.endStep (t s : State) (n : Nat) : State := t.flushFar.quarantineFailing.cycles s n

/-- What an event comes to: one that must first read another device's memory is held till the answers are there (assumption 17). -/
def heldEvent (i : Instr) : Meaning := fun s =>
  match exec i s with
  | .next t =>
    if t.far.ask.isEmpty then .next (s.settled t)
    else let u := s.settled t; .next { u with far := { u.far with held := u.far.held ++ [i] } }
  | r => r

/-- An event that has been held is tried again. -/
def retryHeld (i : Instr) : Meaning := fun s =>
  match exec i s with
  | .next t => if t.far.ask.isEmpty then let u := s.settled t; .next { u with far := { u.far with held := u.far.held.erase i } } else .next (s.settled t)
  | r => r

/-- Let a cycle pass once a step has been made from the state given. -/
def after (s : State) : Host.Outcome State Fault Refusal → Host.Outcome State Fault Refusal
  | .next t => .next (t.endStep s 1)
  | .fault f => .fault f
  | .refused r => .refused r

/-- One item of the agenda, and the cycle it takes. -/
def runTodo (t : Todo) : Meaning := fun s =>
  match t with
  | .event i => after s (heldEvent i { s with cur := none })
  | .issue key slot => after s (issueStep key slot s)
  | .elapse n => .next (s.cycles s n)
  | .policy die => after s (policyStep die s)
  | .writeBack line => .next ((s.writeBack line).endStep s 1)
  | .prefetch core part va => .next ((s.prefetch core part va).endStep s 1)
  | .switchDrop port n => .next ((s.onPort port fun q => { q with swDrop := q.swDrop + .ofNat 64 n }).endStep s 1)

/-! ## The order of an empty agenda -/

/-- The state after the first meaning that changes it. -/
def firstChange (s : State) : List Meaning → Option State
  | [] => none
  | f :: rest =>
    match f s with
    | .next t => let t := s.settled t; if t = s then firstChange s rest else some t
    | _ => firstChange s rest

/-- What may come of an operation in flight. -/
def opTries (key : Nat) (o : Op) : List Meaning :=
  [execLoadDataArrival key o.id, execStorePerformed key o.id, execBandComplete key o.id, execMxOperationComplete key o.id,
    execCopyComplete key o.id]
    ++ (match o.sym with | some n => [execSymbolResolution key n] | none => [])
    ++ (match o.body with | .copy c => c.recv.map fun r => execCpymReceiverArrival key o.id r.1 | _ => [])

/-- What may come of a strand. -/
def strandTries (e : Nat × Strand) : List Meaning :=
  e.2.ops.flatMap (opTries e.1) ++ [execStrandLeavesExited e.1, execHangWatchdog e.1]
    ++ (List.range 4).map fun i => execInstructionFetchComplete e.1 i

/-- What may come of a quarter. -/
def quarterTries (e : Nat × QuarterSt) : List Meaning :=
  [execAgentEntry e.1, execStepReentry e.1, execCompactionMove e.1] ++ e.2.draining.map fun d => execDrainingEnd e.1 d.1

/-- What may come of a core: walks, held nodes, the clearing of its memories, its scratchpad. -/
def coreTries (e : Nat × CoreSt) : List Meaning :=
  e.2.walks.map execWalkComplete ++ (List.range e.2.clasp.length).map (execCoreClaspHoldExpiry e.1)
    ++ [execScratchClearComplete e.1, execScratchpadCompaction e.1]

/-- What may come of a slice. -/
def sliceTries (doms : Nat) (e : Nat × Slice) : List Meaning :=
  (List.range doms).map (execSpillRefill e.1) ++ (List.range e.2.clasp.length).map (execSliceHoldExpiry e.1)
    ++ (List.range e.2.clasp.length).map (execPodHomeHoldExpiry e.1)

/-- What may come of a die: a swap, an instruction of its program, the end of a decision, the next event. -/
def dieTries (s : State) (die : Nat) : List Meaning :=
  (List.range (s.dieSt die).dispatch.length).flatMap
      (fun i => [execDispatchDecision die (((s.dieSt die).dispatch.map (·.1)).getD i 0)])
    ++ [execSwapSector die, policyStep die, execPolicyOverrun die, execFaultDecision die]
    ++ (s.dieSt die).preempt.map (fun e => execPreemptDecision die e.1)
    ++ (match (s.dieSt die).dec with
        | some d => [execDispatchDecision die d.part, execPreemptDecision die d.part]
        | none => [])

/-- What may come of a partition: its ring, its policy image, its accounting period. -/
def partTries (e : Nat × Part) : List Meaning :=
  (if e.2.groups.isEmpty then [] else [execFaultGroupWrite e.1])
    ++ (if e.2.verify.isSome then [execImageVerdict e.1] else [])
    ++ (if e.2.live then [execPeriodRollover e.1] else [])
    ++ e.2.leaving.map fun c => execCoreLeavesPartition e.1 c

/-- What may come of a partition's queues. -/
def queueTries (e : Nat × Part) : List Meaning :=
  if e.2.live then (List.range e.2.qcount).map fun i => execPacketAccept (e.2.qfirst + i) else []

/-- What may come of a workgroup. -/
def wgTries (e : Nat × Wg) : List Meaning := [execSaveComplete e.1, execSaveTimeout e.1, execRestoreComplete e.1]

/-- What may come of the fabric. -/
def fabricTries (f : Fabric) : List Meaning :=
  (List.range f.notReady.length).flatMap (fun i => [execNotReadyTimeout i, execNotReadyResend i])
    ++ f.ueWidx.flatMap (fun e => [execUeWrite (e.1 / 64) (e.1 % 64), execUeRead (e.1 / 64) (e.1 % 64),
        execUeFetchAndAdd (e.1 / 64) (e.1 % 64), execUeCompareAndSwap (e.1 / 64) (e.1 % 64)])

/-- Everything that units of the device have under way, in the order in which the model looks at them. -/
def unitTries (s : State) : List Meaning :=
  s.far.held.map retryHeld ++ s.quarters.flatMap quarterTries ++ s.strands.flatMap strandTries
    ++ s.latches.flatMap (fun e => (List.range e.2.length).map (execJointOperationStart e.1))
    ++ s.joints.map (fun e => execJointOperationComplete e.1)
    ++ s.cores.flatMap coreTries ++ (List.range s.toSlice.length).map execNodeArrivalSlice
    ++ s.slices.flatMap (sliceTries s.doms.length) ++ dieTries s 0 ++ dieTries s 1 ++ s.parts.flatMap partTries
    ++ s.wgs.flatMap wgTries ++ s.pkts.map (fun p => execDependencePoll p.queue p.idx) ++ s.parts.flatMap queueTries
    ++ s.sources.map (fun e => execQuiescence e.1) ++ fabricTries s.fabric

/-- Put a strand in the order of its last issue, the earliest first. -/
def byLastIssue (e : Nat × Strand) : List (Nat × Strand) → List (Nat × Strand)
  | [] => [e]
  | x :: rest => if e.2.lastIssue ≤ x.2.lastIssue then e :: x :: rest else x :: byLastIssue e rest

/-- The issues to try: the strand that issued longest ago first, one that yielded last (R170), each with its splits in
rotation. -/
def issueTries (s : State) : List Meaning :=
  let all := s.strands.foldr byLastIssue []
  let yields (e : Nat × Strand) : Bool := (s.quarter (quarterOf e.1)).yielder == some e.1
  (all.filter (fun e => !yields e) ++ all.filter yields).flatMap fun e => (splitOrder e.2.last).map fun i => tryIssue e.1 i

/-- What the device does of itself: the first thing that changes its state; otherwise a cycle passes. -/
def ownStep : Meaning := fun s =>
  match firstChange s (unitTries s ++ issueTries s) with
  | some t => .next (t.endStep s 1)
  | none => .next (s.cycles s 1)

/-! ## Placing an instruction where the next step takes it -/

/-- A workgroup of one strand on core 0 of partition 0, for an instruction that is placed from outside. -/
def placedWg : Wg :=
  { phase := .running, part := 0, source := 0, queue := 0, rcb := 0
    kernel := { addr := 0, entry := 0, strands := 1, logG := 5, scalars := 128, tiles := 64, spad := 65536, vault := 0, coop := false
                stage := none, args := 0, expected := 0, dieHint := 0 }
    grid := (1, 1, 1), lin := 0, seq := 0, home := 0, cluster := 0, spread := false, strands := [0], spadBase := 0
    vaultAddr := 0, consts := [], yield := false, retries := 0, charge := 0, quarantine := false, pool := (0, 0)
    slots := [0], since := 0, job := false, pinned := false }

/-- A strand as it is granted (R88), whose one split holds the words of its next instruction. -/
def placedStrand (words : List Nat) : Strand :=
  let c := Ctx.atGrant 0 0
  Strand.atGrant 0 0 0 0 5 0 0 { c with splits := c.splits.set 0 { c.splits.getD 0 Split.empty with words := words } }

/-- A DISPATCH decision of partition 0 whose program is one word, for a Horgedo instruction that is placed from outside. -/
def placedDecision (w : Nat) : Decision :=
  { kind := .dispatch, part := 0, prog := { Policy.drr with version := 1, code := [w], entries := [0, 0x3FF, 0x3FF] }, pc := 0
    x := List.replicate 16 0, scratch := List.replicate 16 0, cycles := 0, view := [], cores := [], ev := List.replicate 10 0
    fits := [], core := none, victim := none, flt := none, chosen := none }

/-- Place the words of a strand's instruction. -/
def State.placeStrand (s : State) (words : List Nat) : State :=
  { s with agenda := [.issue 0 0], strands := mapIns 0 (placedStrand words) s.strands, wgs := mapIns 0 placedWg s.wgs }

/-- Place a Horgedo word. -/
def State.placePolicy (s : State) (w : Nat) : State :=
  let t := s.onDie 0 fun d => { d with dec := some (placedDecision w) }
  { t with agenda := [.policy 0] }

end Sys2Proof.Machine
end

