-- ==== Sys2Proof/Machine/Step.lean ====
section
/-! DEFINITION. One step of the device, and an instruction placed where the next step takes it. -/

namespace Sys2Proof.Machine

open Sys2Proof

/-- One step: the next item of the agenda; with none, what the device does of itself. -/
def step (s : State) : Host.Outcome State Fault Refusal :=
  match s.agenda with
  | [] => ownStep s
  | t :: rest => runTodo t { s with agenda := rest }

/-- The state with an instruction where step takes its next: for an instruction of a strand, the words of the one split of a
strand that is to issue; for a Horgedo word, the program of a decision in progress. -/
def State.withFetchWord (s : State) (nbits w : Nat) : State :=
  match tableKind nbits w with
  | .strand => s.placeStrand (tableWords w)
  | .policy => s.placePolicy w
  | .none => s

end Sys2Proof.Machine
end

