-- ==== Sys2Proof/Safety.lean ====
section
/-! DEFINITION. The terms of the statements: memories in canonical form, what an issued instruction answers, operands at
hand, what a per-lane write leaves in each lane, and what a frame leaves alone. -/

/-! ## Families -/

namespace Sys2Proof

/-- The instructions of the policy engine (R303). -/
def Instr.policy : Instr → Bool
  | .hgNop | .hgLi _ _ | .hgLui _ _ | .hgMov _ _ | .hgAdd _ _ _ | .hgAddi _ _ _ | .hgSub _ _ _ | .hgMul _ _ _
  | .hgShl _ _ _ | .hgShr _ _ _ | .hgAnd _ _ _ | .hgOr _ _ _ | .hgMin _ _ _ | .hgMax _ _ _ | .hgSlt _ _ _
  | .hgSlti _ _ _ | .hgSeq _ _ _ | .hgSeqi _ _ _ | .hgLdq _ _ _ | .hgLdk _ _ _ | .hgLde _ _ | .hgLdw _ _ | .hgStw _ _
  | .hgNq _ | .hgFit _ _ _ | .hgBz _ _ | .hgBnz _ _ | .hgBr _ | .hgForq _ _ | .hgNextq _ _ | .hgArgmin _ _ _
  | .hgArgmax _ _ _ | .hgDecideD _ _ | .hgDecideP _ | .hgDecideF _ => true
  | _ => false

end Sys2Proof

namespace Sys2Proof.Machine

open Sys2Proof

/-! ## Memory -/

/-- Every memory is in canonical form. -/
def State.memWf (s : State) : Bool :=
  Memory.wf s.flostra && Memory.wf s.spad && Memory.wf s.vault && Memory.wf s.hostMem

/-- Every byte of every memory reads in `t` as in `s`. -/
def State.sameMem (s t : State) : Prop := ∀ (p : Place) (a : Nat), readByte (t.cells p) a = readByte (s.cells p) a

/-- Every byte of every memory reads in `t` as in `s`, but n bytes of a place from an address on. -/
def State.sameMemBut (s t : State) (p : Place) (a n : Nat) : Prop :=
  ∀ (q : Place) (k : Nat), (q = p → k < a ∨ a + n ≤ k) → readByte (t.cells q) k = readByte (s.cells q) k

/-! ## What an issued instruction answers -/

/-- It had the effect that makes `u` of the state, and the pc moves past its `len` words. -/
def Ic.ends (c : Ic) (s : State) (len : Nat) (u : State) : Host.Outcome State Fault Refusal :=
  .next (s.conclude c len (.done u))

/-- It had the effect that makes `u` of the state, and the pc moves to `pc`. -/
def Ic.jumps (c : Ic) (s : State) (len : Nat) (u : State) (pc : VAddr) : Host.Outcome State Fault Refusal :=
  .next (s.conclude c len (.jump u pc))

/-- It had the effect that makes `u` of the state, the split's own state in it. -/
def Ic.stays (c : Ic) (s : State) (len : Nat) (u : State) : Host.Outcome State Fault Refusal :=
  .next (s.conclude c len (.stay u))

/-- It took a precise trap, and nothing else. -/
def Ic.traps (c : Ic) (s : State) (len : Nat) (t : Trap) : Host.Outcome State Fault Refusal :=
  .next (s.conclude c len (.trap t))

/-- A trap of class TRAP over the whole split, to be taken again after the handler (R370, R391). -/
def Ic.wholeTrap (c : Ic) (sub code : Nat) : Trap :=
  { cls := 0x02, sub := sub, code := code, lanes := c.sp.mask, restart := true, async := false, oprec := 0 }

/-! ## Operands at hand -/

/-- The values of operands read as 64-bit scalars: none where one waits for a load or a symbol. -/
def Ic.scalars (c : Ic) (x : Opnds) (ops : List Opnd) : Option (List DWord) :=
  (c.offs x (ops.map fun o => (o, true))).map fun offs => offs.map fun o => o.at 0

/-- The scalar destination is not one that a load in flight is to write. -/
def Ic.freeS (c : Ic) (n : Nat) : Prop := c.st.busy (.s n) false = false

/-- The vector destination can take a write of this width now, and whatever is written its slots fit in G. -/
def Ic.freeV (c : Ic) (n : Nat) (wide : Bool) (act : Mask) : Prop :=
  c.st.busy (.v n) wide = false ∧ c.regs.blocksWrite n wide (decide (act = fullMask)) = false ∧
    ∀ v, (c.regs.writeV n wide v).overflows c.st.logG = false

/-- The value that a vector register or pair holds, 0 for a pendant. -/
def Ic.old (c : Ic) (n : Nat) (wide : Bool) : Off := match c.regs.readV n wide with | .known o => o | .pend _ => .u 0

/-- `i` writes vector register `n`: each lane of `act` takes the result of `f` on the lanes of the sources, the others keep
what they held, and MODE gets the flags of the lanes of `act` (R70, R91, R163, R164). -/
def Ic.writesLanes (c : Ic) (s : State) (i : Instr) (len n : Nat) (wide : Bool) (act : Mask) (srcs : List Off)
    (f : Nat → List DWord → DWord × Half) : Prop :=
  ∃ v : Off,
    (∀ l < 256, v.at l = if laneIn act l then (f l (srcs.map fun o => o.at l)).1 else (c.old n wide).at l) ∧
    exec i s = c.ends s len ((s.putRegs c (c.regs.writeV n wide v)).raise c.key
      ((lanesOf act).foldl (fun fl l => fl ||| (f l (srcs.map fun o => o.at l)).2) 0))

/-! ## Memory accesses at issue -/

/-- Every lane of a plain access of `n` bytes translates, `ok` saying where to (R210, R414). -/
def Ic.reaches (c : Ic) (s : State) (sp : Space) (a : Opnd) (acc : Access) (n : Nat) (ls : List LaneAddr)
    (ok : List (Nat × DWord × Tr)) : Prop :=
  ok.map (fun e => (e.1, e.2.1)) = ls ∧ ∀ e ∈ ok, (c.trLane s sp a acc e.2.1).plain n = .ok e.2.2

/-- Nothing keeps a plain access from its issue: it is no redo, its counter has room, its lanes are legal (R404) and
translate, no symbol of a load in flight stands in the way of a write (R101), its core has room for its sectors (R121), and no
word that it reads is lost (R422). -/
def Ic.clear (c : Ic) (s : State) (sp : Space) (a : Opnd) (acc : Access) (n : Nat) (k : Ctr) (reads : Bool)
    (ls : List LaneAddr) (ok : List (Nat × DWord × Tr)) : Prop :=
  c.sp.redo = none ∧ c.st.full k = false ∧ c.checkAddrs s sp a n ls = none ∧ c.reaches s sp a acc n ls ok ∧
    (acc = .write → c.st.lateHits sp ok (plainRanges ok n true) = []) ∧
    s.sectorsFit (coreOf c.key) (plainRanges ok n (acc == .write)) = true ∧ (reads = true → s.eccScan c.st.part n (accsOf ok) = (s, [], 0, 0))

/-- A load issues: with nothing in its way its destination is reserved and its operation is in flight, at system scope where it
goes through a FAR or NC frame (R111, R211, R213). -/
def Ic.loads (c : Ic) (s : State) (i : Instr) (len : Nat) (x : Opnds) (sp : Space) : Prop :=
  ∀ ka kb ok, c.offs x [(x.a, addrWide x.a), (x.b, addrWide x.b)] = some [ka, kb] → x.late = false →
    (∀ d, x.d = .v d → c.freeV d x.t.is64 (c.act x) →
      c.clear s sp x.a .read x.t.bytes .ld true (laneAddrs sp c.regs x.a x.b ka kb (lanesOf (c.act x))) ok →
      exec i s = c.ends s len ((s.putRegs c (c.regs.writeV d x.t.is64 (.g (c.old d x.t.is64).lanes))).addOp c.key
        (c.newOp .ld (.load (accsOf ok) x.t (.v d x.t.is64)) x.ord (reachScope ok x.scope)))) ∧
    (∀ d, x.d = .s d → c.freeS d → Off.uniformAddr ka kb = true →
      c.clear s sp x.a .read x.t.bytes .ld true (laneAddrs sp c.regs x.a x.b ka kb [lowLane c.sp.mask]) ok →
      exec i s = c.ends s len ((s.putRegs c c.regs).addOp c.key
        (c.newOp .ld (.load (accsOf ok) x.t (.s d)) x.ord (reachScope ok x.scope))))

/-- A store issues: with nothing in its way its operation is in flight with the data captured (R211, R213). -/
def Ic.storesTo (c : Ic) (s : State) (i : Instr) (len : Nat) (x : Opnds) (sp : Space) : Prop :=
  ∀ ka kb kd ok, c.offs x [(x.a, addrWide x.a), (x.b, addrWide x.b), (x.d, x.t.is64)] = some [ka, kb, kd] →
    c.clear s sp x.a .write x.t.bytes .st false (laneAddrs sp c.regs x.a x.b ka kb (lanesOf (c.act x))) ok →
    exec i s = c.ends s len ((s.touchAll c.st.part .write sp ok).addOp c.key
      (c.newOp .st (.store (accsOf ok) x.t kd.lanes) x.ord (reachScope ok x.scope)))

/-- An atomic issues (R220, R221): with a result as a load whose destination is reserved, without one as a store. -/
def Ic.atomics (c : Ic) (s : State) (i : Instr) (x : Opnds) (op : AtmOp) : Prop :=
  let sp := atmSpace x
  let n := x.t.bytes
  let w := x.t.is64
  ∀ ka kb kc ke ok,
    let ls := laneAddrs sp c.regs x.a x.b ka kb (lanesOf (c.act x))
    let u := s.touchAll c.st.part .write sp ok
    let ops (d : Opnd) := [(x.a, addrWide x.a), (x.b, addrWide x.b), (d, w)] ++ (if op = .cas then [(x.d, w)] else [])
    let offs := [ka, kb, kc] ++ (if op = .cas then [ke] else [])
    let exp := if op = .cas then ke.lanes else (Off.u 0).lanes
    (x.sel < 4 → c.offs x (ops x.c) = some offs → c.freeV x.d.vnum w (c.act x) → c.clear s sp x.a .write n .ld true ls ok →
      exec i s = c.ends s x.len ((u.putRegs c (c.regs.writeV x.d.vnum w (.g (c.old x.d.vnum w).lanes))).addOp c.key
        (c.newOp .ld (.atomic (accsOf ok) op x.t kc.lanes exp false x.d.vnum) x.ord (reachScope ok x.scope)))) ∧
    (4 ≤ x.sel → c.offs x (ops x.d) = some offs → c.clear s sp x.a .write n .st true ls ok →
      exec i s = c.ends s x.len ((u.putRegs c c.regs).addOp c.key
        (c.newOp .st (.atomic (accsOf ok) op x.t kc.lanes exp true x.d.vnum) x.ord (reachScope ok x.scope))))

/-- A sync-word update issues as a release store of the lowest lane's word, its operands captured (R228, R234, R235). -/
def Ic.updates (c : Ic) (s : State) (i : Instr) (x : Opnds) (ops : List Opnd) (u : DWord → DWord → SyncUpd) : Prop :=
  ∀ ka kb rest e, c.offs x ([(x.a, addrWide x.a), (x.b, addrWide x.b)] ++ ops.map fun o => (o, true)) = some (ka :: kb :: rest) →
    c.clear s (msSpace x) x.a .write 8 .st true (laneAddrs (msSpace x) c.regs x.a x.b ka kb [lowLane c.sp.mask]) [e] →
    exec i s = c.ends s x.len ((s.touchAll c.st.part .write (msSpace x) [e]).addOp c.key
      (c.newOp .st (.sync e.2.2.place e.2.2.pa (u (((rest.map fun o => o.at 0).getD 0 0)) ((rest.map fun o => o.at 0).getD 1 0)))
        2 (reachScope [e] x.scope)))

/-- A sync-word read at issue: with nothing before it or hiding the word (R131, R132), an acquire of the lowest lane's word `w` in a
memory of this device, which lets the instruction end or wait; answers of other devices to the instruction are used up (R229, R235). -/
def Ic.syncReads (c : Ic) (s : State) (i : Instr) (x : Opnds) (ops : List Opnd) (passes : DWord → DWord → Bool) : Prop :=
  ∀ ka kb rest e, c.offs x ([(x.a, addrWide x.a), (x.b, addrWide x.b)] ++ ops.map fun o => (o, true)) = some (ka :: kb :: rest) →
    c.sp.redo = none → c.st.busy x.d true = false →
    let ls := laneAddrs (msSpace x) c.regs x.a x.b ka kb [lowLane c.sp.mask]
    c.checkAddrs s (msSpace x) x.a 8 ls = none → c.reaches s (msSpace x) x.a .read 8 ls [e] →
    s.sectorsFit (coreOf c.key) (plainRanges [e] 8 false) = true → s.eccScan c.st.part 8 (accsOf [e]) = (s, [], 0, 0) →
    let scope := reachScope [e] x.scope
    let o := c.newOp .ld (.load (accsOf [e]) .b64 .none) 1 scope
    c.st.mayPerform o = true → s.hidden c.key o = false →
    let at_ := s.redirect e.2.2.place e.2.2.pa
    at_.1 ≠ .peer → s.far.asked = [] →
    let w : DWord := .ofNat 64 (s.load at_.1 at_.2 8)
    let u := { s with far := { (s.far.used (.issue c.key c.slot)) with cur := none } }
    if passes w ((rest.map fun o => o.at 0).getD 0 0) then
      exec i s = c.ends s x.len ((u.putRegs c (c.regs.setS x.d.snum w)).acquired c scope)
    else exec i s = .next (s.conclude c x.len (.wait u .syncWord))

/-- The operations of a remote instruction: one for each distinct peer in ascending order, with the lanes that name it
(R239). -/
def Ic.peerOps (c : Ic) (m : RmtAct) : List Op :=
  (peersOf m.peers).zipIdx.map fun e =>
    { c.newOp m.cls (.remote
        { kind := m.kind, peer := e.1 % 512, incarn := .ofNat 16 (e.1 / 2 ^ 16), ty := m.ty
          lanes := m.lanes.filter fun l => m.peers.contains (l.1, e.1)
          data := m.data, data2 := m.data2, dst := m.dst, got := [], wait := [], refused := [] }) m.ord m.scope with
      id := c.st.opNext + e.2 }

/-- A remote instruction issues: with its peers, addresses and alignment legal (R405), room in its counter and among its core's
sectors (R121) and no symbol in its way, its operations are in flight and those that may go are sent (R237, R239). -/
def Ic.remotes (c : Ic) (s : State) (i : Instr) (len n : Nat) (m : RmtAct) (regs : Regs) : Prop :=
  (∀ e ∈ m.peers, peerOk e.2 = true) → (∀ e ∈ m.lanes, e.2.toNat < 2 ^ 57 ∧ e.2.toNat % n = 0) →
    c.st.count m.cls + (peersOf m.peers).length ≤ 255 → s.sectorsFit (coreOf c.key) m.ranges = true → (m.kind ≠ .load → c.st.lateRemote m = []) →
    exec i s = c.ends s len (((c.peerOps m).foldl (fun u o => u.addRecOp c.key o) (s.putRegs c regs)).pump c.key)

/-- Every address of a list translates for an access of the issuing strand's core (R412). -/
def State.reachesAll (s : State) (c : Ic) (acc : Access) (l : List Nat) : Prop :=
  ∀ a ∈ l, ∃ t, c.trLane s .global (.s 0) acc (.ofNat 64 (a % 2 ^ 57)) = .ok t

/-! ## Packets -/

/-- What a packet does before its own effect: it is counted, and a device's acknowledgment is taken (R316). -/
def State.taken (s : State) (p : Pkt) : State :=
  let t := (s.onPort p.plane fun q => { q with received := q.received + 1 }).tracePkt p
  if p.port then t else t.takeAck p.src p.plane p.ack

/-- A packet is the next of its flow, for a partition of this device as it is now (R316, R319, R463). -/
def State.inTurn (s : State) (p : Pkt) (part : Nat) : Prop :=
  p.etype = s.boot.etype ∧ p.dst = s.boot.devid.toNat ∧ s.planeUp p.plane = true ∧ s.fabricOn = true ∧
    (s.flow (pktFlow p) p.plane).recovering = false ∧ p.seq = (s.flow (pktFlow p) p.plane).inNext ∧
    p.tincarn = s.boot.incarn ∧ p.tincarn = (s.taken p).boot.incarn ∧ (s.taken p).partOfFab p.fabid = some part

/-- The flow of a packet moves on, and the packets that came ahead of their turn follow it (R459). -/
def State.passed (s : State) (p : Pkt) : State :=
  State.drainFlow (pktFlow p) p.plane (fun s q => s.takeNext pktAct q) 1024 (s.onFlow (pktFlow p) p.plane Flow.pass)

/-! ## Frames -/

/-- Everything but the strands, the quarters and the dies: what an instruction that works on its strand alone leaves as it
was, with the quarter's count of issues and a trap's way to the policy outside it. -/
def State.sameRest (s t : State) : Prop :=
  { t with strands := s.strands, quarters := s.quarters, dieW := s.dieW, dieE := s.dieE } = s

/-- The other strands are unchanged. -/
def State.sameStrands (s t : State) (key : Nat) : Prop := ∀ k, k ≠ key → t.strand? k = s.strand? k

/-- The maps of a register file are in order. -/
def Regs.wf (r : Regs) : Bool := mapSorted r.v && mapSorted r.s && mapSorted r.p && mapSorted r.q && mapSorted r.t

/-- Every register reads in `q` as in `r`, but those of a list. -/
def Regs.sameBut (r q : Regs) (ds : List Opnd) : Prop :=
  (∀ n, Opnd.v n ∉ ds → (q.vreg n).shape = (r.vreg n).shape) ∧
  (∀ n, Opnd.s n ∉ ds → mapGet (SReg.val 0) q.s n = mapGet (SReg.val 0) r.s n) ∧
  (∀ n, Opnd.p n ∉ ds → q.pred n = r.pred n) ∧
  (∀ n, Opnd.q n ∉ ds → q.sp n = r.sp n) ∧
  (∀ n, Opnd.t n ∉ ds → q.treg n = r.treg n)

/-- What an instruction that writes only registers `ds` of its strand leaves as it was, from `s` to `t`: all memory, the other
strands, everything else of the device; of its strand the other registers, the control registers, the stack, the operations in
flight, the symbols and tiles, and the other splits; MODE but for FLAGS where it raises flags, and the trap registers where the
split has not trapped. -/
def Ic.frame (c : Ic) (s t : State) (ds : List Opnd) (flags : Bool) : Prop :=
  s.sameMem t ∧ s.sameRest t ∧ s.sameStrands t c.key ∧ ∃ st, t.strand? c.key = some st ∧
    c.regs.sameBut st.ctx.regs ds ∧ st.ctx.regs.wf = true ∧
    (flags = false → st.ctx.mode = c.st.ctx.mode) ∧
    (st.ctx.mode &&& 0xFFFFFFFF0000FFFF) = (c.st.ctx.mode &&& 0xFFFFFFFF0000FFFF) ∧
    st.ctx.stack = c.st.ctx.stack ∧ st.ctx.gang = c.st.ctx.gang ∧ st.ctx.tvec = c.st.ctx.tvec ∧
    st.ctx.spillp = c.st.ctx.spillp ∧ st.ctx.dbgmb = c.st.ctx.dbgmb ∧ st.savep = c.st.savep ∧
    st.ops = c.st.ops ∧ st.syms = c.st.syms ∧ st.tiles = c.st.tiles ∧
    (∀ k, k ≠ c.slot → st.split k = c.st.split k) ∧
    ((st.split c.slot).st = c.sp.st → st.ctx.tcause = c.st.ctx.tcause ∧ st.ctx.tpc = c.st.ctx.tpc ∧
      st.ctx.tinfo = c.st.ctx.tinfo ∧ st.ctx.tmask = c.st.ctx.tmask)

end Sys2Proof.Machine

namespace Sys2Proof

/-! ## Destinations -/

/-- A vector destination: one register, or the two of a pair. -/
def vdest (n : Nat) (wide : Bool) : List Opnd := if wide then [.v n, .v (n + 1)] else [.v n]

/-- The registers that an instruction on scalars or predicates may write; none for the others (R143, R167, R179, R182, R205). -/
def Instr.scalarDests : Instr → Option (List Opnd)
  | .smov x | .sclz x | .spopc x | .sadd x | .ssub x | .smul x | .smulh x | .sdiv x | .srem x | .sand x | .sor x | .sxor x
  | .sshl x | .sshr x | .ssar x | .smin x | .smax x | .ssel x | .smad x | .sbfe x | .sbfi x
  | .pcnt x | .pfirst x | .clock x | .pndq x | .vshq x => some [.s x.d.snum]
  | .saddBase d _ _ | .saddImmBase d _ _ | .saddLit d _ _ | .ssubBase d _ _ | .smulBase d _ _ | .sandBase d _ _
  | .sorBase d _ _ | .sxorBase d _ _ | .sshlBase d _ _ | .sshrBase d _ _ | .smovBase d _ | .smovImmBase d _
  | .smovLit d _ => some [.s d]
  | .qsetLtBase d _ _ | .qsetEqBase d _ _ => some [.q d]
  | .qset x | .qlog x | .vote x => some [.q x.d.qnum]
  | .pset x | .plog x => some [.p x.d.pnum]
  | .nop _ | .nopBase _ _ _ | .pndwait _ => some []
  | _ => none

/-- The registers that an instruction on vectors may write, and whether it may raise flags; none for the others (R143, R179, R186,
R188, R194, R199, R205). -/
def Instr.vectorDests : Instr → Option (List Opnd × Bool)
  | .vadd x | .vsub x | .vmul x | .vmulh x | .vand x | .vor x | .vxor x | .vnot x | .vshl x | .vshr x | .vsar x | .vmin x
  | .vmax x | .vabs x | .vneg x | .vsel x | .vmov x | .bfly x | .shfl x | .lrot x | .lbcst x | .lcmp x | .vshape x =>
    some (vdest x.d.vnum x.t.is64, false)
  | .iext x | .fabs x | .fneg x | .fclass x => some (vdest x.d.vnum x.t.is64, false)
  | .vmad x | .vclz x | .vpopc x | .vbfe x | .vbfi x | .vdot4 x | .vlane x | .vsadd x => some ([.v x.d.vnum], false)
  | .vaddc x => some ([.v x.d.vnum, .p x.c.pnum], false)
  | .vaddBase d _ _ | .vsubBase d _ _ | .vmulBase d _ _ | .vandBase d _ _ | .vorBase d _ _ | .vxorBase d _ _
  | .vshlBase d _ _ | .vshrBase d _ _ | .vaddImmBase d _ _ | .vaddLit d _ _ | .vmovBase d _ | .vmovScalarBase d _
  | .vlaneBase d => some ([.v d], false)
  | .faddBase d _ _ | .fsubBase d _ _ | .fmulBase d _ _ | .ffmaBase d _ _ | .fminBase d _ _ | .fmaxBase d _ _
  | .frcpBase d _ => some ([.v d], true)
  | .fadd x | .fsub x | .fmul x | .ffma x | .fmin x | .fmax x | .frcp x | .frsq x | .fsqrt x | .fdiv x
  | .fexp2 x | .flog2 x | .fsin x | .fcos x | .ftanh x | .fscale x | .frnd x | .ffrac x | .fminp x | .fmaxp x
  | .fcvt x | .ftoi x | .itof x | .vscan x => some (vdest x.d.vnum x.t.is64, true)
  | .fdot2 x | .fpack x | .funpk x | .sclq x | .bqnt x | .bdq x => some ([.v x.d.vnum], true)
  | .pfset x => some ([.p x.d.pnum], true)
  | .pmov x => some (match x.d with | .p n => [.p n] | .v n => [.v n] | .s n => [.s n] | _ => [], false)
  | .vred x => some (match x.d with | .s n => [.s n] | .v n => vdest n x.t.is64 | _ => [], true)
  | _ => none

end Sys2Proof
end

