-- ==== Sys2Proof/Certificates/Slice0/Obligations.lean ====
section
/-! DEFINITION. The statements for the provers. -/

open Sys2Proof Sys2Proof.Machine

/-! ## The machine as a whole -/

/-- Right after reset no memory byte, strand, partition or peer is listed, the clock counts from 0, QSTOP, comparators and the
partition registers are zero, the power cap is 2800 W and the clocks stand at 3.6 GHz; every memory is in canonical form. At its grant a
strand holds RNE in MODE, an empty gang, zero in its other registers, and TVEC as the partition's TRAPVEC has it (R27, R42, R65, R88,
R170, R344, R347, R370). That unlisted memory reads 0 and that the device's own lists are empty is the model's choice (assumptions 1
and 2). -/
def Obligations.ResetState : Prop :=
  (State.reset.memWf = true ∧ (∀ p a, readByte (State.reset.cells p) a = 0) ∧ State.reset.clock = 0 ∧
    State.reset.strands = [] ∧ State.reset.wgs = [] ∧ (∀ p, State.reset.part p = Part.reset) ∧
    (∀ q, (State.reset.quarter q).stopped = false ∧ (State.reset.quarter q).dbgia = []) ∧
    State.reset.fabric.peers = [] ∧ State.reset.boot.stage = 0 ∧ State.reset.boot.cap = 2800 ∧ State.reset.boot.freq = 36) ∧
  ∀ (entry : VAddr) (trapvec : DWord),
    let c := Ctx.atGrant entry trapvec
    c.mode = 1 ∧ c.gang = 0x0FFFFFFFFFFFFFFF ∧ c.tcause = 0 ∧ c.tpc = 0 ∧ c.tinfo = 0 ∧ c.tmask = 0 ∧ c.spillp = 0 ∧
    c.dbgmb = 0 ∧ c.tvec = (if trapvec.getLsbD 0 then trapvec else 0) ∧ c.stack = [] ∧
    (∀ n, c.regs.vreg n = { shape := .u 0, pairHi := false } ∧ c.regs.readS n = .known (.u 0) ∧ c.regs.pred n = 0 ∧
      c.regs.sp n = false ∧ (c.regs.treg n).valid = false) ∧
    c.splits.map (fun p => p.st) = [.ready, .free, .free, .free] ∧
    ∀ p ∈ c.splits.head?, p.pc = entry ∧ p.mask = BitVec.allOnes 256

/-- Every step keeps every memory in its canonical form: addresses strictly rising, no byte listed that holds 0. That an unlisted byte
reads as 0 is the model's choice (assumption 1). -/
def Obligations.StepKeepsMemory : Prop :=
  ∀ s t : State, s.memWf = true → step s = .next t → t.memWf = true

/-- A store of n bytes is read back, least significant byte first, leaves every other byte of every memory, and keeps the
canonical form, in which memories that read alike are equal; so do a store of a byte list and the clearing of a run (R3).
That a byte not listed reads 0 is the model's choice (assumption 1). -/
def Obligations.MemoryReadAfterWrite : Prop :=
  (∀ (s : State) (p : Place) (a n v : Nat), s.memWf = true → p ≠ .peer → p ≠ .bell →
    let t := s.store p a n v
    t.load p a n = v % 2 ^ (8 * n) ∧ (∀ i < n, readByte (t.cells p) (a + i) = .ofNat 8 (v / 256 ^ i)) ∧
      s.sameMemBut t p a n ∧ t.memWf = true) ∧
  (∀ m : List Host.Cell, Memory.wf m = true →
    (∀ (a : Nat) (l : List Byte), let u := writeBytes m a l
      Memory.wf u = true ∧ readBytes u a l.length = l ∧ ∀ k, (k < a ∨ a + l.length ≤ k) → readByte u k = readByte m k) ∧
    (∀ a n : Nat, let u := clearRun m a n
      Memory.wf u = true ∧ ∀ k, readByte u k = if a ≤ k ∧ k < a + n then 0 else readByte m k) ∧
    ∀ u, Memory.wf u = true → (∀ a, readByte u a = readByte m a) → u = m)

/-- A register written is read back and the others keep what they held: scalars, lane and scalar predicates, translation
registers, vectors of 32 bits and pairs of 64, whatever shape the value comes in (R88, R90, R112). -/
def Obligations.RegisterReadAfterWrite : Prop :=
  ∀ (r : Regs) (n : Nat), r.wf = true →
    (∀ x : DWord, (r.setS n x).readS n = .known (.u x) ∧ (r.setS n x).sval n = x ∧ r.sameBut (r.setS n x) [.s n] ∧ (r.setS n x).wf = true) ∧
    (∀ m : Mask, (r.setP n m).pred n = m ∧ r.sameBut (r.setP n m) [.p n] ∧ (r.setP n m).wf = true) ∧
    (∀ b : Bool, (r.setQ n b).sp n = b ∧ r.sameBut (r.setQ n b) [.q n] ∧ (r.setQ n b).wf = true) ∧
    (∀ t : TReg, (r.setT n t).treg n = t ∧ r.sameBut (r.setT n t) [.t n] ∧ (r.setT n t).wf = true) ∧
    ∀ (wide : Bool) (v : Off), ∃ o : Off, (r.writeV n wide v).readV n wide = .known o ∧ (∀ l < 256, o.at l = cutW wide (v.at l)) ∧
      r.sameBut (r.writeV n wide v) (vdest n wide) ∧ (r.writeV n wide v).wf = true

/-- A step of an issue runs the instruction that the split's fetched words decode to, where the split may issue in its turn, no
breakpoint or watchpoint matches and the gate of drowsy slots and unit checks lets it through: its meaning is applied, the slots that it
takes wake (R104), its unit's beats are counted (R13), what it needs of other devices is asked, and the step ends: a cycle passes; a step
of a policy engine runs the instruction that its word decodes to; an event runs as itself, or is held till other devices have answered.
What the fetch brings of an instruction in this device's memory is as many words as the first says, each as memory holds it or as the
core's instruction cache still does (R138, R140). -/
def Obligations.StepRunsDecoded : Prop :=
  ∀ (s : State) (rest : List Todo),
    let u : State := { s with agenda := rest }
    (∀ key slot st i n v, s.agenda = .issue key slot :: rest → u.mayIssue key slot = true → u.outOfTurn key slot = false →
      u.strand? key = some st → decodeWords (st.split slot).words = some (i, n) → u.matched key slot = none →
      u.gate key slot i = .pass v →
      let w : State := { v.useFor key i with cur := some (key, slot) }
      (∀ t, exec i w = .next t → step s = .next ((u.settled (w.withPipe key slot i (w.withSlots key slot t))).endStep u 1)) ∧
      (∀ f, exec i w = .fault f → step s = .fault f) ∧ (∀ r, exec i w = .refused r → step s = .refused r)) ∧
    (∀ n, s.agenda = .elapse n :: rest → step s = .next (u.cycles u n)) ∧
    (∀ die w i, s.agenda = .policy die :: rest → u.policyWord die = some w → decodeHg w = some i →
      let v : State := { u with die := die }
      (∀ t, exec i v = .next t → step s = .next (t.endStep u 1)) ∧ (∀ f, exec i v = .fault f → step s = .fault f) ∧
      (∀ r, exec i v = .refused r → step s = .refused r)) ∧
    (∀ i, s.agenda = .event i :: rest →
      let v : State := { u with cur := none }
      (∀ t, exec i v = .next t →
        (t.far.ask = [] → step s = .next ((v.settled t).endStep u 1)) ∧
        (t.far.ask ≠ [] → step s = .next
          (({ v.settled t with far := { (v.settled t).far with held := (v.settled t).far.held ++ [i] } } : State).endStep u 1))) ∧
      (∀ f, exec i v = .fault f → step s = .fault f) ∧ (∀ r, exec i v = .refused r → step s = .refused r)) ∧
    (∀ core part (pc : VAddr) w l accs, s.fetch core part pc = .words (w :: l) accs → s.farWords accs = false →
      (w :: l).length = lengthOf w ∧ accs.length = lengthOf w ∧
      ∀ k v a, (w :: l)[k]? = some v → accs[k]? = some a → a.va = (pc + .ofNat 57 (4 * k)).setWidth 64 ∧
        (v = (s.rd a.place a.pa 4).1 ∨ s.cached core part (pc + .ofNat 57 (4 * k)) = some v))

/-- A few words written out from the encoding tables: each decodes to the instruction it stands for (R138, R141, R145, R302). -/
def Obligations.DecodeSanity : Prop :=
  decodeWords [0x03020104] = some (.saddBase 1 2 3, 1) ∧
  decodeWords [0x0000022E, 0x89ABCDEF, 0x01234567] = some (.smovLit 2 0x0123456789ABCDEF, 3) ∧
  decodeWords [0x0000009C] = some (.exitBase, 1) ∧
  decodeWords [0x03020141] = none ∧
  decodeWords [0xFFFFFFFC] = some (.reservedEncoding 9 1, 1) ∧
  decodeWords [0x0002000D, 0x00301E01, 0x00354603] = some (.sadd
    { ty := some .i64, rnd := .dflt, sat := false, pred := none, cache := 0, g := false, late := false, ord := 0, scope := 0
      xs := 0, cls := 0, sel := 0, d := .s 1, a := .s 2, b := .s 3, c := .zero, lit := none }, 3) ∧
  decodeHg 0x00032104 = some (.hgAdd 1 2 3) ∧ decodeHg 0x00132104 = none

/-- Decoding the words of a well-formed instruction of a strand gives that instruction and its length, whatever follows; and
what a list of 32-bit words decodes to without a CODE is well formed and encodes to those words. -/
def Obligations.DecodeEncode : Prop :=
  (∀ i : Instr, WellFormed i = true → i.policy = false → (∀ c n, i ≠ .reservedEncoding c n) → ∀ rest : List Nat,
    ∃ ws, encode i = some ws ∧ decodeWords (ws ++ rest) = some (i, ws.length) ∧ ∀ w ∈ ws, w < 2 ^ 32) ∧
  (∀ (ws : List Nat) (i : Instr) (n : Nat), (∀ w ∈ ws, w < 2 ^ 32) → decodeWords ws = some (i, n) →
    (∀ c m, i ≠ .reservedEncoding c m) → WellFormed i = true ∧ encode i = some (ws.take n))

/-- A Horgedo instruction is one 32-bit word: OP, XD, XA and IMM at their bits, XB in [19:16] with [31:20] zero, fields that a
row does not use zero; encoding and decoding are inverse on them (R302). -/
def Obligations.PolicyWords : Prop :=
  (∀ i : Instr, i.policy = true → WellFormed i = true → ∃ w, w < 2 ^ 32 ∧ encodeHg i = some w ∧ decodeHg w = some i) ∧
  (∀ (w : Nat) (i : Instr), w < 2 ^ 32 → decodeHg w = some i → i.policy = true ∧ WellFormed i = true ∧ encodeHg i = some w) ∧
  (∀ d a b : Nat, d < 16 → a < 16 → b < 16 →
    decodeHg (0x04 + d * 2 ^ 8 + a * 2 ^ 12 + b * 2 ^ 16) = some (.hgAdd d a b)) ∧
  (∀ (d a : Nat) (imm : Half), d < 16 → a < 16 →
    decodeHg (0x05 + d * 2 ^ 8 + a * 2 ^ 12 + imm.toNat * 2 ^ 16) = some (.hgAddi d a imm)) ∧
  (∀ w : Nat, bitsN w 0 8 ∈ [0x04, 0x06, 0x07, 0x0A, 0x0B, 0x0C, 0x0D, 0x0E, 0x10, 0x18, 0x20] → bitsN w 20 12 ≠ 0 →
    decodeHg w = none) ∧
  (∀ (w : Nat) (d a ok : Bool), hgUses (bitsN w 0 8) (bitsN w 16 16) = some (d, a, ok) →
    (d = false ∧ bitsN w 8 4 ≠ 0) ∨ (a = false ∧ bitsN w 12 4 ≠ 0) ∨ ok = false → decodeHg w = none) ∧
  (∀ w : Nat, 0x22 < bitsN w 0 8 → decodeHg w = none)

/-- Bits [1:0] of the first word give the length, 1, 3, 3 or 5 words for L from 0b00 to 0b11; the words that follow carry no L,
and the literal's two words come last, low word first (R138). -/
def Obligations.InstructionLengths : Prop :=
  ∀ (w0 : Nat) (rest : List Nat),
    let n := match w0 % 4 with | 0 => 1 | 1 => 3 | 2 => 3 | _ => 5
    (decodeWords (w0 :: rest) = none ↔ rest.length + 1 < n) ∧
    (∀ i m, decodeWords (w0 :: rest) = some (i, m) → m = n ∧
      ∀ more, decodeWords ((w0 :: rest).take n ++ more) = some (i, n)) ∧
    (∀ (w1 w2 : Nat) (v : DWord) (i : Instr) (maj min : Nat) (x : Opnds),
      (w0 % 4 = 3 → decodeWords [w0, w1, w2, v.toNat % 2 ^ 32, v.toNat / 2 ^ 32] = some (i, 5) → i.ext? = some (maj, min, x) →
        x.lit = some v) ∧
      (w0 % 4 = 1 → decodeWords [w0, w1, w2] = some (i, 3) → i.ext? = some (maj, min, x) → x.lit = none)) ∧
    (∀ (v : DWord) (d : Nat), d < 128 →
      decodeWords [0x0B * 2 ^ 2 + d * 2 ^ 8 + 2, v.toNat % 2 ^ 32, v.toNat / 2 ^ 32] = some (.smovLit d v, 3))

/-- SDIV truncates toward zero and SREM gives the remainder, which has the sign of the dividend; a division by zero gives a
quotient with all bits set and the dividend as remainder, the signed overflow the least number and 0; neither traps (R184). -/
def Obligations.DivisionResults : Prop :=
  ∀ (s : State) (c : Ic) (x : Opnds) (a b : DWord), s.issuer = some c → c.freeS x.d.snum →
    c.scalars x [x.a, x.b] = some [a, b] → x.t ∈ [Ty.i32, .n32, .i64, .n64] →
    let w := x.t.width
    let v (y : DWord) : Int := intVal x.t y
    let put (y : DWord) := c.ends s x.len (s.putRegs c (c.regs.setS x.d.snum y))
    ∃ q r : DWord, exec (.sdiv x) s = put q ∧ exec (.srem x) s = put r ∧
      (v b = 0 → q.toNat % 2 ^ w = 2 ^ w - 1 ∧ v r = v a) ∧
      (v b ≠ 0 → v a = v b * (v a).tdiv (v b) + v r ∧
        (x.t.signed = true ∧ v a = -(2 ^ (w - 1) : Nat) ∧ v b = -1 → v q = -(2 ^ (w - 1) : Nat) ∧ v r = 0) ∧
        (¬(x.t.signed = true ∧ v a = -(2 ^ (w - 1) : Nat) ∧ v b = -1) → v q = (v a).tdiv (v b))) ∧
      (v r = 0 ∨ (0 < v r ↔ 0 < v a))

/-- Taking a precise trap: TCAUSE, TPC, TINFO and TMASK tell the trap; with TVEC.EN and outside a handler the split enters
Trapped at TVEC.ADDR with its lane mask and registers as they were, holds the strand's other splits, and no fault is routed; else the
split parks, and the fault goes to the policy of its die, one inside a handler as TRAP 0x0B with the inner class (R371, R373). -/
def Obligations.TrapEntry : Prop :=
  ∀ (s : State) (c : Ic) (len : Nat) (t : Trap), s.issuer = some c →
    let u := s.conclude c len (.trap t)
    let tpc := if t.restart then c.sp.pc else c.sp.pc + .ofNat 57 (4 * len)
    let die := dieOf (coreOf c.key)
    ∃ st, u.strand? c.key = some st ∧ s.sameMem u ∧ s.sameStrands u c.key ∧
      st.ctx.tcause = .ofNat 64 (t.cls + 2 ^ 8 * t.sub + 2 ^ 16 * (c.slot % 4) + (if t.async then 2 ^ 18 else 0) +
        (if t.restart then 2 ^ 19 else 0)) ∧
      st.ctx.tpc = tpc.setWidth 64 ∧ st.ctx.tmask = t.lanes ∧
      st.ctx.tinfo = .ofNat 64 (t.code % 2 ^ 16 + 2 ^ 16 * (t.rseq % 2 ^ 16) + 2 ^ 32 * t.oprec.toNat +
        2 ^ 48 * (lowLane t.lanes % 256)) ∧
      st.ctx.regs = c.regs ∧ st.ctx.mode = c.st.ctx.mode ∧ st.ctx.stack = c.st.ctx.stack ∧ st.ctx.tvec = c.st.ctx.tvec ∧
      st.ops = c.st.ops ∧ st.syms = c.st.syms ∧ (∀ k, k ≠ c.slot → st.split k = c.st.split k) ∧
      (st.split c.slot).mask = c.sp.mask ∧
      (c.st.ctx.tvec.getLsbD 0 = true → c.sp.privileged = false →
        (st.split c.slot).st = .trapped ∧ (st.split c.slot).pc.toNat = c.st.ctx.tvec.toNat / 4 * 4 % 2 ^ 57 ∧
        st.hold = some c.slot ∧ u.dieSt die = s.dieSt die) ∧
      (c.st.ctx.tvec.getLsbD 0 = false ∨ c.sp.privileged = true →
        (st.split c.slot).st = .parked ∧ (st.split c.slot).pc = tpc ∧ st.hold = c.st.hold ∧
        ∃ e, (u.dieSt die).faults = (s.dieSt die).faults ++ [e] ∧ e.split = some (c.key, c.slot) ∧ e.part = c.st.part ∧
          e.fault.precise = true ∧ e.fault.mask = t.lanes ∧ e.fault.pc = c.sp.pc ∧
          (c.sp.privileged = false → e.fault.cls = t.cls ∧ e.fault.sub = t.sub) ∧
          (c.sp.privileged = true → e.fault.cls = 0x02 ∧ e.fault.sub = 0x0B ∧
            e.fault.addr = .ofNat 64 (t.cls + 256 * t.sub)))

/-- Frame of the instructions on scalars and predicates: whatever comes of an issue, only the destination register, the issuing
split and, where it traps, the trap registers change; all memory, MODE, the other registers, splits and strands stay (R143, R167, R179,
R182). -/
def Obligations.ScalarFrame : Prop :=
  ∀ (s t : State) (c : Ic) (i : Instr) (ds : List Opnd), s.issuer = some c → c.regs.wf = true → i.scalarDests = some ds →
    exec i s = .next t → c.frame s t ds false

/-- Frame of the instructions on vectors: only the destination register or pair (for VADDC also the predicate of its carries), MODE.FLAGS
where the instruction raises flags, the issuing split and, where it traps, the trap registers change (R70, R163, R186 to R204). -/
def Obligations.VectorFrame : Prop :=
  ∀ (s t : State) (c : Ic) (i : Instr) (ds : List Opnd) (flags : Bool), s.issuer = some c → c.regs.wf = true →
    i.vectorDests = some (ds, flags) → exec i s = .next t → c.frame s t ds flags

/-- Frame of memory instructions at issue: with no upset word, a load, PREF and a store to the scratchpad or a vault leave every
byte of every memory; a page walk's mark changes at most the eight bytes of its leaf entry (R111, R211, R213). -/
def Obligations.MemoryIssueFrame : Prop :=
  ∀ (s t : State) (x : Opnds) (d a b : Nat) (imm : BitVec 8), s.upsets = [] →
    (∀ i ∈ [Instr.ld x, .lds x, .ldv x, .ldf x, .ldt x, .ldc x, .pref x, .sts x, .stv x, .ldBase d a b, .ldsBase d a imm],
      exec i s = .next t → s.sameMem t) ∧
    (s.memWf = true → ∀ ent acc, s.sameMemBut (s.touch ent acc) .flostra ent 8)

/-! ## Results: scalars -/

/-- Every scalar integer instruction of two or more operands, with its operands at hand and its destination free, writes its
result into the destination and goes on (R182 to R185). -/
def Obligations.ScalarIntegerResults : Prop :=
  ∀ (s : State) (c : Ic) (x : Opnds) (a b k d : DWord), s.issuer = some c → c.freeS x.d.snum →
    let t := x.t
    let put (v : DWord) := c.ends s x.len (s.putRegs c (c.regs.setS x.d.snum v))
    (c.scalars x [x.a] = some [a] →
      exec (.smov x) s = put (scalarOut t (intVal t a)) ∧
      exec (.sclz x) s = put (.ofNat 64 (clz t.width (modW t.width (intVal t a)))) ∧
      exec (.spopc x) s = put (.ofNat 64 (popc (modW t.width (intVal t a))))) ∧
    (c.scalars x [x.a, x.b] = some [a, b] →
      exec (.sadd x) s = put (scalarOut t (intVal t a + intVal t b)) ∧
      exec (.ssub x) s = put (scalarOut t (intVal t a - intVal t b)) ∧
      exec (.smul x) s = put (scalarOut t (intVal t a * intVal t b)) ∧
      exec (.smulh x) s = put (scalarOut t (intVal t a * intVal t b / (2 ^ t.width : Nat))) ∧
      exec (.sdiv x) s = put (scalarOut t (if intVal t b = 0 then -1 else (intVal t a).tdiv (intVal t b))) ∧
      exec (.srem x) s = put (scalarOut t (if intVal t b = 0 then intVal t a else (intVal t a).tmod (intVal t b))) ∧
      exec (.sand x) s = put (scalarOut t (((intVal t a).toNat &&& (intVal t b).toNat : Nat))) ∧
      exec (.sor x) s = put (scalarOut t (((intVal t a).toNat ||| (intVal t b).toNat : Nat))) ∧
      exec (.sxor x) s = put (scalarOut t (((intVal t a).toNat ^^^ (intVal t b).toNat : Nat))) ∧
      exec (.sshl x) s = put (scalarOut t (ishl t (intVal t a) (b.toNat % 2 ^ t.width))) ∧
      exec (.sshr x) s = put (scalarOut t (ishr t (intVal t a) (b.toNat % 2 ^ t.width))) ∧
      exec (.ssar x) s = put (scalarOut t (ishr t (intVal t a) (b.toNat % 2 ^ t.width))) ∧
      exec (.smin x) s = put (scalarOut t (min (intVal t a) (intVal t b))) ∧
      exec (.smax x) s = put (scalarOut t (max (intVal t a) (intVal t b))) ∧
      exec (.ssel x) s = put (scalarOut t (intVal t (if c.regs.sp x.c.qnum then a else b)))) ∧
    (c.scalars x [x.a, x.b, x.c] = some [a, b, k] →
      exec (.smad x) s = put (scalarOut t (intVal t a * intVal t b + intVal t k)) ∧
      exec (.sbfe x) s = put (scalarOut t
        (bfe t (modW t.width (intVal t a)) (b.toNat % 2 ^ t.width) (k.toNat % 2 ^ t.width)))) ∧
    (c.scalars x [x.a, x.b, x.c, x.d] = some [a, b, k, d] →
      exec (.sbfi x) s = put (scalarOut t ((bfi t.width (a.toNat % 2 ^ t.width) (d.toNat % 2 ^ t.width)
        (b.toNat % 2 ^ t.width) (k.toNat % 2 ^ t.width) : Nat) : Int)))

/-- The base forms of scalar arithmetic, with their sources at hand and their destination free, have the effect of their
64-bit equivalents; the base comparisons write the scalar predicate with a signed 64-bit comparison, QSET and QLOG the predicate that
their relation or table gives (R143, R144, R179). -/
def Obligations.ScalarBaseResults : Prop :=
  (∀ (s : State) (c : Ic) (d a b : Nat) (va vb : DWord), s.issuer = some c → c.freeS d →
    let put (len : Nat) (v : DWord) := c.ends s len (s.putRegs c (c.regs.setS d v))
    (c.scalars (baseX .i64 .zero (.s a) (.s b) none) [.s a, .s b] = some [va, vb] →
      exec (.saddBase d a b) s = put 1 (va + vb) ∧
      exec (.ssubBase d a b) s = put 1 (va - vb) ∧
      exec (.smulBase d a b) s = put 1 (va * vb) ∧
      exec (.sandBase d a b) s = put 1 (va &&& vb) ∧
      exec (.sorBase d a b) s = put 1 (va ||| vb) ∧
      exec (.sxorBase d a b) s = put 1 (va ^^^ vb)) ∧
    (c.scalars (baseX .i64 .zero (.s a) .zero none) [.s a] = some [va] →
      exec (.smovBase d a) s = put 1 va ∧
      (∀ n < 256, exec (.sshlBase d a n) s = put 1 (va <<< n) ∧ exec (.sshrBase d a n) s = put 1 (va >>> n)) ∧
      (∀ i : BitVec 8, exec (.saddImmBase d a i) s = put 1 (va + i.signExtend 64)) ∧
      (∀ v : DWord, exec (.saddLit d a v) s = put 3 (va + v))) ∧
    (∀ i : BitVec 8, exec (.smovImmBase d i) s = put 1 (i.signExtend 64)) ∧
    (∀ v : DWord, exec (.smovLit d v) s = put 3 v)) ∧
  (∀ (s : State) (c : Ic) (x : Opnds) (d a b : Nat) (va vb : DWord), s.issuer = some c →
    let put (len n : Nat) (v : Bool) := c.ends s len (s.putRegs c (c.regs.setQ n v))
    (c.scalars (baseX .i64 .zero (.s a) (.s b) none) [.s a, .s b] = some [va, vb] →
      exec (.qsetLtBase d a b) s = put 1 d (va.slt vb) ∧ exec (.qsetEqBase d a b) s = put 1 d (va == vb)) ∧
    (c.scalars x [x.a, x.b] = some [va, vb] →
      exec (.qset x) s = put x.len x.d.qnum (icmp x.sel (intVal x.t va) (intVal x.t vb))) ∧
    exec (.qlog x) s = put x.len x.d.qnum
      ((x.sel % 16).testBit ((if c.regs.sp x.a.qnum then 2 else 0) + (if c.regs.sp x.b.qnum then 1 else 0))))

/-! ## Results: vectors -/

/-- Each vector integer instruction, with its operands at hand and room for its destination, writes every lane of act with the
function of its table entry and leaves the others; VADDC adds the carry of its lane predicate and leaves the carry out there (R91,
R163, R164, R185 to R187). -/
def Obligations.VectorIntegerResults : Prop :=
  (∀ (s : State) (c : Ic) (x : Opnds) (srcs : List Off), s.issuer = some c → (x.t.width = 32 ∨ x.t.width = 64) →
    let t := x.t
    let w := t.is64
    let v := intVal t
    let writes (i : Instr) (f : Nat → List DWord → DWord × Half) :=
      c.freeV x.d.vnum w (c.act x) → c.writesLanes s i x.len x.d.vnum w (c.act x) srcs f
    let writes32 (i : Instr) (f : Nat → List DWord → DWord × Half) :=
      c.freeV x.d.vnum false (c.act x) → c.writesLanes s i x.len x.d.vnum false (c.act x) srcs f
    let int (g : DWord → DWord → Int) : Nat → List DWord → DWord × Half :=
      fun _ l => (.ofNat 64 (modW t.width (g (arg0 l) (arg1 l))), 0)
    (c.offs x [(x.a, w), (x.b, w)] = some srcs →
      writes (.vadd x) (int fun a b => v a + v b) ∧
      writes (.vsub x) (int fun a b => v a - v b) ∧
      writes (.vmul x) (int fun a b => v a * v b) ∧
      writes (.vmulh x) (int fun a b => v a * v b / (2 ^ t.width : Nat)) ∧
      writes (.vand x) (int fun a b => ((v a).toNat &&& (v b).toNat : Nat)) ∧
      writes (.vor x) (int fun a b => ((v a).toNat ||| (v b).toNat : Nat)) ∧
      writes (.vxor x) (int fun a b => ((v a).toNat ^^^ (v b).toNat : Nat)) ∧
      writes (.vmin x) (int fun a b => min (v a) (v b)) ∧
      writes (.vmax x) (int fun a b => max (v a) (v b)) ∧
      writes (.vshl x) (int fun a b => ishl t (v a) (b.toNat % 2 ^ t.width)) ∧
      writes (.vshr x) (int fun a b => ishr t (v a) (b.toNat % 2 ^ t.width)) ∧
      writes (.vsar x) (int fun a b => ishr t (v a) (b.toNat % 2 ^ t.width)) ∧
      writes (.vsel x) (fun l vs => (if laneIn (c.regs.pred x.c.pnum) l then arg0 vs else arg1 vs, 0))) ∧
    (c.offs x [(x.a, w)] = some srcs →
      writes (.vnot x) (int fun a _ => -1 - v a) ∧
      writes (.vabs x) (int fun a _ => ((v a).natAbs : Int)) ∧
      writes (.vneg x) (int fun a _ => -(v a)) ∧
      writes (.vmov x) (fun _ vs => (arg0 vs, 0))) ∧
    (c.offs x [(x.a, false)] = some srcs → x.t.width = 32 →
      writes32 (.vclz x) (fun _ vs => (.ofNat 64 (clz 32 ((arg0 vs).toNat % 2 ^ 32) % 2 ^ 32), 0)) ∧
      writes32 (.vpopc x) (fun _ vs => (.ofNat 64 (popc ((arg0 vs).toNat % 2 ^ 32) % 2 ^ 32), 0))) ∧
    (c.offs x [(x.a, false), (x.b, false), (x.c, false)] = some srcs →
      writes32 (.vmad x) (fun _ vs => (.ofNat 64 (modW 32 (v (arg0 vs) * v (arg1 vs) + v (arg2 vs))), 0)) ∧
      writes32 (.vbfe x) (fun _ vs => (laneOut t (bfe t (arg0 vs).toNat ((arg1 vs).toNat % 2 ^ t.width)
        ((arg2 vs).toNat % 2 ^ t.width)), 0))) ∧
    (c.offs x [(x.a, false), (x.b, false), (x.c, false), (x.d, false)] = some srcs →
      writes32 (.vbfi x) (fun _ vs => (.ofNat 64 (bfi 32 (arg0 vs).toNat (vs.getD 3 0).toNat ((arg1 vs).toNat % 2 ^ 32)
        ((arg2 vs).toNat % 2 ^ 32)), 0))) ∧
    (c.freeV x.d.vnum false (c.act x) →
      c.writesLanes s (.vlane x) x.len x.d.vnum false (c.act x) [.a 0 1] (fun l _ => (.ofNat 64 l, 0)))) ∧
  (∀ (s : State) (c : Ic) (x : Opnds) (srcs : List Off), s.issuer = some c → c.freeV x.d.vnum false (c.act x) →
    (c.offs x [(x.a, false), (x.b, false), (x.c, false)] = some srcs →
      c.writesLanes s (.vdot4 x) x.len x.d.vnum false (c.act x) srcs fun _ vs => (dot4 x.t (arg0 vs) (arg1 vs) (arg2 vs), 0)) ∧
    (c.offs x [(x.a, false), (x.b, false)] = some srcs →
      c.writesLanes s (.vsadd x) x.len x.d.vnum false (c.act x) srcs fun _ vs => (satAdd x.t (arg0 vs) (arg1 vs), 0))) ∧
  (∀ (s : State) (c : Ic) (x : Opnds) (a b : Off), s.issuer = some c → c.freeV x.d.vnum false (c.act x) →
    c.offs x [(x.a, false), (x.b, false)] = some [a, b] →
    let p := c.regs.pred x.c.pnum
    let sum (l : Nat) : Nat := (a.at l).toNat + (b.at l).toNat + (if laneIn p l then 1 else 0)
    ∃ v : Off, (∀ l < 256, v.at l = if laneIn (c.act x) l then .ofNat 64 (sum l % 2 ^ 32) else (c.old x.d.vnum false).at l) ∧
      ∃ q : Mask, (∀ l < 256, laneIn q l = if laneIn (c.act x) l then decide (2 ^ 32 ≤ sum l) else laneIn p l) ∧
        exec (.vaddc x) s = c.ends s x.len (((s.putRegs c (c.regs.writeV x.d.vnum false v)).raise c.key 0).onStrand c.key
          fun st => st.onCtx fun k => { k with regs := k.regs.setP x.c.pnum q }))

/-- The base forms of vector arithmetic write every lane of the split: integers modulo 2^32, and FADD, FSUB, FMUL, FFMA, FMIN,
FMAX and FRCP on f32 under MODE's rounding, FFMA's addend its destination (R143, R144, R186). -/
def Obligations.LaneBaseResults : Prop :=
  (∀ (s : State) (c : Ic) (d a b : Nat) (va vb : Off), s.issuer = some c → c.freeV d false c.sp.mask →
    let writes (i : Instr) (len : Nat) (srcs : List Off) (f : DWord → DWord → DWord) :=
      c.writesLanes s i len d false c.sp.mask srcs fun _ vs => ((f (arg0 vs) (arg1 vs)).setWidth 32 |>.setWidth 64, 0)
    (c.offs (baseX .i32 .zero .zero .zero none) [(.v a, false), (.v b, false)] = some [va, vb] →
      writes (.vaddBase d a b) 1 [va, vb] (· + ·) ∧
      writes (.vsubBase d a b) 1 [va, vb] (· - ·) ∧
      writes (.vmulBase d a b) 1 [va, vb] (· * ·) ∧
      writes (.vandBase d a b) 1 [va, vb] (· &&& ·) ∧
      writes (.vorBase d a b) 1 [va, vb] (· ||| ·) ∧
      writes (.vxorBase d a b) 1 [va, vb] (· ^^^ ·)) ∧
    (c.offs (baseX .i32 .zero .zero .zero none) [(.v a, false)] = some [va] →
      (∀ n < 256, writes (.vshlBase d a n) 1 [va] (fun v _ => if 32 ≤ n then 0 else v <<< n) ∧
        writes (.vshrBase d a n) 1 [va] (fun v _ => (v.setWidth 32 >>> n).setWidth 64)) ∧
      (∀ i : BitVec 8, writes (.vaddImmBase d a i) 1 [va] (fun v _ => v + i.signExtend 64)) ∧
      (∀ n : DWord, writes (.vaddLit d a n) 3 [va] (fun v _ => v + n)) ∧
      writes (.vmovBase d a) 1 [va] (fun v _ => v)) ∧
    (c.offs (baseX .b32 .zero .zero .zero none) [(.s a, false)] = some [va] →
      writes (.vmovScalarBase d a) 1 [va] (fun v _ => v)) ∧
    c.writesLanes s (.vlaneBase d) 1 d false c.sp.mask [] fun l _ => (.ofNat 64 l, 0)) ∧
  (∀ (s : State) (c : Ic) (d a b : Nat) (va vb vd : Off), s.issuer = some c → c.freeV d false c.sp.mask →
    let x := baseVVV .f32 d a b
    let e := c.fpEnv x
    let act := c.sp.mask
    let v (i : DWord) := e.val fp32 i.toNat
    let out (r : Nat × Half) : DWord × Half := (.ofNat 64 r.1, r.2)
    let seed : Prop := effMode c.st.ctx.mode .dflt = .rsd →
      c.freeS (modeSeed c.st.ctx.mode) ∧ c.regs.spend (modeSeed c.st.ctx.mode) = false
    (c.offs x [(.v a, false), (.v b, false)] = some [va, vb] →
      (seed →
        c.writesLanes s (.faddBase d a b) 1 d false act [va, vb]
          (fun l i => out (e.fin fp32 l (Fv.add e.mode (v (arg0 i)) (v (arg1 i))))) ∧
        c.writesLanes s (.fsubBase d a b) 1 d false act [va, vb]
          (fun l i => out (e.fin fp32 l (Fv.add e.mode (v (arg0 i)) (v (arg1 i)).neg))) ∧
        c.writesLanes s (.fmulBase d a b) 1 d false act [va, vb]
          (fun l i => out (e.fin fp32 l (Fv.mul (v (arg0 i)) (v (arg1 i)))))) ∧
      c.writesLanes s (.fminBase d a b) 1 d false act [va, vb]
        (fun _ i => out (fp32.minMax false false e.fz (arg0 i).toNat (arg1 i).toNat)) ∧
      c.writesLanes s (.fmaxBase d a b) 1 d false act [va, vb]
        (fun _ i => out (fp32.minMax true false e.fz (arg0 i).toNat (arg1 i).toNat))) ∧
    (seed → c.offs x [(.v a, false), (.v b, false), (.v d, false)] = some [va, vb, vd] →
      c.writesLanes s (.ffmaBase d a b) 1 d false act [va, vb, vd]
        (fun l i => out (e.fin fp32 l (Fv.fma e.mode (v (arg0 i)) (v (arg1 i)) (v (arg2 i)))))) ∧
    (seed → c.offs x [(.v a, false)] = some [va] →
      c.writesLanes s (.frcpBase d a) 1 d false act [va] (fun l i => out (e.fin fp32 l (Fv.rcp (v (arg0 i)))))))

/-- Each floating-point instruction, with its operands and, under RSD, its seed at hand, writes every lane of act with the
operation of its table entry rounded once, and ORs the lanes' flags into MODE (R60 to R73, R188 to R193). -/
def Obligations.VectorFloatResults : Prop :=
  ∀ (s : State) (c : Ic) (x : Opnds) (srcs : List Off), s.issuer = some c →
    let t := x.t
    let w := t.is64
    let f := fmtOf t
    let e := c.fpEnv x
    let act := c.act x
    let seed : Prop := effMode c.st.ctx.mode x.rnd = .rsd →
      c.freeS (modeSeed c.st.ctx.mode) ∧ c.regs.spend (modeSeed c.st.ctx.mode) = false
    let plain (i : Instr) (g : List Nat → Nat × Half) :=
      c.writesLanes s i x.len x.d.vnum w act srcs fun l vs => perElem t l vs fun _ => g
    let rounds (i : Instr) (g : Nat → List Nat → Nat × Half) :=
      seed → c.writesLanes s i x.len x.d.vnum w act srcs fun l vs => perElem t l vs g
    (c.freeV x.d.vnum w act → c.offs x [(x.a, w), (x.b, w)] = some srcs →
      rounds (.fadd x) (fun i xs => e.fin f i (Fv.add e.mode (e.val f (nat0 xs)) (e.val f (nat1 xs)))) ∧
      rounds (.fsub x) (fun i xs => e.fin f i (Fv.add e.mode (e.val f (nat0 xs)) (e.val f (nat1 xs)).neg)) ∧
      rounds (.fmul x) (fun i xs => e.fin f i (Fv.mul (e.val f (nat0 xs)) (e.val f (nat1 xs)))) ∧
      rounds (.fdiv x) (fun i xs => e.fin f i (Fv.div (e.val f (nat0 xs)) (e.val f (nat1 xs)))) ∧
      plain (.fmin x) (fun xs => f.minMax false false e.fz (nat0 xs) (nat1 xs)) ∧
      plain (.fmax x) (fun xs => f.minMax true false e.fz (nat0 xs) (nat1 xs)) ∧
      plain (.fminp x) (fun xs => f.minMax false true e.fz (nat0 xs) (nat1 xs)) ∧
      plain (.fmaxp x) (fun xs => f.minMax true true e.fz (nat0 xs) (nat1 xs))) ∧
    (c.freeV x.d.vnum w act → c.offs x [(x.a, w), (x.b, w), (x.c, w)] = some srcs →
      rounds (.ffma x)
        (fun i xs => e.fin f i (Fv.fma e.mode (e.val f (nat0 xs)) (e.val f (nat1 xs)) (e.val f (nat2 xs))))) ∧
    (c.freeV x.d.vnum w act → c.offs x [(x.a, w)] = some srcs →
      rounds (.frcp x) (fun i xs => e.fin f i (Fv.rcp (e.val f (nat0 xs)))) ∧
      rounds (.frsq x) (fun i xs => e.fin f i (Fv.rsq (e.val f (nat0 xs)))) ∧
      rounds (.fsqrt x) (fun i xs => e.fin f i (Fv.sqrt (e.val f (nat0 xs)))) ∧
      rounds (.frnd x) (fun i xs => f.frnd (e.arg i) (f.flushIn e.fz (nat0 xs))) ∧
      plain (.fabs x) (fun xs => (nat0 xs % f.signBit, 0)) ∧
      plain (.fneg x) (fun xs => (nat0 xs ^^^ f.signBit, 0)) ∧
      plain (.fclass x) (fun xs => (f.fclass (nat0 xs), 0)) ∧
      plain (.ffrac x) (fun xs => f.flushOut e.fz (f.ffrac (f.flushIn e.fz (nat0 xs))))) ∧
    (t = .f32 → c.freeV x.d.vnum false act → c.offs x [(x.a, false)] = some srcs →
      rounds (.fexp2 x) (fun i xs => e.fin f i (Fv.exp2 (e.val f (nat0 xs)))) ∧
      rounds (.flog2 x) (fun i xs => e.fin f i (Fv.log2 (e.val f (nat0 xs)))) ∧
      rounds (.fsin x) (fun i xs => e.fin f i (Fv.sin (e.val f (nat0 xs)))) ∧
      rounds (.fcos x) (fun i xs => e.fin f i (Fv.cos (e.val f (nat0 xs)))) ∧
      rounds (.ftanh x) (fun i xs => e.fin f i (Fv.tanh (e.val f (nat0 xs))))) ∧
    (seed → c.freeV x.d.vnum w act → c.offs x [(x.a, w), (x.b, false)] = some srcs →
      c.writesLanes s (.fscale x) x.len x.d.vnum w act srcs fun l vs =>
        let r := e.fin f l (match e.val f (arg0 vs).toNat with
          | .nan g => (.nan false, if g then flagInv else 0)
          | v => (v.scale (intVal .i32 (arg1 vs)), 0))
        (.ofNat 64 r.1, r.2)) ∧
    (seed → c.freeV x.d.vnum false act → c.offs x [(x.a, false), (x.b, false), (x.c, false)] = some srcs →
      c.writesLanes s (.fdot2 x) x.len x.d.vnum false act srcs fun l vs => fdot2 t e l (arg0 vs) (arg1 vs) (arg2 vs))

/-- Each conversion, with its operands and, under RSD, its seed at hand, writes every lane of act as its table entry says
(R61, R62, R194 to R198). -/
def Obligations.ConversionResults : Prop :=
  ∀ (s : State) (c : Ic) (x : Opnds) (srcs : List Off), s.issuer = some c →
    let t := x.t
    let frm := selTyOf x
    let e := c.fpEnv x
    let act := c.act x
    let seed : Prop := effMode c.st.ctx.mode x.rnd = .rsd →
      c.freeS (modeSeed c.st.ctx.mode) ∧ c.regs.spend (modeSeed c.st.ctx.mode) = false
    let writes (i : Instr) (w : Bool) (f : Nat → List DWord → DWord × Half) :=
      c.freeV x.d.vnum w act → c.writesLanes s i x.len x.d.vnum w act srcs f
    let out (r : Nat × Half) : DWord × Half := (.ofNat 64 r.1, r.2)
    (c.offs x [(x.a, frm.is64)] = some srcs →
      (seed → writes (.fcvt x) t.is64 (fun l vs => out ((fmtOf t).flushOut e.fz (roundSat (fmtOf t) (e.arg l)
        (e.sat && narrows t frm) (e.val (fmtOf frm) (arg0 vs).toNat))))) ∧
      (seed → writes (.ftoi x) t.is64 (fun l vs =>
        let r := floatToInt t (e.arg l) (e.val (fmtOf frm) (arg0 vs).toNat)
        (laneOut t r.1, r.2))) ∧
      (seed → writes (.itof x) t.is64 (fun l vs =>
        out ((fmtOf t).round (e.arg l) false (Fv.ofInt (intVal frm (arg0 vs)))))) ∧
      writes (.iext x) t.is64 (fun _ vs =>
        (laneOut t (intVal t (.ofNat 64 (modW t.width (intVal frm (arg0 vs))))), 0))) ∧
    (∀ k, c.offs x [(x.c, false)] = some [.u k] → k.toNat ≤ packMax t → seed →
      (packMax t = 0 → c.offs x [(x.a, false), (x.b, false)] = some srcs →
        writes (.fpack x) false (fun l vs => fpackLane t e k.toNat l (arg0 vs) (arg1 vs) (arg2 vs))) ∧
      (packMax t ≠ 0 → c.offs x [(x.a, false), (x.b, false), (x.d, false)] = some srcs →
        writes (.fpack x) false (fun l vs => fpackLane t e k.toNat l (arg0 vs) (arg1 vs) (arg2 vs)))) ∧
    (∀ a k, c.offs x [(x.a, false), (x.b, false)] = some srcs → srcs = [a, .u k] → k.toNat < 32 / t.width →
      writes (.funpk x) false (fun _ vs =>
        out (roundSat fp32 rneArg false ((fmtOf t).val (elemOf t.width k.toNat (arg0 vs)).toNat)))) ∧
    (∀ a b, c.offs x [(x.a, false), (x.c, false)] = some srcs → srcs = [a, .u b] →
      let k := if t = .e8m0 then 32 else 8
      writes (.sclq x) false (fun l _ =>
        let block := ((List.range k).map fun i => k * (l / k) + i).filter (laneIn act) |>.map fun j => fp32.val (a.at j).toNat
        out (if t = .e8m0 then e8m0Code frm block else e3m5Code ((fmtOf .bf16).val (b.toNat % 65536)) block))) ∧
    (seed → c.offs x [(x.a, false), (x.b, false), (x.c, false)] = some srcs →
      writes (.bqnt x) false (fun l vs => bqntLane t e l (arg0 vs) (arg1 vs) (arg2 vs)) ∧
      writes (.bdq x) false (fun l vs => bdqLane t e l (arg0 vs) (arg1 vs) (arg2 vs)))

/-- Each lane exchange reads its whole sources first and gives every lane of act the lane that its table entry names; VRED and
VSCAN with a leaf count from 1 to 2^32 and every index below it give the roots and prefixes of the fixed tree over the leaves present,
with the flags of every combination (R74, R199 to R204). -/
def Obligations.LaneExchangeResults : Prop :=
  (∀ (s : State) (c : Ic) (x : Opnds) (a b : Off), s.issuer = some c →
    let w := x.t.is64
    let act := c.act x
    let sg := 2 ^ x.sel
    let takes (i : Instr) (f : Nat → DWord) :=
      c.freeV x.d.vnum w act → c.writesLanes s i x.len x.d.vnum w act [] fun l _ => (f l, 0)
    (c.offs x [(x.a, w), (x.b, w)] = some [a, b] →
      takes (.bfly x) (fun l => if x.xs = 2 ∨ l / 2 ^ x.sel % 2 = x.xs then a.at (l ^^^ 2 ^ x.sel) else b.at l)) ∧
    (c.offs x [(x.a, w), (x.b, false)] = some [a, b] →
      takes (.shfl x) (fun l => a.at ((b.at l).toNat % 256))) ∧
    (c.offs x [(x.a, w), (x.b, true)] = some [a, b] →
      takes (.lrot x) (fun l => a.at (l / sg * sg + (l % sg + sg - (b.at 0).toNat % sg) % sg)) ∧
      takes (.lbcst x) (fun l => a.at (l / sg * sg + (b.at 0).toNat % sg))) ∧
    (c.offs x [(x.a, w)] = some [a] → c.st.busy x.d w = false →
      let src := lanesOf (c.sp.mask &&& c.regs.pred x.b.pnum)
      c.regs.blocksWrite x.d.vnum w (decide (src.length = 256)) = false →
      (∀ v, (c.regs.writeV x.d.vnum w v).overflows c.st.logG = false) →
      ∃ v : Off, (∀ j < 256, v.at j = if j < src.length then a.at (src.getD j 0) else (c.old x.d.vnum w).at j) ∧
        exec (.lcmp x) s = c.ends s x.len (s.putRegs c (c.regs.writeV x.d.vnum w v)))) ∧
  (∀ (s : State) (c : Ic) (x : Opnds) (a b : Off) (n : DWord), s.issuer = some c →
    c.offs x [(x.a, x.t.is64), (x.b, false), (x.c, true)] = some [a, b, .u n] → n.toNat ≠ 0 → n.toNat ≤ 2 ^ 32 →
    let act := c.act x
    (∀ l, laneIn act l = true → (b.at l).toNat < n.toNat) →
    let leaves := leafMap act a b
    let root (ls : List (Nat × DWord)) := sparseRoot x.t x.sel 33 ls 0
    let val (r : Option DWord × Half) := r.1.getD (redIdent x.t x.sel)
    ((∀ l k, laneIn act l = true → laneIn act k = true → l ≠ k → b.at l ≠ b.at k) →
      (∀ d, x.d = .s d → c.freeS d → exec (.vred x) s =
        c.ends s x.len ((s.putRegs c (c.regs.setS d (val (root leaves)))).raise c.key (root leaves).2)) ∧
      (∀ d, x.d = .v d → c.freeV d x.t.is64 act → ∃ v : Off,
        (∀ l < 256, v.at l = if laneIn act l then val (root leaves) else (c.old d x.t.is64).at l) ∧
        exec (.vred x) s = c.ends s x.len
          (((s.putRegs c (c.regs.writeV d x.t.is64 v)).raise c.key 0).raise c.key (root leaves).2))) ∧
    (c.freeV x.d.vnum x.t.is64 act → c.writesLanes s (.vscan x) x.len x.d.vnum x.t.is64 act [] fun l _ =>
      let r := root (leaves.filter fun e => decide (e.1 < (b.at l).toNat + if x.xs % 2 = 1 then 0 else 1))
      (val r, r.2)))

/-- The instructions on lane predicates write the lanes of act of their destination and leave the others; VOTE, PCNT and
PFIRST give one value for the split (R179 to R181). -/
def Obligations.LanePredicateResults : Prop :=
  ∀ (s : State) (c : Ic) (x : Opnds) (a b : Off), s.issuer = some c →
    let w := x.t.is64
    let act := c.act x
    let r := c.regs
    let sets (i : Instr) (act : Mask) (d : Nat) (also : State → State) (f : Nat → Bool) : Prop :=
      ∃ m : Mask, (∀ l < 256, laneIn m l = if laneIn act l then f l else laneIn (r.pred d) l) ∧
        exec i s = c.ends s x.len (also (s.putRegs c (r.setP d m)))
    let cmp (l : Nat) := fcmp x.sel ((c.fpEnv x).val (fmtOf x.t) (a.at l).toNat) ((c.fpEnv x).val (fmtOf x.t) (b.at l).toNat)
    (c.offs x [(x.a, w), (x.b, w)] = some [a, b] →
      sets (.pset x) act x.d.pnum id (fun l => icmp x.sel (intVal x.t (a.at l)) (intVal x.t (b.at l))) ∧
      sets (.pfset x) act x.d.pnum (fun u => u.raise c.key ((lanesOf act).foldl (fun fl l => fl ||| (cmp l).2) 0)) (fun l => (cmp l).1)) ∧
    sets (.plog x) act x.d.pnum id (fun l => (x.sel % 16).testBit
      ((if laneIn (r.pred x.a.pnum) l then 2 else 0) + (if laneIn (r.pred x.b.pnum) l then 1 else 0))) ∧
    (∀ d p, x.d = .p d → x.a = .p p → sets (.pmov x) act d id (fun l => laneIn (r.pred p) l)) ∧
    (∀ d n, x.d = .p d → x.a = .v n → c.offs x [(x.a, false)] = some [a] →
      sets (.pmov x) act d id (fun l => (a.at l).getLsbD 0)) ∧
    (∀ d n, x.d = .p d → x.a = .s n → c.offs x [(x.a, true)] = some [a] → x.xs < 4 →
      sets (.pmov x) (maskOf fun l => laneIn act l && decide (l / 64 = x.xs)) d id (fun l => (a.at 0).getLsbD (l % 64))) ∧
    (∀ d p, x.d = .v d → x.a = .p p → c.freeV d false act → c.writesLanes s (.pmov x) x.len d false act []
      fun l _ => (if laneIn (r.pred p) l then 1 else 0, 0)) ∧
    (∀ d p, x.d = .s d → x.a = .p p → c.freeS d → exec (.pmov x) s =
      c.ends s x.len (s.putRegs c (r.setS d ((r.pred p >>> (64 * x.xs)).setWidth 64)))) ∧
    (let m := c.sp.mask
      let p := r.pred x.a.pnum
      let putQ (v : Bool) := c.ends s x.len (s.putRegs c (r.setQ x.d.qnum v))
      (x.sel = 0 → exec (.vote x) s = putQ (p &&& m != 0)) ∧
      (x.sel = 1 → exec (.vote x) s = putQ (p &&& m == m)) ∧
      (2 ≤ x.sel → c.offs x [(x.a, false)] = some [a] →
        exec (.vote x) s = putQ ((lanesOf m).all fun l => a.at l == a.at (lowLane m))) ∧
      (c.freeS x.d.snum →
        exec (.pcnt x) s = c.ends s x.len (s.putRegs c (r.setS x.d.snum (.ofNat 64 (lanesOf (m &&& p)).length))) ∧
        exec (.pfirst x) s = c.ends s x.len (s.putRegs c (r.setS x.d.snum (.ofNat 64 (lowLane (m &&& p)))))))

/-- PNDQ and VSHQ describe a register without waiting for a symbol, PNDWAIT goes on where none is unresolved, and VSHAPE gives
its destination the shape it names (R205 to R207). -/
def Obligations.ShapeResults : Prop :=
  ∀ (s : State) (c : Ic) (x : Opnds) (a : Off), s.issuer = some c →
    let r := c.regs
    (c.freeS x.d.snum →
      (∀ n, x.a = .v n → exec (.pndq x) s = c.ends s x.len (s.putRegs c (r.setS x.d.snum
        (match (r.vreg n).shape with | .p _ f => formDesc f | _ => 0)))) ∧
      (∀ n, x.a = .s n → exec (.pndq x) s = c.ends s x.len (s.putRegs c (r.setS x.d.snum
        (match mapGet (SReg.val 0) r.s n with | .pend f => formDesc f | .val _ => 0)))) ∧
      exec (.vshq x) s = c.ends s x.len (s.putRegs c (r.setS x.d.snum (.ofNat 64 (r.vreg x.a.vnum).tag)))) ∧
    (∀ n, x.a = .v n → (∀ k f, (r.vreg n).shape ≠ .p k f) → exec (.pndwait x) s = c.ends s x.len s) ∧
    (∀ n, x.a = .s n → r.spend n = false → exec (.pndwait x) s = c.ends s x.len s) ∧
    (x.a = .zero → c.st.syms = [] → exec (.pndwait x) s = c.ends s x.len s) ∧
    (c.offs x [(x.a, x.t.is64)] = some [a] → c.st.busy x.d x.t.is64 = false → c.freeV x.d.vnum x.t.is64 (c.act x) →
      let v := shapeOff x.sel (lowLane c.sp.mask) a
      (c.act x = fullMask → exec (.vshape x) s = c.ends s x.len (s.putRegs c (r.writeV x.d.vnum x.t.is64 v))) ∧
      (c.act x ≠ fullMask → ∃ u : Off,
        (∀ l < 256, u.at l = if laneIn (c.act x) l then v.at l else (c.old x.d.vnum x.t.is64).at l) ∧
        exec (.vshape x) s = c.ends s x.len (s.putRegs c (r.writeV x.d.vnum x.t.is64 u))))

/-! ## Results: control flow and SYS -/

/-- Every branch, call, return and loop answers a next state: BRA and BRAQ (base and extended), CALL, CALLI, RET, JMPI and LOOP with a
target below 2^57, aligned where it comes from a scalar, issue and go there; a BRAQ not taken and a LOOP at its end issue and go on; EXIT
(base and extended) issues, removes the lanes of act from the split and from every entry of the stack, held in memory too, and the split
that keeps none is free (R26, R139, R176, R178). -/
def Obligations.BranchResults : Prop :=
  (∀ (s : State) (c : Ic) (x : Opnds), s.issuer = some c →
    let at' (off : DWord) : DWord := target c.sp.pc off
    let goesTo (len : Nat) (u : State) (t : DWord) : State := s.conclude c len (.jump u (t.setWidth 57))
    let goesOn (len : Nat) (u : State) : State := s.conclude c len (.done u)
    let link (n len : Nat) : State := s.putRegs c (c.regs.setS n ((c.nextPc len).setWidth 64))
    (∀ off : BitVec 24, (at' (off.signExtend 64)).toNat < 2 ^ 57 →
      exec (.braBase off) s = .next (goesTo 1 s (at' (off.signExtend 64)))) ∧
    (∀ (q : Nat) (neg : Bool) (off : BitVec 16),
      ((c.regs.sp q != neg) = true → (at' (off.signExtend 64)).toNat < 2 ^ 57 →
        exec (.braqBase q neg off) s = .next (goesTo 1 s (at' (off.signExtend 64)))) ∧
      ((c.regs.sp q != neg) = false → exec (.braqBase q neg off) s = .next (goesOn 1 s))) ∧
    (let t := at' (x.lit.getD 0);
      (t.toNat < 2 ^ 57 →
        exec (.bra x) s = .next (goesTo x.len s t) ∧
        ((c.regs.sp x.a.qnum != (x.sel % 2 == 1)) = true → exec (.braq x) s = .next (goesTo x.len s t)) ∧
        (c.st.busy x.d true = false → exec (.call x) s = .next (goesTo x.len (link x.d.snum x.len) t)) ∧
        (∀ v, c.scalars x [x.d] = some [v] → v ≠ 1 →
          exec (.loop x) s = .next (goesTo x.len (s.putRegs c (c.regs.setS x.d.snum (v - 1))) t))) ∧
      ((c.regs.sp x.a.qnum != (x.sel % 2 == 1)) = false → exec (.braq x) s = .next (goesOn x.len s)) ∧
      (c.scalars x [x.d] = some [1] → exec (.loop x) s = .next (goesOn x.len (s.putRegs c (c.regs.setS x.d.snum 0))))) ∧
    (∀ a, c.scalars x [x.a] = some [a] → a.toNat % 4 = 0 → a.toNat < 2 ^ 57 →
      exec (.ret x) s = .next (goesTo x.len s a) ∧
      exec (.jmpi x) s = .next (goesTo x.len s a) ∧
      (c.st.busy x.d true = false → exec (.calli x) s = .next (goesTo x.len (link x.d.snum x.len) a))) ∧
    (∀ (off : Int), 0 ≤ (c.sp.pc.toNat : Int) + 4 * off → (c.sp.pc.toNat : Int) + 4 * off < 2 ^ 57 → -(2 ^ 63) ≤ off → off < 2 ^ 63 →
      ((at' (.ofInt 64 off)).toNat : Int) = c.sp.pc.toNat + 4 * off)) ∧
  (∀ (s : State) (c : Ic) (x : Opnds), s.issuer = some c →
    let u := s.seenAll c.st.part c.st.ctx.spillAddrs 128
    u.far.ask = [] →
    exec (.exit x) s = .next (s.conclude c x.len (.stay (u.exitLanes c (c.act x) (c.nextPc x.len)))) ∧
    exec .exitBase s = .next (s.conclude c 1 (.stay (u.exitLanes c c.sp.mask (c.nextPc 1)))) ∧
    (∀ st, (u.exitLanes c (c.act x) (c.nextPc x.len)).strand? c.key = some st →
      st.exited = c.st.exited ||| (c.sp.mask &&& c.act x) ∧
      (c.st.exited ||| (c.sp.mask &&& c.act x) = BitVec.allOnes 256 → st.phase = .exited)))

/-- BRD pushes an entry that expects the split's lanes, and with lanes on both sides a free slot takes the fall-through or the
entry defers it; JOIN at the join point of the top covering entry takes up the deferred path or waits as Joining; BRK removes the
breaking lanes from the n topmost covering entries and takes them to its target (R31 to R33, R177, R500). -/
def Obligations.DivergeResults : Prop :=
  let mem (s : State) (c : Ic) : State := s.seenAll c.st.part c.st.ctx.spillAddrs 128
  (∀ (s : State) (c : Ic) (x : Opnds), s.issuer = some c → c.st.ctx.stack.length < 16 →
    let ctx := c.st.ctx
    let lit := x.lit.getD 0
    let t := target c.sp.pc ((lit.setWidth 32).signExtend 64)
    let j := target c.sp.pc (((lit >>> 32).setWidth 32).signExtend 64)
    let p := c.regs.pred x.a.pnum
    let taken := c.sp.mask &&& (if x.sel % 2 = 1 then ~~~p else p)
    let fall := c.sp.mask &&& ~~~taken
    let next := c.nextPc x.len
    let e : Entry := { joinPc := j.setWidth 57, owner := c.slot, expected := c.sp.mask, arrived := 0, pending := 1, deferred := none }
    let here : Split := { c.sp.advance (t.setWidth 57) with mask := taken }
    j.toNat < 2 ^ 57 →
    (taken = 0 → exec (.brd x) s = c.jumps s x.len (s.putCtx c { ctx with stack := ctx.stack ++ [e] }) next) ∧
    (taken ≠ 0 → t.toNat < 2 ^ 57 →
      (fall = 0 → exec (.brd x) s = c.jumps s x.len (s.putCtx c { ctx with stack := ctx.stack ++ [e] }) (t.setWidth 57)) ∧
      (fall ≠ 0 →
        (∀ k, freeSplit ctx.splits = some k → exec (.brd x) s = c.stays s x.len (s.putCtx c
          { ctx with splits := (ctx.splits.set c.slot here).set k (Split.empty.path next fall)
                     stack := ctx.stack ++ [{ e with pending := 2 }] })) ∧
        (freeSplit ctx.splits = none → exec (.brd x) s = c.stays s x.len (s.putCtx c
          { ctx with splits := ctx.splits.set c.slot here
                     stack := ctx.stack ++ [{ e with pending := 2, deferred := some (next, fall) }] }))))) ∧
  (∀ (s : State) (c : Ic) (x : Opnds) (i : Nat) (e : Entry), s.issuer = some c →
    topCover c.st.ctx.stack c.sp.mask = some i → c.st.ctx.stack[i]? = some e → e.joinPc = c.sp.pc →
    let ctx := c.st.ctx
    let e' : Entry := { e with arrived := e.arrived ||| c.sp.mask }
    (∀ pc m, e.deferred = some (pc, m) → exec (.join x) s = c.stays s x.len (s.putCtx c
      { ctx with splits := ctx.splits.set c.slot { c.sp.advance pc with mask := m }
                 stack := ctx.stack.set i { e' with deferred := none } })) ∧
    (e.deferred = none → (mem s c).far.ask = [] → exec (.join x) s = c.stays s x.len ((mem s c).settleCtx c
      { ctx with splits := ctx.splits.set c.slot { c.sp.advance c.sp.pc with st := .joining }
                 stack := ctx.stack.set i e' } (some c.slot)))) ∧
  (∀ (s : State) (c : Ic) (x : Opnds), s.issuer = some c →
    let ctx := c.st.ctx
    let b := match x.a with | .p n => c.sp.mask &&& c.regs.pred n | _ => c.sp.mask
    let n := x.sel % 16 + 1
    let cov := coverIdx ctx.stack c.sp.mask
    let t := target c.sp.pc (x.lit.getD 0)
    let rest := c.sp.mask &&& ~~~b
    let nobody : Entry := { joinPc := 0, owner := 0, expected := 0, arrived := 0, pending := 0, deferred := none }
    let stack := (List.range ctx.stack.length).map fun i =>
      if (cov.drop (cov.length - n)).contains i then ((ctx.stack[i]?).getD nobody).drop b else (ctx.stack[i]?).getD nobody
    (b = 0 → exec (.brk x) s = c.ends s x.len s) ∧
    (b ≠ 0 → n ≤ cov.length → t.toNat < 2 ^ 57 → (mem s c).far.ask = [] →
      (rest = 0 → exec (.brk x) s = c.stays s x.len ((mem s c).settleCtx c
        { ctx with splits := ctx.splits.set c.slot (c.sp.advance (t.setWidth 57)), stack := stack } none)) ∧
      (∀ k, rest ≠ 0 → freeSplit ctx.splits = some k → exec (.brk x) s = c.stays s x.len ((mem s c).settleCtx c
        { ctx with splits := (ctx.splits.set c.slot { c.sp.advance (c.nextPc x.len) with mask := rest }).set k
                     (Split.empty.path (t.setWidth 57) b)
                   stack := stack } none))))

/-- NOP, CLOCK, SLEEP, YIELD, IDQ and PERFR go on with the value that the state gives; CSRR reads a control register that the
split may read and CSRW writes one that it may write; MODE replaces one field and leaves the old register in its scalar destination
(R166 to R170, R174, R494). -/
def Obligations.SystemResults : Prop :=
  (∀ (s : State) (c : Ic) (x : Opnds) (a : DWord), s.issuer = some c →
    let put (v : DWord) := c.ends s x.len (s.putRegs c (c.regs.setS x.d.snum v))
    exec (.nop x) s = c.ends s x.len s ∧
    (∀ d p q, exec (.nopBase d p q) s = c.ends s 1 s) ∧
    (c.freeS x.d.snum → exec (.clock x) s = put s.clock) ∧
    (c.scalars x [x.a] = some [a] → exec (.sleep x) s = c.ends s x.len (s.onStrand c.key fun st => st.onSplit c.slot fun sp =>
      { sp with wake := s.clock.toNat + min a.toNat (2 ^ 20) })) ∧
    exec (.yield x) s = .next ((s.conclude c x.len (.done s)).onQuarter (quarterOf c.key) fun q => { q with yielder := some c.key }) ∧
    (∀ n, x.d = .s n → c.freeS n → exec (.idq x) s = put (s.idq c x.sel)) ∧
    (∀ n, x.d = .v n → c.freeV n false c.sp.mask → x.pred = none →
      c.writesLanes s (.idq x) x.len n false c.sp.mask [] fun _ _ => (s.idq c x.sel, 0)) ∧
    (c.freeS x.d.snum → c.scalars x [x.a] = some [a] →
      (perfNum a = none → exec (.perfr x) s = put 0) ∧
      (∀ i cls inst, perfNum a = some (i, cls, inst) → (cls = 0 ∨ (cls = 1 ∧ inst = quarterOf c.key) ∨ c.sp.privileged = true) →
        perfFree i cls = false → exec (.perfr x) s = put (s.perf (quarterOf c.key) i cls inst)))) ∧
  (∀ (s : State) (c : Ic) (x : Opnds) (a : DWord), s.issuer = some c →
    let n := x.c.rawNum
    let ctx (f : Ctx → Ctx) := c.ends s x.len (s.onStrand c.key fun st => st.onCtx f)
    let m := c.st.ctx.mode
    let still : Prop := c.st.flagSyms = [] ∧ c.st.ops.any Op.raises = false
    (c.mayReadCsr n = true → c.freeS x.d.snum → (n = 0 → still) →
      exec (.csrr x) s = c.ends s x.len (s.putRegs c (c.regs.setS x.d.snum (s.csr c n)))) ∧
    (c.mayWriteCsr n = true → c.scalars x [x.a] = some [a] →
      exec (.csrw x) s = c.ends s x.len (s.csrWrite c n a) ∧
      (n = 0x000 → exec (.csrw x) s = ctx fun y => { y with mode := a &&& 0x00000000FF7F0FFF }) ∧
      (n = 0x002 → exec (.csrw x) s = ctx fun y => { y with tcause := a &&& 0x00000000000FFFFF }) ∧
      (n = 0x003 → exec (.csrw x) s = ctx fun y => { y with tpc := a &&& 0x01FFFFFFFFFFFFFF }) ∧
      (n = 0x005 → exec (.csrw x) s = ctx fun y => { y with tvec := a &&& 0x01FFFFFFFFFFFFFD }) ∧
      (n = 0x006 → exec (.csrw x) s = ctx fun y => { y with spillp := a &&& 0xFFFFFFFFFFFFFF80 })) ∧
    (c.scalars x [x.a] = some [a] →
      let set := s.onStrand c.key fun st => st.onCtx fun y => { y with mode := modeField m x.sel a }
      (x.d = .zero → exec (.mode x) s = c.ends s x.len set) ∧
      (∀ d, x.d = .s d → still → c.st.busy x.d false = false →
        exec (.mode x) s = c.ends s x.len (set.putRegs c (c.regs.setS d m))) ∧
      (x.sel = 0 → modeField m x.sel a = (m &&& ~~~(7 : DWord)) ||| (a &&& 7)) ∧
      (x.sel = 4 → modeField m x.sel a = ((m &&& ~~~(0xFFFF0000 : DWord)) ||| ((a <<< 16) &&& 0xFFFF0000)) &&& 0xFF7F0FFF)))

/-- TRAP takes TRAP 0x0A with the low 16 bits of its operand and its own successor as the return address; TRET of a split in
a handler returns to TPC and lets the other splits go on; HALT halts the strand (R171, R172, R372, R408). -/
def Obligations.TrapInstructionResults : Prop :=
  ∀ (s : State) (c : Ic) (x : Opnds) (a : DWord), s.issuer = some c →
    (c.scalars x [x.a] = some [a] → exec (.trap x) s = c.traps s x.len
      { cls := 0x02, sub := 0x0A, code := a.toNat % 2 ^ 16, lanes := c.sp.mask, restart := false, async := false, oprec := 0 }) ∧
    (c.sp.privileged = true →
      exec (.halt x) s = c.ends s x.len (s.onStrand c.key fun st => { st with halted := true }) ∧
      (c.st.ctx.dbgReason = 0 → c.st.loaded = none → ∃ t st,
        exec (.tret x) s = .next t ∧ t.strand? c.key = some st ∧ st.hold = none ∧
        (c.slot < c.st.ctx.splits.length →
          (st.split c.slot).st = .ready ∧ (st.split c.slot).pc = .ofNat 57 c.st.ctx.tpc.toNat)) ∧
      (c.st.ctx.dbgReason ≠ 0 → c.st.loaded = none →
        exec (.tret x) s = c.stays s x.len (s.agentTret c.key c.slot)))

/-- A post of a privileged split with a mailbox writes the doorbell, sends the message of cause 1 and goes on, and a wait whose reply is there takes
it; TLBINV drops from every core the partition's translations that map a byte of the range (R172, R173, R485). -/
def Obligations.PrivilegedResults : Prop :=
  (∀ (s : State) (c : Ic) (x : Opnds) (a : DWord), s.issuer = some c → c.sp.privileged = true → c.scalars x [x.a] = some [a] →
    (s.part c.st.part).vbase 14 ≠ 0 → c.st.busy x.d false = false →
    exec (.mboxPost x) s = c.ends s x.len ((State.interrupt (s.onPart c.st.part fun p => { p with mbox := a }) c.st.part 1).putRegs c
      (c.regs.setS x.d.snum 0)) ∧
    (∀ w, c.st.reply = some w → c.sp.posted = true → exec (.mboxWait x) s = c.ends s x.len
      ((s.onStrand c.key fun st => { st with reply := none }).putRegs c (c.regs.setS x.d.snum (w.setWidth 64))))) ∧
  (∀ (s : State) (c : Ic) (x : Opnds) (a b : DWord), s.issuer = some c → c.sp.privileged = true →
    (exec (.tlbinvAll x) s = c.ends s x.len (s.tlbInv c.st.part 0 (2 ^ 57))) ∧
    (c.scalars x [x.a, x.b] = some [a, b] →
      (b = 0 → exec (.tlbinv x) s = c.ends s x.len s) ∧
      (b ≠ 0 → exec (.tlbinv x) s = c.ends s x.len (s.tlbInv c.st.part a.toNat (a.toNat + b.toNat)))) ∧
    (∀ part lo hi core e, e ∈ ((s.tlbInv part lo hi).core core).tlb →
      e.part ≠ part ∨ hi ≤ e.va ∨ e.va + pageBytes e.size ≤ lo))

/-- A reserved encoding raises TRAP 0x01 with the CODE of the first field at fault; a privileged instruction in a split that is
not privileged, and CSRR and CSRW of a register that the split may not read or write, raise TRAP 0x02 and do nothing else (R165, R391,
R394, R395, R397). -/
def Obligations.ReservedAndPrivilegeTraps : Prop :=
  (∀ (s : State) (c : Ic) (code words : Nat), s.issuer = some c →
    exec (.reservedEncoding code words) s = c.traps s words (c.wholeTrap 0x01 code)) ∧
  (∀ (s : State) (c : Ic) (x : Opnds), s.issuer = some c →
    let trap := c.traps s x.len (c.wholeTrap 0x02 0)
    (c.sp.privileged = false →
      exec (.tret x) s = trap ∧ exec (.halt x) s = trap ∧ exec (.mboxPost x) s = trap ∧ exec (.mboxWait x) s = trap ∧
      exec (.tlbinv x) s = trap ∧ exec (.tlbinvAll x) s = trap ∧ exec (.esaveCtx x) s = trap ∧
      exec (.esaveStack x) s = trap ∧ exec (.eloadCtx x) s = trap ∧ exec (.eloadStack x) s = trap ∧
      exec (.csrw x) s = trap ∧
      (x.c.rawNum ≠ 0x000 ∧ x.c.rawNum ≠ 0x001 ∧ ¬(0x100 ≤ x.c.rawNum ∧ x.c.rawNum < 0x120) → exec (.csrr x) s = trap)) ∧
    (csrFirmware x.c.rawNum = true → exec (.csrw x) s = trap))

/-- ESAVE and ELOAD of a privileged split whose images translate: the entries of the stack move between the strand and the
128-byte images that SPILLP names, COUNT unchanged; the context at handler entry, with TMASK as it is now, is written to SAVEP, and
a context read from there waits for TRET (R34, R35, R175, R442, R443). -/
def Obligations.ContextImageResults : Prop :=
  ∀ (s : State) (c : Ic) (x : Opnds) (a : DWord), s.issuer = some c → c.sp.privileged = true → c.sp.redo = none →
    let y := c.st.ctx
    let n := a.toNat
    let ok (acc : Access) (l : List Nat) : Prop :=
      ∀ p ∈ l, ∃ t, c.trLane s .global (.s 0) acc (.ofNat 64 (p % 2 ^ 57)) = .ok t
    let out (i : Nat) : Nat := spillAddr y (spillCount y + i)
    let back (i : Nat) : Nat := spillAddr y (spillCount y - n + i)
    (c.scalars x [x.a] = some [a] →
      (1 ≤ n → n ≤ y.stack.length → ok .write ((List.range n).map out) → exec (.esaveStack x) s = c.ends s x.len
        ((((y.stack.take n).zipIdx).foldl (fun s e => s.vimage c.st.part (out e.2) 128 e.1.fields) s).onStrand c.key
          fun st => st.onCtx fun z => { z with stack := z.stack.drop n })) ∧
      (n ≤ spillCount y → y.stack.length + n ≤ 16 → ok .read ((List.range n).map back) →
        let u := s.seenAll c.st.part ((List.range n).map back) 128
        u.far.ask = [] → exec (.eloadStack x) s = c.ends s x.len (u.onStrand c.key fun st => st.onCtx fun z => { z with
          stack := ((List.range n).map fun i => readEntry (fun o k => u.vread c.st.part (back i + o) k) 0) ++ z.stack }))) ∧
    (c.st.savep ≠ 0 →
      let p := c.st.savep.toNat
      let size := ctxBytes c.st.logG
      ((c.st.ops.all fun o => o.sym.isSome || (o.cls != .ld && o.cls != .st)) = true → ok .write (imagePages p size) →
        ∀ e, c.st.atEntry = some e → exec (.esaveCtx x) s = c.ends s x.len (s.vimage c.st.part p size
          (ctxFields c.key c.st.logG (match s.wg? c.st.wg with | some w => w.kernel.addr.toNat | none => 0)
            { e.ctx with tmask := y.tmask }
            (c.st.syms.filter fun q => decide (q.op < e.opNext)) e.counts e.gangSeq e.batch e.closed))) ∧
      (let u := s.seen c.st.part p size
       c.st.syms = [] → ok .read (imagePages p size) → u.far.ask = [] → u.vread c.st.part (p + 2) 1 = c.st.logG →
        exec (.eloadCtx x) s = c.ends s x.len (u.onStrand c.key fun st =>
          { st with loaded := some (readCtx fun o k => u.vread c.st.part (p + o) k) })))

/-! ## Results: memory -/

/-- Loads, stores and atomics with nothing in their way: a load reserves its destination, a store and an atomic capture their
operands, and each is in flight from issue; the value that an atomic writes is the one its operation gives (R143, R211, R213, R220,
R221). -/
def Obligations.MemoryIssue : Prop :=
  (∀ (s : State) (c : Ic) (x : Opnds), s.issuer = some c →
    c.loads s (.ld x) x.len x .global ∧ c.loads s (.lds x) x.len x .spad ∧ c.loads s (.ldv x) x.len x .vault ∧
    (∀ d a b, c.loads s (.ldBase d a b) 1 (baseX .b32 (.v d) (.t a) (.v b) none) .global) ∧
    (∀ d a imm, c.loads s (.ldsBase d a imm) 1 (baseX .b32 (.v d) (.v a) .lit (some (imm64 imm * 4))) .spad)) ∧
  (∀ (s : State) (c : Ic) (x : Opnds), s.issuer = some c →
    c.storesTo s (.st x) x.len x .global ∧ c.storesTo s (.sts x) x.len x .spad ∧ c.storesTo s (.stv x) x.len x .vault ∧
    (∀ d a b, c.storesTo s (.stBase d a b) 1 (baseX .b32 (.v d) (.t a) (.v b) none) .global)) ∧
  (∀ (s : State) (c : Ic) (x : Opnds), s.issuer = some c →
    (c.atomics s (.aadd x) x .add ∧ c.atomics s (.aand x) x .and ∧ c.atomics s (.aor x) x .or ∧
      c.atomics s (.axor x) x .xor ∧ c.atomics s (.amin x) x .min ∧ c.atomics s (.amax x) x .max ∧
      c.atomics s (.axch x) x .xch ∧ c.atomics s (.acas x) x .cas ∧ c.atomics s (.ainc x) x .inc) ∧
    ∀ (o v e : Word),
      atmNew .add .n32 o.toNat v.toNat e.toNat = (o + v).toNat ∧
      atmNew .and .n32 o.toNat v.toNat e.toNat = (o &&& v).toNat ∧
      atmNew .or .n32 o.toNat v.toNat e.toNat = (o ||| v).toNat ∧
      atmNew .xor .n32 o.toNat v.toNat e.toNat = (o ^^^ v).toNat ∧
      atmNew .min .n32 o.toNat v.toNat e.toNat = min o.toNat v.toNat ∧
      atmNew .max .n32 o.toNat v.toNat e.toNat = max o.toNat v.toNat ∧
      atmNew .min .i32 o.toNat v.toNat e.toNat = (if v.slt o then v else o).toNat ∧
      atmNew .max .i32 o.toNat v.toNat e.toNat = (if o.slt v then v else o).toNat ∧
      atmNew .xch .n32 o.toNat v.toNat e.toNat = v.toNat ∧
      atmNew .cas .n32 o.toNat v.toNat e.toNat = (if o = e then v else o).toNat ∧
      atmNew .inc .n32 o.toNat v.toNat e.toNat = (if v.toNat ≤ o.toNat then 0 else o.toNat + 1))

/-- The other memory instructions with nothing in their way: LDT loads four 16-bit elements a lane, LDF and STF elements of
formatted pages, LDC the kernel's constants; TRX fills its translation register from the TLB; PREF only goes on (R214, R216
to R219). -/
def Obligations.SpecialLoadIssue : Prop :=
  ∀ (s : State) (c : Ic) (x : Opnds) (ka kb : Off) (a k : DWord) (ok : List (Nat × DWord × Tr)), s.issuer = some c →
    let act := lanesOf (c.act x)
    let e := c.fpEnv x
    let seed : Prop := effMode c.st.ctx.mode x.rnd = .rsd →
      c.freeS (modeSeed c.st.ctx.mode) ∧ c.regs.spend (modeSeed c.st.ctx.mode) = false
    let flight (u : State) (cls : Ctr) (b : OpBody) (scope : Nat) := c.ends s x.len (u.addOp c.key (c.newOp cls b 0 scope))
    let dest (w : Bool) := s.putRegs c (c.regs.writeV x.d.vnum w (.g (c.old x.d.vnum w).lanes))
    let direct (acc : Access) : Prop := ok.map (fun e => (e.1, e.2.1)) = laneAddrs .global c.regs x.a x.b (.u 0) kb act ∧
      (∀ e ∈ ok, c.trLane s .global x.a acc e.2.1 = .ok e.2.2 ∧ e.2.2.fmt ≠ 0) ∧
      c.checkAddrs s .global x.a 1 (laneAddrs .global c.regs x.a x.b (.u 0) kb act) = none
    (c.sp.redo = none → c.st.full .ld = false → s.eccScan c.st.part 2 (accsOf ok) = (s, [], 0, 0) →
      s.sectorsFit (coreOf c.key) (plainRanges ok 2 false) = true →
      c.offs x [(x.a, addrWide x.a), (x.b, addrWide x.b), (x.c, true)] = some [ka, kb, .u k] → Off.uniformAddr ka kb = true →
      c.freeV x.d.vnum true (c.act x) →
      (∀ n, x.a = .t n → (c.regs.treg n).valid = true) → (∀ n, x.a ≠ .t n → a.toNat < 2 ^ 57) →
      k.toNat % 8 = 0 → 8 ≤ k.toNat → k.toNat ≤ 2 ^ 31 - 8 → a.toNat % 8 = 0 →
      laneAddrs .global c.regs x.a x.b ka kb [lowLane c.sp.mask] = [(lowLane c.sp.mask, a)] →
      ok.map (fun e => (e.1, e.2.1)) = act.flatMap (fun l => (List.range 4).map fun r =>
        (l, a + .ofNat 64 (4 * (l % 8)) * k + .ofNat 64 (2 * (l / 8)) + .ofNat 64 r * k)) →
      (∀ e ∈ ok, (c.trLane s .global x.a .read e.2.1).plain 2 = .ok e.2.2) →
      exec (.ldt x) s = flight (dest true) .ld (.loadT (accsOf ok) x.d.vnum) (reachScope ok 0)) ∧
    (c.sp.redo = none → x.late = false → c.st.full .ld = false → s.eccScan c.st.part 1 ((elemsOf ok).flatMap Elem.reads) = (s, [], 0, 0) →
      s.sectorsFit (coreOf c.key) (((elemsOf ok).flatMap Elem.readRanges).map farRange) = true → seed → c.offs x [(x.b, addrWide x.b)] = some [kb] → c.freeV x.d.vnum false (c.act x) → direct .read →
      exec (.ldf x) s = flight (dest false) .ld (.loadF (elemsOf ok) x.t e.mode e.fz e.seed x.d.vnum) (reachScope ok 0)) ∧
    (c.sp.redo = none → c.st.full .st = false → c.st.lateHits .global ok (((elemsOf ok).flatMap Elem.writeRanges).map farRange) = [] →
      s.sectorsFit (coreOf c.key) (((elemsOf ok).flatMap Elem.writeRanges).map farRange) = true → seed →
      c.offs x [(x.b, addrWide x.b), (x.d, false)] = some [kb, ka] → direct .write → partBlocks (elemsOf ok) = [] →
      exec (.stf x) s = flight (s.touchAll c.st.part .write .global ok) .st
        (.storeF (elemsOf ok) e.mode e.sat e.fz e.seed ka.lanes) (reachScope ok 0)) ∧
    (c.st.full .ld = false → c.offs x [(x.a, ldcWide x)] = some [ka] →
      let at' (l : Nat) : Nat := (ldcOff x (ka.at l)).toNat
      (∀ d, x.d = .v d → c.freeV d x.t.is64 (c.act x) →
        (∀ l ∈ act, at' l + x.t.bytes ≤ 65536 ∧ at' l % x.t.bytes = 0) →
        exec (.ldc x) s = flight (dest x.t.is64) .ld (.loadC (act.map fun l => (l, at' l)) x.t (.v d x.t.is64)) 0) ∧
      (∀ d, x.d = .s d → c.freeS d → ka.isU = true → at' (lowLane c.sp.mask) + x.t.bytes ≤ 65536 →
        at' (lowLane c.sp.mask) % x.t.bytes = 0 → exec (.ldc x) s =
          flight (s.putRegs c c.regs) .ld (.loadC [(lowLane c.sp.mask, at' (lowLane c.sp.mask))] x.t (.s d)) 0)) ∧
    (c.sp.redo = none → c.scalars x [x.a] = some [a] → a.toNat < 2 ^ 57 →
      ∀ t, (s.core (coreOf c.key)).tlbFind c.st.part .read a.toNat = some t →
        exec (.trx x) s = c.ends s x.len ((s.putRegs c (c.regs.setT x.d.tnum (tregOf a.toNat t))).touch t.ent .read)) ∧
    (c.offs x [(x.a, addrWide x.a), (x.b, addrWide x.b)] = some [ka, kb] →
      let reached := (sortLanes (laneAddrs .global c.regs x.a x.b ka kb act) (fun v => [v]) fun v => c.trLane s .global x.a .read v).ok
      s.sectorsFit (coreOf c.key) (plainRanges reached 1 false) = true → exec (.pref x) s = c.ends s x.len s)

/-- A .late load with its lanes translated and a symbol free leaves a form over the symbol in its destination and goes on;
the symbol's data then give each lane that acted the value loaded, and each other lane what it held (R98, R102). -/
def Obligations.LateLoadResults : Prop :=
  ∀ (s : State) (c : Ic) (x : Opnds) (ka kb : Off) (ok : List (Nat × DWord × Tr)) (num : Nat), s.issuer = some c →
    c.offs x [(x.a, addrWide x.a), (x.b, addrWide x.b)] = some [ka, kb] → x.late = true →
    s.freeSym (quarterOf c.key) = some num → c.lateOk s = true →
    ∀ e ∈ [(Space.global, Instr.ld x), (.spad, .lds x), (.vault, .ldv x)], ∀ d, x.d = .v d →
      let w := x.t.is64
      let ls := laneAddrs e.1 c.regs x.a x.b ka kb (lanesOf (c.act x))
      let regs := c.regs.writeP d (Form.fresh num w)
      let o : Op := { c.newOp .ld (.load (accsOf ok) x.t (.v d w)) x.ord (reachScope ok x.scope) with sym := some num }
      let y (old : List DWord) : Sym := { num := num, op := o.id, space := e.1, mask := c.act x
                                          addrs := lanes256.map fun l => mapGet 0 ls l, old := old, words := c.sp.words }
      c.sp.redo = none → c.st.full .ld = false → c.checkAddrs s e.1 x.a x.t.bytes ls = none →
      c.reaches s e.1 x.a .read x.t.bytes ls ok → s.sectorsFit (coreOf c.key) (plainRanges ok x.t.bytes false) = true →
      c.st.busy (.v d) w = false →
      c.regs.blocksWrite d w (decide (c.act x = fullMask)) = false → regs.overflows c.st.logG = false →
      (∀ k, c.regs.readV d w = .known k → exec e.2 s = c.ends s x.len
        (((s.putRegs c regs).onStrand c.key fun st => { st with syms := st.syms ++ [y k.lanes] }).addOp c.key o)) ∧
      (∀ old vals l, (y old).value (.v d w) vals l = if laneIn (c.act x) l then mapGet 0 vals l else old.getD l 0)

/-- An access is illegal before it is misaligned: a global lane beyond the address space, or a scratchpad lane beyond the
allocation, traps 0x06 with CODE 2 over those lanes; else a lane off its natural alignment traps 0x05 with CODE 2 (R391,
R404). The CODE of a misaligned access is the model's reading (assumption 19). -/
def Obligations.MemoryAddressTraps : Prop :=
  ∀ (s : State) (c : Ic) (x : Opnds) (ka kb : Off), s.issuer = some c → c.sp.redo = none → (∀ k, x.a ≠ .t k) →
    c.offs x [(x.a, addrWide x.a), (x.b, addrWide x.b)] = some [ka, kb] → (∃ d, x.d = .v d) →
    ∀ e ∈ [(Space.global, Instr.ld x), (.spad, .lds x)],
      let ls := laneAddrs e.1 c.regs x.a x.b ka kb (lanesOf (c.act x))
      let bad := laneMask ((ls.filter fun a => match e.1 with
        | .spad => decide (s.spadBytes c.st.wg < a.2.toNat + x.t.bytes) | _ => decide (2 ^ 57 ≤ a.2.toNat)).map (·.1))
      let mis := laneMask ((ls.filter fun a => a.2.toNat % x.t.bytes != 0).map (·.1))
      let trap (sub : Nat) (m : Mask) := c.traps s x.len
        { cls := 0x02, sub := sub, code := 2, lanes := m, restart := true, async := false, oprec := 0 }
      (bad ≠ 0 → exec e.2 s = trap 0x06 bad) ∧ (bad = 0 → mis ≠ 0 → exec e.2 s = trap 0x05 mis)

/-- Data arriving for an operation that may perform: a plain load's destination lanes get the bytes that its translated
addresses hold, extended for the type, the other lanes keep theirs, and the operation completes; a symbol's data resolve every register
that holds it, lane by lane; a word kept by a core under dump waits. Nothing of it is another device's memory (R91, R102, R134, R211, R213, R488). -/
def Obligations.LoadDataResults : Prop :=
  (∀ (s : State) (key id : Nat) (st : Strand) (o : Op), s.ready? key id = some (st, o) → o.sym = none → o.body.brings = true →
    ((s.quarter (quarterOf key)).dumping = false → ∀ vals fl u, s.loadVals st.wg o.body = (vals, fl, u) →
      let t := ((u.useSlots key (st.ctx.regs.dstSlots o.body.dst)).onStrand key fun q =>
        q.landRegs id (Ctx.landed fl fun r => r.land o.body.dst vals)).finishOp key id
      t.far.asked = [] → exec (.loadDataArrival key id) s = .next t) ∧
    ((s.quarter (quarterOf key)).dumping = true → exec (.loadDataArrival key id) s = .next (s.holdWrite key id false)) ∧
    (∀ accs t d, o.body = .load accs t d → (∀ a ∈ accs, a.place ≠ .bell ∧ (s.redirect a.place a.pa).1 ≠ .peer) →
      s.loadVals st.wg o.body = (accs.map fun a => (a.lane, extendTy t
        (s.load (s.redirect a.place a.pa).1 (s.redirect a.place a.pa).2 t.bytes)), 0, s)) ∧
    (∀ (r : Regs) n w vals, ∃ v : Off, r.land (.v n w) vals = r.writeV n w v ∧
      ∀ l < 256, v.at l = (mapFind vals l).getD ((match r.readV n w with | .known k => k | .pend _ => .u 0 : Off).at l)) ∧
    (∀ b : Word, extendTy .i8 (b.toNat % 256) = (b.setWidth 8).signExtend 64 ∧ extendTy .n8 (b.toNat % 256) = (b.setWidth 8).setWidth 64 ∧
      extendTy .i16 (b.toNat % 65536) = (b.setWidth 16).signExtend 64 ∧ extendTy .n32 b.toNat = b.setWidth 64)) ∧
  (∀ (s : State) (key num : Nat) (st : Strand) (o : Op),
    ((s.strand? key).bind fun q => q.ops.find? fun p => p.sym == some num) = some o → s.ready? key o.id = some (st, o) →
    o.dataIn st.syms = true →
    ((s.quarter (quarterOf key)).dumping = true → exec (.symbolResolution key num) s = .next (s.holdWrite key o.id true)) ∧
    ((s.quarter (quarterOf key)).dumping = false →
      s.eccScan st.part o.body.replyAccs.1 o.body.replyAccs.2 = (s, [], 0, 0) → (s.resolveSym key o.id num).far.asked = [] →
      exec (.symbolResolution key num) s = .next (s.resolveSym key o.id num)) ∧
    (∀ y vals fl u, st.op? o.id = some o → (st.syms.find? fun z => z.num == num) = some y → s.strand? key = some st →
      s.loadVals st.wg o.body = (vals, fl, u) →
      s.resolveSym key o.id num = ((u.wakeDest key y.num).onStrand key fun q =>
        q.settleSym o.id y o.body.dst (o.held ++ vals) (o.flags ||| fl)).finishOp key o.id ∧
      (y.lead = none → ∀ q : Strand, q.settleSym o.id y o.body.dst vals fl =
        { q.landRegs o.id fun x => { x with regs := (x.regs.resolve num (y.value o.body.dst vals)).1
                                            mode := orMode x.mode (fl ||| (x.regs.resolve num (y.value o.body.dst vals)).2) }
            with syms := q.syms.filter fun z => z.num != num })))

/-- A store that may perform writes each lane's bytes, of several lanes at one address the highest lane's, and every other
byte of memory stays as it was; an atomic performs lane after lane, each reading its location and writing the new value at once; a
sync-word update performs as stores do (R108, R134, R220, R228). -/
def Obligations.StorePerformedResults : Prop :=
  (∀ (s : State) (key id : Nat) (st : Strand) (o : Op), s.ready? key id = some (st, o) → o.body.writes = true →
    (((s.doStore key o.body).finishOp key id).far.asked = [] →
      exec (.storePerformed key id) s = .next ((s.doStore key o.body).finishOp key id)) ∧
    ∀ accs t data, o.body = .store accs t data → s.memWf = true → (∀ a ∈ accs, a.place ≠ .bell) →
      let at_ (a : Acc) := s.redirect a.place a.pa
      let u := s.doStore key o.body
      (∀ q k, (∀ a ∈ accs, (at_ a).1 = q → k < (at_ a).2 ∨ (at_ a).2 + t.bytes ≤ k) →
        readByte (u.cells q) k = readByte (s.cells q) k) ∧
      (∀ a ∈ accs, (at_ a).1 ≠ .peer → (at_ a).1 ≠ .bell →
        (∀ b ∈ accs, b ≠ a → (at_ b).1 = (at_ a).1 → (at_ b).2 + t.bytes ≤ (at_ a).2 ∨ (at_ a).2 + t.bytes ≤ (at_ b).2) →
        ∀ i < t.bytes, readByte (u.cells (at_ a).1) ((at_ a).2 + i) =
          .ofNat 8 ((data.getD a.lane 0).toNat / 256 ^ i)) ∧
      (∀ pre a post b, accs = pre ++ a :: post → b ∈ post → b.place = a.place → b.pa = a.pa →
        u = s.doStore key (.store (pre ++ post) t data))) ∧
  (∀ (s : State) (a : Acc) (rest : List Acc) (op : AtmOp) (t : Ty) (v e : List DWord),
    let old := (s.rdAcc a.place a.pa t.bytes).1
    let u := (s.rdAcc a.place a.pa t.bytes).2.wrAcc a.place a.pa t.bytes
      (atmNew op t old (v.getD a.lane 0).toNat (e.getD a.lane 0).toNat)
    ((s.redirect a.place a.pa).1 ≠ .peer → s.doAtomics (a :: rest) op t v e =
      ((a.lane, extendTy t old) :: (u.doAtomics rest op t v e).1, (u.doAtomics rest op t v e).2)) ∧
    ∀ key id st o, s.ready? key id = some (st, o) →
      (∀ d, o.body = .atomic (a :: rest) op t v e true d → s.doStore key o.body = (s.doAtomics (a :: rest) op t v e).2) ∧
      (∀ p pa upd, o.body = .sync p pa upd → s.doStore key o.body = s.syncAt p pa upd))

/-! ## Results: SYN, RMT, CPY and WRK -/

/-- FENCE and WAIT go on once no asynchronous fault of a class waited on is due and the classes hold at most the counts named,
else they wait; BATCH closes the MX operations issued since the last one under the next number, WAITB goes on once no operation of a
batch that it selects is left (R230 to R232, R377). -/
def Obligations.FenceAndWaitResults : Prop :=
  (∀ (s : State) (c : Ic) (x : Opnds) (n m : Nat), s.issuer = some c →
    let noDue (ks : List Ctr) : Prop := ∀ d ∈ c.st.due, ks.contains d.2.2.2 = false
    let counts := waitCount .ld x.d ++ waitCount .st x.a ++ waitCount .cp x.b ++ waitCount .mx x.c ++
      (if x.sel + 32 * x.cls = 127 then [] else [(Ctr.ct, x.sel + 32 * x.cls)])
    let goes (ks : List (Ctr × Nat)) : Prop := ∀ e ∈ ks, c.st.count e.1 ≤ e.2
    (c.st.count .ld = 0 → c.st.count .st = 0 → exec (.fence x) s = c.ends s x.len s) ∧
    (noDue (counts.map (·.1)) → goes counts → exec (.wait x) s = c.ends s x.len s) ∧
    (noDue [.ld, .st] → goes [(.ld, n), (.st, m)] → exec (.waitBase n m) s = c.ends s 1 s) ∧
    (noDue (counts.map (·.1)) → ¬goes counts → (∀ o ∈ c.st.ops, o.susp = none) →
      exec (.wait x) s = .next (s.conclude c x.len (.wait s .counterWait))) ∧
    (c.st.count .ld + c.st.count .st ≠ 0 → (∀ o ∈ c.st.ops, o.susp = none) →
      exec (.fence x) s = .next (s.conclude c x.len (.wait s .counterWait)))) ∧
  (∀ (s : State) (c : Ic) (x : Opnds) (a : DWord), s.issuer = some c →
    let closed := c.st.openBatches
    (c.st.busy x.d true = false → closed.length < 16 → exec (.batch x) s = c.ends s x.len
      ((s.onStrand c.key fun st => { st with
        batch := c.st.batch + 1, closed := closed ++ [c.st.batch]
        ops := st.ops.map fun o => if o.cls == .mx && o.batch.isNone then { o with batch := some c.st.batch } else o }).putRegs c
          (c.regs.setS x.d.snum (c.st.batch.setWidth 64)))) ∧
    (c.st.busy x.d true = false → 16 ≤ closed.length →
      exec (.batch x) s = .next (s.conclude c x.len (.wait s .batchWait))) ∧
    (c.scalars x [x.a] = some [a] → (∀ d ∈ c.st.due, d.2.2.2 ≠ .mx) →
      (∀ o ∈ c.st.ops, ∀ b, o.batch = some b → b ∈ closed → (a.setWidth 16 - b).toNat < 2 ^ 15 → False) →
      exec (.waitb x) s = c.ends s x.len s))

/-- BAR and CBAR with a barrier of the range, once the strand's loads and stores have retired, answer a next state: the split in state
Barrier past the instruction; a workgroup barrier at which every strand of the workgroup has arrived releases all that wait there, and
a cluster barrier releases its round once the strands named have arrived (R39, R233). -/
def Obligations.BarrierResults : Prop :=
  ∀ (s : State) (c : Ic) (x : Opnds) (a b : DWord), s.issuer = some c →
    let k := a.toNat
    let ck := cbarKey c.st.part (coreOf c.key) k
    let cb := mapGet CBar.reset s.cbars ck
    (c.scalars x [x.a] = some [a] → k ≤ 15 → c.drained = true →
      exec (.bar x) s = .next (s.conclude c x.len (.stay ((s.toBarrier c x.len (.workgroup k)).tryBar c.st.wg k)))) ∧
    (c.scalars x [x.a, x.b] = some [a, b] → k ≤ 15 → 1 ≤ b.toNat → b.toNat ≤ 1024 → (cb.need = 0 ∨ cb.need = b.toNat) →
      c.drained = true → exec (.cbar x) s = .next (s.conclude c x.len (.stay
        ((({ s with cbars := mapPut CBar.reset s.cbars ck { cb with need := b.toNat } }).toBarrier c x.len
          (.cluster k cb.round)).cbarArrive c.key k)))) ∧
    (∀ (t : State) wg w, t.wg? wg = some w → (∀ n ∈ w.strands, ∃ st, t.strand? n = some st ∧ st.atBar (.workgroup k) = true) →
      (∃ n ∈ w.strands, ∃ st, t.strand? n = some st ∧
        ∃ p ∈ st.ctx.splits, p.st = .barrier ∧ p.bar = some (.workgroup k)) →
      t.tryBar wg k = t.onStrands w.strands (·.releaseBar (.workgroup k))) ∧
    (∀ (t : State) wg w n st, t.wg? wg = some w → n ∈ w.strands → t.strand? n = some st → st.atBar (.workgroup k) = false →
      t.tryBar wg k = t) ∧
    (∀ (st : Strand) (w : BarWait) (i : Nat), (st.split i).st = .barrier → (st.split i).bar = some w →
      ((st.releaseBar w).split i).st = (if (st.split i).priv then .trapped else .ready) ∧
      ((st.releaseBar w).split i).pc = (st.split i).pc)

/-- Sync-word updates issue as release stores with their operands captured; SYTST, SYWAIT and WAITC read the word at issue,
SYWAIT and WAITC waiting until it passes; what an arm, an arrival and a signal make of a word, and when a word passes (R228, R229,
R234, R235). -/
def Obligations.SyncWordResults : Prop :=
  (∀ (s : State) (c : Ic) (x : Opnds), s.issuer = some c →
    c.updates s (.syarm x) x [x.d, x.c] (fun d e => .arm (d.setWidth 32) (e.setWidth 8)) ∧
    c.updates s (.syarv x) x [x.d, x.c] (fun d f => .arrive (d.setWidth 32) (f.setWidth 16)) ∧
    c.updates s (.syflg x) x [x.d] (fun d _ => .arrive 0 (d.setWidth 16)) ∧
    c.updates s (.signal x) x [x.d] (fun d _ => .add d) ∧
    c.syncReads s (.sytst x) x [] (fun _ _ => true) ∧
    c.syncReads s (.sywait x) x [x.c] (fun w e => syncPasses w (e.toNat % 256)) ∧
    c.syncReads s (.waitc x) x [x.c] (fun w t => decide (0 ≤ (w - t).toInt))) ∧
  ((∀ (w : DWord) (p : Word) (e : Byte), (SyncUpd.arm p e).apply w =
    (1 : BitVec 1) ++ (0 : BitVec 7) ++ e ++ (0 : BitVec 16) ++ p) ∧
  (∀ (top : BitVec 1) (under : BitVec 1) (mid : BitVec 14) (fl g : Half) (p n : Word),
    (SyncUpd.arrive n g).apply (top ++ under ++ mid ++ fl ++ p) =
      if p < n then top ++ (1 : BitVec 1) ++ mid ++ (fl ||| (g &&& 0xFF7F)) ++ (0 : Word)
      else top ++ under ++ mid ++ (fl ||| (g &&& 0xFF7F)) ++ (p - n)) ∧
  (∀ w d : DWord, (SyncUpd.add d).apply w = w + d) ∧
  (∀ (armed under : BitVec 1) (mid : BitVec 6) (e : Byte) (fl : Half) (p : Word) (k : Byte),
    syncPasses (armed ++ under ++ mid ++ e ++ fl ++ p) k.toNat = (armed == 1 && e == k && p == 0)))

/-- The remote instructions, with nothing in their way: one operation for each distinct peer, with the lanes that name it, sent
as soon as the order of the strand's accesses allows (R237 to R239). -/
def Obligations.RemoteIssue : Prop :=
  ∀ (s : State) (c : Ic) (x : Opnds) (ka kb kc kd ke : Off), s.issuer = some c →
    let ls := lanesOf (c.act x)
    let w := x.t.is64
    let one := [lowLane c.sp.mask]
    let dest := c.regs.writeV x.d.vnum w (.g (c.old x.d.vnum w).lanes)
    let ops := [(x.a, false), (x.b, true), (x.c, addrWide x.c)]
    let m (kind : RmtKind) (cls : Ctr) (dst : Dst) (data data2 : List DWord) : RmtAct :=
      { kind := kind, ty := x.t, cls := cls, dst := dst, late := false, whole := false, ord := x.ord, scope := x.scope
        peers := rmtPeers ka ls, lanes := rmtLanes kb kc x.c ls, data := data, data2 := data2 }
    let signal (kind : RmtKind) : RmtAct :=
      { kind := kind, ty := .b64, cls := .st, dst := .none, late := false, whole := true, ord := 2, scope := x.scope
        peers := rmtPeers ka one, lanes := rmtLanes kb kc x.c one, data := kd.lanes, data2 := [] }
    let free := c.freeV x.d.vnum w (laneMask ((rmtPeers ka ls).map (·.1)))
    (∀ d, x.d = .v d → x.late = false → c.offs x ops = some [ka, kb, kc] → free →
      c.remotes s (.rld x) x.len x.t.bytes (m .load .ld (.v d w) [] []) dest) ∧
    (c.offs x (ops ++ [(x.d, w)]) = some [ka, kb, kc, kd] →
      c.remotes s (.rst x) x.len x.t.bytes (m .store .st .none kd.lanes []) c.regs) ∧
    (x.sel ≠ 7 → c.offs x (ops ++ [(x.d, w)]) = some [ka, kb, kc, kd] → free →
      c.remotes s (.ratm x) x.len x.t.bytes (m (.atomic (AtmOp.ofCode x.sel)) .ld (.v x.d.vnum w) kd.lanes []) dest) ∧
    (x.sel = 7 → c.offs x (ops ++ [(x.d, w), (.v (x.d.vnum + 1), false)]) = some [ka, kb, kc, kd, ke] → free →
      c.remotes s (.ratm x) x.len x.t.bytes (m (.atomic .cas) .ld (.v x.d.vnum w) ke.lanes kd.lanes) dest) ∧
    (c.offs x [(x.a, false), (x.b, true), (x.c, true), (x.d, true)] = some [ka, kb, kc, kd] →
      c.remotes s (.rsigCtr x) x.len 8 (signal .ctr) c.regs ∧ c.remotes s (.rsigSync x) x.len 8 (signal .sync) c.regs)

/-- CPY, CPY2D and CPYM over legal ranges, with all 256 lanes in the split and room in the CP class, queue one copy with the
operands as captured; SWAPF of a near and a far page of one size and format marks both leaves, clears the direct paths over them and
begins the die's exchange (R113, R241 to R243, R245, R406, R415). -/
def Obligations.CopyIssue : Prop :=
  (∀ (s : State) (c : Ic) (x : Opnds) (d a n st v : DWord), s.issuer = some c → c.sp.mask = fullMask → c.st.full .cp = false →
    let ds := spaceOf (x.sel % 4)
    let ss := spaceOf (x.sel / 4)
    let sync := copySync x v
    let queued (k : CopyOp) := c.ends s x.len (s.addRecOp c.key (c.newOp .cp (.copy k) 0 0))
    syncMis sync = false →
    (c.scalars x [x.d, x.a, x.b, x.c] = some [d, a, n, v] →
      let bytes := n.toNat % 2 ^ 32
      c.copyRange s ss a bytes 1 0 = true →
      (c.copyRange s ds d bytes 1 0 = true → exec (.cpy x) s = queued
        { dstSpace := ds, dst := d, srcSpace := ss, src := a, rowBytes := bytes, rows := 1, dstStride := 0, srcStride := 0
          recv := [], multi := false, sync := sync, written := 0 }) ∧
      (let off := d.toNat % 2 ^ 22
       let cl := clusterOf (coreOf c.key)
       let cores := ((List.range 8).filter fun i => (d.toNat / 2 ^ 56).testBit i).map fun i => cl * 8 + i
       ∀ (g : Wg) (one : Nat → Nat × Wg), s.wg? c.st.wg = some g → d.toNat / 2 ^ 56 ≠ 0 → ds ≠ .global →
         (∀ k ∈ cores, s.residentOn g.source k = [one k]) →
         (bytes = 0 ∨ ∀ k ∈ cores, off + bytes ≤ if ds = .vault then Config.vaultBytes else (one k).2.kernel.spad) →
         exec (.cpym x) s = queued
           { dstSpace := ds, dst := .ofNat 64 off, srcSpace := ss, src := a, rowBytes := bytes, rows := 1, dstStride := 0
             srcStride := 0, multi := true, sync := sync, written := 0
             recv := cores.map fun k => (k, if ds = .vault then k * Config.vaultBytes else (one k).2.spadPa 0, false)
             wgs := cores.map fun k => (one k).1 })) ∧
    (c.scalars x [x.d, x.a, x.b, .s (x.b.snum + 1), x.c] = some [d, a, n, st, v] →
      let rb := n.toNat % 2 ^ 32
      let rows := n.toNat / 2 ^ 32
      let sd := int32 (st.toNat % 2 ^ 32)
      let ss' := int32 (st.toNat / 2 ^ 32)
      1 ≤ rb → rb ≤ 2 ^ 31 → 1 ≤ rows → c.copyRange s ds d rb rows sd = true → c.copyRange s ss a rb rows ss' = true →
      exec (.cpy2d x) s = queued
        { dstSpace := ds, dst := d, srcSpace := ss, src := a, rowBytes := rb, rows := rows, dstStride := sd, srcStride := ss'
          recv := [], multi := false, sync := sync, written := 0 })) ∧
  (∀ (s : State) (c : Ic) (x : Opnds) (a b v : DWord) (near far : LeafAt), s.issuer = some c → c.sp.privileged = true →
    c.sp.mask = fullMask → c.scalars x [x.a, x.b, x.c] = some [a, b, v] → a.toNat < 2 ^ 57 → b.toNat < 2 ^ 57 →
    s.walk c.st.part .read a.toNat = .ok near → s.walk c.st.part .read b.toNat = .ok far → near.size = far.size →
    leafFmt near.leaf = leafFmt far.leaf → leafFar near.leaf = false → leafFar far.leaf = true →
    syncMis (copySync x v) = false → c.st.full .cp = false → leafSwp near.leaf = false → leafSwp far.leaf = false →
    let die := dieOf (coreOf c.key)
    (s.dieSt die).swap = none →
    let n := pageBytes near.size
    let lo := a.toNat / n * n
    let hi := b.toNat / n * n
    let mark (t : State) (l : LeafAt) : State := t.store .flostra l.ent 8 (t.load .flostra l.ent 8 ||| 0x1000)
    let o := c.newOp .cp (.swap (.ofNat 64 lo) (.ofNat 64 hi) (copySync x v)) 0 0
    let sw : Swap :=
      { part := c.st.part, near := leafFrame near.leaf, far := leafFrame far.leaf, nearVa := lo, farVa := hi
        sync := copySync x v, wg := c.st.wg, strand := c.key, op := o.id
        sectors := frameBytes near.size (leafFmt near.leaf) / 4096, at_ := 0
        nearEnt := near.ent, farEnt := far.ent, nearLeaf := near.leaf, farLeaf := far.leaf
        recNo := (s.core (coreOf c.key)).opNext }
    exec (.swapf x) s = c.ends s x.len
      ((((((mark (mark s near) far).clearDirect c.st.part lo (lo + n)).clearDirect c.st.part hi (hi + n)).addRecOp c.key o).onDie die)
        fun d => { d with swap := some sw }))

/-- APPEND with room writes its lanes' items at the tail; TAKE with items takes them at the head, and with none answers QUIET or
YIELD or waits in state Barrier; WLQ reads the count and QUIET the pipeline's state; LAUNCH to an enabled queue with room copies the
packet and notifies the queue. What the device reads of memory to do so sets A in its leaf entries, and none of it is awaited from
another device (R50, R52, R111, R246 to R250, R278). -/
def Obligations.WorkListResults : Prop :=
  (∀ (s : State) (c : Ic) (x : Opnds) (a : DWord) (k : Nat) (p : Pipe) (stage : Nat) (ws : List Off), s.issuer = some c →
    s.pipeOf c.st.wg = some (k, p, stage) →
    let part := c.st.part
    let l := a.toNat
    let u := s.seen part l 32
    let n := u.itemWords part l
    let b := x.b.vnum
    let lanes := lanesOf (c.act x)
    let tail := u.listTail part l
    let have_ := u.listCount part l
    let yields : Bool := match u.wg? c.st.wg with | some w => w.yield | none => false
    (c.freeS x.d.snum → exec (.quiet x) s = c.ends s x.len (s.putRegs c (c.regs.setS x.d.snum
      (.ofNat 64 ((if p.quiet then 1 else 0) + (if (match s.wg? c.st.wg with | some w => w.yield | none => false) then 2 else 0)))))) ∧
    (c.scalars x [x.a] = some [a] → p.lists.contains a = true → u.far.ask = [] →
      (c.freeS x.d.snum → u.reachesAll c .read [l] → c.st.mayPerform (c.newOp .ld (.load [] .b32 .none) 0 0) = true →
        exec (.wlq x) s = c.ends s x.len (u.putRegs c (c.regs.setS x.d.snum (.ofNat 64 have_)))) ∧
      (b + n ≤ 1536 → c.offs x (itemOps b n) = some ws → c.st.full .st = false → c.st.busy x.d true = false → lanes ≠ [] →
        have_ + lanes.length ≤ u.listCap part l → u.sectorsFit (coreOf c.key) (u.listRanges part l tail lanes.length true) = true →
        c.st.mayPerform (c.newOp .st (.store [] .b32 []) 2 0) = true →
        u.reachesAll c .write (l :: u.itemPages part l tail lanes.length) →
        let t := lanes.zipIdx.foldl (fun t e => ws.zipIdx.foldl (fun t w =>
          t.vwrite part (t.itemAddr part l (tail + e.2) + 4 * w.2) 4 ((w.1.at e.1).setWidth 32).toNat) t) u
        let put := ((t.putRegs c (c.regs.setS x.d.snum (.ofNat 64 tail))).addOp c.key (c.newOp .st (.store [] .b32 []) 2 0)).vwrite
          part (l + 24) 8 ((tail + lanes.length) % 2 ^ 64)
        exec (.append x) s = c.ends s x.len (((put.noteAppend k stage a).wakeTakes part fun m _ => m == l).refresh part)) ∧
      (b + n ≤ 1536 → c.st.busy x.d true = false → (∀ o ∈ itemOps b n, c.st.busy o.1 false = false) →
        c.st.mayPerform (c.newOp .ld (.load [] .b32 .none) 0 0) = true →
        (1 ≤ have_ → (∀ i < n, c.regs.blocksWrite (b + i) false (decide (min have_ lanes.length = 256)) = false) →
          let m := min have_ lanes.length
          let head := u.listHead part l
          let v := (List.range m).foldl (fun t j => t.seen part (t.itemAddr part l (head + j)) (4 * t.itemWords part l)) u
          let items := (List.range m).map fun j => (List.range n).map fun i =>
            (BitVec.ofNat 32 (v.vread part (v.itemAddr part l (head + j) + 4 * i) 4))
          let r := takeRegs c.regs b x.c.pnum lanes items n
          u.sectorsFit (coreOf c.key) (u.listRanges part l head m false) = true → v.far.ask = [] →
          u.reachesAll c .write [l] → u.reachesAll c .read (u.itemPages part l head m) → r.overflows c.st.logG = false →
          exec (.take x) s = c.ends s x.len ((((v.vwrite part (l + 16) 8 ((head + m) % 2 ^ 64)).putRegs c
            (r.setS x.d.snum (.ofNat 64 m))).refresh part).acquired c 0)) ∧
        (have_ = 0 → p.quiet || yields → exec (.take x) s = c.ends s x.len
          (u.putRegs c ((takeRegs c.regs b x.c.pnum lanes [] n).setS x.d.snum
            (if p.quiet then 0x4000000000000000 else 0x8000000000000000)))) ∧
        (have_ = 0 → p.quiet = false → yields = false → exec (.take x) s = c.stays s x.len
          (u.onStrand c.key fun st => st.onSplit c.slot fun sp =>
            { sp with st := .barrier, bar := some (.take l), stall := .barrier, priv := sp.st == .trapped }))))) ∧
  (∀ (s : State) (c : Ic) (x : Opnds) (a b : DWord), s.issuer = some c → c.scalars x [x.a, x.b] = some [a, b] →
    let q := a.toNat % 4096
    let part := c.st.part
    let u := s.seen part (s.qAddr part q) 64
    let v := u.seen part b.toNat 64
    let widx := u.qf part q 28 4
    (s.part part).ownsQueue q = true → u.far.ask = [] → v.far.ask = [] → u.qf part q 9 1 % 2 = 1 → b.toNat < 2 ^ 57 →
    b.toNat % 64 = 0 → c.st.busy x.d true = false →
    (BitVec.ofNat 32 widx - BitVec.ofNat 32 (u.qf part q 24 4)).toNat < 2 ^ u.qf part q 8 1 →
    c.st.mayPerform (c.newOp .st (.store [] .b32 []) 2 0) = true → u.reachesAll c .read [b.toNat] →
    u.reachesAll c .write [u.pktAddr part q widx] →
    exec (.launch x) s = c.ends s x.len
      (((v.vwriteBytes part (v.pktAddr part q widx) (v.vreadBytes part b.toNat 64)).notify part q (.ofNat 32 (widx + 1))).putRegs c
        (c.regs.setS x.d.snum (.ofNat 64 widx))))

/-! ## Results: RED and MTX -/

/-- CTB and CTBN to an Open generation, with valid elements and labels, contribute one node for each lane of act, counted in CT
until its nodes are accepted; with no lane in act they end with nothing contributed (R222, R223). -/
def Obligations.ContributionResults : Prop :=
  ∀ (s : State) (c : Ic) (x : Opnds) (ka kb kc kd : Off) (d : Dom), s.issuer = some c → c.st.full .ct = false →
    c.st.mayPerform (c.newOp .ld (.load [] .b32 .none) 0 0) = true →
    let h : Word := (ka.at 0).setWidth 32
    let act := lanesOf (c.act x)
    let elem (l : Nat) := (kb.at l).toNat % 2 ^ 32
    let lab (l : Nat) := laneLabel x (kc.at l)
    let ops := [(x.a, true), (x.b, false), (x.c, decide (x.xs ≠ 0))]
    s.openDom? c.st.part h = some d →
    (∀ l ∈ act, elem l < d.elems ∧ (lab l).2.2 = true ∧ d.labelOk (lab l).1 (lab l).2.1 = true) →
    let o := c.newOp .ct (.contribute act.length) 0 0
    let node (l : Nat) (v : Option DWord) (f : Half) : Node :=
      { part := c.st.part, handle := h, elem := elem l, level := (lab l).1, index := (lab l).2.1, val := v, flags := f
        src := some (c.key, o.id), since := s.clock.toNat }
    let counted (u : State) : State := if act = [] then u.onStrand c.key fun st => st.complete o.id else u
    (c.offs x (ops ++ [(x.d, x.t.is64)]) = some [ka, kb, kc, kd] → convertible x.t d.nf = true →
      exec (.ctb x) s = c.ends s x.len ((counted (s.addRecOp c.key o)).contribute (coreOf c.key) d (act.map fun l =>
        node l (some (toNode x.t d.nf (kd.at l)).1) (toNode x.t d.nf (kd.at l)).2))) ∧
    (c.offs x ops = some [ka, kb, kc] →
      exec (.ctbn x) s = c.ends s x.len ((counted (s.addRecOp c.key o)).contribute (coreOf c.key) d
        (act.map fun l => node l none 0)))

/-- DOMARM of a slot that is not Open and of which nothing is in flight, its descriptor in range, opens the next generation modulo
4096 and writes its handle; DOMCLOSE does nothing for another generation, makes a Complete one Idle and closes an Open one with a
DOMAIN record of subclass 0x01; DOMQ reads the slot's state, DOMQ.wait once the generation is not Open; DOMARM and DOMQ.wait acquire. The
descriptor that the device reads sets A in its leaf entry, and nothing is awaited from another device (R81, R111, R132, R224 to R226,
R364). -/
def Obligations.DomainResults : Prop :=
  ∀ (s : State) (c : Ic) (x : Opnds) (a : DWord), s.issuer = some c → c.scalars x [x.a] = some [a] →
    c.st.mayPerform (c.newOp .ld (.load [] .b32 .none) 0 0) = true →
    let part := c.st.part
    let h : Word := a.setWidth 32
    let read (n : Nat) : State := s.seen part (s.domAddr part n) 64
    let u := read (handleSlot h)
    let now := u.domGenState part (handleSlot h)
    let reaches (n : Nat) (acc : Access) : Prop :=
      (∃ t, c.trLane s .global (.s 0) acc (.ofNat 64 (s.domAddr part n)) = .ok t) ∧ (read n).far.ask = []
    (let slot := a.toNat % 2 ^ 20
     let v := read slot
     c.st.busy x.d true = false → reaches slot .write → v.canArm part slot = true →
      ∀ t g, v.arm part slot = some (t, g) →
        exec (.domarm x) s = c.ends s x.len ((t.putRegs c (c.regs.setS x.d.snum (g.setWidth 64))).acquired c 0) ∧
        g = mkHandle slot (((v.domGenState part slot).1 + 1) % 4096)) ∧
    (c.st.count .ct = 0 → reaches (handleSlot h) .write → now.1 ≠ handleGen h → exec (.domclose x) s = c.ends s x.len u) ∧
    (c.st.count .ct = 0 → reaches (handleSlot h) .write → now.1 = handleGen h → ∀ d, u.dom? part h = some d →
      (d.complete = true → exec (.domclose x) s = c.ends s x.len { u.setDomGenState part (handleSlot h) now.1 0 with
        doms := u.doms.filter fun y => !(y.part == d.part && y.slot == d.slot && y.gen == d.gen) }) ∧
      (d.complete = false → u.closeFault d = none →
        ∃ r, r.cls = 0x04 ∧ r.sub = 0x01 ∧ exec (.domclose x) s = c.ends s x.len (u.closeDom d r))) ∧
    (c.st.count .ct = 0 → reaches (handleSlot h) .write → now.1 = handleGen h → u.dom? part h = none →
      exec (.domclose x) s = c.ends s x.len (if now.2 = 2 then u.setDomGenState part (handleSlot h) now.1 0 else u)) ∧
    (reaches (handleSlot h) .read → c.freeS x.d.snum →
      exec (.domq x) s = c.ends s x.len (u.putRegs c (c.regs.setS x.d.snum (u.domWord part h)))) ∧
    (reaches (handleSlot h) .read → c.freeS x.d.snum → ¬(now.1 = handleGen h ∧ now.2 = 1) →
      exec (.domqWait x) s = c.ends s x.len ((u.putRegs c (c.regs.setS x.d.snum (u.domWord part h))).acquired c 0))

/-- The tile instructions of a full split: MXALLOC binds a fresh tile that fits the core's granules; MXFREE, MXZERO, MXFIN,
MXLD, MXST, CTBM and MXMMA with legal operands queue their operation on the engine and capture them (R253, R260 to R266,
R270). -/
def Obligations.MatrixIssue : Prop :=
  ∀ (s : State) (c : Ic) (x : Opnds) (v0 v1 v2 v3 v4 v5 : DWord) (t : Tile), s.issuer = some c → c.sp.mask = fullMask →
    let h := x.d.rawNum
    let core := coreOf c.key
    let room (k : Ctr) : Prop := c.st.full k = false ∧ (s.core core).engine.length < Config.engineQueue
    let queuedIn (u : State) (k : Ctr) (b : MxKind) (sync : Option SyncRef) (upd : Tile → Tile) :=
      let o := c.newOp k (.mx b h sync) 0 0
      c.ends s x.len ((((u.addRecOp c.key o).onCore core fun y => { y with engine := y.engine ++ [(c.key, o.id)] })).onStrand
        c.key fun st => st.onTile h upd)
    let queued := queuedIn s
    let named : Prop := h < s.kernelTiles c.st.wg ∧ c.st.tile? h = some t ∧ t.freeing = false
    let pairs : List Opnd := [x.a, .s (x.a.snum + 1), x.b, .s (x.b.snum + 1)]
    let ct := readControl v2 v3
    let size : Prop := ct.zeros = true ∧ 1 ≤ ct.m ∧ ct.m ≤ t.rows ∧ ct.m ≤ 256 ∧ 1 ≤ ct.n ∧ ct.n ≤ t.cols ∧ ct.n ≤ 256 ∧ ct.k = 0
    let calm : Prop := ∀ o ∈ c.st.ops, o.susp = none
    (c.scalars x [x.a, x.b, x.c] = some [v0, v1, v2] → h < s.kernelTiles c.st.wg → c.st.tile? h = none →
      1 ≤ v0.toNat → v0.toNat ≤ 256 → 1 ≤ v1.toNat → v1.toNat ≤ 256 → v2.toNat ≤ 8 →
      s.granulesUsed core + tileGranules v0.toNat v1.toNat v2.toNat ≤ Config.granules →
      exec (.mxalloc x) s = c.ends s x.len (s.onStrand c.key fun st => st.setTile h (some
        { rows := v0.toNat, cols := v1.toNat, fp := x.t == .f32, depth := v2.toNat, vals := [], spines := [], n := 0, flags := 0,
          nIssue := 0, freeing := false, last := none }))) ∧
    (named → room .mx →
      exec (.mxfree x) s = queued .mx .free none (fun u => { u with freeing := true }) ∧
      exec (.mxzero x) s = queued .mx (.zero false) none (fun u => { u with nIssue := 0 }) ∧
      exec (.mxzeroAbs x) s = queued .mx (.zero true) none (fun u => { u with nIssue := 0 }) ∧
      (x.a = .zero → exec (.mxfin x) s = queued .mx .fin none fun u => { u with nIssue := 0 }) ∧
      (∀ n, x.a = .s n → c.scalars x [.s n, .s (n + 1)] = some [v0, v1] → c.syncCheck s (readControl v0 v1).sync 2 = none →
        exec (.mxfin x) s = queued .mx .fin (readControl v0 v1).sync fun u => { u with nIssue := 0 })) ∧
    (c.scalars x pairs = some [v0, v1, v2, v3] → named → room .mx → size → c.syncCheck s ct.sync 3 = none →
      ∀ r, readPair v0 v1 (some x.t) = some r → c.extentOk s r ct.m ct.n = true → ((x.t == .i32) = !t.fp) →
        exec (.mxld x) s = queued .mx (.load x.t r ct.m ct.n) ct.sync fun u => { u with nIssue := 0 }) ∧
    (c.scalars x (pairs ++ [x.c]) = some [v0, v1, v2, v3, v4] → named → room .mx → size → c.syncCheck s ct.sync 3 = none →
      calm → (effMode c.st.ctx.mode x.rnd = .rsd → c.freeS (modeSeed c.st.ctx.mode) ∧ c.regs.spend (modeSeed c.st.ctx.mode) = false) →
      v4.toNat < 2 ^ 56 → x.t.isFloat = t.fp →
      ∀ r, readPair v0 v1 (some x.t) = some r →
        c.extentOk s { r with fmt := if narrowFmt x.t then .i8 else x.t } ct.m ct.n = true →
        exec (.mxst x) s = queued .mx (.store x.t r ct.m ct.n (v4.toNat % 2 ^ 32) (v4.toNat / 2 ^ 32 % 2 ^ 24) (c.fpEnv x).mode
          (c.fpEnv x).sat (c.fpEnv x).seed) ct.sync id) ∧
    (c.scalars x [x.a, x.b, .s (x.b.snum + 1), x.c] = some [v0, v1, v2, v3] → named → room .ct → calm →
      let r := v1.toNat
      let rows := r / 2 ^ 16 % 512
      let cols := r / 2 ^ 32 % 512
      let e0 := v2.toNat % 2 ^ 32
      let stride := v2.toNat / 2 ^ 32
      ∀ d, s.openDom? c.st.part (v0.setWidth 32) = some d → 1 ≤ rows → rows ≤ 256 → 1 ≤ cols → cols ≤ 256 →
        r / 2 ^ 25 % 128 = 0 → r / 2 ^ 41 = 0 → r % 256 + rows ≤ t.rows → r / 2 ^ 8 % 256 + cols ≤ t.cols →
        e0 + (rows - 1) * stride + (cols - 1) < d.elems → v3.toNat / 2 ^ 40 % 2 ^ 18 = 0 →
        d.labelOk (v3.toNat / 2 ^ 58) (v3.toNat % 2 ^ 40) = true → convertible (if t.fp then .f32 else .i32) d.nf = true →
        exec (.ctbm x) s = queued .ct (.ctb (v0.setWidth 32) (r % 256) (r / 2 ^ 8 % 256) rows cols e0 stride (v3.toNat / 2 ^ 58)
          (v3.toNat % 2 ^ 40)) none id) ∧
    (c.scalars x (pairs ++ [x.c, .s (x.c.snum + 1)]) = some [v0, v1, v2, v3, v4, v5] → named →
      let k := readControl v4 v5
      let fin := x.sel % 2 == 1
      let upd (u : Tile) : Tile := { u with nIssue := if fin then 0 else u.nIssue + k.k }
      let gang := c.st.ctx.gang
      let first : Prop := x.g = true → (gangMembers gang core).head? = some c.st.name
      let other : Bool := x.g && gangNamed gang && (gangMembers gang core).head? != some c.st.name
      let saw (u : State) (lo : DWord) (viaRec : Bool) : State :=
        if viaRec then u.seen c.st.part (u.recAddr c.st.part (handleSlot (lo.setWidth 32))) 64 else u
      let w := saw (saw s v0 (x.xs % 2 == 1)) v2 (!other && x.xs / 2 % 2 == 1)
      w.far.ask = [] → k.zeros = true → 1 ≤ k.m → k.m ≤ t.rows → k.m ≤ 256 → 1 ≤ k.k → k.k ≤ 4096 → (first → 1 ≤ k.n ∧ k.n ≤ 256) →
      (first → k.n ≤ t.cols) → c.syncCheck w k.sync 4 = none → t.takes t.nIssue k.k fin = true →
      ∀ a b, c.matOperand w v0 v1 (x.xs % 2 == 1) = .ok a → ((a.fmt == .i8) = !t.fp) → c.extentOk w a k.m k.k = true →
        (first → c.matOperand w v2 v3 (x.xs / 2 % 2 == 1) = .ok b ∧ matRow a.fmt = matRow b.fmt ∧ c.extentOk w b k.k k.n = true) →
        (¬first → b = MatRef.unused) →
        (x.g = false → room .mx → exec (.mxmma x) s = queuedIn w .mx (.mma a b k.m k.n k.k fin) k.sync upd) ∧
        (x.g = true → gangNamed gang = true → c.st.name ∈ gangMembers gang core → c.st.full .mx = false →
          let o := { c.newOp .mx (.mx (.mma a b k.m k.n k.k fin) h k.sync) 0 0 with joint := some 0 }
          let ents := mapGet [] w.latches (clusterOf core)
          let mine (e : LatchEnt) : Prop := e.part = c.st.part ∧ e.gang = gang ∧ e.seq = c.st.gangSeq
          let enters (l : List LatchEnt) := c.ends s x.len { (w.addRecOp c.key o).onStrand c.key fun st =>
            ({ st with gangSeq := st.gangSeq + 1 }).onTile h upd with latches := mapPut [] w.latches (clusterOf core) l }
          (∀ pre e post, ents = pre ++ e :: post → mine e → (∀ y ∈ pre ++ post, ¬mine y) → exec (.mxmma x) s =
            enters (pre ++ { e with members := e.members ++ [(c.key, o.id)] } :: post)) ∧
          ((∀ e ∈ ents, ¬mine e) → ents.length < 16 →
            (ents.filter fun e => e.part == c.st.part).length < w.latchShare (clusterOf core) → exec (.mxmma x) s =
              enters (ents ++ [{ part := c.st.part, gang := gang, seq := c.st.gangSeq, members := [(c.key, o.id)] }]))))

/-- MXGANG sets the strand's gang once its joint operations have gone; MXROW and MXROW.flags read the progress and the flags of
a tile; MXSHP.q reads a tensor shape record's size and MXSHP.gen advances its generation (R257, R258, R269, R271, R272). -/
def Obligations.MatrixStateResults : Prop :=
  ∀ (s : State) (c : Ic) (x : Opnds) (a : DWord) (t : Tile), s.issuer = some c → c.sp.mask = fullMask →
    let h := x.a.rawNum
    let put (u : State) (v : DWord) := c.ends s x.len (u.putRegs c (c.regs.setS x.d.snum v))
    let mine := c.st.ops.filter fun o => o.tile == some h && o.cls == .mx
    let named : Prop := h < s.kernelTiles c.st.wg ∧ c.st.tile? h = some t ∧ t.freeing = false
    (c.scalars x [x.a] = some [a] → (∀ o ∈ c.st.ops, o.joint = none) → exec (.mxgang x) s = c.ends s x.len
      (s.onStrand c.key fun st => { st with gangSeq := 0, name := c.key, ctx := { st.ctx with gang := a } })) ∧
    (named → c.freeS x.d.snum →
      (∀ o, mine.getLast? = some o → o.done = true → exec (.mxrow x) s = put s (.ofNat 64 (o.recNo + o.rows * 2 ^ 16 + 2 ^ 31))) ∧
      (∀ n rows, mine = [] → t.last = some (n, rows) →
        exec (.mxrow x) s = put s (.ofNat 64 (n.toNat + rows * 2 ^ 16 + 2 ^ 31))) ∧
      (∀ o, mine.getLast? = some o → o.done = false → exec (.mxrow x) s = put s (.ofNat 64
        (o.recNo + (match o.body with | .mx (.mma ..) _ _ => o.rows | _ => 0) * 2 ^ 16))) ∧
      (mine = [] → t.last = none → exec (.mxrow x) s = put s.draw.2 s.draw.1) ∧
      ((∀ o ∈ c.st.ops, o.tile = some h ∨ o.sentOf = some h → o.susp = none ∧ o.done = true) →
        exec (.mxrowFlags x) s = put s (t.flags.setWidth 64))) ∧
    (c.scalars x [x.a] = some [a] →
      let g : Word := a.setWidth 32
      let p := s.recAddr c.st.part (handleSlot g)
      let u := s.seen c.st.part p 64
      u.far.ask = [] →
      (c.freeS x.d.snum → (∃ r, c.trLane s .global (.s 0) .read (.ofNat 64 p) = .ok r) →
        u.recGen c.st.part p = handleGen g → exec (.mxshpQ x) s =
          put u (.ofNat 64 (u.vread c.st.part (p + 8) 4 + u.vread c.st.part (p + 12) 4 * 2 ^ 32))) ∧
      (c.st.busy x.d true = false → (∃ r, c.trLane s .global (.s 0) .write (.ofNat 64 p) = .ok r) →
        let gen := (u.recGen c.st.part p + 1) % 4096
        exec (.mxshpGen x) s = put (u.vwrite c.st.part (p + 22) 2 (u.vread c.st.part (p + 22) 2 / 4096 * 4096 + gen))
          ((mkHandle (handleSlot g) gen).setWidth 64)))

/-! ## Results: the policy engine -/

/-- A Horgedo instruction that the decision in progress can afford writes its register with what its row says, counts its policy
cycles, and moves to the next word (R298, R303). -/
def Obligations.PolicyRegisterResults : Prop :=
  ∀ (s : State) (d : Decision) (r a b n : Nat) (imm : Half), (s.dieSt s.die).dec = some d →
    let sets (cost : Nat) (i : Instr) (v : Word) : Prop := d.affords cost = true → exec i s = .next (s.onDie s.die fun x =>
      { x with dec := some { d.setReg r v with cycles := d.cycles + cost, pc := d.pc + 1 } })
    let bit (p : Bool) : Word := if p then 1 else 0
    let x := d.reg a
    let y := d.reg b
    sets 1 (.hgLi r imm) (imm.signExtend 32) ∧
    sets 1 (.hgLui r imm) ((imm.setWidth 32 <<< 16) ||| (d.reg r &&& 0xFFFF)) ∧
    sets 1 (.hgMov r a) x ∧ sets 1 (.hgAdd r a b) (x + y) ∧ sets 1 (.hgAddi r a imm) (x + imm.signExtend 32) ∧
    sets 1 (.hgSub r a b) (x - y) ∧ sets 2 (.hgMul r a b) (x * y) ∧
    (n < 32 → sets 1 (.hgShl r a n) (x <<< n) ∧ sets 1 (.hgShr r a n) (x >>> n)) ∧
    sets 1 (.hgAnd r a b) (x &&& y) ∧ sets 1 (.hgOr r a b) (x ||| y) ∧
    sets 1 (.hgMin r a b) (if x.slt y then x else y) ∧ sets 1 (.hgMax r a b) (if x.slt y then y else x) ∧
    sets 1 (.hgSlt r a b) (bit (x.slt y)) ∧ sets 1 (.hgSlti r a imm) (bit (x.slt (imm.signExtend 32))) ∧
    sets 1 (.hgSeq r a b) (bit (x == y)) ∧ sets 1 (.hgSeqi r a imm) (bit (x == imm.signExtend 32)) ∧
    (∀ i : Nat, x.toInt = i →
      (∀ e, d.view[i]? = some e → sets 2 (.hgLdq r a n) (e.2.getD n 0)) ∧
      (d.view.length ≤ i → sets 2 (.hgLdq r a n) 0) ∧
      (∀ e, d.cores[i]? = some e → sets 2 (.hgLdk r a n) (e.getD n 0)) ∧
      (d.cores.length ≤ i → sets 2 (.hgLdk r a n) 0) ∧
      (∀ l, d.fits[i]? = some l → y = -1 → sets 4 (.hgFit r a b) (bit !l.isEmpty)) ∧
      (∀ l k, d.fits[i]? = some l → y.toInt = (k : Nat) → sets 4 (.hgFit r a b) (bit (l.contains k))) ∧
      (y.toInt < -1 → sets 4 (.hgFit r a b) 0) ∧ (d.fits.length ≤ i → sets 4 (.hgFit r a b) 0)) ∧
    (x.toInt < 0 → sets 2 (.hgLdq r a n) 0 ∧ sets 2 (.hgLdk r a n) 0 ∧ sets 4 (.hgFit r a b) 0) ∧
    sets 2 (.hgLde r n) (d.ev.getD n 0) ∧ sets 2 (.hgLdw r n) (d.scratch.getD n 0) ∧
    sets 1 (.hgNq r) (.ofNat 32 d.view.length) ∧
    (d.view = [] → ∀ f g, sets 18 (.hgArgmin r f g) (-1) ∧ sets 18 (.hgArgmax r f g) (-1)) ∧
    (d.view.length ≤ 64 → ∀ k < d.view.length, ∀ f g,
      let key (j : Nat) : Int × Int := ((d.field j f).toInt, (d.field j g).toInt)
      ((∀ j < d.view.length, j ≠ k → (key k).1 < (key j).1 ∨ ((key k).1 = (key j).1 ∧ (key k).2 < (key j).2) ∨
          (key k = key j ∧ k < j)) → sets 18 (.hgArgmin r f g) (.ofNat 32 k)) ∧
      ((∀ j < d.view.length, j ≠ k → (key j).1 < (key k).1 ∨ ((key k).1 = (key j).1 ∧ (key j).2 < (key k).2) ∨
          (key k = key j ∧ k < j)) → sets 18 (.hgArgmax r f g) (.ofNat 32 k))) ∧
    (d.x.length = 16 → r < 16 → ∀ m v, (d.setReg r v).reg m = if m = r then v else d.reg m)

/-- NOP only moves on; STW writes a scratch word of the decision; a branch moves by its offset where its condition holds and
to the next word elsewhere, FORQ and NEXTQ counting in their register; a DECIDE of the decision's kind ends it with its operands,
and one that has ended, or cannot afford its next instruction, executes no more (R298, R302, R303, R307). -/
def Obligations.PolicyControlResults : Prop :=
  ∀ (s : State) (d : Decision) (r a b n : Nat) (imm : Half), (s.dieSt s.die).dec = some d →
    let goes (cost : Nat) (i : Instr) (pc : Nat) (e : Decision) : Prop := d.affords cost = true →
      exec i s = .next (s.onDie s.die fun x => { x with dec := some { e with cycles := d.cycles + cost, pc := pc } })
    let next := d.pc + 1
    let fwd := d.pc + imm.toNat
    let chose (p : Int × Int) : Decision := { d with chosen := some p }
    goes 1 .hgNop next d ∧
    goes 2 (.hgStw a n) next { d with scratch := d.scratch.set n (d.reg a) } ∧
    goes 1 (.hgBz a imm) (if d.reg a = 0 then fwd else next) d ∧
    goes 1 (.hgBnz a imm) (if d.reg a = 0 then next else fwd) d ∧
    goes 1 (.hgBr imm) fwd d ∧
    goes 1 (.hgForq r imm) (if d.view.length = 0 then fwd else next) (d.setReg r 0) ∧
    goes 1 (.hgNextq r imm) (if (d.reg r + 1).toInt < d.view.length then d.pc - imm.toNat else next)
      (d.setReg r (d.reg r + 1)) ∧
    (d.kind = .dispatch → goes 2 (.hgDecideD a b) next (chose ((d.reg a).toInt, (d.reg b).toInt))) ∧
    (d.kind = .preempt → goes 2 (.hgDecideP n) next (chose (n, 0))) ∧
    (d.kind = .fault → goes 2 (.hgDecideF n) next (chose (n, 0))) ∧
    (d.chosen.isSome = true ∨ d.prog.budget < d.cycles + 1 → ∀ i : Instr, i.policy = true →
      exec i s = .next (s.onDie s.die fun x => { x with dec := some d }))

/-- A Horgedo instruction changes nothing but the decision in progress on its die: of that, its registers, its scratch words, its
place, its cycle count and the operands chosen; no memory, strand, core or partition (R298). With no decision in progress on the die
that executes it has nothing to act on: the model's choice of a named fault, safe (assumption 25). -/
def Obligations.PolicyFrame : Prop :=
  (∀ (s t : State) (i : Instr), i.policy = true → exec i s = .next t →
    ∃ d e, (s.dieSt s.die).dec = some d ∧ t = s.onDie s.die (fun x => { x with dec := some e }) ∧
      e = { d with x := e.x, scratch := e.scratch, pc := e.pc, cycles := e.cycles, chosen := e.chosen }) ∧
  (∀ (s : State) (i : Instr), (s.dieSt s.die).dec = none → i.policy = true → exec i s = .fault .noDecision)

/-! ## Events -/

/-- Events of a strand: its end frees its slot and block and retires its workgroup with the last strand; a drained block returns
to the allocator; a slot idle for 512 cycles turns drowsy; a sleep ends; a walk ends in the TLB or in a failure; the words of an
instruction arrive; blocks and scratchpad allocations move (R25, R40, R95 to R97, R104, R170, R390, R410, R452). -/
def Obligations.StrandEventResults : Prop :=
  ∀ (s : State) (key : Nat) (st : Strand) (i : Nat), s.strand? key = some st →
    let q := s.quarter (quarterOf key)
    (∀ w, s.wg? st.wg = some w →
      ((w.phase = .killed ∧ ∀ e ∈ s.members w, e.2.ops = []) ∨ (w.phase = .running ∧ st.phase = .exited)) → st.ops = [] →
      s.copyInto st.wg = false →
      let u := ({ s.drain key st 0 with strands := mapErase key s.strands } : State).onWg st.wg fun w =>
        { w with strands := w.strands.erase key, charge := w.charge + s.stayCharge st }
      exec (.strandLeavesExited key) s = .next (if (w.strands.erase key).isEmpty then u.endWg st.wg else u.writeUse w.part w.rcb)) ∧
    (∀ n b len left, (s.quarter n).dumping = false → ((s.quarter n).draining.find? fun d => d.1 == b) = some (b, len, left + 1) →
      exec (.drainingEnd n b) s = .next (s.onQuarter n fun q =>
        { q with draining := q.draining.map fun d => if d.1 == b then (b, len, left) else d })) ∧
    (∀ n b len, (s.quarter n).dumping = false → ((s.quarter n).draining.find? fun d => d.1 == b) = some (b, len, 0) →
      s.partOfCore (n / 4) = none → exec (.drainingEnd n b) s = .next (s.onQuarter n fun q =>
        { q with free := buddyRelease 8 q.free b len, draining := q.draining.filter fun d => d.1 != b })) ∧
    (∀ n b len p, (s.quarter n).dumping = false → ((s.quarter n).draining.find? fun d => d.1 == b) = some (b, len, 0) →
      s.partOfCore (n / 4) = some p → exec (.drainingEnd n b) s = .next ((s.onQuarter n fun q =>
        { q with free := buddyRelease 8 q.free b len, draining := q.draining.filter fun d => d.1 != b }).roomFreed p [n / 4])) ∧
    (max st.granted (mapGet 0 st.touched i) + 512 ≤ s.clock.toNat → i < 2 ^ st.logG → q.drowsy.contains (key, i) = false →
      exec (.slotDrowsy key i) s = .next (s.onQuarter (quarterOf key) fun q => { q with drowsy := q.drowsy ++ [(key, i)] })) ∧
    (∃ t, exec (.sleepExpiry key i) s = .next t ∧ t.strand? key = some (st.onSplit i fun sp =>
      if sp.wake ≤ s.clock.toNat then { sp with wake := 0 } else sp)) ∧
    (∀ w, (s.core w.core).walks.contains w = true →
      let u := s.onCore w.core fun c => { c with walks := c.walks.filter fun v => v != w }
      (∀ l, u.walk w.part w.acc w.va.toNat = .ok l → exec (.walkComplete w) s =
        .next ((u.onCore w.core fun c => c.tlbFill w.part w.va.toNat l).touch l.ent w.acc)) ∧
      (∀ e, u.walk w.part w.acc w.va.toNat = .error e → exec (.walkComplete w) s =
        .next (u.onCore w.core fun c => { c with fails := c.fails ++ [{ req := w, sub := e.sub, ent := e.ent }] }))) ∧
    ((st.split i).st = .ready ∨ (st.split i).st = .trapped → (st.split i).words = [] → s.wgAway st.wg = false → s.far.asked = [] →
      ∀ l accs, s.fetch (coreOf key) st.part (st.split i).pc = .words l accs → s.farWords accs = false →
      s.eccScan st.part 4 accs = (s, [], 0, 0) →
      let u := s.cacheWords (coreOf key) st.part (st.split i).pc l
      exec (.instructionFetchComplete key i) s = .next (({ u with free := u.free + 1 } : State).onStrand key fun y =>
        y.onSplit i fun p => { p with words := l, stall := .none })) ∧
    (∀ n b rest, (s.quarter n).moves = (key, b) :: rest → rest ≠ [] → st.fixed = false → st.movable = true →
      (∀ r ∈ (s.heldBlocks n).erase (st.block, 2 ^ st.logG), r.1 + r.2 ≤ b ∨ b + 2 ^ st.logG ≤ r.1) →
      exec (.compactionMove n) s = .next
        (((s.useSlots key st.ctx.regs.live).onStrand key fun x => { x with block := b }).onQuarter n fun y => { y with moves := rest })) ∧
    (∀ core, (s.core core).spadMoves = [] → exec (.scratchpadCompaction core) s =
      .next (if s.planSpad core = [] then s else s.onCore core fun c => { c with spadMoves := s.planSpad core })) ∧
    (∀ core k rest w b, (s.core core).spadMoves = k :: rest → rest ≠ [] → s.wg? k = some w → w.phase = .running → w.home = core →
      s.spadIdle k w = true → firstFit ((s.spadRuns core).erase (w.spadBase, w.kernel.spad)) w.kernel.spad Config.spadBytes = some b →
      b < w.spadBase → exec (.scratchpadCompaction core) s = .next
        ((State.onWg { s with spad := writeBytes s.spad (core * Config.spadBytes + b) (readBytes s.spad (w.spadPa 0) w.kernel.spad) } k
          fun x => { x with spadBase := b }).onCore core fun c => { c with spadMoves := rest }))

/-- Events of the engines on an operation that they may run, with no error of their own: a band commits; a matrix operation, a
joint one with all its parts, and a copy perform and arrive; a multicast serves one receiver; a swap exchanges the bytes of one sector
of its two frames (R43, R44, R127, R243, R244, R269 to R273, R379). Which older stores they wait for is the model's reading
(assumption 26). -/
def Obligations.EngineEventResults : Prop :=
  (∀ (s : State) (key id h : Nat) (st : Strand) (o : Op) (t : Tile), s.mxReady? key id = some (st, o, h) → st.tile? h = some t →
    s.checks = [] →
    (∀ a b m n k fin, o.mma? = some (a, b, m, n, k, fin) →
      (o.rows < m → s.engineBusy key id = false → (s.runBand key st o h).far.asked = [] →
        exec (.bandComplete key id) s = .next (s.runBand key st o h)) ∧
      (m ≤ o.rows → o.joint = none → o.started = false → ∀ sync, o.body = .mx (.mma a b m n k fin) h sync → ∀ st2 o2,
        (s.endMma key st o h k).strand? key = some st2 → st2.op? id = some o2 →
        let u := (s.endMma key st o h k).arriveOp key st o2 0x01 sync 1 o2.flags
        u.far.asked = [] → exec (.mxOperationComplete key id) s = .next u)) ∧
    (∀ kind sync, o.body = .mx kind h sync →
      let done (u : State) : Prop := u.far.asked = [] → exec (.mxOperationComplete key id) s = .next u
      let ends (u : Tile) (fl : Half) (clear : Bool) :=
        ((s.endTile key o h u u.rows fl clear).unqueue key o.id).arriveOp key st o 0x01 sync 1 fl
      (o.started = true → done (s.arriveOp key st o 0x01 sync 1 o.flags)) ∧
      (o.started = false → o.mma? = none → s.engineBusy key id = false → done (s.runMx key st o h t) ∧
        (kind = .free → s.runMx key st o h t = (s.unqueue key o.id).finishOp key o.id) ∧
        (kind = .zero false → s.runMx key st o h t = ends { t with vals := [], spines := [], n := 0 } 0 true) ∧
        (kind = .fin → s.runMx key st o h t = ends (t.close 0).1 (t.close 0).2 false))) ∧
    (∀ g j ps p, mapFind s.joints g = some j → j.members.map s.partDone = (p :: ps).map some →
      ∀ a b m n k fin, p.2.2.1.mma? = some (a, b, m, n, k, fin) →
      let all := p :: ps
      let u := all.foldl (fun y e => if e.2.2.1.started then y else y.endMma e.1 e.2.1 e.2.2.1 e.2.2.2 k) s
      let fl := all.foldl (fun (f : Half) e => f ||| ((u.strand? e.1).bind fun y => y.op? e.2.2.1.id).elim 0 fun x => x.flags) 0
      let arrives (y : State) (e : Nat × Strand × Op × Nat) : State :=
        let z := y.onStrand e.1 fun w => w.onOp e.2.2.1.id fun x => { x with flags := fl }
        match (z.strand? e.1).bind fun w => (w.op? e.2.2.1.id).map fun x => (w, x), e.2.2.1.body with
        | some (w, x), .mx _ _ sync => z.arriveOp e.1 w x 0x01 sync 1 fl
        | _, _ => z
      let v := all.foldl arrives { u with joints := mapErase g u.joints }
      v.far.asked = [] → exec (.jointOperationComplete g) s = .next v) ∧
    (∀ cluster entry e ms, (mapGet [] s.latches cluster)[entry]? = some e → s.latchFull cluster e = some ms →
      s.jointReady ms = true →
      let g := s.jointNext + 1
      let u := ms.foldl (fun y m => y.onStrand m.1 fun z => z.onOp m.2 fun p => { p with joint := some g })
        { s with latches := mapPut [] s.latches cluster ((mapGet [] s.latches cluster).eraseIdx entry), jointNext := g
                 joints := mapIns g { members := ms } s.joints }
      let k := match ms.head? with
        | some m => ((u.strand? m.1).bind fun y => (y.op? m.2).bind fun p => p.mma?).elim 0 fun x => x.2.2.2.2.1
        | none => 0;
      u.jointBad ms k = [] → exec (.jointOperationStart cluster entry) s =
        .next (ms.foldl State.recount (ms.foldl (fun y m => y.onCore (coreOf m.1) fun z => { z with engine := z.engine ++ [m] }) u)))) ∧
  (∀ (s : State), s.checks = [] →
    (∀ key id st o k, s.engReady? key id = some (st, o) → o.body = .copy k →
      let run := s.runCopy key st o (k.sectors 0 k.rows) (k.sectors 0 k.rows / 512 + 2) k
      (k.multi = false → run.far.asked = [] → exec (.copyComplete key id) s = .next run) ∧
      (∀ core, k.multi = true → (s.serve key st o k core).far.asked = [] →
        exec (.cpymReceiverArrival key id core) s = .next (s.serve key st o k core)) ∧
      (k.sectors 0 k.rows ≤ k.written → s.runCopy key st o (k.sectors 0 k.rows) (k.sectors 0 k.rows / 512 + 2) k =
        (s.onStrand key fun y => y.onOp o.id fun p => { p with body := .copy k }).arriveOp key st o 0x02 k.sync
          (k.rowBytes * k.rows) 0)) ∧
    (∀ die x base, (s.dieSt die).swap = some x → x.at_ < x.sectors → s.farLost x = false → s.swapFar x = (.host, base) → s.far.asked = [] → s.upsets = [] →
      s.memWf = true →
      let u := s.exchange x
      let far := base + 4096 * x.at_
      let near := x.near + 4096 * x.at_
      let last := u.endSwap die { x with at_ := x.at_ + 1 }
      (x.at_ + 1 < x.sectors → exec (.swapSector die) s = .next (u.onDie die fun d => { d with swap := some { x with at_ := x.at_ + 1 } })) ∧
      (x.at_ + 1 = x.sectors → last.far.asked = [] → exec (.swapSector die) s = .next last) ∧
      (∀ k < 4096, readByte u.flostra (near + k) = readByte s.hostMem (far + k) ∧
        readByte u.hostMem (far + k) = readByte s.flostra (near + k)) ∧
      (∀ a, (a < near ∨ near + 4096 ≤ a) → readByte u.flostra a = readByte s.flostra a) ∧
      (∀ a, (a < far ∨ far + 4096 ≤ a) → readByte u.hostMem a = readByte s.hostMem a)))

/-- Events of reductions with no error of a clasp's own: a held node goes on to its home after 256 cycles, a slice takes the next
arrival or refills, a slice's or a pod home's held node is sent on, a switch port pairs, passes or returns nodes, and a node or root
packet in turn is accepted, sent back as not ready, or refused as stale (R123 to R125, R322 to R326, R460). The payloads' layout and the numbers of the
port's flows are the model's (assumptions 21 and 35). -/
def Obligations.ReductionEventResults : Prop :=
  ∀ (s : State) (n : Node) (d : Dom) (k i : Nat) (p : Pkt), s.checks = [] →
    let known := (s.doms.find? fun y => n.of y) = some d
    let held := (s.slice k).clasp[i]? = some n
    ((s.core k).clasp[i]? = some n → n.since + 256 ≤ s.clock.toNat →
      let u := s.onCore k fun c => { c with clasp := c.clasp.erase n }
      exec (.coreClaspHoldExpiry k i) s = .next (u.forward k n) ∧
        (known → u.forward k n = { u with toSlice := u.toSlice ++ [(u.elemSlice d n.elem, { n with core := some k })] })) ∧
    (s.toSlice[i]? = some (k, n) → exec (.nodeArrivalSlice i) s = .next (s.arriveSlice i)) ∧
    (s.doms[i]? = some d → exec (.spillRefill k i) s = .next (s.refill k d)) ∧
    (held → n.since + 1536 ≤ s.clock.toNat → known → ∀ home, s.role d n.elem = .other home →
      exec (.sliceHoldExpiry k i) s = .next ((s.unhold k n).sendNode d n home)) ∧
    (held → n.since + s.us 4 ≤ s.clock.toNat → known → ∀ sys, s.role d n.elem = .podHome sys →
      exec (.podHomeHoldExpiry k i) s = .next ((s.unhold k n).sendUet d sys
        (.node n.handle (.ofNat 32 n.elem) n.label (n.val.getD 0) n.val.isNone n.flags))) ∧
    (∀ dev, (s.portHeld k dev)[i]? = some n → n.since + s.us 2 ≤ s.clock.toNat →
      exec (.portClaspHoldExpiry k dev i) s = .next ((s.onPortClasp k dev fun l => l.eraseIdx i).passNode k dev n)) ∧
    (p.opc = 6 → p.port = false → s.planeLive p.dst p.plane = true →
      let f := 4096 + p.dst * 512 + p.src
      let u := s.portAck p.dst p 0 p.seq
      let moved (t : State) : State :=
        State.drainFlow f p.plane (fun y q => (y.portTake p.dst q, true)) 1024 (t.onFlow f p.plane Flow.pass)
      (p.seq = (s.flow f p.plane).inNext →
        (∀ part, u.partOfFab p.fabid = some part → exec (.portClaspArrival p.dst p) s =
          .next (moved (u.portGo p.plane p.dst 64 { pktNode p part u.clock.toNat with inc := some p.tincarn }))) ∧
        (u.partOfFab p.fabid = none → exec (.portClaspArrival p.dst p) s =
          .next (moved (u.portSend p.plane p.dst p.dst 6 p.tincarn p.fabid p.addr p.flags p.payload)))) ∧
      (seqBefore p.seq (s.flow f p.plane).inNext = true → exec (.portClaspArrival p.dst p) s =
        .next (s.portAck p.dst p 2 ((s.flow f p.plane).inNext - 1)))) ∧
    (∀ part, s.inTurn p part →
      let u := s.taken p
      (p.opc = 6 →
        let m := pktNode p part u.clock.toNat
        (∀ e, u.judge part m.handle = .accepted e → exec (.nodePacket p) s = .next (((u.toHome e m).sendAck p 0).passed p)) ∧
        (u.judge part m.handle = .early → exec (.nodePacket p) s = .next ((u.notReadyTo p 0).passed p)) ∧
        (u.judge part m.handle = .over → exec (.nodePacket p) s = .next ((u.refuseStale p part).passed p))) ∧
      (p.opc = 7 → u.judge part (redHandle p) = .early → exec (.rootPacket p) s = .next ((u.notReadyTo p 0).passed p)) ∧
      (p.opc = 7 → u.judge part (redHandle p) = .over → exec (.rootPacket p) s = .next ((u.refuseStale p part).passed p)) ∧
      (p.opc = 7 → ∀ e, u.judge part (redHandle p) = .accepted e →
        let el := p.addr.toNat / 2 ^ 32
        el < e.elems → e.written.contains el = false → (mapGet none e.stuck (u.elemSlice e el)).isSome = false →
        u.finalFault e el (pktRoot p) = none →
        exec (.rootPacket p) s = .next (((u.takeRoot e el (pktRoot p) p.flags).sendAck p 0).passed p)))

/-- Events of the packet processors: a notify write that names room moves WIDX; the next packet of a ring is copied with its
kernels and arguments, or refused with a record of the first check that it fails; a packet whose dependences hold starts by its type, whichever event finds it so; a
pipeline with empty lists and every strand at TAKE is quiet; a period that has ended rolls the balances over (R52, R276, R278,
R285 to R287, R292). -/
def Obligations.QueueEventResults : Prop :=
  ∀ (s : State) (part q i : Nat) (w : Word) (p : QPkt),
    ((s.part part).ownsQueue q = true →
      let u := s.seen part (s.qAddr part q) 64
      let c := u.qf part q 28 4
      u.queueOk part q = true → w ≠ .ofNat 32 c → (w - .ofNat 32 (u.qf part q 24 4)).toNat ≤ 2 ^ u.qf part q 8 1 →
      exec (.notifyWrite part q w) s = .next (u.setQf part q 28 4 w.toNat)) ∧
    ((s.part part).ownsQueue q = false → exec (.notifyWrite part q w) s =
      .next (s.postRec part (schedRec 0x02 2 q 0 w.toNat 0))) ∧
    (s.partOfQueue q = some part → (s.part part).live = true →
      let goes (t : State) : Prop := exec (.packetAccept q) s = .next t
      let s := s.seen part (s.qAddr part q) 64
      let r := s.qf part q 24 4
      (s.part part).live = true → s.queueOk part q = true → s.qf part q 28 4 ≠ r →
      (s.pkts.filter fun x => x.part == part && x.queue == q).length < 64 → s.vok part .read (s.pktAddr part q r) = true →
      let x : QPkt := { queue := q, part := part, idx := r, words := s.pktWords part q r, kernels := [], args := []
                        st := .waiting, failed := none }
      let u := s.setQf part q 24 4 ((r + 1) % 2 ^ 32)
      (∀ d v, s.pktFault x (s.fitsEmpty part) = some (d, v) →
        let coop : Prop := x.type = 1 ∧ ((s.readKernel part (x.field 8 8)).elim false fun k => k.coop) = true
        (¬(d = 11 ∧ coop) → goes (u.postRec part (schedRec 0x01 d q r v (.ofNat 64 (s.pktAddr part q r))))) ∧
        (d = 11 → coop → goes (u.postRec part (schedRec 0x03 d q r v (.ofNat 64 (s.pktAddr part q r)))))) ∧
      (s.pktFault x (s.fitsEmpty part) = none →
        let y := { x with kernels := (s.pktKernels x).filterMap fun k => s.readKernel part k
                          args := if x.field 24 8 = 0 then [] else s.vreadBytes part (x.field 24 8) (s.pktArgs x) }
        let v := (u.seenPkt y).setQf part q 44 4 (u.qf part q 44 4 + 1)
        goes { (if x.type = 1 ∨ x.type = 2 then v.dropCode part else v) with pkts := v.pkts ++ [y] })) ∧
    ((s.pkts.find? fun y => y.queue == q && y.idx == i) = some p →
      let u := if p.field 40 8 = 0 then s else s.seen p.part (p.field 40 8) 8
      (∀ y, u.startable q i = some y → exec (.dependencePoll q i) s = .next (u.startPkt y)) ∧
      (u.startable q i = none → exec (.dependencePoll q i) s = .next u)) ∧
    (s.startable q i = some p →
      (p.type = 1 → exec (.launchPacket q i) s = .next (s.startLaunch p)) ∧
      (p.type = 2 → exec (.pipelinePacket q i) s = .next (s.startPipeline p)) ∧
      (p.type = 3 → exec (.barrierAndPacket q i) s = .next (s.startBarrierAnd p)) ∧
      (p.type = 4 → exec (.signalPacket q i) s = .next (s.startSignal p)) ∧
      (p.type = 5 → exec (.domainArmPacket q i) s = .next (s.startDomainArm p))) ∧
    (∀ x k y, s.source? i = some x → x.pipe = some k → mapFind s.pipes k = some y → y.quiet = false →
      (∀ l ∈ y.lists, s.listCount y.part l.toNat = 0) →
      (∀ e ∈ s.strands, (∃ g ∈ s.wgs, g.1 = e.2.wg ∧ y.sources.contains g.2.source ∧ g.2.resident) → e.2.atTake = true) →
      exec (.quiescence i) s = .next ((({ s with pipes := mapIns k { y with quiet := true } s.pipes } : State).wakeTakes y.part
        fun l _ => y.lists.any fun z => z.toNat == l).checkWork y.part y.queue y.pkt)) ∧
    (let m := s.rcb part 0 48 8
     let last := (s.part part).period
     (s.part part).live = true → m ≠ 0 → last / m < s.clock.toNat / m → exec (.periodRollover part) s = .next
       (((s.onPart part fun x => { x with period := (last / m + 1) * m }).rollFrom part (2 ^ 24) 0).refresh part))

/-- Events of the policy engines: with a die's engine idle the first pending event begins its decision, FAULT before PREEMPT
before DISPATCH; a decision that its program has ended is applied; one that cannot afford its next instruction is counted and the
fallback decides; an image is read, judged by the first rule that it breaks, and staged on both dies (R294, R305 to R309). -/
def Obligations.PolicyEventResults : Prop :=
  ∀ (s : State) (die part : Nat), die < 2 →
    let x := s.dieSt die
    (x.dec = none →
      (∀ f t, x.faults = f :: t → exec (.faultDecision die) s = .next
        ((s.onDie die fun y => { y with faults := t }).beginDecision die f.part .fault (some f.core) (s.sourceOf f.wg) (some f))) ∧
      (∀ src t, x.faults = [] → x.preempt = (part, src) :: t → exec (.preemptDecision die part) s = .next
        ((s.onDie die fun y => { y with preempt := t }).beginDecision die part .preempt none (some src) none)) ∧
      (∀ core src t, x.faults = [] → x.preempt = [] → x.dispatch = (part, core, src) :: t → exec (.dispatchDecision die part) s = .next
        ((s.onDie die fun y => { y with dispatch := t }).beginDecision die part .dispatch core src none))) ∧
    (∀ d ch, x.dec = some d → d.chosen = some ch →
      (d.kind = .dispatch → exec (.dispatchDecision die d.part) s =
        .next ((s.onDie die fun y => { y with dec := none }).applyDispatch die d.part (some d) d.core (some ch))) ∧
      (d.kind = .preempt → exec (.preemptDecision die d.part) s =
        .next ((s.onDie die fun y => { y with dec := none }).applyPreempt die d.part (some d) (some ch))) ∧
      (∀ f, d.kind = .fault → d.flt = some f → exec (.faultDecision die) s =
        .next ((s.onDie die fun y => { y with dec := none }).applyFault die f (some d) (some ch)))) ∧
    (∀ d, x.dec = some d → d.chosen = none → d.prog.budget < d.cycles + hgCost (d.word % 256) → exec (.policyOverrun die) s = .next
      ((s.onPart d.part fun p => { p with overruns := if p.overruns = BitVec.allOnes 32 then p.overruns else p.overruns + 1
        }).endDecision die d none)) ∧
    (¬((s.part part).shadow = 1 ∧ (s.part part).verify.isSome = true) → exec (.policyLoad part) s = .next
      (let a := (if (s.part part).shadow = 1 then (s.part part).loadAt else (s.part part).polimg).toNat
       let l := (s.readImage part a).getD []
       (s.seen part a (4 * l.length)).onPart part fun p => { p with shadow := 1, verify := some l })) ∧
    exec (.policyRevert part) s = .next (s.revert part) ∧
    (∀ w, (s.part part).verify = some w →
      (∀ r, imgReason w = some r → exec (.imageVerdict part) s = .next ((s.onPart part fun p =>
        { p with shadow := 3, reason := r, verify := none
                 rejects := if p.rejects = BitVec.allOnes 16 then p.rejects else p.rejects + 1 }).interrupt part 3)) ∧
      (imgReason w = none →
        let v := nextVersion (s.part part).version
        let u := s.onPart part fun p =>
          { p with shadow := 2, wcet := hgWorst (imgCode w) (imgEntries w), version := v, verify := none
                   polWest := { p.polWest with staged := some (imgPolicy w v) }
                   polEast := { p.polEast with staged := some (imgPolicy w v) } }
        exec (.imageVerdict part) s = .next (((u.swapPolicy part 0).swapPolicy part 1).interrupt part 3)))

/-- A memory packet in turn is performed at its address, or refused where the partition's tables refuse it, and answered: a load
with its bytes, an atomic with the old value, a store, a counter signal and a sync arrival with an acknowledgment; one for the host's
memory goes to the adapter; responses reach the lane that waits (R315 to R321, R331, R238). The payloads' layout, a store's leading
byte among it, is the model's (assumption 21), and so is bit 63 of a host-bound packet's address (assumption 10). -/
def Obligations.FabricAccessResults : Prop :=
  ∀ (s : State) (p : Pkt) (part : Nat), s.inTurn p part →
    let u := s.taken p
    let goes (i : Instr) (t : State) : Prop := exec i s = .next (t.passed p)
    let d := bytesVal p.payload
    let op := AtmOp.ofCode (p.payload.getD 0 0).toNat
    let t := (Ty.ofCode (p.payload.getD 1 0).toNat).getD .b32
    let l := storedBytes p.payload
    (p.opc = 1 → goes (.loadRequest p) (u.remoteAt p part (p.payload.getD 0 0).toNat .read true fun s pl a =>
      (s.rdAcc pl a (p.payload.getD 0 0).toNat).2.respond p 2
        (bytesOf (p.payload.getD 0 0).toNat (s.rdAcc pl a (p.payload.getD 0 0).toNat).1))) ∧
    (p.opc = 2 → goes (.loadResponse p) ((u.takeResponse p).sendAck p 0)) ∧
    (p.opc = 3 → goes (.storePacket p) (u.remoteAt p part l.length .write false fun s pl a => s.wrAcc pl a l.length (bytesVal l))) ∧
    (p.opc = 4 → goes (.atomicRequest p) (u.remoteAt p part t.bytes .write true fun s pl a =>
      ((s.rdAcc pl a t.bytes).2.wrAcc pl a t.bytes (atmNew op t (s.rdAcc pl a t.bytes).1 (bytesVal ((p.payload.drop 2).take 8))
        (bytesVal ((p.payload.drop 10).take 8)))).respond p 5 (bytesOf t.bytes (s.rdAcc pl a t.bytes).1))) ∧
    (p.opc = 5 → goes (.atomicResponse p) ((u.takeResponse p).sendAck p 0)) ∧
    (p.opc = 8 → goes (.counterSignal p) (u.remoteAt p part 8 .write true fun s pl a => s.syncAt pl a (.add (.ofNat 64 d)))) ∧
    (p.opc = 9 → goes (.syncArrival p) (u.remoteAt p part 8 .write true fun s pl a =>
      s.syncAt pl a (.arrive (.ofNat 32 (d % 2 ^ 32)) (.ofNat 16 (d / 2 ^ 32))))) ∧
    (∀ w : List Byte, storedBytes (storePayload false w) = w ∧
      storedBytes (storePayload true w) = 0 :: 0 :: bytesOf 2 (windowCode (bytesVal w))) ∧
    (∀ n acc reads f, u.hostBound p = false → (2 ^ 57 ≤ p.addr.toNat ∨ ∃ e, u.walk part acc p.addr.toNat = .error e) →
      u.remoteAt p part n acc reads f = u.sendAck p 3) ∧
    (∀ n acc reads f x, u.hostBound p = false → p.addr.toNat < 2 ^ 57 → u.walk part acc p.addr.toNat = .ok x → leafFmt x.leaf = 0 →
      ∃ pl a, u.remoteAt p part n acc reads f =
        (f (if reads then (u.touch x.ent acc).peerReads part pl a n else u.touch x.ent acc) pl a).sendAck p 0) ∧
    (∀ n acc reads f, u.hostBound p = true →
      u.remoteAt p part n acc reads f = (f u .host (p.addr.toNat % 2 ^ 50)).sendAck p 0)

/-- Answers, flows and links: an acknowledgment retires what it covers; a stale, refused or not-ready answer takes its packet
off the flow; a packet unanswered in time goes again, up to eight times, and then its plane is no longer live for the device; the
announcements carry the live planes to every device of the pod, and what they tell of a plane or of an incarnation is acted on; the training,
loss and end of a port (R312, R314, R316, R325, R454 to R466). The answers' payloads are the model's (assumption 21). -/
def Obligations.FabricFlowResults : Prop :=
  (∀ (s : State) (p : Pkt), p.etype = s.boot.etype →
    let pl := answerPlane p
    let sq := answerSeq p
    let flow := if p.port then 512 + p.src else p.src
    let u := s.takeAck flow p.plane p.ack
    let back := portFlow p.dst p.src
    let toPort := portAnswer p 10 0 || portAnswer p 10 1
    (s.answerHere p 0 0 = true → exec (.ack p false) s = .next u ∧ exec (.ack p true) s = .next (u.spurious p flow)) ∧
    (s.answerHere p 0 2 = true → u.answerHere p 0 2 = true → exec (.ack p false) s = .next (u.spurious p flow)) ∧
    (portAnswer p 0 0 = true ∨ portAnswer p 0 2 = true → ∀ dup, exec (.ack p dup) s = .next (s.takeAck back p.plane p.ack)) ∧
    (portAnswer p 0 1 = true → exec (.staleAnswer p) s = .next (s.dropUnacked back pl sq)) ∧
    (∀ f q, s.answerHere p 0 1 = true → s.sentPkt p.src pl sq = some (f, q) →
      let v := s.dropUnacked f pl sq
      let addr := peerVal p.src p.sincarn
      (∀ key o r l, s.waiting p.src pl sq = some (key, o, r, l) → exec (.staleAnswer p) s = .next (v.failRemote key o r 0x05 addr)) ∧
      (s.waiting p.src pl sq = none →
        (∀ w, v.farWaiting p.src pl sq = some w → exec (.staleAnswer p) s = .next (v.failFar w 0x05 addr)) ∧
        (v.farWaiting p.src pl sq = none → exec (.staleAnswer p) s =
          .next (if q.opc = 6 ∨ q.opc = 7 then v.failNode q 0x05 addr else v)))) ∧
    (∀ faults, s.answerHere p 0 3 = true → exec (.refusedAnswer p faults) s = .next (s.takeRefusal p faults)) ∧
    (∀ f q, toPort = true ∨ s.answerHere p 10 0 = true ∨ s.answerHere p 10 1 = true →
      s.sentPkt (if toPort then back else p.src) pl sq = some (f, q) →
      let v := s.dropUnacked f pl sq
      let mine (e : NotReady) : Bool := e.sent == some sq && e.pkt.samePath q
      ((p.payload.getD 0 0).toNat = 1 → exec (.notReady p) s = .next
        (let x := v.onFab fun f => { f with notReady := f.notReady.filter fun e => !mine e }
         if toPort then x else x.dropStalePkt q)) ∧
      ((p.payload.getD 0 0).toNat ≠ 1 → v.fabric.notReady.any mine = true → exec (.notReady p) s = .next (v.onFab fun f =>
        { f with notReady := f.notReady.map fun e => if mine e then { e with sent := none, last := v.clock.toNat } else e })) ∧
      ((p.payload.getD 0 0).toNat ≠ 1 → v.fabric.notReady.any mine = false → exec (.notReady p) s = .next (v.onFab fun f =>
        { f with notReady := f.notReady ++ [{ pkt := q, since := v.clock.toNat, last := v.clock.toNat, sent := none }] })))) ∧
  (∀ (s : State) (i dev plane via : Nat) (w : Word),
    (∀ e, s.fabric.notReady[i]? = some e → e.sent = none →
      (e.last + s.us 1 ≤ s.clock.toNat → exec (.notReadyResend i) s = .next
        (let flow := if e.pkt.port then portFlow e.pkt.src e.pkt.dst else e.pkt.dst
         (if e.pkt.port then s.portEmit e.pkt else s.send e.pkt).onFab fun x =>
          { x with notReady := x.notReady.set i { e with sent := some (s.flow flow e.pkt.plane).next } })) ∧
      (e.since + s.us 1000 ≤ s.clock.toNat → exec (.notReadyTimeout i) s =
        .next ((s.onFab fun x => { x with notReady := x.notReady.eraseIdx i }).dropStalePkt e.pkt))) ∧
    (∀ u a b, s.ueEarly[i]? = some (u, a, b) →
      (b + s.us 1 ≤ s.clock.toNat → exec (.notReadyResend (s.fabric.notReady.length + i)) s = .next (s.onFab fun f =>
        { f with uetOut := f.uetOut ++ [u.pkt]
                 ue := f.ue.map fun x => if x = u then { x with early := x.early.map fun t => (t.1, s.clock.toNat) } else x })) ∧
      (a + s.us 1000 ≤ s.clock.toNat → exec (.notReadyTimeout (s.fabric.notReady.length + i)) s = .next (s.ueStale u))) ∧
    (∀ f q x t n, s.sentPkt dev plane w = some (f, q) →
      ((s.flow f plane).unacked.find? fun e => e.1.seq == w) = some (x, t, n) → t + s.us (if n = 0 then 60 else 120) ≤ s.clock.toNat →
      let again (m : Nat) : State := s.onFlow f plane fun g =>
        { g with unacked := g.unacked.map fun e => if e.1.seq == w then (e.1, s.clock.toNat, m) else e }
      let goes (u : State) : Prop := exec (.recoveryTimerExpiry dev plane w) s = .next u
      (s.planeLive (dev % 512) plane = true → (s.flow f plane).asking = false →
        (n < 8 → goes ((again (n + 1)).sendAgain x)) ∧
        (8 ≤ n → goes (if x.port then s.portGone (dev % 512) plane
          else (s.onPeer (dev % 512) fun y => { y with dead := y.dead ||| (1#64 <<< plane) }).flowGone (dev % 512) plane))) ∧
      (s.planeLive (dev % 512) plane = false ∨ (s.flow f plane).asking = true →
        goes (if x.port then s else (again n).flowGone (dev % 512) plane))) ∧
    (s.planeUp via = true → s.fabricOn = true → exec (.recoveryQuery dev plane via) s = .next
      (let u := s.onFlow dev plane fun f => { f with recovering := true, ahead := [] }
       u.emit { u.mkPkt 0 dev via (u.incarnOf dev) 0 (.ofNat 64 (2 ^ 32 * plane)) [4] with ack := (u.flow dev plane).inNext - 1 })) ∧
    ((s.flow dev plane).asking = true → s.fabricOn = true →
      exec (.recoveryAnswer dev plane w) s = .next (s.recover dev plane w))) ∧
  (∀ (s : State) (k n dev : Nat) (incarn : Half) (planes : DWord),
    let q := s.port k
    (dev ≠ s.boot.devid.toNat → s.fabricOn = true → exec (.livePlaneAnnouncement dev incarn planes) s = .next
      (let y := s.peer dev
       let fresh : Bool := y.incarn != 0 && y.incarn != incarn
       let gone := (List.range 64).filter fun j => y.planes.getLsbD j && !planes.getLsbD j
       let came := (List.range 64).filter fun j => planes.getLsbD j && !y.planes.getLsbD j
       let u := s.onPeer dev fun x => { x with incarn := incarn, planes := planes, lost := false, heard := s.clock.toNat
                                               dead := if fresh then 0 else x.dead &&& planes }
       let u := if fresh then (u.failPeer dev incarn).uePeerLost dev else u
       let u := came.foldl (fun t j =>
         if (t.flow dev j).recovering then t.onFlow dev j fun f => { f with recovering := false } else t) u
       let u := gone.foldl (fun t j => t.planeGone dev j) u
       let asking := (u.fabric.flows.filter fun e => e.1 / 64 == dev && e.2.asking).map fun e => e.1 % 64
       ((if came = [] then [] else asking).foldl (fun t j => t.askRecovery dev j) u).noteCut dev)) ∧
    (dev ≠ s.boot.devid.toNat → (s.peer dev).lost = false →
      (s.peer dev).heard + s.us 2000 ≤ s.clock.toNat ∨ (∃ t, (s.peer dev).cutAt = some t ∧ t + s.us 2000 ≤ s.clock.toNat) →
      exec (.peerLostTimeout dev) s = .next (s.losePeer dev)) ∧
    exec .announcementTimer s = .next
      (let live := (List.range 64).filter fun j => s.planeUp j && s.fabricOn
       let mask := live.foldl (fun a j => a + 2 ^ j) 0
       (live.foldl (fun t j => ((List.range 512).filter fun x => x != s.boot.devid.toNat).foldl (fun t x =>
         t.emit (t.mkPkt 0 x j (t.incarnOf x) 0 0 (6 :: bytesOf 8 mask))) t) s).onFab
        fun f => { f with announced := (live.foldl (fun t j => ((List.range 512).filter fun x => x != s.boot.devid.toNat).foldl (fun t x =>
          t.emit (t.mkPkt 0 x j (t.incarnOf x) 0 0 (6 :: bytesOf 8 mask))) t) s).clock.toNat }) ∧
    (k < 72 → q.up = false → 0 < q.lanes → s.fabricOn = true →
      exec (.linkTrainingComplete k) s = .next (s.onPort k fun x => { x with trained := true, up := true })) ∧
    (k < 64 → q.up = true →
      (q.lanes = 2 → exec (.laneLoss k n) s = .next
        ((s.onPort k fun x => { x with lanes := 1, trained := false }).postAll (fabricRec 0x01 1 k (n % 2) 0 0 1 0))) ∧
      (q.lanes ≠ 2 → exec (.laneLoss k n) s = .next (s.downPort k 1))) ∧
    (q.up = true → q.trained = false →
      exec (.laneRetrainDone k) s = .next ((s.onPort k fun x => { x with trained := true }).replayFrom k 0)) ∧
    (q.up = true → exec (.frameCrcFailure k false) s =
        .next ((s.onPort k fun x => { x with crcRetry := x.crcRetry + 1 }).onFab fun f => { f with naks := f.naks ++ [k] }) ∧
      exec (.frameCrcFailure k true) s = .next (s.draw.2.loseLane k (s.draw.1.toNat % 2)) ∧
      exec (.negativeAcknowledgment k n) s =
        .next ((s.onPort k fun x => { x with crcRetry := x.crcRetry + 1 }).replayFrom k n)) ∧
    exec (.portDown k n) s = .next (s.downPort k n) ∧
    (64 ≤ k → q.up = true → s.downPort k n =
      (s.onPort k fun x => { x with up := false, trained := false, lanes := 0 }).postAll (fabricRec 0x02 n k 0 0 0 1 0)))

/-- The Ultra Ethernet endpoint: a queue's next entry goes to its peer by its operation, or is refused with its record and the arrival
of 2^32 - 1; the entry completes when all its bytes are acknowledged or its data came, is sent again, or fails; a packet that arrives
for the partition of its JobID is performed in memory that takes it, an ROD entry not before an older one, and answered; nodes and roots
are judged as those of the fabric; the path table and the exclusions follow (R325 to R330, R469 to R471). That an entry is one packet is
the model's choice (assumption 79), and so is how the order of ROD entries travels (assumption 114). -/
def Obligations.EndpointResults : Prop :=
  (∀ (s : State) (part k i : Nat) (w : Word) (data : List Byte),
    let r := s.ueRidx part k
    let v := s.ueSeen part k r.toNat
    let words := v.ueWords part k r.toNat
    let sent (op : Nat) : State :=
      let v := if op = 1 then v.seen part (ueLocal words) (ueBytes words) else v
      let d := if ueField words 3 1 % 2 = 1 then v.draw else (0, v)
      let order := mapGet 0 v.fabric.rodSent (64 * part + k) + 1
      let pkt := v.uePkt part k r.toNat words (v.uePick part words (d.1.toNat % 256)) order
      let entry : UeEntry := { part := part, k := k, idx := r.toNat, words := words, resends := 0, since := v.clock.toNat, pkt := pkt }
      (d.2.ueTaken part k).onFab fun f =>
        { f with uetOut := f.uetOut ++ [pkt], ue := f.ue ++ [entry]
                 rodSent := if pkt.mode = 2 then mapPut 0 f.rodSent (64 * part + k) order else f.rodSent }
    let refusal := ((v.ueTaken part k).postRec part
      (fabricRec 0x05 0 (v.uePort part k (ueField words 2 1)) 0 k r.toNat 1 0)).ueArrive part words (2 ^ 32 - 1)
    let next : Prop := k < (s.part part).ueqn ∧ s.ueOk part k = true ∧ s.ueWidx part k ≠ r
    exec (.ueNotifyWrite part k w) s = .next (s.ueNotify part k w) ∧
    (next → v.ueBad part words = false → v.ueHeld part k words = false →
      (ueOp words = 1 → exec (.ueWrite part k) s = .next (sent 1)) ∧ (ueOp words = 2 → exec (.ueRead part k) s = .next (sent 2)) ∧
      (ueOp words = 3 → exec (.ueFetchAndAdd part k) s = .next (sent 3)) ∧
      (ueOp words = 4 → exec (.ueCompareAndSwap part k) s = .next (sent 4))) ∧
    (next → v.ueBad part words = true →
      ∀ e ∈ [Instr.ueWrite part k, .ueRead part k, .ueFetchAndAdd part k, .ueCompareAndSwap part k], exec e s = .next refusal) ∧
    (∀ u, s.ueEntry? part k i = some u →
      ((k = 64 ∨ ueOp u.words = 1) → u.acked = true → exec (.ueEntryComplete part k i data) s = .next (s.ueDone u [])) ∧
      (k ≠ 64 → ueOp u.words ≠ 1 → data.length = ueBytes u.words →
        exec (.ueEntryComplete part k i data) s = .next (s.ueDone u data)) ∧
      (u.acked = false → exec (.ueRetransmitTimeout part k i) s = .next (s.ueAgain u))) ∧
    ((∀ u ∈ s.fabric.ue, ¬(u.part = part ∧ u.k ≠ 64 ∧ uePeerIdx u.words = k)) → exec (.pathTableUpdate part k) s = .next s) ∧
    (∀ u ∈ s.fabric.ue, u.part = part → u.k ≠ 64 → uePeerIdx u.words = k →
      let base := bitsOf (mapGet 0 (s.part part).fab 5) 56 0 + 4096 * k
      exec (.pathTableUpdate part k) s = .next ((List.range 256).foldl (fun t e =>
        let x := t.draw.1.toNat
        let v := t.draw.2
        let rtt := if v.excludedNow part k e then 2 ^ 32 - 1 else x % 2 ^ 32
        (v.vwrite part (base + 16 * e) 8 (rtt + x / 2 ^ 32 % 2 ^ 16 * 2 ^ 32)).vwrite part (base + 16 * e + 8) 8 (v.ueFlying part k e)) s)) ∧
    (∃ t, exec (.entropyExclusionExpiry part k i) s = .next t ∧ ∀ e, e ∈ t.fabric.excluded ↔ e ∈ s.fabric.excluded ∧
      ¬(e.1 = part ∧ e.2.1 = k ∧ e.2.2.1 = i ∧ e.2.2.2 ≤ s.clock.toNat))) ∧
  ∀ (s : State) (p : UetPkt) (part : Nat),
    let goes (t : State) : Prop := exec (.uetPacketArrival p) s = .next t
    let asks : Bool := match p.body with
      | .write .. | .read .. | .fetchAdd .. | .compareSwap .. | .node .. | .root .. => true
      | _ => false
    (∀ u, s.ueEntry? p.part p.k p.idx = some u →
      let mark (g : UeEntry → UeEntry) : State := s.onFab fun f => { f with ue := f.ue.map fun x => if x = u then g x else x }
      (p.body = .acked →
        goes ((mark fun x => { x with acked := true, early := none }).noteLoss u.part u.peer u.pkt.entropy false)) ∧
      (p.body = .nak ∨ p.body = .trim → goes (s.ueAgain u)) ∧
      (p.body = .authFailed → goes (s.ueFail u 5)) ∧
      (p.body = .notReady → u.k = 64 →
        goes (mark fun x => { x with early := some ((x.early.elim s.clock.toNat fun t => t.1), s.clock.toNat) })) ∧
      (p.body = .stale → u.k = 64 → goes (s.ueStale u))) ∧
    (∀ m peer e, p.body = .lost m peer e → goes (s.noteLoss m peer e true)) ∧
    (asks = true → p.udp = 4793 → s.partOfJob p.job = none → goes (s.uetReply p .authFailed)) ∧
    (p.udp = 4793 → s.partOfJob p.job = some part →
      let fresh : Prop := p.mode = 1 ∨ (s.uetDone p = none ∧ s.uetLate p = false)
      let once (t : State) (b : UetBody) : State := (if p.mode = 1 then t else t.onFab fun x =>
        { x with uetSeen := (x.uetSeen.filter fun e => !(e.1 == rodKey p && e.2.1 != p.session)) ++ [(rodKey p, p.session, p.idx, b)]
                 rodDone := if p.mode = 2 then mapIns (rodKey p) (p.session, p.order) x.rodDone else x.rodDone }).uetReply p b
      let acks (b : UetBody) : Prop :=
        (∀ a data, p.body = .write a data → s.runOk part .write a.toNat data.length = true → goes (s.uetReply p b)) ∧
        (∀ a n, p.body = .read a n → s.runOk part .read a.toNat n = true → goes (s.uetReply p b)) ∧
        (∀ a x, p.body = .fetchAdd a x → s.runOk part .write a.toNat 8 = true → goes (s.uetReply p b)) ∧
        (∀ a x y, p.body = .compareSwap a x y → s.runOk part .write a.toNat 8 = true → goes (s.uetReply p b))
      (fresh →
        (∀ a data, p.body = .write a data → s.runOk part .write a.toNat data.length = true →
          goes (once (s.vwriteBytes part a.toNat data) .acked)) ∧
        (∀ a n, p.body = .read a n → s.runOk part .read a.toNat n = true →
          let v := s.seen part a.toNat n
          goes (once v (.reply (v.vreadBytes part a.toNat n)))) ∧
        (∀ a x, p.body = .fetchAdd a x → s.runOk part .write a.toNat 8 = true →
          let v := s.seen part a.toNat 8
          let old := v.vread part a.toNat 8
          goes (once (v.vwrite part a.toNat 8 ((old + x.toNat) % 2 ^ 64)) (.reply (bytesOf 8 old)))) ∧
        (∀ a x y, p.body = .compareSwap a x y → s.runOk part .write a.toNat 8 = true →
          let v := s.seen part a.toNat 8
          let old := v.vread part a.toNat 8
          goes (once (if old = x.toNat then v.vwrite part a.toNat 8 y.toNat else v) (.reply (bytesOf 8 old))))) ∧
      (p.mode ≠ 1 → (∀ b, s.uetDone p = some b → acks b) ∧ (s.uetDone p = none → s.uetLate p = true → acks .acked)) ∧
      (∀ h e label v absent fl, p.body = .node h e label v absent fl →
        (∀ d, s.judge part h = .accepted d → e.toNat < d.elems → fresh → goes (once (s.toHome d
          { part := part, handle := h, elem := e.toNat, level := label.toNat / 2 ^ 58, index := label.toNat % 2 ^ 40
            val := if absent then none else some v, flags := fl, src := none, since := s.clock.toNat }) .acked)) ∧
        (s.judge part h = .early → goes (s.uetReply p .notReady)) ∧ (s.judge part h = .over → goes (s.uetReply p .stale))) ∧
      (∀ h e v absent fl, p.body = .root h e v absent fl →
        (∀ d, s.judge part h = .accepted d → e.toNat < d.elems →
          let r := if absent then none else some v
          (d.written.contains e.toNat = true → goes (s.uetReply p .acked)) ∧
          (d.written.contains e.toNat = false → mapGet none d.stuck (s.elemSlice d e.toNat) = none →
            s.finalFault d e.toNat r = none →
            goes (((s.takeRoot d e.toNat r fl).sendRootPod d e.toNat r fl).uetReply p .acked))) ∧
        (s.judge part h = .early → goes (s.uetReply p .notReady)) ∧ (s.judge part h = .over → goes (s.uetReply p .stale))))

/-- Device management: host writes reach main memory or a doorbell page, or are dropped and counted, and host reads bring memory, a
page's register or all ones; a reset, or a firmware fault after acceptance, restarts the device; firmware writes the management set; a
core leaves a partition, and one cleared holds zeros; a report is asked for once, written whole with its signatures, or ends in an error,
with its record where the self-test fails; the power cap lies in its range and the clock falls one step at a time, never below 1.8 GHz
(R335, R336, R342 to R348, R388, R389). What memory holds after a restart is the model's choice (assumption 82). -/
def Obligations.ManagementEventResults : Prop :=
  ∀ (s : State) (d : DWord) (csr part core : Nat) (flash staging : Image) (v : DWord) (m : Half),
    (∀ (r : HostReq) (x : DWord), r.data = some x →
      exec (.hostAccess r) s = .next (s.hostWrite r.addr r.size (x.toNat % 2 ^ (8 * r.size)))) ∧
    (∀ r : HostReq, r.data = none → exec (.hostAccess r) s = .next ((s.hostRead r.addr r.size).2.onFab fun f =>
      { f with hostData := some (.ofNat 64 (s.hostRead r.addr r.size).1) })) ∧
    (∀ a n : Nat, (a + n ≤ mainBytes → s.hostWrite a n d.toNat = s.wr .flostra a n d.toNat ∧ s.hostRead a n = s.rd .flostra a n) ∧
      (mainBytes < a + n →
        (∀ p, s.bellOf a = some p → let off := a - (s.part p).doorbell
          s.hostWrite a n d.toNat = s.bellWrite p off n d.toNat ∧ s.hostRead a n = (s.bellRead p off n, s)) ∧
        (s.bellOf a = none → s.hostRead a n = (2 ^ (8 * n) - 1, s) ∧ s.hostWrite a n d.toNat =
          if (s.hostPlace 0).1 = .host then s.onFab fun f => { f with dropped := f.dropped + 1 } else s))) ∧
    exec (.deviceReset flash staging) s = .next (s.restart flash staging) ∧
    (s.boot.stage < 2 → exec (.firmwareFault flash staging) s = .next s) ∧
    (2 ≤ s.boot.stage → exec (.firmwareFault flash staging) s = .next (s.restart flash staging) ∧
      exec (.managementWrite csr v) s = .next (s.mgmtWrite csr v)) ∧
    ((s.part part).leaving.contains core = true →
      (∀ e ∈ s.wgs, e.2.part = part → e.2.resident = true → ∀ k ∈ e.2.slots, coreOf k ≠ core) →
      exec (.coreLeavesPartition part core) s =
        .next ((s.onPart part fun p => { p with leaving := p.leaving.erase core }).restage)) ∧
    ((s.core core).clearing = true →
      let u : State := ({ s with spad := clearRun s.spad (core * Config.spadBytes) Config.spadBytes
                                 vault := clearRun s.vault (core * Config.vaultBytes) Config.vaultBytes } : State).onCore core
        fun c => { c with clearing := false }
      (∀ p, u.partOfCore core = some p → exec (.scratchClearComplete core) s = .next (u.roomFreed p [core])) ∧
      (u.partOfCore core = none → exec (.scratchClearComplete core) s = .next u) ∧
      (s.memWf = true → (∀ k < Config.spadBytes, readByte u.spad (core * Config.spadBytes + k) = 0) ∧
        (∀ k < Config.vaultBytes, readByte u.vault (core * Config.vaultBytes + k) = 0))) ∧
    (s.boot.attBusy = false → exec (.attreqWrite part v) s = .next { s with boot :=
      { s.boot with attBusy := true, attErr := false, attAddr := v &&& bitMask 56 6, attPart := part } }) ∧
    (s.boot.attBusy = true → exec (.attreqWrite part v) s = .next s ∧
      let fin (u : State) (err : Bool) : State := { u with boot := { u.boot with attBusy := false, attErr := err } }
      let p := s.boot.attPart
      let a := bitsOf s.boot.attAddr 56 6 * 64
      let head := s.reportHead (s.vreadBytes p (a + 136) 32)
      exec (.attestationReport false) s = .next ((fin s true).postRec p (plainRec 0x09 0x01 0)) ∧
      (s.bufferOk p a 16896 = false → exec (.attestationReport true) s = .next (fin s true)) ∧
      (s.bufferOk p a 16896 = true → exec (.attestationReport true) s = .next (fin (s.vwriteBytes p a
        (head ++ padTo 384 (Config.rsaSign head) ++ padTo 16224 (Config.slhSign head))) false))) ∧
    (∃ t, exec (.capWrite m) s = .next t ∧ 1000 ≤ t.boot.cap.toNat ∧ t.boot.cap.toNat ≤ 2800 ∧
      (1000 ≤ m.toNat → m.toNat ≤ 2800 → t.boot.cap = m)) ∧
    (∃ t, exec (.powerThrottle m) s = .next t ∧ t.boot.meas = m ∧
      (m.toNat ≤ s.boot.cap.toNat → t.boot.freq = s.boot.freq) ∧
      (s.boot.cap.toNat < m.toNat → t.boot.thr = true ∧ t.boot.freq.toNat = max 18 (s.boot.freq.toNat - 1)))

/-- The fault ring takes the first group that fits or cannot wait, whole or not at all; its reader's index moves where it leaves
no more than the ring holds; a resume frees what its sequence covers; the scrub treats an upset word and routes a loss; saves and
restores end, time out or go on; a strand that has waited 2^32 cycles is reported once (R368, R369, R375, R422, R423, R436, R440,
R445). -/
def Obligations.FaultEventResults : Prop :=
  ∀ (s : State) (part wg key : Nat) (w : Word) (st : Strand) (g : Wg),
    (∀ x, groupNow (s.ringRoom part) (s.part part).groups = some x →
      let u := s.onPart part fun p => { p with groups := p.groups.erase x }
      let after (t : State) : State := match x.pkt with | some (q, idx) => t.releasePkt part q idx | none => t
      (x.recs.length ≤ s.ringRoom part → exec (.faultGroupWrite part) s = .next (after (u.writeGroup part x))) ∧
      (s.ringRoom part < x.recs.length → exec (.faultGroupWrite part) s = .next (after (u.dropGroup part x)))) ∧
    exec (.frreadWrite part w) s = .next
      (if (BitVec.ofNat 32 (s.vread part ((s.part part).vbase 13 + 8) 4) - w).toNat ≤ 2 ^ (s.part part).ringLog
        then s.onPart part fun p => { p with frread := w } else s) ∧
    exec (.frresumeWrite part w) s = .next (s.frresume part w) ∧
    (∀ addr u space p, (space, p) ∈ [(Space.global, Place.flostra), (.vault, .vault)] → s.upsetAt p addr 1 = some u →
      s.ownerOf p addr = some part →
      ((s.treatUpset part u).2 = 1 → exec (.patrolScrub space addr) s = .next (s.treatUpset part u).1) ∧
      ((s.treatUpset part u).2 ≠ 1 → exec (.patrolScrub space addr) s = .next ((s.treatUpset part u).1.route
        { part := part, wg := none, split := none, op := none
          core := if u.place = .vault then u.addr / Config.vaultBytes else 0
          fault := { plainRec 0x05 u.sub (.ofNat 64 (u.addr + 2 ^ 63)) with outcome := (s.treatUpset part u).2 } }))) ∧
    (s.wg? wg = some g →
      (g.phase = .saving → s.saveReady wg g = true → exec (.saveComplete wg) s = .next (s.completeSave wg)) ∧
      (g.phase = .saving → g.saveLimit < s.clock.toNat ∨ (g.saveLimit = s.clock.toNat ∧ s.saveReady wg g = false) →
        let u := ((s.freePool g).settleVerdict wg 0).onWg wg fun x => { x with phase := .running, pool := (0, 0), quarantine := false }
        exec (.saveTimeout wg) s = .next (if g.quarantine then u.killWg wg else u)) ∧
      (g.phase = .restoring → s.symsFit (s.members g) = true → exec (.restoreComplete wg) s = .next (s.completeRestore wg))) ∧
    (s.strand? key = some st → s.wg? st.wg = some g → st.watchOff = false → g.phase = .running → 2 ^ 32 ≤ st.watch →
      ∃ t slot, exec (.hangWatchdog key) s = .next ((s.onStrand key fun x => { x with watchOff := true }).route
        { part := st.part, wg := some st.wg, split := some (key, slot), op := none, core := coreOf key, fault := t }) ∧
        t.cls = 0x08 ∧ t.sub = 0x04)

/-- Debug: a match stops the quarter with the split due to enter the agent, which it does 12 cycles later or after one stepped
instruction; the stop, dump, enter, unhalt, resume and reply commands act on the quarter selected; a dump that ends applies the writes
it held; trace samples and other registers are written (R7, R475 to R490). -/
def Obligations.DebugEventResults : Prop :=
  ∀ (s : State) (key slot q part off : Nat) (v : DWord) (st : Strand),
    let x := s.quarter q
    (∀ k, s.breakpoint key slot = some k → s.poised key slot = true →
      exec (.breakpointMatch key slot) s = .next (s.stopAt key slot 2 k 1 0)) ∧
    (∀ k m, s.watchpoint key slot = some (k, m) → s.poised key slot = true →
      exec (.watchpointMatch key slot) s = .next (s.stopAt key slot 3 k 2 m)) ∧
    (∀ e, s.nextEntry q false = some e → exec (.agentEntry q) s = .next (s.enterAgent q e)) ∧
    (∀ e, s.nextEntry q true = some e → exec (.stepReentry q) s = .next (s.enterAgent q e)) ∧
    (∀ e rest, x.entering = e :: rest → x.stopped = true → e.noted = true → e.since + 12 ≤ s.clock.toNat →
      e.reason ≠ 4 ∨ (∀ y, s.strand? e.strand = some y → (y.split e.slot).st = .ready ∨ (y.split e.slot).st = .free) →
      s.nextEntry q (e.reason == 3) = some e) ∧
    (x.req = false → x.stopped = false → exec (.qstopStop q) s = .next
      ((s.stopQuarter q 4 none none 0).onQuarter q fun y => { y with exempt := none })) ∧
    (x.req = false → x.stopped = true → exec (.qstopStop q) s =
      .next (s.onQuarter q fun y => { y with req := true, resumeAt := none })) ∧
    (x.req = true → exec (.qstopStop q) s = .next s) ∧ (x.req = false → exec (.qstopResume q) s = .next s) ∧
    (x.req = true → x.agent = false → x.stopped = true → exec (.qstopResume q) s = .next
      ((s.onQuarter q fun y => { y with req := false, exempt := none }).resumeQuarter q)) ∧
    (x.req = true → x.agent = true ∨ x.stopped = false →
      exec (.qstopResume q) s = .next (s.onQuarter q fun y => { y with req := false, exempt := none })) ∧
    exec (.dbgStop part) s = .next (s.onSelected part fun t q => t.writeReq q true 1 none) ∧
    exec (.dbgDump part) s = .next (s.onSelected part fun t q => t.dump part q) ∧
    exec (.dbgEnter part slot) s = .next (s.dbgEnter part slot) ∧
    exec (.dbgUnhalt part slot) s = .next (s.onSelected part fun t q =>
      t.onStrand (32 * q + slot % 32) fun y => { y with halted := false }) ∧
    exec (.dbgResume part) s = .next (s.onSelected part fun t q => t.writeReq q false 0 none) ∧
    (s.strand? key = some st → st.part = part → bitsOf v 7 0 * 128 + bitsOf v 9 8 * 32 + bitsOf v 14 10 = key →
      ∃ t, exec (.dbgreplyWrite part v) s = .next t ∧
        t.strand? key = some { st with reply := some (.ofNat 32 (v.toNat / 2 ^ 32)) }) ∧
    (x.dumping = true → exec (.dumpComplete q) s =
      .next (x.held.foldl (fun t h => t.applyHeld h) (s.onQuarter q fun y => { y with dumping := false, held := [] }))) ∧
    (s.partOfCore (q / 4) = some part → s.clock.toNat % 2 ^ (10 + bitsOf (s.part part).trctl 15 11) = 0 →
      ∃ body, exec (.traceSample q) s = .next (s.traceRec part 1 (locOf q) body)) ∧
    (off % 8 = 0 → off < 65536 → exec (.mmioRegisterWrite part off v) s = .next (s.bellSet part off v))
end

