-- ==== Sys2Proof/Laws/Dispatch.lean ====
section
/-! SUPPORT. Each instruction runs its own meaning: one lemma per constructor. -/

namespace Sys2Proof.Machine

open Sys2Proof

theorem exec_nopBase (s : State) {d} {a} {b} : exec (.nopBase d a b) s = execNopBase d a b s := rfl
theorem exec_saddBase (s : State) {d} {a} {b} : exec (.saddBase d a b) s = execSaddBase d a b s := rfl
theorem exec_saddImmBase (s : State) {d} {a} {imm} : exec (.saddImmBase d a imm) s = execSaddImmBase d a imm s := rfl
theorem exec_saddLit (s : State) {d} {a} {lit} : exec (.saddLit d a lit) s = execSaddLit d a lit s := rfl
theorem exec_ssubBase (s : State) {d} {a} {b} : exec (.ssubBase d a b) s = execSsubBase d a b s := rfl
theorem exec_smulBase (s : State) {d} {a} {b} : exec (.smulBase d a b) s = execSmulBase d a b s := rfl
theorem exec_sandBase (s : State) {d} {a} {b} : exec (.sandBase d a b) s = execSandBase d a b s := rfl
theorem exec_sorBase (s : State) {d} {a} {b} : exec (.sorBase d a b) s = execSorBase d a b s := rfl
theorem exec_sxorBase (s : State) {d} {a} {b} : exec (.sxorBase d a b) s = execSxorBase d a b s := rfl
theorem exec_sshlBase (s : State) {d} {a} {n} : exec (.sshlBase d a n) s = execSshlBase d a n s := rfl
theorem exec_sshrBase (s : State) {d} {a} {n} : exec (.sshrBase d a n) s = execSshrBase d a n s := rfl
theorem exec_smovBase (s : State) {d} {a} : exec (.smovBase d a) s = execSmovBase d a s := rfl
theorem exec_smovImmBase (s : State) {d} {imm} : exec (.smovImmBase d imm) s = execSmovImmBase d imm s := rfl
theorem exec_smovLit (s : State) {d} {lit} : exec (.smovLit d lit) s = execSmovLit d lit s := rfl
theorem exec_qsetLtBase (s : State) {d} {a} {b} : exec (.qsetLtBase d a b) s = execQsetLtBase d a b s := rfl
theorem exec_qsetEqBase (s : State) {d} {a} {b} : exec (.qsetEqBase d a b) s = execQsetEqBase d a b s := rfl
theorem exec_braBase (s : State) {off} : exec (.braBase off) s = execBraBase off s := rfl
theorem exec_braqBase (s : State) {q} {neg} {off} : exec (.braqBase q neg off) s = execBraqBase q neg off s := rfl
theorem exec_vaddBase (s : State) {d} {a} {b} : exec (.vaddBase d a b) s = execVaddBase d a b s := rfl
theorem exec_vsubBase (s : State) {d} {a} {b} : exec (.vsubBase d a b) s = execVsubBase d a b s := rfl
theorem exec_vmulBase (s : State) {d} {a} {b} : exec (.vmulBase d a b) s = execVmulBase d a b s := rfl
theorem exec_vandBase (s : State) {d} {a} {b} : exec (.vandBase d a b) s = execVandBase d a b s := rfl
theorem exec_vorBase (s : State) {d} {a} {b} : exec (.vorBase d a b) s = execVorBase d a b s := rfl
theorem exec_vxorBase (s : State) {d} {a} {b} : exec (.vxorBase d a b) s = execVxorBase d a b s := rfl
theorem exec_vshlBase (s : State) {d} {a} {n} : exec (.vshlBase d a n) s = execVshlBase d a n s := rfl
theorem exec_vshrBase (s : State) {d} {a} {n} : exec (.vshrBase d a n) s = execVshrBase d a n s := rfl
theorem exec_vaddImmBase (s : State) {d} {a} {imm} : exec (.vaddImmBase d a imm) s = execVaddImmBase d a imm s := rfl
theorem exec_vaddLit (s : State) {d} {a} {lit} : exec (.vaddLit d a lit) s = execVaddLit d a lit s := rfl
theorem exec_vmovBase (s : State) {d} {a} : exec (.vmovBase d a) s = execVmovBase d a s := rfl
theorem exec_vmovScalarBase (s : State) {d} {a} : exec (.vmovScalarBase d a) s = execVmovScalarBase d a s := rfl
theorem exec_vlaneBase (s : State) {d} : exec (.vlaneBase d) s = execVlaneBase d s := rfl
theorem exec_faddBase (s : State) {d} {a} {b} : exec (.faddBase d a b) s = execFaddBase d a b s := rfl
theorem exec_fsubBase (s : State) {d} {a} {b} : exec (.fsubBase d a b) s = execFsubBase d a b s := rfl
theorem exec_fmulBase (s : State) {d} {a} {b} : exec (.fmulBase d a b) s = execFmulBase d a b s := rfl
theorem exec_ffmaBase (s : State) {d} {a} {b} : exec (.ffmaBase d a b) s = execFfmaBase d a b s := rfl
theorem exec_fminBase (s : State) {d} {a} {b} : exec (.fminBase d a b) s = execFminBase d a b s := rfl
theorem exec_fmaxBase (s : State) {d} {a} {b} : exec (.fmaxBase d a b) s = execFmaxBase d a b s := rfl
theorem exec_frcpBase (s : State) {d} {a} : exec (.frcpBase d a) s = execFrcpBase d a s := rfl
theorem exec_ldBase (s : State) {d} {a} {b} : exec (.ldBase d a b) s = execLdBase d a b s := rfl
theorem exec_stBase (s : State) {d} {a} {b} : exec (.stBase d a b) s = execStBase d a b s := rfl
theorem exec_ldsBase (s : State) {d} {a} {imm} : exec (.ldsBase d a imm) s = execLdsBase d a imm s := rfl
theorem exec_waitBase (s : State) {ld} {st} : exec (.waitBase ld st) s = execWaitBase ld st s := rfl
theorem exec_exitBase (s : State) : exec (.exitBase) s = execExitBase s := rfl
theorem exec_nop (s : State) {x} : exec (.nop x) s = execNop x s := rfl
theorem exec_csrr (s : State) {x} : exec (.csrr x) s = execCsrr x s := rfl
theorem exec_csrw (s : State) {x} : exec (.csrw x) s = execCsrw x s := rfl
theorem exec_mode (s : State) {x} : exec (.mode x) s = execMode x s := rfl
theorem exec_clock (s : State) {x} : exec (.clock x) s = execClock x s := rfl
theorem exec_sleep (s : State) {x} : exec (.sleep x) s = execSleep x s := rfl
theorem exec_trap (s : State) {x} : exec (.trap x) s = execTrap x s := rfl
theorem exec_tret (s : State) {x} : exec (.tret x) s = execTret x s := rfl
theorem exec_halt (s : State) {x} : exec (.halt x) s = execHalt x s := rfl
theorem exec_mboxPost (s : State) {x} : exec (.mboxPost x) s = execMboxPost x s := rfl
theorem exec_mboxWait (s : State) {x} : exec (.mboxWait x) s = execMboxWait x s := rfl
theorem exec_tlbinv (s : State) {x} : exec (.tlbinv x) s = execTlbinv x s := rfl
theorem exec_tlbinvAll (s : State) {x} : exec (.tlbinvAll x) s = execTlbinvAll x s := rfl
theorem exec_perfr (s : State) {x} : exec (.perfr x) s = execPerfr x s := rfl
theorem exec_yield (s : State) {x} : exec (.yield x) s = execYield x s := rfl
theorem exec_idq (s : State) {x} : exec (.idq x) s = execIdq x s := rfl
theorem exec_esaveCtx (s : State) {x} : exec (.esaveCtx x) s = execEsaveCtx x s := rfl
theorem exec_esaveStack (s : State) {x} : exec (.esaveStack x) s = execEsaveStack x s := rfl
theorem exec_eloadCtx (s : State) {x} : exec (.eloadCtx x) s = execEloadCtx x s := rfl
theorem exec_eloadStack (s : State) {x} : exec (.eloadStack x) s = execEloadStack x s := rfl
theorem exec_bra (s : State) {x} : exec (.bra x) s = execBra x s := rfl
theorem exec_brd (s : State) {x} : exec (.brd x) s = execBrd x s := rfl
theorem exec_join (s : State) {x} : exec (.join x) s = execJoin x s := rfl
theorem exec_brk (s : State) {x} : exec (.brk x) s = execBrk x s := rfl
theorem exec_call (s : State) {x} : exec (.call x) s = execCall x s := rfl
theorem exec_ret (s : State) {x} : exec (.ret x) s = execRet x s := rfl
theorem exec_jmpi (s : State) {x} : exec (.jmpi x) s = execJmpi x s := rfl
theorem exec_calli (s : State) {x} : exec (.calli x) s = execCalli x s := rfl
theorem exec_exit (s : State) {x} : exec (.exit x) s = execExit x s := rfl
theorem exec_loop (s : State) {x} : exec (.loop x) s = execLoop x s := rfl
theorem exec_braq (s : State) {x} : exec (.braq x) s = execBraq x s := rfl
theorem exec_pset (s : State) {x} : exec (.pset x) s = execPset x s := rfl
theorem exec_pfset (s : State) {x} : exec (.pfset x) s = execPfset x s := rfl
theorem exec_plog (s : State) {x} : exec (.plog x) s = execPlog x s := rfl
theorem exec_pmov (s : State) {x} : exec (.pmov x) s = execPmov x s := rfl
theorem exec_vote (s : State) {x} : exec (.vote x) s = execVote x s := rfl
theorem exec_pcnt (s : State) {x} : exec (.pcnt x) s = execPcnt x s := rfl
theorem exec_pfirst (s : State) {x} : exec (.pfirst x) s = execPfirst x s := rfl
theorem exec_qset (s : State) {x} : exec (.qset x) s = execQset x s := rfl
theorem exec_qlog (s : State) {x} : exec (.qlog x) s = execQlog x s := rfl
theorem exec_sadd (s : State) {x} : exec (.sadd x) s = execSadd x s := rfl
theorem exec_ssub (s : State) {x} : exec (.ssub x) s = execSsub x s := rfl
theorem exec_smul (s : State) {x} : exec (.smul x) s = execSmul x s := rfl
theorem exec_smad (s : State) {x} : exec (.smad x) s = execSmad x s := rfl
theorem exec_smulh (s : State) {x} : exec (.smulh x) s = execSmulh x s := rfl
theorem exec_sdiv (s : State) {x} : exec (.sdiv x) s = execSdiv x s := rfl
theorem exec_srem (s : State) {x} : exec (.srem x) s = execSrem x s := rfl
theorem exec_sand (s : State) {x} : exec (.sand x) s = execSand x s := rfl
theorem exec_sor (s : State) {x} : exec (.sor x) s = execSor x s := rfl
theorem exec_sxor (s : State) {x} : exec (.sxor x) s = execSxor x s := rfl
theorem exec_sshl (s : State) {x} : exec (.sshl x) s = execSshl x s := rfl
theorem exec_sshr (s : State) {x} : exec (.sshr x) s = execSshr x s := rfl
theorem exec_ssar (s : State) {x} : exec (.ssar x) s = execSsar x s := rfl
theorem exec_smin (s : State) {x} : exec (.smin x) s = execSmin x s := rfl
theorem exec_smax (s : State) {x} : exec (.smax x) s = execSmax x s := rfl
theorem exec_smov (s : State) {x} : exec (.smov x) s = execSmov x s := rfl
theorem exec_ssel (s : State) {x} : exec (.ssel x) s = execSsel x s := rfl
theorem exec_sclz (s : State) {x} : exec (.sclz x) s = execSclz x s := rfl
theorem exec_spopc (s : State) {x} : exec (.spopc x) s = execSpopc x s := rfl
theorem exec_sbfe (s : State) {x} : exec (.sbfe x) s = execSbfe x s := rfl
theorem exec_sbfi (s : State) {x} : exec (.sbfi x) s = execSbfi x s := rfl
theorem exec_vadd (s : State) {x} : exec (.vadd x) s = execVadd x s := rfl
theorem exec_vsub (s : State) {x} : exec (.vsub x) s = execVsub x s := rfl
theorem exec_vmul (s : State) {x} : exec (.vmul x) s = execVmul x s := rfl
theorem exec_vmad (s : State) {x} : exec (.vmad x) s = execVmad x s := rfl
theorem exec_vmulh (s : State) {x} : exec (.vmulh x) s = execVmulh x s := rfl
theorem exec_vand (s : State) {x} : exec (.vand x) s = execVand x s := rfl
theorem exec_vor (s : State) {x} : exec (.vor x) s = execVor x s := rfl
theorem exec_vxor (s : State) {x} : exec (.vxor x) s = execVxor x s := rfl
theorem exec_vnot (s : State) {x} : exec (.vnot x) s = execVnot x s := rfl
theorem exec_vshl (s : State) {x} : exec (.vshl x) s = execVshl x s := rfl
theorem exec_vshr (s : State) {x} : exec (.vshr x) s = execVshr x s := rfl
theorem exec_vsar (s : State) {x} : exec (.vsar x) s = execVsar x s := rfl
theorem exec_vmin (s : State) {x} : exec (.vmin x) s = execVmin x s := rfl
theorem exec_vmax (s : State) {x} : exec (.vmax x) s = execVmax x s := rfl
theorem exec_vabs (s : State) {x} : exec (.vabs x) s = execVabs x s := rfl
theorem exec_vneg (s : State) {x} : exec (.vneg x) s = execVneg x s := rfl
theorem exec_vsel (s : State) {x} : exec (.vsel x) s = execVsel x s := rfl
theorem exec_vclz (s : State) {x} : exec (.vclz x) s = execVclz x s := rfl
theorem exec_vpopc (s : State) {x} : exec (.vpopc x) s = execVpopc x s := rfl
theorem exec_vbfe (s : State) {x} : exec (.vbfe x) s = execVbfe x s := rfl
theorem exec_vbfi (s : State) {x} : exec (.vbfi x) s = execVbfi x s := rfl
theorem exec_vdot4 (s : State) {x} : exec (.vdot4 x) s = execVdot4 x s := rfl
theorem exec_vmov (s : State) {x} : exec (.vmov x) s = execVmov x s := rfl
theorem exec_vlane (s : State) {x} : exec (.vlane x) s = execVlane x s := rfl
theorem exec_vaddc (s : State) {x} : exec (.vaddc x) s = execVaddc x s := rfl
theorem exec_vsadd (s : State) {x} : exec (.vsadd x) s = execVsadd x s := rfl
theorem exec_fadd (s : State) {x} : exec (.fadd x) s = execFadd x s := rfl
theorem exec_fsub (s : State) {x} : exec (.fsub x) s = execFsub x s := rfl
theorem exec_fmul (s : State) {x} : exec (.fmul x) s = execFmul x s := rfl
theorem exec_ffma (s : State) {x} : exec (.ffma x) s = execFfma x s := rfl
theorem exec_fmin (s : State) {x} : exec (.fmin x) s = execFmin x s := rfl
theorem exec_fmax (s : State) {x} : exec (.fmax x) s = execFmax x s := rfl
theorem exec_fabs (s : State) {x} : exec (.fabs x) s = execFabs x s := rfl
theorem exec_fneg (s : State) {x} : exec (.fneg x) s = execFneg x s := rfl
theorem exec_frcp (s : State) {x} : exec (.frcp x) s = execFrcp x s := rfl
theorem exec_frsq (s : State) {x} : exec (.frsq x) s = execFrsq x s := rfl
theorem exec_fsqrt (s : State) {x} : exec (.fsqrt x) s = execFsqrt x s := rfl
theorem exec_fdiv (s : State) {x} : exec (.fdiv x) s = execFdiv x s := rfl
theorem exec_fexp2 (s : State) {x} : exec (.fexp2 x) s = execFexp2 x s := rfl
theorem exec_flog2 (s : State) {x} : exec (.flog2 x) s = execFlog2 x s := rfl
theorem exec_fsin (s : State) {x} : exec (.fsin x) s = execFsin x s := rfl
theorem exec_fcos (s : State) {x} : exec (.fcos x) s = execFcos x s := rfl
theorem exec_ftanh (s : State) {x} : exec (.ftanh x) s = execFtanh x s := rfl
theorem exec_fclass (s : State) {x} : exec (.fclass x) s = execFclass x s := rfl
theorem exec_fscale (s : State) {x} : exec (.fscale x) s = execFscale x s := rfl
theorem exec_frnd (s : State) {x} : exec (.frnd x) s = execFrnd x s := rfl
theorem exec_ffrac (s : State) {x} : exec (.ffrac x) s = execFfrac x s := rfl
theorem exec_fminp (s : State) {x} : exec (.fminp x) s = execFminp x s := rfl
theorem exec_fmaxp (s : State) {x} : exec (.fmaxp x) s = execFmaxp x s := rfl
theorem exec_fdot2 (s : State) {x} : exec (.fdot2 x) s = execFdot2 x s := rfl
theorem exec_fcvt (s : State) {x} : exec (.fcvt x) s = execFcvt x s := rfl
theorem exec_ftoi (s : State) {x} : exec (.ftoi x) s = execFtoi x s := rfl
theorem exec_itof (s : State) {x} : exec (.itof x) s = execItof x s := rfl
theorem exec_iext (s : State) {x} : exec (.iext x) s = execIext x s := rfl
theorem exec_fpack (s : State) {x} : exec (.fpack x) s = execFpack x s := rfl
theorem exec_funpk (s : State) {x} : exec (.funpk x) s = execFunpk x s := rfl
theorem exec_sclq (s : State) {x} : exec (.sclq x) s = execSclq x s := rfl
theorem exec_bqnt (s : State) {x} : exec (.bqnt x) s = execBqnt x s := rfl
theorem exec_bdq (s : State) {x} : exec (.bdq x) s = execBdq x s := rfl
theorem exec_bfly (s : State) {x} : exec (.bfly x) s = execBfly x s := rfl
theorem exec_shfl (s : State) {x} : exec (.shfl x) s = execShfl x s := rfl
theorem exec_lrot (s : State) {x} : exec (.lrot x) s = execLrot x s := rfl
theorem exec_lbcst (s : State) {x} : exec (.lbcst x) s = execLbcst x s := rfl
theorem exec_vred (s : State) {x} : exec (.vred x) s = execVred x s := rfl
theorem exec_vscan (s : State) {x} : exec (.vscan x) s = execVscan x s := rfl
theorem exec_lcmp (s : State) {x} : exec (.lcmp x) s = execLcmp x s := rfl
theorem exec_ld (s : State) {x} : exec (.ld x) s = execLd x s := rfl
theorem exec_st (s : State) {x} : exec (.st x) s = execSt x s := rfl
theorem exec_lds (s : State) {x} : exec (.lds x) s = execLds x s := rfl
theorem exec_sts (s : State) {x} : exec (.sts x) s = execSts x s := rfl
theorem exec_ldv (s : State) {x} : exec (.ldv x) s = execLdv x s := rfl
theorem exec_stv (s : State) {x} : exec (.stv x) s = execStv x s := rfl
theorem exec_ldt (s : State) {x} : exec (.ldt x) s = execLdt x s := rfl
theorem exec_ldf (s : State) {x} : exec (.ldf x) s = execLdf x s := rfl
theorem exec_stf (s : State) {x} : exec (.stf x) s = execStf x s := rfl
theorem exec_trx (s : State) {x} : exec (.trx x) s = execTrx x s := rfl
theorem exec_pref (s : State) {x} : exec (.pref x) s = execPref x s := rfl
theorem exec_ldc (s : State) {x} : exec (.ldc x) s = execLdc x s := rfl
theorem exec_aadd (s : State) {x} : exec (.aadd x) s = execAadd x s := rfl
theorem exec_aand (s : State) {x} : exec (.aand x) s = execAand x s := rfl
theorem exec_aor (s : State) {x} : exec (.aor x) s = execAor x s := rfl
theorem exec_axor (s : State) {x} : exec (.axor x) s = execAxor x s := rfl
theorem exec_amin (s : State) {x} : exec (.amin x) s = execAmin x s := rfl
theorem exec_amax (s : State) {x} : exec (.amax x) s = execAmax x s := rfl
theorem exec_axch (s : State) {x} : exec (.axch x) s = execAxch x s := rfl
theorem exec_acas (s : State) {x} : exec (.acas x) s = execAcas x s := rfl
theorem exec_ainc (s : State) {x} : exec (.ainc x) s = execAinc x s := rfl
theorem exec_ctb (s : State) {x} : exec (.ctb x) s = execCtb x s := rfl
theorem exec_ctbn (s : State) {x} : exec (.ctbn x) s = execCtbn x s := rfl
theorem exec_domarm (s : State) {x} : exec (.domarm x) s = execDomarm x s := rfl
theorem exec_domclose (s : State) {x} : exec (.domclose x) s = execDomclose x s := rfl
theorem exec_domq (s : State) {x} : exec (.domq x) s = execDomq x s := rfl
theorem exec_domqWait (s : State) {x} : exec (.domqWait x) s = execDomqWait x s := rfl
theorem exec_ctbm (s : State) {x} : exec (.ctbm x) s = execCtbm x s := rfl
theorem exec_fence (s : State) {x} : exec (.fence x) s = execFence x s := rfl
theorem exec_wait (s : State) {x} : exec (.wait x) s = execWait x s := rfl
theorem exec_batch (s : State) {x} : exec (.batch x) s = execBatch x s := rfl
theorem exec_waitb (s : State) {x} : exec (.waitb x) s = execWaitb x s := rfl
theorem exec_bar (s : State) {x} : exec (.bar x) s = execBar x s := rfl
theorem exec_cbar (s : State) {x} : exec (.cbar x) s = execCbar x s := rfl
theorem exec_syarm (s : State) {x} : exec (.syarm x) s = execSyarm x s := rfl
theorem exec_syarv (s : State) {x} : exec (.syarv x) s = execSyarv x s := rfl
theorem exec_sywait (s : State) {x} : exec (.sywait x) s = execSywait x s := rfl
theorem exec_syflg (s : State) {x} : exec (.syflg x) s = execSyflg x s := rfl
theorem exec_waitc (s : State) {x} : exec (.waitc x) s = execWaitc x s := rfl
theorem exec_signal (s : State) {x} : exec (.signal x) s = execSignal x s := rfl
theorem exec_sytst (s : State) {x} : exec (.sytst x) s = execSytst x s := rfl
theorem exec_rld (s : State) {x} : exec (.rld x) s = execRld x s := rfl
theorem exec_rst (s : State) {x} : exec (.rst x) s = execRst x s := rfl
theorem exec_ratm (s : State) {x} : exec (.ratm x) s = execRatm x s := rfl
theorem exec_rsigCtr (s : State) {x} : exec (.rsigCtr x) s = execRsigCtr x s := rfl
theorem exec_rsigSync (s : State) {x} : exec (.rsigSync x) s = execRsigSync x s := rfl
theorem exec_cpy (s : State) {x} : exec (.cpy x) s = execCpy x s := rfl
theorem exec_cpym (s : State) {x} : exec (.cpym x) s = execCpym x s := rfl
theorem exec_cpy2d (s : State) {x} : exec (.cpy2d x) s = execCpy2d x s := rfl
theorem exec_swapf (s : State) {x} : exec (.swapf x) s = execSwapf x s := rfl
theorem exec_append (s : State) {x} : exec (.append x) s = execAppend x s := rfl
theorem exec_take (s : State) {x} : exec (.take x) s = execTake x s := rfl
theorem exec_wlq (s : State) {x} : exec (.wlq x) s = execWlq x s := rfl
theorem exec_quiet (s : State) {x} : exec (.quiet x) s = execQuiet x s := rfl
theorem exec_launch (s : State) {x} : exec (.launch x) s = execLaunch x s := rfl
theorem exec_mxalloc (s : State) {x} : exec (.mxalloc x) s = execMxalloc x s := rfl
theorem exec_mxfree (s : State) {x} : exec (.mxfree x) s = execMxfree x s := rfl
theorem exec_mxzero (s : State) {x} : exec (.mxzero x) s = execMxzero x s := rfl
theorem exec_mxzeroAbs (s : State) {x} : exec (.mxzeroAbs x) s = execMxzeroAbs x s := rfl
theorem exec_mxld (s : State) {x} : exec (.mxld x) s = execMxld x s := rfl
theorem exec_mxmma (s : State) {x} : exec (.mxmma x) s = execMxmma x s := rfl
theorem exec_mxfin (s : State) {x} : exec (.mxfin x) s = execMxfin x s := rfl
theorem exec_mxst (s : State) {x} : exec (.mxst x) s = execMxst x s := rfl
theorem exec_mxgang (s : State) {x} : exec (.mxgang x) s = execMxgang x s := rfl
theorem exec_mxrow (s : State) {x} : exec (.mxrow x) s = execMxrow x s := rfl
theorem exec_mxrowFlags (s : State) {x} : exec (.mxrowFlags x) s = execMxrowFlags x s := rfl
theorem exec_mxshpQ (s : State) {x} : exec (.mxshpQ x) s = execMxshpQ x s := rfl
theorem exec_mxshpGen (s : State) {x} : exec (.mxshpGen x) s = execMxshpGen x s := rfl
theorem exec_pndq (s : State) {x} : exec (.pndq x) s = execPndq x s := rfl
theorem exec_pndwait (s : State) {x} : exec (.pndwait x) s = execPndwait x s := rfl
theorem exec_vshape (s : State) {x} : exec (.vshape x) s = execVshape x s := rfl
theorem exec_vshq (s : State) {x} : exec (.vshq x) s = execVshq x s := rfl
theorem exec_reservedEncoding (s : State) {code} {words} : exec (.reservedEncoding code words) s = execReservedEncoding code words s := rfl
theorem exec_hgNop (s : State) : exec (.hgNop) s = execHgNop s := rfl
theorem exec_hgLi (s : State) {d} {imm} : exec (.hgLi d imm) s = execHgLi d imm s := rfl
theorem exec_hgLui (s : State) {d} {imm} : exec (.hgLui d imm) s = execHgLui d imm s := rfl
theorem exec_hgMov (s : State) {d} {a} : exec (.hgMov d a) s = execHgMov d a s := rfl
theorem exec_hgAdd (s : State) {d} {a} {b} : exec (.hgAdd d a b) s = execHgAdd d a b s := rfl
theorem exec_hgAddi (s : State) {d} {a} {imm} : exec (.hgAddi d a imm) s = execHgAddi d a imm s := rfl
theorem exec_hgSub (s : State) {d} {a} {b} : exec (.hgSub d a b) s = execHgSub d a b s := rfl
theorem exec_hgMul (s : State) {d} {a} {b} : exec (.hgMul d a b) s = execHgMul d a b s := rfl
theorem exec_hgShl (s : State) {d} {a} {n} : exec (.hgShl d a n) s = execHgShl d a n s := rfl
theorem exec_hgShr (s : State) {d} {a} {n} : exec (.hgShr d a n) s = execHgShr d a n s := rfl
theorem exec_hgAnd (s : State) {d} {a} {b} : exec (.hgAnd d a b) s = execHgAnd d a b s := rfl
theorem exec_hgOr (s : State) {d} {a} {b} : exec (.hgOr d a b) s = execHgOr d a b s := rfl
theorem exec_hgMin (s : State) {d} {a} {b} : exec (.hgMin d a b) s = execHgMin d a b s := rfl
theorem exec_hgMax (s : State) {d} {a} {b} : exec (.hgMax d a b) s = execHgMax d a b s := rfl
theorem exec_hgSlt (s : State) {d} {a} {b} : exec (.hgSlt d a b) s = execHgSlt d a b s := rfl
theorem exec_hgSlti (s : State) {d} {a} {imm} : exec (.hgSlti d a imm) s = execHgSlti d a imm s := rfl
theorem exec_hgSeq (s : State) {d} {a} {b} : exec (.hgSeq d a b) s = execHgSeq d a b s := rfl
theorem exec_hgSeqi (s : State) {d} {a} {imm} : exec (.hgSeqi d a imm) s = execHgSeqi d a imm s := rfl
theorem exec_hgLdq (s : State) {d} {a} {f} : exec (.hgLdq d a f) s = execHgLdq d a f s := rfl
theorem exec_hgLdk (s : State) {d} {a} {f} : exec (.hgLdk d a f) s = execHgLdk d a f s := rfl
theorem exec_hgLde (s : State) {d} {f} : exec (.hgLde d f) s = execHgLde d f s := rfl
theorem exec_hgLdw (s : State) {d} {n} : exec (.hgLdw d n) s = execHgLdw d n s := rfl
theorem exec_hgStw (s : State) {a} {n} : exec (.hgStw a n) s = execHgStw a n s := rfl
theorem exec_hgNq (s : State) {d} : exec (.hgNq d) s = execHgNq d s := rfl
theorem exec_hgFit (s : State) {d} {a} {b} : exec (.hgFit d a b) s = execHgFit d a b s := rfl
theorem exec_hgBz (s : State) {a} {imm} : exec (.hgBz a imm) s = execHgBz a imm s := rfl
theorem exec_hgBnz (s : State) {a} {imm} : exec (.hgBnz a imm) s = execHgBnz a imm s := rfl
theorem exec_hgBr (s : State) {imm} : exec (.hgBr imm) s = execHgBr imm s := rfl
theorem exec_hgForq (s : State) {d} {imm} : exec (.hgForq d imm) s = execHgForq d imm s := rfl
theorem exec_hgNextq (s : State) {d} {imm} : exec (.hgNextq d imm) s = execHgNextq d imm s := rfl
theorem exec_hgArgmin (s : State) {d} {f1} {f2} : exec (.hgArgmin d f1 f2) s = execHgArgmin d f1 f2 s := rfl
theorem exec_hgArgmax (s : State) {d} {f1} {f2} : exec (.hgArgmax d f1 f2) s = execHgArgmax d f1 f2 s := rfl
theorem exec_hgDecideD (s : State) {a} {b} : exec (.hgDecideD a b) s = execHgDecideD a b s := rfl
theorem exec_hgDecideP (s : State) {n} : exec (.hgDecideP n) s = execHgDecideP n s := rfl
theorem exec_hgDecideF (s : State) {n} : exec (.hgDecideF n) s = execHgDecideF n s := rfl
theorem exec_loadDataArrival (s : State) {strand} {op} : exec (.loadDataArrival strand op) s = execLoadDataArrival strand op s := rfl
theorem exec_symbolResolution (s : State) {strand} {sym} : exec (.symbolResolution strand sym) s = execSymbolResolution strand sym s := rfl
theorem exec_storePerformed (s : State) {strand} {op} : exec (.storePerformed strand op) s = execStorePerformed strand op s := rfl
theorem exec_strandLeavesExited (s : State) {strand} : exec (.strandLeavesExited strand) s = execStrandLeavesExited strand s := rfl
theorem exec_drainingEnd (s : State) {quarter} {start} : exec (.drainingEnd quarter start) s = execDrainingEnd quarter start s := rfl
theorem exec_slotDrowsy (s : State) {strand} {slot} : exec (.slotDrowsy strand slot) s = execSlotDrowsy strand slot s := rfl
theorem exec_sleepExpiry (s : State) {strand} {split} : exec (.sleepExpiry strand split) s = execSleepExpiry strand split s := rfl
theorem exec_jointOperationStart (s : State) {cluster} {entry} : exec (.jointOperationStart cluster entry) s = execJointOperationStart cluster entry s := rfl
theorem exec_jointOperationComplete (s : State) {joint} : exec (.jointOperationComplete joint) s = execJointOperationComplete joint s := rfl
theorem exec_bandComplete (s : State) {strand} {op} : exec (.bandComplete strand op) s = execBandComplete strand op s := rfl
theorem exec_mxOperationComplete (s : State) {strand} {op} : exec (.mxOperationComplete strand op) s = execMxOperationComplete strand op s := rfl
theorem exec_copyComplete (s : State) {strand} {op} : exec (.copyComplete strand op) s = execCopyComplete strand op s := rfl
theorem exec_cpymReceiverArrival (s : State) {strand} {op} {core} : exec (.cpymReceiverArrival strand op core) s = execCpymReceiverArrival strand op core s := rfl
theorem exec_compactionMove (s : State) {quarter} : exec (.compactionMove quarter) s = execCompactionMove quarter s := rfl
theorem exec_scratchpadCompaction (s : State) {core} : exec (.scratchpadCompaction core) s = execScratchpadCompaction core s := rfl
theorem exec_swapSector (s : State) {die} : exec (.swapSector die) s = execSwapSector die s := rfl
theorem exec_coreClaspHoldExpiry (s : State) {core} {idx} : exec (.coreClaspHoldExpiry core idx) s = execCoreClaspHoldExpiry core idx s := rfl
theorem exec_nodeArrivalSlice (s : State) {idx} : exec (.nodeArrivalSlice idx) s = execNodeArrivalSlice idx s := rfl
theorem exec_spillRefill (s : State) {slice} {dom} : exec (.spillRefill slice dom) s = execSpillRefill slice dom s := rfl
theorem exec_quiescence (s : State) {source} : exec (.quiescence source) s = execQuiescence source s := rfl
theorem exec_periodRollover (s : State) {part} : exec (.periodRollover part) s = execPeriodRollover part s := rfl
theorem exec_notifyWrite (s : State) {part} {q} {w} : exec (.notifyWrite part q w) s = execNotifyWrite part q w s := rfl
theorem exec_packetAccept (s : State) {q} : exec (.packetAccept q) s = execPacketAccept q s := rfl
theorem exec_dependencePoll (s : State) {q} {idx} : exec (.dependencePoll q idx) s = execDependencePoll q idx s := rfl
theorem exec_launchPacket (s : State) {q} {idx} : exec (.launchPacket q idx) s = execLaunchPacket q idx s := rfl
theorem exec_pipelinePacket (s : State) {q} {idx} : exec (.pipelinePacket q idx) s = execPipelinePacket q idx s := rfl
theorem exec_barrierAndPacket (s : State) {q} {idx} : exec (.barrierAndPacket q idx) s = execBarrierAndPacket q idx s := rfl
theorem exec_signalPacket (s : State) {q} {idx} : exec (.signalPacket q idx) s = execSignalPacket q idx s := rfl
theorem exec_domainArmPacket (s : State) {q} {idx} : exec (.domainArmPacket q idx) s = execDomainArmPacket q idx s := rfl
theorem exec_dispatchDecision (s : State) {die} {part} : exec (.dispatchDecision die part) s = execDispatchDecision die part s := rfl
theorem exec_preemptDecision (s : State) {die} {part} : exec (.preemptDecision die part) s = execPreemptDecision die part s := rfl
theorem exec_faultDecision (s : State) {die} : exec (.faultDecision die) s = execFaultDecision die s := rfl
theorem exec_policyOverrun (s : State) {die} : exec (.policyOverrun die) s = execPolicyOverrun die s := rfl
theorem exec_policyLoad (s : State) {part} : exec (.policyLoad part) s = execPolicyLoad part s := rfl
theorem exec_policyRevert (s : State) {part} : exec (.policyRevert part) s = execPolicyRevert part s := rfl
theorem exec_imageVerdict (s : State) {part} : exec (.imageVerdict part) s = execImageVerdict part s := rfl
theorem exec_ack (s : State) {p} {dup} : exec (.ack p dup) s = execAck p dup s := rfl
theorem exec_loadRequest (s : State) {p} : exec (.loadRequest p) s = execLoadRequest p s := rfl
theorem exec_loadResponse (s : State) {p} : exec (.loadResponse p) s = execLoadResponse p s := rfl
theorem exec_storePacket (s : State) {p} : exec (.storePacket p) s = execStorePacket p s := rfl
theorem exec_atomicRequest (s : State) {p} : exec (.atomicRequest p) s = execAtomicRequest p s := rfl
theorem exec_atomicResponse (s : State) {p} : exec (.atomicResponse p) s = execAtomicResponse p s := rfl
theorem exec_nodePacket (s : State) {p} : exec (.nodePacket p) s = execNodePacket p s := rfl
theorem exec_rootPacket (s : State) {p} : exec (.rootPacket p) s = execRootPacket p s := rfl
theorem exec_counterSignal (s : State) {p} : exec (.counterSignal p) s = execCounterSignal p s := rfl
theorem exec_syncArrival (s : State) {p} : exec (.syncArrival p) s = execSyncArrival p s := rfl
theorem exec_notReady (s : State) {p} : exec (.notReady p) s = execNotReady p s := rfl
theorem exec_notReadyResend (s : State) {idx} : exec (.notReadyResend idx) s = execNotReadyResend idx s := rfl
theorem exec_notReadyTimeout (s : State) {idx} : exec (.notReadyTimeout idx) s = execNotReadyTimeout idx s := rfl
theorem exec_portClaspArrival (s : State) {dev} {p} : exec (.portClaspArrival dev p) s = execPortClaspArrival dev p s := rfl
theorem exec_sliceHoldExpiry (s : State) {slice} {idx} : exec (.sliceHoldExpiry slice idx) s = execSliceHoldExpiry slice idx s := rfl
theorem exec_portClaspHoldExpiry (s : State) {plane} {dev} {idx} : exec (.portClaspHoldExpiry plane dev idx) s = execPortClaspHoldExpiry plane dev idx s := rfl
theorem exec_podHomeHoldExpiry (s : State) {slice} {idx} : exec (.podHomeHoldExpiry slice idx) s = execPodHomeHoldExpiry slice idx s := rfl
theorem exec_ueNotifyWrite (s : State) {part} {k} {w} : exec (.ueNotifyWrite part k w) s = execUeNotifyWrite part k w s := rfl
theorem exec_ueWrite (s : State) {part} {k} : exec (.ueWrite part k) s = execUeWrite part k s := rfl
theorem exec_ueRead (s : State) {part} {k} : exec (.ueRead part k) s = execUeRead part k s := rfl
theorem exec_ueFetchAndAdd (s : State) {part} {k} : exec (.ueFetchAndAdd part k) s = execUeFetchAndAdd part k s := rfl
theorem exec_ueCompareAndSwap (s : State) {part} {k} : exec (.ueCompareAndSwap part k) s = execUeCompareAndSwap part k s := rfl
theorem exec_ueEntryComplete (s : State) {part} {k} {idx} {data} : exec (.ueEntryComplete part k idx data) s = execUeEntryComplete part k idx data s := rfl
theorem exec_ueRetransmitTimeout (s : State) {part} {k} {idx} : exec (.ueRetransmitTimeout part k idx) s = execUeRetransmitTimeout part k idx s := rfl
theorem exec_pathTableUpdate (s : State) {part} {peer} : exec (.pathTableUpdate part peer) s = execPathTableUpdate part peer s := rfl
theorem exec_entropyExclusionExpiry (s : State) {part} {peer} {entropy} : exec (.entropyExclusionExpiry part peer entropy) s = execEntropyExclusionExpiry part peer entropy s := rfl
theorem exec_hostAccess (s : State) {a} : exec (.hostAccess a) s = execHostAccess a s := rfl
theorem exec_frameCrcFailure (s : State) {port} {again} : exec (.frameCrcFailure port again) s = execFrameCrcFailure port again s := rfl
theorem exec_negativeAcknowledgment (s : State) {port} {frame} : exec (.negativeAcknowledgment port frame) s = execNegativeAcknowledgment port frame s := rfl
theorem exec_laneLoss (s : State) {port} {lane} : exec (.laneLoss port lane) s = execLaneLoss port lane s := rfl
theorem exec_laneRetrainDone (s : State) {port} : exec (.laneRetrainDone port) s = execLaneRetrainDone port s := rfl
theorem exec_portDown (s : State) {port} {detail} : exec (.portDown port detail) s = execPortDown port detail s := rfl
theorem exec_livePlaneAnnouncement (s : State) {dev} {incarn} {planes} : exec (.livePlaneAnnouncement dev incarn planes) s = execLivePlaneAnnouncement dev incarn planes s := rfl
theorem exec_announcementTimer (s : State) : exec (.announcementTimer) s = execAnnouncementTimer s := rfl
theorem exec_recoveryQuery (s : State) {dev} {plane} {via} : exec (.recoveryQuery dev plane via) s = execRecoveryQuery dev plane via s := rfl
theorem exec_recoveryAnswer (s : State) {dev} {plane} {performed} : exec (.recoveryAnswer dev plane performed) s = execRecoveryAnswer dev plane performed s := rfl
theorem exec_recoveryTimerExpiry (s : State) {dev} {plane} {seq} : exec (.recoveryTimerExpiry dev plane seq) s = execRecoveryTimerExpiry dev plane seq s := rfl
theorem exec_peerLostTimeout (s : State) {dev} : exec (.peerLostTimeout dev) s = execPeerLostTimeout dev s := rfl
theorem exec_staleAnswer (s : State) {p} : exec (.staleAnswer p) s = execStaleAnswer p s := rfl
theorem exec_refusedAnswer (s : State) {p} {faults} : exec (.refusedAnswer p faults) s = execRefusedAnswer p faults s := rfl
theorem exec_deviceReset (s : State) {flash} {staging} : exec (.deviceReset flash staging) s = execDeviceReset flash staging s := rfl
theorem exec_firmwareFault (s : State) {flash} {staging} : exec (.firmwareFault flash staging) s = execFirmwareFault flash staging s := rfl
theorem exec_managementWrite (s : State) {csr} {v} : exec (.managementWrite csr v) s = execManagementWrite csr v s := rfl
theorem exec_coreLeavesPartition (s : State) {part} {core} : exec (.coreLeavesPartition part core) s = execCoreLeavesPartition part core s := rfl
theorem exec_scratchClearComplete (s : State) {core} : exec (.scratchClearComplete core) s = execScratchClearComplete core s := rfl
theorem exec_attreqWrite (s : State) {part} {v} : exec (.attreqWrite part v) s = execAttreqWrite part v s := rfl
theorem exec_attestationReport (s : State) {selfTest} : exec (.attestationReport selfTest) s = execAttestationReport selfTest s := rfl
theorem exec_capWrite (s : State) {w} : exec (.capWrite w) s = execCapWrite w s := rfl
theorem exec_powerThrottle (s : State) {meas} : exec (.powerThrottle meas) s = execPowerThrottle meas s := rfl
theorem exec_frreadWrite (s : State) {part} {w} : exec (.frreadWrite part w) s = execFrreadWrite part w s := rfl
theorem exec_frresumeWrite (s : State) {part} {w} : exec (.frresumeWrite part w) s = execFrresumeWrite part w s := rfl
theorem exec_faultGroupWrite (s : State) {part} : exec (.faultGroupWrite part) s = execFaultGroupWrite part s := rfl
theorem exec_patrolScrub (s : State) {space} {addr} : exec (.patrolScrub space addr) s = execPatrolScrub space addr s := rfl
theorem exec_saveComplete (s : State) {wg} : exec (.saveComplete wg) s = execSaveComplete wg s := rfl
theorem exec_saveTimeout (s : State) {wg} : exec (.saveTimeout wg) s = execSaveTimeout wg s := rfl
theorem exec_restoreComplete (s : State) {wg} : exec (.restoreComplete wg) s = execRestoreComplete wg s := rfl
theorem exec_hangWatchdog (s : State) {strand} : exec (.hangWatchdog strand) s = execHangWatchdog strand s := rfl
theorem exec_breakpointMatch (s : State) {strand} {split} : exec (.breakpointMatch strand split) s = execBreakpointMatch strand split s := rfl
theorem exec_watchpointMatch (s : State) {strand} {split} : exec (.watchpointMatch strand split) s = execWatchpointMatch strand split s := rfl
theorem exec_agentEntry (s : State) {quarter} : exec (.agentEntry quarter) s = execAgentEntry quarter s := rfl
theorem exec_stepReentry (s : State) {quarter} : exec (.stepReentry quarter) s = execStepReentry quarter s := rfl
theorem exec_qstopStop (s : State) {quarter} : exec (.qstopStop quarter) s = execQstopStop quarter s := rfl
theorem exec_qstopResume (s : State) {quarter} : exec (.qstopResume quarter) s = execQstopResume quarter s := rfl
theorem exec_dbgStop (s : State) {part} : exec (.dbgStop part) s = execDbgStop part s := rfl
theorem exec_dbgDump (s : State) {part} : exec (.dbgDump part) s = execDbgDump part s := rfl
theorem exec_dbgEnter (s : State) {part} {slot} : exec (.dbgEnter part slot) s = execDbgEnter part slot s := rfl
theorem exec_dbgUnhalt (s : State) {part} {slot} : exec (.dbgUnhalt part slot) s = execDbgUnhalt part slot s := rfl
theorem exec_dbgResume (s : State) {part} : exec (.dbgResume part) s = execDbgResume part s := rfl
theorem exec_dbgreplyWrite (s : State) {part} {v} : exec (.dbgreplyWrite part v) s = execDbgreplyWrite part v s := rfl
theorem exec_dumpComplete (s : State) {quarter} : exec (.dumpComplete quarter) s = execDumpComplete quarter s := rfl
theorem exec_traceSample (s : State) {quarter} : exec (.traceSample quarter) s = execTraceSample quarter s := rfl
theorem exec_mmioRegisterWrite (s : State) {part} {off} {v} : exec (.mmioRegisterWrite part off v) s = execMmioRegisterWrite part off v s := rfl
theorem exec_walkComplete (s : State) {w} : exec (.walkComplete w) s = execWalkComplete w s := rfl
theorem exec_instructionFetchComplete (s : State) {strand} {split} : exec (.instructionFetchComplete strand split) s = execInstructionFetchComplete strand split s := rfl
theorem exec_uetPacketArrival (s : State) {p} : exec (.uetPacketArrival p) s = execUetPacketArrival p s := rfl
theorem exec_linkTrainingComplete (s : State) {port} : exec (.linkTrainingComplete port) s = execLinkTrainingComplete port s := rfl

end Sys2Proof.Machine
end

