-- ==== Sys2Proof/Laws/Fabric.lean ====
section
/-! SUPPORT. What each update of the fabric leaves of the state, one lemma per field and update, and what the receipt of a packet in
its turn comes to. -/

namespace Sys2Proof.Machine

open Sys2Proof

/-! ## State.onFab -/

@[simp] theorem State.onFab_clock (s : State) (f : Fabric → Fabric) : (s.onFab f).clock = s.clock := rfl
@[simp] theorem State.onFab_agenda (s : State) (f : Fabric → Fabric) : (s.onFab f).agenda = s.agenda := rfl
@[simp] theorem State.onFab_cur (s : State) (f : Fabric → Fabric) : (s.onFab f).cur = s.cur := rfl
@[simp] theorem State.onFab_die (s : State) (f : Fabric → Fabric) : (s.onFab f).die = s.die := rfl
@[simp] theorem State.onFab_free (s : State) (f : Fabric → Fabric) : (s.onFab f).free = s.free := rfl
@[simp] theorem State.onFab_flostra (s : State) (f : Fabric → Fabric) : (s.onFab f).flostra = s.flostra := rfl
@[simp] theorem State.onFab_spad (s : State) (f : Fabric → Fabric) : (s.onFab f).spad = s.spad := rfl
@[simp] theorem State.onFab_vault (s : State) (f : Fabric → Fabric) : (s.onFab f).vault = s.vault := rfl
@[simp] theorem State.onFab_hostMem (s : State) (f : Fabric → Fabric) : (s.onFab f).hostMem = s.hostMem := rfl
@[simp] theorem State.onFab_strands (s : State) (f : Fabric → Fabric) : (s.onFab f).strands = s.strands := rfl
@[simp] theorem State.onFab_cores (s : State) (f : Fabric → Fabric) : (s.onFab f).cores = s.cores := rfl
@[simp] theorem State.onFab_quarters (s : State) (f : Fabric → Fabric) : (s.onFab f).quarters = s.quarters := rfl
@[simp] theorem State.onFab_wgs (s : State) (f : Fabric → Fabric) : (s.onFab f).wgs = s.wgs := rfl
@[simp] theorem State.onFab_wgNext (s : State) (f : Fabric → Fabric) : (s.onFab f).wgNext = s.wgNext := rfl
@[simp] theorem State.onFab_sources (s : State) (f : Fabric → Fabric) : (s.onFab f).sources = s.sources := rfl
@[simp] theorem State.onFab_srcNext (s : State) (f : Fabric → Fabric) : (s.onFab f).srcNext = s.srcNext := rfl
@[simp] theorem State.onFab_pipes (s : State) (f : Fabric → Fabric) : (s.onFab f).pipes = s.pipes := rfl
@[simp] theorem State.onFab_pkts (s : State) (f : Fabric → Fabric) : (s.onFab f).pkts = s.pkts := rfl
@[simp] theorem State.onFab_parts (s : State) (f : Fabric → Fabric) : (s.onFab f).parts = s.parts := rfl
@[simp] theorem State.onFab_dieW (s : State) (f : Fabric → Fabric) : (s.onFab f).dieW = s.dieW := rfl
@[simp] theorem State.onFab_dieE (s : State) (f : Fabric → Fabric) : (s.onFab f).dieE = s.dieE := rfl
@[simp] theorem State.onFab_doms (s : State) (f : Fabric → Fabric) : (s.onFab f).doms = s.doms := rfl
@[simp] theorem State.onFab_toSlice (s : State) (f : Fabric → Fabric) : (s.onFab f).toSlice = s.toSlice := rfl
@[simp] theorem State.onFab_slices (s : State) (f : Fabric → Fabric) : (s.onFab f).slices = s.slices := rfl
@[simp] theorem State.onFab_latches (s : State) (f : Fabric → Fabric) : (s.onFab f).latches = s.latches := rfl
@[simp] theorem State.onFab_joints (s : State) (f : Fabric → Fabric) : (s.onFab f).joints = s.joints := rfl
@[simp] theorem State.onFab_jointNext (s : State) (f : Fabric → Fabric) : (s.onFab f).jointNext = s.jointNext := rfl
@[simp] theorem State.onFab_cbars (s : State) (f : Fabric → Fabric) : (s.onFab f).cbars = s.cbars := rfl
@[simp] theorem State.onFab_boot (s : State) (f : Fabric → Fabric) : (s.onFab f).boot = s.boot := rfl
@[simp] theorem State.onFab_upsets (s : State) (f : Fabric → Fabric) : (s.onFab f).upsets = s.upsets := rfl
@[simp] theorem State.onFab_checks (s : State) (f : Fabric → Fabric) : (s.onFab f).checks = s.checks := rfl
@[simp] theorem State.onFab_retired (s : State) (f : Fabric → Fabric) : (s.onFab f).retired = s.retired := rfl
@[simp] theorem State.onFab_disabled (s : State) (f : Fabric → Fabric) : (s.onFab f).disabled = s.disabled := rfl
@[simp] theorem State.onFab_far (s : State) (f : Fabric → Fabric) : (s.onFab f).far = s.far := rfl

/-! ## State.onPort -/

@[simp] theorem State.onPort_clock (s : State) (k : Nat) (f : Port → Port) : (s.onPort k f).clock = s.clock := rfl
@[simp] theorem State.onPort_agenda (s : State) (k : Nat) (f : Port → Port) : (s.onPort k f).agenda = s.agenda := rfl
@[simp] theorem State.onPort_cur (s : State) (k : Nat) (f : Port → Port) : (s.onPort k f).cur = s.cur := rfl
@[simp] theorem State.onPort_die (s : State) (k : Nat) (f : Port → Port) : (s.onPort k f).die = s.die := rfl
@[simp] theorem State.onPort_free (s : State) (k : Nat) (f : Port → Port) : (s.onPort k f).free = s.free := rfl
@[simp] theorem State.onPort_flostra (s : State) (k : Nat) (f : Port → Port) : (s.onPort k f).flostra = s.flostra := rfl
@[simp] theorem State.onPort_spad (s : State) (k : Nat) (f : Port → Port) : (s.onPort k f).spad = s.spad := rfl
@[simp] theorem State.onPort_vault (s : State) (k : Nat) (f : Port → Port) : (s.onPort k f).vault = s.vault := rfl
@[simp] theorem State.onPort_hostMem (s : State) (k : Nat) (f : Port → Port) : (s.onPort k f).hostMem = s.hostMem := rfl
@[simp] theorem State.onPort_strands (s : State) (k : Nat) (f : Port → Port) : (s.onPort k f).strands = s.strands := rfl
@[simp] theorem State.onPort_cores (s : State) (k : Nat) (f : Port → Port) : (s.onPort k f).cores = s.cores := rfl
@[simp] theorem State.onPort_quarters (s : State) (k : Nat) (f : Port → Port) : (s.onPort k f).quarters = s.quarters := rfl
@[simp] theorem State.onPort_wgs (s : State) (k : Nat) (f : Port → Port) : (s.onPort k f).wgs = s.wgs := rfl
@[simp] theorem State.onPort_wgNext (s : State) (k : Nat) (f : Port → Port) : (s.onPort k f).wgNext = s.wgNext := rfl
@[simp] theorem State.onPort_sources (s : State) (k : Nat) (f : Port → Port) : (s.onPort k f).sources = s.sources := rfl
@[simp] theorem State.onPort_srcNext (s : State) (k : Nat) (f : Port → Port) : (s.onPort k f).srcNext = s.srcNext := rfl
@[simp] theorem State.onPort_pipes (s : State) (k : Nat) (f : Port → Port) : (s.onPort k f).pipes = s.pipes := rfl
@[simp] theorem State.onPort_pkts (s : State) (k : Nat) (f : Port → Port) : (s.onPort k f).pkts = s.pkts := rfl
@[simp] theorem State.onPort_parts (s : State) (k : Nat) (f : Port → Port) : (s.onPort k f).parts = s.parts := rfl
@[simp] theorem State.onPort_dieW (s : State) (k : Nat) (f : Port → Port) : (s.onPort k f).dieW = s.dieW := rfl
@[simp] theorem State.onPort_dieE (s : State) (k : Nat) (f : Port → Port) : (s.onPort k f).dieE = s.dieE := rfl
@[simp] theorem State.onPort_doms (s : State) (k : Nat) (f : Port → Port) : (s.onPort k f).doms = s.doms := rfl
@[simp] theorem State.onPort_toSlice (s : State) (k : Nat) (f : Port → Port) : (s.onPort k f).toSlice = s.toSlice := rfl
@[simp] theorem State.onPort_slices (s : State) (k : Nat) (f : Port → Port) : (s.onPort k f).slices = s.slices := rfl
@[simp] theorem State.onPort_latches (s : State) (k : Nat) (f : Port → Port) : (s.onPort k f).latches = s.latches := rfl
@[simp] theorem State.onPort_joints (s : State) (k : Nat) (f : Port → Port) : (s.onPort k f).joints = s.joints := rfl
@[simp] theorem State.onPort_jointNext (s : State) (k : Nat) (f : Port → Port) : (s.onPort k f).jointNext = s.jointNext := rfl
@[simp] theorem State.onPort_cbars (s : State) (k : Nat) (f : Port → Port) : (s.onPort k f).cbars = s.cbars := rfl
@[simp] theorem State.onPort_boot (s : State) (k : Nat) (f : Port → Port) : (s.onPort k f).boot = s.boot := rfl
@[simp] theorem State.onPort_upsets (s : State) (k : Nat) (f : Port → Port) : (s.onPort k f).upsets = s.upsets := rfl
@[simp] theorem State.onPort_checks (s : State) (k : Nat) (f : Port → Port) : (s.onPort k f).checks = s.checks := rfl
@[simp] theorem State.onPort_retired (s : State) (k : Nat) (f : Port → Port) : (s.onPort k f).retired = s.retired := rfl
@[simp] theorem State.onPort_disabled (s : State) (k : Nat) (f : Port → Port) : (s.onPort k f).disabled = s.disabled := rfl
@[simp] theorem State.onPort_far (s : State) (k : Nat) (f : Port → Port) : (s.onPort k f).far = s.far := rfl

/-! ## State.onFlow -/

@[simp] theorem State.onFlow_clock (s : State) (dev plane : Nat) (f : Flow → Flow) : (s.onFlow dev plane f).clock = s.clock := rfl
@[simp] theorem State.onFlow_agenda (s : State) (dev plane : Nat) (f : Flow → Flow) : (s.onFlow dev plane f).agenda = s.agenda := rfl
@[simp] theorem State.onFlow_cur (s : State) (dev plane : Nat) (f : Flow → Flow) : (s.onFlow dev plane f).cur = s.cur := rfl
@[simp] theorem State.onFlow_die (s : State) (dev plane : Nat) (f : Flow → Flow) : (s.onFlow dev plane f).die = s.die := rfl
@[simp] theorem State.onFlow_free (s : State) (dev plane : Nat) (f : Flow → Flow) : (s.onFlow dev plane f).free = s.free := rfl
@[simp] theorem State.onFlow_flostra (s : State) (dev plane : Nat) (f : Flow → Flow) : (s.onFlow dev plane f).flostra = s.flostra := rfl
@[simp] theorem State.onFlow_spad (s : State) (dev plane : Nat) (f : Flow → Flow) : (s.onFlow dev plane f).spad = s.spad := rfl
@[simp] theorem State.onFlow_vault (s : State) (dev plane : Nat) (f : Flow → Flow) : (s.onFlow dev plane f).vault = s.vault := rfl
@[simp] theorem State.onFlow_hostMem (s : State) (dev plane : Nat) (f : Flow → Flow) : (s.onFlow dev plane f).hostMem = s.hostMem := rfl
@[simp] theorem State.onFlow_strands (s : State) (dev plane : Nat) (f : Flow → Flow) : (s.onFlow dev plane f).strands = s.strands := rfl
@[simp] theorem State.onFlow_cores (s : State) (dev plane : Nat) (f : Flow → Flow) : (s.onFlow dev plane f).cores = s.cores := rfl
@[simp] theorem State.onFlow_quarters (s : State) (dev plane : Nat) (f : Flow → Flow) : (s.onFlow dev plane f).quarters = s.quarters := rfl
@[simp] theorem State.onFlow_wgs (s : State) (dev plane : Nat) (f : Flow → Flow) : (s.onFlow dev plane f).wgs = s.wgs := rfl
@[simp] theorem State.onFlow_wgNext (s : State) (dev plane : Nat) (f : Flow → Flow) : (s.onFlow dev plane f).wgNext = s.wgNext := rfl
@[simp] theorem State.onFlow_sources (s : State) (dev plane : Nat) (f : Flow → Flow) : (s.onFlow dev plane f).sources = s.sources := rfl
@[simp] theorem State.onFlow_srcNext (s : State) (dev plane : Nat) (f : Flow → Flow) : (s.onFlow dev plane f).srcNext = s.srcNext := rfl
@[simp] theorem State.onFlow_pipes (s : State) (dev plane : Nat) (f : Flow → Flow) : (s.onFlow dev plane f).pipes = s.pipes := rfl
@[simp] theorem State.onFlow_pkts (s : State) (dev plane : Nat) (f : Flow → Flow) : (s.onFlow dev plane f).pkts = s.pkts := rfl
@[simp] theorem State.onFlow_parts (s : State) (dev plane : Nat) (f : Flow → Flow) : (s.onFlow dev plane f).parts = s.parts := rfl
@[simp] theorem State.onFlow_dieW (s : State) (dev plane : Nat) (f : Flow → Flow) : (s.onFlow dev plane f).dieW = s.dieW := rfl
@[simp] theorem State.onFlow_dieE (s : State) (dev plane : Nat) (f : Flow → Flow) : (s.onFlow dev plane f).dieE = s.dieE := rfl
@[simp] theorem State.onFlow_doms (s : State) (dev plane : Nat) (f : Flow → Flow) : (s.onFlow dev plane f).doms = s.doms := rfl
@[simp] theorem State.onFlow_toSlice (s : State) (dev plane : Nat) (f : Flow → Flow) : (s.onFlow dev plane f).toSlice = s.toSlice := rfl
@[simp] theorem State.onFlow_slices (s : State) (dev plane : Nat) (f : Flow → Flow) : (s.onFlow dev plane f).slices = s.slices := rfl
@[simp] theorem State.onFlow_latches (s : State) (dev plane : Nat) (f : Flow → Flow) : (s.onFlow dev plane f).latches = s.latches := rfl
@[simp] theorem State.onFlow_joints (s : State) (dev plane : Nat) (f : Flow → Flow) : (s.onFlow dev plane f).joints = s.joints := rfl
@[simp] theorem State.onFlow_jointNext (s : State) (dev plane : Nat) (f : Flow → Flow) : (s.onFlow dev plane f).jointNext = s.jointNext := rfl
@[simp] theorem State.onFlow_cbars (s : State) (dev plane : Nat) (f : Flow → Flow) : (s.onFlow dev plane f).cbars = s.cbars := rfl
@[simp] theorem State.onFlow_boot (s : State) (dev plane : Nat) (f : Flow → Flow) : (s.onFlow dev plane f).boot = s.boot := rfl
@[simp] theorem State.onFlow_upsets (s : State) (dev plane : Nat) (f : Flow → Flow) : (s.onFlow dev plane f).upsets = s.upsets := rfl
@[simp] theorem State.onFlow_checks (s : State) (dev plane : Nat) (f : Flow → Flow) : (s.onFlow dev plane f).checks = s.checks := rfl
@[simp] theorem State.onFlow_retired (s : State) (dev plane : Nat) (f : Flow → Flow) : (s.onFlow dev plane f).retired = s.retired := rfl
@[simp] theorem State.onFlow_disabled (s : State) (dev plane : Nat) (f : Flow → Flow) : (s.onFlow dev plane f).disabled = s.disabled := rfl
@[simp] theorem State.onFlow_far (s : State) (dev plane : Nat) (f : Flow → Flow) : (s.onFlow dev plane f).far = s.far := rfl

/-! ## State.onPeer -/

@[simp] theorem State.onPeer_clock (s : State) (dev : Nat) (f : Peer → Peer) : (s.onPeer dev f).clock = s.clock := rfl
@[simp] theorem State.onPeer_agenda (s : State) (dev : Nat) (f : Peer → Peer) : (s.onPeer dev f).agenda = s.agenda := rfl
@[simp] theorem State.onPeer_cur (s : State) (dev : Nat) (f : Peer → Peer) : (s.onPeer dev f).cur = s.cur := rfl
@[simp] theorem State.onPeer_die (s : State) (dev : Nat) (f : Peer → Peer) : (s.onPeer dev f).die = s.die := rfl
@[simp] theorem State.onPeer_free (s : State) (dev : Nat) (f : Peer → Peer) : (s.onPeer dev f).free = s.free := rfl
@[simp] theorem State.onPeer_flostra (s : State) (dev : Nat) (f : Peer → Peer) : (s.onPeer dev f).flostra = s.flostra := rfl
@[simp] theorem State.onPeer_spad (s : State) (dev : Nat) (f : Peer → Peer) : (s.onPeer dev f).spad = s.spad := rfl
@[simp] theorem State.onPeer_vault (s : State) (dev : Nat) (f : Peer → Peer) : (s.onPeer dev f).vault = s.vault := rfl
@[simp] theorem State.onPeer_hostMem (s : State) (dev : Nat) (f : Peer → Peer) : (s.onPeer dev f).hostMem = s.hostMem := rfl
@[simp] theorem State.onPeer_strands (s : State) (dev : Nat) (f : Peer → Peer) : (s.onPeer dev f).strands = s.strands := rfl
@[simp] theorem State.onPeer_cores (s : State) (dev : Nat) (f : Peer → Peer) : (s.onPeer dev f).cores = s.cores := rfl
@[simp] theorem State.onPeer_quarters (s : State) (dev : Nat) (f : Peer → Peer) : (s.onPeer dev f).quarters = s.quarters := rfl
@[simp] theorem State.onPeer_wgs (s : State) (dev : Nat) (f : Peer → Peer) : (s.onPeer dev f).wgs = s.wgs := rfl
@[simp] theorem State.onPeer_wgNext (s : State) (dev : Nat) (f : Peer → Peer) : (s.onPeer dev f).wgNext = s.wgNext := rfl
@[simp] theorem State.onPeer_sources (s : State) (dev : Nat) (f : Peer → Peer) : (s.onPeer dev f).sources = s.sources := rfl
@[simp] theorem State.onPeer_srcNext (s : State) (dev : Nat) (f : Peer → Peer) : (s.onPeer dev f).srcNext = s.srcNext := rfl
@[simp] theorem State.onPeer_pipes (s : State) (dev : Nat) (f : Peer → Peer) : (s.onPeer dev f).pipes = s.pipes := rfl
@[simp] theorem State.onPeer_pkts (s : State) (dev : Nat) (f : Peer → Peer) : (s.onPeer dev f).pkts = s.pkts := rfl
@[simp] theorem State.onPeer_parts (s : State) (dev : Nat) (f : Peer → Peer) : (s.onPeer dev f).parts = s.parts := rfl
@[simp] theorem State.onPeer_dieW (s : State) (dev : Nat) (f : Peer → Peer) : (s.onPeer dev f).dieW = s.dieW := rfl
@[simp] theorem State.onPeer_dieE (s : State) (dev : Nat) (f : Peer → Peer) : (s.onPeer dev f).dieE = s.dieE := rfl
@[simp] theorem State.onPeer_doms (s : State) (dev : Nat) (f : Peer → Peer) : (s.onPeer dev f).doms = s.doms := rfl
@[simp] theorem State.onPeer_toSlice (s : State) (dev : Nat) (f : Peer → Peer) : (s.onPeer dev f).toSlice = s.toSlice := rfl
@[simp] theorem State.onPeer_slices (s : State) (dev : Nat) (f : Peer → Peer) : (s.onPeer dev f).slices = s.slices := rfl
@[simp] theorem State.onPeer_latches (s : State) (dev : Nat) (f : Peer → Peer) : (s.onPeer dev f).latches = s.latches := rfl
@[simp] theorem State.onPeer_joints (s : State) (dev : Nat) (f : Peer → Peer) : (s.onPeer dev f).joints = s.joints := rfl
@[simp] theorem State.onPeer_jointNext (s : State) (dev : Nat) (f : Peer → Peer) : (s.onPeer dev f).jointNext = s.jointNext := rfl
@[simp] theorem State.onPeer_cbars (s : State) (dev : Nat) (f : Peer → Peer) : (s.onPeer dev f).cbars = s.cbars := rfl
@[simp] theorem State.onPeer_boot (s : State) (dev : Nat) (f : Peer → Peer) : (s.onPeer dev f).boot = s.boot := rfl
@[simp] theorem State.onPeer_upsets (s : State) (dev : Nat) (f : Peer → Peer) : (s.onPeer dev f).upsets = s.upsets := rfl
@[simp] theorem State.onPeer_checks (s : State) (dev : Nat) (f : Peer → Peer) : (s.onPeer dev f).checks = s.checks := rfl
@[simp] theorem State.onPeer_retired (s : State) (dev : Nat) (f : Peer → Peer) : (s.onPeer dev f).retired = s.retired := rfl
@[simp] theorem State.onPeer_disabled (s : State) (dev : Nat) (f : Peer → Peer) : (s.onPeer dev f).disabled = s.disabled := rfl
@[simp] theorem State.onPeer_far (s : State) (dev : Nat) (f : Peer → Peer) : (s.onPeer dev f).far = s.far := rfl

/-! ## Receiving -/

/-- A frame of the device's EtherType is taken up. -/
theorem State.framed_of (s : State) (p : Pkt) (f : State → State) (h : p.etype = s.boot.etype) : s.framed p f = f s := by
  simp [State.framed, h]

/-- A number is not before itself. -/
theorem seqBefore_self (a : Word) : seqBefore a a = false := by simp [seqBefore]

/-- A packet in its turn that is done with is performed in the state that its receipt leaves, and its flow moves on (R316, R459). -/
theorem State.recv_of (s t : State) (p : Pkt) (part : Nat) (h : s.inTurn p part)
    (ha : pktAct p (s.taken p) part = (t, true)) : s.recv pktAct p = t.passed p := by
  obtain ⟨he, hd, hu, hf, hr, hs, hi, hj, hp⟩ := h
  rw [State.recv, State.framed_of _ _ _ he]
  have hn : ¬ p.tincarn ≠ s.boot.incarn := not_not.2 hi
  simp only [hd, hu, hf, hr, ← hs, seqBefore_self, ne_eq, not_true, false_or, Bool.true_eq_false, if_false, Bool.false_eq_true, if_true, ← hi]
  change State.takeInTurn (s.taken p) (pktFlow p) p _ = _
  have hm : ¬ p.tincarn ≠ (s.taken p).boot.incarn := not_not.2 hj
  rw [State.takeInTurn, State.takeNext, if_neg hm, hp]
  simp only [ha]
  rfl

/-- A packet that arrives as what it is, in its turn (R315, R316). -/
theorem State.arrivesAs_of (s t : State) (p : Pkt) (part opc : Nat) (ho : p.opc = opc) (h : s.inTurn p part)
    (ha : pktAct p (s.taken p) part = (t, true)) : s.arrivesAs opc p = t.passed p := by
  rw [State.arrivesAs, if_pos ho, s.recv_of t p part h ha]

end Sys2Proof.Machine
end

