-- ==== Sys2Proof/Laws/Maps.lean ====
section
/-! SUPPORT. What sorted maps and byte memories do: an entry read after a write, other entries unchanged, and the
canonical form kept by every memory operation. -/

namespace Sys2Proof.Machine

open Sys2Proof

/-! ## Maps -/

@[simp] theorem mapFind_nil {α : Type} (k : Nat) : mapFind ([] : List (Nat × α)) k = none := rfl
@[simp] theorem mapGet_nil {α : Type} (d : α) (k : Nat) : mapGet d [] k = d := rfl

/-- An entry just inserted is found. -/
@[simp] theorem mapFind_mapIns_same {α : Type} (k : Nat) (v : α) (m : List (Nat × α)) :
    mapFind (mapIns k v m) k = some v := by
  induction m with
  | nil => simp [mapIns, mapFind]
  | cons e t ih =>
    obtain ⟨j, w⟩ := e
    simp only [mapIns]
    split
    · simp [mapFind]
    · split
      · simp [mapFind]
      · simp_all [mapFind]

/-- An insertion leaves the other entries. -/
theorem mapFind_mapIns_other {α : Type} (k k' : Nat) (v : α) (m : List (Nat × α)) (h : k' ≠ k) :
    mapFind (mapIns k v m) k' = mapFind m k' := by
  induction m with
  | nil => simp [mapIns, mapFind, Ne.symm h]
  | cons e t ih =>
    obtain ⟨j, w⟩ := e
    simp only [mapIns]
    split
    · subst j; simp [mapFind, Ne.symm h]
    · split
      · simp only [mapFind, if_neg (Ne.symm h)]
        split
        · rw [if_neg (by omega), if_pos (by omega)]
        · rfl
      · simp only [mapFind, ih]

/-- A changed entry is found changed. -/
@[simp] theorem mapFind_mapMod_same {α : Type} (m : List (Nat × α)) (k : Nat) (f : α → α) :
    mapFind (mapMod m k f) k = (mapFind m k).map f := by
  induction m with
  | nil => rfl
  | cons e t ih =>
    obtain ⟨j, w⟩ := e
    simp only [mapMod, List.map_cons] at ih ⊢
    by_cases hj : j = k
    · simp [mapFind, hj]
    · simp only [if_neg hj, mapFind, ih]
      split <;> rfl

/-- A change leaves the other entries. -/
theorem mapFind_mapMod_other {α : Type} (m : List (Nat × α)) (k k' : Nat) (f : α → α) (h : k' ≠ k) :
    mapFind (mapMod m k f) k' = mapFind m k' := by
  induction m with
  | nil => rfl
  | cons e t ih =>
    obtain ⟨j, w⟩ := e
    simp only [mapMod, List.map_cons] at ih ⊢
    by_cases hj : j = k
    · subst hj; simp [mapFind, Ne.symm h, ih]
    · simp [mapFind, hj, ih]

/-- A key below every key of a sorted map is not in it. -/
theorem mapSorted_cons {α : Type} (j : Nat) (w : α) (t : List (Nat × α)) (h : mapSorted ((j, w) :: t) = true) :
    mapSorted t = true ∧ ∀ e ∈ t, j < e.1 := by
  induction t generalizing j w with
  | nil => simp [mapSorted]
  | cons e t ih =>
    obtain ⟨b, v⟩ := e
    simp only [mapSorted, Bool.and_eq_true, decide_eq_true_eq] at h
    refine ⟨h.2, ?_⟩
    intro x hx
    rcases List.mem_cons.mp hx with rfl | hx
    · exact h.1
    · exact lt_trans h.1 ((ih b v h.2).2 x hx)

/-- A sorted map from its head and tail. -/
theorem mapSorted_of {α : Type} (j : Nat) (w : α) (t : List (Nat × α)) (ht : mapSorted t = true) (hj : ∀ e ∈ t, j < e.1) :
    mapSorted ((j, w) :: t) = true := by
  cases t with
  | nil => rfl
  | cons e t => obtain ⟨b, v⟩ := e; simp [mapSorted, ht, hj (b, v)]

/-- The keys of an insertion. -/
theorem mapIns_mem {α : Type} (k : Nat) (v : α) (m : List (Nat × α)) (e : Nat × α) (h : e ∈ mapIns k v m) :
    e = (k, v) ∨ e ∈ m := by
  induction m with
  | nil => simpa [mapIns] using h
  | cons x t ih =>
    obtain ⟨j, w⟩ := x
    simp only [mapIns] at h
    split at h
    · rcases List.mem_cons.mp h with h | h <;> simp [h]
    · split at h
      · rcases List.mem_cons.mp h with h | h <;> simp [h]
      · rcases List.mem_cons.mp h with h | h
        · simp [h]
        · rcases ih h with h | h <;> simp [h]

/-- The keys of an erasure. -/
theorem mapErase_mem {α : Type} (k : Nat) (m : List (Nat × α)) (e : Nat × α) (h : e ∈ mapErase k m) : e ∈ m := by
  induction m with
  | nil => simp [mapErase] at h
  | cons x t ih =>
    obtain ⟨j, w⟩ := x
    simp only [mapErase] at h
    split at h
    · simp [h]
    · split at h
      · exact h
      · rcases List.mem_cons.mp h with h | h
        · simp [h]
        · simp [ih h]

/-- An insertion keeps the order. -/
theorem mapSorted_mapIns {α : Type} (k : Nat) (v : α) (m : List (Nat × α)) (h : mapSorted m = true) :
    mapSorted (mapIns k v m) = true := by
  induction m with
  | nil => rfl
  | cons x t ih =>
    obtain ⟨j, w⟩ := x
    obtain ⟨ht, hj⟩ := mapSorted_cons j w t h
    simp only [mapIns]
    split
    · subst j; exact mapSorted_of k v t ht hj
    · split
      · exact mapSorted_of k v _ h (by
          intro e he
          rcases List.mem_cons.mp he with rfl | he
          · assumption
          · exact lt_trans ‹_› (hj e he))
      · refine mapSorted_of j w _ (ih ht) ?_
        intro e he
        rcases mapIns_mem k v t e he with rfl | he
        · simp; omega
        · exact hj e he

/-- An erasure keeps the order. -/
theorem mapSorted_mapErase {α : Type} (k : Nat) (m : List (Nat × α)) (h : mapSorted m = true) :
    mapSorted (mapErase k m) = true := by
  induction m with
  | nil => rfl
  | cons x t ih =>
    obtain ⟨j, w⟩ := x
    obtain ⟨ht, hj⟩ := mapSorted_cons j w t h
    simp only [mapErase]
    split
    · exact ht
    · split
      · exact h
      · exact mapSorted_of j w _ (ih ht) fun e he => hj e (mapErase_mem k t e he)

/-- Below every key nothing is found. -/
theorem mapFind_below {α : Type} (m : List (Nat × α)) (k : Nat) (h : ∀ e ∈ m, k < e.1) : mapFind m k = none := by
  cases m with
  | nil => rfl
  | cons x t =>
    obtain ⟨j, w⟩ := x
    have := h (j, w) (by simp)
    simp only at this
    simp [mapFind, this]; omega

/-- In a sorted map an erased key is gone. -/
theorem mapFind_mapErase_same {α : Type} (k : Nat) (m : List (Nat × α)) (h : mapSorted m = true) :
    mapFind (mapErase k m) k = none := by
  induction m with
  | nil => rfl
  | cons x t ih =>
    obtain ⟨j, w⟩ := x
    obtain ⟨ht, hj⟩ := mapSorted_cons j w t h
    simp only [mapErase]
    split
    · subst j; exact mapFind_below t k hj
    · split
      · simp_all [mapFind]
      · simp_all [mapFind]

/-- In a sorted map an erasure leaves the other entries. -/
theorem mapFind_mapErase_other {α : Type} (k k' : Nat) (m : List (Nat × α)) (h : mapSorted m = true) (hk : k' ≠ k) :
    mapFind (mapErase k m) k' = mapFind m k' := by
  induction m with
  | nil => rfl
  | cons x t ih =>
    obtain ⟨j, w⟩ := x
    obtain ⟨ht, hj⟩ := mapSorted_cons j w t h
    simp only [mapErase]
    split
    · subst j
      by_cases hlt : k' < k
      · rw [mapFind_below t k' fun e he => lt_trans hlt (hj e he)]
        simp [mapFind, Ne.symm hk, hlt]
      · simp [mapFind, Ne.symm hk, hlt]
    · split
      · rfl
      · simp [mapFind, ih ht]

/-- A value just stored is read. -/
theorem mapGet_mapPut_same {α : Type} [DecidableEq α] (d : α) (m : List (Nat × α)) (k : Nat) (v : α)
    (h : mapSorted m = true) : mapGet d (mapPut d m k v) k = v := by
  unfold mapGet mapPut
  split
  · simp_all [mapFind_mapErase_same]
  · simp

/-- A value just stored is read, whatever the map, where it is not the default. -/
theorem mapGet_mapPut_ne {α : Type} [DecidableEq α] (d : α) (m : List (Nat × α)) (k : Nat) (v : α) (h : v ≠ d) :
    mapGet d (mapPut d m k v) k = v := by simp [mapGet, mapPut, h]

/-- A store leaves the other entries. -/
theorem mapGet_mapPut_other {α : Type} [DecidableEq α] (d : α) (m : List (Nat × α)) (k k' : Nat) (v : α)
    (h : mapSorted m = true) (hk : k' ≠ k) : mapGet d (mapPut d m k v) k' = mapGet d m k' := by
  unfold mapGet mapPut
  split
  · rw [mapFind_mapErase_other k k' m h hk]
  · rw [mapFind_mapIns_other k k' v m hk]

/-- A store keeps the order. -/
theorem mapSorted_mapPut {α : Type} [DecidableEq α] (d : α) (m : List (Nat × α)) (k : Nat) (v : α)
    (h : mapSorted m = true) : mapSorted (mapPut d m k v) = true := by
  unfold mapPut
  split
  · exact mapSorted_mapErase k m h
  · exact mapSorted_mapIns k v m h

/-- Dropping entries keeps a map in order. -/
theorem mapSorted_filter {α : Type} (p : Nat × α → Bool) (m : List (Nat × α)) (h : mapSorted m = true) :
    mapSorted (m.filter p) = true := by
  induction m with
  | nil => exact h
  | cons e t ih =>
    obtain ⟨j, w⟩ := e
    obtain ⟨ht, hj⟩ := mapSorted_cons j w t h
    rw [List.filter_cons]
    split
    · exact mapSorted_of j w _ (ih ht) fun e he => hj e (List.mem_of_mem_filter he)
    · exact ih ht

/-! ## Byte memories -/

/-- The two parts of the canonical form. -/
theorem Memory.wf_iff (m : List Host.Cell) : Memory.wf m = true ↔ mapSorted m = true ∧ ∀ e ∈ m, e.2 ≠ 0 := by
  simp [Memory.wf, List.all_eq_true]

/-- A byte write keeps the canonical form. -/
theorem Memory.wf_writeByte (m : List Host.Cell) (a : Nat) (b : Byte) (h : Memory.wf m = true) :
    Memory.wf (writeByte m a b) = true := by
  rw [Memory.wf_iff] at h ⊢
  refine ⟨mapSorted_mapPut 0 m a b h.1, ?_⟩
  intro e he
  unfold writeByte mapPut at he
  split at he
  · exact h.2 e (mapErase_mem a m e he)
  · rcases mapIns_mem a b m e he with rfl | he
    · assumption
    · exact h.2 e he

/-- A store of n bytes keeps the canonical form. -/
theorem Memory.wf_writeN (n : Nat) (m : List Host.Cell) (a v : Nat) (h : Memory.wf m = true) :
    Memory.wf (writeN m a n v) = true := by
  induction n generalizing m a v with
  | zero => exact h
  | succ n ih => exact ih _ _ _ (Memory.wf_writeByte m a _ h)

/-- A store of a byte list keeps the canonical form. -/
theorem Memory.wf_writeBytes (l : List Byte) (m : List Host.Cell) (a : Nat) (h : Memory.wf m = true) :
    Memory.wf (writeBytes m a l) = true := by
  induction l generalizing m a with
  | nil => exact h
  | cons b t ih => exact ih _ _ (Memory.wf_writeByte m a b h)

/-- Clearing a run of bytes keeps the canonical form: it drops entries. -/
theorem Memory.wf_filter (p : Host.Cell → Bool) (m : List Host.Cell) (h : Memory.wf m = true) : Memory.wf (m.filter p) = true := by
  rw [Memory.wf_iff] at h ⊢
  exact ⟨mapSorted_filter p m h.1, fun e he => h.2 e (List.mem_of_mem_filter he)⟩

/-- A byte just written is read. -/
theorem readByte_writeByte_same (m : List Host.Cell) (a : Nat) (b : Byte) (h : Memory.wf m = true) :
    readByte (writeByte m a b) a = b := mapGet_mapPut_same 0 m a b ((Memory.wf_iff m).mp h).1

/-- A byte write leaves the other bytes. -/
theorem readByte_writeByte_other (m : List Host.Cell) (a k : Nat) (b : Byte) (h : Memory.wf m = true) (hk : k ≠ a) :
    readByte (writeByte m a b) k = readByte m k := mapGet_mapPut_other 0 m a k b ((Memory.wf_iff m).mp h).1 hk

/-- The memory of a place that is one of the four memories. -/
theorem State.cells_setCells (s : State) (p : Place) (m : List Host.Cell) (h : p ≠ .peer) (hb : p ≠ .bell) :
    (s.setCells p m).cells p = m := by cases p <;> simp_all [State.setCells, State.cells]

/-- A write to one place leaves the others. -/
theorem State.cells_setCells_other (s : State) (p q : Place) (m : List Host.Cell) (h : q ≠ p) :
    (s.setCells p m).cells q = s.cells q := by cases p <;> cases q <;> simp_all [State.setCells, State.cells]

/-- The canonical form of the memories, place by place. -/
theorem State.memWf_iff (s : State) : s.memWf = true ↔ ∀ p, Memory.wf (s.cells p) = true := by
  constructor
  · intro h p
    simp only [State.memWf, Bool.and_eq_true] at h
    obtain ⟨⟨⟨hf, hs⟩, hv⟩, hh⟩ := h
    cases p
    exacts [hf, hs, hv, hh, rfl, rfl]
  · intro h
    simp [State.memWf, h .flostra, h .spad, h .vault, h .host, show s.flostra = s.cells .flostra from rfl,
      show s.spad = s.cells .spad from rfl, show s.vault = s.cells .vault from rfl, show s.hostMem = s.cells .host from rfl]

/-- Replacing a place's memory by a canonical one keeps the form. -/
theorem State.memWf_setCells (s : State) (p : Place) (m : List Host.Cell) (hs : s.memWf = true) (hm : Memory.wf m = true) :
    (s.setCells p m).memWf = true := by
  rw [State.memWf_iff] at hs ⊢
  intro q
  by_cases hq : q = p
  · subst hq
    cases q
    exacts [hm, hm, hm, hm, rfl, rfl]
  · rw [State.cells_setCells_other s p q m hq]; exact hs q

/-- A store keeps the canonical form. -/
theorem State.memWf_store (s : State) (p : Place) (a n v : Nat) (hs : s.memWf = true) : (s.store p a n v).memWf = true :=
  State.memWf_setCells s p _ hs (Memory.wf_writeN n _ a v ((State.memWf_iff s).mp hs p))

end Sys2Proof.Machine
end

