-- ==== Sys2Proof/Laws/State.lean ====
section
/-! SUPPORT. What each update of the state leaves as it was: one lemma per field and update, all by definition, so that no
proof unfolds a record update. -/

namespace Sys2Proof.Machine

open Sys2Proof

/-! ## State.setStrand -/

@[simp] theorem State.setStrand_clock (s : State) (key : Nat) (st : Strand) : (s.setStrand key st).clock = s.clock := rfl
@[simp] theorem State.setStrand_agenda (s : State) (key : Nat) (st : Strand) : (s.setStrand key st).agenda = s.agenda := rfl
@[simp] theorem State.setStrand_cur (s : State) (key : Nat) (st : Strand) : (s.setStrand key st).cur = s.cur := rfl
@[simp] theorem State.setStrand_die (s : State) (key : Nat) (st : Strand) : (s.setStrand key st).die = s.die := rfl
@[simp] theorem State.setStrand_free (s : State) (key : Nat) (st : Strand) : (s.setStrand key st).free = s.free := rfl
@[simp] theorem State.setStrand_flostra (s : State) (key : Nat) (st : Strand) : (s.setStrand key st).flostra = s.flostra := rfl
@[simp] theorem State.setStrand_spad (s : State) (key : Nat) (st : Strand) : (s.setStrand key st).spad = s.spad := rfl
@[simp] theorem State.setStrand_vault (s : State) (key : Nat) (st : Strand) : (s.setStrand key st).vault = s.vault := rfl
@[simp] theorem State.setStrand_hostMem (s : State) (key : Nat) (st : Strand) : (s.setStrand key st).hostMem = s.hostMem := rfl
@[simp] theorem State.setStrand_cores (s : State) (key : Nat) (st : Strand) : (s.setStrand key st).cores = s.cores := rfl
@[simp] theorem State.setStrand_quarters (s : State) (key : Nat) (st : Strand) : (s.setStrand key st).quarters = s.quarters := rfl
@[simp] theorem State.setStrand_wgs (s : State) (key : Nat) (st : Strand) : (s.setStrand key st).wgs = s.wgs := rfl
@[simp] theorem State.setStrand_wgNext (s : State) (key : Nat) (st : Strand) : (s.setStrand key st).wgNext = s.wgNext := rfl
@[simp] theorem State.setStrand_sources (s : State) (key : Nat) (st : Strand) : (s.setStrand key st).sources = s.sources := rfl
@[simp] theorem State.setStrand_srcNext (s : State) (key : Nat) (st : Strand) : (s.setStrand key st).srcNext = s.srcNext := rfl
@[simp] theorem State.setStrand_pipes (s : State) (key : Nat) (st : Strand) : (s.setStrand key st).pipes = s.pipes := rfl
@[simp] theorem State.setStrand_pkts (s : State) (key : Nat) (st : Strand) : (s.setStrand key st).pkts = s.pkts := rfl
@[simp] theorem State.setStrand_parts (s : State) (key : Nat) (st : Strand) : (s.setStrand key st).parts = s.parts := rfl
@[simp] theorem State.setStrand_dieW (s : State) (key : Nat) (st : Strand) : (s.setStrand key st).dieW = s.dieW := rfl
@[simp] theorem State.setStrand_dieE (s : State) (key : Nat) (st : Strand) : (s.setStrand key st).dieE = s.dieE := rfl
@[simp] theorem State.setStrand_doms (s : State) (key : Nat) (st : Strand) : (s.setStrand key st).doms = s.doms := rfl
@[simp] theorem State.setStrand_toSlice (s : State) (key : Nat) (st : Strand) : (s.setStrand key st).toSlice = s.toSlice := rfl
@[simp] theorem State.setStrand_slices (s : State) (key : Nat) (st : Strand) : (s.setStrand key st).slices = s.slices := rfl
@[simp] theorem State.setStrand_latches (s : State) (key : Nat) (st : Strand) : (s.setStrand key st).latches = s.latches := rfl
@[simp] theorem State.setStrand_joints (s : State) (key : Nat) (st : Strand) : (s.setStrand key st).joints = s.joints := rfl
@[simp] theorem State.setStrand_jointNext (s : State) (key : Nat) (st : Strand) : (s.setStrand key st).jointNext = s.jointNext := rfl
@[simp] theorem State.setStrand_cbars (s : State) (key : Nat) (st : Strand) : (s.setStrand key st).cbars = s.cbars := rfl
@[simp] theorem State.setStrand_fabric (s : State) (key : Nat) (st : Strand) : (s.setStrand key st).fabric = s.fabric := rfl
@[simp] theorem State.setStrand_boot (s : State) (key : Nat) (st : Strand) : (s.setStrand key st).boot = s.boot := rfl
@[simp] theorem State.setStrand_upsets (s : State) (key : Nat) (st : Strand) : (s.setStrand key st).upsets = s.upsets := rfl
@[simp] theorem State.setStrand_checks (s : State) (key : Nat) (st : Strand) : (s.setStrand key st).checks = s.checks := rfl
@[simp] theorem State.setStrand_retired (s : State) (key : Nat) (st : Strand) : (s.setStrand key st).retired = s.retired := rfl
@[simp] theorem State.setStrand_disabled (s : State) (key : Nat) (st : Strand) : (s.setStrand key st).disabled = s.disabled := rfl
@[simp] theorem State.setStrand_far (s : State) (key : Nat) (st : Strand) : (s.setStrand key st).far = s.far := rfl

/-! ## State.onStrand -/

@[simp] theorem State.onStrand_clock (s : State) (key : Nat) (f : Strand → Strand) : (s.onStrand key f).clock = s.clock := rfl
@[simp] theorem State.onStrand_agenda (s : State) (key : Nat) (f : Strand → Strand) : (s.onStrand key f).agenda = s.agenda := rfl
@[simp] theorem State.onStrand_cur (s : State) (key : Nat) (f : Strand → Strand) : (s.onStrand key f).cur = s.cur := rfl
@[simp] theorem State.onStrand_die (s : State) (key : Nat) (f : Strand → Strand) : (s.onStrand key f).die = s.die := rfl
@[simp] theorem State.onStrand_free (s : State) (key : Nat) (f : Strand → Strand) : (s.onStrand key f).free = s.free := rfl
@[simp] theorem State.onStrand_flostra (s : State) (key : Nat) (f : Strand → Strand) : (s.onStrand key f).flostra = s.flostra := rfl
@[simp] theorem State.onStrand_spad (s : State) (key : Nat) (f : Strand → Strand) : (s.onStrand key f).spad = s.spad := rfl
@[simp] theorem State.onStrand_vault (s : State) (key : Nat) (f : Strand → Strand) : (s.onStrand key f).vault = s.vault := rfl
@[simp] theorem State.onStrand_hostMem (s : State) (key : Nat) (f : Strand → Strand) : (s.onStrand key f).hostMem = s.hostMem := rfl
@[simp] theorem State.onStrand_cores (s : State) (key : Nat) (f : Strand → Strand) : (s.onStrand key f).cores = s.cores := rfl
@[simp] theorem State.onStrand_quarters (s : State) (key : Nat) (f : Strand → Strand) : (s.onStrand key f).quarters = s.quarters := rfl
@[simp] theorem State.onStrand_wgs (s : State) (key : Nat) (f : Strand → Strand) : (s.onStrand key f).wgs = s.wgs := rfl
@[simp] theorem State.onStrand_wgNext (s : State) (key : Nat) (f : Strand → Strand) : (s.onStrand key f).wgNext = s.wgNext := rfl
@[simp] theorem State.onStrand_sources (s : State) (key : Nat) (f : Strand → Strand) : (s.onStrand key f).sources = s.sources := rfl
@[simp] theorem State.onStrand_srcNext (s : State) (key : Nat) (f : Strand → Strand) : (s.onStrand key f).srcNext = s.srcNext := rfl
@[simp] theorem State.onStrand_pipes (s : State) (key : Nat) (f : Strand → Strand) : (s.onStrand key f).pipes = s.pipes := rfl
@[simp] theorem State.onStrand_pkts (s : State) (key : Nat) (f : Strand → Strand) : (s.onStrand key f).pkts = s.pkts := rfl
@[simp] theorem State.onStrand_parts (s : State) (key : Nat) (f : Strand → Strand) : (s.onStrand key f).parts = s.parts := rfl
@[simp] theorem State.onStrand_dieW (s : State) (key : Nat) (f : Strand → Strand) : (s.onStrand key f).dieW = s.dieW := rfl
@[simp] theorem State.onStrand_dieE (s : State) (key : Nat) (f : Strand → Strand) : (s.onStrand key f).dieE = s.dieE := rfl
@[simp] theorem State.onStrand_doms (s : State) (key : Nat) (f : Strand → Strand) : (s.onStrand key f).doms = s.doms := rfl
@[simp] theorem State.onStrand_toSlice (s : State) (key : Nat) (f : Strand → Strand) : (s.onStrand key f).toSlice = s.toSlice := rfl
@[simp] theorem State.onStrand_slices (s : State) (key : Nat) (f : Strand → Strand) : (s.onStrand key f).slices = s.slices := rfl
@[simp] theorem State.onStrand_latches (s : State) (key : Nat) (f : Strand → Strand) : (s.onStrand key f).latches = s.latches := rfl
@[simp] theorem State.onStrand_joints (s : State) (key : Nat) (f : Strand → Strand) : (s.onStrand key f).joints = s.joints := rfl
@[simp] theorem State.onStrand_jointNext (s : State) (key : Nat) (f : Strand → Strand) : (s.onStrand key f).jointNext = s.jointNext := rfl
@[simp] theorem State.onStrand_cbars (s : State) (key : Nat) (f : Strand → Strand) : (s.onStrand key f).cbars = s.cbars := rfl
@[simp] theorem State.onStrand_fabric (s : State) (key : Nat) (f : Strand → Strand) : (s.onStrand key f).fabric = s.fabric := rfl
@[simp] theorem State.onStrand_boot (s : State) (key : Nat) (f : Strand → Strand) : (s.onStrand key f).boot = s.boot := rfl
@[simp] theorem State.onStrand_upsets (s : State) (key : Nat) (f : Strand → Strand) : (s.onStrand key f).upsets = s.upsets := rfl
@[simp] theorem State.onStrand_checks (s : State) (key : Nat) (f : Strand → Strand) : (s.onStrand key f).checks = s.checks := rfl
@[simp] theorem State.onStrand_retired (s : State) (key : Nat) (f : Strand → Strand) : (s.onStrand key f).retired = s.retired := rfl
@[simp] theorem State.onStrand_disabled (s : State) (key : Nat) (f : Strand → Strand) : (s.onStrand key f).disabled = s.disabled := rfl
@[simp] theorem State.onStrand_far (s : State) (key : Nat) (f : Strand → Strand) : (s.onStrand key f).far = s.far := rfl

/-! ## State.setPart -/

@[simp] theorem State.setPart_clock (s : State) (p : Nat) (x : Part) : (s.setPart p x).clock = s.clock := rfl
@[simp] theorem State.setPart_agenda (s : State) (p : Nat) (x : Part) : (s.setPart p x).agenda = s.agenda := rfl
@[simp] theorem State.setPart_cur (s : State) (p : Nat) (x : Part) : (s.setPart p x).cur = s.cur := rfl
@[simp] theorem State.setPart_die (s : State) (p : Nat) (x : Part) : (s.setPart p x).die = s.die := rfl
@[simp] theorem State.setPart_free (s : State) (p : Nat) (x : Part) : (s.setPart p x).free = s.free := rfl
@[simp] theorem State.setPart_flostra (s : State) (p : Nat) (x : Part) : (s.setPart p x).flostra = s.flostra := rfl
@[simp] theorem State.setPart_spad (s : State) (p : Nat) (x : Part) : (s.setPart p x).spad = s.spad := rfl
@[simp] theorem State.setPart_vault (s : State) (p : Nat) (x : Part) : (s.setPart p x).vault = s.vault := rfl
@[simp] theorem State.setPart_hostMem (s : State) (p : Nat) (x : Part) : (s.setPart p x).hostMem = s.hostMem := rfl
@[simp] theorem State.setPart_strands (s : State) (p : Nat) (x : Part) : (s.setPart p x).strands = s.strands := rfl
@[simp] theorem State.setPart_cores (s : State) (p : Nat) (x : Part) : (s.setPart p x).cores = s.cores := rfl
@[simp] theorem State.setPart_quarters (s : State) (p : Nat) (x : Part) : (s.setPart p x).quarters = s.quarters := rfl
@[simp] theorem State.setPart_wgs (s : State) (p : Nat) (x : Part) : (s.setPart p x).wgs = s.wgs := rfl
@[simp] theorem State.setPart_wgNext (s : State) (p : Nat) (x : Part) : (s.setPart p x).wgNext = s.wgNext := rfl
@[simp] theorem State.setPart_sources (s : State) (p : Nat) (x : Part) : (s.setPart p x).sources = s.sources := rfl
@[simp] theorem State.setPart_srcNext (s : State) (p : Nat) (x : Part) : (s.setPart p x).srcNext = s.srcNext := rfl
@[simp] theorem State.setPart_pipes (s : State) (p : Nat) (x : Part) : (s.setPart p x).pipes = s.pipes := rfl
@[simp] theorem State.setPart_pkts (s : State) (p : Nat) (x : Part) : (s.setPart p x).pkts = s.pkts := rfl
@[simp] theorem State.setPart_dieW (s : State) (p : Nat) (x : Part) : (s.setPart p x).dieW = s.dieW := rfl
@[simp] theorem State.setPart_dieE (s : State) (p : Nat) (x : Part) : (s.setPart p x).dieE = s.dieE := rfl
@[simp] theorem State.setPart_doms (s : State) (p : Nat) (x : Part) : (s.setPart p x).doms = s.doms := rfl
@[simp] theorem State.setPart_toSlice (s : State) (p : Nat) (x : Part) : (s.setPart p x).toSlice = s.toSlice := rfl
@[simp] theorem State.setPart_slices (s : State) (p : Nat) (x : Part) : (s.setPart p x).slices = s.slices := rfl
@[simp] theorem State.setPart_latches (s : State) (p : Nat) (x : Part) : (s.setPart p x).latches = s.latches := rfl
@[simp] theorem State.setPart_joints (s : State) (p : Nat) (x : Part) : (s.setPart p x).joints = s.joints := rfl
@[simp] theorem State.setPart_jointNext (s : State) (p : Nat) (x : Part) : (s.setPart p x).jointNext = s.jointNext := rfl
@[simp] theorem State.setPart_cbars (s : State) (p : Nat) (x : Part) : (s.setPart p x).cbars = s.cbars := rfl
@[simp] theorem State.setPart_fabric (s : State) (p : Nat) (x : Part) : (s.setPart p x).fabric = s.fabric := rfl
@[simp] theorem State.setPart_boot (s : State) (p : Nat) (x : Part) : (s.setPart p x).boot = s.boot := rfl
@[simp] theorem State.setPart_upsets (s : State) (p : Nat) (x : Part) : (s.setPart p x).upsets = s.upsets := rfl
@[simp] theorem State.setPart_checks (s : State) (p : Nat) (x : Part) : (s.setPart p x).checks = s.checks := rfl
@[simp] theorem State.setPart_retired (s : State) (p : Nat) (x : Part) : (s.setPart p x).retired = s.retired := rfl
@[simp] theorem State.setPart_disabled (s : State) (p : Nat) (x : Part) : (s.setPart p x).disabled = s.disabled := rfl
@[simp] theorem State.setPart_far (s : State) (p : Nat) (x : Part) : (s.setPart p x).far = s.far := rfl

/-! ## State.onPart -/

@[simp] theorem State.onPart_clock (s : State) (p : Nat) (f : Part → Part) : (s.onPart p f).clock = s.clock := rfl
@[simp] theorem State.onPart_agenda (s : State) (p : Nat) (f : Part → Part) : (s.onPart p f).agenda = s.agenda := rfl
@[simp] theorem State.onPart_cur (s : State) (p : Nat) (f : Part → Part) : (s.onPart p f).cur = s.cur := rfl
@[simp] theorem State.onPart_die (s : State) (p : Nat) (f : Part → Part) : (s.onPart p f).die = s.die := rfl
@[simp] theorem State.onPart_free (s : State) (p : Nat) (f : Part → Part) : (s.onPart p f).free = s.free := rfl
@[simp] theorem State.onPart_flostra (s : State) (p : Nat) (f : Part → Part) : (s.onPart p f).flostra = s.flostra := rfl
@[simp] theorem State.onPart_spad (s : State) (p : Nat) (f : Part → Part) : (s.onPart p f).spad = s.spad := rfl
@[simp] theorem State.onPart_vault (s : State) (p : Nat) (f : Part → Part) : (s.onPart p f).vault = s.vault := rfl
@[simp] theorem State.onPart_hostMem (s : State) (p : Nat) (f : Part → Part) : (s.onPart p f).hostMem = s.hostMem := rfl
@[simp] theorem State.onPart_strands (s : State) (p : Nat) (f : Part → Part) : (s.onPart p f).strands = s.strands := rfl
@[simp] theorem State.onPart_cores (s : State) (p : Nat) (f : Part → Part) : (s.onPart p f).cores = s.cores := rfl
@[simp] theorem State.onPart_quarters (s : State) (p : Nat) (f : Part → Part) : (s.onPart p f).quarters = s.quarters := rfl
@[simp] theorem State.onPart_wgs (s : State) (p : Nat) (f : Part → Part) : (s.onPart p f).wgs = s.wgs := rfl
@[simp] theorem State.onPart_wgNext (s : State) (p : Nat) (f : Part → Part) : (s.onPart p f).wgNext = s.wgNext := rfl
@[simp] theorem State.onPart_sources (s : State) (p : Nat) (f : Part → Part) : (s.onPart p f).sources = s.sources := rfl
@[simp] theorem State.onPart_srcNext (s : State) (p : Nat) (f : Part → Part) : (s.onPart p f).srcNext = s.srcNext := rfl
@[simp] theorem State.onPart_pipes (s : State) (p : Nat) (f : Part → Part) : (s.onPart p f).pipes = s.pipes := rfl
@[simp] theorem State.onPart_pkts (s : State) (p : Nat) (f : Part → Part) : (s.onPart p f).pkts = s.pkts := rfl
@[simp] theorem State.onPart_dieW (s : State) (p : Nat) (f : Part → Part) : (s.onPart p f).dieW = s.dieW := rfl
@[simp] theorem State.onPart_dieE (s : State) (p : Nat) (f : Part → Part) : (s.onPart p f).dieE = s.dieE := rfl
@[simp] theorem State.onPart_doms (s : State) (p : Nat) (f : Part → Part) : (s.onPart p f).doms = s.doms := rfl
@[simp] theorem State.onPart_toSlice (s : State) (p : Nat) (f : Part → Part) : (s.onPart p f).toSlice = s.toSlice := rfl
@[simp] theorem State.onPart_slices (s : State) (p : Nat) (f : Part → Part) : (s.onPart p f).slices = s.slices := rfl
@[simp] theorem State.onPart_latches (s : State) (p : Nat) (f : Part → Part) : (s.onPart p f).latches = s.latches := rfl
@[simp] theorem State.onPart_joints (s : State) (p : Nat) (f : Part → Part) : (s.onPart p f).joints = s.joints := rfl
@[simp] theorem State.onPart_jointNext (s : State) (p : Nat) (f : Part → Part) : (s.onPart p f).jointNext = s.jointNext := rfl
@[simp] theorem State.onPart_cbars (s : State) (p : Nat) (f : Part → Part) : (s.onPart p f).cbars = s.cbars := rfl
@[simp] theorem State.onPart_fabric (s : State) (p : Nat) (f : Part → Part) : (s.onPart p f).fabric = s.fabric := rfl
@[simp] theorem State.onPart_boot (s : State) (p : Nat) (f : Part → Part) : (s.onPart p f).boot = s.boot := rfl
@[simp] theorem State.onPart_upsets (s : State) (p : Nat) (f : Part → Part) : (s.onPart p f).upsets = s.upsets := rfl
@[simp] theorem State.onPart_checks (s : State) (p : Nat) (f : Part → Part) : (s.onPart p f).checks = s.checks := rfl
@[simp] theorem State.onPart_retired (s : State) (p : Nat) (f : Part → Part) : (s.onPart p f).retired = s.retired := rfl
@[simp] theorem State.onPart_disabled (s : State) (p : Nat) (f : Part → Part) : (s.onPart p f).disabled = s.disabled := rfl
@[simp] theorem State.onPart_far (s : State) (p : Nat) (f : Part → Part) : (s.onPart p f).far = s.far := rfl

/-! ## State.setCore -/

@[simp] theorem State.setCore_clock (s : State) (c : Nat) (x : CoreSt) : (s.setCore c x).clock = s.clock := rfl
@[simp] theorem State.setCore_agenda (s : State) (c : Nat) (x : CoreSt) : (s.setCore c x).agenda = s.agenda := rfl
@[simp] theorem State.setCore_cur (s : State) (c : Nat) (x : CoreSt) : (s.setCore c x).cur = s.cur := rfl
@[simp] theorem State.setCore_die (s : State) (c : Nat) (x : CoreSt) : (s.setCore c x).die = s.die := rfl
@[simp] theorem State.setCore_free (s : State) (c : Nat) (x : CoreSt) : (s.setCore c x).free = s.free := rfl
@[simp] theorem State.setCore_flostra (s : State) (c : Nat) (x : CoreSt) : (s.setCore c x).flostra = s.flostra := rfl
@[simp] theorem State.setCore_spad (s : State) (c : Nat) (x : CoreSt) : (s.setCore c x).spad = s.spad := rfl
@[simp] theorem State.setCore_vault (s : State) (c : Nat) (x : CoreSt) : (s.setCore c x).vault = s.vault := rfl
@[simp] theorem State.setCore_hostMem (s : State) (c : Nat) (x : CoreSt) : (s.setCore c x).hostMem = s.hostMem := rfl
@[simp] theorem State.setCore_strands (s : State) (c : Nat) (x : CoreSt) : (s.setCore c x).strands = s.strands := rfl
@[simp] theorem State.setCore_quarters (s : State) (c : Nat) (x : CoreSt) : (s.setCore c x).quarters = s.quarters := rfl
@[simp] theorem State.setCore_wgs (s : State) (c : Nat) (x : CoreSt) : (s.setCore c x).wgs = s.wgs := rfl
@[simp] theorem State.setCore_wgNext (s : State) (c : Nat) (x : CoreSt) : (s.setCore c x).wgNext = s.wgNext := rfl
@[simp] theorem State.setCore_sources (s : State) (c : Nat) (x : CoreSt) : (s.setCore c x).sources = s.sources := rfl
@[simp] theorem State.setCore_srcNext (s : State) (c : Nat) (x : CoreSt) : (s.setCore c x).srcNext = s.srcNext := rfl
@[simp] theorem State.setCore_pipes (s : State) (c : Nat) (x : CoreSt) : (s.setCore c x).pipes = s.pipes := rfl
@[simp] theorem State.setCore_pkts (s : State) (c : Nat) (x : CoreSt) : (s.setCore c x).pkts = s.pkts := rfl
@[simp] theorem State.setCore_parts (s : State) (c : Nat) (x : CoreSt) : (s.setCore c x).parts = s.parts := rfl
@[simp] theorem State.setCore_dieW (s : State) (c : Nat) (x : CoreSt) : (s.setCore c x).dieW = s.dieW := rfl
@[simp] theorem State.setCore_dieE (s : State) (c : Nat) (x : CoreSt) : (s.setCore c x).dieE = s.dieE := rfl
@[simp] theorem State.setCore_doms (s : State) (c : Nat) (x : CoreSt) : (s.setCore c x).doms = s.doms := rfl
@[simp] theorem State.setCore_toSlice (s : State) (c : Nat) (x : CoreSt) : (s.setCore c x).toSlice = s.toSlice := rfl
@[simp] theorem State.setCore_slices (s : State) (c : Nat) (x : CoreSt) : (s.setCore c x).slices = s.slices := rfl
@[simp] theorem State.setCore_latches (s : State) (c : Nat) (x : CoreSt) : (s.setCore c x).latches = s.latches := rfl
@[simp] theorem State.setCore_joints (s : State) (c : Nat) (x : CoreSt) : (s.setCore c x).joints = s.joints := rfl
@[simp] theorem State.setCore_jointNext (s : State) (c : Nat) (x : CoreSt) : (s.setCore c x).jointNext = s.jointNext := rfl
@[simp] theorem State.setCore_cbars (s : State) (c : Nat) (x : CoreSt) : (s.setCore c x).cbars = s.cbars := rfl
@[simp] theorem State.setCore_fabric (s : State) (c : Nat) (x : CoreSt) : (s.setCore c x).fabric = s.fabric := rfl
@[simp] theorem State.setCore_boot (s : State) (c : Nat) (x : CoreSt) : (s.setCore c x).boot = s.boot := rfl
@[simp] theorem State.setCore_upsets (s : State) (c : Nat) (x : CoreSt) : (s.setCore c x).upsets = s.upsets := rfl
@[simp] theorem State.setCore_checks (s : State) (c : Nat) (x : CoreSt) : (s.setCore c x).checks = s.checks := rfl
@[simp] theorem State.setCore_retired (s : State) (c : Nat) (x : CoreSt) : (s.setCore c x).retired = s.retired := rfl
@[simp] theorem State.setCore_disabled (s : State) (c : Nat) (x : CoreSt) : (s.setCore c x).disabled = s.disabled := rfl
@[simp] theorem State.setCore_far (s : State) (c : Nat) (x : CoreSt) : (s.setCore c x).far = s.far := rfl

/-! ## State.onCore -/

@[simp] theorem State.onCore_clock (s : State) (c : Nat) (f : CoreSt → CoreSt) : (s.onCore c f).clock = s.clock := rfl
@[simp] theorem State.onCore_agenda (s : State) (c : Nat) (f : CoreSt → CoreSt) : (s.onCore c f).agenda = s.agenda := rfl
@[simp] theorem State.onCore_cur (s : State) (c : Nat) (f : CoreSt → CoreSt) : (s.onCore c f).cur = s.cur := rfl
@[simp] theorem State.onCore_die (s : State) (c : Nat) (f : CoreSt → CoreSt) : (s.onCore c f).die = s.die := rfl
@[simp] theorem State.onCore_free (s : State) (c : Nat) (f : CoreSt → CoreSt) : (s.onCore c f).free = s.free := rfl
@[simp] theorem State.onCore_flostra (s : State) (c : Nat) (f : CoreSt → CoreSt) : (s.onCore c f).flostra = s.flostra := rfl
@[simp] theorem State.onCore_spad (s : State) (c : Nat) (f : CoreSt → CoreSt) : (s.onCore c f).spad = s.spad := rfl
@[simp] theorem State.onCore_vault (s : State) (c : Nat) (f : CoreSt → CoreSt) : (s.onCore c f).vault = s.vault := rfl
@[simp] theorem State.onCore_hostMem (s : State) (c : Nat) (f : CoreSt → CoreSt) : (s.onCore c f).hostMem = s.hostMem := rfl
@[simp] theorem State.onCore_strands (s : State) (c : Nat) (f : CoreSt → CoreSt) : (s.onCore c f).strands = s.strands := rfl
@[simp] theorem State.onCore_quarters (s : State) (c : Nat) (f : CoreSt → CoreSt) : (s.onCore c f).quarters = s.quarters := rfl
@[simp] theorem State.onCore_wgs (s : State) (c : Nat) (f : CoreSt → CoreSt) : (s.onCore c f).wgs = s.wgs := rfl
@[simp] theorem State.onCore_wgNext (s : State) (c : Nat) (f : CoreSt → CoreSt) : (s.onCore c f).wgNext = s.wgNext := rfl
@[simp] theorem State.onCore_sources (s : State) (c : Nat) (f : CoreSt → CoreSt) : (s.onCore c f).sources = s.sources := rfl
@[simp] theorem State.onCore_srcNext (s : State) (c : Nat) (f : CoreSt → CoreSt) : (s.onCore c f).srcNext = s.srcNext := rfl
@[simp] theorem State.onCore_pipes (s : State) (c : Nat) (f : CoreSt → CoreSt) : (s.onCore c f).pipes = s.pipes := rfl
@[simp] theorem State.onCore_pkts (s : State) (c : Nat) (f : CoreSt → CoreSt) : (s.onCore c f).pkts = s.pkts := rfl
@[simp] theorem State.onCore_parts (s : State) (c : Nat) (f : CoreSt → CoreSt) : (s.onCore c f).parts = s.parts := rfl
@[simp] theorem State.onCore_dieW (s : State) (c : Nat) (f : CoreSt → CoreSt) : (s.onCore c f).dieW = s.dieW := rfl
@[simp] theorem State.onCore_dieE (s : State) (c : Nat) (f : CoreSt → CoreSt) : (s.onCore c f).dieE = s.dieE := rfl
@[simp] theorem State.onCore_doms (s : State) (c : Nat) (f : CoreSt → CoreSt) : (s.onCore c f).doms = s.doms := rfl
@[simp] theorem State.onCore_toSlice (s : State) (c : Nat) (f : CoreSt → CoreSt) : (s.onCore c f).toSlice = s.toSlice := rfl
@[simp] theorem State.onCore_slices (s : State) (c : Nat) (f : CoreSt → CoreSt) : (s.onCore c f).slices = s.slices := rfl
@[simp] theorem State.onCore_latches (s : State) (c : Nat) (f : CoreSt → CoreSt) : (s.onCore c f).latches = s.latches := rfl
@[simp] theorem State.onCore_joints (s : State) (c : Nat) (f : CoreSt → CoreSt) : (s.onCore c f).joints = s.joints := rfl
@[simp] theorem State.onCore_jointNext (s : State) (c : Nat) (f : CoreSt → CoreSt) : (s.onCore c f).jointNext = s.jointNext := rfl
@[simp] theorem State.onCore_cbars (s : State) (c : Nat) (f : CoreSt → CoreSt) : (s.onCore c f).cbars = s.cbars := rfl
@[simp] theorem State.onCore_fabric (s : State) (c : Nat) (f : CoreSt → CoreSt) : (s.onCore c f).fabric = s.fabric := rfl
@[simp] theorem State.onCore_boot (s : State) (c : Nat) (f : CoreSt → CoreSt) : (s.onCore c f).boot = s.boot := rfl
@[simp] theorem State.onCore_upsets (s : State) (c : Nat) (f : CoreSt → CoreSt) : (s.onCore c f).upsets = s.upsets := rfl
@[simp] theorem State.onCore_checks (s : State) (c : Nat) (f : CoreSt → CoreSt) : (s.onCore c f).checks = s.checks := rfl
@[simp] theorem State.onCore_retired (s : State) (c : Nat) (f : CoreSt → CoreSt) : (s.onCore c f).retired = s.retired := rfl
@[simp] theorem State.onCore_disabled (s : State) (c : Nat) (f : CoreSt → CoreSt) : (s.onCore c f).disabled = s.disabled := rfl
@[simp] theorem State.onCore_far (s : State) (c : Nat) (f : CoreSt → CoreSt) : (s.onCore c f).far = s.far := rfl

/-! ## State.setQuarter -/

@[simp] theorem State.setQuarter_clock (s : State) (q : Nat) (x : QuarterSt) : (s.setQuarter q x).clock = s.clock := rfl
@[simp] theorem State.setQuarter_agenda (s : State) (q : Nat) (x : QuarterSt) : (s.setQuarter q x).agenda = s.agenda := rfl
@[simp] theorem State.setQuarter_cur (s : State) (q : Nat) (x : QuarterSt) : (s.setQuarter q x).cur = s.cur := rfl
@[simp] theorem State.setQuarter_die (s : State) (q : Nat) (x : QuarterSt) : (s.setQuarter q x).die = s.die := rfl
@[simp] theorem State.setQuarter_free (s : State) (q : Nat) (x : QuarterSt) : (s.setQuarter q x).free = s.free := rfl
@[simp] theorem State.setQuarter_flostra (s : State) (q : Nat) (x : QuarterSt) : (s.setQuarter q x).flostra = s.flostra := rfl
@[simp] theorem State.setQuarter_spad (s : State) (q : Nat) (x : QuarterSt) : (s.setQuarter q x).spad = s.spad := rfl
@[simp] theorem State.setQuarter_vault (s : State) (q : Nat) (x : QuarterSt) : (s.setQuarter q x).vault = s.vault := rfl
@[simp] theorem State.setQuarter_hostMem (s : State) (q : Nat) (x : QuarterSt) : (s.setQuarter q x).hostMem = s.hostMem := rfl
@[simp] theorem State.setQuarter_strands (s : State) (q : Nat) (x : QuarterSt) : (s.setQuarter q x).strands = s.strands := rfl
@[simp] theorem State.setQuarter_cores (s : State) (q : Nat) (x : QuarterSt) : (s.setQuarter q x).cores = s.cores := rfl
@[simp] theorem State.setQuarter_wgs (s : State) (q : Nat) (x : QuarterSt) : (s.setQuarter q x).wgs = s.wgs := rfl
@[simp] theorem State.setQuarter_wgNext (s : State) (q : Nat) (x : QuarterSt) : (s.setQuarter q x).wgNext = s.wgNext := rfl
@[simp] theorem State.setQuarter_sources (s : State) (q : Nat) (x : QuarterSt) : (s.setQuarter q x).sources = s.sources := rfl
@[simp] theorem State.setQuarter_srcNext (s : State) (q : Nat) (x : QuarterSt) : (s.setQuarter q x).srcNext = s.srcNext := rfl
@[simp] theorem State.setQuarter_pipes (s : State) (q : Nat) (x : QuarterSt) : (s.setQuarter q x).pipes = s.pipes := rfl
@[simp] theorem State.setQuarter_pkts (s : State) (q : Nat) (x : QuarterSt) : (s.setQuarter q x).pkts = s.pkts := rfl
@[simp] theorem State.setQuarter_parts (s : State) (q : Nat) (x : QuarterSt) : (s.setQuarter q x).parts = s.parts := rfl
@[simp] theorem State.setQuarter_dieW (s : State) (q : Nat) (x : QuarterSt) : (s.setQuarter q x).dieW = s.dieW := rfl
@[simp] theorem State.setQuarter_dieE (s : State) (q : Nat) (x : QuarterSt) : (s.setQuarter q x).dieE = s.dieE := rfl
@[simp] theorem State.setQuarter_doms (s : State) (q : Nat) (x : QuarterSt) : (s.setQuarter q x).doms = s.doms := rfl
@[simp] theorem State.setQuarter_toSlice (s : State) (q : Nat) (x : QuarterSt) : (s.setQuarter q x).toSlice = s.toSlice := rfl
@[simp] theorem State.setQuarter_slices (s : State) (q : Nat) (x : QuarterSt) : (s.setQuarter q x).slices = s.slices := rfl
@[simp] theorem State.setQuarter_latches (s : State) (q : Nat) (x : QuarterSt) : (s.setQuarter q x).latches = s.latches := rfl
@[simp] theorem State.setQuarter_joints (s : State) (q : Nat) (x : QuarterSt) : (s.setQuarter q x).joints = s.joints := rfl
@[simp] theorem State.setQuarter_jointNext (s : State) (q : Nat) (x : QuarterSt) : (s.setQuarter q x).jointNext = s.jointNext := rfl
@[simp] theorem State.setQuarter_cbars (s : State) (q : Nat) (x : QuarterSt) : (s.setQuarter q x).cbars = s.cbars := rfl
@[simp] theorem State.setQuarter_fabric (s : State) (q : Nat) (x : QuarterSt) : (s.setQuarter q x).fabric = s.fabric := rfl
@[simp] theorem State.setQuarter_boot (s : State) (q : Nat) (x : QuarterSt) : (s.setQuarter q x).boot = s.boot := rfl
@[simp] theorem State.setQuarter_upsets (s : State) (q : Nat) (x : QuarterSt) : (s.setQuarter q x).upsets = s.upsets := rfl
@[simp] theorem State.setQuarter_checks (s : State) (q : Nat) (x : QuarterSt) : (s.setQuarter q x).checks = s.checks := rfl
@[simp] theorem State.setQuarter_retired (s : State) (q : Nat) (x : QuarterSt) : (s.setQuarter q x).retired = s.retired := rfl
@[simp] theorem State.setQuarter_disabled (s : State) (q : Nat) (x : QuarterSt) : (s.setQuarter q x).disabled = s.disabled := rfl
@[simp] theorem State.setQuarter_far (s : State) (q : Nat) (x : QuarterSt) : (s.setQuarter q x).far = s.far := rfl

/-! ## State.onQuarter -/

@[simp] theorem State.onQuarter_clock (s : State) (q : Nat) (f : QuarterSt → QuarterSt) : (s.onQuarter q f).clock = s.clock := rfl
@[simp] theorem State.onQuarter_agenda (s : State) (q : Nat) (f : QuarterSt → QuarterSt) : (s.onQuarter q f).agenda = s.agenda := rfl
@[simp] theorem State.onQuarter_cur (s : State) (q : Nat) (f : QuarterSt → QuarterSt) : (s.onQuarter q f).cur = s.cur := rfl
@[simp] theorem State.onQuarter_die (s : State) (q : Nat) (f : QuarterSt → QuarterSt) : (s.onQuarter q f).die = s.die := rfl
@[simp] theorem State.onQuarter_free (s : State) (q : Nat) (f : QuarterSt → QuarterSt) : (s.onQuarter q f).free = s.free := rfl
@[simp] theorem State.onQuarter_flostra (s : State) (q : Nat) (f : QuarterSt → QuarterSt) : (s.onQuarter q f).flostra = s.flostra := rfl
@[simp] theorem State.onQuarter_spad (s : State) (q : Nat) (f : QuarterSt → QuarterSt) : (s.onQuarter q f).spad = s.spad := rfl
@[simp] theorem State.onQuarter_vault (s : State) (q : Nat) (f : QuarterSt → QuarterSt) : (s.onQuarter q f).vault = s.vault := rfl
@[simp] theorem State.onQuarter_hostMem (s : State) (q : Nat) (f : QuarterSt → QuarterSt) : (s.onQuarter q f).hostMem = s.hostMem := rfl
@[simp] theorem State.onQuarter_strands (s : State) (q : Nat) (f : QuarterSt → QuarterSt) : (s.onQuarter q f).strands = s.strands := rfl
@[simp] theorem State.onQuarter_cores (s : State) (q : Nat) (f : QuarterSt → QuarterSt) : (s.onQuarter q f).cores = s.cores := rfl
@[simp] theorem State.onQuarter_wgs (s : State) (q : Nat) (f : QuarterSt → QuarterSt) : (s.onQuarter q f).wgs = s.wgs := rfl
@[simp] theorem State.onQuarter_wgNext (s : State) (q : Nat) (f : QuarterSt → QuarterSt) : (s.onQuarter q f).wgNext = s.wgNext := rfl
@[simp] theorem State.onQuarter_sources (s : State) (q : Nat) (f : QuarterSt → QuarterSt) : (s.onQuarter q f).sources = s.sources := rfl
@[simp] theorem State.onQuarter_srcNext (s : State) (q : Nat) (f : QuarterSt → QuarterSt) : (s.onQuarter q f).srcNext = s.srcNext := rfl
@[simp] theorem State.onQuarter_pipes (s : State) (q : Nat) (f : QuarterSt → QuarterSt) : (s.onQuarter q f).pipes = s.pipes := rfl
@[simp] theorem State.onQuarter_pkts (s : State) (q : Nat) (f : QuarterSt → QuarterSt) : (s.onQuarter q f).pkts = s.pkts := rfl
@[simp] theorem State.onQuarter_parts (s : State) (q : Nat) (f : QuarterSt → QuarterSt) : (s.onQuarter q f).parts = s.parts := rfl
@[simp] theorem State.onQuarter_dieW (s : State) (q : Nat) (f : QuarterSt → QuarterSt) : (s.onQuarter q f).dieW = s.dieW := rfl
@[simp] theorem State.onQuarter_dieE (s : State) (q : Nat) (f : QuarterSt → QuarterSt) : (s.onQuarter q f).dieE = s.dieE := rfl
@[simp] theorem State.onQuarter_doms (s : State) (q : Nat) (f : QuarterSt → QuarterSt) : (s.onQuarter q f).doms = s.doms := rfl
@[simp] theorem State.onQuarter_toSlice (s : State) (q : Nat) (f : QuarterSt → QuarterSt) : (s.onQuarter q f).toSlice = s.toSlice := rfl
@[simp] theorem State.onQuarter_slices (s : State) (q : Nat) (f : QuarterSt → QuarterSt) : (s.onQuarter q f).slices = s.slices := rfl
@[simp] theorem State.onQuarter_latches (s : State) (q : Nat) (f : QuarterSt → QuarterSt) : (s.onQuarter q f).latches = s.latches := rfl
@[simp] theorem State.onQuarter_joints (s : State) (q : Nat) (f : QuarterSt → QuarterSt) : (s.onQuarter q f).joints = s.joints := rfl
@[simp] theorem State.onQuarter_jointNext (s : State) (q : Nat) (f : QuarterSt → QuarterSt) : (s.onQuarter q f).jointNext = s.jointNext := rfl
@[simp] theorem State.onQuarter_cbars (s : State) (q : Nat) (f : QuarterSt → QuarterSt) : (s.onQuarter q f).cbars = s.cbars := rfl
@[simp] theorem State.onQuarter_fabric (s : State) (q : Nat) (f : QuarterSt → QuarterSt) : (s.onQuarter q f).fabric = s.fabric := rfl
@[simp] theorem State.onQuarter_boot (s : State) (q : Nat) (f : QuarterSt → QuarterSt) : (s.onQuarter q f).boot = s.boot := rfl
@[simp] theorem State.onQuarter_upsets (s : State) (q : Nat) (f : QuarterSt → QuarterSt) : (s.onQuarter q f).upsets = s.upsets := rfl
@[simp] theorem State.onQuarter_checks (s : State) (q : Nat) (f : QuarterSt → QuarterSt) : (s.onQuarter q f).checks = s.checks := rfl
@[simp] theorem State.onQuarter_retired (s : State) (q : Nat) (f : QuarterSt → QuarterSt) : (s.onQuarter q f).retired = s.retired := rfl
@[simp] theorem State.onQuarter_disabled (s : State) (q : Nat) (f : QuarterSt → QuarterSt) : (s.onQuarter q f).disabled = s.disabled := rfl
@[simp] theorem State.onQuarter_far (s : State) (q : Nat) (f : QuarterSt → QuarterSt) : (s.onQuarter q f).far = s.far := rfl

/-! ## State.setWg -/

@[simp] theorem State.setWg_clock (s : State) (k : Nat) (w : Wg) : (s.setWg k w).clock = s.clock := rfl
@[simp] theorem State.setWg_agenda (s : State) (k : Nat) (w : Wg) : (s.setWg k w).agenda = s.agenda := rfl
@[simp] theorem State.setWg_cur (s : State) (k : Nat) (w : Wg) : (s.setWg k w).cur = s.cur := rfl
@[simp] theorem State.setWg_die (s : State) (k : Nat) (w : Wg) : (s.setWg k w).die = s.die := rfl
@[simp] theorem State.setWg_free (s : State) (k : Nat) (w : Wg) : (s.setWg k w).free = s.free := rfl
@[simp] theorem State.setWg_flostra (s : State) (k : Nat) (w : Wg) : (s.setWg k w).flostra = s.flostra := rfl
@[simp] theorem State.setWg_spad (s : State) (k : Nat) (w : Wg) : (s.setWg k w).spad = s.spad := rfl
@[simp] theorem State.setWg_vault (s : State) (k : Nat) (w : Wg) : (s.setWg k w).vault = s.vault := rfl
@[simp] theorem State.setWg_hostMem (s : State) (k : Nat) (w : Wg) : (s.setWg k w).hostMem = s.hostMem := rfl
@[simp] theorem State.setWg_strands (s : State) (k : Nat) (w : Wg) : (s.setWg k w).strands = s.strands := rfl
@[simp] theorem State.setWg_cores (s : State) (k : Nat) (w : Wg) : (s.setWg k w).cores = s.cores := rfl
@[simp] theorem State.setWg_quarters (s : State) (k : Nat) (w : Wg) : (s.setWg k w).quarters = s.quarters := rfl
@[simp] theorem State.setWg_wgNext (s : State) (k : Nat) (w : Wg) : (s.setWg k w).wgNext = s.wgNext := rfl
@[simp] theorem State.setWg_sources (s : State) (k : Nat) (w : Wg) : (s.setWg k w).sources = s.sources := rfl
@[simp] theorem State.setWg_srcNext (s : State) (k : Nat) (w : Wg) : (s.setWg k w).srcNext = s.srcNext := rfl
@[simp] theorem State.setWg_pipes (s : State) (k : Nat) (w : Wg) : (s.setWg k w).pipes = s.pipes := rfl
@[simp] theorem State.setWg_pkts (s : State) (k : Nat) (w : Wg) : (s.setWg k w).pkts = s.pkts := rfl
@[simp] theorem State.setWg_parts (s : State) (k : Nat) (w : Wg) : (s.setWg k w).parts = s.parts := rfl
@[simp] theorem State.setWg_dieW (s : State) (k : Nat) (w : Wg) : (s.setWg k w).dieW = s.dieW := rfl
@[simp] theorem State.setWg_dieE (s : State) (k : Nat) (w : Wg) : (s.setWg k w).dieE = s.dieE := rfl
@[simp] theorem State.setWg_doms (s : State) (k : Nat) (w : Wg) : (s.setWg k w).doms = s.doms := rfl
@[simp] theorem State.setWg_toSlice (s : State) (k : Nat) (w : Wg) : (s.setWg k w).toSlice = s.toSlice := rfl
@[simp] theorem State.setWg_slices (s : State) (k : Nat) (w : Wg) : (s.setWg k w).slices = s.slices := rfl
@[simp] theorem State.setWg_latches (s : State) (k : Nat) (w : Wg) : (s.setWg k w).latches = s.latches := rfl
@[simp] theorem State.setWg_joints (s : State) (k : Nat) (w : Wg) : (s.setWg k w).joints = s.joints := rfl
@[simp] theorem State.setWg_jointNext (s : State) (k : Nat) (w : Wg) : (s.setWg k w).jointNext = s.jointNext := rfl
@[simp] theorem State.setWg_cbars (s : State) (k : Nat) (w : Wg) : (s.setWg k w).cbars = s.cbars := rfl
@[simp] theorem State.setWg_fabric (s : State) (k : Nat) (w : Wg) : (s.setWg k w).fabric = s.fabric := rfl
@[simp] theorem State.setWg_boot (s : State) (k : Nat) (w : Wg) : (s.setWg k w).boot = s.boot := rfl
@[simp] theorem State.setWg_upsets (s : State) (k : Nat) (w : Wg) : (s.setWg k w).upsets = s.upsets := rfl
@[simp] theorem State.setWg_checks (s : State) (k : Nat) (w : Wg) : (s.setWg k w).checks = s.checks := rfl
@[simp] theorem State.setWg_retired (s : State) (k : Nat) (w : Wg) : (s.setWg k w).retired = s.retired := rfl
@[simp] theorem State.setWg_disabled (s : State) (k : Nat) (w : Wg) : (s.setWg k w).disabled = s.disabled := rfl
@[simp] theorem State.setWg_far (s : State) (k : Nat) (w : Wg) : (s.setWg k w).far = s.far := rfl

/-! ## State.onWg -/

@[simp] theorem State.onWg_clock (s : State) (k : Nat) (f : Wg → Wg) : (s.onWg k f).clock = s.clock := rfl
@[simp] theorem State.onWg_agenda (s : State) (k : Nat) (f : Wg → Wg) : (s.onWg k f).agenda = s.agenda := rfl
@[simp] theorem State.onWg_cur (s : State) (k : Nat) (f : Wg → Wg) : (s.onWg k f).cur = s.cur := rfl
@[simp] theorem State.onWg_die (s : State) (k : Nat) (f : Wg → Wg) : (s.onWg k f).die = s.die := rfl
@[simp] theorem State.onWg_free (s : State) (k : Nat) (f : Wg → Wg) : (s.onWg k f).free = s.free := rfl
@[simp] theorem State.onWg_flostra (s : State) (k : Nat) (f : Wg → Wg) : (s.onWg k f).flostra = s.flostra := rfl
@[simp] theorem State.onWg_spad (s : State) (k : Nat) (f : Wg → Wg) : (s.onWg k f).spad = s.spad := rfl
@[simp] theorem State.onWg_vault (s : State) (k : Nat) (f : Wg → Wg) : (s.onWg k f).vault = s.vault := rfl
@[simp] theorem State.onWg_hostMem (s : State) (k : Nat) (f : Wg → Wg) : (s.onWg k f).hostMem = s.hostMem := rfl
@[simp] theorem State.onWg_strands (s : State) (k : Nat) (f : Wg → Wg) : (s.onWg k f).strands = s.strands := rfl
@[simp] theorem State.onWg_cores (s : State) (k : Nat) (f : Wg → Wg) : (s.onWg k f).cores = s.cores := rfl
@[simp] theorem State.onWg_quarters (s : State) (k : Nat) (f : Wg → Wg) : (s.onWg k f).quarters = s.quarters := rfl
@[simp] theorem State.onWg_wgNext (s : State) (k : Nat) (f : Wg → Wg) : (s.onWg k f).wgNext = s.wgNext := rfl
@[simp] theorem State.onWg_sources (s : State) (k : Nat) (f : Wg → Wg) : (s.onWg k f).sources = s.sources := rfl
@[simp] theorem State.onWg_srcNext (s : State) (k : Nat) (f : Wg → Wg) : (s.onWg k f).srcNext = s.srcNext := rfl
@[simp] theorem State.onWg_pipes (s : State) (k : Nat) (f : Wg → Wg) : (s.onWg k f).pipes = s.pipes := rfl
@[simp] theorem State.onWg_pkts (s : State) (k : Nat) (f : Wg → Wg) : (s.onWg k f).pkts = s.pkts := rfl
@[simp] theorem State.onWg_parts (s : State) (k : Nat) (f : Wg → Wg) : (s.onWg k f).parts = s.parts := rfl
@[simp] theorem State.onWg_dieW (s : State) (k : Nat) (f : Wg → Wg) : (s.onWg k f).dieW = s.dieW := rfl
@[simp] theorem State.onWg_dieE (s : State) (k : Nat) (f : Wg → Wg) : (s.onWg k f).dieE = s.dieE := rfl
@[simp] theorem State.onWg_doms (s : State) (k : Nat) (f : Wg → Wg) : (s.onWg k f).doms = s.doms := rfl
@[simp] theorem State.onWg_toSlice (s : State) (k : Nat) (f : Wg → Wg) : (s.onWg k f).toSlice = s.toSlice := rfl
@[simp] theorem State.onWg_slices (s : State) (k : Nat) (f : Wg → Wg) : (s.onWg k f).slices = s.slices := rfl
@[simp] theorem State.onWg_latches (s : State) (k : Nat) (f : Wg → Wg) : (s.onWg k f).latches = s.latches := rfl
@[simp] theorem State.onWg_joints (s : State) (k : Nat) (f : Wg → Wg) : (s.onWg k f).joints = s.joints := rfl
@[simp] theorem State.onWg_jointNext (s : State) (k : Nat) (f : Wg → Wg) : (s.onWg k f).jointNext = s.jointNext := rfl
@[simp] theorem State.onWg_cbars (s : State) (k : Nat) (f : Wg → Wg) : (s.onWg k f).cbars = s.cbars := rfl
@[simp] theorem State.onWg_fabric (s : State) (k : Nat) (f : Wg → Wg) : (s.onWg k f).fabric = s.fabric := rfl
@[simp] theorem State.onWg_boot (s : State) (k : Nat) (f : Wg → Wg) : (s.onWg k f).boot = s.boot := rfl
@[simp] theorem State.onWg_upsets (s : State) (k : Nat) (f : Wg → Wg) : (s.onWg k f).upsets = s.upsets := rfl
@[simp] theorem State.onWg_checks (s : State) (k : Nat) (f : Wg → Wg) : (s.onWg k f).checks = s.checks := rfl
@[simp] theorem State.onWg_retired (s : State) (k : Nat) (f : Wg → Wg) : (s.onWg k f).retired = s.retired := rfl
@[simp] theorem State.onWg_disabled (s : State) (k : Nat) (f : Wg → Wg) : (s.onWg k f).disabled = s.disabled := rfl
@[simp] theorem State.onWg_far (s : State) (k : Nat) (f : Wg → Wg) : (s.onWg k f).far = s.far := rfl

/-! ## State.onSource -/

@[simp] theorem State.onSource_clock (s : State) (k : Nat) (f : Source → Source) : (s.onSource k f).clock = s.clock := rfl
@[simp] theorem State.onSource_agenda (s : State) (k : Nat) (f : Source → Source) : (s.onSource k f).agenda = s.agenda := rfl
@[simp] theorem State.onSource_cur (s : State) (k : Nat) (f : Source → Source) : (s.onSource k f).cur = s.cur := rfl
@[simp] theorem State.onSource_die (s : State) (k : Nat) (f : Source → Source) : (s.onSource k f).die = s.die := rfl
@[simp] theorem State.onSource_free (s : State) (k : Nat) (f : Source → Source) : (s.onSource k f).free = s.free := rfl
@[simp] theorem State.onSource_flostra (s : State) (k : Nat) (f : Source → Source) : (s.onSource k f).flostra = s.flostra := rfl
@[simp] theorem State.onSource_spad (s : State) (k : Nat) (f : Source → Source) : (s.onSource k f).spad = s.spad := rfl
@[simp] theorem State.onSource_vault (s : State) (k : Nat) (f : Source → Source) : (s.onSource k f).vault = s.vault := rfl
@[simp] theorem State.onSource_hostMem (s : State) (k : Nat) (f : Source → Source) : (s.onSource k f).hostMem = s.hostMem := rfl
@[simp] theorem State.onSource_strands (s : State) (k : Nat) (f : Source → Source) : (s.onSource k f).strands = s.strands := rfl
@[simp] theorem State.onSource_cores (s : State) (k : Nat) (f : Source → Source) : (s.onSource k f).cores = s.cores := rfl
@[simp] theorem State.onSource_quarters (s : State) (k : Nat) (f : Source → Source) : (s.onSource k f).quarters = s.quarters := rfl
@[simp] theorem State.onSource_wgs (s : State) (k : Nat) (f : Source → Source) : (s.onSource k f).wgs = s.wgs := rfl
@[simp] theorem State.onSource_wgNext (s : State) (k : Nat) (f : Source → Source) : (s.onSource k f).wgNext = s.wgNext := rfl
@[simp] theorem State.onSource_srcNext (s : State) (k : Nat) (f : Source → Source) : (s.onSource k f).srcNext = s.srcNext := rfl
@[simp] theorem State.onSource_pipes (s : State) (k : Nat) (f : Source → Source) : (s.onSource k f).pipes = s.pipes := rfl
@[simp] theorem State.onSource_pkts (s : State) (k : Nat) (f : Source → Source) : (s.onSource k f).pkts = s.pkts := rfl
@[simp] theorem State.onSource_parts (s : State) (k : Nat) (f : Source → Source) : (s.onSource k f).parts = s.parts := rfl
@[simp] theorem State.onSource_dieW (s : State) (k : Nat) (f : Source → Source) : (s.onSource k f).dieW = s.dieW := rfl
@[simp] theorem State.onSource_dieE (s : State) (k : Nat) (f : Source → Source) : (s.onSource k f).dieE = s.dieE := rfl
@[simp] theorem State.onSource_doms (s : State) (k : Nat) (f : Source → Source) : (s.onSource k f).doms = s.doms := rfl
@[simp] theorem State.onSource_toSlice (s : State) (k : Nat) (f : Source → Source) : (s.onSource k f).toSlice = s.toSlice := rfl
@[simp] theorem State.onSource_slices (s : State) (k : Nat) (f : Source → Source) : (s.onSource k f).slices = s.slices := rfl
@[simp] theorem State.onSource_latches (s : State) (k : Nat) (f : Source → Source) : (s.onSource k f).latches = s.latches := rfl
@[simp] theorem State.onSource_joints (s : State) (k : Nat) (f : Source → Source) : (s.onSource k f).joints = s.joints := rfl
@[simp] theorem State.onSource_jointNext (s : State) (k : Nat) (f : Source → Source) : (s.onSource k f).jointNext = s.jointNext := rfl
@[simp] theorem State.onSource_cbars (s : State) (k : Nat) (f : Source → Source) : (s.onSource k f).cbars = s.cbars := rfl
@[simp] theorem State.onSource_fabric (s : State) (k : Nat) (f : Source → Source) : (s.onSource k f).fabric = s.fabric := rfl
@[simp] theorem State.onSource_boot (s : State) (k : Nat) (f : Source → Source) : (s.onSource k f).boot = s.boot := rfl
@[simp] theorem State.onSource_upsets (s : State) (k : Nat) (f : Source → Source) : (s.onSource k f).upsets = s.upsets := rfl
@[simp] theorem State.onSource_checks (s : State) (k : Nat) (f : Source → Source) : (s.onSource k f).checks = s.checks := rfl
@[simp] theorem State.onSource_retired (s : State) (k : Nat) (f : Source → Source) : (s.onSource k f).retired = s.retired := rfl
@[simp] theorem State.onSource_disabled (s : State) (k : Nat) (f : Source → Source) : (s.onSource k f).disabled = s.disabled := rfl
@[simp] theorem State.onSource_far (s : State) (k : Nat) (f : Source → Source) : (s.onSource k f).far = s.far := rfl

/-! ## Strands and splits -/

@[simp] theorem Strand.onCtx_phase (st : Strand) (f : Ctx → Ctx) : (st.onCtx f).phase = st.phase := rfl
@[simp] theorem Strand.onCtx_part (st : Strand) (f : Ctx → Ctx) : (st.onCtx f).part = st.part := rfl
@[simp] theorem Strand.onCtx_wg (st : Strand) (f : Ctx → Ctx) : (st.onCtx f).wg = st.wg := rfl
@[simp] theorem Strand.onCtx_idx (st : Strand) (f : Ctx → Ctx) : (st.onCtx f).idx = st.idx := rfl
@[simp] theorem Strand.onCtx_logG (st : Strand) (f : Ctx → Ctx) : (st.onCtx f).logG = st.logG := rfl
@[simp] theorem Strand.onCtx_block (st : Strand) (f : Ctx → Ctx) : (st.onCtx f).block = st.block := rfl
@[simp] theorem Strand.onCtx_savep (st : Strand) (f : Ctx → Ctx) : (st.onCtx f).savep = st.savep := rfl
@[simp] theorem Strand.onCtx_gangSeq (st : Strand) (f : Ctx → Ctx) : (st.onCtx f).gangSeq = st.gangSeq := rfl
@[simp] theorem Strand.onCtx_name (st : Strand) (f : Ctx → Ctx) : (st.onCtx f).name = st.name := rfl
@[simp] theorem Strand.onCtx_last (st : Strand) (f : Ctx → Ctx) : (st.onCtx f).last = st.last := rfl
@[simp] theorem Strand.onCtx_hold (st : Strand) (f : Ctx → Ctx) : (st.onCtx f).hold = st.hold := rfl
@[simp] theorem Strand.onCtx_atEntry (st : Strand) (f : Ctx → Ctx) : (st.onCtx f).atEntry = st.atEntry := rfl
@[simp] theorem Strand.onCtx_loaded (st : Strand) (f : Ctx → Ctx) : (st.onCtx f).loaded = st.loaded := rfl
@[simp] theorem Strand.onCtx_syms (st : Strand) (f : Ctx → Ctx) : (st.onCtx f).syms = st.syms := rfl
@[simp] theorem Strand.onCtx_ops (st : Strand) (f : Ctx → Ctx) : (st.onCtx f).ops = st.ops := rfl
@[simp] theorem Strand.onCtx_opNext (st : Strand) (f : Ctx → Ctx) : (st.onCtx f).opNext = st.opNext := rfl
@[simp] theorem Strand.onCtx_due (st : Strand) (f : Ctx → Ctx) : (st.onCtx f).due = st.due := rfl
@[simp] theorem Strand.onCtx_batch (st : Strand) (f : Ctx → Ctx) : (st.onCtx f).batch = st.batch := rfl
@[simp] theorem Strand.onCtx_closed (st : Strand) (f : Ctx → Ctx) : (st.onCtx f).closed = st.closed := rfl
@[simp] theorem Strand.onCtx_tiles (st : Strand) (f : Ctx → Ctx) : (st.onCtx f).tiles = st.tiles := rfl
@[simp] theorem Strand.onCtx_halted (st : Strand) (f : Ctx → Ctx) : (st.onCtx f).halted = st.halted := rfl
@[simp] theorem Strand.onCtx_granted (st : Strand) (f : Ctx → Ctx) : (st.onCtx f).granted = st.granted := rfl
@[simp] theorem Strand.onCtx_lastIssue (st : Strand) (f : Ctx → Ctx) : (st.onCtx f).lastIssue = st.lastIssue := rfl
@[simp] theorem Strand.onCtx_watch (st : Strand) (f : Ctx → Ctx) : (st.onCtx f).watch = st.watch := rfl
@[simp] theorem Strand.onCtx_watchOff (st : Strand) (f : Ctx → Ctx) : (st.onCtx f).watchOff = st.watchOff := rfl
@[simp] theorem Strand.onCtx_reply (st : Strand) (f : Ctx → Ctx) : (st.onCtx f).reply = st.reply := rfl
@[simp] theorem Strand.onCtx_exited (st : Strand) (f : Ctx → Ctx) : (st.onCtx f).exited = st.exited := rfl
@[simp] theorem Strand.onCtx_alone (st : Strand) (f : Ctx → Ctx) : (st.onCtx f).alone = st.alone := rfl
@[simp] theorem Strand.onCtx_touched (st : Strand) (f : Ctx → Ctx) : (st.onCtx f).touched = st.touched := rfl
@[simp] theorem Strand.onCtx_dueAt (st : Strand) (f : Ctx → Ctx) : (st.onCtx f).dueAt = st.dueAt := rfl

@[simp] theorem Strand.setSplit_phase (st : Strand) (i : Nat) (p : Split) : (st.setSplit i p).phase = st.phase := rfl
@[simp] theorem Strand.setSplit_part (st : Strand) (i : Nat) (p : Split) : (st.setSplit i p).part = st.part := rfl
@[simp] theorem Strand.setSplit_wg (st : Strand) (i : Nat) (p : Split) : (st.setSplit i p).wg = st.wg := rfl
@[simp] theorem Strand.setSplit_idx (st : Strand) (i : Nat) (p : Split) : (st.setSplit i p).idx = st.idx := rfl
@[simp] theorem Strand.setSplit_logG (st : Strand) (i : Nat) (p : Split) : (st.setSplit i p).logG = st.logG := rfl
@[simp] theorem Strand.setSplit_block (st : Strand) (i : Nat) (p : Split) : (st.setSplit i p).block = st.block := rfl
@[simp] theorem Strand.setSplit_savep (st : Strand) (i : Nat) (p : Split) : (st.setSplit i p).savep = st.savep := rfl
@[simp] theorem Strand.setSplit_gangSeq (st : Strand) (i : Nat) (p : Split) : (st.setSplit i p).gangSeq = st.gangSeq := rfl
@[simp] theorem Strand.setSplit_name (st : Strand) (i : Nat) (p : Split) : (st.setSplit i p).name = st.name := rfl
@[simp] theorem Strand.setSplit_last (st : Strand) (i : Nat) (p : Split) : (st.setSplit i p).last = st.last := rfl
@[simp] theorem Strand.setSplit_hold (st : Strand) (i : Nat) (p : Split) : (st.setSplit i p).hold = st.hold := rfl
@[simp] theorem Strand.setSplit_atEntry (st : Strand) (i : Nat) (p : Split) : (st.setSplit i p).atEntry = st.atEntry := rfl
@[simp] theorem Strand.setSplit_loaded (st : Strand) (i : Nat) (p : Split) : (st.setSplit i p).loaded = st.loaded := rfl
@[simp] theorem Strand.setSplit_syms (st : Strand) (i : Nat) (p : Split) : (st.setSplit i p).syms = st.syms := rfl
@[simp] theorem Strand.setSplit_ops (st : Strand) (i : Nat) (p : Split) : (st.setSplit i p).ops = st.ops := rfl
@[simp] theorem Strand.setSplit_opNext (st : Strand) (i : Nat) (p : Split) : (st.setSplit i p).opNext = st.opNext := rfl
@[simp] theorem Strand.setSplit_due (st : Strand) (i : Nat) (p : Split) : (st.setSplit i p).due = st.due := rfl
@[simp] theorem Strand.setSplit_batch (st : Strand) (i : Nat) (p : Split) : (st.setSplit i p).batch = st.batch := rfl
@[simp] theorem Strand.setSplit_closed (st : Strand) (i : Nat) (p : Split) : (st.setSplit i p).closed = st.closed := rfl
@[simp] theorem Strand.setSplit_tiles (st : Strand) (i : Nat) (p : Split) : (st.setSplit i p).tiles = st.tiles := rfl
@[simp] theorem Strand.setSplit_halted (st : Strand) (i : Nat) (p : Split) : (st.setSplit i p).halted = st.halted := rfl
@[simp] theorem Strand.setSplit_granted (st : Strand) (i : Nat) (p : Split) : (st.setSplit i p).granted = st.granted := rfl
@[simp] theorem Strand.setSplit_lastIssue (st : Strand) (i : Nat) (p : Split) : (st.setSplit i p).lastIssue = st.lastIssue := rfl
@[simp] theorem Strand.setSplit_watch (st : Strand) (i : Nat) (p : Split) : (st.setSplit i p).watch = st.watch := rfl
@[simp] theorem Strand.setSplit_watchOff (st : Strand) (i : Nat) (p : Split) : (st.setSplit i p).watchOff = st.watchOff := rfl
@[simp] theorem Strand.setSplit_reply (st : Strand) (i : Nat) (p : Split) : (st.setSplit i p).reply = st.reply := rfl
@[simp] theorem Strand.setSplit_exited (st : Strand) (i : Nat) (p : Split) : (st.setSplit i p).exited = st.exited := rfl
@[simp] theorem Strand.setSplit_alone (st : Strand) (i : Nat) (p : Split) : (st.setSplit i p).alone = st.alone := rfl
@[simp] theorem Strand.setSplit_touched (st : Strand) (i : Nat) (p : Split) : (st.setSplit i p).touched = st.touched := rfl
@[simp] theorem Strand.setSplit_dueAt (st : Strand) (i : Nat) (p : Split) : (st.setSplit i p).dueAt = st.dueAt := rfl

@[simp] theorem Strand.onSplit_phase (st : Strand) (i : Nat) (f : Split → Split) : (st.onSplit i f).phase = st.phase := rfl
@[simp] theorem Strand.onSplit_part (st : Strand) (i : Nat) (f : Split → Split) : (st.onSplit i f).part = st.part := rfl
@[simp] theorem Strand.onSplit_wg (st : Strand) (i : Nat) (f : Split → Split) : (st.onSplit i f).wg = st.wg := rfl
@[simp] theorem Strand.onSplit_idx (st : Strand) (i : Nat) (f : Split → Split) : (st.onSplit i f).idx = st.idx := rfl
@[simp] theorem Strand.onSplit_logG (st : Strand) (i : Nat) (f : Split → Split) : (st.onSplit i f).logG = st.logG := rfl
@[simp] theorem Strand.onSplit_block (st : Strand) (i : Nat) (f : Split → Split) : (st.onSplit i f).block = st.block := rfl
@[simp] theorem Strand.onSplit_savep (st : Strand) (i : Nat) (f : Split → Split) : (st.onSplit i f).savep = st.savep := rfl
@[simp] theorem Strand.onSplit_gangSeq (st : Strand) (i : Nat) (f : Split → Split) : (st.onSplit i f).gangSeq = st.gangSeq := rfl
@[simp] theorem Strand.onSplit_name (st : Strand) (i : Nat) (f : Split → Split) : (st.onSplit i f).name = st.name := rfl
@[simp] theorem Strand.onSplit_last (st : Strand) (i : Nat) (f : Split → Split) : (st.onSplit i f).last = st.last := rfl
@[simp] theorem Strand.onSplit_hold (st : Strand) (i : Nat) (f : Split → Split) : (st.onSplit i f).hold = st.hold := rfl
@[simp] theorem Strand.onSplit_atEntry (st : Strand) (i : Nat) (f : Split → Split) : (st.onSplit i f).atEntry = st.atEntry := rfl
@[simp] theorem Strand.onSplit_loaded (st : Strand) (i : Nat) (f : Split → Split) : (st.onSplit i f).loaded = st.loaded := rfl
@[simp] theorem Strand.onSplit_syms (st : Strand) (i : Nat) (f : Split → Split) : (st.onSplit i f).syms = st.syms := rfl
@[simp] theorem Strand.onSplit_ops (st : Strand) (i : Nat) (f : Split → Split) : (st.onSplit i f).ops = st.ops := rfl
@[simp] theorem Strand.onSplit_opNext (st : Strand) (i : Nat) (f : Split → Split) : (st.onSplit i f).opNext = st.opNext := rfl
@[simp] theorem Strand.onSplit_due (st : Strand) (i : Nat) (f : Split → Split) : (st.onSplit i f).due = st.due := rfl
@[simp] theorem Strand.onSplit_batch (st : Strand) (i : Nat) (f : Split → Split) : (st.onSplit i f).batch = st.batch := rfl
@[simp] theorem Strand.onSplit_closed (st : Strand) (i : Nat) (f : Split → Split) : (st.onSplit i f).closed = st.closed := rfl
@[simp] theorem Strand.onSplit_tiles (st : Strand) (i : Nat) (f : Split → Split) : (st.onSplit i f).tiles = st.tiles := rfl
@[simp] theorem Strand.onSplit_halted (st : Strand) (i : Nat) (f : Split → Split) : (st.onSplit i f).halted = st.halted := rfl
@[simp] theorem Strand.onSplit_granted (st : Strand) (i : Nat) (f : Split → Split) : (st.onSplit i f).granted = st.granted := rfl
@[simp] theorem Strand.onSplit_lastIssue (st : Strand) (i : Nat) (f : Split → Split) : (st.onSplit i f).lastIssue = st.lastIssue := rfl
@[simp] theorem Strand.onSplit_watch (st : Strand) (i : Nat) (f : Split → Split) : (st.onSplit i f).watch = st.watch := rfl
@[simp] theorem Strand.onSplit_watchOff (st : Strand) (i : Nat) (f : Split → Split) : (st.onSplit i f).watchOff = st.watchOff := rfl
@[simp] theorem Strand.onSplit_reply (st : Strand) (i : Nat) (f : Split → Split) : (st.onSplit i f).reply = st.reply := rfl
@[simp] theorem Strand.onSplit_exited (st : Strand) (i : Nat) (f : Split → Split) : (st.onSplit i f).exited = st.exited := rfl
@[simp] theorem Strand.onSplit_alone (st : Strand) (i : Nat) (f : Split → Split) : (st.onSplit i f).alone = st.alone := rfl
@[simp] theorem Strand.onSplit_touched (st : Strand) (i : Nat) (f : Split → Split) : (st.onSplit i f).touched = st.touched := rfl
@[simp] theorem Strand.onSplit_dueAt (st : Strand) (i : Nat) (f : Split → Split) : (st.onSplit i f).dueAt = st.dueAt := rfl

@[simp] theorem Strand.setSplit_ctx_regs (st : Strand) (i : Nat) (p : Split) : (st.setSplit i p).ctx.regs = st.ctx.regs := rfl
@[simp] theorem Strand.setSplit_ctx_stack (st : Strand) (i : Nat) (p : Split) : (st.setSplit i p).ctx.stack = st.ctx.stack := rfl
@[simp] theorem Strand.setSplit_ctx_mode (st : Strand) (i : Nat) (p : Split) : (st.setSplit i p).ctx.mode = st.ctx.mode := rfl
@[simp] theorem Strand.setSplit_ctx_gang (st : Strand) (i : Nat) (p : Split) : (st.setSplit i p).ctx.gang = st.ctx.gang := rfl
@[simp] theorem Strand.setSplit_ctx_tcause (st : Strand) (i : Nat) (p : Split) : (st.setSplit i p).ctx.tcause = st.ctx.tcause := rfl
@[simp] theorem Strand.setSplit_ctx_tpc (st : Strand) (i : Nat) (p : Split) : (st.setSplit i p).ctx.tpc = st.ctx.tpc := rfl
@[simp] theorem Strand.setSplit_ctx_tinfo (st : Strand) (i : Nat) (p : Split) : (st.setSplit i p).ctx.tinfo = st.ctx.tinfo := rfl
@[simp] theorem Strand.setSplit_ctx_tvec (st : Strand) (i : Nat) (p : Split) : (st.setSplit i p).ctx.tvec = st.ctx.tvec := rfl
@[simp] theorem Strand.setSplit_ctx_spillp (st : Strand) (i : Nat) (p : Split) : (st.setSplit i p).ctx.spillp = st.ctx.spillp := rfl
@[simp] theorem Strand.setSplit_ctx_dbgmb (st : Strand) (i : Nat) (p : Split) : (st.setSplit i p).ctx.dbgmb = st.ctx.dbgmb := rfl
@[simp] theorem Strand.setSplit_ctx_tmask (st : Strand) (i : Nat) (p : Split) : (st.setSplit i p).ctx.tmask = st.ctx.tmask := rfl

@[simp] theorem Strand.onSplit_ctx_regs (st : Strand) (i : Nat) (f : Split → Split) : (st.onSplit i f).ctx.regs = st.ctx.regs := rfl
@[simp] theorem Strand.onSplit_ctx_stack (st : Strand) (i : Nat) (f : Split → Split) : (st.onSplit i f).ctx.stack = st.ctx.stack := rfl
@[simp] theorem Strand.onSplit_ctx_mode (st : Strand) (i : Nat) (f : Split → Split) : (st.onSplit i f).ctx.mode = st.ctx.mode := rfl
@[simp] theorem Strand.onSplit_ctx_gang (st : Strand) (i : Nat) (f : Split → Split) : (st.onSplit i f).ctx.gang = st.ctx.gang := rfl
@[simp] theorem Strand.onSplit_ctx_tcause (st : Strand) (i : Nat) (f : Split → Split) : (st.onSplit i f).ctx.tcause = st.ctx.tcause := rfl
@[simp] theorem Strand.onSplit_ctx_tpc (st : Strand) (i : Nat) (f : Split → Split) : (st.onSplit i f).ctx.tpc = st.ctx.tpc := rfl
@[simp] theorem Strand.onSplit_ctx_tinfo (st : Strand) (i : Nat) (f : Split → Split) : (st.onSplit i f).ctx.tinfo = st.ctx.tinfo := rfl
@[simp] theorem Strand.onSplit_ctx_tvec (st : Strand) (i : Nat) (f : Split → Split) : (st.onSplit i f).ctx.tvec = st.ctx.tvec := rfl
@[simp] theorem Strand.onSplit_ctx_spillp (st : Strand) (i : Nat) (f : Split → Split) : (st.onSplit i f).ctx.spillp = st.ctx.spillp := rfl
@[simp] theorem Strand.onSplit_ctx_dbgmb (st : Strand) (i : Nat) (f : Split → Split) : (st.onSplit i f).ctx.dbgmb = st.ctx.dbgmb := rfl
@[simp] theorem Strand.onSplit_ctx_tmask (st : Strand) (i : Nat) (f : Split → Split) : (st.onSplit i f).ctx.tmask = st.ctx.tmask := rfl

@[simp] theorem Regs.setS_v (r : Regs) (n : Nat) (x : DWord) : (r.setS n x).v = r.v := rfl
@[simp] theorem Regs.setS_p (r : Regs) (n : Nat) (x : DWord) : (r.setS n x).p = r.p := rfl
@[simp] theorem Regs.setS_q (r : Regs) (n : Nat) (x : DWord) : (r.setS n x).q = r.q := rfl
@[simp] theorem Regs.setS_t (r : Regs) (n : Nat) (x : DWord) : (r.setS n x).t = r.t := rfl
@[simp] theorem Regs.setS_held (r : Regs) (n : Nat) (x : DWord) : (r.setS n x).held = r.held := rfl
@[simp] theorem Regs.setS_recs (r : Regs) (n : Nat) (x : DWord) : (r.setS n x).recs = r.recs := rfl
@[simp] theorem Regs.setP_v (r : Regs) (n : Nat) (m : Mask) : (r.setP n m).v = r.v := rfl
@[simp] theorem Regs.setP_s (r : Regs) (n : Nat) (m : Mask) : (r.setP n m).s = r.s := rfl
@[simp] theorem Regs.setP_q (r : Regs) (n : Nat) (m : Mask) : (r.setP n m).q = r.q := rfl
@[simp] theorem Regs.setP_t (r : Regs) (n : Nat) (m : Mask) : (r.setP n m).t = r.t := rfl
@[simp] theorem Regs.setP_held (r : Regs) (n : Nat) (m : Mask) : (r.setP n m).held = r.held := rfl
@[simp] theorem Regs.setP_recs (r : Regs) (n : Nat) (m : Mask) : (r.setP n m).recs = r.recs := rfl
@[simp] theorem Regs.setQ_v (r : Regs) (n : Nat) (b : Bool) : (r.setQ n b).v = r.v := rfl
@[simp] theorem Regs.setQ_s (r : Regs) (n : Nat) (b : Bool) : (r.setQ n b).s = r.s := rfl
@[simp] theorem Regs.setQ_p (r : Regs) (n : Nat) (b : Bool) : (r.setQ n b).p = r.p := rfl
@[simp] theorem Regs.setQ_t (r : Regs) (n : Nat) (b : Bool) : (r.setQ n b).t = r.t := rfl
@[simp] theorem Regs.setQ_held (r : Regs) (n : Nat) (b : Bool) : (r.setQ n b).held = r.held := rfl
@[simp] theorem Regs.setQ_recs (r : Regs) (n : Nat) (b : Bool) : (r.setQ n b).recs = r.recs := rfl
@[simp] theorem Regs.setT_v (r : Regs) (n : Nat) (t : TReg) : (r.setT n t).v = r.v := rfl
@[simp] theorem Regs.setT_s (r : Regs) (n : Nat) (t : TReg) : (r.setT n t).s = r.s := rfl
@[simp] theorem Regs.setT_p (r : Regs) (n : Nat) (t : TReg) : (r.setT n t).p = r.p := rfl
@[simp] theorem Regs.setT_q (r : Regs) (n : Nat) (t : TReg) : (r.setT n t).q = r.q := rfl
@[simp] theorem Regs.setT_held (r : Regs) (n : Nat) (t : TReg) : (r.setT n t).held = r.held := rfl
@[simp] theorem Regs.setT_recs (r : Regs) (n : Nat) (t : TReg) : (r.setT n t).recs = r.recs := rfl
@[simp] theorem Regs.setV_s (r : Regs) (n : Nat) (sh : VShape) (hi : Bool) : (r.setV n sh hi).s = r.s := rfl
@[simp] theorem Regs.setV_p (r : Regs) (n : Nat) (sh : VShape) (hi : Bool) : (r.setV n sh hi).p = r.p := rfl
@[simp] theorem Regs.setV_q (r : Regs) (n : Nat) (sh : VShape) (hi : Bool) : (r.setV n sh hi).q = r.q := rfl
@[simp] theorem Regs.setV_t (r : Regs) (n : Nat) (sh : VShape) (hi : Bool) : (r.setV n sh hi).t = r.t := rfl
@[simp] theorem Regs.setV_held (r : Regs) (n : Nat) (sh : VShape) (hi : Bool) : (r.setV n sh hi).held = r.held := rfl
@[simp] theorem Regs.setV_recs (r : Regs) (n : Nat) (sh : VShape) (hi : Bool) : (r.setV n sh hi).recs = r.recs := rfl

end Sys2Proof.Machine
end

