-- ==== Sys2Proof/Laws/Issue.lean ====
section
/-! SUPPORT. What an issue does: strands after an update, operands at hand, the end of an issue, and the per-lane write. -/

namespace Sys2Proof.Machine

open Sys2Proof

/-! ## Strands -/

@[simp] theorem State.strand?_setStrand_same (s : State) (k : Nat) (st : Strand) : (s.setStrand k st).strand? k = some st := by
  simp [State.strand?, State.setStrand]

theorem State.strand?_setStrand_other (s : State) (k j : Nat) (st : Strand) (h : j ≠ k) :
    (s.setStrand k st).strand? j = s.strand? j := by
  simp [State.strand?, State.setStrand, mapFind_mapIns_other k j st _ h]

@[simp] theorem State.strand?_onStrand_same (s : State) (k : Nat) (f : Strand → Strand) :
    (s.onStrand k f).strand? k = (s.strand? k).map f := by
  simp [State.strand?, State.onStrand]

theorem State.strand?_onStrand_other (s : State) (k j : Nat) (f : Strand → Strand) (h : j ≠ k) :
    (s.onStrand k f).strand? j = s.strand? j := by
  simp [State.strand?, State.onStrand, mapFind_mapMod_other _ k j f h]

@[simp] theorem State.strand?_onQuarter (s : State) (q k : Nat) (f : QuarterSt → QuarterSt) :
    (s.onQuarter q f).strand? k = s.strand? k := rfl

/-! ## The issuing split -/

/-- With no split issuing an instruction stops. -/
theorem issue_none (s : State) (len : Nat) (f : Ic → Act) (h : s.issuer = none) : issue s len f = .fault .noIssuer := by
  simp [issue, h]

/-- A split that issues gets its act, brought to its end. -/
theorem issue_some (s : State) (len : Nat) (f : Ic → Act) (c : Ic) (h : s.issuer = some c) :
    issue s len f = .next (s.conclude c len (f c)) := by simp [issue, h]

/-- The issuer is the split that State.cur names. -/
theorem State.issuer_spec (s : State) (c : Ic) (h : s.issuer = some c) :
    s.cur = some (c.key, c.slot) ∧ s.strand? c.key = some c.st ∧ c.sp = c.st.split c.slot ∧
      (c.sp.st = .ready ∨ c.sp.st = .trapped) := by
  unfold State.issuer at h
  split at h
  · simp at h
  · split at h
    · simp at h
    · next k sl hc _ st hst =>
      simp only at h
      split at h
      · simp only [Option.some.injEq] at h
        subst h
        simp_all
      · simp at h

/-! ## Operands -/

/-- With the operands at hand an instruction that waits for them goes on. -/
theorem Ic.known_of (c : Ic) (s : State) (x : Opnds) (ops : List (Opnd × Bool)) (offs : List Off) (k : List Off → Act)
    (h : c.offs x ops = some offs) : c.known s x ops k = k offs := by
  unfold Ic.offs at h
  unfold Ic.known
  split at h
  · simp at h
  · next hb => rw [if_neg hb]; simp only [h]

/-- A free scalar destination is written. -/
theorem Ic.toS_of (c : Ic) (s : State) (n : Nat) (v : DWord) (h : c.freeS n) :
    c.toS s n v = .done (s.putRegs c (c.regs.setS n v)) := by
  unfold Ic.freeS at h
  simp [Ic.toS, h]

/-- The operands of a scalar instruction. -/
theorem Ic.scalars_offs (c : Ic) (x : Opnds) (ops : List Opnd) (vs : List DWord) (h : c.scalars x ops = some vs) :
    ∃ offs, c.offs x (ops.map fun o => (o, true)) = some offs ∧ offs.map (fun o => o.at 0) = vs := by
  simpa [Ic.scalars, Option.map_eq_some_iff] using h

/-- A scalar instruction with its operands at hand and a free destination writes the result. -/
theorem sintOp_of (s : State) (len : Nat) (x : Opnds) (ops : List Opnd) (g : List DWord → DWord) (c : Ic) (vs : List DWord)
    (hi : s.issuer = some c) (ho : c.scalars x ops = some vs) (hd : c.freeS x.d.snum) :
    sintOp s len x ops g = c.ends s len (s.putRegs c (c.regs.setS x.d.snum (g vs))) := by
  obtain ⟨offs, h1, h2⟩ := c.scalars_offs x ops vs ho
  rw [sintOp, issue_some s len _ c hi, c.known_of s x _ offs _ h1, h2, c.toS_of s _ _ hd]
  rfl

/-! ## The per-lane write -/

theorem Off.at_g (ls : List DWord) (l : Nat) : (Off.g ls).at l = ls.getD l 0 := rfl

/-- Lane l of a list built lane by lane. -/
theorem lanes256_getD (f : Nat → DWord) (l : Nat) (h : l < 256) : (lanes256.map f).getD l 0 = f l := by
  simp [lanes256, List.getD, h]

/-- The flags of all lanes when each raises the same: those of one. -/
theorem foldl_or_const (l : List Nat) (fl a : Half) (h : l ≠ []) : l.foldl (fun x _ => x ||| fl) a = a ||| fl := by
  induction l generalizing a with
  | nil => exact absurd rfl h
  | cons x t ih =>
    simp only [List.foldl_cons]
    by_cases ht : t = []
    · subst ht; rfl
    · rw [ih _ ht]; rw [BitVec.or_assoc, BitVec.or_self]

/-- The flags of the lanes of a mask, counted over all lanes with 0 for those outside it. -/
theorem foldl_mask (act : Mask) (g : Nat → Half) (l : List Nat) (a : Half) :
    l.foldl (fun fl k => fl ||| (if laneIn act k then g k else 0)) a = (l.filter (laneIn act)).foldl (fun fl k => fl ||| g k) a := by
  induction l generalizing a with
  | nil => rfl
  | cons x t ih =>
    simp only [List.foldl_cons, List.filter_cons]
    by_cases hx : laneIn act x = true
    · rw [if_pos hx, if_pos hx, ih]; rfl
    · rw [if_neg hx, if_neg hx, show a ||| (0 : Half) = a from BitVec.or_zero, ih]

theorem laneIn_full (l : Nat) (h : l < 256) : laneIn fullMask l = true := by
  unfold laneIn fullMask
  rw [BitVec.getLsbD_allOnes]
  simpa using h

theorem lanesOf_full : lanesOf fullMask = lanes256 := by
  simp only [lanesOf, List.filter_eq_self]
  intro l hl
  exact laneIn_full l (by simpa [lanes256] using hl)

/-- Every uniform source has the same value in every lane. -/
theorem map_at_uniform (srcs : List Off) (l : Nat) (h : srcs.all Off.isU = true) :
    srcs.map (fun o => o.at l) = srcs.map fun o => o.at 0 := by
  apply List.map_congr_left
  intro o ho
  have := List.all_eq_true.mp h o ho
  cases o <;> simp_all [Off.isU, Off.at]

/-- The result of a per-lane computation, lane by lane, with its flags: `f` must not depend on the lane unless the
computation says so, and an affine result must agree with it. -/
theorem VecOp.result_lanes (o : VecOp) (act : Mask) (old : Off) (srcs : List Off)
    (hf : o.perLane = false → ∀ l vs, o.f l vs = o.f 0 vs)
    (ha : ∀ r, o.aff srcs = some r → ∀ l < 256, r.at l = (o.f l (srcs.map fun k => k.at l)).1 ∧
      (o.f l (srcs.map fun k => k.at l)).2 = 0) :
    (∀ l < 256, (o.result act old srcs).1.at l = if laneIn act l then (o.f l (srcs.map fun k => k.at l)).1 else old.at l) ∧
      (o.result act old srcs).2 = (lanesOf act).foldl (fun fl l => fl ||| (o.f l (srcs.map fun k => k.at l)).2) 0 := by
  have lanewise : (∀ l < 256, (Off.g ((lanes256.map fun l =>
        if laneIn act l then o.f l (srcs.map fun k => k.at l) else (old.at l, (0 : Half))).map (·.1))).at l =
          if laneIn act l then (o.f l (srcs.map fun k => k.at l)).1 else old.at l) ∧
      (lanes256.map fun l => if laneIn act l then o.f l (srcs.map fun k => k.at l) else (old.at l, (0 : Half))).foldl
        (fun a x => a ||| x.2) 0 = (lanesOf act).foldl (fun fl l => fl ||| (o.f l (srcs.map fun k => k.at l)).2) 0 := by
    constructor
    · intro l hl
      rw [Off.at_g, List.map_map, lanes256_getD _ l hl]
      simp only [Function.comp]
      split <;> rfl
    · rw [List.foldl_map, lanesOf, ← foldl_mask act (fun l => (o.f l (srcs.map fun k => k.at l)).2) lanes256 0]
      congr 1
      funext fl l
      split <;> simp_all
  by_cases hc : decide (act = fullMask) && !o.perLane
  · have hfull : act = fullMask := by simp_all
    have hper : o.perLane = false := by simp_all
    have hconst := hf hper
    by_cases hu : srcs.all Off.isU = true
    · have : o.result act old srcs = (.u (o.f 0 (srcs.map fun k => k.at 0)).1, (o.f 0 (srcs.map fun k => k.at 0)).2) := by
        simp only [VecOp.result, hc, hu, if_true]
      rw [this]
      subst hfull
      constructor
      · intro l hl
        simp only [laneIn_full l hl, if_true]
        rw [hconst l, map_at_uniform srcs l hu]
        rfl
      · rw [lanesOf_full]
        have : (fun (fl : Half) l => fl ||| (o.f l (srcs.map fun k => k.at l)).2) =
            fun fl _ => fl ||| (o.f 0 (srcs.map fun k => k.at 0)).2 := by
          funext fl l
          rw [hconst l, map_at_uniform srcs l hu]
        rw [this, foldl_or_const _ _ _ (by simp [lanes256])]
        simp
    · cases hr : o.aff srcs with
      | none =>
        have : o.result act old srcs = (.g ((lanes256.map fun l =>
            if laneIn act l then o.f l (srcs.map fun k => k.at l) else (old.at l, (0 : Half))).map (·.1)),
            (lanes256.map fun l => if laneIn act l then o.f l (srcs.map fun k => k.at l) else (old.at l, (0 : Half))).foldl
              (fun a x => a ||| x.2) 0) := by
          unfold VecOp.result
          simp only [hc, if_true, hr]
          rw [if_neg (by simpa using hu)]
        rw [this]
        dsimp only
        exact lanewise
      | some r =>
        have : o.result act old srcs = (r, 0) := by
          unfold VecOp.result
          simp only [hc, if_true, hr]
          rw [if_neg (by simpa using hu)]
        rw [this]
        subst hfull
        constructor
        · intro l hl
          simp only [laneIn_full l hl, if_true]
          exact (ha r hr l hl).1
        · rw [lanesOf_full]
          have h0 : ∀ (ls : List Nat), (∀ l ∈ ls, l < 256) →
              ls.foldl (fun (fl : Half) l => fl ||| (o.f l (srcs.map fun k => k.at l)).2) 0 = 0 := by
            intro ls
            induction ls with
            | nil => intro _; rfl
            | cons x t ih =>
              intro hl
              rw [List.foldl_cons, (ha r hr x (hl x (by simp))).2]
              simpa using ih fun l h => hl l (by simp [h])
          exact (h0 lanes256 (fun l hl => by simpa [lanes256] using hl)).symm
  · have : o.result act old srcs = (.g ((lanes256.map fun l =>
        if laneIn act l then o.f l (srcs.map fun k => k.at l) else (old.at l, (0 : Half))).map (·.1)),
        (lanes256.map fun l => if laneIn act l then o.f l (srcs.map fun k => k.at l) else (old.at l, (0 : Half))).foldl
          (fun a x => a ||| x.2) 0) := by
      unfold VecOp.result
      simp only [if_neg hc]
    rw [this]
    dsimp only
    exact lanewise

/-- A per-lane instruction with its operands at hand and a free destination writes its result. -/
theorem Ic.vec_of (c : Ic) (s : State) (x : Opnds) (n : Nat) (w : Bool) (ops : List (Opnd × Bool)) (o : VecOp) (offs : List Off)
    (ho : c.offs x ops = some offs) (hd : c.freeV n w (c.act x)) :
    c.vec s x n w ops o = .done ((s.putRegs c (c.regs.writeV n w (o.result (c.act x) (c.old n w) offs).1)).raise c.key
      (o.result (c.act x) (c.old n w) offs).2) := by
  obtain ⟨hb, hw, hv⟩ := hd
  unfold Ic.offs at ho
  split at ho
  · simp at ho
  · next hbusy =>
    unfold Ic.vec
    simp only [hb, Bool.or_false]
    rw [if_neg hbusy]
    simp only [ho, hw, hv]
    rfl

/-- A per-lane instruction with its operands at hand and room for its destination writes its lanes. -/
theorem Ic.writes_of (c : Ic) (s : State) (i : Instr) (len : Nat) (x : Opnds) (n : Nat) (w : Bool) (ops : List (Opnd × Bool))
    (o : VecOp) (offs : List Off) (hx : exec i s = issue s len fun c => c.vec s x n w ops o) (hi : s.issuer = some c)
    (ho : c.offs x ops = some offs) (hd : c.freeV n w (c.act x)) (hf : o.perLane = false → ∀ l vs, o.f l vs = o.f 0 vs)
    (ha : ∀ r, o.aff offs = some r → ∀ l < 256, r.at l = (o.f l (offs.map fun k => k.at l)).1 ∧
      (o.f l (offs.map fun k => k.at l)).2 = 0) :
    c.writesLanes s i len n w (c.act x) offs o.f := by
  obtain ⟨h1, h2⟩ := o.result_lanes (c.act x) (c.old n w) offs hf ha
  refine ⟨_, h1, ?_⟩
  rw [hx, issue_some s len _ c hi, c.vec_of s x n w ops o offs ho hd, h2]
  rfl

end Sys2Proof.Machine
end

