-- ==== Sys2Proof/Laws/Regs.lean ====
section
/-! SUPPORT. Laws of the register file: the slots that a write can take. -/

namespace Sys2Proof.Machine

open Sys2Proof

/-- Every slot that the vector registers name, each as often as it is named. -/
def Regs.named (r : Regs) : List Nat := r.v.flatMap fun e => e.2.shape.slots

/-- Every slot that the forms of the scalars name, and every operand copy held. -/
def Regs.namedS (r : Regs) : List Nat :=
  (r.s.flatMap fun e => match e.2 with | .val _ => [] | .pend f => f.steps.flatMap fun st => st.slots) ++ r.held.map (·.2)

theorem length_eraseDups_le (l : List Nat) : l.eraseDups.length ≤ l.length := by
  induction h : l.length using Nat.strongRecOn generalizing l with
  | _ n ih =>
    cases l with
    | nil => simp
    | cons a t =>
      rw [List.eraseDups_cons]
      have hf := List.length_filter_le (fun b => !b == a) t
      have := ih (t.filter fun b => !b == a).length (by simp at h; omega) _ rfl
      simp at h ⊢; omega

theorem Regs.live_le (r : Regs) : r.live.length ≤ r.named.length + r.namedS.length := by
  have := length_eraseDups_le (r.named ++ r.namedS)
  rw [List.length_append] at this
  exact Nat.le_trans (Nat.le_of_eq (by rw [Regs.live, Regs.named, Regs.namedS, List.append_assoc]; try rfl)) this

theorem flatMap_mapErase_le (g : Nat × VReg → List Nat) (k : Nat) (m : List (Nat × VReg)) :
    ((mapErase k m).flatMap g).length ≤ (m.flatMap g).length := by
  induction m with
  | nil => simp [mapErase]
  | cons e t ih =>
    obtain ⟨j, w⟩ := e
    simp only [mapErase, List.flatMap_cons]
    split
    · rw [List.length_append]; omega
    · split
      · exact Nat.le_refl _
      · rw [List.flatMap_cons, List.length_append, List.length_append]; omega

theorem flatMap_mapIns_le (g : Nat × VReg → List Nat) (k : Nat) (v : VReg) (m : List (Nat × VReg)) :
    ((mapIns k v m).flatMap g).length ≤ (m.flatMap g).length + (g (k, v)).length := by
  induction m with
  | nil => simp [mapIns]
  | cons e t ih =>
    obtain ⟨j, w⟩ := e
    simp only [mapIns, List.flatMap_cons]
    split
    · rw [List.flatMap_cons, List.length_append, List.length_append]; omega
    · split
      · rw [List.flatMap_cons, List.flatMap_cons, List.length_append, List.length_append]; omega
      · rw [List.flatMap_cons, List.length_append, List.length_append]; omega

/-- Storing a register names at most its own slots more. -/
theorem Regs.named_setV (r : Regs) (n : Nat) (sh : VShape) (hi : Bool) :
    (r.setV n sh hi).named.length ≤ r.named.length + sh.slots.length := by
  simp only [Regs.setV, Regs.named, mapPut]
  split
  · exact Nat.le_add_right_of_le (flatMap_mapErase_le _ n r.v)
  · exact flatMap_mapIns_le (fun e => e.2.shape.slots) n _ r.v

@[simp] theorem Regs.namedS_setV (r : Regs) (n : Nat) (sh : VShape) (hi : Bool) : (r.setV n sh hi).namedS = r.namedS := rfl

/-- Parting a pair names no slot more than the other register names already. -/
theorem Regs.unpair_named (r : Regs) (n : Nat) (h : (r.vreg (n + 1)).pairHi = false) : r.unpair n = r := by simp [Regs.unpair, h]

/-- A write leaves room where the slots named leave room for two more (R93). -/
theorem Regs.fits_of_few (r : Regs) (n : Nat) (w : Bool) (v : Off) (logG : Nat) (hp : (r.vreg (n + 1)).pairHi = false)
    (h : r.named.length + r.namedS.length + 2 ≤ 2 ^ logG) : (r.writeV n w v).overflows logG = false := by
  have key : (r.writeV n w v).named.length ≤ r.named.length + 2 ∧ (r.writeV n w v).namedS = r.namedS := by
    have one (q : Regs) (k : Nat) (x : VShape) (hi : Bool) (hx : x.slots.length ≤ 1) :
        (q.setV k x hi).named.length ≤ q.named.length + 1 := by
      have := q.named_setV k x hi; omega
    cases w <;> cases v <;> simp only [Regs.writeV, Bool.not_true, Bool.not_false, if_true, if_false, Bool.false_eq_true,
      r.unpair_named n hp, Regs.namedS_setV, and_true]
    all_goals first
      | (refine Nat.le_trans (one _ _ _ _ ?_) ?_ <;> simp [VShape.slots]; done)
      | (refine Nat.le_trans (one _ _ _ _ ?_) (Nat.succ_le_succ (one _ _ _ _ ?_)) <;> simp [VShape.slots])
  have hl := (r.writeV n w v).live_le
  rw [key.2] at hl
  simp only [Regs.overflows, decide_eq_false_iff_not]; omega

end Sys2Proof.Machine
end

