-- ==== Sys2Proof/Laws/Step.lean ====
section
/-! SUPPORT. What the end of a step can do: `State.foresee` notes what each split waits for and changes nothing else. -/

namespace Sys2Proof.Machine

open Sys2Proof

/-- The look ahead at a split's next instruction changes its stall reason and its note of a busy unit alone. -/
theorem State.prospect_spec (s : State) (key slot : Nat) (sp : Split) :
    ∃ w u, s.prospect key slot sp = { sp with stall := w, unit := u } := by
  unfold State.prospect
  split
  · exact ⟨sp.stall, sp.unit, rfl⟩
  · split
    · split
      · exact ⟨_, _, rfl⟩
      · split
        · exact ⟨_, _, rfl⟩
        · exact ⟨sp.stall, sp.unit, rfl⟩
    · exact ⟨sp.stall, sp.unit, rfl⟩

/-- It changes strands alone. -/
theorem State.foresee_frame (s : State) : ∃ l, s.foresee = { s with strands := l } := ⟨_, rfl⟩

/-- Values changed by their key are found at their keys. -/
theorem mapFind_map_key {α β : Type} (f : Nat → α → β) (k : Nat) (m : List (Nat × α)) :
    mapFind (m.map fun e => (e.1, f e.1 e.2)) k = (mapFind m k).map (f k) := by
  induction m with
  | nil => rfl
  | cons e t ih =>
    simp only [List.map_cons, mapFind]
    split
    · next h => simp [h]
    · split
      · rfl
      · exact ih

/-- A strand after it: its splits as `prospect` finds them. -/
theorem State.foresee_strand? (s : State) (k : Nat) :
    s.foresee.strand? k = (s.strand? k).map fun st =>
      st.onCtx fun c => { c with splits := c.splits.zipIdx.map fun x => s.prospect k x.2 x.1 } :=
  mapFind_map_key (fun k (st : Strand) => st.onCtx fun c => { c with splits := c.splits.zipIdx.map fun x => s.prospect k x.2 x.1 })
    k s.strands

@[simp] theorem State.foresee_clock (s : State) : s.foresee.clock = s.clock := rfl
@[simp] theorem State.foresee_cells (s : State) (p : Place) : s.foresee.cells p = s.cells p := by cases p <;> rfl
@[simp] theorem State.foresee_memWf (s : State) : s.foresee.memWf = s.memWf := rfl

end Sys2Proof.Machine
end

