-- ==== Sys2Proof/Tests/Slice0.lean ====
section
/-! SUPPORT. Tests of single instructions on small states, words written out from the encoding tables, ill-formed terms that the
check refuses, and for each statement with hypotheses a state that meets them. -/

namespace Sys2Proof.Tests

set_option Elab.async false

open Sys2Proof Sys2Proof.Machine

/-! ## Small states -/

/-- Registers for the tests: v1 counts up from 10, v5 from 0, v2 holds 3 and v7 1.5 in every lane, v6 holds addresses four bytes apart; s1, s2 and s3
hold 7, 3 and -1, s5 the least number, s6 an address; p1 holds lanes 0 and 1, q1 is set. -/
def regs : Regs :=
  { v := [(1, { shape := .a 10 1, pairHi := false }), (2, { shape := .u 3, pairHi := false }),
          (5, { shape := .a 0 1, pairHi := false }), (6, { shape := .a 0x5000 4, pairHi := false }), (7, { shape := .u 0x3FC00000, pairHi := false })]
    s := [(1, .val 7), (2, .val 3), (3, .val (-1)), (5, .val 0x8000000000000000), (6, .val 0x5000)]
    p := [(1, 3)], q := [(1, true)], t := [] }

/-- A strand as it is granted, with the test registers and EXIT fetched. -/
def strand : Strand := (placedStrand [0x9C]).onCtx fun c => { c with regs := regs }

/-- One strand, at key 0, whose split 0 is issuing. -/
def one (st : Strand) : State := { State.reset with strands := [(0, st)], wgs := [(0, placedWg)], cur := some (0, 0) }

/-- `one` in a partition that maps its first GiB to the same addresses, with the translation in the core's TLB. -/
def mapped (st : Strand) : State :=
  { one st with
    flostra := [(0x1000, 0x01), (0x1001, 0x20), (0x2000, 0x01), (0x2001, 0x30), (0x3000, 0x0F)]
    parts := [(0, { Part.reset with block := [(0, 0x1000), (2, 0x40000000), (3, 1)] })]
    cores := [(0, { CoreSt.reset with tlb := [{ part := 0, va := 0, size := 2, leaf := 0x0F, ent := 0x3000 }] })] }

/-- The issuing split of `one` and `mapped`. -/
def ic (st : Strand) : Ic := { key := 0, slot := 0, st := st, sp := st.split 0 }

/-- The states and the split of most tests; `h0` has its split in a handler. -/
def s0 : State := one strand
def m0 : State := mapped strand
def c0 : Ic := ic strand
def handler : Strand := strand.onSplit 0 fun p => { p with st := .trapped }
def h0 : State := mapped handler
def d0 : Ic := ic handler

/-- Operands of a type; `opp` with the lanes of p1 only. -/
def op (t : Ty) (d a b : Opnd) : Opnds := baseX t d a b none
def opp (t : Ty) (d a b : Opnd) : Opnds := { op t d a b with pred := some (1, false) }

/-- Operands of an instruction with no type. -/
def bare (d a b : Opnd) : Opnds := { op .i32 d a b with ty := none }

/-- What a test reads of an outcome. -/
def after {α : Type} (o : Host.Outcome State Fault Refusal) (f : State → α) (other : α) : α :=
  match o with | .next t => f t | _ => other

/-- Is it a next state? -/
def goesOn (o : Host.Outcome State Fault Refusal) : Bool := after o (fun _ => true) false

/-- The strand at key 0 after an outcome. -/
def strandAfter (o : Host.Outcome State Fault Refusal) : Strand := after o (fun t => (t.strand? 0).getD strand) strand

/-- Scalar n, scalar predicate n and lane l of vector n after an outcome. -/
def sAfter (o : Host.Outcome State Fault Refusal) (n : Nat) : DWord := (strandAfter o).ctx.regs.sval n
def vAfter (o : Host.Outcome State Fault Refusal) (n l : Nat) : DWord :=
  match (strandAfter o).ctx.regs.readV n false with | .known v => v.at l | .pend _ => 0
/-- The place of split 0, and TCAUSE, after an outcome. -/
def pcAfter (o : Host.Outcome State Fault Refusal) : Nat := ((strandAfter o).split 0).pc.toNat
def tcauseAfter (o : Host.Outcome State Fault Refusal) : Nat := (strandAfter o).ctx.tcause.toNat

theorem issuer_s0 : s0.issuer = some c0 := by decide +kernel
theorem issuer_m0 : m0.issuer = some c0 := by decide +kernel
theorem issuer_h0 : h0.issuer = some d0 := by decide +kernel

/-- Vectors 8 and up can take any write. -/
theorem freeV_high (n : Nat) (w : Bool) (act : Mask) (hn : 8 ≤ n) : c0.freeV n w act := by
  have hv : ∀ k, 8 ≤ k → regs.vreg k = VReg.zero := by
    intro k hk
    have : mapFind regs.v k = none := by simp only [regs, mapFind]; repeat (rw [if_neg (by omega)]; try rw [if_neg (by omega)])
    simp [Regs.vreg, mapGet, this]
  refine ⟨rfl, ?_, fun v => Regs.fits_of_few _ n w v _ ?_ (by decide +kernel)⟩
  · have h1 := hv n hn
    have h2 := hv (n + 1) (by omega)
    have : c0.regs = regs := rfl
    simp [Regs.blocksWrite, this, h1, h2, VReg.zero]
  · have : c0.regs = regs := rfl
    rw [this, hv (n + 1) (by omega)]; rfl

/-! ## Words written out from the encoding tables -/
/-- R158: `FFMA.f32.rne v4, v5, v6, v4`. -/
theorem test_decode_FFMA : decodeWords [0x00280315, 0x00002804, 0x00002006] =
    some (.ffma { op .f32 (.v 4) (.v 5) (.v 6) with rnd := .rne, c := .v 4 }, 3) := by decide +kernel

/-- R158: `FFMA.f32 v4, v5, v6, v4` in the base form. -/
theorem test_decode_FFMA_base : decodeWords [0x0605047C] =
    some (.ffmaBase 4 5 6, 1) := by decide +kernel

/-- The VRED of R204's example, predicated, its leaf count a literal. -/
theorem test_decode_VRED : decodeWords [0x0308041F, 0x00000E03, 0x00355002, 0x00000005, 0x00000000] =
    some (.vred { op .f32 (.s 3) (.v 1) (.v 2) with pred := some (1, false), lit := some 5, c := .lit }, 5) := by decide +kernel

/-- R223: `CTB.f32 v40, s2, v41, v42`. -/
theorem test_decode_CTB : decodeWords [0x00080029, 0x00301028, 0x00015029] =
    some (.ctb { op .f32 (.v 40) (.s 2) (.v 41) with c := .v 42 }, 3) := by decide +kernel

/-- The CTBM line of 14_programs_training, its D a tile handle. -/
theorem test_decode_CTBM : decodeWords [0x00000529, 0x0030A000, 0x0030C616] =
    some (.ctbm { op .i32 (.raw 0) (.s 20) (.s 22) with c := .s 24, ty := none }, 3) := by decide +kernel

/-- R254: `MXMMA.fin h1, s10, s12, s14`. -/
theorem test_decode_MXMMA : decodeWords [0x0000043D, 0x00305001, 0x0070760C] =
    some (.mxmma { op .i32 (.raw 1) (.s 10) (.s 12) with sel := 1, c := .s 14, ty := none }, 3) := by decide +kernel

/-- The CPYM line of 13_programs_cluster. -/
theorem test_decode_CPYM : decodeWords [0x00000137, 0x00305613, 0x417076AA, 0x00000800, 0x00000000] =
    some (.cpym { op .i32 (.s 19) (.s 10) .lit with xs := 1, sel := 5, lit := some 2048, c := .s 14, ty := none }, 5) := by decide +kernel

/-- The first STF line of 14_programs_training. -/
theorem test_decode_STF : decodeWords [0x05280821, 0x00349811, 0x00354001] =
    some (.stf { op .f32 (.v 17) (.t 3) (.v 1) with rnd := .rne, pred := some (2, false) }, 3) := by decide +kernel

/-- 14_programs_training: `FMUL.f32 v8, v4, v30`. -/
theorem test_decode_FMUL_base : decodeWords [0x1E040878] =
    some (.fmulBase 8 4 30, 1) := by decide +kernel

/-- R143: BRA takes offset [23:16] in D, [15:8] in A and [7:0] in B. -/
theorem test_decode_BRA : decodeWords [0x45230138] =
    some (.braBase 0x012345, 1) := by decide +kernel

/-- R166: CSRR s3, TVEC. -/
theorem test_decode_CSRR : decodeWords [0x00000101, 0x00354603, 0x00002EA8] =
    some (.csrr { op .i32 (.s 3) .zero .zero with c := .raw 5, ty := none }, 3) := by decide +kernel

/-- R179: PSET.lt.i32 p1, v2, v3. -/
theorem test_decode_PSET : decodeWords [0x00000009, 0x00001681, 0x00B54003] =
    some (.pset { op .i32 (.p 1) (.v 2) (.v 3) with sel := 2 }, 3) := by decide +kernel

/-- R186: VMAD.i32 v1, v2, s3, lane under !p2. -/
theorem test_decode_VMAD : decodeWords [0x25000311, 0x00001001, 0x00354E03] =
    some (.vmad { op .i32 (.v 1) (.v 2) (.s 3) with pred := some (2, true), c := .lane }, 3) := by decide +kernel

/-- R194: FCVT.bf16.f32.sat v4, v5, the source type in SEL. -/
theorem test_decode_FCVT : decodeWords [0x400B0019, 0x00002804, 0x023546A8] =
    some (.fcvt { op .bf16 (.v 4) (.v 5) .zero with sel := 8, sat := true }, 3) := by decide +kernel

/-- R213: LD.b64.acq.system v4, [t2 + s3], keeping in the L2. -/
theorem test_decode_LD : decodeWords [0x00100021, 0x43B49004, 0x00354603] =
    some (.ld { op .b64 (.v 4) (.t 2) (.s 3) with cache := 2, ord := 1, scope := 6 }, 3) := by decide +kernel

/-- R220: AADD.i32.nr on the scratchpad, spad[v4 + s1] by v3. -/
theorem test_decode_AADD : decodeWords [0x00000025, 0x00002003, 0x01754601] =
    some (.aadd { op .i32 (.v 3) (.v 4) (.s 1) with sel := 5 }, 3) := by decide +kernel

/-- R232: WAITB s1. -/
theorem test_decode_WAITB : decodeWords [0x0000032D, 0x00300EA8, 0x003546A8] =
    some (.waitb { op .i32 .zero (.s 1) .zero with ty := none }, 3) := by decide +kernel

/-- R239: RLD.b32 v8, v6, [s10 + v9]. -/
theorem test_decode_RLD : decodeWords [0x000F0031, 0x00003008, 0x00004E0A] =
    some (.rld { op .b32 (.v 8) (.v 6) (.s 10) with c := .v 9 }, 3) := by decide +kernel

/-- R248: WLQ s3, s4. -/
theorem test_decode_WLQ : decodeWords [0x00000239, 0x00302603, 0x003546A8] =
    some (.wlq { op .i32 (.s 3) (.s 4) .zero with ty := none }, 3) := by decide +kernel

/-- R205: PNDQ s3, v7. -/
theorem test_decode_PNDQ : decodeWords [0x00000041, 0x00003E03, 0x003546A8] =
    some (.pndq { op .i32 (.s 3) (.v 7) .zero with ty := none }, 3) := by decide +kernel

/-- R302: ADDI x1, x2, -1 of the policy engine. -/
theorem test_decode_horgedo : decodeHg 0xFFFF2105 = some (.hgAddi 1 2 (-1)) := by decide +kernel

/-! ## Reserved encodings and ill-formed terms -/

/-- R154, R394: base opcode 0x28, a second literal form of 0x01, a 0 field of SMOV that is not 0, major 0x11, minor 0x13 of SYS and
type 0x16 decode to no instruction but the reserved one of their length. -/
theorem test_decode_reserved :
    ([[0x000000A0], [0x00010002, 0, 0], [0x0101002C], [0x00000045, 0x003541A8, 0x003541A8],
      [0x00001301, 0x003546A8, 0x003546A8], [0x0016000D, 0x00301E01, 0x00354603]].map fun w =>
        match decodeWords w with | some (.reservedEncoding _ n, m) => n == w.length && m == n | _ => false)
      = [true, true, true, true, true, true] := by decide +kernel

/-- R302: a Horgedo word with a field that its row does not use, and one beyond the last OP, decode to nothing. -/
theorem test_decode_horgedo_reserved : decodeHg 0x00000100 = none ∧ decodeHg 0x00000023 = none := by decide +kernel

/-- R142, R143, R302, R303: a term for each check of the base and Horgedo fields that the check refuses, the last value in range accepted. -/
theorem test_wf_fields :
    ([Instr.vaddBase 256 0 0, .vaddBase 0 256 0, .vaddBase 0 0 256, .saddBase 128 0 0, .saddBase 0 128 0, .saddBase 0 0 128,
      .qsetLtBase 8 0 0, .ldBase 0 16 0, .waitBase 64 0, .waitBase 0 64, .sshlBase 0 0 256, .braqBase 8 false 0,
      .hgAdd 16 0 0, .hgAdd 0 16 0, .hgAdd 0 0 16, .hgShl 0 0 32, .hgLdq 0 0 12, .hgLdk 0 0 7, .hgLde 0 10, .hgLdw 0 16,
      .hgArgmin 0 12 0, .hgArgmax 0 0 12, .hgDecideP 2, .hgDecideF 5, .reservedEncoding 0 1, .reservedEncoding 12 1,
      .reservedEncoding 1 2, .announcementTimer].all fun i => !WellFormed i) = true ∧
    ([Instr.vaddBase 255 255 255, .saddBase 127 127 127, .qsetLtBase 7 127 0, .ldBase 255 15 255, .waitBase 63 63,
      .hgAdd 15 15 15, .hgShl 15 15 31, .hgLdq 15 15 11, .hgLdk 0 0 6, .hgLde 0 9, .hgLdw 0 15, .hgArgmin 0 11 11, .hgDecideP 1,
      .hgDecideF 4, .reservedEncoding 11 5, .exitBase].all fun i => WellFormed i) = true := by decide +kernel

/-- R147 to R152: a term for each check of the extended fields that the check refuses: a register out of range, a class that the field does
not take, an odd register of a pair, a type that the row does not take, SAT and RND where the row has none, a modifier that the row does
not take, an operand where the field is unused, a literal without code 1706 and the code without a literal, a predicate on a split form. -/
theorem test_wf_extended :
    ([Instr.vadd (op .i32 (.v 1536) (.v 0) (.v 0)), .vadd (op .i32 (.s 0) (.v 0) (.v 0)), .fadd (op .f64 (.v 1) (.v 2) (.v 4)),
      .vadd (op .f32 (.v 0) (.v 0) (.v 0)), .vadd { op .i32 (.v 0) (.v 0) (.v 0) with sat := true },
      .vadd { op .i32 (.v 0) (.v 0) (.v 0) with rnd := .rne }, .vadd { op .i32 (.v 0) (.v 0) (.v 0) with ord := 1 },
      .vadd { op .i32 (.v 0) (.v 0) (.v 0) with sel := 1 }, .vadd { op .i32 (.v 0) (.v 0) (.v 0) with c := .v 0 },
      .vadd { op .i32 (.v 0) (.v 0) (.v 0) with lit := some 1 }, .vadd (op .i32 (.v 0) (.v 0) .lit),
      .sadd (opp .i64 (.s 1) (.s 2) (.s 3))].all fun i => !WellFormed i) = true ∧
    ([Instr.vadd (opp .i32 (.v 1535) .lane .zero), .fadd { op .f64 (.v 1534) (.v 2) (.v 4) with rnd := .rsd },
      .vadd { op .i32 (.v 0) (.v 0) .lit with lit := some 1 }].all fun i => WellFormed i) = true := by decide +kernel

/-- R138, R145: an encoded instruction decodes to itself, words that follow left alone. -/
theorem test_round_trip :
    let i := Instr.ffma { opp .f64 (.v 1534) .lit .zero with c := .v 2, rnd := .rup, lit := some 0xFFFFFFFF00000001 }
    ((encode i).bind fun ws => (decodeWords (ws ++ [7])).map fun e => e.1 == i && e.2 == 5) = some true := by decide +kernel

/-- A word placed where the next step fetches runs: SADD s1, s2, s3 leaves its sum, and EXIT the strand Exited. -/
theorem test_placed_runs :
    goesOn (step (State.reset.withFetchWord 32 0x03020104)) = true ∧
    (strandAfter (step (State.reset.withFetchWord 32 0x0000009C))).phase = .exited ∧
    decodeTableWord 32 0x0000009C = some .exitBase := by
  refine ⟨by decide +kernel, by decide +kernel, by decide +kernel⟩


/-! ## The machine as a whole -/

/-- StepKeepsMemory: a step of the state after reset, and one of a placed instruction. -/
theorem wit_StepKeepsMemory : State.reset.memWf = true ∧ goesOn (step State.reset) = true ∧
    goesOn (step (State.reset.withFetchWord 32 0x03020104)) = true := by
  refine ⟨by decide +kernel, by decide +kernel, by decide +kernel⟩

/-- MemoryReadAfterWrite: a store that crosses a 64-bit boundary into a memory that lists bytes, one of zeros that unlists them. -/
theorem wit_MemoryReadAfterWrite : m0.memWf = true ∧ Place.flostra ≠ .peer ∧ Place.flostra ≠ .bell ∧
    (m0.store .flostra 0xFFF 4 0xA1B2C3D4).load .flostra 0xFFF 4 = 0xA1B2C3D4 ∧
    (m0.store .flostra 0x1000 2 0).flostra = [(0x2000, 0x01), (0x2001, 0x30), (0x3000, 0x0F)] ∧
    Memory.wf m0.flostra = true := by decide +kernel

/-- RegisterReadAfterWrite. -/
theorem wit_RegisterReadAfterWrite : regs.wf = true ∧ (regs.setS 1 0).wf = true := by decide +kernel

/-- StepRunsDecoded: an issue that the gate lets through, a word of a policy engine, an event, and a fetch of two literal words. -/
def issuing : State := { one strand with cur := none, agenda := [.issue 0 0] }
def fetching : State :=
  mapped (strand.onSplit 0 fun p => { p with words := [], pc := 0x4000 })
theorem wit_StepRunsDecoded :
    ({ issuing with agenda := [] } : State).mayIssue 0 0 = true ∧ ({ issuing with agenda := [] } : State).outOfTurn 0 0 = false ∧
    (issuing.strand? 0) = some strand ∧ decodeWords (strand.split 0).words = some (.exitBase, 1) ∧
    ({ issuing with agenda := [] } : State).gate 0 0 .exitBase = .pass { issuing with agenda := [] } ∧
    ({ issuing with agenda := [] } : State).matched 0 0 = none ∧
    goesOn (exec .exitBase { issuing with agenda := [], cur := some (0, 0) }) = true ∧
    ((State.reset.placePolicy 0x00032104).policyWord 0).bind decodeHg = some (.hgAdd 1 2 3) ∧
    after (exec .announcementTimer { s0 with cur := none }) (fun t => t.far.ask.isEmpty) false = true := by
  refine ⟨by decide +kernel, by decide +kernel, by decide +kernel, by decide +kernel, by decide +kernel, by decide +kernel, by decide +kernel,
    by decide +kernel, by decide +kernel⟩
theorem wit_StepRunsDecoded_fetch :
    let s : State := { fetching with flostra := writeBytes fetching.flostra 0x4000 [0x2E, 2] }
    (match s.fetch 0 0 0x4000 with
      | .words l accs => l == [0x22E, 0, 0] && accs.length == 3 && !s.farWords accs | _ => false) = true := by decide +kernel
/-- R140: the instruction cache of a core keeps a word until its partition takes up its next launch. -/
theorem test_icache :
    let s : State := fetching.cacheWords 0 0 0x4000 [0x22E]
    s.cached 0 0 0x4000 = some 0x22E ∧ (s.dropCode 0).cached 0 0 0x4000 = none ∧ (s.dropCode 1).cached 0 0 0x4000 = some 0x22E := by
  decide +kernel
/-- R28: cycles pass with no issue. -/
theorem test_elapse : after (step { s0 with agenda := [.elapse 3] }) (fun t => t.clock) 0 = 3 := by decide +kernel

/-- DecodeEncode: a well-formed instruction and the words of one; InstructionLengths: literals of an extended and a base form. -/
theorem wit_DecodeEncode :
    WellFormed (.vadd (opp .i32 (.v 1535) .lane .zero)) = true ∧ (Instr.vadd (opp .i32 (.v 1535) .lane .zero)).policy = false ∧
    decodeWords [0x0308041F, 0x00000E03, 0x00355002, 5, 0] =
      some (.vred { op .f32 (.s 3) (.v 1) (.v 2) with pred := some (1, false), c := .lit, lit := some 5 }, 5) := by
  refine ⟨by decide +kernel, by decide +kernel, by decide +kernel⟩

/-- PolicyWords: a word of each refused kind. -/
theorem wit_PolicyWords : (Instr.hgDecideF 4).policy = true ∧ WellFormed (.hgDecideF 4) = true ∧
    decodeHg 0x00002022 = none ∧ decodeHg 0x00030022 = some (.hgDecideF 3) ∧ hgUses 0x22 3 = some (false, false, true) ∧
    bitsN 0x00103204 20 12 ≠ 0 ∧ bitsN 0x23 0 8 = 0x23 := by decide +kernel

/-! ## Scalars -/

/-- DivisionResults, ScalarIntegerResults: operands at hand; a division by zero, the signed overflow and a plain one. -/
theorem wit_DivisionResults :
    s0.issuer = some c0 ∧ c0.freeS 9 ∧ c0.scalars (op .i64 (.s 9) (.s 1) (.s 2)) [.s 1, .s 2] = some [7, 3] ∧
    c0.scalars (op .i64 (.s 9) (.s 1) .zero) [.s 1, .zero] = some [7, 0] ∧
    c0.scalars (op .i64 (.s 9) (.s 5) (.s 3)) [.s 5, .s 3] = some [0x8000000000000000, 0xFFFFFFFFFFFFFFFF] ∧
    c0.scalars { op .i64 (.s 9) (.s 1) (.s 2) with c := .s 3 } [.s 1, .s 2, .s 3, .s 9] = some [7, 3, 0xFFFFFFFFFFFFFFFF, 0] := by
  simp only [Ic.freeS]; decide +kernel

/-- R184: 7 / 0, -2^63 / -1, -7 rem 3, each as the rule has them. -/
theorem test_sdiv :
    sAfter (exec (.sdiv (op .i64 (.s 9) (.s 1) .zero)) s0) 9 = 0xFFFFFFFFFFFFFFFF ∧
    sAfter (exec (.sdiv (op .i64 (.s 9) (.s 5) (.s 3))) s0) 9 = 0x8000000000000000 := by decide +kernel
theorem test_srem :
    sAfter (exec (.srem { op .i64 (.s 9) .lit (.s 2) with lit := some (-7) }) s0) 9 = 0xFFFFFFFFFFFFFFFF ∧
    sAfter (exec (.srem (op .n32 (.s 9) (.s 1) .zero)) s0) 9 = 7 := by decide +kernel
/-- R182: -1 + 7 on n32 wraps at 32 bits and is zero-extended. -/
theorem test_sadd : sAfter (exec (.sadd (op .n32 (.s 9) (.s 3) (.s 1))) s0) 9 = 6 ∧
    sAfter (exec (.saddImmBase 9 1 (-8)) s0) 9 = 0xFFFFFFFFFFFFFFFF := by decide +kernel
/-- R182: the high half of -1 times 7, signed and unsigned. -/
theorem test_smulh : sAfter (exec (.smulh (op .i64 (.s 9) (.s 3) (.s 1))) s0) 9 = 0xFFFFFFFFFFFFFFFF ∧
    sAfter (exec (.smulh (op .n64 (.s 9) (.s 3) (.s 1))) s0) 9 = 6 := by decide +kernel
/-- R183: a shift of the full width or more gives 0, an arithmetic one the sign. -/
theorem test_shifts : sAfter (exec (.sshl { op .b64 (.s 9) (.s 1) .lit with lit := some 64 }) s0) 9 = 0 ∧
    sAfter (exec (.ssar { op .i64 (.s 9) (.s 5) .lit with lit := some 99 }) s0) 9 = 0xFFFFFFFFFFFFFFFF := by decide +kernel

/-- ScalarBaseResults: both operands of a base form, and one with an immediate. -/
theorem wit_ScalarBaseResults :
    c0.scalars (baseX .i64 .zero (.s 1) (.s 2) none) [.s 1, .s 2] = some [7, 3] ∧
    c0.scalars (baseX .i64 .zero (.s 1) .zero none) [.s 1] = some [7] := by decide +kernel

/-- TrapEntry: a split with a handler, one without, and one inside a handler. -/
def armed : Strand := strand.onCtx fun c => { c with tvec := 0x8001 }
theorem wit_TrapEntry :
    (one armed).issuer = some (ic armed) ∧ armed.ctx.tvec.getLsbD 0 = true ∧ (ic armed).sp.privileged = false ∧
    strand.ctx.tvec.getLsbD 0 = false ∧ d0.sp.privileged = true := by decide +kernel
/-- R371: a reserved encoding with a handler enters it, TCAUSE telling TRAP 0x01 and a restart; without one it parks (R373). -/
theorem test_trap_entry :
    pcAfter (exec (.reservedEncoding 9 1) (one armed)) = 0x8000 ∧
    tcauseAfter (exec (.reservedEncoding 9 1) (one armed)) = 0x80102 ∧
    ((strandAfter (exec (.reservedEncoding 9 1) s0)).split 0).st = .parked := by decide +kernel
theorem test_trap : (strandAfter (exec (.trap (bare .zero (.s 1) .zero)) (one armed))).ctx.tpc = 12 ∧
    tcauseAfter (exec (.trap (bare .zero (.s 1) .zero)) (one armed)) = 0xA02 := by decide +kernel

/-- ScalarFrame, VectorFrame, MemoryIssueFrame: an instruction of each kind that goes on. -/
theorem wit_frames :
    c0.regs.wf = true ∧ (Instr.sadd (op .i64 (.s 9) (.s 1) (.s 2))).scalarDests = some [.s 9] ∧
    goesOn (exec (.sadd (op .i64 (.s 9) (.s 1) (.s 2))) s0) = true ∧
    (Instr.fadd (op .f64 (.v 8) (.v 10) (.v 12))).vectorDests = some ([.v 8, .v 9], true) ∧
    goesOn (exec (.fadd (op .f64 (.v 8) (.v 10) (.v 12))) s0) = true ∧
    goesOn (exec (.ld (opp .b32 (.v 8) (.s 6) .zero)) m0) = true ∧ m0.upsets = [] := by
  refine ⟨by decide +kernel, by decide +kernel, by decide +kernel, by decide +kernel, by decide +kernel, by decide +kernel, rfl⟩

/-! ## Vectors -/

/-- VectorIntegerResults, LaneBaseResults: sources of each count at hand, room for a register and a pair, both widths. -/
theorem wit_VectorIntegerResults :
    c0.offs (op .i32 (.v 8) (.v 1) (.v 2)) [(.v 1, false), (.v 2, false)] = some [.a 10 1, .u 3] ∧
    c0.offs (op .i64 (.v 8) (.v 10) (.s 3)) [(.v 10, true), (.s 3, true)] = some [.u 0, .u 0xFFFFFFFFFFFFFFFF] ∧
    c0.offs (op .i32 (.v 8) (.v 1) .zero) [(.v 1, false)] = some [.a 10 1] ∧
    c0.offs { op .i8 (.v 8) (.v 1) (.v 2) with c := .s 1 } [(.v 1, false), (.v 2, false), (.s 1, false)] = some [.a 10 1, .u 3, .u 7] ∧
    c0.offs { op .i32 (.v 8) (.v 1) (.v 2) with c := .s 1 } [(.v 1, false), (.v 2, false), (.s 1, false), (.v 8, false)] =
      some [.a 10 1, .u 3, .u 7, .u 0] ∧
    c0.offs (baseX .i32 .zero .zero .zero none) [(.v 1, false), (.v 2, false)] = some [.a 10 1, .u 3] ∧
    c0.offs (baseX .b32 .zero .zero .zero none) [(.s 1, false)] = some [.u 7] ∧
    c0.offs (baseVVV .f32 8 7 2) [(.v 7, false), (.v 2, false), (.v 8, false)] = some [.u 0x3FC00000, .u 3, .u 0] := by
  decide +kernel
theorem wit_room (act : Mask) : c0.freeV 8 false act ∧ c0.freeV 8 true act ∧ c0.freeV 1534 true act :=
  ⟨freeV_high _ _ _ (by omega), freeV_high _ _ _ (by omega), freeV_high _ _ _ (by omega)⟩

/-- VectorFloatResults, ConversionResults: the same under RSD, whose seed is a scalar at hand. -/
def dithered : Strand := strand.onCtx fun c => { c with mode := 6 }
theorem wit_VectorFloatResults :
    (one dithered).issuer = some (ic dithered) ∧ effMode dithered.ctx.mode .dflt = .rsd ∧
    (ic dithered).freeS (modeSeed dithered.ctx.mode) ∧ (ic dithered).regs.spend (modeSeed dithered.ctx.mode) = false ∧
    effMode strand.ctx.mode .dflt ≠ .rsd ∧ effMode strand.ctx.mode .rsd = .rsd := by
  simp only [Ic.freeS]; decide +kernel
theorem wit_ConversionResults :
    c0.offs { op .e4m3 (.v 8) (.v 7) (.v 2) with c := .s 9 } [(.s 9, false)] = some [.u 0] ∧ 0 ≤ packMax .e4m3 ∧ packMax .e4m3 = 1 ∧
    packMax .f16 = 0 ∧ c0.offs (op .e4m3 (.v 8) (.v 7) (.s 2)) [(.v 7, false), (.s 2, false)] = some [.u 0x3FC00000, .u 3] ∧
    (3 : DWord).toNat < 32 / Ty.width .e4m3 ∧
    c0.offs { op .e8m0 (.v 8) (.v 7) .zero with sel := 0xC } [(.v 7, false), (.zero, false)] = some [.u 0x3FC00000, .u 0] := by
  decide +kernel

/-- R158's kernel: VMUL of a lane's number plus 5 by itself; the upper lane of VADD on a pair carries into its high word. -/
theorem test_vmul : vAfter (exec (.vmulBase 8 1 1) s0) 8 255 = 70225 := by decide +kernel
theorem test_vadd_pair :
    ((strandAfter (exec (.vadd (op .i64 (.v 8) (.s 3) (.s 3))) s0)).ctx.regs.readV 8 true) = .known (.u 0xFFFFFFFFFFFFFFFE) := by
  decide +kernel
/-- R146: a lane outside the predicate keeps its value. -/
theorem test_predicated : vAfter (exec (.vadd (opp .i32 (.v 8) (.v 1) (.v 2))) s0) 8 1 = 14 ∧
    vAfter (exec (.vadd (opp .i32 (.v 8) (.v 1) (.v 2))) s0) 8 2 = 0 := by decide +kernel
/-- R187: VSADD.i8 clamps each byte. -/
theorem test_vsadd : vAfter (exec (.vsadd { op .i8 (.v 8) .lit .lit with lit := some 0x7F800102 }) s0) 8 0 = 0x7F800204 := by
  decide +kernel
/-- R187: VDOT4.i8 of bytes 1, -1, 2, 3 with themselves, on 5. -/
theorem test_vdot4 : vAfter (exec (.vdot4 { op .i8 (.v 8) .lit .lit with c := .zero, lit := some 0x0302FF01 }) s0) 8 9 = 15 := by
  decide +kernel

/-- R60, R69: 1.5 + 1.5; 1.5 × 3 is exact; 1 / 3 is inexact and raises NX. -/
theorem test_fadd : vAfter (exec (.fadd (op .f32 (.v 8) (.v 7) (.v 7))) s0) 8 5 = 0x40400000 := by decide +kernel
theorem test_fdiv :
    vAfter (exec (.fdiv { op .f32 (.v 8) .lit (.v 7) with lit := some 0x3F800000 }) s0) 8 5 = 0x3F2AAAAB ∧
    ((strandAfter (exec (.fdiv { op .f32 (.v 8) .lit (.v 7) with lit := some 0x3F800000 }) s0)).ctx.mode) = 0x100001 := by
  decide +kernel
/-- R67, R68: a signalling NaN gives the canonical NaN and raises INV and NF. -/
theorem test_fmul_nan :
    vAfter (exec (.fmulBase 8 7 9) (one (strand.onCtx fun c => { c with regs := c.regs.setV 9 (.u 0x7F800001) false }))) 8 0 =
      0x7FC00000 := by decide +kernel

/-- R198's example: SCLQ of a block whose greatest magnitude is 1000, BQNT of 1000 and 3 under it, BDQ of the codes. -/
def quant (a : Word) : State :=
  one (strand.onCtx fun c => { c with regs := (c.regs.setV 9 (.u a) false).setV 10 (.u 0x81) false })
theorem test_sclq : vAfter (exec (.sclq { op .e8m0 (.v 8) (.v 9) .zero with sel := 0xC }) (quant 0x447A0000)) 8 31 = 0x81 := by
  decide +kernel
theorem test_bqnt :
    vAfter (exec (.bqnt (op .e4m3 (.v 8) (.v 9) (.v 10))) (quant 0x447A0000)) 8 0 = 0x78 ∧
    vAfter (exec (.bqnt (op .e4m3 (.v 8) (.v 9) (.v 10))) (quant 0x40400000)) 8 1 = 0x34 := by decide +kernel
theorem test_bdq :
    vAfter (exec (.bdq (op .e4m3 (.v 8) (.v 9) (.v 10))) (quant 0x78)) 8 0 = 0x44800000 ∧
    vAfter (exec (.bdq (op .e4m3 (.v 8) (.v 9) (.v 10))) (quant 0x34)) 8 1 = 0x40400000 := by decide +kernel

/-- LaneExchangeResults: sources at hand for each shape of exchange; five leaves with an index each below the count. -/
def leaves : Strand := strand.onCtx fun c => { c with regs :=
  { c.regs with
    v := [(1, { shape := .g 0 ([0x34800000, 0x33800000, 0x33800000, 0x33800000, 0x3F800000] ++ List.replicate 251 0), pairHi := false }),
          (2, { shape := .a 4 0xFFFFFFFF, pairHi := false })]
    p := [(1, 31)] } }
def vredX : Opnds := { op .f32 (.s 3) (.v 1) (.v 2) with pred := some (1, false), c := .lit, lit := some 5 }
theorem wit_LaneExchangeResults :
    c0.offs (op .b32 (.v 8) (.v 1) (.v 2)) [(.v 1, false), (.v 2, true)] = some [.a 10 1, .u 3] ∧
    c0.offs (op .b32 (.v 8) (.v 1) (.s 1)) [(.v 1, false), (.s 1, true)] = some [.a 10 1, .u 7] ∧
    c0.regs.blocksWrite 8 false true = false ∧ c0.st.busy (.v 8) false = false ∧
    (one leaves).issuer = some (ic leaves) ∧ (5 : DWord).toNat ≠ 0 ∧ (5 : DWord).toNat ≤ 2 ^ 32 ∧
    (List.range 256).all (fun l => !laneIn ((ic leaves).act vredX) l || decide (((Off.a 4 0xFFFFFFFF).at l).toNat < 5)) = true ∧
    ((ic leaves).offs vredX [(.v 2, false), (.lit, true)]) = some [.a 4 0xFFFFFFFF, .u 5] ∧
    (List.range 5).all (fun l => (List.range 5).all fun k => l == k || (Off.a 4 0xFFFFFFFF).at l != (Off.a 4 0xFFFFFFFF).at k) = true
    := by decide +kernel
/-- R204's example: the root and two prefixes. -/
theorem test_vred : sAfter (exec (.vred vredX) (one leaves)) 3 = 0x3F800003 := by decide +kernel
theorem test_vscan :
    vAfter (exec (.vscan { vredX with d := .v 4 }) (one leaves)) 4 1 = 0x3F800001 ∧
    vAfter (exec (.vscan { vredX with d := .v 4 }) (one leaves)) 4 4 = 0x3F800000 := by decide +kernel
/-- R201's example, lanes 1, 3 and 33. -/
def bflyState : State := one (strand.onCtx fun c => { c with regs :=
  { c.regs with v := [(10, { shape := .a 0 1, pairHi := false }), (11, { shape := .a 1000 1, pairHi := false })]
                p := [(2, ~~~8)] } })
theorem test_bfly :
    let o := exec (.bfly { op .b32 (.v 12) (.v 10) (.v 11) with pred := some (2, false), sel := 5 }) bflyState
    vAfter o 12 1 = 33 ∧ vAfter o 12 33 = 1033 ∧ vAfter o 12 3 = 0 ∧ vAfter o 12 35 = 1035 := by decide +kernel

/-- LanePredicateResults: operands of each form of PMOV at hand; ShapeResults: none of the registers a pendant. -/
theorem wit_LanePredicateResults :
    c0.offs (op .i32 (.p 2) (.v 1) (.v 2)) [(.v 1, false), (.v 2, false)] = some [.a 10 1, .u 3] ∧
    c0.offs (op .pred (.p 2) (.s 1) .zero) [(.s 1, true)] = some [.u 7] ∧
    c0.regs.spend 1 = false ∧ c0.st.syms = [] ∧ c0.act (op .b32 (.v 8) (.v 1) .zero) = fullMask ∧
    c0.act (opp .b32 (.v 8) (.v 1) .zero) ≠ fullMask := by decide +kernel
/-- R152, R179: PSET.lt signed and unsigned of lanes 10 + l against -1; PCNT and PFIRST of p1 and of none. -/
theorem test_pset :
    (strandAfter (exec (.pset { op .i32 (.p 2) (.v 1) (.s 3) with sel := 2 }) s0)).ctx.regs.pred 2 = 0 ∧
    (strandAfter (exec (.pset { op .n32 (.p 2) (.v 1) (.s 3) with sel := 2 }) s0)).ctx.regs.pred 2 = fullMask := by decide +kernel
theorem test_pfirst :
    sAfter (exec (.pfirst (op .pred (.s 9) (.p 1) .zero)) s0) 9 = 0 ∧ sAfter (exec (.pfirst (op .pred (.s 9) (.p 2) .zero)) s0) 9 = 256 ∧
    sAfter (exec (.pcnt (op .pred (.s 9) (.p 1) .zero)) s0) 9 = 2 := by decide +kernel
/-- R207: VSHAPE.u takes the lowest lane; R206: VSHQ gives the tag of shape A. -/
theorem test_vshape : vAfter (exec (.vshape (op .b32 (.v 8) (.v 1) .zero)) s0) 8 200 = 10 := by decide +kernel
theorem test_vshq : sAfter (exec (.vshq (bare (.s 9) (.v 1) .zero)) s0) 9 = 1 := by decide +kernel

/-- R395's example: the CODE of each word. -/
theorem test_reserved_codes :
    ([[0x000000A0], [0x03020142, 0, 0], [0x00280011, 0x00002804, 0x00354006], [0x0002000D, 0x003006A9, 0x00354601],
      [0x80080015, 0x00002804, 0x00354006], [0x00000045, 0, 0], [0x00000201, 0x00302EA8, 0x00004EA8]].map decodeWords) =
    [some (.reservedEncoding 9 1, 1), some (.reservedEncoding 9 3, 3), some (.reservedEncoding 7 3, 3),
      some (.reservedEncoding 1 3, 3), some (.reservedEncoding 9 3, 3), some (.reservedEncoding 9 3, 3),
      some (.reservedEncoding 4 3, 3)] := by decide +kernel

/-! ## Control flow and SYS -/

/-- BranchResults: targets at the last word below 2^57, scalars that are aligned and low enough, q1 set and q2 clear, a loop count of 1
and one above; an EXIT of the last lanes. -/
def loopRegs : Strand := strand.onCtx fun c => { c with regs := (c.regs.setS 10 1).setS 11 (0x1FFFFFFFFFFFFFC) }
theorem wit_BranchResults :
    (target 0 (BitVec.signExtend 64 (0x7FFFFF : BitVec 24))).toNat < 2 ^ 57 ∧ (target 0 0x7FFFFFFFFFFFFF).toNat < 2 ^ 57 ∧
    ¬ (target 0 0x80000000000000).toNat < 2 ^ 57 ∧ (c0.regs.sp 1 != false) = true ∧ (c0.regs.sp 2 != false) = false ∧
    c0.st.busy (.s 9) true = false ∧ c0.scalars (op .i32 (.s 1) .zero .zero) [.s 1] = some [7] ∧ (7 : DWord) ≠ 1 ∧
    (one loopRegs).issuer = some (ic loopRegs) ∧
    (ic loopRegs).scalars (op .i32 (.s 10) .zero .zero) [.s 10] = some [1] ∧
    (ic loopRegs).scalars (op .i32 .zero (.s 11) .zero) [.s 11] = some [0x1FFFFFFFFFFFFFC] ∧
    (0x1FFFFFFFFFFFFFC : DWord).toNat % 4 = 0 ∧ (0x1FFFFFFFFFFFFFC : DWord).toNat < 2 ^ 57 := by decide +kernel
theorem wit_BranchResults_exit :
    ((s0.exitLanes c0 (c0.act (op .i32 .zero .zero .zero)) (c0.nextPc 3)).strand? 0).isSome = true ∧
    c0.st.exited ||| (c0.sp.mask &&& c0.act (op .i32 .zero .zero .zero)) = BitVec.allOnes 256 ∧
    (s0.seenAll c0.st.part c0.st.ctx.spillAddrs 128).far.ask = [] ∧
    (target 0 (.ofInt 64 (2 ^ 55 - 1))).toNat = 4 * (2 ^ 55 - 1) := by decide +kernel
/-- R139: a backward branch wraps below the pc; R178: LOOP at 1 falls through and leaves 0. -/
theorem test_bra : pcAfter (exec (.braBase (-2)) (one (strand.onSplit 0 fun p => { p with pc := 0x100 }))) = 0xF8 := by decide +kernel
theorem test_loop :
    pcAfter (exec (.loop { bare (.s 10) .zero .lit with lit := some 100 }) (one loopRegs)) = 20 ∧
    sAfter (exec (.loop { bare (.s 10) .zero .lit with lit := some 100 }) (one loopRegs)) 10 = 0 := by decide +kernel
theorem test_exit : (strandAfter (exec .exitBase s0)).phase = .exited := by decide +kernel

/-- DivergeResults: p1 splits the lanes, with a free slot and with none; a join with a deferred path and one without; a break of all
the lanes and of some. -/
def entry : Entry := { joinPc := 0, owner := 0, expected := fullMask, arrived := 0, pending := 1, deferred := none }
def nested (d : Option (VAddr × Mask)) : Strand := strand.onCtx fun c => { c with stack := [{ entry with deferred := d }] }
def crowded : Strand := strand.onCtx fun c => { c with splits := c.splits.map fun p => if p.st == .free then { p with st := .ready } else p }
def brdX : Opnds := { bare .zero (.p 1) .lit with lit := some 0x0000000900000005 }
theorem wit_DivergeResults :
    c0.st.ctx.stack.length < 16 ∧ (target 0 9).toNat < 2 ^ 57 ∧ (target 0 5).toNat < 2 ^ 57 ∧
    c0.sp.mask &&& c0.regs.pred 1 ≠ 0 ∧ c0.sp.mask &&& ~~~(c0.sp.mask &&& c0.regs.pred 1) ≠ 0 ∧
    c0.sp.mask &&& c0.regs.pred 2 = 0 ∧ c0.sp.mask &&& ~~~(c0.sp.mask &&& ~~~c0.regs.pred 2) = 0 ∧
    freeSplit strand.ctx.splits = some 1 ∧ freeSplit crowded.ctx.splits = none ∧ (one crowded).issuer = some (ic crowded) ∧
    (one (nested none)).issuer = some (ic (nested none)) ∧ topCover (nested none).ctx.stack fullMask = some 0 ∧
    (nested none).ctx.stack[0]? = some entry ∧ entry.joinPc = (ic (nested none)).sp.pc ∧
    topCover (nested (some (4, 1))).ctx.stack (ic (nested (some (4, 1)))).sp.mask = some 0 ∧
    ((one (nested none)).seenAll 0 (nested none).ctx.spillAddrs 128).far.ask = [] ∧
    1 ≤ (coverIdx (nested none).ctx.stack fullMask).length := by decide +kernel
/-- R31: the taken lanes go to the target, the others to slot 1 past the branch, and the entry waits for two. -/
theorem test_brd :
    let o := exec (.brd brdX) s0
    pcAfter o = 20 ∧ ((strandAfter o).split 0).mask = 3 ∧ ((strandAfter o).split 1).mask = ~~~3 ∧
      ((strandAfter o).ctx.stack.map fun e => (e.joinPc.toNat, e.pending)) = [(36, 2)] := by decide +kernel
/-- R32: a join with a deferred path takes it up. -/
theorem test_join : pcAfter (exec (.join (bare .zero .zero .zero)) (one (nested (some (0x44, 1))))) = 0x44 := by decide +kernel
/-- R33: a break of the lanes of p1 leaves the others in their entry. -/
theorem test_brk :
    let o := exec (.brk { bare .zero (.p 1) .lit with lit := some 16 }) (one (nested none))
    ((strandAfter o).split 1).pc.toNat = 64 ∧ ((strandAfter o).ctx.stack.map fun e => e.expected) = [~~~3] := by decide +kernel

/-- SystemResults: a scalar at hand, a counter of the strand's own quarter and none; registers that a split may read or write. -/
theorem wit_SystemResults :
    c0.freeS 9 ∧ c0.scalars (op .i32 .zero (.s 1) .zero) [.s 1] = some [7] ∧ perfNum 0x04000000 = none ∧
    perfNum 0x0100 = some (0, 1, 0) ∧ quarterOf 0 = 0 ∧ perfFree 0 1 = false ∧ c0.mayReadCsr 0 = true ∧
    c0.mayReadCsr 0x100 = true ∧ c0.mayReadCsr 2 = false ∧ d0.mayReadCsr 2 = true ∧ d0.mayWriteCsr 0 = true ∧ d0.mayWriteCsr 2 = true ∧
    d0.mayWriteCsr 3 = true ∧ d0.mayWriteCsr 5 = true ∧ d0.mayWriteCsr 6 = true ∧ d0.mayWriteCsr 0x400 = false ∧
    c0.st.flagSyms = [] ∧ c0.st.ops.any Op.raises = false ∧ c0.st.busy (.s 9) false = false := by
  simp only [Ic.freeS]; decide +kernel
/-- R65, R169: MODE.RND takes the low three bits and leaves the old register in s9; R370: a write of TCAUSE keeps its 20 bits. -/
theorem test_mode :
    let o := exec (.mode { bare (.s 9) (.s 1) .zero with sel := 0 }) s0
    sAfter o 9 = 1 ∧ (strandAfter o).ctx.mode = 7 := by decide +kernel
theorem test_csrw : tcauseAfter (exec (.csrw { bare .zero (.s 3) .zero with c := .raw 2 }) h0) = 0xFFFFF := by decide +kernel

/-- TrapInstructionResults, PrivilegedResults, ReservedAndPrivilegeTraps: a handler, outside and inside the debug agent, with a mailbox
and a reply; a split that is not privileged. -/
def agent : Strand := handler.onCtx fun c => { c with dbgmb := 0x1000000000000000 }
def waiting : Strand := { handler.onSplit 0 fun p => { p with posted := true } with reply := some 5 }
def mailbox (st : Strand) : State := { one st with parts := [(0, { Part.reset with block := [(14, 0x1000)] })] }
theorem wit_TrapInstructionResults :
    d0.sp.privileged = true ∧ d0.st.ctx.dbgReason = 0 ∧ d0.st.loaded = none ∧ d0.slot < d0.st.ctx.splits.length ∧
    (one agent).issuer = some (ic agent) ∧ agent.ctx.dbgReason ≠ 0 ∧ agent.loaded = none ∧ (ic agent).sp.privileged = true := by
  decide +kernel
theorem wit_PrivilegedResults :
    (mailbox waiting).issuer = some (ic waiting) ∧ (ic waiting).sp.privileged = true ∧
    (ic waiting).scalars (op .i32 (.s 9) (.s 1) (.s 2)) [.s 1] = some [7] ∧ ((mailbox waiting).part 0).vbase 14 ≠ 0 ∧
    (ic waiting).st.busy (.s 9) false = false ∧ waiting.reply = some 5 ∧ (ic waiting).sp.posted = true ∧
    (ic waiting).scalars (op .i32 .zero (.s 1) (.s 2)) [.s 1, .s 2] = some [7, 3] ∧
    (ic waiting).scalars (op .i32 .zero (.s 1) .zero) [.s 1, .zero] = some [7, 0] := by
  decide +kernel
theorem wit_PrivilegedResults_tlb :
    let kept : TlbEnt := { part := 1, va := 0, size := 2, leaf := 0x0F, ent := 0x3000 }
    let s : State := { one handler with cores := [(0, { CoreSt.reset with tlb := [{ kept with part := 0 }, kept] })] }
    ((s.tlbInv 0 0 1).core 0).tlb = [kept] := by decide +kernel
theorem wit_ReservedAndPrivilegeTraps :
    c0.sp.privileged = false ∧ (2 ≠ 0x000 ∧ 2 ≠ 0x001 ∧ ¬(0x100 ≤ 2 ∧ 2 < 0x120)) ∧ csrFirmware 0x400 = true := by decide +kernel
/-- R171: TRET returns to TPC. -/
theorem test_tret : pcAfter (exec (.tret (bare .zero .zero .zero)) (one (handler.onCtx fun c => { c with tpc := 0x48 }))) = 0x48 ∧
    tcauseAfter (exec (.tret (bare .zero .zero .zero)) (one armed)) = 0x80202 := by decide +kernel

/-- ContextImageResults: a handler of a mapped partition with an entry on its stack and one spilled, and a save area whose first bytes
hold the size of its block. -/
def spilled : Strand :=
  { handler.onCtx fun c => { c with stack := [entry], spillp := 0x0200000000006000 } with
    savep := 0x100000, atEntry := some { ctx := handler.ctx, counts := [0, 0, 0, 0, 0], gangSeq := 0, batch := 0, closed := 0, opNext := 0 } }
def saveState : State := { mapped spilled with flostra := (mapped spilled).flostra ++ [(0x100002, 5)] }
def reaches (acc : Access) (l : List Nat) : Bool :=
  l.all fun p => match (ic spilled).trLane saveState .global (.s 0) acc (.ofNat 64 (p % 2 ^ 57)) with | .ok _ => true | _ => false
theorem wit_ContextImageResults :
    saveState.issuer = some (ic spilled) ∧ (ic spilled).sp.privileged = true ∧ (ic spilled).sp.redo = none ∧ spilled.ctx.stack.length = 1 ∧
    spillCount spilled.ctx = 1 ∧ reaches .write [spillAddr spilled.ctx 1] = true ∧ reaches .read [spillAddr spilled.ctx 0] = true ∧
    (ic spilled).scalars { op .i32 .zero .lit .zero with lit := some 1 } [.lit] = some [1] ∧
    spilled.savep ≠ 0 ∧ spilled.atEntry.isSome = true ∧ spilled.syms = [] ∧ spilled.ops = [] ∧
    reaches .write (imagePages 0x100000 (ctxBytes 5)) = true ∧ reaches .read (imagePages 0x100000 (ctxBytes 5)) = true ∧
    (saveState.seenAll 0 [spillAddr spilled.ctx 0] 128).far.ask = [] ∧ (saveState.seen 0 0x100000 (ctxBytes 5)).far.ask = [] ∧
    (saveState.seen 0 0x100000 (ctxBytes 5)).vread 0 0x100002 1 = 5 := by decide +kernel
/-- R34, R175: ESAVE.stack moves the one entry out. -/
theorem test_esave_stack :
    let o := exec (.esaveStack { bare .zero .lit .zero with sel := 1, lit := some 1 }) saveState
    (strandAfter o).ctx.stack = [] ∧ after o (fun t => (t.load .flostra 0x6080 8, t.load .flostra 0x60A0 8)) (0, 0) ≠ (0, 0) := by
  decide +kernel

/-! ## Memory -/

/-- A translation of `mapped`, and bytes that two lanes reach. -/
def tr (va : Nat) : Tr :=
  { place := .flostra, pa := va, fmt := 0, geom := 0, frame := 0, off := va, far := false, nc := false, ent := 0x3000 }
def ok2 : List (Nat × DWord × Tr) := [(0, 0x5000, tr 0x5000), (1, 0x5001, tr 0x5001)]
def ldX : Opnds := opp .n8 (.v 8) (.s 6) (.v 5)
def stX : Opnds := opp .n8 (.v 1) (.s 6) (.v 5)
def loads : State := { m0 with flostra := m0.flostra ++ [(0x5000, 0xF0), (0x5001, 0x0F)] }

/-- MemoryIssue: two lanes of a load, a store and an atomic of either form, and a scalar load, with nothing in their way. -/
theorem wit_MemoryIssue :
    c0.offs ldX [(.s 6, true), (.v 5, false)] = some [.u 0x5000, .a 0 1] ∧
    c0.clear m0 .global (.s 6) .read 1 .ld true (laneAddrs .global c0.regs (.s 6) (.v 5) (.u 0x5000) (.a 0 1) (lanesOf (c0.act ldX))) ok2 ∧
    c0.clear m0 .global (.s 6) .write 1 .st true (laneAddrs .global c0.regs (.s 6) (.v 5) (.u 0x5000) (.a 0 1) (lanesOf (c0.act ldX))) ok2 ∧
    c0.clear m0 .global (.s 6) .write 1 .st false (laneAddrs .global c0.regs (.s 6) (.v 5) (.u 0x5000) (.a 0 1) (lanesOf (c0.act ldX))) ok2 ∧
    c0.offs stX [(.s 6, true), (.v 5, false), (.v 1, false)] = some [.u 0x5000, .a 0 1, .a 10 1] ∧
    Off.uniformAddr (.u 0x5000) (.u 0) = true ∧
    c0.clear m0 .global (.s 6) .read 1 .ld true (laneAddrs .global c0.regs (.s 6) .zero (.u 0x5000) (.u 0) [lowLane c0.sp.mask])
      [(0, 0x5000, tr 0x5000)] := by
  refine ⟨by decide +kernel, ?_, ?_, ?_, by decide +kernel, by decide +kernel, ?_⟩ <;>
    refine ⟨rfl, by decide +kernel, by rfl, ⟨by decide +kernel, by decide +kernel⟩, ?_, by decide +kernel, ?_⟩ <;> intro h <;>
      decide +kernel
theorem wit_MemoryIssue_room : c0.freeV 8 false (c0.act ldX) ∧ c0.freeS 9 := ⟨freeV_high _ _ _ (by omega), rfl⟩

/-- R213: LD.n8 zero-extends, LD.i8 sign-extends; the data come with the event, and the lanes outside keep what they held. -/
noncomputable def ldThen (t : Ty) : Host.Outcome State Fault Refusal :=
  match exec (.ld { ldX with ty := some t }) loads with
  | .next s => exec (.loadDataArrival 0 0) { s with cur := none }
  | o => o
theorem test_ld : vAfter (ldThen .n8) 8 0 = 0xF0 ∧ vAfter (ldThen .i8) 8 0 = 0xFFFFFFF0 ∧ vAfter (ldThen .n8) 8 1 = 0x0F ∧
    vAfter (ldThen .n8) 8 2 = 0 := by decide +kernel
/-- R108: of two lanes at one address the highest stores; R213: ST.b32 is little-endian. -/
noncomputable def stThen (x : Opnds) : Host.Outcome State Fault Refusal :=
  match exec (.st x) m0 with
  | .next s => exec (.storePerformed 0 0) { s with cur := none }
  | o => o
theorem test_st : after (stThen (opp .b32 (.v 1) (.s 6) .zero)) (fun t => t.load .flostra 0x5000 4) 0 = 11 ∧
    after (stThen (opp .b32 (.s 3) (.s 6) .zero)) (fun t => t.load .flostra 0x5003 2) 0 = 0xFF := by decide +kernel
/-- R220, R221: two lanes add to one word in turn, and lane 1 sees what lane 0 wrote. -/
noncomputable def atmThen : Host.Outcome State Fault Refusal :=
  match exec (.aadd { opp .n32 (.v 8) (.s 6) .zero with c := .v 1 }) loads with
  | .next s => exec (.loadDataArrival 0 0) { s with cur := none }
  | o => o
theorem test_aadd : vAfter atmThen 8 1 = 0x0FFA ∧ after atmThen (fun t => t.load .flostra 0x5000 4) 0 = 0x1005 := by decide +kernel
/-- R404: a lane off its alignment traps 0x05 with CODE 2, over the lanes at fault. -/
theorem test_misaligned :
    let o := exec (.ld (opp .b32 (.v 8) (.s 6) (.v 5))) (mapped armed)
    tcauseAfter o = 0x80502 ∧ (strandAfter o).ctx.tmask = 2 ∧ (strandAfter o).ctx.tinfo.toNat % 65536 = 2 := by decide +kernel

/-- SpecialLoadIssue: LDT's base, stride and rows; a page of a format; LDC's offsets at the end of the space; TRX's entry. -/
def ldtOk : List (Nat × DWord × Tr) :=
  [(0, 0x5000, tr 0x5000), (0, 0x5008, tr 0x5008), (0, 0x5010, tr 0x5010), (0, 0x5018, tr 0x5018),
    (1, 0x5020, tr 0x5020), (1, 0x5028, tr 0x5028), (1, 0x5030, tr 0x5030), (1, 0x5038, tr 0x5038)]
def formatted (fmt : Nat) (st : Strand) : State :=
  { mapped st with cores := [(0, { CoreSt.reset with tlb :=
      [{ part := 0, va := 0, size := 0, leaf := .ofNat 64 (0x0F + 256 * fmt), ent := 0x3000 }] })] }
def ftr (off fmt : Nat) : Tr :=
  { place := .flostra, pa := off, fmt := fmt, geom := 0, frame := 0, off := off, far := false, nc := false, ent := 0x3000 }
def eight : Strand := strand.onCtx fun c => { c with regs := { c.regs with p := [(1, 0xFF)] } }
theorem wit_SpecialLoadIssue :
    c0.sp.redo = none ∧ c0.st.full .ld = false ∧ m0.eccScan 0 2 (accsOf ldtOk) = (m0, [], 0, 0) ∧ m0.sectorsFit 0 (plainRanges ldtOk 2 false) = true ∧
    (c0.act ldX) = 3 ∧ laneAddrs .global c0.regs (.s 6) .zero (.u 0x5000) (.u 0) [lowLane c0.sp.mask] = [(0, 0x5000)] ∧
    ldtOk.map (fun e => (e.1, e.2.1)) = (lanesOf (c0.act ldX)).flatMap (fun l => (List.range 4).map fun r =>
      (l, (0x5000 : DWord) + .ofNat 64 (4 * (l % 8)) * 8 + .ofNat 64 (2 * (l / 8)) + .ofNat 64 r * 8)) ∧
    (∀ e ∈ ldtOk, (c0.trLane m0 .global (.s 6) .read e.2.1).plain 2 = .ok e.2.2) ∧
    ((8 : DWord).toNat % 8 = 0 ∧ 8 ≤ (8 : DWord).toNat ∧ (0x7FFFFFF8 : DWord).toNat ≤ 2 ^ 31 - 8) ∧
    (∀ l ∈ [0, 1], ((Off.a 0xFFFE 1).at l).toNat + Ty.bytes .n8 ≤ 65536 ∧ ((Off.a 0xFFFE 1).at l).toNat % Ty.bytes .n8 = 0) ∧
    ((m0.core 0).tlbFind 0 .read 0x5000).isSome = true ∧ (7 : DWord).toNat < 2 ^ 57 := by
  decide +kernel
theorem wit_SpecialLoadIssue_formats :
    let ok : List (Nat × DWord × Tr) := (List.range 8).map fun l => (l, .ofNat 64 l, ftr l 1)
    (formatted 1 eight).issuer = some (ic eight) ∧ lanesOf ((ic eight).act ldX) = List.range 8 ∧
    ok.map (fun e => (e.1, e.2.1)) = laneAddrs .global (ic eight).regs .zero (.v 5) (.u 0) (.a 0 1) (List.range 8) ∧
    (∀ e ∈ ok, (ic eight).trLane (formatted 1 eight) .global .zero .write e.2.1 = .ok e.2.2 ∧ e.2.2.fmt ≠ 0) ∧
    partBlocks (elemsOf ok) = [] ∧ (ic eight).st.lateHits .global ok ((elemsOf ok).flatMap Elem.writeRanges) = [] ∧
    (formatted 1 eight).sectorsFit 0 ((elemsOf ok).flatMap Elem.writeRanges) = true ∧
    (formatted 1 eight).sectorsFit 0 ((elemsOf ok).flatMap Elem.readRanges) = true ∧ (ic eight).st.full .st = false ∧
    ((ic eight).checkAddrs (formatted 1 eight) .global .zero 1
      (laneAddrs .global (ic eight).regs .zero (.v 5) (.u 0) (.a 0 1) (List.range 8))).isNone = true := by decide +kernel

/-- LateLoadResults: a .late load of two lanes, a symbol free; then LoadDataResults and StorePerformedResults: its data may come. -/
def lateX : Opnds := { ldX with late := true }
noncomputable def lateState : State := after (exec (.ld lateX) loads) (fun t => { t with cur := none }) loads
theorem wit_LateLoadResults :
    m0.freeSym 0 = some 0 ∧ c0.lateOk m0 = true ∧ m0.sectorsFit 0 (plainRanges ok2 1 false) = true ∧ (c0.checkAddrs m0 .global (.s 6) 1
      (laneAddrs .global c0.regs (.s 6) (.v 5) (.u 0x5000) (.a 0 1) [0, 1])).isNone = true ∧
    c0.regs.blocksWrite 8 false false = false ∧ (c0.regs.writeP 8 (Form.fresh 0 false)).overflows 5 = false ∧
    c0.st.busy (.v 8) false = false ∧ c0.sp.redo = none ∧ c0.st.full .ld = false ∧ c0.regs.readV 8 false = .known (.u 0) := by decide +kernel
theorem wit_LoadDataResults :
    let s := after (exec (.ld ldX) loads) (fun t => { t with cur := none }) loads
    (match s.ready? 0 0 with
      | some (st, o) => o.sym.isNone && o.body.brings && (match s.loadVals st.wg o.body with
        | (vals, fl, u) => (((u.useSlots 0 (st.ctx.regs.dstSlots o.body.dst)).onStrand 0 fun q =>
            q.landRegs 0 (Ctx.landed fl fun r => r.land o.body.dst vals)).finishOp 0 0).far.asked == [])
      | none => false) = true ∧
    (s.quarter 0).dumping = false ∧
    (({ s with quarters := [(0, { QuarterSt.reset with dumping := true })] } : State).quarter 0).dumping = true ∧
    (match ((lateState.strand? 0).bind fun q => q.ops.find? fun p => p.sym == some 0), lateState.ready? 0 0 with
      | some o, some (st, p) => o == p && o.dataIn st.syms && (st.op? o.id).isSome && ((st.syms.find? fun z => z.num == 0).map (·.lead)) == some none
          && lateState.eccScan st.part o.body.replyAccs.1 o.body.replyAccs.2 == (lateState, [], 0, 0)
          && (lateState.resolveSym 0 o.id 0).far.asked == []
      | _, _ => false) = true := by decide +kernel
/-- R98, R102: the destination holds a form until the data come, and then each lane its value. -/
theorem test_late :
    (((strandAfter (.next lateState)).ctx.regs.vreg 8).tag) = 3 ∧ vAfter (exec (.symbolResolution 0 0) lateState) 8 1 = 0x0F ∧
    vAfter (exec (.symbolResolution 0 0) lateState) 8 2 = 0 := by decide +kernel
/-- MemoryAddressTraps: a lane past the allocation and one misaligned, and only a misaligned one. -/
theorem wit_MemoryAddressTraps :
    (∀ k, (Opnd.s 6) ≠ .t k) ∧
    laneMask ((([(0, 65535), (1, 65534)] : List LaneAddr).filter fun a => decide (m0.spadBytes 0 < a.2.toNat + 2)).map (·.1)) = 1 ∧
    laneMask ((([(0, 65535), (1, 65533)] : List LaneAddr).filter fun a => decide (m0.spadBytes 0 < a.2.toNat + 1)).map (·.1)) = 0 ∧
    laneMask ((([(0, 65535), (1, 65532)] : List LaneAddr).filter fun a => a.2.toNat % 2 != 0).map (·.1)) = 1 ∧
    laneMask ((([(0, 0x200000000000000), (1, 0x1FFFFFFFFFFFFFF)] : List LaneAddr).filter fun a => decide (2 ^ 57 ≤ a.2.toNat)).map (·.1))
      = 1 := by
  refine ⟨(by intro k h; cases h), by decide +kernel, by decide +kernel, by decide +kernel, by decide +kernel⟩
theorem wit_StorePerformedResults :
    let s := after (exec (.st stX) m0) (fun t => { t with cur := none }) m0
    let y := after (exec (.syflg { bare (.s 1) (.s 6) .zero with ty := none, sel := 0 }) m0) (fun t => { t with cur := none }) m0
    let z := after (exec (.aadd { opp .n32 (.v 1) (.s 6) .zero with sel := 5 }) loads) (fun t => { t with cur := none }) loads
    (match s.ready? 0 0 with
      | some (_, o) => o.body.writes && ((s.doStore 0 o.body).finishOp 0 0).far.asked == []
          && (match o.body with | .store accs _ _ => accs.all fun a => a.place != .bell && (s.redirect a.place a.pa).1 != .peer | _ => false)
      | none => false) = true ∧ s.memWf = true ∧
    (match y.ready? 0 0 with | some (_, o) => (match o.body with | .sync _ _ _ => true | _ => false) | none => false) = true ∧
    (match z.ready? 0 0 with | some (_, o) => (match o.body with | .atomic (_ :: _) _ _ _ _ b _ => b | _ => false) | none => false) = true := by
  decide +kernel

/-! ## SYN, RMT, CPY and WRK -/

/-- FenceAndWaitResults: nothing in flight and a load in flight; BarrierResults: numbers at hand, the strand drained, its one strand at
the barrier. -/
noncomputable def busy : Strand := (strandAfter (exec (.ld ldX) loads)).onSplit 0 fun p => { p with words := [0x9C] }
def batched : Strand :=
  { strand with
    closed := (List.range 16).map (.ofNat 16 ·)
    ops := (List.range 16).map fun i => { c0.newOp .mx (.mx .fin 0 none) 0 0 with id := i, batch := some (.ofNat 16 i) } }
theorem wit_FenceAndWaitResults :
    c0.st.count .ld = 0 ∧ c0.st.due = [] ∧ c0.st.openBatches.length < 16 ∧
    (mapped busy).issuer = some (ic busy) ∧ (ic busy).st.count .ld + (ic busy).st.count .st ≠ 0 ∧ (∀ o ∈ busy.ops, o.susp = none) ∧
    ¬ (ic busy).st.count .ld ≤ 0 ∧ busy.due = [] ∧
    batched.openBatches.length = 16 ∧ (one batched).issuer = some (ic batched) := by decide +kernel
def atBarrier : Strand := strand.onSplit 0 fun p => { p with st := .barrier, bar := some (.workgroup 15) }
theorem wit_BarrierResults :
    c0.scalars { op .i32 .zero .lit .lit with lit := some 15 } [.lit, .lit] = some [15, 15] ∧ c0.drained = true ∧
    (mapGet CBar.reset s0.cbars (cbarKey 0 0 15)).need = 0 ∧ (one atBarrier).wg? 0 = some placedWg ∧
    (∀ n ∈ placedWg.strands, (match (one atBarrier).strand? n with
      | some st => st.atBar (.workgroup 15) && st.ctx.splits.any fun p => p.st == .barrier && p.bar == some (.workgroup 15)
      | none => false) = true) ∧ c0.st.atBar (.workgroup 15) = false := by decide +kernel
/-- R233: BAR of a workgroup's only strand lets it go on. -/
theorem test_bar : ((strandAfter (exec (.bar { bare .zero .lit .zero with lit := some 15 }) s0)).split 0).st = .ready := by
  decide +kernel
/-- R228: an arrival of more than PENDING sets UNDER; a word passes armed, in its epoch, with nothing pending. -/
theorem test_arrive :
    (SyncUpd.arrive 2 1).apply 0x8005000000000001 = 0xC005000100000000 ∧ syncPasses 0xC005000100000000 5 = true ∧
    syncPasses 0xC005000100000000 4 = false ∧ syncPasses 0x0005000000000000 5 = false := by decide +kernel

/-- SyncWordResults: one word of a space for an update and for a read that may perform. -/
theorem wit_SyncWordResults :
    c0.offs (op .i32 (.s 1) (.s 6) .zero) [(.s 6, true), (.zero, true), (.s 1, true)] = some [.u 0x5000, .u 0, .u 7] ∧
    (laneAddrs .global c0.regs (.s 6) .zero (.u 0x5000) (.u 0) [lowLane c0.sp.mask]) = [(0, 0x5000)] ∧
    (c0.checkAddrs m0 .global (.s 6) 8 [(0, 0x5000)]).isNone = true ∧
    (c0.trLane m0 .global (.s 6) .read 0x5000).plain 8 = .ok (tr 0x5000) ∧ c0.st.lateHits .global [(0, 0x5000, tr 0x5000)] (plainRanges [(0, 0x5000, tr 0x5000)] 8 true) = [] ∧
    m0.sectorsFit 0 (plainRanges [(0, 0x5000, tr 0x5000)] 8 true) = true ∧
    m0.eccScan 0 8 (accsOf [(0, 0x5000, tr 0x5000)]) = (m0, [], 0, 0) ∧
    c0.st.mayPerform (c0.newOp .ld (.load (accsOf [(0, 0x5000, tr 0x5000)]) .b64 .none) 1 0) = true ∧
    m0.hidden 0 (c0.newOp .ld (.load (accsOf [(0, 0x5000, tr 0x5000)]) .b64 .none) 1 0) = false ∧
    reachScope [(0, 0x5000, tr 0x5000)] 0 = 0 ∧
    m0.redirect .flostra 0x5000 = (.flostra, 0x5000) ∧ m0.far.asked = [] ∧
    c0.st.busy (.s 9) true = false := by decide +kernel
theorem test_sytst : sAfter (exec (.sytst (bare (.s 9) (.s 6) .zero)) loads) 9 = 0x0FF0 := by decide +kernel

/-- RemoteIssue: two peers, addresses and alignment legal at the last byte below 2^57, room in the counter. -/
theorem wit_RemoteIssue :
    (∀ e ∈ rmtPeers (.u 0x000101FF) [0, 1], peerOk e.2 = true) ∧ peerOk 0x00010200 = false ∧
    ((0x1FFFFFFFFFFFFFC : DWord).toNat < 2 ^ 57 ∧ (0x1FFFFFFFFFFFFFC : DWord).toNat % 4 = 0) ∧
    c0.st.count .ld + 1 ≤ 255 ∧ m0.sectorsFit 0 [(.peer, peerByte 511 0x1FFFFFFFFFFFFFC, 4, false)] = true ∧ (0 : Nat) ≠ 7 := by decide +kernel

/-- CopyIssue: a full split, legal ranges of each space at their ends, a geometry of one row, receivers of the cluster. -/
theorem wit_CopyIssue :
    c0.sp.mask = fullMask ∧ c0.st.full .cp = false ∧ syncMis (copySync { op .i32 .zero .zero .zero with c := .zero } 0) = false ∧
    c0.copyRange m0 .spad 0 65536 1 0 = true ∧ c0.copyRange m0 .spad 1 65536 1 0 = false ∧ c0.copyRange m0 .global 0x5000 16 1 0 = true ∧
    m0.wg? 0 = some placedWg ∧ m0.residentOn placedWg.source 0 = [(0, placedWg)] := by decide +kernel
def nearLeaf : LeafAt := { leaf := 0x20000F, size := 0, ent := 0x4000 }
/-- SWAPF: the first two pages of 64 KiB of a mapped GiB, the second of them far. -/
def swapState : State :=
  { mapped (handler.onCtx fun c => { c with regs := c.regs.setS 31 0x10000 }) with
    flostra := [(0x1000, 0x01), (0x1001, 0x20), (0x2000, 0x01), (0x2001, 0x30), (0x3000, 0x01), (0x3001, 0x40), (0x4000, 0x01),
      (0x4001, 0x50), (0x5000, 0x0F), (0x5002, 0x20), (0x5008, 0x4F), (0x500A, 0x30)] }
theorem wit_CopyIssue_swap :
    swapState.issuer.isSome = true ∧ d0.sp.privileged = true ∧
    (match swapState.walk 0 .read 0, swapState.walk 0 .read 0x10000 with
      | .ok a, .ok b => a.size == b.size && leafFmt a.leaf == leafFmt b.leaf && !leafFar a.leaf && leafFar b.leaf && !leafSwp a.leaf
          && !leafSwp b.leaf
      | _, _ => false) = true ∧ (swapState.dieSt 0).swap = none := by decide +kernel
theorem test_swapf :
    after (exec (.swapf (bare .zero (.s 30) (.s 31))) swapState)
      (fun t => ((t.dieSt 0).swap.map fun x => (x.near, x.far, x.sectors), t.load .flostra 0x5008 8 / 2 ^ 12 % 2)) (none, 0) =
      (some (0x200000, 0x300000, 16), 1) := by decide +kernel

/-- Memory with fields written over what it lists: address, bytes, value. -/
def poke (m : List Host.Cell) (l : List (Nat × Nat × Nat)) : List Host.Cell := l.foldl (fun m e => writeN m e.1 e.2.1 e.2.2) m

/-- The one workgroup as a stage of a pipeline with a list at 0x8000: 64 items of a word at 0x9000, `tail` of them appended. -/
def source : Source :=
  { part := 0, queue := 0, pkt := 0, pipe := some 0, rcb := 0, kernel := placedWg.kernel, grid := (1, 1, 1), total := 1, next := 1, cap := 1
    args := [], argAddr := 0, seq := 0, event := 0, resident := 1, saved := [], removed := false, readySince := 0, readyDies := []
    wantDies := [] }
def pipe (quiet : Bool) : Pipe :=
  { part := 0, queue := 0, pkt := 0, lists := [0x8000], sources := [0], quiet := quiet, appends := [] }
def listed (tail : Nat) (quiet : Bool) : State :=
  { m0 with
    sources := [(0, source)], pipes := [(0, pipe quiet)]
    flostra := poke m0.flostra [(0x8000, 8, 0x9000), (0x8008, 4, 64), (0x8018, 8, tail), (0x9000, 4, 0xAB)] }
def reachM (s : State) (acc : Access) (l : List Nat) : Bool :=
  l.all fun a => match c0.trLane s .global (.s 0) acc (.ofNat 64 (a % 2 ^ 57)) with | .ok _ => true | _ => false
def listX : Opnds := { opp .i32 (.s 9) .lit (.v 9) with ty := none, c := .p 2, lit := some 0x8000 }
/-- WorkListResults: a list with room to its last item, one that holds items, one empty and quiet, one empty; a queue with room. -/
theorem wit_WorkListResults :
    (listed 62 false).issuer = some c0 ∧ (listed 62 false).pipeOf 0 = some (0, pipe false, 0) ∧
    (∀ n ∈ [0, 1, 62], ((listed n false).seen 0 0x8000 32).far.ask = [] ∧ ((listed n false).seen 0 0x8000 32).itemWords 0 0x8000 = 1) ∧
    (let u := (listed 62 false).seen 0 0x8000 32
     u.sectorsFit 0 (u.listRanges 0 0x8000 62 2 true) = true ∧ u.listTail 0 0x8000 = 62 ∧ u.listCount 0 0x8000 + 2 ≤ u.listCap 0 0x8000) ∧
    (let u := (listed 1 false).seen 0 0x8000 32
     let v := u.seen 0 (u.itemAddr 0 0x8000 0) 4
     u.sectorsFit 0 (u.listRanges 0 0x8000 0 1 false) = true ∧ v.far.ask = [] ∧ u.listHead 0 0x8000 = 0 ∧ u.listCount 0 0x8000 = 1 ∧
       v.vread 0 (v.itemAddr 0 0x8000 0) 4 = 0xAB) ∧
    c0.scalars listX [.lit] = some [0x8000] ∧ (pipe false).lists.contains 0x8000 = true ∧
    c0.offs listX (itemOps 9 1) = some [.u 0] ∧ lanesOf (c0.act listX) = [0, 1] ∧
    c0.st.mayPerform (c0.newOp .st (.store [] .b32 []) 2 0) = true ∧ c0.st.full .st = false ∧
    c0.st.mayPerform (c0.newOp .ld (.load [] .b32 .none) 0 0) = true ∧
    reachM (listed 62 false) .write (0x8000 :: (listed 62 false).itemPages 0 0x8000 62 2) = true ∧
    c0.st.busy (.s 9) true = false ∧ c0.regs.blocksWrite 9 false false = false ∧
    1 ≤ (listed 1 false).listCount 0 0x8000 ∧ reachM (listed 1 false) .read [0x8000] = true ∧
    (takeRegs c0.regs 9 2 [0, 1] [[0xAB]] 1).overflows 5 = false ∧
    (listed 0 true).listCount 0 0x8000 = 0 ∧ (listed 0 true).pipeOf 0 = some (0, pipe true, 0) ∧ placedWg.yield = false := by
  decide +kernel
def queued : State :=
  { m0 with
    parts := [(0, { Part.reset with block := [(0, 0x1000), (2, 0x40000000), (3, 1), (6, 0x10003), (9, 0xA000)] })]
    flostra := poke m0.flostra [(0xA0C0, 8, 0xB000), (0xA0C8, 1, 4), (0xA0C9, 1, 1), (0xA0D0, 8, 1), (0xA0DC, 4, 15)] }
theorem wit_WorkListResults_launch :
    queued.issuer = some c0 ∧ (queued.part 0).ownsQueue 3 = true ∧ (queued.part 0).ownsQueue 4 = false ∧ queued.qf 0 3 9 1 % 2 = 1 ∧
    (0x5000 : DWord).toNat % 64 = 0 ∧ (BitVec.ofNat 32 (queued.qf 0 3 28 4) - BitVec.ofNat 32 (queued.qf 0 3 24 4)).toNat = 15 ∧
    2 ^ queued.qf 0 3 8 1 = 16 ∧ (queued.seen 0 (queued.qAddr 0 3) 64).far.ask = [] ∧
    ((queued.seen 0 (queued.qAddr 0 3) 64).seen 0 0x5000 64).far.ask = [] ∧ (queued.seen 0 (queued.qAddr 0 3) 64).qf 0 3 28 4 = 15 ∧
    c0.st.mayPerform (c0.newOp .st (.store [] .b32 []) 2 0) = true ∧ reachM queued .read [0x5000] = true ∧ reachM queued .write [queued.pktAddr 0 3 15] = true := by
  decide +kernel
/-- R248: TAKE of the one item gives it to lane 0, and counts it in s9; R247: APPEND writes the tail index it used. -/
theorem test_take : let o := exec (.take listX) (listed 1 false)
    vAfter o 9 0 = 0xAB ∧ sAfter o 9 = 1 ∧ (strandAfter o).ctx.regs.pred 2 = 1 := by decide +kernel
theorem test_append : let o := exec (.append { listX with b := .v 1, c := .zero }) (listed 62 false)
    sAfter o 9 = 62 ∧ after o (fun t => (t.load .flostra 0x90F8 4, t.load .flostra 0x90FC 4, t.load .flostra 0x8018 8)) (0, 0, 0) = (10, 11, 64)
    := by decide +kernel
/-- R250: LAUNCH writes the index it used, and moves the queue's. -/
theorem test_launch : let o := exec (.launch { bare (.s 9) (.s 2) (.s 6) with c := .zero }) queued
    sAfter o 9 = 15 ∧ after o (fun t => t.qf 0 3 28 4) 0 = 16 := by decide +kernel

/-! ## RED and MTX -/

/-- A domain at slot 2, generation 5: four leaves, two FP32 elements, overwrite mode. -/
def dom : Dom :=
  { part := 0, slot := 2, gen := 5, leaves := 4, elems := 2, fmt := .f32, overwrite := true, scope := 0, scale := 0, base := 0xD000
    spill := 0, spillLog := 0, sync := 0, ctr := 0, inc := 0, quota := 256, group := 0, sBytes := [], written := [], flags := 0
    spillCount := [], overlap := [], void := [], full := [], stuck := [] }
def domState (st : Nat) : State :=
  { m0 with
    doms := if st = 1 then [dom] else []
    parts := [(0, { Part.reset with block := [(0, 0x1000), (2, 0x40000000), (3, 1), (7, 0xC000)] })]
    flostra := poke m0.flostra [(0xC080, 8, 4), (0xC088, 4, 2), (0xC08C, 1, 8), (0xC08D, 1, 1), (0xC090, 8, 0xD000),
      (0xC0BA, 2, 0x1000 * st + 5)] }
def ctbX : Opnds := { opp .f32 (.v 7) .lit .lane with c := .lane, lit := some 0x500002 }
/-- ContributionResults: two lanes with the last element and label in range, and none in act; DomainResults: a slot to arm, one to close,
one of another generation, one Complete whose domain is listed and one whose domain is not. -/
theorem wit_ContributionResults :
    (domState 1).issuer = some c0 ∧ c0.st.full .ct = false ∧ (domState 1).openDom? 0 0x500002 = some dom ∧ c0.act ctbX = 3 ∧
    (∀ l ∈ [0, 1], ((Off.a 0 1).at l).toNat % 2 ^ 32 < dom.elems ∧ (laneLabel ctbX ((Off.a 2 1).at l)).2.2 = true ∧
      dom.labelOk (laneLabel ctbX ((Off.a 2 1).at l)).1 (laneLabel ctbX ((Off.a 2 1).at l)).2.1 = true) ∧
    dom.labelOk 0 4 = false ∧ convertible .f32 dom.nf = true ∧
    c0.offs ctbX [(.lit, true), (.lane, false), (.lane, false), (.v 7, false)] = some [.u 0x500002, .a 0 1, .a 0 1, .u 0x3FC00000] ∧
    c0.st.mayPerform (c0.newOp .ld (.load [] .b32 .none) 0 0) = true ∧
    lanesOf (c0.act { ctbX with pred := some (2, false) }) = [] := by decide +kernel
theorem wit_DomainResults :
    (∀ n ∈ [0, 1, 2], ((domState n).seen 0 ((domState n).domAddr 0 2) 64).far.ask = [] ∧
      ((domState n).seen 0 ((domState n).domAddr 0 2) 64).domGenState 0 2 = (5, n)) ∧
    ((domState 1).seen 0 ((domState 1).domAddr 0 2) 64).closeFault dom = none ∧
    c0.st.mayPerform (c0.newOp .ld (.load [] .b32 .none) 0 0) = true ∧
    c0.scalars { bare (.s 9) .lit .zero with lit := some 0x500002 } [.lit] = some [0x500002] ∧ c0.st.count .ct = 0 ∧
    c0.st.busy (.s 9) true = false ∧ c0.freeS 9 ∧ reachM (domState 1) .read [(domState 1).domAddr 0 2] = true ∧ (domState 0).canArm 0 2 = true ∧ ((domState 0).arm 0 2).isSome = true ∧
    reachM (domState 1) .write [(domState 1).domAddr 0 2] = true ∧ ((domState 1).domGenState 0 2).1 = handleGen 0x500002 ∧
    ((domState 1).domGenState 0 2).1 ≠ handleGen 0x400002 ∧ (domState 1).dom? 0 0x500002 = some dom ∧ dom.complete = false ∧
    ¬(((domState 0).domGenState 0 2).1 = handleGen 0x500002 ∧ ((domState 0).domGenState 0 2).2 = 1) ∧
    ({ dom with written := [0, 1] } : Dom).complete = true ∧
    ({ domState 1 with doms := [{ dom with written := [0, 1] }] } : State).dom? 0 0x500002 = some { dom with written := [0, 1] } ∧
    (domState 2).dom? 0 0x500002 = none ∧ (domState 2).domGenState 0 2 = (5, 2) := by simp only [Ic.freeS]; decide +kernel
/-- R224: DOMARM opens generation 6 and answers its handle. -/
theorem test_domarm :
    sAfter (exec (.domarm { bare (.s 9) .lit .zero with lit := some 2 }) (domState 0)) 9 = 0x600002 := by decide +kernel
/-- R223: CTB sends a node of a lane with its element, label and value. -/
theorem test_ctb :
    after (exec (.ctb ctbX) (domState 1)) (fun t => (t.core 0).clasp.map fun n => (n.elem, n.level, n.index, n.val)) [] =
      [(0, 0, 0, some 0x3FC00000), (1, 0, 1, some 0x3FC00000)] := by decide +kernel

/-- A bound tile of 16 × 16 FP32 elements with a spine of one, and the operand and control pairs of R267's example. -/
def tile : Tile :=
  { rows := 16, cols := 16, fp := true, depth := 1, vals := [], spines := [], n := 0, flags := 0, nIssue := 0, freeing := false, last := none }
def tiled : Strand :=
  { strand.onCtx fun c => { c with regs := { c.regs with s :=
      [(1, .val 7), (10, .val 0), (11, .val 0x0000002B00000040), (12, .val 0x800), (13, .val 0x000000AB00000040),
        (14, .val 0x0003000400010001), (20, .val 0x0003000000100010), (22, .val 0x0000000100010000), (23, .val 0x0000000100000000),
        (24, .val 0x500002), (26, .val 0x2000000040)] } } with
    tiles := [(1, some tile)] }
def t0 : State := mapped tiled
def tc : Ic := ic tiled
def mmaX : Opnds := { op .i32 (.raw 1) (.s 10) (.s 12) with ty := none, c := .s 14 }
theorem wit_MatrixIssue :
    t0.far.ask = [] ∧ (t0.seen 0 (t0.recAddr 0 (handleSlot 7)) 64).far.ask = [] ∧
    t0.issuer = some tc ∧ tc.sp.mask = fullMask ∧ (1 < t0.kernelTiles 0 ∧ tc.st.tile? 1 = some tile ∧ tile.freeing = false) ∧
    (tc.st.full .mx = false ∧ tc.st.full .ct = false ∧ (t0.core 0).engine.length < Config.engineQueue) ∧
    tc.st.tile? 63 = none ∧ 63 < t0.kernelTiles 0 ∧ t0.granulesUsed 0 + tileGranules 256 256 2 ≤ Config.granules ∧
    ¬ t0.granulesUsed 0 + tileGranules 256 256 3 ≤ Config.granules ∧
    tc.scalars mmaX [.s 10, .s 11, .s 12, .s 13, .s 14, .s 15] =
      some [0, 0x0000002B00000040, 0x800, 0x000000AB00000040, 0x0003000400010001, 0] ∧
    (let k := readControl 0x0003000400010001 0
     k.zeros = true ∧ k.m = 1 ∧ k.n = 1 ∧ k.k = 4 ∧ k.sync = none ∧ (tc.syncCheck t0 k.sync 4).isNone = true) ∧
    tile.takes 0 4 false = true ∧ tile.takes 3 4 false = false ∧ tile.takes 3 4 true = true ∧
    (match tc.matOperand t0 0 0x0000002B00000040 false, tc.matOperand t0 0x800 0x000000AB00000040 false with
      | .ok a, .ok b => matRow a.fmt == matRow b.fmt && !(a.fmt == .i8) && tc.extentOk t0 a 1 4 && tc.extentOk t0 b 4 1
      | _, _ => false) = true := by decide +kernel
/-- A gang of this strand and one of its core's fifth slot, as member 0 and as the other member; its latch empty, and one that holds its
entry. -/
theorem wit_MatrixIssue_gang :
    let g : DWord := 0x0FFFFFFFFFF01400
    let g' : DWord := 0x0FFFFFFFFFF00005
    gangNamed g = true ∧ tc.st.name ∈ gangMembers g 0 ∧ (gangMembers g 0).head? = some tc.st.name ∧
    gangNamed g' = true ∧ tc.st.name ∈ gangMembers g' 0 ∧ (gangMembers g' 0).head? ≠ some tc.st.name ∧
    mapGet [] t0.latches 0 = [] ∧ 0 < t0.latchShare 0 ∧
    (let e : LatchEnt := { part := 0, gang := g, seq := 0, members := [] }
     e.part = tc.st.part ∧ e.gang = g ∧ e.seq = tc.st.gangSeq) := by decide +kernel
theorem wit_MatrixIssue_others :
    (let ct := readControl 0x0003000000100010 0
     ct.zeros = true ∧ ct.m = 16 ∧ ct.m ≤ tile.rows ∧ ct.n = 16 ∧ ct.k = 0 ∧ ct.sync = none) ∧
    (match readPair 0 0x2000000040 (some .f32) with | some r => tc.extentOk t0 r 16 16 | none => false) = true ∧
    ((Ty.f32 == .i32) = !tile.fp) ∧ (∀ o ∈ tc.st.ops, o.susp = none) ∧ (0x00FF000000000000 : DWord).toNat < 2 ^ 56 ∧
    tc.scalars { op .i32 (.raw 1) (.s 24) (.s 22) with c := .zero } [.s 24, .s 22, .s 23, .zero] =
      some [0x500002, 0x0000000100010000, 0x0000000100000000, 0] ∧
    (let r := 0x0000000100010000
     r / 2 ^ 16 % 512 = 1 ∧ r / 2 ^ 32 % 512 = 1 ∧ r / 2 ^ 25 % 128 = 0 ∧ r / 2 ^ 41 = 0 ∧ r % 256 + 1 ≤ tile.rows) ∧
    dom.labelOk 0 0 = true ∧ convertible (if tile.fp then .f32 else .i32) dom.nf = true := by decide +kernel
/-- R270: the operation stands in the engine's queue, and its tile's run counts it. -/
theorem test_mxmma : let o := exec (.mxmma mmaX) t0
    after o (fun t => (t.core 0).engine) [] = [(0, 0)] ∧ ((strandAfter o).tile? 1).map (fun t => t.nIssue) = some 4 := by decide +kernel
/-- R87's example: the six leaves give 0x34A00000, here through a lane reduction. -/
def six : Strand := strand.onCtx fun c => { c with regs :=
  { c.regs with
    v := [(1, { shape := .g 0 ([0x3F800000, 0x33800000, 0x33800000, 0x33800000, 0xBF800000, 0x34400000] ++ List.replicate 250 0)
                pairHi := false })]
    p := [(1, 63)] } }
theorem test_tree : sAfter (exec (.vred { op .f32 (.s 3) (.v 1) .lane with pred := some (1, false), c := .lit, lit := some 6 }) (one six)) 3 =
    0x34A00000 := by decide +kernel

/-- MatrixStateResults: an operation on the tile done and one recorded before; a record's generation at hand. -/
def recs : State := { t0 with parts := [(0, { Part.reset with block := [(0, 0x1000), (2, 0x40000000), (3, 1), (8, 0xE000)] })] }
theorem wit_MatrixStateResults :
    (∀ o ∈ tc.st.ops, o.joint = none) ∧ tc.freeS 9 ∧ tc.scalars (op .i32 (.s 9) (.s 1) .zero) [.s 1] = some [7] ∧
    (({ tiled with ops := [{ tc.newOp .mx (.mx .fin 1 none) 0 0 with done := true }] } : Strand).ops.filter fun o =>
      o.tile == some 1 && o.cls == .mx).getLast?.isSome = true ∧
    ((({ tiled with ops := [tc.newOp .mx (.mx .fin 1 none) 0 0] } : Strand).ops.filter fun o =>
      o.tile == some 1 && o.cls == .mx).getLast?.map (·.done)) = some false ∧
    (∀ o ∈ tc.st.ops, o.tile = some 1 ∨ o.sentOf = some 1 → o.susp = none ∧ o.done = true) ∧
    (tc.st.ops.filter fun o => o.tile == some 1 && o.cls == .mx) = [] ∧ tile.last = none ∧
    ({ tile with last := some (3, 16) } : Tile).last = some (3, 16) ∧
    (let u := recs.seen 0 (recs.recAddr 0 (handleSlot 7)) 64
     u.far.ask = [] ∧ u.recGen 0 (recs.recAddr 0 (handleSlot 7)) = handleGen 7) ∧
    (match tc.trLane recs .global (.s 0) .write (.ofNat 64 (recs.recAddr 0 (handleSlot 7))) with | .ok _ => true | _ => false) = true := by
  simp only [Ic.freeS]; decide +kernel

/-! ## The policy engine -/

/-- PolicyRegisterResults, PolicyControlResults, PolicyFrame: decisions of each kind with a view, its least and greatest entry, an index
past its end and a negative one; one that can afford its next instruction exactly, one that cannot, one that has ended. -/
def decision : Decision :=
  { placedDecision 0 with
    view := [(0, [5, 1]), (1, [2, 9]), (2, [2, 3])], cores := [[1]], fits := [[0], [], []], x := [0, 1, 3, -1] ++ List.replicate 12 0 }
def deciding (d : Decision) : State := s0.onDie 0 fun x => { x with dec := some d }
theorem wit_Policy :
    ((deciding decision).dieSt (deciding decision).die).dec = some decision ∧ decision.affords 18 = true ∧
    ({ decision with cycles := 78 } : Decision).affords 18 = true ∧ ({ decision with cycles := 79 } : Decision).affords 18 = false ∧
    decision.prog.budget < ({ decision with cycles := 96 } : Decision).cycles + 1 ∧
    (decision.reg 2).toInt = (3 : Nat) ∧ decision.view.length ≤ 3 ∧ (decision.reg 3).toInt < 0 ∧ decision.reg 3 = -1 ∧
    (decision.reg 1).toInt = (1 : Nat) ∧ decision.fits[1]? = some [] ∧ decision.fits.length ≤ 3 ∧ (-2 : Word).toInt < -1 ∧ decision.x.length = 16 ∧ decision.kind = .dispatch ∧
    ({ decision with kind := .preempt } : Decision).kind = .preempt ∧ ({ decision with kind := .fault } : Decision).kind = .fault ∧
    (∀ j ∈ [0, 1], (decision.field 2 0).toInt < (decision.field j 0).toInt ∨ ((decision.field 2 0).toInt = (decision.field j 0).toInt ∧
      (decision.field 2 1).toInt < (decision.field j 1).toInt)) ∧
    (s0.dieSt s0.die).dec = none ∧ goesOn (exec .hgNop s0) = false := by decide +kernel
/-- The decision after an instruction. -/
def decAfter (o : Host.Outcome State Fault Refusal) : Decision := after o (fun t => (t.dieW.dec.getD decision)) decision
/-- R303: ARGMIN breaks ties by its second field, ARGMAX takes the greatest; NEXTQ goes back while entries remain. -/
theorem test_argmin : (decAfter (exec (.hgArgmin 5 0 1) (deciding decision))).reg 5 = 2 ∧
    (decAfter (exec (.hgArgmax 5 0 1) (deciding decision))).reg 5 = 0 := by decide +kernel
theorem test_nextq : let d := decAfter (exec (.hgNextq 1 4) (deciding { decision with pc := 10 }))
    d.pc = 6 ∧ d.reg 1 = 2 ∧ d.cycles = 1 := by decide +kernel
theorem test_min : (decAfter (exec (.hgMin 5 1 3) (deciding decision))).reg 5 = -1 ∧
    (decAfter (exec (.hgMax 5 1 3) (deciding decision))).reg 5 = 1 ∧ (decAfter (exec (.hgSlt 5 3 1) (deciding decision))).reg 5 = 1 := by
  decide +kernel
theorem test_decide : (decAfter (exec (.hgDecideD 1 3) (deciding decision))).chosen = some (1, -1) ∧
    (decAfter (exec (.hgDecideD 1 3) (deciding decision))).cycles = 2 := by decide +kernel

/-! ## Events of strands, engines and reductions -/

/-- StrandEventResults: its end with the workgroup killed and with the strand Exited; a drained block on a core that no partition
holds and on one that has one; the 512th idle cycle; walks of a mapped and of an unmapped page; words to fetch; a move and an
allocation to move. -/
def gone (ph : Phase) (wp : WgPhase) : State :=
  { m0 with cur := none, strands := [(0, { strand with phase := ph })], wgs := [(0, { placedWg with phase := wp })] }
def drained : State := { m0 with quarters := [(0, { QuarterSt.reset with draining := [(32, 32, 0)] })] }
def asked (va : Nat) : WalkReq := { core := 0, part := 0, acc := .read, va := .ofNat 57 va }
def walking : State := { m0 with cores := [(0, { CoreSt.reset with walks := [asked 0x5000, asked 0x40000000] })] }
def hungry : Strand := (strand.onSplit 0 fun p => { p with words := [], pc := 0x5000 })
def code : State := { mapped hungry with flostra := poke m0.flostra [(0x5000, 4, 0x9C)] }
def moving : State := { m0 with quarters := [(0, { QuarterSt.reset with moves := [(0, 32), (5, 64)] })] }
/-- Its 64 KiB at 64 KiB, with a launch in want of a run of 320 KiB. -/
def split (moves : List Nat) : State :=
  { m0 with
    cores := [(0, { m0.core 0 with spadMoves := moves })]
    wgs := [(0, { placedWg with spadBase := 65536 })]
    sources := [(0, { source with wantDies := [0], kernel := { placedWg.kernel with spad := 327680 } })] }
theorem wit_StrandEventResults :
    (gone .granted .killed).copyInto 0 = false ∧ ((gone .granted .killed).members { placedWg with phase := .killed }).all (fun e => e.2.ops.isEmpty) = true ∧ (gone .granted .killed).strand? 0 = some strand ∧
    strand.ops = [] ∧ (gone .exited .running).wg? 0 = some placedWg ∧
    (drained.quarter 0).dumping = false ∧ ((drained.quarter 0).draining.find? fun d => d.1 == 32) = some (32, 32, 0) ∧
    (({ drained with quarters := [(0, { QuarterSt.reset with draining := [(32, 32, 1)] })] } : State).quarter 0).draining.find? (fun d => d.1 == 32) =
      some (32, 32, 0 + 1) ∧ drained.partOfCore 0 = some 0 ∧ ({ drained with parts := [] } : State).partOfCore 0 = none ∧
    max strand.granted (mapGet 0 strand.touched 31) + 512 ≤ ({ m0 with clock := 512 } : State).clock.toNat ∧ 31 < 2 ^ strand.logG ∧ ¬ 32 < 2 ^ strand.logG ∧
    (m0.quarter 0).drowsy.contains (0, 31) = false ∧
    (walking.core 0).walks.contains (asked 0x40000000) = true ∧ (match walking.walk 0 .read 0x5000 with | .ok _ => true | _ => false) = true ∧
    (match walking.walk 0 .read 0x40000000 with | .error _ => true | _ => false) = true ∧
    (code.strand? 0 = some hungry ∧ (hungry.split 0).st = .ready ∧ (hungry.split 0).words = [] ∧ code.wgAway 0 = false) ∧
    code.far.asked = [] ∧ (match code.fetch 0 0 0x5000 with
      | .words l accs => l == [0x9C] && code.eccScan 0 4 accs == (code, [], 0, 0) && !code.farWords accs | _ => false) = true ∧
    strand.fixed = false ∧ strand.movable = true ∧ (moving.heldBlocks 0).erase (0, 32) = [] ∧
    ((split []).core 0).spadMoves = [] ∧ (split []).planSpad 0 = [0] ∧ m0.planSpad 0 = [] ∧ ((split [0, 1]).core 0).spadMoves = [0, 1] ∧
    (let w : Wg := { placedWg with spadBase := 65536 }
     (split [0, 1]).wg? 0 = some w ∧ w.phase = .running ∧ w.home = 0 ∧ (split [0, 1]).spadIdle 0 w = true ∧ 0 < w.spadBase ∧
       firstFit (((split [0, 1]).spadRuns 0).erase (w.spadBase, w.kernel.spad)) w.kernel.spad Config.spadBytes = some 0) := by decide +kernel

/-- A strand with one operation of a body on its engine, so many rows done. -/
def running (b : OpBody) (rows : Nat) (joint : Option Nat) : Strand :=
  { tiled with ops := [{ tc.newOp .mx b 0 0 with rows := rows, joint := joint }], opNext := 1 }
def engine (st : Strand) : State :=
  { mapped st with cores := [(0, { (mapped st).core 0 with engine := [(0, 0)] })], joints := [(1, { members := [(0, 0)] })], cur := none }
def ref (a : DWord) : MatRef := { addr := a, stride := 64, fmt := .f32, space := .spad, trans := false, viaRec := none }
def mma : OpBody := .mx (.mma (ref 0) (ref 0x800) 16 16 4 false) 1 none
def isMx (s : State) : Bool := (s.mxReady? 0 0).isSome && ((s.mxReady? 0 0).map fun x => x.2.2) == some 1
/-- A joint operation of one part at the head of the latch, behind no other. -/
def latched : State :=
  let st := { running mma 0 (some 0) with ctx := { tiled.ctx with gang := 0x0FFFFFFFFFFFFC00 } }
  { engine st with latches := [(0, [{ part := 0, gang := 0x0FFFFFFFFFFFFC00, seq := 0, members := [(0, 0)] }])], joints := [] }
/-- What an end of an operation, or of its joint operation, asks of other devices. -/
noncomputable def engineFar (k rows : Nat) (joint : Option Nat) (b : OpBody) : List FarReq :=
  after (exec (if k = 0 then .mxOperationComplete 0 0 else .jointOperationComplete 1) (engine (running b rows joint))) (fun t => t.far.asked) []
/-- EngineEventResults: a band to run and none left, of the operation alone and as a joint one; a release, a clear and a finish; a latch
with its part ready; a copy to go on and one that is done; a sector of a swap and its last. -/
theorem wit_EngineEventResults :
    isMx (engine (running mma 0 none)) = true ∧ (engine (running mma 0 none)).checks = [] ∧
    (engine (running mma 0 none)).engineBusy 0 0 = false ∧
    ((engine (running mma 0 none)).runBand 0 (running mma 0 none) ((running mma 0 none).ops.headD (tc.newOp .mx mma 0 0)) 1).far.asked = [] ∧
    (running mma 15 none).tile? 1 = some tile ∧
    isMx (engine (running mma 16 none)) = true ∧ isMx (engine (running mma 16 (some 1))) = true ∧
    ((((engine (running mma 16 none)).endMma 0 (running mma 16 none) ((running mma 16 none).ops.headD (tc.newOp .mx mma 0 0)) 1 4).strand? 0).bind
      fun y => y.op? 0).isSome = true ∧
    mapFind (engine (running mma 16 (some 1))).joints 1 = some { members := [(0, 0)] } ∧
    ([(0, 0)].map (engine (running mma 16 (some 1))).partDone).all Option.isSome = true ∧ engineFar 0 16 none mma = [] ∧
    engineFar 1 16 (some 1) mma = [] ∧ engineFar 0 0 none (.mx .fin 1 none) = [] ∧
    isMx (engine { running mma 16 none with ops := (running mma 16 none).ops.map fun o => { o with started := true } }) = true ∧
    isMx (engine (running (.mx .free 1 none) 0 none)) = true ∧ isMx (engine (running (.mx (.zero false) 1 none) 0 none)) = true ∧
    isMx (engine (running (.mx .fin 1 none) 0 none)) = true ∧
    (match (mapGet [] latched.latches 0)[0]? with
      | some e => latched.latchFull 0 e == some [(0, 0)] && latched.jointReady [(0, 0)] && latched.jointBad [(0, 0)] 4 == []
      | none => false) = true := by decide +kernel
def copy : CopyOp :=
  { dstSpace := .global, dst := 0x6000, srcSpace := .global, src := 0x5000, rowBytes := 256, rows := 1, dstStride := 0, srcStride := 0
    recv := [], multi := false, sync := none, written := 0 }
def copying (k : CopyOp) : State :=
  { mapped { strand with ops := [tc.newOp .cp (.copy k) 0 0], opNext := 1 } with cur := none }
def swap (n : Nat) : Swap :=
  { part := 0, near := 0x200000, far := 0x300000, nearVa := 0, farVa := 0x10000, sync := none, wg := 0, strand := 0, op := 0, sectors := 16
    at_ := n }
theorem wit_EngineEventResults_copies :
    ((copying copy).engReady? 0 0).isSome = true ∧ copy.sectors 0 1 = 2 ∧ ¬ copy.sectors 0 copy.rows ≤ copy.written ∧
    ({ copy with written := 2 } : CopyOp).sectors 0 1 ≤ 2 ∧
    ((copying { copy with multi := true, recv := [(1, 0, false)] }).engReady? 0 0).isSome = true ∧
    after (exec (.copyComplete 0 0) (copying copy)) (fun t => t.far.asked.isEmpty) false = true ∧
    after (exec (.cpymReceiverArrival 0 0 1) (copying { copy with multi := true, recv := [(1, 0, false)] })) (fun t => t.far.asked.isEmpty)
      false = true ∧
    ((m0.onDie 0 fun d => { d with swap := some (swap 15) }).dieSt 0).swap = some (swap 15) ∧ (swap 15).at_ < 16 ∧
    (swap 0).at_ + 1 < 16 ∧ (swap 15).at_ + 1 = (swap 15).sectors ∧ (m0.swapFar (swap 15)).1 = .host ∧ m0.farLost (swap 15) = false ∧ m0.far.asked = [] ∧
    m0.upsets = [] ∧ m0.memWf = true ∧ m0.checks = [] := by decide +kernel
/-- The end of a swap asks nothing of other devices, whatever the tables hold. -/
theorem wit_EngineEventResults_swap (m : List Host.Cell) :
    (State.endSwap { m0 with flostra := m } 0 { swap 15 with at_ := 16 }).far.asked = [] := by
  rfl
/-- R243: the copy writes its bytes. -/
theorem test_copy :
    let o := exec (.copyComplete 0 0) { copying copy with flostra := poke (copying copy).flostra [(0x50FF, 1, 7)] }
    after o (fun t => readByte t.flostra 0x60FF) 0 = 7 ∧ (strandAfter o).ops.length = 0 := by decide +kernel

/-- The domain in a group of this device and another, of a pod, with ports 0 and 1 up and a binding id; `n` is a node of its last element,
held since clock 0. -/
def group (scope pod : Nat) : State :=
  { domState 1 with
    cur := none, doms := [{ dom with scope := scope }], boot := { m0.boot with stage := 2 }
    parts := [(0, { (domState 1).part 0 with fab := [(0, 0x77), (1, 0xE0000)] })]
    fabric := { m0.fabric with ports := [(0, { Port.reset 0 with trained := true, up := true, lanes := 2 })] }
    flostra := poke (domState 1).flostra [(0xE0000, 4, 2), (0xE0018, 8, 0x10001 + 2 ^ 32 * pod)] }
def node (e : Nat) : Node :=
  { part := 0, handle := 0x500002, elem := e, level := 0, index := 3, val := some 7, flags := 0, src := none, since := 0 }
/-- The node held in core 0's clasp, slice 0's and a port's, and on its way to the slice, at a clock. -/
def held (scope pod clock : Nat) : State :=
  { group scope pod with
    clock := .ofNat 64 clock, toSlice := [(0, node 1)]
    cores := [(0, { m0.core 0 with clasp := [node 1] })], slices := [(0, { (m0.slice 0) with clasp := [node 1] })]
    fabric := { (group scope pod).fabric with portClasps := [(0, [node 1])] } }
def nodePkt (opc : Nat) (h : Nat) : Pkt :=
  { opc := opc, plane := 0, src := 1, port := false, dst := m0.boot.devid.toNat, tincarn := m0.boot.incarn, sincarn := 1, fabid := 0x77, seq := 0,
    ack := 0, flags := 0, addr := .ofNat 64 (h + 2 ^ 32), payload := List.replicate 17 0 }
/-- A generation's next and last, judged early, and one that has ended. -/
theorem wit_ReductionEventResults :
    (held 0 0 256).checks = [] ∧ (((held 0 0 256).core 0).clasp[0]? = some (node 1)) ∧ (node 1).since + 256 ≤ (held 0 0 256).clock.toNat ∧
    ¬ (node 1).since + 256 ≤ (held 0 0 255).clock.toNat ∧ ((held 0 0 256).doms.find? fun y => (node 1).of y) = some dom ∧
    (held 0 0 256).toSlice[0]? = some (0, node 1) ∧ (held 0 0 256).doms[0]? = some dom ∧
    ((held 1 0 1536).slice 0).clasp[0]? = some (node 1) ∧ (held 1 0 1536).role { dom with scope := 1 } 1 = .other (1, 1, 0) ∧
    (node 1).since + (held 2 5 0).us 4 ≤ (held 2 5 14400).clock.toNat ∧ (held 2 5 14400).role { dom with scope := 2 } 1 = .podHome (1, 1, 5) ∧
    ((held 1 0 7200).portHeld 0 0)[0]? = some (node 1) ∧ (node 1).since + (held 1 0 0).us 2 ≤ (held 1 0 7200).clock.toNat ∧
    seqBefore ({ nodePkt 6 0 with seq := -1 } : Pkt).seq ((group 1 0).flow 4097 0).inNext = true ∧
    (group 1 0).planeLive (nodePkt 6 0).dst 0 = true ∧ ((group 1 0).portAck 0 (nodePkt 6 0) 0 0).partOfFab 0x77 = some 0 ∧
    (nodePkt 6 0).seq = ((group 1 0).flow 4097 0).inNext := by decide +kernel
/-- Packets in turn: a node of the open generation, of the last one ahead, of the first behind; a root of an element to write. -/
theorem wit_ReductionEventResults_packets :
    (group 1 0).inTurn (nodePkt 6 0x500002) 0 ∧
    (match (group 1 0).judge 0 0x500002, (group 1 0).judge 0 0x80400002, (group 1 0).judge 0 0x80500002 with
      | .accepted e, .early, .over => e == { dom with scope := 1 } | _, _, _ => false) = true ∧
    (group 1 0).partOfFab 0x78 = none ∧ (group 1 0).inTurn (nodePkt 7 0x500002) 0 ∧ 1 < dom.elems ∧ dom.written.contains 1 = false ∧
    (mapGet none dom.stuck ((group 1 0).elemSlice dom 1)).isSome = false ∧
    ((group 1 0).finalFault { dom with scope := 1 } 1 (pktRoot (nodePkt 7 0x500002))) = none := by
  refine ⟨?_, ?_, ?_, ?_, ?_⟩ <;> (try simp only [State.inTurn]) <;> decide +kernel
/-- R84: the root of the last element but one is written where the domain has it. -/
theorem test_root :
    after (exec (.rootPacket { nodePkt 7 0x500002 with payload := [0xAB] ++ List.replicate 16 0 }) (group 1 0))
      (fun t => (t.load .flostra 0xD004 4, t.doms.map fun d => d.written)) (0, []) = (0xAB, [[1]]) := by decide +kernel

/-! ## Events of queues and policies -/

/-- Packets of queue 3 that wait, of a type. -/
def packet (type : Nat) : QPkt :=
  { queue := 3, part := 0, idx := 0, words := type :: List.replicate 15 0, kernels := [placedWg.kernel], args := [], st := .waiting, failed := none }
def waits (type : Nat) : State := { queued with pkts := [packet type] }
/-- StepRunsDecoded: a packet whose dependence lies in a peer's page, so that the event waits for what that device answers. -/
theorem wit_StepRunsDecoded_held :
    after (exec (.dependencePoll 3 0) { queued with
      cur := none, flostra := poke queued.flostra [(0x3008, 8, 3 * 2 ^ 50 + 2 ^ 41 + 0x4F)]
      pkts := [{ packet 4 with st := .issued, words := (packet 4).words.set 10 0x40000000 }] }) (fun t => t.far.ask.isEmpty) true = false := by
  decide +kernel
/-- A packet of the ring, its signal; a stage whose one strand waits at TAKE of an empty list; a root with a period of 1000 cycles. -/
def ringed : State := { queued with flostra := poke queued.flostra [(0xB000, 1, 4)] }
def atTake : State := { listed 0 false with strands := [(0, strand.onSplit 0 fun p => { p with st := .barrier, bar := some (.take 0x8000) })] }
def timed (clock : Nat) : State :=
  { m0 with
    clock := .ofNat 64 clock
    parts := [(0, { Part.reset with block := [(0, 0x1000), (2, 0x40000000), (3, 1), (10, 0x20000)] })]
    flostra := poke m0.flostra [(0x20030, 8, 1000)] }
theorem wit_QueueEventResults :
    (let u := queued.seen 0 (queued.qAddr 0 3) 64
     u.queueOk 0 3 = true ∧ u.qf 0 3 28 4 = 15 ∧ u.qf 0 3 24 4 = 0 ∧ u.qf 0 3 8 1 = 4 ∧ (u.part 0).live = true) ∧
    (let u := ringed.seen 0 (ringed.qAddr 0 3) 64
     (u.part 0).live = true ∧ u.queueOk 0 3 = true ∧ u.qf 0 3 28 4 ≠ u.qf 0 3 24 4 ∧ u.pkts = [] ∧
       u.vok 0 .read (u.pktAddr 0 3 (u.qf 0 3 24 4)) = true ∧
       u.pktFault { packet 4 with words := u.pktWords 0 3 0, kernels := [] } (u.fitsEmpty 0) = none) ∧
    (queued.part 0).ownsQueue 3 = true ∧ queued.queueOk 0 3 = true ∧ (16 : Word) ≠ .ofNat 32 (queued.qf 0 3 28 4) ∧
    ((16 : Word) - .ofNat 32 (queued.qf 0 3 24 4)).toNat ≤ 2 ^ queued.qf 0 3 8 1 ∧
    ¬ ((17 : Word) - .ofNat 32 (queued.qf 0 3 24 4)).toNat ≤ 2 ^ queued.qf 0 3 8 1 ∧ (queued.part 0).ownsQueue 4 = false ∧
    ringed.partOfQueue 3 = some 0 ∧ (ringed.part 0).live = true ∧ ringed.queueOk 0 3 = true ∧ ringed.qf 0 3 28 4 ≠ ringed.qf 0 3 24 4 ∧
    (ringed.pkts.filter fun x => x.part == 0 && x.queue == 3).length < 64 ∧
    ringed.vok 0 .read (ringed.pktAddr 0 3 (ringed.qf 0 3 24 4)) = true ∧
    ringed.pktFault { packet 4 with words := ringed.pktWords 0 3 0, kernels := [] } (ringed.fitsEmpty 0) = none ∧
    queued.pktFault { packet 0 with words := queued.pktWords 0 3 0, kernels := [] } (queued.fitsEmpty 0) = some (1, 0) ∧
    (∀ t ∈ [1, 2, 3, 4, 5], (waits t).startable 3 0 = some (packet t) ∧ (packet t).type = t) ∧
    ((waits 4).pkts.find? fun y => y.queue == 3 && y.idx == 0) = some (packet 4) ∧ (packet 4).field 40 8 = 0 ∧
    ({ waits 4 with pkts := [{ packet 4 with st := .issued }] } : State).startable 3 0 = none ∧
    (atTake.source? 0 = some source ∧ source.pipe = some 0 ∧ mapFind atTake.pipes 0 = some (pipe false)) ∧
    ((pipe false).lists = [0x8000] ∧ atTake.listCount 0 0x8000 = 0) ∧ (∀ e ∈ atTake.strands, e.2.atTake = true) ∧
    ((timed 1000).part 0).live = true ∧ (timed 1000).rcb 0 0 48 8 = 1000 ∧ ((timed 1000).part 0).period / 1000 < (timed 1000).clock.toNat / 1000 ∧
    ¬ ((timed 999).part 0).period / 1000 < (timed 999).clock.toNat / 1000 := by decide +kernel
/-- R278: an index of the ring's size ahead of the read index is taken, one more is not; R276: acceptance moves the read index. -/
theorem test_notify : after (exec (.notifyWrite 0 3 16) queued) (fun t => t.qf 0 3 28 4) 0 = 16 ∧
    after (exec (.notifyWrite 0 3 17) queued) (fun t => t.qf 0 3 28 4) 0 = 15 := by decide +kernel
theorem test_accept : after (exec (.packetAccept 3) ringed) (fun t => (t.pkts.map fun p => p.type, t.qf 0 3 24 4, t.qf 0 3 44 4)) ([], 0, 0) =
    ([4], 1, 1) := by decide +kernel

/-- Pending events of a die, in the order in which they begin; decisions that a program has ended; one out of cycles. -/
def faulted : FaultEv := { part := 0, wg := some 0, split := none, op := none, fault := plainRec 0x05 0x01 0, core := 0 }
def pending (fs : List FaultEv) (ps : List (Nat × Nat)) (ds : List (Nat × Option Nat × Option Nat)) : State :=
  s0.onDie 0 fun x => { x with faults := fs, preempt := ps, dispatch := ds }
def ended (k : EvKind) : Decision := { decision with kind := k, chosen := some (1, 0), flt := some faulted }
/-- An image of one DECIDE of FAULT as its only program, and the same with a word that no instruction has. -/
def image (w : Nat) : List Nat := [0x14847, 1, 0x3FF + 0x3FF * 2 ^ 10, 0] ++ List.replicate 16 0 ++ [w]
def loaded (w : List Nat) : State := m0.onPart 0 fun p => { p with shadow := 1, verify := some w }
theorem wit_PolicyEventResults :
    ((pending [faulted] [(0, 0)] [(0, none, some 0)]).dieSt 0).dec = none ∧ ((pending [faulted] [(0, 0)] [(0, none, some 0)]).dieSt 0).faults = [faulted] ∧
    ((pending [] [(0, 0)] [(0, none, some 0)]).dieSt 0).preempt = [(0, 0)] ∧ ((pending [] [] [(0, none, some 0)]).dieSt 0).dispatch = [(0, none, some 0)] ∧
    (∀ k ∈ [EvKind.dispatch, .preempt, .fault], ((deciding (ended k)).dieSt 0).dec = some (ended k) ∧ (ended k).kind = k ∧
      (ended k).chosen = some (1, 0) ∧ (ended k).flt = some faulted) ∧
    decision.prog.budget < ({ decision with cycles := 96 } : Decision).cycles + hgCost (decision.word % 256) ∧
    ¬ decision.prog.budget < ({ decision with cycles := 78 } : Decision).cycles + hgCost (decision.word % 256) ∧
    ¬((s0.part 0).shadow = 1 ∧ (s0.part 0).verify.isSome = true) ∧
    ((loaded (image 0xFF)).part 0).verify = some (image 0xFF) ∧ imgReason (image 0xFF) = some 5 ∧
    ((loaded (image 0x22)).part 0).verify = some (image 0x22) ∧ imgReason (image 0x22) = none := by decide +kernel
/-- R309: an accepted image takes the next version and is in force on an idle die. -/
theorem test_verdict : after (exec (.imageVerdict 0) (loaded (image 0x22))) (fun t => ((t.part 0).version, (t.part 0).polWest.active.version)) (0, 0) =
    (1, 1) := by decide +kernel

/-! ## Events of the fabric and of the endpoint -/

/-- A memory packet of the other device, with an address and a payload. -/
def mem (opc : Nat) (va : Nat) (data : List Byte) : Pkt := { nodePkt opc 0 with addr := .ofNat 64 va, payload := data }
/-- FabricAccessResults: one packet in turn of each kind; pages that do not translate; a device that is not the bridge, and the bridge
with a packet for the host. -/
def bridge : State := { group 1 0 with boot := { (group 1 0).boot with group := [0] } }
theorem wit_FabricAccessResults :
    (∀ k ∈ [1, 2, 3, 4, 5, 8, 9], (group 1 0).inTurn (mem k 0x5000 [4, 0, 0, 0]) 0) ∧
    ((group 1 0).taken (mem 3 0x5000 [0, 4])).hostBound (mem 3 0x5000 [0, 4]) = false ∧
    (bridge.taken (mem 3 0x8000000000005000 [0, 4])).hostBound (mem 3 0x8000000000005000 [0, 4]) = true ∧
    (match ((group 1 0).taken (mem 3 0x5000 [0, 4])).walk 0 .write 0x5000 with | .ok l => leafFmt l.leaf == 0 | _ => false) = true ∧
    (match ((group 1 0).taken (mem 3 0x5000 [0, 4])).walk 0 .write 0x40000000 with | .error _ => true | _ => false) = true := by
  simp only [State.inTurn]; decide +kernel
/-- R321: a b32 value in a BF16 window is carried as its code, 1.0 + 2^-7 / 2 rounded to even. -/
theorem test_window : storedBytes (storePayload true (bytesOf 4 0x3F804000)) = bytesOf 4 0x3F800000 ∧
    storedBytes (storePayload false (bytesOf 4 0x3F804000)) = bytesOf 4 0x3F804000 := by decide +kernel
/-- R319: a store of a packet in turn writes its bytes. -/
theorem test_store : after (exec (.storePacket (mem 3 0x5000 [0, 1, 2])) (group 1 0)) (fun t => t.load .flostra 0x5000 3) 0 = 0x201 := by
  decide +kernel

/-- A packet of this device to the other, on its way and answered by kind; a load that waits for it; its node, not ready there. -/
def mine : Pkt := { mem 1 0x5000 [4] with src := m0.boot.devid.toNat, dst := 1, sincarn := m0.boot.incarn, tincarn := 1 }
def asking : OpBody :=
  .remote { kind := .load, peer := 1, incarn := 1, ty := .b32, lanes := [(0, 0x5000)], data := [], data2 := [], dst := .v 8 false, got := []
            wait := [(0, 0, 0)], refused := [] }
def flying (n clock : Nat) : State :=
  { group 1 0 with
    clock := .ofNat 64 clock
    strands := [(0, { strand with ops := [{ tc.newOp .ld asking 0 0 with started := true }], opNext := 1 })]
    fabric := { (group 1 0).fabric with
      flows := [(64, { Flow.reset with unacked := [(mine, 0, n)] })]
      peers := [(1, { (m0.peer 1) with planes := 1, incarn := 1 })]
      notReady := [{ pkt := mine, since := 0, last := 0, sent := none }] } }
def answer (opc kind : Nat) : Pkt := { mem opc 0 [.ofNat 8 kind] with ack := 0 }
/-- The same answer to a switch port, which sent a node; and an access through a FAR frame that waits for it instead of a load. -/
def portAnswered (opc kind : Nat) : Pkt := { answer opc kind with payload := [.ofNat 8 kind, 1] }
def reaching : State :=
  { flying 0 0 with
    strands := [], far := { (flying 0 0).far with wait := [{ key := .op 0 0, req := .load (2 ^ 41 + 0x5000) 4, plane := 0, seq := 0 }] } }
def noding : State :=
  { flying 0 0 with
    strands := []
    fabric := { (flying 0 0).fabric with flows := [(flowKey (portFlow m0.boot.devid.toNat 1) 0,
      { Flow.reset with unacked := [({ mine with port := true }, 0, 0)] })] } }
theorem wit_FabricFlowResults :
    (answer 0 0).etype = (flying 0 0).boot.etype ∧ (∀ k ∈ [0, 1, 2, 3], (flying 0 0).answerHere (answer 0 k) 0 k = true) ∧
    ((flying 0 0).takeAck 1 0 0).answerHere (answer 0 2) 0 2 = true ∧ (∀ k ∈ [0, 1, 2], portAnswer (portAnswered 0 k) 0 k = true) ∧
    (flying 0 0).sentPkt 1 0 0 = some (1, mine) ∧ ((flying 0 0).waiting 1 0 0).isSome = true ∧
    reaching.sentPkt 1 0 0 = some (1, mine) ∧ reaching.waiting 1 0 0 = none ∧ ((reaching.dropUnacked 1 0 0).farWaiting 1 0 0).isSome = true ∧
    ({ reaching with far := (flying 0 0).far } : State).farWaiting 1 0 0 = none ∧
    (flying 0 0).answerHere (answer 10 0) 10 0 = true ∧ (flying 0 0).answerHere (answer 10 1) 10 1 = true ∧
    portAnswer (portAnswered 10 1) 10 1 = true ∧ (noding.sentPkt (portFlow (answer 10 0).dst 1) 0 0).isSome = true ∧
    ((flying 0 0).dropUnacked 1 0 0).fabric.notReady.any (fun e => e.sent == some 0 && e.pkt.samePath mine) = false ∧
    [({ pkt := mine, since := 0, last := 0, sent := some 0 } : NotReady)].any (fun e => e.sent == some 0 && e.pkt.samePath mine) = true := by
  decide +kernel
theorem wit_FabricFlowResults_waits :
    (flying 0 3600).fabric.notReady[0]? = some { pkt := mine, since := 0, last := 0, sent := none } ∧
    0 + (flying 0 3600).us 1 ≤ (flying 0 3600).clock.toNat ∧ 0 + (flying 0 3600000).us 1000 ≤ (flying 0 3600000).clock.toNat ∧
    ((flying 0 3600).onFab fun f => { f with ue := [{ part := 0, k := 64, idx := 0, words := [], resends := 0, since := 0, early := some (0, 0)
                                                      pkt := { body := .acked } }] }).ueEarly[0]?.isSome = true ∧
    (∀ n ∈ [7, 8], (((flying n 0).flow 1 0).unacked.find? fun e => e.1.seq == 0) = some (mine, 0, n)) ∧
    0 + (flying 0 0).us 60 ≤ (flying 0 216000).clock.toNat ∧ 0 + (flying 7 0).us 120 ≤ (flying 7 432000).clock.toNat ∧
    (flying 0 0).planeLive (1 % 512) 0 = true ∧ (flying 0 0).planeUp 0 = true ∧ (flying 0 0).fabricOn = true ∧
    (flying 0 0).planeLive 1 1 = false ∧ ((flying 0 0).flow 1 0).asking = false ∧
    (((flying 0 0).onFlow 1 0 fun f => { f with asking := true }).flow 1 0).asking = true ∧
    -- links
    (1 : Nat) ≠ (flying 0 0).boot.devid.toNat ∧ ((flying 0 0).peer 1).lost = false ∧
    ((flying 0 0).peer 1).heard + (flying 0 0).us 2000 ≤ (flying 0 7200000).clock.toNat ∧
    (((flying 0 7200000).onPeer 1 fun x => { x with heard := 7200000, cutAt := some 0 }).peer 1).cutAt = some 0 ∧
    ((flying 0 0).port 71).up = false := by decide +kernel
/-- A port to train, one that lost a lane, and an Ultra Ethernet port that is up. -/
def ports : State :=
  { m0 with
    boot := { m0.boot with stage := 2 }
    fabric := { m0.fabric with ports :=
      [(0, { Port.reset 0 with trained := true, up := true, lanes := 2 }), (1, { Port.reset 1 with lanes := 1 }),
        (63, { Port.reset 63 with up := true, lanes := 1 }), (64, { Port.reset 64 with trained := true, up := true, lanes := 4 })] } }
theorem wit_FabricFlowResults_ports :
    ((ports.port 1).up = false ∧ 0 < (ports.port 1).lanes) ∧ ((ports.port 0).up = true ∧ (ports.port 0).lanes = 2) ∧
    ports.fabricOn = true ∧ ((ports.port 63).up = true ∧ (ports.port 63).lanes ≠ 2 ∧ (ports.port 63).trained = false) ∧
    (ports.port 64).up = true := by decide +kernel
/-- R456: the announcement of plane 0 goes to every other device of the pod. -/
theorem test_announce : after (exec .announcementTimer (flying 0 0))
    (fun t => (t.fabric.outbox.length, t.fabric.outbox.head?.map fun p => (p.dst, p.payload))) (0, none) =
    (511, some (1, [6, 1, 0, 0, 0, 0, 0, 0, 0])) := by decide +kernel
/-- R454: a port that trains comes up. -/
theorem test_training : after (exec (.linkTrainingComplete 1) ports) (fun t => (t.port 1).up && (t.port 1).trained) false = true := by
  decide +kernel

/-- One Ultra Ethernet queue of 16 entries at 0x30000, its next entry of an operation at hand, to peer 1 of pod 1. -/
def ether (op : Nat) : State :=
  { m0 with
    parts := [(0, { Part.reset with block := [(0, 0x1000), (2, 0x40000000), (3, 1)], fab := [(0, 0x10077), (4, 0x31000), (5, 0x32000), (6, 0x33000)] })]
    fabric := { m0.fabric with ueWidx := [(0, 1)] }
    flostra := poke m0.flostra [(0x33000, 8, 0x30000), (0x33008, 1, 4), (0x33009, 1, 1), (0x31030, 2, 1), (0x30000, 1, op), (0x30004, 4, 1),
      (0x30008, 8, 0x5000), (0x30010, 8, 0x6000), (0x30018, 4, 8)] }
def ueEntry (k op : Nat) (acked : Bool) : UeEntry :=
  { part := 0, k := k, idx := 0, words := (ether op).ueWords 0 0 0, resends := 0, since := 0, acked := acked
    pkt := { dstDev := 512, k := k, body := .acked } }
def posted (k op : Nat) (acked : Bool) : State := (ether op).onFab fun f => { f with ue := [ueEntry k op acked] }
theorem wit_EndpointResults :
    (∀ op ∈ [1, 2, 3, 4, 5], let v := (ether op).ueSeen 0 0 ((ether op).ueRidx 0 0).toNat
      v.ueWords 0 0 ((ether op).ueRidx 0 0).toNat = (ether op).ueWords 0 0 0 ∧
        v.ueBad 0 ((ether op).ueWords 0 0 0) = decide (op = 5) ∧ v.ueHeld 0 0 ((ether op).ueWords 0 0 0) = false) ∧
    (∀ op ∈ [1, 2, 3, 4], (ether op).ueBad 0 ((ether op).ueWords 0 0 0) = false ∧ ueOp ((ether op).ueWords 0 0 0) = op ∧
      (ether op).ueHeld 0 0 ((ether op).ueWords 0 0 0) = false) ∧ (ether 5).ueBad 0 ((ether 5).ueWords 0 0 0) = true ∧
    0 < ((ether 1).part 0).ueqn ∧ (ether 1).ueOk 0 0 = true ∧ (ether 1).ueWidx 0 0 ≠ (ether 1).ueRidx 0 0 ∧
    (posted 0 1 true).ueEntry? 0 0 0 = some (ueEntry 0 1 true) ∧ ueOp (ueEntry 0 1 true).words = 1 ∧
    (posted 64 3 true).ueEntry? 0 64 0 = some (ueEntry 64 3 true) ∧ (posted 0 2 false).ueEntry? 0 0 0 = some (ueEntry 0 2 false) ∧
    ueBytes (ueEntry 0 2 false).words = 8 ∧ ((ether 1).part 0).live = true ∧
    (ether 1).runOk 0 .write 0x3FFFFFF8 8 = true ∧ (ether 1).runOk 0 .write 0x3FFFFFF9 8 = false ∧ (ether 1).runOk 0 .read 0x5000 8 = true ∧
    (∀ u ∈ (ether 1).fabric.ue, ¬(u.part = 0 ∧ u.k ≠ 64 ∧ uePeerIdx u.words = 1)) ∧
    (∀ u ∈ (posted 0 1 false).fabric.ue, u.part = 0 ∧ u.k ≠ 64 ∧ uePeerIdx u.words = 1) := by decide +kernel
/-- A packet of a body from a peer, for partition 0: the one whose JobID it carries, ordered or not; one whose JobID is nobody's. -/
noncomputable def uetPkt (mode order : Nat) (b : UetBody) : UetPkt := { dstDev := 0, srcDev := 513, job := Config.jobOf 0, mode := mode, order := order, body := b }
theorem wit_EndpointResults_packets :
    (∀ m o b, (ether 1).partOfJob (uetPkt m o b).job = some 0 ∧ (uetPkt m o b).udp = 4793) ∧
    ({ ether 1 with parts := [] } : State).partOfJob 5 = none ∧
    ((ether 1).uetDone (uetPkt 2 1 .nak) = none ∧ (ether 1).uetLate (uetPkt 2 1 .nak) = false) ∧
    (let p := uetPkt 2 1 .nak
     let past := (ether 1).onFab fun f => { f with rodDone := [(rodKey p, p.session, 1)] }
     past.uetDone p = none ∧ past.uetLate p = true ∧ p.mode ≠ 1 ∧
       ((ether 1).onFab fun f => { f with uetSeen := [(rodKey p, p.session, p.idx, .acked)] }).uetDone p = some .acked) ∧
    (match (group 1 0).judge 0 0x500002, (group 1 0).judge 0 0x80400002, (group 1 0).judge 0 0x80500002 with
      | .accepted e, .early, .over => decide (1 < e.elems) && !e.written.contains 1 && (mapGet none e.stuck ((group 1 0).elemSlice e 1)).isNone
          && ((group 1 0).finalFault e 1 (some 0)).isNone
      | _, _, _ => false) = true ∧ ({ dom with written := [1] } : Dom).written.contains 1 = true := by
  refine ⟨fun m o b => ⟨?_, rfl⟩, by decide +kernel, by decide +kernel, by decide +kernel, by decide +kernel, by decide +kernel⟩
  have h : (ether 1).parts = [(0, (ether 1).part 0)] := by decide +kernel
  have live : ((ether 1).part 0).live = true := by decide +kernel
  rw [State.partOfJob, h, List.find?_cons_of_pos (by simp [live, uetPkt])]
  rfl
/-- R328: the write goes to the peer's pod and device, and its entry is taken up. -/
theorem test_ue_write : after (exec (.ueWrite 0 0) (ether 1)) (fun t => (t.fabric.uetOut.map (fun p => p.dstDev), t.ueRidx 0 0)) ([], 0) = ([512], 1) := by
  decide +kernel

/-! ## Events of management, faults and debug -/

/-- ManagementEventResults: host accesses of the last bytes of memory; a boot that has begun; a core that leaves, and one to be cleared,
with no partition; requests for a report, none and one at hand; caps at the ends of their range; power within the cap and over it. -/
def clearing : State := { State.reset with cores := [(3, { CoreSt.reset with clearing := true })], spad := [(3 * 393216, 7)] }
theorem wit_ManagementEventResults :
    (mainBytes - 8) + 8 ≤ mainBytes ∧ mainBytes < (mainBytes - 7) + 8 ∧ s0.bellOf mainBytes = none ∧
    (s0.onPart 0 fun p => { p with block := [(11, .ofNat 64 mainBytes)] }).bellOf (mainBytes + 65535) = some 0 ∧ State.reset.boot.stage < 2 ∧ (2 : Nat) ≤ ({ State.reset.boot with stage := 2 } : Boot).stage ∧
    ((s0.onPart 0 fun p => { p with leaving := [1] }).part 0).leaving.contains 1 = true ∧
    (∀ e ∈ (s0.onPart 0 fun p => { p with leaving := [1] }).wgs, ∀ k ∈ e.2.slots, coreOf k ≠ 1) ∧
    (clearing.core 3).clearing = true ∧ clearing.memWf = true ∧ clearing.partOfCore 3 = none ∧
    ({ m0 with cores := [(0, { CoreSt.reset with clearing := true })] } : State).partOfCore 0 = some 0 ∧
    m0.bufferOk 0 0x50000 16896 = true ∧ m0.bufferOk 0 0x3FFFFFC0 16896 = false ∧
    State.reset.boot.attBusy = false ∧ ({ State.reset.boot with attBusy := true } : Boot).attBusy = true ∧
    1000 ≤ (1000 : Half).toNat ∧ (2800 : Half).toNat ≤ 2800 ∧ (2800 : Half).toNat ≤ State.reset.boot.cap.toNat ∧
    State.reset.boot.cap.toNat < (2801 : Half).toNat := by decide +kernel
/-- R347: over the cap the clock falls by one step, and not below 1.8 GHz. -/
theorem test_throttle :
    after (exec (.powerThrottle 2801) State.reset) (fun t => (t.boot.freq, t.boot.thr)) (0, false) = (35, true) ∧
    after (exec (.powerThrottle 2801) { State.reset with boot := { State.reset.boot with freq := 18 } }) (fun t => t.boot.freq) 0 = 18 := by
  decide +kernel
/-- R348: a core that is cleared holds zeros. -/
theorem test_cleared : after (exec (.scratchClearComplete 3) clearing) (fun t => (readByte t.spad (3 * 393216), (t.core 3).clearing)) (1, true) =
    (0, false) := by decide +kernel

/-- A ring of two records at 0x34000, its write index and groups; an upset that re-reads well and one that does not. -/
def grouped (n widx : Nat) (waits : Bool) : State :=
  { m0 with
    parts := [(0, { Part.reset with
      block := [(0, 0x1000), (1, 0), (2, 0x40000000), (3, 1), (13, 0x34000)], ringLog := 1
      groups := [{ recs := List.replicate n (plainRec 0x05 0x01 0), split := if waits then some (0, 0) else none, op := none }] })]
    flostra := poke m0.flostra [(0x34008, 4, widx)] }
def upset (ok : Bool) : State := { m0 with upsets := [{ place := .flostra, addr := 0x5000, rereadOk := ok, sound := true }] }
def saving (ph : WgPhase) (moves : List (Nat × Nat)) (clock : Nat) : State :=
  { m0 with cur := none, clock := .ofNat 64 clock, wgs := [(0, { placedWg with phase := ph })]
            quarters := [(0, { QuarterSt.reset with moves := moves })] }
theorem wit_FaultEventResults :
    (∀ g, groupNow ((grouped 2 0 true).ringRoom 0) ((grouped 2 0 true).part 0).groups = some g → g.recs.length ≤ (grouped 2 0 true).ringRoom 0) ∧
    (groupNow ((grouped 2 0 true).ringRoom 0) ((grouped 2 0 true).part 0).groups).isSome = true ∧ (grouped 2 0 true).ringRoom 0 = 2 ∧
    (groupNow ((grouped 2 1 false).ringRoom 0) ((grouped 2 1 false).part 0).groups).isSome = true ∧ (grouped 2 1 false).ringRoom 0 = 1 ∧
    (groupNow ((grouped 2 1 true).ringRoom 0) ((grouped 2 1 true).part 0).groups).isSome = false ∧
    ((upset true).upsetAt .flostra 0x5007 1).isSome = true ∧ (upset true).ownerOf .flostra 0x5000 = some 0 ∧
    ((upset true).treatUpset 0 { place := .flostra, addr := 0x5000, rereadOk := true, sound := true }).2 = 1 ∧
    ((upset false).treatUpset 0 { place := .flostra, addr := 0x5000, rereadOk := false, sound := true }).2 ≠ 1 ∧
    (saving .saving [] 0).wg? 0 = some { placedWg with phase := .saving } ∧ (saving .saving [] 0).saveReady 0 { placedWg with phase := .saving } = true ∧
    (saving .saving [(0, 32)] 65536).saveReady 0 { placedWg with phase := .saving } = false ∧
    placedWg.saveLimit = (saving .saving [(0, 32)] 65536).clock.toNat ∧ placedWg.saveLimit < (saving .saving [] 65537).clock.toNat ∧
    (saving .restoring [] 0).symsFit ((saving .restoring [] 0).members { placedWg with phase := .restoring }) = true ∧
    m0.strand? 0 = some strand ∧ strand.watchOff = false ∧ placedWg.phase = .running ∧ 2 ^ 32 ≤ ({ strand with watch := 2 ^ 32 } : Strand).watch := by
  decide +kernel
/-- R369: a group with room moves the write index by its length; one that cannot wait is counted as lost. -/
theorem test_group :
    after (exec (.faultGroupWrite 0) (grouped 2 0 true)) (fun t => (t.load .flostra 0x34008 4, t.load .flostra 0x34040 1, t.load .flostra 0x34043 1)) (0, 0, 0)
      = (2, 5, 1) ∧
    after (exec (.faultGroupWrite 0) (grouped 2 1 false)) (fun t => (t.load .flostra 0x34008 4, t.load .flostra 0x3400C 4)) (0, 0) = (1, 2) := by
  decide +kernel

/-- DebugEventResults: a comparator at the split's place, and a watchpoint on a word that its next load reads; a quarter whose split
is due in the agent after twelve cycles and one that has stepped; requests to stop and to go on; a dump; a sample's cycle. -/
noncomputable def watched : State :=
  { mapped (strand.onSplit 0 fun p => { p with words := (encode (.ld ldX)).getD [] }) with
    parts := [(0, { m0.part 0 with dbgwp := [(0, 0xA000000000005000)] })]
    quarters := [(0, { QuarterSt.reset with dbgia := [(7, 0x8000000000000000)] })], cur := none }
def entry0 (reason : Nat) : Entering := { strand := 0, slot := 0, reason := reason, lanes := 0, since := 0 }
def stopped (reason clock : Nat) : State :=
  { m0 with clock := .ofNat 64 clock, quarters := [(0, { QuarterSt.reset with stopped := true, entering := [entry0 reason] })] }
theorem wit_DebugEventResults :
    watched.breakpoint 0 0 = some 7 ∧ watched.watchpoint 0 0 = some (0, 3) ∧ watched.poised 0 0 = true ∧
    (∀ r ∈ [1, 2, 4], (stopped r 12).nextEntry 0 false = some (entry0 r) ∧ (stopped r 11).nextEntry 0 false = none) ∧
    (stopped 3 12).nextEntry 0 true = some (entry0 3) ∧ ((stopped 4 12).quarter 0).entering = [entry0 4] ∧ (entry0 4).noted = true ∧
    ((stopped 4 12).quarter 0).stopped = true ∧ (stopped 4 12).strand? 0 = some strand ∧ (strand.split 0).st = .ready ∧ (m0.quarter 0).req = false ∧ (m0.quarter 0).stopped = false ∧
    ((stopped 2 12).quarter 0).req = false ∧ ({ QuarterSt.reset with req := true, agent := true } : QuarterSt).agent = true ∧
    (let q := { QuarterSt.reset with req := true, stopped := true, agent := false }; q.req = true ∧ q.agent = false ∧ q.stopped = true) ∧
    strand.part = 0 ∧ bitsOf (0 : DWord) 7 0 * 128 + bitsOf (0 : DWord) 9 8 * 32 + bitsOf (0 : DWord) 14 10 = 0 ∧
    ({ QuarterSt.reset with dumping := true } : QuarterSt).dumping = true ∧ m0.partOfCore (3 / 4) = some 0 ∧ m0.clock.toNat % 2 ^ 10 = 0 ∧
    65528 % 8 = 0 ∧ 65528 < 65536 := by decide +kernel
/-- R485: a reply goes to the strand that DBGREPLY names. -/
theorem test_reply : ((strandAfter (exec (.dbgreplyWrite 0 0xAB00000000) m0)).reply) = some 0xAB := by decide +kernel
end Sys2Proof.Tests
end

section
/-! PROOFS. The lengths of instructions and the place of the literal (R138). -/

namespace Sys2Proof

/-! ## The decoder, one equation for each value of L -/

/-- What a reading of `n` words stands for: its instruction, or the reserved encoding with the CODE of the first field at fault. -/
def decodedInstr (n : Nat) : Except Nat Instr → Instr
  | .ok i => i
  | .error c => .reservedEncoding c n

theorem decodeWords_of_base {w0 : Nat} (hL : w0 % 4 = 0) (rest : List Nat) :
    decodeWords (w0 :: rest) = some (decodedInstr 1 (decodeBase w0), 1) := by
  cases h : decodeBase w0 <;> simp [decodeWords, decodedInstr, hL, h]

theorem decodeWords_of_ext {w0 : Nat} (hL : w0 % 4 = 1) (w1 w2 : Nat) (rest : List Nat) :
    decodeWords (w0 :: w1 :: w2 :: rest) = some (decodedInstr 3 (decodeExt w0 w1 w2 none), 3) := by
  cases h : decodeExt w0 w1 w2 none <;> simp [decodeWords, decodedInstr, hL, h]

theorem decodeWords_of_baseLit {w0 : Nat} (hL : w0 % 4 = 2) (lo hi : Nat) (rest : List Nat) :
    decodeWords (w0 :: lo :: hi :: rest) = some (decodedInstr 3 (decodeBaseLit w0 (litOf lo hi)), 3) := by
  cases h : decodeBaseLit w0 (litOf lo hi) <;> simp [decodeWords, decodedInstr, hL, h]

theorem decodeWords_of_extLit {w0 : Nat} (hL : w0 % 4 = 3) (w1 w2 lo hi : Nat) (rest : List Nat) :
    decodeWords (w0 :: w1 :: w2 :: lo :: hi :: rest) =
      some (decodedInstr 5 (decodeExt w0 w1 w2 (some (litOf lo hi))), 5) := by
  cases h : decodeExt w0 w1 w2 (some (litOf lo hi)) <;> simp [decodeWords, decodedInstr, hL, h]

/-! ## Lengths -/

theorem lField_cases (w0 : Nat) : w0 % 4 = 0 ∨ w0 % 4 = 1 ∨ w0 % 4 = 2 ∨ w0 % 4 = 3 := by omega

theorem decodeWords_eq_none_of_short {w0 : Nat} {rest : List Nat} (h : rest.length + 1 < lengthOf w0) :
    decodeWords (w0 :: rest) = none := by
  simp only [decodeWords]
  split
  case h_5 => rfl
  all_goals
    next hL =>
      simp only [lengthOf, hL, List.length_cons] at h
      omega

/-- The words up to the length that L gives decide the instruction, whatever follows them. -/
theorem decodeWords_take_append {w0 : Nat} {rest : List Nat} (h : lengthOf w0 ≤ rest.length + 1) :
    ∃ i, ∀ more, decodeWords ((w0 :: rest).take (lengthOf w0) ++ more) = some (i, lengthOf w0) := by
  obtain hL | hL | hL | hL := lField_cases w0 <;> simp only [lengthOf, hL] at h ⊢
  · exact ⟨_, decodeWords_of_base hL⟩
  · match rest, h with
    | w1 :: w2 :: _, _ => exact ⟨_, decodeWords_of_ext hL w1 w2⟩
  · match rest, h with
    | lo :: hi :: _, _ => exact ⟨_, decodeWords_of_baseLit hL lo hi⟩
  · match rest, h with
    | w1 :: w2 :: lo :: hi :: _, _ => exact ⟨_, decodeWords_of_extLit hL w1 w2 lo hi⟩

theorem decodeWords_eq_none_iff (w0 : Nat) (rest : List Nat) :
    decodeWords (w0 :: rest) = none ↔ rest.length + 1 < lengthOf w0 := by
  refine ⟨fun hnone => ?_, decodeWords_eq_none_of_short⟩
  by_contra hlong
  obtain ⟨i, hi⟩ := decodeWords_take_append (not_lt.mp hlong)
  have hsome := hi ((w0 :: rest).drop (lengthOf w0))
  rw [List.take_append_drop, hnone] at hsome
  cases hsome

theorem decodeWords_eq_some {w0 : Nat} {rest : List Nat} {i : Instr} {m : Nat} (h : decodeWords (w0 :: rest) = some (i, m)) :
    m = lengthOf w0 ∧ ∀ more, decodeWords ((w0 :: rest).take (lengthOf w0) ++ more) = some (i, lengthOf w0) := by
  have hlong : lengthOf w0 ≤ rest.length + 1 := by
    rw [← not_lt, ← decodeWords_eq_none_iff, h]
    exact Option.some_ne_none _
  obtain ⟨j, hj⟩ := decodeWords_take_append hlong
  have hsome := hj ((w0 :: rest).drop (lengthOf w0))
  rw [List.take_append_drop, h] at hsome
  obtain ⟨rfl, rfl⟩ := Prod.mk.inj (Option.some.inj hsome)
  exact ⟨rfl, hj⟩

/-! ## The literal -/

/-- A row reads the literal of the word's fields into its operands. -/
theorem Row.lit_of_read {w : Row} {r : Raw} {x : Opnds} (h : w.read r = .ok x) : x.lit = r.lit := by
  simp only [Row.read] at h
  -- Every branch but the last is a CODE; the last puts `r.lit` into the operands.
  repeat' split at h
  all_goals cases h <;> rfl

/-- Row by row: the instruction that a row builds carries the row's numbers and the operands it was given. -/
theorem ext?_build_rowsOf (maj : Nat) :
    (rowsOf maj).map (fun w x => (w.build x).ext?) = (rowsOf maj).map (fun w x => some (maj, w.min, x)) := by
  unfold rowsOf
  split <;> rfl

theorem ext?_build {maj : Nat} {w : Row} (h : w ∈ rowsOf maj) (x : Opnds) : (w.build x).ext? = some (maj, w.min, x) :=
  congrFun (List.map_inj_left.mp (ext?_build_rowsOf maj) w h) x

theorem mem_rowsOf_of_findRow {maj min : Nat} {r : Raw} {w : Row} (h : findRow maj min r = some w) : w ∈ rowsOf maj := by
  unfold findRow at h
  split at h
  · cases h
  next v vs hf =>
    have hmem : w ∈ v :: vs := by
      cases hpick : (v :: vs).find? (fun w => w.pick r) with
      | none =>
        rw [hpick] at h
        exact Option.some.inj h ▸ List.mem_cons_self
      | some u =>
        rw [hpick] at h
        exact Option.some.inj h ▸ List.mem_of_find?_eq_some hpick
    exact List.mem_of_mem_filter (hf ▸ hmem)

theorem decodeExt_eq_ok {w0 w1 w2 : Nat} {lit : Option DWord} {i : Instr} (h : decodeExt w0 w1 w2 lit = .ok i) :
    ∃ w ∈ rowsOf (bitsN w0 2 6), ∃ x, w.read (Raw.ofWords w0 w1 w2 lit) = .ok x ∧ i = w.build x := by
  unfold decodeExt at h
  split at h
  · cases h
  dsimp only at h
  split at h
  · cases h
  next w hrow =>
    split at h
    next x hread =>
      cases h
      exact ⟨w, mem_rowsOf_of_findRow hrow, x, hread, rfl⟩
    · cases h

/-- An extended instruction holds the literal that its words were read with. -/
theorem lit_of_decodeExt {n w0 w1 w2 maj min : Nat} {lit : Option DWord} {x : Opnds}
    (h : (decodedInstr n (decodeExt w0 w1 w2 lit)).ext? = some (maj, min, x)) : x.lit = lit := by
  cases hdec : decodeExt w0 w1 w2 lit with
  | error c =>
    rw [hdec] at h
    cases h
  | ok i =>
    obtain ⟨w, hw, y, hread, rfl⟩ := decodeExt_eq_ok hdec
    rw [hdec, decodedInstr, ext?_build hw y] at h
    cases h
    exact Row.lit_of_read hread

/-- The low word and the high word of a value, in this order, are its literal. -/
theorem litOf_halves (v : DWord) : litOf (v.toNat % 2 ^ 32) (v.toNat / 2 ^ 32) = v := by
  apply BitVec.eq_of_toNat_eq
  have hv := v.isLt
  simp only [litOf, BitVec.toNat_ofNat]
  omega

theorem decodeBaseLit_smov (lit : DWord) {d : Nat} (hd : d < 128) :
    decodeBaseLit (0x0B * 2 ^ 2 + d * 2 ^ 8 + 2) lit = .ok (.smovLit d lit) := by
  have hop : bitsN (0x0B * 2 ^ 2 + d * 2 ^ 8 + 2) 2 6 = 0x0B := by unfold bitsN; omega
  have hD : bitsN (0x0B * 2 ^ 2 + d * 2 ^ 8 + 2) 8 8 = d := by unfold bitsN; omega
  have hA : bitsN (0x0B * 2 ^ 2 + d * 2 ^ 8 + 2) 16 8 = 0 := by unfold bitsN; omega
  have hB : bitsN (0x0B * 2 ^ 2 + d * 2 ^ 8 + 2) 24 8 = 0 := by unfold bitsN; omega
  simp only [decodeBaseLit, hop, hD, hA, hB]
  simp [need, isS7, hd]

/-- Settles O9: a decoding ends where L says and looks no further, and the operands hold the literal that the last two words spell. -/
theorem instructionLengths : Obligations.InstructionLengths := by
  intro w0 rest n
  have hn : n = lengthOf w0 := rfl
  clear_value n
  subst hn
  refine ⟨decodeWords_eq_none_iff w0 rest, fun i m => decodeWords_eq_some, ?_, ?_⟩
  · intro w1 w2 v i maj min x
    constructor
    · intro hL hdec hext
      rw [decodeWords_of_extLit hL, litOf_halves] at hdec
      cases hdec
      exact lit_of_decodeExt hext
    · intro hL hdec hext
      rw [decodeWords_of_ext hL] at hdec
      cases hdec
      exact lit_of_decodeExt hext
  · intro v d hd
    rw [decodeWords_of_baseLit (by omega), litOf_halves, decodeBaseLit_smov v hd]
    rfl

end Sys2Proof
end

section
/-! PROOFS. Division and remainder of scalars (R184). -/

namespace Sys2Proof

theorem Ty.width_pos (t : Ty) : 0 < t.width := by cases t <;> decide

theorem Ty.width_le (t : Ty) : t.width ≤ 64 := by cases t <;> decide

end Sys2Proof

namespace Sys2Proof.Machine

open Sys2Proof

/-! ## The value of a type is that of a scalar's low bits -/

theorem intVal_of_signed {t : Ty} (ht : t.signed = true) (y : DWord) : intVal t y = (y.setWidth t.width).toInt := by
  have hpow : 2 ^ t.width = 2 * 2 ^ (t.width - 1) := by
    rw [← Nat.pow_succ', Nat.succ_eq_add_one, Nat.sub_add_cancel t.width_pos]
  simp only [intVal, ht, Bool.true_and, decide_eq_true_eq, BitVec.toInt_eq_toNat_cond, BitVec.toNat_setWidth]
  by_cases hneg : 2 ^ (t.width - 1) ≤ y.toNat % 2 ^ t.width
  · rw [if_pos hneg, if_neg (by omega)]
  · rw [if_neg hneg, if_pos (by omega)]

theorem intVal_of_unsigned {t : Ty} (ht : t.signed = false) (y : DWord) : intVal t y = (y.setWidth t.width).toNat := by
  simp [intVal, ht]

/-- The low bits of a number's 64 bits are those of every number congruent to it. -/
theorem setWidth_ofInt_of_emod_eq {w : Nat} (hw : w ≤ 64) {i j : Int} (h : j % 2 ^ w = i % 2 ^ w) :
    (BitVec.ofInt 64 j).setWidth w = BitVec.ofInt w i := by
  apply BitVec.eq_of_toNat_eq
  rw [BitVec.toNat_setWidth, BitVec.toNat_ofInt, BitVec.toNat_ofInt]
  have hdvd : (2 ^ w : Int) ∣ 2 ^ 64 := pow_dvd_pow 2 hw
  zify
  rw [Int.toNat_of_nonneg (Int.emod_nonneg _ (by positivity)), Int.toNat_of_nonneg (Int.emod_nonneg _ (by positivity)),
    Int.emod_emod_of_dvd j hdvd, h]

/-- The low bits of a scalar result are the result modulo 2^w (R183). -/
theorem setWidth_scalarOut (t : Ty) (i : Int) : (scalarOut t i).setWidth t.width = BitVec.ofInt t.width i := by
  have hmod : (modW t.width i : Int) = i % 2 ^ t.width := by
    rw [modW, Int.toNat_of_nonneg (Int.emod_nonneg _ (by positivity))]
    push_cast
    rfl
  simp only [scalarOut]
  split
  · exact setWidth_ofInt_of_emod_eq t.width_le (by simp [hmod])
  · rw [← BitVec.ofInt_natCast]
    exact setWidth_ofInt_of_emod_eq t.width_le (by simp [hmod])

theorem intVal_scalarOut_of_signed {t : Ty} (ht : t.signed = true) (i : Int) :
    intVal t (scalarOut t i) = i.bmod (2 ^ t.width) := by
  rw [intVal_of_signed ht, setWidth_scalarOut, BitVec.toInt_ofInt]

theorem intVal_scalarOut_of_unsigned {t : Ty} (ht : t.signed = false) {n : Nat} (hn : n < 2 ^ t.width) :
    intVal t (scalarOut t n) = n := by
  rw [intVal_of_unsigned ht, setWidth_scalarOut, BitVec.ofInt_natCast, BitVec.toNat_ofNat, Nat.mod_eq_of_lt hn]

/-- A value of a type is kept when it is written as a scalar result. -/
theorem intVal_scalarOut_intVal (t : Ty) (y : DWord) : intVal t (scalarOut t (intVal t y)) = intVal t y := by
  cases ht : t.signed with
  | true => rw [intVal_scalarOut_of_signed ht, intVal_of_signed ht, BitVec.toInt_bmod_cancel]
  | false => rw [intVal_of_unsigned ht y, intVal_scalarOut_of_unsigned ht (BitVec.isLt _)]

/-- The result −1 sets every bit of a type. -/
theorem scalarOut_neg_one_mod (t : Ty) : (scalarOut t (-1)).toNat % 2 ^ t.width = 2 ^ t.width - 1 := by
  rw [← BitVec.toNat_setWidth, setWidth_scalarOut, BitVec.ofInt_neg, BitVec.ofInt_ofNat, BitVec.neg_one_eq_allOnes,
    BitVec.toNat_allOnes]

/-! ## Quotient and remainder as bits -/

theorem intVal_scalarOut_tdiv_of_signed {t : Ty} (ht : t.signed = true) (a b : DWord) :
    intVal t (scalarOut t ((intVal t a).tdiv (intVal t b))) = ((a.setWidth t.width).sdiv (b.setWidth t.width)).toInt := by
  rw [intVal_scalarOut_of_signed ht, intVal_of_signed ht, intVal_of_signed ht, BitVec.toInt_sdiv]

theorem intVal_scalarOut_tdiv_of_unsigned {t : Ty} (ht : t.signed = false) (a b : DWord) :
    intVal t (scalarOut t ((intVal t a).tdiv (intVal t b))) = (intVal t a).tdiv (intVal t b) := by
  rw [intVal_of_unsigned ht a, intVal_of_unsigned ht b, ← Int.ofNat_tdiv]
  exact intVal_scalarOut_of_unsigned ht ((Nat.div_le_self _ _).trans_lt (BitVec.isLt _))

/-- A remainder is a value of the type. -/
theorem intVal_scalarOut_tmod (t : Ty) (a b : DWord) :
    intVal t (scalarOut t ((intVal t a).tmod (intVal t b))) = (intVal t a).tmod (intVal t b) := by
  cases ht : t.signed with
  | true =>
    rw [intVal_scalarOut_of_signed ht, intVal_of_signed ht, intVal_of_signed ht, ← BitVec.toInt_srem,
      BitVec.toInt_bmod_cancel]
  | false =>
    rw [intVal_of_unsigned ht a, intVal_of_unsigned ht b, ← Int.ofNat_tmod]
    exact intVal_scalarOut_of_unsigned ht ((Nat.mod_le _ _).trans_lt (BitVec.isLt _))

/-! ## The signed overflow -/

/-- The operands of the signed overflow, −2^(w−1) ÷ −1 (R184). -/
def divOverflows (t : Ty) (a b : DWord) : Prop :=
  t.signed = true ∧ intVal t a = -(2 ^ (t.width - 1) : Nat) ∧ intVal t b = -1

theorem toInt_intMin_width (t : Ty) : (BitVec.intMin t.width).toInt = -(2 ^ (t.width - 1) : Nat) := by
  rw [BitVec.toInt_intMin_of_pos t.width_pos]
  push_cast
  rfl

/-- As bits, the overflow is the least number divided by all ones. -/
theorem divOverflows_iff {t : Ty} (ht : t.signed = true) (a b : DWord) :
    divOverflows t a b ↔ a.setWidth t.width = BitVec.intMin t.width ∧ b.setWidth t.width = -1#t.width := by
  have hone : (-1#t.width).toInt = -1 := by
    rw [BitVec.neg_one_eq_allOnes, BitVec.toInt_allOnes, if_pos t.width_pos]
  rw [divOverflows, intVal_of_signed ht, intVal_of_signed ht, ← toInt_intMin_width, BitVec.toInt_inj, ← hone, BitVec.toInt_inj]
  simp only [ht, true_and]

/-- Outside the overflow, a quotient is a value of the type. -/
theorem intVal_scalarOut_tdiv {t : Ty} {a b : DWord} (h : ¬ divOverflows t a b) :
    intVal t (scalarOut t ((intVal t a).tdiv (intVal t b))) = (intVal t a).tdiv (intVal t b) := by
  cases ht : t.signed with
  | true =>
    rw [divOverflows_iff ht, not_and_or] at h
    rw [intVal_scalarOut_tdiv_of_signed ht, BitVec.toInt_sdiv_of_ne_or_ne _ _ h, intVal_of_signed ht, intVal_of_signed ht]
  | false => exact intVal_scalarOut_tdiv_of_unsigned ht a b

theorem intVal_scalarOut_tdiv_of_overflows {t : Ty} {a b : DWord} (h : divOverflows t a b) :
    intVal t (scalarOut t ((intVal t a).tdiv (intVal t b))) = -(2 ^ (t.width - 1) : Nat) := by
  obtain ⟨ha, hb⟩ := (divOverflows_iff h.1 a b).mp h
  rw [intVal_scalarOut_tdiv_of_signed h.1, ha, hb, BitVec.intMin_sdiv_neg_one, toInt_intMin_width]

/-! ## What the instructions write -/

section
variable {s : State} {c : Ic} {x : Opnds} {a b : DWord}

theorem exec_sdiv_of (hi : s.issuer = some c) (hd : c.freeS x.d.snum) (ho : c.scalars x [x.a, x.b] = some [a, b]) :
    exec (.sdiv x) s =
      c.ends s x.len (s.putRegs c (c.regs.setS x.d.snum (scalarOut x.t (idiv (intVal x.t a) (intVal x.t b))))) := by
  rw [exec_sdiv, execSdiv, sint2, sintOp_of s _ x _ _ c _ hi ho hd]
  rfl

theorem exec_srem_of (hi : s.issuer = some c) (hd : c.freeS x.d.snum) (ho : c.scalars x [x.a, x.b] = some [a, b]) :
    exec (.srem x) s =
      c.ends s x.len (s.putRegs c (c.regs.setS x.d.snum (scalarOut x.t (irem (intVal x.t a) (intVal x.t b))))) := by
  rw [exec_srem, execSrem, sint2, sintOp_of s _ x _ _ c _ hi ho hd]
  rfl

end

/-! ## The two results -/

/-- A remainder that is not 0 has the sign of its dividend. -/
theorem irem_sign (a b : Int) : irem a b = 0 ∨ (0 < irem a b ↔ 0 < a) := by
  by_cases hb : b = 0
  · rw [irem, if_pos hb]
    exact .inr Iff.rfl
  · have hsign : (irem a b).sign = if b ∣ a then 0 else a.sign := by rw [irem, if_neg hb, Int.sign_tmod]
    rw [← Int.sign_eq_zero_iff_zero, ← Int.sign_pos_iff, ← Int.sign_pos_iff (x := a), hsign]
    by_cases hdvd : b ∣ a
    · exact .inl (if_pos hdvd)
    · rw [if_neg hdvd]
      exact .inr Iff.rfl

theorem mul_tdiv_add_irem {a b : Int} (hb : b ≠ 0) : b * a.tdiv b + irem a b = a := by
  rw [irem, if_neg hb, Int.mul_tdiv_add_tmod]

theorem irem_neg_one (a : Int) : irem a (-1) = 0 := by
  rw [irem, if_neg (by decide), Int.tmod_neg, Int.tmod_one]

/-- Every remainder is a value of the type, so the register written reads as the remainder itself. -/
theorem intVal_scalarOut_irem (t : Ty) (a b : DWord) :
    intVal t (scalarOut t (irem (intVal t a) (intVal t b))) = irem (intVal t a) (intVal t b) := by
  by_cases hb : intVal t b = 0
  · rw [irem, if_pos hb, intVal_scalarOut_intVal]
  · rw [irem, if_neg hb, intVal_scalarOut_tmod]

/-- Settles O10: the quotient and the remainder of R184 fit the type, but for the quotient of the signed overflow, which wraps. -/
theorem divisionResults : Obligations.DivisionResults := by
  intro s c x a b hi hd ho _ w v put
  have hr : v (scalarOut x.t (irem (v a) (v b))) = irem (v a) (v b) := intVal_scalarOut_irem x.t a b
  refine ⟨_, _, exec_sdiv_of hi hd ho, exec_srem_of hi hd ho, fun hb => ⟨?_, hr.trans (if_pos hb)⟩,
    fun hb => ⟨?_, fun hov => ⟨?_, ?_⟩, fun hov => ?_⟩, ?_⟩
  case refine_1 =>
    rw [idiv, if_pos hb]
    exact scalarOut_neg_one_mod x.t
  case refine_2 => exact ((congrArg _ hr).trans (mul_tdiv_add_irem hb)).symm
  case refine_3 =>
    rw [idiv, if_neg hb]
    exact intVal_scalarOut_tdiv_of_overflows hov
  case refine_4 =>
    obtain ⟨_, _, hb1⟩ := hov
    exact hr.trans (hb1 ▸ irem_neg_one (v a))
  case refine_5 =>
    rw [idiv, if_neg hb]
    exact intVal_scalarOut_tdiv hov
  case refine_6 => exact hr.symm ▸ irem_sign (v a) (v b)

end Sys2Proof.Machine
end

section
/-! PROOFS. Work lists, quiescence and LAUNCH (R246 to R250). -/

namespace Sys2Proof.Machine

open Sys2Proof

/-! ## What an issue passes where nothing is in its way -/

/-- The bodies that stand for an ordering alone: they name no byte. -/
def OpBody.bare (b : OpBody) : Prop := b = .load [] .b32 .none ∨ b = .store [] .b32 []

/-- No exchange of sectors meets an operation that names no byte (R127). -/
theorem State.exchanging_of_bare (s : State) {o : Op} (ho : o.body.bare) : s.exchanging o = false := by
  rw [State.exchanging, List.any_eq_false]
  intro d _
  obtain h | h := ho <;> cases (s.dieSt d).swap <;> simp [h, OpBody.ranges, OpBody.spots]

/-- Nothing is hidden from an operation that names no byte (R131): a load reads none, a store is no read. -/
theorem State.hidden_of_bare (s : State) (key : Nat) {o : Op} (ho : o.body.bare) : s.hidden key o = false := by
  rw [State.hidden, s.exchanging_of_bare ho]
  obtain h | h := ho
  · simp [Op.spots?, Op.loads, h, OpBody.ranges, OpBody.spots]
  · simp [Op.reads, Op.loads, h]

theorem Ic.sectorRoom_of {c : Ic} {s : State} {l : List ByteRange} (h : s.sectorsFit (coreOf c.key) l = true) (k : Act) :
    c.sectorRoom s l k = k := if_pos h

theorem Ic.deviceReads_of {c : Ic} {s : State} {a n : Nat} (h : (s.seen c.st.part a n).far.ask = []) (k : State → Act) :
    c.deviceReads s a n k = k (s.seen c.st.part a n) := by
  simp [Ic.deviceReads, h]

theorem Ic.follows_of_bare {c : Ic} {o : Op} (ho : o.body.bare) (h : c.st.mayPerform o = true) (s : State) (why : Stall)
    (k : Act) : c.follows s o why k = k := by
  simp [Ic.follows, h, s.hidden_of_bare c.key ho]

theorem Ic.acquired_of {c : Ic} (h : c.st.mayPerform (c.newOp .ld (.load [] .b32 .none) 0 0) = true) (s : State) (k : Act) :
    c.acquired s k = k := c.follows_of_bare (.inl rfl) h s .scoreboard k

theorem Ic.released_of {c : Ic} (h : c.st.mayPerform (c.newOp .st (.store [] .b32 []) 2 0) = true) (s : State) (why : Stall)
    (k : Act) : c.released s why k = k := c.follows_of_bare (.inr rfl) h s why k

theorem Ic.reachOf_of {c : Ic} {s : State} {acc : Access} (all : List Nat) (k : State → Act) :
    ∀ {l : List Nat}, s.reachesAll c acc l → c.reachOf s acc all l k = k s
  | [], _ => rfl
  | a :: l, h => by
    obtain ⟨t, ht⟩ := h a List.mem_cons_self
    rw [Ic.reachOf, ht]
    exact Ic.reachOf_of all k fun b hb => h b (List.mem_cons_of_mem a hb)

theorem Ic.reach_of {c : Ic} {s : State} {acc : Access} {l : List Nat} (h : s.reachesAll c acc l) (k : State → Act) :
    c.reach s acc l k = k s := Ic.reachOf_of l k h

/-! ## What the device must still ask grows as it reads -/

@[simp] theorem State.setCells_far (s : State) (p : Place) (m : List Host.Cell) : (s.setCells p m).far = s.far := by
  cases p <;> rfl

@[simp] theorem State.touch_far (s : State) (ent : Nat) (acc : Access) : (s.touch ent acc).far = s.far :=
  s.setCells_far .flostra _

/-- Steps that each leave nothing to ask only if nothing was to be asked before them leave so together. -/
theorem ask_eq_nil_of_foldl {α : Type} {f : State → α → State} (hf : ∀ s e, (f s e).far.ask = [] → s.far.ask = []) :
    ∀ (l : List α) (s : State), (l.foldl f s).far.ask = [] → s.far.ask = []
  | [], _, h => h
  | e :: l, s, h => hf s e (ask_eq_nil_of_foldl hf l (f s e) h)

theorem State.ask_eq_nil_of_farSeen {s : State} {part : Nat} {l : List FarReq} :
    (s.farSeen part l).far.ask = [] → s.far.ask = [] := by
  refine ask_eq_nil_of_foldl (fun s r h => ?_) l s
  split at h
  · exact h
  · exact (List.append_eq_nil_iff.mp h).1

theorem State.ask_eq_nil_of_seen {s : State} {part va n : Nat} : (s.seen part va n).far.ask = [] → s.far.ask = [] := by
  refine ask_eq_nil_of_foldl (fun s i h => ?_) _ s
  dsimp only at h
  split at h
  · split at h
    · simpa using State.ask_eq_nil_of_farSeen h
    · simpa using h
  · exact h

/-- The state after the device has read the first m items of a list from index i on. -/
def State.seenItems (s : State) (part l i m : Nat) : State :=
  (List.range m).foldl (fun t j => t.seen part (t.itemAddr part l (i + j)) (4 * t.itemWords part l)) s

theorem State.seenItems_succ (s : State) (part l i m : Nat) :
    s.seenItems part l i (m + 1) = (s.seenItems part l i m).seen part ((s.seenItems part l i m).itemAddr part l (i + m))
      (4 * (s.seenItems part l i m).itemWords part l) := by
  rw [State.seenItems, List.range_succ, List.foldl_append]
  rfl

theorem Ic.itemsRead_of {c : Ic} {s : State} {l i : Nat} (k : State → Act) :
    ∀ {m : Nat}, (s.seenItems c.st.part l i m).far.ask = [] → c.itemsRead s l i m k = k (s.seenItems c.st.part l i m)
  | 0, _ => rfl
  | m + 1, h => by
    rw [State.seenItems_succ] at h
    rw [Ic.itemsRead, Ic.itemsRead_of _ (State.ask_eq_nil_of_seen h), Ic.deviceReads_of h, State.seenItems_succ]

/-! ## Operands at hand and the end of an issue -/

/-- One scalar operand at hand. -/
theorem Ic.offs_of_scalar {c : Ic} {x : Opnds} {o : Opnd} {v : DWord} (h : c.scalars x [o] = some [v]) :
    ∃ k : Off, c.offs x [(o, true)] = some [k] ∧ k.at 0 = v := by
  obtain ⟨offs, hoffs, hvals⟩ := c.scalars_offs x [o] [v] h
  obtain ⟨k, rfl, hk⟩ := List.map_eq_singleton_iff.mp hvals
  exact ⟨k, hoffs, hk⟩

/-- Two scalar operands at hand. -/
theorem Ic.offs_of_scalars {c : Ic} {x : Opnds} {o p : Opnd} {v w : DWord} (h : c.scalars x [o, p] = some [v, w]) :
    ∃ k l : Off, c.offs x [(o, true), (p, true)] = some [k, l] ∧ k.at 0 = v ∧ l.at 0 = w := by
  obtain ⟨offs, hoffs, hvals⟩ := c.scalars_offs x [o, p] [v, w] h
  obtain ⟨k, offs, rfl, hk, hvals⟩ := List.map_eq_cons_iff.mp hvals
  obtain ⟨l, rfl, hl⟩ := List.map_eq_singleton_iff.mp hvals
  exact ⟨k, l, hoffs, hk, hl⟩

/-- An issue ends with what its act comes to. -/
theorem issueX_of {s : State} {c : Ic} {x : Opnds} {f : Ic → Act} {act : Act} (hi : s.issuer = some c) (hf : f c = act) :
    issueX s x f = .next (s.conclude c x.len act) := by
  rw [issueX, issue_some s x.len f c hi, hf]

theorem issueX_ends_of {s : State} {c : Ic} {x : Opnds} {f : Ic → Act} {t : State} (hi : s.issuer = some c)
    (hf : f c = .done t) : issueX s x f = c.ends s x.len t := issueX_of hi hf

theorem itemRegs_in_range {b n : Nat} (h : b + n ≤ 1536) : ¬1535 < b + n - 1 := by omega

/-! ## The instructions of a pipeline's stages -/

/-- The words of the lanes of act, written as items from index i of a list on (R247). -/
def State.writeItems (s : State) (part l i : Nat) (lanes : List Nat) (ws : List Off) : State :=
  lanes.zipIdx.foldl (fun t e => ws.zipIdx.foldl (fun t w =>
    t.vwrite part (t.itemAddr part l (i + e.2) + 4 * w.2) 4 ((w.1.at e.1).setWidth 32).toNat) t) s

/-- Does the dispatcher ask a workgroup to yield (R52)? -/
def State.yieldPending (s : State) (wg : Nat) : Bool := match s.wg? wg with | some w => w.yield | none => false

/-- At a state given by a long fold the kernel compares two such matches by their parts; it would evaluate one to compare it with the
name. -/
theorem State.yieldPending_eq (s : State) (wg : Nat) :
    s.yieldPending wg = match s.wg? wg with | some w => w.yield | none => false := rfl

section
variable {s : State} {c : Ic} {x : Opnds} {k : Nat} {p : Pipe} {stage : Nat}

theorem exec_quiet_of (hi : s.issuer = some c) (hp : s.pipeOf c.st.wg = some (k, p, stage)) (hd : c.freeS x.d.snum) :
    exec (.quiet x) s = c.ends s x.len (s.putRegs c (c.regs.setS x.d.snum
      (.ofNat 64 ((if p.quiet then 1 else 0) + (if s.yieldPending c.st.wg then 2 else 0))))) := by
  rw [exec_quiet, execQuiet]
  refine issueX_ends_of hi ?_
  rw [hp]
  exact c.toS_of s _ _ hd

variable {a : DWord} {u : State}

theorem Ic.withList_of (hp : s.pipeOf c.st.wg = some (k, p, stage)) (hl : p.lists.contains a = true)
    (hu : s.seen c.st.part a.toNat 32 = u) (hask : u.far.ask = []) (f : State → Nat → Pipe → Nat → Act) :
    c.withList s a f = f u k p stage := by
  subst hu
  rw [Ic.withList, hp]
  exact (if_pos hl).trans (c.deviceReads_of hask _)

variable (hi : s.issuer = some c) (hp : s.pipeOf c.st.wg = some (k, p, stage)) (ha : c.scalars x [x.a] = some [a])
  (hl : p.lists.contains a = true) (hu : s.seen c.st.part a.toNat 32 = u) (hask : u.far.ask = [])
include hi hp ha hl hu hask

theorem exec_wlq_of (hd : c.freeS x.d.snum) (hreach : u.reachesAll c .read [a.toNat])
    (hmay : c.st.mayPerform (c.newOp .ld (.load [] .b32 .none) 0 0) = true) :
    exec (.wlq x) s = c.ends s x.len (u.putRegs c
      (c.regs.setS x.d.snum (.ofNat 64 (u.listCount c.st.part a.toNat)))) := by
  obtain ⟨o, ho, rfl⟩ := c.offs_of_scalar ha
  rw [exec_wlq, execWlq]
  exact issueX_ends_of hi <| (c.known_of s x _ _ _ ho).trans <| (c.withList_of hp hl hu hask _).trans <|
    (c.acquired_of hmay _ _).trans <| (c.reach_of hreach _).trans <| c.toS_of _ _ _ hd

/-- APPEND with room writes its lanes' items at the tail (R247, R50). -/
theorem exec_append_of {ws : List Off} :
    let part := c.st.part
    let l := a.toNat
    let n := u.itemWords part l
    let lanes := lanesOf (c.act x)
    let tail := u.listTail part l
    x.b.vnum + n ≤ 1536 → c.offs x (itemOps x.b.vnum n) = some ws → c.st.full .st = false → c.st.busy x.d true = false →
    lanes ≠ [] → u.listCount part l + lanes.length ≤ u.listCap part l →
    u.sectorsFit (coreOf c.key) (u.listRanges part l tail lanes.length true) = true →
    c.st.mayPerform (c.newOp .st (.store [] .b32 []) 2 0) = true →
    u.reachesAll c .write (l :: u.itemPages part l tail lanes.length) →
    let put := (((u.writeItems part l tail lanes ws).putRegs c (c.regs.setS x.d.snum (.ofNat 64 tail))).addOp c.key
      (c.newOp .st (.store [] .b32 []) 2 0)).vwrite part (l + 24) 8 ((tail + lanes.length) % 2 ^ 64)
    exec (.append x) s = c.ends s x.len (((put.noteAppend k stage a).wakeTakes part fun m _ => m == l).refresh part) := by
  intro part l n lanes tail hn hws hfull hd hact hroom hfit hmay hreach put
  obtain ⟨o, ho, rfl⟩ := c.offs_of_scalar ha
  rw [exec_append, execAppend]
  exact issueX_ends_of hi <| (c.known_of s x _ _ _ ho).trans <| (c.withList_of hp hl hu hask _).trans <|
    (if_neg (itemRegs_in_range hn)).trans <| (c.known_of u x _ _ _ hws).trans <| (if_neg (ne_true_of_eq_false hfull)).trans <|
    (if_neg (ne_true_of_eq_false hd)).trans <| (if_neg (not_lt.mpr hroom)).trans <| (c.sectorRoom_of hfit _).trans <|
    (c.released_of hmay u _ _).trans <| (c.reach_of hreach _).trans <| if_neg fun he => hact (List.isEmpty_iff.mp he)

/-- TAKE with its registers at hand (R248, R52): items first, then QUIET or YIELD, else state Barrier. -/
theorem exec_take_spec :
    let part := c.st.part
    let l := a.toNat
    let n := u.itemWords part l
    let b := x.b.vnum
    let lanes := lanesOf (c.act x)
    let head := u.listHead part l
    let m := min (u.listCount part l) lanes.length
    let v := u.seenItems part l head m
    let items := (List.range m).map fun j => (List.range n).map fun i =>
      BitVec.ofNat 32 (v.vread part (v.itemAddr part l (head + j) + 4 * i) 4)
    let r := takeRegs c.regs b x.c.pnum lanes items n
    b + n ≤ 1536 → c.st.busy x.d true = false → (∀ o ∈ itemOps b n, c.st.busy o.1 false = false) →
    c.st.mayPerform (c.newOp .ld (.load [] .b32 .none) 0 0) = true →
    ∃ act, exec (.take x) s = .next (s.conclude c x.len act) ∧
      (1 ≤ u.listCount part l → (∀ i < n, c.regs.blocksWrite (b + i) false (decide (m = 256)) = false) →
        u.sectorsFit (coreOf c.key) (u.listRanges part l head m false) = true → v.far.ask = [] →
        u.reachesAll c .write [l] → u.reachesAll c .read (u.itemPages part l head m) → r.overflows c.st.logG = false →
        act = .done ((((v.vwrite part (l + 16) 8 ((head + m) % 2 ^ 64)).putRegs c
          (r.setS x.d.snum (.ofNat 64 m))).refresh part).acquired c 0)) ∧
      (u.listCount part l = 0 → p.quiet || u.yieldPending c.st.wg → act = .done (u.putRegs c
        ((takeRegs c.regs b x.c.pnum lanes [] n).setS x.d.snum (if p.quiet then 0x4000000000000000 else 0x8000000000000000)))) ∧
      (u.listCount part l = 0 → p.quiet = false → u.yieldPending c.st.wg = false → act = .stay
        (u.onStrand c.key fun st => st.onSplit c.slot fun sp =>
          { sp with st := .barrier, bar := some (.take l), stall := .barrier, priv := sp.st == .trapped })) := by
  intro part l n b lanes head m v items r hn hd hops hmay
  obtain ⟨o, ho, rfl⟩ := c.offs_of_scalar ha
  have hbusy : ¬(c.st.busy x.d true || (itemOps b n).any fun o => c.st.busy o.1 false) = true := by
    rw [hd, Bool.false_or]
    exact ne_true_of_eq_false <| List.any_eq_false.mpr fun r hr => ne_true_of_eq_false (hops r hr)
  rw [exec_take, execTake]
  refine ⟨_, issueX_of hi <| (c.known_of s x _ _ _ ho).trans <| (c.withList_of hp hl hu hask _).trans <|
    (if_neg (itemRegs_in_range hn)).trans <| (if_neg hbusy).trans <| c.acquired_of hmay u _, ?_, ?_, ?_⟩
  · intro hhave hfree hfit hread hwrite hpages hover
    have hblocks : ¬(m ≠ 0 ∧ (List.range n).any (fun i => c.regs.blocksWrite (b + i) false (decide (m = 256))) = true) := by
      rintro ⟨-, hany⟩
      obtain ⟨i, hin, hblock⟩ := List.any_eq_true.mp hany
      exact ne_true_of_eq_false (hfree i (List.mem_range.mp hin)) hblock
    exact (if_pos hhave).trans <| (if_neg hblocks).trans <| (c.sectorRoom_of hfit _).trans <| (c.reach_of hwrite _).trans <|
      (c.reach_of hpages _).trans <| (c.itemsRead_of _ hread).trans <| if_neg (ne_true_of_eq_false hover)
  · intro hnone hends
    exact (if_neg hnone.not_gt).trans (if_pos hends)
  · intro hnone hquiet hyield
    have hlater : ¬(p.quiet || u.yieldPending c.st.wg) = true := by rw [hquiet, hyield]; decide
    exact (if_neg hnone.not_gt).trans (if_neg hlater)

end

/-- LAUNCH to an enabled queue with room copies the packet and notifies the queue (R250, R278). -/
theorem exec_launch_of {s u v : State} {c : Ic} {x : Opnds} {a b : DWord} :
    let q := a.toNat % 4096
    let part := c.st.part
    let widx := u.qf part q 28 4
    s.issuer = some c → c.scalars x [x.a, x.b] = some [a, b] → (s.part part).ownsQueue q = true →
    s.seen part (s.qAddr part q) 64 = u → u.far.ask = [] → u.seen part b.toNat 64 = v → v.far.ask = [] →
    u.qf part q 9 1 % 2 = 1 → b.toNat < 2 ^ 57 → b.toNat % 64 = 0 → c.st.busy x.d true = false →
    (BitVec.ofNat 32 widx - BitVec.ofNat 32 (u.qf part q 24 4)).toNat < 2 ^ u.qf part q 8 1 →
    c.st.mayPerform (c.newOp .st (.store [] .b32 []) 2 0) = true → u.reachesAll c .read [b.toNat] →
    u.reachesAll c .write [u.pktAddr part q widx] →
    exec (.launch x) s = c.ends s x.len
      (((v.vwriteBytes part (v.pktAddr part q widx) (v.vreadBytes part b.toNat 64)).notify part q (.ofNat 32 (widx + 1))).putRegs c
        (c.regs.setS x.d.snum (.ofNat 64 widx))) := by
  intro q part widx hi hab hown hu hasku hv haskv hen hb hal hd hroom hmay hread hwrite
  subst hu hv
  obtain ⟨o, o', ho, rfl, rfl⟩ := c.offs_of_scalars hab
  have hown' : ¬(!(s.part part).ownsQueue q) = true := by rw [hown]; decide
  have hen' : ¬((s.seen part (s.qAddr part q) 64).qf part q 9 1 % 2 == 0) = true := by rw [hen]; decide
  rw [exec_launch, execLaunch]
  exact issueX_ends_of hi <| (c.known_of s x _ _ _ ho).trans <| (if_neg hown').trans <| (c.deviceReads_of hasku _).trans <|
    (if_neg hen').trans <| (if_neg (not_le.mpr hb)).trans <| (if_neg (not_not.mpr hal)).trans <|
    (if_neg (ne_true_of_eq_false hd)).trans <| (if_neg (not_le.mpr hroom)).trans <| (c.released_of hmay _ _ _).trans <|
    (c.reach_of hread _).trans <| (c.reach_of hwrite _).trans <| c.deviceReads_of haskv _

/-- Settles O42: each instruction issues past what it finds at hand, with the state that its reads of the list or queue leave. -/
theorem workListResults : Obligations.WorkListResults := by
  constructor
  · intro s c x a k p stage ws hi hp part l u n b lanes tail have_ yields
    refine ⟨exec_quiet_of hi hp, fun ha hl hask =>
      ⟨exec_wlq_of hi hp ha hl rfl hask, exec_append_of hi hp ha hl rfl hask, ?_⟩⟩
    intro hn hd hops hmay
    obtain ⟨act, hexec, hitems, hends, hwaits⟩ := exec_take_spec hi hp ha hl rfl hask hn hd hops hmay
    rw [hexec]
    refine ⟨fun hhave hfree => ?_, fun hnone hquiet => ?_, fun hnone hquiet hyield => ?_⟩
    · intro m head v items r hfit hread hwrite hpages hover
      rw [hitems hhave hfree hfit hread hwrite hpages hover]
      rfl
    · rw [hends hnone ((congrArg (p.quiet || ·) (u.yieldPending_eq _)).trans hquiet)]
      rfl
    · rw [hwaits hnone hquiet ((u.yieldPending_eq _).trans hyield)]
      rfl
  · intro s c x a b hi hab q part u v widx hown hasku haskv hen hb hal hd hroom hmay hread hwrite
    exact exec_launch_of hi hab hown rfl hasku rfl haskv hen hb hal hd hroom hmay hread hwrite

end Sys2Proof.Machine
end

section
/-! PROOFS. The words of the policy engine (R302, R303). -/

namespace Sys2Proof

/-! ## The fields of a word -/

section
variable {op d a imm : Nat} (hop : op < 2 ^ 8) (hd : d < 2 ^ 4) (ha : a < 2 ^ 4) (himm : imm < 2 ^ 16)
include hop

theorem op_hgWord : hgWord op d a imm % 256 = op := by
  unfold hgWord; omega

include hd

theorem xD_hgWord : bitsN (hgWord op d a imm) 8 4 = d := by
  unfold bitsN hgWord; omega

include ha

theorem xA_hgWord : bitsN (hgWord op d a imm) 12 4 = a := by
  unfold bitsN hgWord; omega

include himm

theorem imm_hgWord : bitsN (hgWord op d a imm) 16 16 = imm := by
  unfold bitsN hgWord; omega

theorem hgWord_lt : hgWord op d a imm < 2 ^ 32 := by
  unfold hgWord; omega

end

theorem hgWord_fields {w : Nat} (hw : w < 2 ^ 32) : hgWord (hgOp w) (hgD w) (hgA w) (hgImm w) = w := by
  unfold hgWord hgOp hgD hgA hgImm bitsN; omega

theorem bitsN_zero_eight (w : Nat) : bitsN w 0 8 = hgOp w := by
  simp [bitsN, hgOp]

/-- Bits [31:20] are what IMM holds above XB. -/
theorem hgImm_lt_sixteen_iff (w : Nat) : hgImm w < 16 ↔ bitsN w 20 12 = 0 := by
  unfold hgImm bitsN; omega

/-! ## The instructions that have a word -/

/-- The instructions with a word are those of the policy engine. -/
theorem encodeHg_isSome (i : Instr) : (encodeHg i).isSome = i.policy := by
  cases i <;> rfl

/-- For an instruction of the policy engine, the checks of R303's fields are all there is to being well formed. -/
theorem wellFormed_of_policy {i : Instr} (hp : i.policy = true) : WellFormed i = hgWf i := by
  unfold Instr.policy at hp
  split at hp
  pick_goal -1 -- no instruction of the policy engine
  · cases hp
  all_goals rfl

/-! ## Encoding, then decoding -/

/-- A well-formed instruction's word holds each field in its place, so the row that its OP selects reads the operands back. -/
theorem decodeHg_of_encodeHg {i : Instr} {w : Nat} (hwf : hgWf i = true) (h : encodeHg i = some w) :
    w < 2 ^ 32 ∧ decodeHg w = some i := by
  unfold encodeHg at h
  split at h
  pick_goal -1 -- an instruction with no word
  · cases h
  all_goals
    obtain rfl := Option.some.inj h
    simp only [hgWf, isX, Bool.and_eq_true, decide_eq_true_eq] at hwf
    refine ⟨hgWord_lt (by decide) (by omega) (by omega) (by omega), ?_⟩
    simp (disch := omega) [decodeHg, op_hgWord, xD_hgWord, xA_hgWord, imm_hgWord, hwf, Nat.mod_eq_of_lt,
      Nat.add_mul_div_right, Nat.div_eq_of_lt]

/-! ## Decoding, then encoding -/

/-- What a check guards holds of a reading when it holds where the check passes. -/
theorem forall_mem_ite_none {P : Instr → Prop} {c : Prop} [Decidable c] {o : Option Instr} :
    (∀ i ∈ (if c then o else none), P i) ↔ (c → ∀ i ∈ o, P i) := by
  by_cases hc : c <;> simp [hc]

/-- The instruction that a row reads is well formed and spells the word's own fields. -/
theorem encodeHg_of_mem_decodeHg (w : Nat) : ∀ i ∈ decodeHg w,
    hgWf i = true ∧ encodeHg i = some (hgWord (hgOp w) (hgD w) (hgA w) (hgImm w)) := by
  have hd : bitsN w 8 4 < 16 := Nat.mod_lt _ (by decide)
  have ha : bitsN w 12 4 < 16 := Nat.mod_lt _ (by decide)
  have himm : bitsN w 16 16 % 65536 = bitsN w 16 16 := Nat.mod_mod _ _
  simp only [decodeHg, hgOp, hgD, hgA, hgImm]
  split
  pick_goal -1 -- an OP with no row
  · simp
  all_goals
    simp only [forall_mem_ite_none, Option.mem_some_iff, forall_eq']
    intros
    simp [*, hgWf, isX, encodeHg, Nat.mod_eq_of_lt, Nat.mod_add_div']

/-- A row reads only words whose fields it accepts (rule 5 of R306). -/
theorem hgWordOk_of_mem_decodeHg (w : Nat) : ∀ i ∈ decodeHg w, hgWordOk w = true := by
  simp only [decodeHg, hgWordOk, hgOp, hgD, hgA, hgImm]
  split
  pick_goal -1 -- an OP with no row
  · simp
  all_goals
    simp only [forall_mem_ite_none, Option.mem_some_iff, forall_eq']
    intros
    simp [*, hgUses]

theorem decodeHg_eq_none {w : Nat} (h : hgWordOk w = false) : decodeHg w = none :=
  Option.eq_none_iff_forall_not_mem.mpr fun i hi =>
    Bool.false_ne_true (h.symm.trans (hgWordOk_of_mem_decodeHg w i hi))

/-! ## The words that are refused -/

theorem decodeHg_eq_none_of_uses {w : Nat} {d a ok : Bool} (huses : hgUses (hgOp w) (hgImm w) = some (d, a, ok))
    (hbad : (d = false ∧ hgD w ≠ 0) ∨ (a = false ∧ hgA w ≠ 0) ∨ ok = false) : decodeHg w = none := by
  apply decodeHg_eq_none
  rw [hgWordOk, huses]
  obtain ⟨rfl, hd⟩ | ⟨rfl, ha⟩ | rfl := hbad
  · simp [hd]
  · simp [ha]
  · rfl

/-- The rows of R303 that name xB. -/
theorem hgUses_register {op : Nat} (hop : op ∈ [0x04, 0x06, 0x07, 0x0A, 0x0B, 0x0C, 0x0D, 0x0E, 0x10, 0x18, 0x20]) (imm : Nat) :
    ∃ d a, hgUses op imm = some (d, a, decide (imm < 16)) := by
  fin_cases hop <;> exact ⟨_, _, rfl⟩

/-- R303 defines no operation beyond 0x22. -/
theorem hgUses_eq_none {op : Nat} (hop : 0x22 < op) (imm : Nat) : hgUses op imm = none := by
  simp (disch := omega) only [hgUses, if_neg]

/-- Settles O8: a row of R303 reads exactly what it writes, and rule 5 of R306 tells the words that no row reads. -/
theorem policyWords : Obligations.PolicyWords := by
  refine ⟨fun i hp hwf => ?_, fun w i hw hdec => ?_, fun d a b hd ha hb => ?_, fun d a imm hd ha => ?_,
    fun w hop hbits => ?_, fun w d a ok huses hbad => ?_, fun w hop => ?_⟩
  · obtain ⟨w, henc⟩ := Option.isSome_iff_exists.mp ((encodeHg_isSome i).trans hp)
    obtain ⟨hw, hdec⟩ := decodeHg_of_encodeHg ((wellFormed_of_policy hp).symm.trans hwf) henc
    exact ⟨w, hw, henc, hdec⟩
  · obtain ⟨hwf, henc⟩ := encodeHg_of_mem_decodeHg w i hdec
    rw [hgWord_fields hw] at henc
    have hp : i.policy = true := by rw [← encodeHg_isSome, henc]; rfl
    exact ⟨hp, (wellFormed_of_policy hp).trans hwf, henc⟩
  · exact (decodeHg_of_encodeHg (i := .hgAdd d a b) (by simp [hgWf, isX, hd, ha, hb]) rfl).2
  · exact (decodeHg_of_encodeHg (i := .hgAddi d a imm) (by simp [hgWf, isX, hd, ha]) rfl).2
  · rw [bitsN_zero_eight] at hop
    obtain ⟨d, a, huses⟩ := hgUses_register hop (hgImm w)
    exact decodeHg_eq_none_of_uses huses (.inr (.inr (decide_eq_false (mt (hgImm_lt_sixteen_iff w).mp hbits))))
  · rw [bitsN_zero_eight] at huses
    exact decodeHg_eq_none_of_uses huses hbad
  · rw [bitsN_zero_eight] at hop
    exact decodeHg_eq_none (by rw [hgWordOk, hgUses_eq_none hop])

end Sys2Proof
end

section
/-! PROOFS. The instructions of the policy engine (R298 to R307). -/

namespace Sys2Proof.Machine

open Sys2Proof

/-! ## The decision in progress -/

section
variable {s : State} {d : Decision} (hd : (s.dieSt s.die).dec = some d)
include hd

theorem policyOp_of (f : Decision → Decision) :
    policyOp s f = .next (s.onDie s.die fun x => { x with dec := some (f d) }) := by
  simp [policyOp, hd]

theorem hgTo_of {cost pc : Nat} {e : Decision} {toPc : Decision → Nat} {f : Decision → Decision} (hpc : toPc d = pc)
    (he : f d = e) (h : d.affords cost = true) :
    hgTo s cost toPc f =
      .next (s.onDie s.die fun x => { x with dec := some { e with cycles := d.cycles + cost, pc := pc } }) := by
  subst hpc he
  rw [hgTo, policyOp_of hd, if_pos h]

theorem hgSet_of {cost n : Nat} {f : Decision → Word} {v : Word} (hv : f d = v) (h : d.affords cost = true) :
    hgSet s cost n f =
      .next (s.onDie s.die fun x => { x with dec := some { d.setReg n v with cycles := d.cycles + cost, pc := d.pc + 1 } }) :=
  hgTo_of hd rfl (congrArg (d.setReg n) hv) h

theorem hgDecide_of {kind : EvKind} (hk : d.kind = kind) (f : Decision → Int × Int) (h : d.affords 2 = true) :
    hgDecide s kind f = .next (s.onDie s.die fun x =>
      { x with dec := some { d with chosen := some (f d), cycles := d.cycles + 2, pc := d.pc + 1 } }) :=
  hgTo_of hd (e := { d with chosen := some (f d) }) rfl (if_pos hk) h

theorem hgTo_of_not_affords {cost : Nat} (h : d.affords cost = false) (pc : Decision → Nat) (f : Decision → Decision) :
    hgTo s cost pc f = .next (s.onDie s.die fun x => { x with dec := some d }) := by
  rw [hgTo, policyOp_of hd, if_neg (ne_true_of_eq_false h)]

end

theorem Decision.reg_setReg {d : Decision} {r : Nat} (hr : r < d.x.length) (m : Nat) (v : Word) :
    (d.setReg r v).reg m = if m = r then v else d.reg m := by
  by_cases hm : m = r
  · subst hm
    simp [Decision.reg, Decision.setReg, hr]
  · simp [Decision.reg, Decision.setReg, hm, List.getElem?_set_ne (Ne.symm hm)]

/-! ## Elements by a signed index (R299, R300, R303) -/

theorem signedAt_natCast {α : Type} (l : List α) (i : Nat) : signedAt l i = l[i]? := by
  simp [signedAt]

theorem signedAt_of_neg {α : Type} (l : List α) {i : Int} (h : i < 0) : signedAt l i = none :=
  if_neg (not_le.mpr h)

theorem signedAt_of_length_le {α : Type} {l : List α} {i : Nat} (h : l.length ≤ i) : signedAt l i = none := by
  rw [signedAt_natCast, List.getElem?_eq_none h]

section
variable {d : Decision} {i : Int} {n : Nat}

theorem Decision.field_of_some {e : Nat × List Word} (h : signedAt d.view i = some e) : d.field i n = e.2.getD n 0 := by
  rw [Decision.field, h]

theorem Decision.field_of_none (h : signedAt d.view i = none) : d.field i n = 0 := by
  rw [Decision.field, h]

theorem Decision.coreField_of_some {e : List Word} (h : signedAt d.cores i = some e) : d.coreField i n = e.getD n 0 := by
  rw [Decision.coreField, h]

theorem Decision.coreField_of_none (h : signedAt d.cores i = none) : d.coreField i n = 0 := by
  rw [Decision.coreField, h]

theorem Decision.fit_of_none (h : signedAt d.fits i = none) (b : Int) : d.fit i b = false := by
  rw [Decision.fit, h]

theorem Decision.fit_of_some {l : List Nat} (h : signedAt d.fits i = some l) (b : Int) :
    d.fit i b = if b = -1 then !l.isEmpty else decide (0 ≤ b) && l.contains b.toNat := by
  rw [Decision.fit, h]

theorem Decision.fit_any {l : List Nat} (h : signedAt d.fits i = some l) : d.fit i (-1) = !l.isEmpty := by
  rw [Decision.fit_of_some h, if_pos rfl]

theorem Decision.fit_core {l : List Nat} (h : signedAt d.fits i = some l) (k : Nat) : d.fit i k = l.contains k := by
  rw [Decision.fit_of_some h, if_neg (by omega)]
  simp

/-- No source fits a core number below -1. -/
theorem Decision.fit_of_lt {b : Int} (hb : b < -1) : d.fit i b = false := by
  cases h : signedAt d.fits i with
  | none => exact Decision.fit_of_none h b
  | some l => rw [Decision.fit_of_some h, if_neg (by omega), decide_eq_false (by omega), Bool.false_and]

end

/-! ## The extreme of the view (R303) -/

/-- The step of ARGMIN and ARGMAX: a later entry wins only where it comes strictly first. -/
def argStep {κ : Type} (lt : κ → κ → Bool) (key : Nat → κ) (best : Option Nat) (i : Nat) : Option Nat :=
  match best with
  | none => some i
  | some b => if lt (key i) (key b) then some i else some b

theorem Decision.arg_eq_foldl (d : Decision) (lt : Int × Int → Int × Int → Bool) (f g : Nat) :
    d.arg lt f g = ((List.range d.view.length).foldl (argStep lt fun j : Nat => ((d.field j f).toInt, (d.field j g).toInt))
      none).elim (-1) fun i : Nat => (i : Int) := by
  have h : d.arg lt f g = match (List.range d.view.length).foldl (argStep lt fun j : Nat =>
      ((d.field j f).toInt, (d.field j g).toInt)) none with | some i => (i : Int) | none => -1 := rfl
  rw [h]
  split <;> simp [*]

/-- An entry that beats every earlier one and is beaten by no later one is the extreme. -/
theorem foldl_argStep {κ : Type} (lt : κ → κ → Bool) (key : Nat → κ) {k n : Nat} (hk : k < n)
    (hbefore : ∀ j < k, lt (key k) (key j) = true) (hafter : ∀ j < n, k < j → lt (key j) (key k) = false) :
    (List.range n).foldl (argStep lt key) none = some k := by
  have below : ∀ m, ∀ b ∈ (List.range m).foldl (argStep lt key) none, b < m := by
    intro m
    induction m with
    | zero => simp
    | succ m ih =>
      rw [List.range_succ, List.foldl_append, List.foldl_cons, List.foldl_nil]
      cases hbest : (List.range m).foldl (argStep lt key) none with
      | none => simp [argStep]
      | some b =>
        have := ih b hbest
        rw [argStep]
        split <;> simp only [Option.mem_some_iff] <;> omega
  have from_k : ∀ m, k + 1 + m ≤ n → (List.range (k + 1 + m)).foldl (argStep lt key) none = some k := by
    intro m
    induction m with
    | zero =>
      intro _
      rw [Nat.add_zero, List.range_succ, List.foldl_append, List.foldl_cons, List.foldl_nil]
      cases hbest : (List.range k).foldl (argStep lt key) none with
      | none => rfl
      | some b => rw [argStep, if_pos (hbefore b (below k b hbest))]
    | succ m ih =>
      intro hm
      rw [← Nat.add_assoc, List.range_succ, List.foldl_append, ih (by omega), List.foldl_cons, List.foldl_nil, argStep,
        if_neg (ne_true_of_eq_false (hafter _ (by omega) (by omega)))]
  obtain ⟨m, rfl⟩ := Nat.exists_eq_add_of_le (Nat.succ_le_of_lt hk)
  exact from_k m le_rfl

theorem Decision.arg_eq {d : Decision} {lt : Int × Int → Int × Int → Bool} {f g k : Nat} (hk : k < d.view.length)
    (hbefore : ∀ j < k, lt ((d.field k f).toInt, (d.field k g).toInt) ((d.field j f).toInt, (d.field j g).toInt) = true)
    (hafter : ∀ j < d.view.length, k < j →
      lt ((d.field j f).toInt, (d.field j g).toInt) ((d.field k f).toInt, (d.field k g).toInt) = false) :
    BitVec.ofInt 32 (d.arg lt f g) = BitVec.ofNat 32 k := by
  rw [Decision.arg_eq_foldl, foldl_argStep lt _ hk hbefore hafter, Option.elim_some, BitVec.ofInt_natCast]

theorem Decision.arg_of_empty {d : Decision} (h : d.view = []) (lt : Int × Int → Int × Int → Bool) (f g : Nat) :
    d.arg lt f g = -1 := by
  simp [Decision.arg, Decision.nq, h]

/-- Settles O47: each instruction is `hgSet` of what its row of R303 says. -/
theorem policyRegisterResults : Obligations.PolicyRegisterResults := by
  intro s d r a b n imm hd sets bit x y
  have set {cost : Nat} {f : Decision → Word} {v : Word} (hv : f d = v) (h : d.affords cost = true) := hgSet_of hd (n := r) hv h
  refine ⟨set rfl, set rfl, set rfl, set rfl, set rfl, set rfl, set rfl, fun hn => ?shifts, set rfl, set rfl, set rfl, set rfl,
    set rfl, set rfl, set rfl, set rfl, fun i hi => ?indexed, fun hneg => ?negative, set rfl, set rfl, set rfl,
    fun hempty f g => ?empty, fun _ k hk f g => ?extreme, fun hlen hr m v => Decision.reg_setReg (hlen ▸ hr) m v⟩
  case shifts =>
    have hmod : n % 32 = n := Nat.mod_eq_of_lt hn
    exact ⟨set (congrArg (x <<< ·) hmod), set (congrArg (x >>> ·) hmod)⟩
  case indexed =>
    have at_ {α : Type} (l : List α) : signedAt l x.toInt = l[i]? := by rw [hi, signedAt_natCast]
    have past {α : Type} {l : List α} (h : l.length ≤ i) : signedAt l x.toInt = none := by rw [hi, signedAt_of_length_le h]
    refine ⟨fun e he => set (Decision.field_of_some ((at_ _).trans he)), fun h => set (Decision.field_of_none (past h)),
      fun e he => set (Decision.coreField_of_some ((at_ _).trans he)), fun h => set (Decision.coreField_of_none (past h)),
      fun l hl hy => set (congrArg bit ?_), fun l k hl hy => set (congrArg bit ?_),
      fun hy => set (congrArg bit (Decision.fit_of_lt hy)), fun h => set (congrArg bit (Decision.fit_of_none (past h) _))⟩
    · have hy : (d.reg b).toInt = -1 := by rw [show d.reg b = -1 from hy]; rfl
      rw [hy]
      exact Decision.fit_any ((at_ _).trans hl)
    · rw [show (d.reg b).toInt = k from hy]
      exact Decision.fit_core ((at_ _).trans hl) k
  case negative =>
    have none {α : Type} (l : List α) : signedAt l x.toInt = none := signedAt_of_neg l hneg
    exact ⟨set (Decision.field_of_none (none _)), set (Decision.coreField_of_none (none _)),
      set (congrArg bit (Decision.fit_of_none (none _) _))⟩
  case empty =>
    exact ⟨set (by rw [Decision.arg_of_empty hempty]; rfl), set (by rw [Decision.arg_of_empty hempty]; rfl)⟩
  case extreme =>
    intro key
    refine ⟨fun hmin => set (Decision.arg_eq hk (fun j hj => ?_) fun j hj hkj => ?_),
      fun hmax => set (Decision.arg_eq hk (fun j hj => ?_) fun j hj hkj => ?_)⟩
    · have := hmin j (by omega) (by omega)
      simp only [key, Prod.mk.injEq] at this
      simp only [argLess, decide_eq_true_eq]; omega
    · have := hmin j hj (by omega)
      simp only [key, Prod.mk.injEq] at this
      simp only [argLess, decide_eq_false_iff_not]; omega
    · have := hmax j (by omega) (by omega)
      simp only [key, Prod.mk.injEq] at this
      simp only [argMore, decide_eq_true_eq]; omega
    · have := hmax j hj (by omega)
      simp only [key, Prod.mk.injEq] at this
      simp only [argMore, decide_eq_false_iff_not]; omega

/-! ## Branches, stores and decisions -/

/-- The cost of an instruction of the policy engine is at least one cycle, so an ended decision affords none. -/
theorem Decision.not_affords {d : Decision} (h : d.chosen.isSome = true ∨ d.prog.budget < d.cycles + 1) {cost : Nat}
    (hc : 1 ≤ cost) : d.affords cost = false := by
  obtain h | h := h
  · obtain ⟨p, hp⟩ := Option.isSome_iff_exists.mp h
    simp [Decision.affords, hp]
  · simp [Decision.affords]; omega

/-- Every instruction of the policy engine costs a cycle or more, and acts in a decision that affords it. -/
theorem exec_policy {i : Instr} (hp : i.policy = true) (s : State) :
    ∃ cost pc f, 1 ≤ cost ∧ exec i s = hgTo s cost pc f ∧
      ∀ d, f d = { d with x := (f d).x, scratch := (f d).scratch, chosen := (f d).chosen } := by
  unfold Instr.policy at hp
  split at hp
  pick_goal -1 -- no instruction of the policy engine
  · cases hp
  case h_33 | h_34 | h_35 => -- the three DECIDE
    refine ⟨2, _, _, by omega, rfl, fun d => ?_⟩
    dsimp only
    split <;> rfl
  all_goals exact ⟨_, _, _, by decide, rfl, fun d => rfl⟩

/-- Settles O48: a branch is `hgTo` of its target, a DECIDE of the decision's kind is `hgDecide_of`, and what is not afforded changes
nothing. -/
theorem policyControlResults : Obligations.PolicyControlResults := by
  intro s d r a b n imm hd goes next fwd chose
  refine ⟨hgTo_of hd rfl rfl, hgTo_of hd rfl rfl, hgTo_of hd rfl rfl, hgTo_of hd (ite_not _ _ _) rfl, hgTo_of hd rfl rfl,
    hgTo_of hd rfl rfl, hgTo_of hd rfl rfl, fun hk => hgDecide_of hd hk _, fun hk => hgDecide_of hd hk _,
    fun hk => hgDecide_of hd hk _, fun hend i hp => ?_⟩
  obtain ⟨cost, pc, f, hcost, hexec, -⟩ := exec_policy hp s
  rw [hexec, hgTo_of_not_affords hd (Decision.not_affords hend hcost)]

/-- Settles O49: an instruction of the policy engine is one change of the decision in progress. -/
theorem policyFrame : Obligations.PolicyFrame := by
  refine ⟨fun s t i hp ht => ?_, fun s i hnone hp => ?_⟩
  · obtain ⟨cost, pc, f, -, hexec, hf⟩ := exec_policy hp s
    rw [hexec] at ht
    cases hd : (s.dieSt s.die).dec with
    | none => simp [hgTo, policyOp, hd] at ht
    | some d =>
      cases haff : d.affords cost
      · rw [hgTo_of_not_affords hd haff] at ht
        exact ⟨d, d, rfl, (Host.Outcome.next.inj ht).symm, rfl⟩
      · rw [hgTo_of hd rfl (hf d) haff] at ht
        exact ⟨d, _, rfl, (Host.Outcome.next.inj ht).symm, rfl⟩
  · obtain ⟨cost, pc, f, -, hexec, -⟩ := exec_policy hp s
    rw [hexec, hgTo, policyOp, hnone]

end Sys2Proof.Machine
end

section
/-! PROOFS. Memories and registers: what is written is read back, and the rest stays (R3, R88, R90, R112); the state after reset. -/

namespace Sys2Proof.Machine

open Sys2Proof

/-! ## Bytes of a memory -/

section
variable {m : List Host.Cell} (hm : Memory.wf m = true)
include hm

theorem readByte_writeByte (a k : Nat) (b : Byte) : readByte (writeByte m a b) k = if k = a then b else readByte m k := by
  split
  · next h => exact h ▸ readByte_writeByte_same m a b hm
  · next h => exact readByte_writeByte_other m a k b hm h

end

theorem readByte_writeN {m : List Host.Cell} (hm : Memory.wf m = true) (a n v k : Nat) :
    readByte (writeN m a n v) k = if a ≤ k ∧ k < a + n then .ofNat 8 (v / 256 ^ (k - a)) else readByte m k := by
  induction n generalizing m a v with
  | zero => rw [if_neg (by omega)]; rfl
  | succ n ih =>
    rw [writeN, ih (Memory.wf_writeByte m a _ hm), readByte_writeByte hm]
    by_cases hk : k = a
    · subst hk
      rw [if_neg (by omega), if_pos rfl, if_pos (by omega), Nat.sub_self, Nat.pow_zero, Nat.div_one]
    · rw [if_neg hk]
      by_cases hin : a + 1 ≤ k ∧ k < a + 1 + n
      · rw [if_pos hin, if_pos (by omega), Nat.div_div_eq_div_mul, ← Nat.pow_succ', show (k - (a + 1)).succ = k - a by omega]
      · rw [if_neg hin, if_neg (by omega)]

theorem readByte_writeBytes {m : List Host.Cell} (hm : Memory.wf m = true) (a k : Nat) (l : List Byte) :
    readByte (writeBytes m a l) k = if a ≤ k ∧ k < a + l.length then l.getD (k - a) 0 else readByte m k := by
  induction l generalizing m a with
  | nil => exact (if_neg (by simp)).symm
  | cons b t ih =>
    rw [writeBytes, ih (Memory.wf_writeByte m a b hm), readByte_writeByte hm, List.length_cons]
    by_cases hk : k = a
    · subst hk
      rw [if_neg (by omega), if_pos rfl, if_pos (by omega), Nat.sub_self]
      rfl
    · rw [if_neg hk]
      by_cases hin : a + 1 ≤ k ∧ k < a + 1 + t.length
      · rw [if_pos hin, if_pos (by omega), show k - a = k - (a + 1) + 1 by omega]
        rfl
      · rw [if_neg hin, if_neg (by omega)]

theorem readByte_clearRun {m : List Host.Cell} (hm : Memory.wf m = true) (a n k : Nat) :
    readByte (clearRun m a n) k = if a ≤ k ∧ k < a + n then 0 else readByte m k := by
  induction m with
  | nil => split <;> rfl
  | cons e t ih =>
    obtain ⟨j, w⟩ := e
    have hsort := mapSorted_cons j w t ((Memory.wf_iff _).mp hm).1
    have ht : Memory.wf t = true :=
      (Memory.wf_iff t).mpr ⟨hsort.1, fun e he => ((Memory.wf_iff _).mp hm).2 e (List.mem_cons_of_mem _ he)⟩
    have hlow : ∀ k ≤ j, mapFind t k = none := fun k hk => mapFind_below t k fun e he => lt_of_le_of_lt hk (hsort.2 e he)
    have hclear : ∀ k ≤ j, mapFind (clearRun t a n) k = none := fun k hk =>
      mapFind_below _ k fun e he => lt_of_le_of_lt hk (hsort.2 e (List.mem_of_mem_filter he))
    have ih := ih ht
    simp only [clearRun, readByte, mapGet, List.filter_cons, mapFind] at ih hclear ⊢
    by_cases hj : j < a ∨ a + n ≤ j
    · simp only [hj, decide_true, if_true, mapFind]
      by_cases hkj : j = k
      · subst hkj; rw [if_pos rfl, if_neg (by omega), if_pos rfl]
      · rw [if_neg hkj, if_neg hkj]
        by_cases hlt : k < j
        · simp [hlt]
        · rw [if_neg hlt, if_neg hlt, ih]
    · simp only [hj, decide_false, Bool.false_eq_true, if_false]
      by_cases hkj : j = k
      · subst hkj; rw [hclear j le_rfl, if_pos (by omega)]; rfl
      · rw [if_neg hkj]
        by_cases hlt : k < j
        · rw [hclear k hlt.le, if_pos hlt]; simp
        · rw [if_neg hlt, ih]

theorem readN_of_readByte {m : List Host.Cell} {a n v : Nat} (h : ∀ i < n, readByte m (a + i) = .ofNat 8 (v / 256 ^ i)) :
    readN m a n = v % 2 ^ (8 * n) := by
  induction n generalizing a v with
  | zero => simp [readN, Nat.mod_one]
  | succ n ih =>
    have hlow := h 0 (by omega)
    rw [Nat.add_zero, Nat.pow_zero, Nat.div_one] at hlow
    rw [readN, hlow, ih (v := v / 256) fun i hi => by
      rw [show a + 1 + i = a + (i + 1) by omega, h (i + 1) (by omega), Nat.pow_succ', Nat.div_div_eq_div_mul],
      BitVec.toNat_ofNat, show 8 * (n + 1) = 8 + 8 * n by omega, Nat.pow_add]
    exact (Nat.mod_mul).symm

theorem readBytes_of_readByte {m : List Host.Cell} {a : Nat} {l : List Byte}
    (h : ∀ i < l.length, readByte m (a + i) = l.getD i 0) : readBytes m a l.length = l := by
  induction l generalizing a with
  | nil => rfl
  | cons b t ih =>
    have hhead := h 0 (by simp)
    have htail := ih (a := a + 1) fun i hi => by
      rw [show a + 1 + i = a + (i + 1) by omega, h (i + 1) (by simpa using hi)]
      rfl
    rw [List.length_cons, readBytes, htail, ← Nat.add_zero a, hhead]
    rfl

/-- The head of a memory in canonical form is its lowest byte that is not 0. -/
theorem readByte_cons {j : Nat} {w : Byte} {t : List Host.Cell} (h : Memory.wf ((j, w) :: t) = true) :
    w ≠ 0 ∧ Memory.wf t = true ∧ (∀ k ≤ j, readByte t k = 0) ∧ readByte ((j, w) :: t) j = w ∧
      (∀ k < j, readByte ((j, w) :: t) k = 0) ∧ ∀ k, j < k → readByte ((j, w) :: t) k = readByte t k := by
  obtain ⟨hs, hz⟩ := (Memory.wf_iff _).mp h
  obtain ⟨ht, hj⟩ := mapSorted_cons j w t hs
  refine ⟨hz (j, w) (by simp), (Memory.wf_iff t).mpr ⟨ht, fun e he => hz e (List.mem_cons_of_mem _ he)⟩, fun k hk => ?_, ?_,
    fun k hk => ?_, fun k hk => ?_⟩
  · rw [readByte, mapGet, mapFind_below t k fun e he => lt_of_le_of_lt hk (hj e he)]; rfl
  · simp [readByte, mapGet, mapFind]
  · simp [readByte, mapGet, mapFind, hk, hk.ne']
  · simp [readByte, mapGet, mapFind, hk.ne, hk.not_gt]

/-- Memories in canonical form that read alike are equal. -/
theorem Memory.ext {m u : List Host.Cell} (hm : Memory.wf m = true) (hu : Memory.wf u = true)
    (h : ∀ a, readByte u a = readByte m a) : u = m := by
  induction m generalizing u with
  | nil =>
    cases u with
    | nil => rfl
    | cons e t =>
      obtain ⟨j, w⟩ := e
      obtain ⟨hw, -, -, hread, -⟩ := readByte_cons hu
      exact absurd (hread.symm.trans (h j)) hw
  | cons e t ih =>
    obtain ⟨j, w⟩ := e
    obtain ⟨hw, ht, hlow, hread, hbelow, hrest⟩ := readByte_cons hm
    cases u with
    | nil => exact absurd (hread.symm.trans (h j).symm) hw
    | cons e' t' =>
      obtain ⟨j', w'⟩ := e'
      obtain ⟨hw', ht', hlow', hread', hbelow', hrest'⟩ := readByte_cons hu
      have hj : j' = j := by
        rcases Nat.lt_trichotomy j' j with hlt | heq | hgt
        · exact absurd (hread'.symm.trans ((h j').trans (hbelow j' hlt))) hw'
        · exact heq
        · exact absurd (hread.symm.trans ((h j).symm.trans (hbelow' j hgt))) hw
      subst hj
      have hww : w' = w := hread'.symm.trans ((h j').trans hread)
      have htt : t' = t := ih ht ht' fun a => by
        by_cases ha : a ≤ j'
        · rw [hlow a ha, hlow' a ha]
        · rw [← hrest a (not_le.mp ha), ← hrest' a (not_le.mp ha), h a]
      rw [hww, htt]

/-! ## Stores to a place -/

theorem State.readByte_store {s : State} (hs : s.memWf = true) {p : Place} (hp : p ≠ .peer) (hb : p ≠ .bell) (a n v k : Nat) :
    readByte ((s.store p a n v).cells p) k =
      if a ≤ k ∧ k < a + n then .ofNat 8 (v / 256 ^ (k - a)) else readByte (s.cells p) k := by
  rw [State.store, State.cells_setCells s p _ hp hb, readByte_writeN ((State.memWf_iff s).mp hs p)]

/-- A store leaves every byte outside its run, whatever the place. -/
theorem State.sameMemBut_store {s : State} (hs : s.memWf = true) (p : Place) (a n v : Nat) :
    s.sameMemBut (s.store p a n v) p a n := by
  intro q k hq
  by_cases hpq : q = p
  · subst hpq
    by_cases hplace : q = .peer ∨ q = .bell
    · obtain rfl | rfl := hplace <;> rfl
    · obtain ⟨hpeer, hbell⟩ := not_or.mp hplace
      rw [State.readByte_store hs hpeer hbell, if_neg (by have := hq rfl; omega)]
  · rw [State.store, State.cells_setCells_other s p q _ hpq]

/-- Settles O3: each write gives every byte its value, and a canonical memory is what its bytes are. -/
theorem memoryReadAfterWrite : Obligations.MemoryReadAfterWrite := by
  refine ⟨fun s p a n v hs hpeer hbell => ?_, fun m hm => ⟨fun a l => ?_, fun a n => ?_, fun u hu h => Memory.ext hm hu h⟩⟩
  · intro t
    have bytes : ∀ i < n, readByte (t.cells p) (a + i) = .ofNat 8 (v / 256 ^ i) := fun i hi => by
      rw [State.readByte_store hs hpeer hbell, if_pos (by omega), Nat.add_sub_cancel_left]
    exact ⟨readN_of_readByte bytes, bytes, State.sameMemBut_store hs p a n v, State.memWf_store s p a n v hs⟩
  · refine ⟨Memory.wf_writeBytes l m a hm, readBytes_of_readByte fun i hi => ?_, fun k hk => ?_⟩
    · rw [readByte_writeBytes hm, if_pos (by omega), Nat.add_sub_cancel_left]
    · rw [readByte_writeBytes hm, if_neg (by omega)]
  · exact ⟨Memory.wf_filter _ m hm, fun k => readByte_clearRun hm a n k⟩

/-! ## Registers -/

/-- The five parts of an ordered register file. -/
theorem Regs.wf_iff (r : Regs) : r.wf = true ↔
    mapSorted r.v = true ∧ mapSorted r.s = true ∧ mapSorted r.p = true ∧ mapSorted r.q = true ∧ mapSorted r.t = true := by
  simp [Regs.wf, and_assoc]

section
variable {r : Regs} (hr : r.wf = true)
include hr

theorem Regs.wf_setV (n : Nat) (sh : VShape) (hi : Bool) : (r.setV n sh hi).wf = true := by
  obtain ⟨hv, hs, hp, hq, ht⟩ := r.wf_iff.mp hr
  exact (Regs.wf_iff _).mpr ⟨mapSorted_mapPut _ _ n _ hv, hs, hp, hq, ht⟩

theorem Regs.vreg_setV (n k : Nat) (sh : VShape) (hi : Bool) :
    (r.setV n sh hi).vreg k = if k = n then { shape := sh, pairHi := hi } else r.vreg k := by
  have hv := (r.wf_iff.mp hr).1
  split
  · next h => exact h ▸ mapGet_mapPut_same _ _ _ _ hv
  · next h => exact mapGet_mapPut_other _ _ _ _ _ hv h

/-- Storing a vector register changes that register's shape alone. -/
theorem Regs.sameBut_setV {n : Nat} {ds : List Opnd} (h : Opnd.v n ∈ ds) (sh : VShape) (hi : Bool) :
    r.sameBut (r.setV n sh hi) ds := by
  refine ⟨fun k hk => ?_, fun _ _ => rfl, fun _ _ => rfl, fun _ _ => rfl, fun _ _ => rfl⟩
  have hkn : k ≠ n := by rintro rfl; exact hk h
  rw [Regs.vreg_setV hr, if_neg hkn]

theorem Regs.sameBut_setS (n : Nat) (x : DWord) : r.sameBut (r.setS n x) [.s n] := by
  obtain ⟨-, hs, -⟩ := r.wf_iff.mp hr
  exact ⟨fun _ _ => rfl, fun k hk => mapGet_mapPut_other _ _ _ _ _ hs fun he => hk (by simp [he]), fun _ _ => rfl,
    fun _ _ => rfl, fun _ _ => rfl⟩

theorem Regs.sameBut_setP (n : Nat) (m : Mask) : r.sameBut (r.setP n m) [.p n] := by
  obtain ⟨-, -, hp, -⟩ := r.wf_iff.mp hr
  exact ⟨fun _ _ => rfl, fun _ _ => rfl, fun k hk => mapGet_mapPut_other _ _ _ _ _ hp fun he => hk (by simp [he]),
    fun _ _ => rfl, fun _ _ => rfl⟩

theorem Regs.sameBut_setQ (n : Nat) (b : Bool) : r.sameBut (r.setQ n b) [.q n] := by
  obtain ⟨-, -, -, hq, -⟩ := r.wf_iff.mp hr
  exact ⟨fun _ _ => rfl, fun _ _ => rfl, fun _ _ => rfl,
    fun k hk => mapGet_mapPut_other _ _ _ _ _ hq fun he => hk (by simp [he]), fun _ _ => rfl⟩

theorem Regs.sameBut_setT (n : Nat) (t : TReg) : r.sameBut (r.setT n t) [.t n] := by
  obtain ⟨-, -, -, -, ht⟩ := r.wf_iff.mp hr
  exact ⟨fun _ _ => rfl, fun _ _ => rfl, fun _ _ => rfl, fun _ _ => rfl,
    fun k hk => mapGet_mapPut_other _ _ _ _ _ ht fun he => hk (by simp [he])⟩

theorem Regs.wf_setS (n : Nat) (x : DWord) : (r.setS n x).wf = true := by
  obtain ⟨hv, hs, hp, hq, ht⟩ := r.wf_iff.mp hr
  exact (Regs.wf_iff _).mpr ⟨hv, mapSorted_mapPut _ _ _ _ hs, hp, hq, ht⟩

theorem Regs.wf_setP (n : Nat) (m : Mask) : (r.setP n m).wf = true := by
  obtain ⟨hv, hs, hp, hq, ht⟩ := r.wf_iff.mp hr
  exact (Regs.wf_iff _).mpr ⟨hv, hs, mapSorted_mapPut _ _ _ _ hp, hq, ht⟩

theorem Regs.wf_setQ (n : Nat) (b : Bool) : (r.setQ n b).wf = true := by
  obtain ⟨hv, hs, hp, hq, ht⟩ := r.wf_iff.mp hr
  exact (Regs.wf_iff _).mpr ⟨hv, hs, hp, mapSorted_mapPut _ _ _ _ hq, ht⟩

theorem Regs.wf_setT (n : Nat) (t : TReg) : (r.setT n t).wf = true := by
  obtain ⟨hv, hs, hp, hq, ht⟩ := r.wf_iff.mp hr
  exact (Regs.wf_iff _).mpr ⟨hv, hs, hp, hq, mapSorted_mapPut _ _ _ _ ht⟩

theorem Regs.sval_setS (n : Nat) (x : DWord) : (r.setS n x).readS n = .known (.u x) ∧ (r.setS n x).sval n = x := by
  obtain ⟨-, hs, -⟩ := r.wf_iff.mp hr
  have h : mapGet (SReg.val 0) (r.setS n x).s n = .val x := mapGet_mapPut_same _ _ n _ hs
  rw [Regs.readS, Regs.sval, h]
  exact ⟨rfl, rfl⟩

theorem Regs.wf_unpair (n : Nat) : (r.unpair n).wf = true := by
  rw [Regs.unpair]
  split
  · exact Regs.wf_setV hr _ _ _
  · exact hr

/-- Parting a pair leaves every shape. -/
theorem Regs.shape_unpair (n k : Nat) : ((r.unpair n).vreg k).shape = (r.vreg k).shape := by
  rw [Regs.unpair]
  split
  · rw [Regs.vreg_setV hr]
    split
    · next h => rw [h]
    · rfl
  · rfl

end

theorem Regs.sameBut_refl (r : Regs) (ds : List Opnd) : r.sameBut r ds :=
  ⟨fun _ _ => rfl, fun _ _ => rfl, fun _ _ => rfl, fun _ _ => rfl, fun _ _ => rfl⟩

theorem Regs.sameBut.trans {r q u : Regs} {ds : List Opnd} (h : r.sameBut q ds) (h' : q.sameBut u ds) : r.sameBut u ds := by
  obtain ⟨hv, hs, hp, hq, ht⟩ := h
  obtain ⟨hv', hs', hp', hq', ht'⟩ := h'
  exact ⟨fun n hn => (hv' n hn).trans (hv n hn), fun n hn => (hs' n hn).trans (hs n hn), fun n hn => (hp' n hn).trans (hp n hn),
    fun n hn => (hq' n hn).trans (hq n hn), fun n hn => (ht' n hn).trans (ht n hn)⟩

theorem Regs.sameBut_unpair {r : Regs} (hr : r.wf = true) (n : Nat) (ds : List Opnd) : r.sameBut (r.unpair n) ds := by
  have frame : (r.unpair n).s = r.s ∧ (r.unpair n).p = r.p ∧ (r.unpair n).q = r.q ∧ (r.unpair n).t = r.t := by
    rw [Regs.unpair]
    split <;> exact ⟨rfl, rfl, rfl, rfl⟩
  obtain ⟨hs, hp, hq, ht⟩ := frame
  exact ⟨fun k _ => Regs.shape_unpair hr n k, fun k _ => by rw [hs], fun k _ => by rw [Regs.pred, hp, Regs.pred],
    fun k _ => by rw [Regs.sp, hq, Regs.sp], fun k _ => by rw [Regs.treg, ht, Regs.treg]⟩

/-! ## Vector registers and pairs -/

theorem Off.at_affine (b st : Word) (l : Nat) : (Off.a b st).at l = (b + st * BitVec.ofNat 32 l).setWidth 64 := rfl

theorem Off.lanes_map_getD (v : Off) (f : DWord → DWord) {l : Nat} (hl : l < 256) : (v.lanes.map f).getD l 0 = f (v.at l) := by
  rw [Off.lanes, List.map_map, lanes256_getD _ l hl]
  rfl

theorem joinW_halves (x : DWord) : joinW ((x.setWidth 32).setWidth 64) (((x >>> 32).setWidth 32).setWidth 64) = x := by
  ext i hi
  simp only [joinW, BitVec.getElem_or, BitVec.getElem_setWidth, BitVec.getLsbD_setWidth, BitVec.getElem_shiftLeft,
    BitVec.getLsbD_ushiftRight]
  by_cases h : i < 32
  · simp [h, BitVec.getLsbD_eq_getElem hi]
  · simp [h, BitVec.getLsbD_eq_getElem hi, show 32 + (i - 32) = i by omega, show i - 32 < 32 by omega]

/-- The shape that a value of 32 bits takes in a register: it reads back as the value's low words. -/
theorem Regs.writeV_narrow (r : Regs) (n : Nat) (v : Off) : ∃ sh o, r.writeV n false v = (r.unpair n).setV n sh false ∧
    sh.src = .known o ∧ ∀ l < 256, o.at l = cutW false (v.at l) := by
  cases v with
  | u x => exact ⟨_, _, rfl, rfl, fun l _ => rfl⟩
  | a b st => exact ⟨_, _, rfl, rfl, fun l _ => by simp [Off.at, cutW]⟩
  | g ls =>
    refine ⟨_, _, rfl, rfl, fun l _ => ?_⟩
    by_cases hl : l < ls.length <;> simp [Off.at, cutW, hl]

/-- The shapes that a value of 64 bits takes in the two registers of a pair: low words and high words. -/
theorem Regs.writeV_wide (r : Regs) (n : Nat) (v : Off) : ∃ lo hi a b,
    r.writeV n true v = (r.setV n lo false).setV (n + 1) hi true ∧ lo.src = .known a ∧ hi.src = .known b ∧
      ∀ l < 256, joinW (a.at l) (b.at l) = v.at l := by
  cases v with
  | u x => exact ⟨_, _, _, _, rfl, rfl, rfl, fun l _ => joinW_halves x⟩
  | a b st =>
    refine ⟨_, _, _, _, rfl, rfl, rfl, fun l hl => ?_⟩
    rw [Off.at_g, Off.at_g, List.map_map, List.map_map, Off.lanes_map_getD _ _ hl, Off.lanes_map_getD _ _ hl]
    exact joinW_halves _
  | g ls =>
    refine ⟨_, _, _, _, rfl, rfl, rfl, fun l hl => ?_⟩
    rw [Off.at_g, Off.at_g, List.map_map, List.map_map, Off.lanes_map_getD _ _ hl, Off.lanes_map_getD _ _ hl]
    exact joinW_halves _

/-- A pair of registers reads as the words of both, lane by lane. -/
theorem Regs.readV_wide {r : Regs} {n : Nat} {a b : Off} (hlo : (r.vreg n).shape.src = .known a)
    (hhi : (r.vreg (n + 1)).shape.src = .known b) :
    ∃ o, r.readV n true = .known o ∧ ∀ l < 256, o.at l = joinW (a.at l) (b.at l) := by
  simp only [Regs.readV, hlo, hhi, Bool.not_true, Bool.false_eq_true, if_false]
  cases a <;> cases b
  case u.u => exact ⟨_, rfl, fun l _ => rfl⟩
  all_goals exact ⟨_, rfl, fun l hl => lanes256_getD _ l hl⟩

section
variable {r : Regs} (hr : r.wf = true) (n : Nat)
include hr

theorem Regs.wf_writeV (wide : Bool) (v : Off) : (r.writeV n wide v).wf = true := by
  cases wide with
  | false =>
    obtain ⟨sh, o, hw, -⟩ := r.writeV_narrow n v
    exact hw ▸ Regs.wf_setV (Regs.wf_unpair hr n) n sh false
  | true =>
    obtain ⟨lo, hi, a, b, hw, -⟩ := r.writeV_wide n v
    exact hw ▸ Regs.wf_setV (Regs.wf_setV hr n lo false) (n + 1) hi true

theorem Regs.sameBut_writeV (wide : Bool) (v : Off) : r.sameBut (r.writeV n wide v) (vdest n wide) := by
  cases wide with
  | false =>
    obtain ⟨sh, o, hw, -⟩ := r.writeV_narrow n v
    rw [hw]
    exact (Regs.sameBut_unpair hr n _).trans (Regs.sameBut_setV (Regs.wf_unpair hr n) (by simp [vdest]) sh false)
  | true =>
    obtain ⟨lo, hi, a, b, hw, -⟩ := r.writeV_wide n v
    rw [hw]
    exact (Regs.sameBut_setV hr (by simp [vdest]) lo false).trans
      (Regs.sameBut_setV (Regs.wf_setV hr n lo false) (by simp [vdest]) hi true)

theorem Regs.readV_writeV (wide : Bool) (v : Off) :
    ∃ o, (r.writeV n wide v).readV n wide = .known o ∧ ∀ l < 256, o.at l = cutW wide (v.at l) := by
  cases wide with
  | false =>
    obtain ⟨sh, o, hw, hsrc, hat⟩ := r.writeV_narrow n v
    refine ⟨o, ?_, hat⟩
    rw [hw, ← hsrc, Regs.readV, Regs.vreg_setV (Regs.wf_unpair hr n), if_pos rfl]
    rfl
  | true =>
    obtain ⟨lo, hi, a, b, hw, hlo, hhi, hat⟩ := r.writeV_wide n v
    have hwf := Regs.wf_setV hr n lo false
    obtain ⟨o, ho, hjoin⟩ := Regs.readV_wide (r := r.writeV n true v) (n := n) (a := a) (b := b)
      (by rw [hw, Regs.vreg_setV hwf, if_neg (by omega), Regs.vreg_setV hr, if_pos rfl, hlo])
      (by rw [hw, Regs.vreg_setV hwf, if_pos rfl, hhi])
    exact ⟨o, ho, fun l hl => (hjoin l hl).trans (hat l hl)⟩

end

/-- Settles O4: a write replaces the map's entry of its register, and a vector's shape keeps its lanes. -/
theorem registerReadAfterWrite : Obligations.RegisterReadAfterWrite := by
  intro r n hr
  have ⟨_, _, hp, hq, ht⟩ := r.wf_iff.mp hr
  refine ⟨fun x => ?_, fun m => ⟨mapGet_mapPut_same _ _ n m hp, Regs.sameBut_setP hr n m, Regs.wf_setP hr n m⟩,
    fun b => ⟨mapGet_mapPut_same _ _ n b hq, Regs.sameBut_setQ hr n b, Regs.wf_setQ hr n b⟩,
    fun t => ⟨mapGet_mapPut_same _ _ n t ht, Regs.sameBut_setT hr n t, Regs.wf_setT hr n t⟩, fun wide v => ?_⟩
  · obtain ⟨hread, hval⟩ := Regs.sval_setS hr n x
    exact ⟨hread, hval, Regs.sameBut_setS hr n x, Regs.wf_setS hr n x⟩
  · obtain ⟨o, ho, hat⟩ := Regs.readV_writeV hr n wide v
    exact ⟨o, ho, hat, Regs.sameBut_writeV hr n wide v, Regs.wf_writeV hr n wide v⟩

/-! ## After reset -/

/-- Settles O1: every list of the reset state is empty, so every map gives its default. -/
theorem resetState : Obligations.ResetState := by
  refine ⟨⟨rfl, fun p a => by cases p <;> rfl, rfl, rfl, rfl, fun p => rfl, fun q => ⟨rfl, rfl⟩, rfl, rfl, rfl, rfl⟩,
    fun entry trapvec => ?_⟩
  intro c
  refine ⟨rfl, rfl, rfl, rfl, rfl, rfl, rfl, rfl, rfl, rfl, fun n => ⟨rfl, rfl, rfl, rfl, rfl⟩, rfl, fun p hp => ?_⟩
  obtain rfl := Option.some.inj hp
  exact ⟨rfl, rfl⟩

end Sys2Proof.Machine
end

section
/-! PROOFS. Scalar integers, the base forms on scalars and the scalar predicates (R143, R144, R179, R182 to R185). -/

namespace Sys2Proof.Machine

open Sys2Proof

/-! ## Operands at hand -/

theorem knownAll_eq_some_iff (l : List Src) (offs : List Off) : knownAll l = some offs ↔ l = offs.map Src.known := by
  induction l generalizing offs with
  | nil => cases offs <;> simp [knownAll]
  | cons p t ih =>
    cases p with
    | pend f => cases offs <;> simp [knownAll]
    | known o => cases offs <;> simp [knownAll, ih, and_comm]

/-- Operands are at hand where none is awaited and each reads as a value. -/
theorem Ic.offs_eq_some_iff (c : Ic) (x : Opnds) (ops : List (Opnd × Bool)) (offs : List Off) :
    c.offs x ops = some offs ↔
      ops.any (fun p => c.st.busy p.1 p.2) = false ∧ ops.map (fun p => c.regs.read x.lit p.2 p.1) = offs.map Src.known := by
  rw [Ic.offs]
  split <;> simp [*, knownAll_eq_some_iff]

/-- A literal is always at hand. -/
theorem Ic.offs_concat_lit {c : Ic} {x : Opnds} {ops : List (Opnd × Bool)} {offs : List Off} (h : c.offs x ops = some offs)
    (wide : Bool) : c.offs x (ops ++ [(.lit, wide)]) = some (offs ++ [.u (cutW wide (x.lit.getD 0))]) := by
  rw [Ic.offs_eq_some_iff] at h ⊢
  obtain ⟨hbusy, hread⟩ := h
  refine ⟨?_, ?_⟩
  · rw [List.any_append, hbusy]
    rfl
  · rw [List.map_append, hread, List.map_append]
    rfl

/-- The operands of registers do not depend on the literal. -/
theorem Ic.offs_of_ne_lit {c : Ic} {x : Opnds} {ops : List (Opnd × Bool)} {offs : List Off} (h : c.offs x ops = some offs)
    (hl : ∀ p ∈ ops, p.1 ≠ .lit) (y : Opnds) : c.offs y ops = some offs := by
  rw [Ic.offs_eq_some_iff] at h ⊢
  refine ⟨h.1, h.2 ▸ List.map_congr_left fun p hp => ?_⟩
  have := hl p hp
  cases hop : p.1 <;> simp_all [Regs.read]

theorem Ic.scalars_of_offs {c : Ic} {x : Opnds} {ops : List Opnd} {offs : List Off}
    (h : c.offs x (ops.map fun o => (o, true)) = some offs) : c.scalars x ops = some (offs.map fun o => o.at 0) := by
  rw [Ic.scalars, h]
  rfl

/-- A scalar register beside a literal. -/
theorem Ic.scalars_s_lit {c : Ic} {x : Opnds} {n : Nat} {v : DWord} (h : c.scalars x [.s n] = some [v]) (y : Opnds) :
    c.scalars y [.s n, .lit] = some [v, y.lit.getD 0] := by
  obtain ⟨k, hk, rfl⟩ := c.offs_of_scalar h
  have hy := Ic.offs_concat_lit (Ic.offs_of_ne_lit hk (by simp) y) true
  exact Ic.scalars_of_offs (ops := [.s n, .lit]) hy

theorem Ic.scalars_lit (c : Ic) (x : Opnds) : c.scalars x [.lit] = some [x.lit.getD 0] := rfl

/-! ## Scalar results -/

section
variable {s : State} {c : Ic} {x : Opnds} {len : Nat} (hi : s.issuer = some c)
include hi

theorem sintPnd_of {t : Ty} {g : Int → Int → Int} {h : Form → Off → Form} {a b : DWord} (hd : c.freeS x.d.snum)
    (ho : c.scalars x [x.a, x.b] = some [a, b]) :
    sintPnd s len x t g h =
      c.ends s len (s.putRegs c (c.regs.setS x.d.snum (scalarOut t (g (intVal t a) (intVal t b))))) := by
  obtain ⟨k, l, hoffs, rfl, rfl⟩ := c.offs_of_scalars ho
  obtain ⟨hbusy, hread⟩ := (c.offs_eq_some_iff x _ _).mp hoffs
  simp only [List.map_cons, List.map_nil, List.cons.injEq, and_true] at hread
  simp only [List.any_cons, List.any_nil, Bool.or_false] at hbusy
  rw [sintPnd, issue_some s len _ c hi]
  simp only [hbusy, hread.1, hread.2, Bool.false_eq_true, if_false, c.toS_of s _ _ hd]
  rfl

section
variable {t : Ty} {a b : DWord} (hd : c.freeS x.d.snum)
include hd

theorem sint2_of {g : Int → Int → Int} (ho : c.scalars x [x.a, x.b] = some [a, b]) :
    sint2 s len x t g =
      c.ends s len (s.putRegs c (c.regs.setS x.d.snum (scalarOut t (g (intVal t a) (intVal t b))))) := by
  rw [sint2, sintOp_of s len x _ _ c _ hi ho hd]
  rfl

theorem sshiftOp_of {g : Ty → Int → Nat → Int} (ho : c.scalars x [x.a, x.b] = some [a, b]) :
    sshiftOp s len x t g =
      c.ends s len (s.putRegs c (c.regs.setS x.d.snum (scalarOut t (g t (intVal t a) (shiftCount t b))))) := by
  rw [sshiftOp, sintOp_of s len x _ _ c _ hi ho hd]
  rfl

theorem smovOp_of (ho : c.scalars x [x.a] = some [a]) :
    smovOp s len x t = c.ends s len (s.putRegs c (c.regs.setS x.d.snum (scalarOut t (intVal t a)))) := by
  rw [smovOp, sintOp_of s len x _ _ c _ hi ho hd]
  rfl

end

theorem execSsel_of {a b : DWord} (hd : c.freeS x.d.snum) (ho : c.scalars x [x.a, x.b] = some [a, b]) :
    execSsel x s = c.ends s x.len (s.putRegs c (c.regs.setS x.d.snum
      (scalarOut x.t (intVal x.t (if c.regs.sp x.c.qnum then a else b))))) := by
  obtain ⟨k, l, hoffs, rfl, rfl⟩ := c.offs_of_scalars ho
  exact issueX_ends_of hi ((c.known_of s x _ _ _ hoffs).trans (c.toS_of s _ _ hd))

theorem qsetOp_of {t : Ty} {sel : Nat} {a b : DWord} (ho : c.scalars x [x.a, x.b] = some [a, b]) :
    qsetOp s len x t sel =
      c.ends s len (s.putRegs c (c.regs.setQ x.d.qnum (icmp sel (intVal t a) (intVal t b)))) := by
  obtain ⟨k, l, hoffs, rfl, rfl⟩ := c.offs_of_scalars ho
  rw [qsetOp, issue_some s len _ c hi, c.known_of s x _ _ _ hoffs]
  rfl

end

/-- Settles O15: every instruction is the shared operation of its kind, on its table entry's function. -/
theorem scalarIntegerResults : Obligations.ScalarIntegerResults := by
  intro s c x a b k d hi hd t put
  have result {ops : List Opnd} {g : List DWord → DWord} {vs : List DWord} (ho : c.scalars x ops = some vs) :
      sintOp s x.len x ops g = put (g vs) := sintOp_of s x.len x ops g c vs hi ho hd
  refine ⟨fun ho => ⟨smovOp_of hi hd ho, ?_, ?_⟩, fun ho => ⟨sintPnd_of hi hd ho, sint2_of hi hd ho, sintPnd_of hi hd ho,
    sint2_of hi hd ho, sint2_of hi hd ho, sint2_of hi hd ho, sint2_of hi hd ho, sint2_of hi hd ho, sint2_of hi hd ho,
    sshiftOp_of hi hd ho, sshiftOp_of hi hd ho, sshiftOp_of hi hd ho, sint2_of hi hd ho, sint2_of hi hd ho,
    execSsel_of hi hd ho⟩, fun ho => ⟨?_, ?_⟩, fun ho => ?_⟩
  · rw [exec_sclz, execSclz, result ho]; rfl
  · rw [exec_spopc, execSpopc, result ho]; rfl
  · rw [exec_smad, execSmad, result ho]; rfl
  · rw [exec_sbfe, execSbfe, result ho]; rfl
  · rw [exec_sbfi, execSbfi, result ho]; rfl

/-! ## The 64-bit types of the base forms -/

theorem scalarOut_of_width {t : Ty} (ht : t.width = 64) (i : Int) : scalarOut t i = BitVec.ofInt 64 i := by
  have h := setWidth_scalarOut t i
  rw [ht, BitVec.setWidth_eq] at h
  exact h

theorem intVal_i64 (y : DWord) : intVal .i64 y = y.toInt := by
  rw [intVal_of_signed rfl, show Ty.width .i64 = 64 from rfl, BitVec.setWidth_eq]

theorem intVal_b64 (y : DWord) : intVal .b64 y = y.toNat := by
  rw [intVal_of_unsigned rfl, show Ty.width .b64 = 64 from rfl, BitVec.setWidth_eq]

theorem scalarOut_i64_add (a b : DWord) : scalarOut .i64 (intVal .i64 a + intVal .i64 b) = a + b := by
  rw [scalarOut_of_width rfl, intVal_i64, intVal_i64, BitVec.ofInt_add, BitVec.ofInt_toInt, BitVec.ofInt_toInt]

theorem scalarOut_i64_sub (a b : DWord) : scalarOut .i64 (intVal .i64 a - intVal .i64 b) = a - b := by
  rw [scalarOut_of_width rfl, intVal_i64, intVal_i64, Int.sub_eq_add_neg, BitVec.ofInt_add, BitVec.ofInt_neg, BitVec.ofInt_toInt,
    BitVec.ofInt_toInt, BitVec.sub_eq_add_neg]

theorem scalarOut_i64_mul (a b : DWord) : scalarOut .i64 (intVal .i64 a * intVal .i64 b) = a * b := by
  rw [scalarOut_of_width rfl, intVal_i64, intVal_i64, BitVec.ofInt_mul, BitVec.ofInt_toInt, BitVec.ofInt_toInt]

theorem scalarOut_i64_intVal (a : DWord) : scalarOut .i64 (intVal .i64 a) = a := by
  rw [scalarOut_of_width rfl, intVal_i64, BitVec.ofInt_toInt]

theorem scalarOut_b64_natCast (n : Nat) : scalarOut .b64 (n : Int) = .ofNat 64 n := by
  rw [scalarOut_of_width rfl, BitVec.ofInt_natCast]

theorem scalarOut_b64_intVal (a : DWord) : scalarOut .b64 (intVal .b64 a) = a := by
  rw [intVal_b64, scalarOut_b64_natCast, BitVec.ofNat_toNat, BitVec.setWidth_eq]

theorem scalarOut_b64_bitOp {g : Nat → Nat → Nat} {f : DWord → DWord → DWord}
    (h : ∀ a b : DWord, (f a b).toNat = g a.toNat b.toNat) (a b : DWord) :
    scalarOut .b64 (bitOp g (intVal .b64 a) (intVal .b64 b)) = f a b := by
  rw [bitOp, intVal_b64, intVal_b64, Int.toNat_natCast, Int.toNat_natCast, scalarOut_b64_natCast, ← h, BitVec.ofNat_toNat,
    BitVec.setWidth_eq]

theorem shiftCount_cnt64 {t : Ty} (ht : t.width = 64) {n : Nat} (hn : n < 256) : shiftCount t (cnt64 n) = n := by
  rw [shiftCount, cnt64, BitVec.toNat_ofNat, ht]
  omega

theorem scalarOut_ishl (a : DWord) {n : Nat} (hn : n < 256) :
    scalarOut .b64 (ishl .b64 (intVal .b64 a) (shiftCount .b64 (cnt64 n))) = a <<< n := by
  rw [shiftCount_cnt64 rfl hn, ishl, intVal_b64]
  apply BitVec.eq_of_toNat_eq
  rw [BitVec.toNat_shiftLeft, Nat.shiftLeft_eq]
  split
  · next h =>
    obtain ⟨k, rfl⟩ := Nat.exists_eq_add_of_le (show 64 ≤ n from h)
    have : a.toNat * 2 ^ (64 + k) % 2 ^ 64 = 0 := by rw [Nat.pow_add, Nat.mul_left_comm, Nat.mul_mod_right]
    rw [this]
    rfl
  · norm_cast
    rw [scalarOut_b64_natCast, BitVec.toNat_ofNat]

theorem scalarOut_ishr (a : DWord) {n : Nat} (hn : n < 256) :
    scalarOut .b64 (ishr .b64 (intVal .b64 a) (shiftCount .b64 (cnt64 n))) = a >>> n := by
  rw [shiftCount_cnt64 rfl hn, ishr, intVal_b64]
  norm_cast
  rw [scalarOut_b64_natCast]
  apply BitVec.eq_of_toNat_eq
  rw [BitVec.toNat_ushiftRight, Nat.shiftRight_eq_div_pow, BitVec.toNat_ofNat,
    Nat.mod_eq_of_lt ((Nat.div_le_self _ _).trans_lt a.isLt)]
  by_cases h : n ≤ 64
  · rw [show min n (Ty.width .b64) = n from min_eq_left h]
  · have h64 : min n (Ty.width .b64) = 64 := min_eq_right (by simp only [Ty.width]; omega)
    have hpow : 2 ^ 64 ≤ 2 ^ n := Nat.pow_le_pow_right (by decide) (by omega)
    rw [h64, Nat.div_eq_of_lt a.isLt, Nat.div_eq_of_lt (a.isLt.trans_le hpow)]

theorem icmp_lt_i64 (a b : DWord) : icmp 2 (intVal .i64 a) (intVal .i64 b) = a.slt b := by
  rw [intVal_i64, intVal_i64]
  rfl

theorem icmp_eq_i64 (a b : DWord) : icmp 0 (intVal .i64 a) (intVal .i64 b) = (a == b) := by
  rw [intVal_i64, intVal_i64, icmp, Bool.eq_iff_iff, beq_iff_eq, beq_iff_eq, BitVec.toInt_inj]

/-- Settles O16: each base form runs its extended equivalent on operands that stand for its fields. -/
theorem scalarBaseResults : Obligations.ScalarBaseResults := by
  constructor
  · intro s c d a b va vb hi hd put
    have free {x : Opnds} (hx : x.d = .s d) : c.freeS x.d.snum := by rw [hx]; exact hd
    have wrote {x : Opnds} {len : Nat} {v w : DWord} (hx : x.d = .s d) (h : v = w) :
        c.ends s len (s.putRegs c (c.regs.setS x.d.snum v)) = put len w := by rw [hx, h]; rfl
    have two {x : Opnds} {len : Nat} {t : Ty} {g : Int → Int → Int} {va vb v : DWord}
        (ho : c.scalars x [x.a, x.b] = some [va, vb]) (hx : x.d = .s d)
        (hv : scalarOut t (g (intVal t va) (intVal t vb)) = v) :
        sint2 s len x t g = put len v ∧ ∀ h, sintPnd s len x t g h = put len v :=
      ⟨(sint2_of hi (free hx) ho).trans (wrote hx hv), fun _ => (sintPnd_of hi (free hx) ho).trans (wrote hx hv)⟩
    have shift {x : Opnds} {len : Nat} {t : Ty} {g : Ty → Int → Nat → Int} {va vb v : DWord}
        (ho : c.scalars x [x.a, x.b] = some [va, vb]) (hx : x.d = .s d)
        (hv : scalarOut t (g t (intVal t va) (shiftCount t vb)) = v) : sshiftOp s len x t g = put len v :=
      (sshiftOp_of hi (free hx) ho).trans (wrote hx hv)
    have mov {x : Opnds} {len : Nat} {t : Ty} {va v : DWord} (ho : c.scalars x [x.a] = some [va]) (hx : x.d = .s d)
        (hv : scalarOut t (intVal t va) = v) : smovOp s len x t = put len v :=
      (smovOp_of hi (free hx) ho).trans (wrote hx hv)
    refine ⟨fun ho => ⟨?_, ?_, ?_, ?_, ?_, ?_⟩, fun ho => ⟨?_, fun n hn => ⟨?_, ?_⟩, fun i => ?_, fun v => ?_⟩, fun i => ?_,
      fun v => ?_⟩
    · exact (two (x := baseSSS .i64 d a b) ho rfl (scalarOut_i64_add va vb)).2 _
    · exact (two (x := baseSSS .i64 d a b) ho rfl (scalarOut_i64_sub va vb)).1
    · exact (two (x := baseSSS .i64 d a b) ho rfl (scalarOut_i64_mul va vb)).2 _
    · exact (two (x := baseSSS .b64 d a b) ho rfl (scalarOut_b64_bitOp BitVec.toNat_and va vb)).1
    · exact (two (x := baseSSS .b64 d a b) ho rfl (scalarOut_b64_bitOp BitVec.toNat_or va vb)).1
    · exact (two (x := baseSSS .b64 d a b) ho rfl (scalarOut_b64_bitOp BitVec.toNat_xor va vb)).1
    · exact mov (x := baseX .b64 (.s d) (.s a) .zero none) ho rfl (scalarOut_b64_intVal va)
    · exact shift (x := baseX .b64 (.s d) (.s a) .lit (some (cnt64 n))) (Ic.scalars_s_lit ho _) rfl (scalarOut_ishl va hn)
    · exact shift (x := baseX .b64 (.s d) (.s a) .lit (some (cnt64 n))) (Ic.scalars_s_lit ho _) rfl (scalarOut_ishr va hn)
    · exact (two (x := baseX .i64 (.s d) (.s a) .lit (some (imm64 i))) (Ic.scalars_s_lit ho _) rfl (scalarOut_i64_add va _)).2 _
    · exact (two (x := baseX .i64 (.s d) (.s a) .lit (some v)) (Ic.scalars_s_lit ho _) rfl (scalarOut_i64_add va v)).2 _
    · exact mov (x := baseX .i64 (.s d) .lit .zero (some (imm64 i))) (c.scalars_lit _) rfl (scalarOut_i64_intVal _)
    · exact mov (x := baseX .i64 (.s d) .lit .zero (some v)) (c.scalars_lit _) rfl (scalarOut_i64_intVal v)
  · intro s c x d a b va vb hi put
    refine ⟨fun ho => ⟨?_, ?_⟩, fun ho => qsetOp_of hi ho, issueX_ends_of hi rfl⟩
    · rw [← icmp_lt_i64]
      exact qsetOp_of hi ho
    · rw [← icmp_eq_i64]
      exact qsetOp_of hi ho

end Sys2Proof.Machine
end

section
/-! PROOFS. Vector integers, the base forms on vectors, floating point and conversions (R143, R144, R186 to R198). -/

namespace Sys2Proof.Machine

open Sys2Proof

/-! ## Per-lane writes -/

section
variable {s : State} {c : Ic} {x : Opnds} {i : Instr} {len n : Nat} {w : Bool} {act : Mask} {srcs : List Off}
  {f : Nat → List DWord → DWord × Half}

theorem mem_lanesOf {act : Mask} {l : Nat} : l ∈ lanesOf act ↔ l < 256 ∧ laneIn act l = true := by
  simp [lanesOf, lanes256]

/-- Only the results in the 256 lanes tell. -/
theorem Ic.writesLanes.congr {srcs' : List Off} {f' : Nat → List DWord → DWord × Half}
    (h : c.writesLanes s i len n w act srcs f)
    (hf : ∀ l < 256, f l (srcs.map fun o => o.at l) = f' l (srcs'.map fun o => o.at l)) :
    c.writesLanes s i len n w act srcs' f' := by
  obtain ⟨v, hv, hexec⟩ := h
  refine ⟨v, fun l hl => by rw [hv l hl, hf l hl], ?_⟩
  rw [hexec, List.foldl_ext _ (fun fl l => fl ||| (f' l (srcs'.map fun o => o.at l)).2) 0 fun fl l hl =>
    by rw [hf l (mem_lanesOf.mp hl).1]]

variable (hi : s.issuer = some c)
include hi

theorem vecOp_writes {ops : List (Opnd × Bool)} {o : VecOp} (hx : exec i s = vecOp s len x w ops o)
    (hd : c.freeV x.d.vnum w (c.act x)) (ho : c.offs x ops = some srcs)
    (hf : o.perLane = false → ∀ l vs, o.f l vs = o.f 0 vs)
    (ha : ∀ r, o.aff srcs = some r → ∀ l < 256, r.at l = (o.f l (srcs.map fun k => k.at l)).1 ∧
      (o.f l (srcs.map fun k => k.at l)).2 = 0) :
    c.writesLanes s i len x.d.vnum w (c.act x) srcs o.f :=
  c.writes_of s i len x _ w ops o srcs hx hi ho hd hf ha

theorem vint2_writes {t : Ty} {g : Int → Int → Int} (hx : exec i s = vint2 s len x t g)
    (hd : c.freeV x.d.vnum t.is64 (c.act x)) (ho : c.offs x [(x.a, t.is64), (x.b, t.is64)] = some srcs) :
    c.writesLanes s i len x.d.vnum t.is64 (c.act x) srcs (laneInt2 t g) :=
  vecOp_writes hi hx hd ho (fun _ _ _ => rfl) (by simp)

theorem vint1_writes {t : Ty} {g : Int → Int} (hx : exec i s = vint1 s len x t g)
    (hd : c.freeV x.d.vnum t.is64 (c.act x)) (ho : c.offs x [(x.a, t.is64)] = some srcs) :
    c.writesLanes s i len x.d.vnum t.is64 (c.act x) srcs
      (fun _ vs => (.ofNat 64 (modW t.width (g (intVal t (arg0 vs)))), 0)) :=
  vecOp_writes hi hx hd ho (fun _ _ _ => rfl) (by simp)

theorem vshrOp_writes {t : Ty} (hx : exec i s = vshrOp s len x t)
    (hd : c.freeV x.d.vnum t.is64 (c.act x)) (ho : c.offs x [(x.a, t.is64), (x.b, t.is64)] = some srcs) :
    c.writesLanes s i len x.d.vnum t.is64 (c.act x) srcs (laneShift t ishr) :=
  vecOp_writes hi hx hd ho (fun _ _ _ => rfl) (by simp)

end

/-! ## Arithmetic modulo 2^32 -/

theorem ofNat_modW32 (i : Int) : BitVec.ofNat 64 (modW 32 i) = (BitVec.ofInt 32 i).setWidth 64 := by
  apply BitVec.eq_of_toNat_eq
  rw [BitVec.toNat_ofNat, BitVec.toNat_setWidth, BitVec.toNat_ofInt, modW]

theorem ofInt_intVal {t : Ty} (ht : t.width = 32) (y : DWord) : BitVec.ofInt 32 (intVal t y) = y.setWidth 32 := by
  cases hs : t.signed
  · rw [intVal_of_unsigned hs, ht, BitVec.ofInt_natCast, BitVec.ofNat_toNat, BitVec.setWidth_eq]
  · rw [intVal_of_signed hs, ht, BitVec.ofInt_toInt]

theorem ofInt_sub32 (a b : Int) : BitVec.ofInt 32 (a - b) = BitVec.ofInt 32 a - BitVec.ofInt 32 b := by
  rw [Int.sub_eq_add_neg, BitVec.ofInt_add, BitVec.ofInt_neg, BitVec.sub_eq_add_neg]

theorem setWidth_sub32 (a b : DWord) : (a - b).setWidth 32 = a.setWidth 32 - b.setWidth 32 := by
  bv_omega

/-- A shift left of 32 bits, 0 from the width on (R185). -/
def shl32 (n : Nat) (d : Word) : Word := if 32 ≤ n then 0 else d <<< n

theorem shl32_add_mul (n : Nat) (b st k : Word) : shl32 n (b + st * k) = shl32 n b + shl32 n st * k := by
  unfold shl32
  split
  · simp
  · simp only [BitVec.shiftLeft_eq_mul_twoPow]
    ring

theorem ofInt_ishl {t : Ty} (ht : t.width = 32) (y : DWord) (n : Nat) :
    BitVec.ofInt 32 (ishl t (intVal t y) n) = shl32 n (y.setWidth 32) := by
  unfold ishl shl32
  rw [ht]
  split
  · rfl
  · rw [BitVec.ofInt_mul, ofInt_intVal ht, BitVec.ofInt_natCast, BitVec.shiftLeft_eq_mul_twoPow]
    congr 1
    apply BitVec.eq_of_toNat_eq
    simp [BitVec.toNat_twoPow]

/-! ## Affine results (R91) -/

theorem Off.setWidth_at_a (b st : Word) (l : Nat) : ((Off.a b st).at l).setWidth 32 = b + st * BitVec.ofNat 32 l := by
  simp [Off.at]

/-- The lanes of a sum or difference of known values: the operation on their low halves. -/
theorem Off.zip_at {f : DWord → DWord → DWord} {g : Word → Word → Word}
    (hfg : ∀ a b, (f a b).setWidth 32 = g (a.setWidth 32) (b.setWidth 32))
    (hlin : ∀ b st b' st' k, g (b + st * k) (b' + st' * k) = g b b' + g st st' * k) (o p : Off) {l : Nat} (hl : l < 256) :
    (Off.zip false f g o p).at l = (g ((o.at l).setWidth 32) ((p.at l).setWidth 32)).setWidth 64 := by
  have lanewise : (Off.g (lanes256.map fun l => cutW false (f (o.at l) (p.at l)))).at l =
      (g ((o.at l).setWidth 32) ((p.at l).setWidth 32)).setWidth 64 := by
    rw [Off.at_g, lanes256_getD _ l hl, cutW, if_neg (by decide), hfg]
  have affine (b st b' st' : Word) : (Off.a (g b b') (g st st')).at l =
      (g (b + st * BitVec.ofNat 32 l) (b' + st' * BitVec.ofNat 32 l)).setWidth 64 := by
    rw [hlin]
    rfl
  have uniform (k : DWord) : ((Off.u k).at l).setWidth 32 = k.setWidth 32 + 0 * BitVec.ofNat 32 l := by
    simp [Off.at]
  cases o with
  | g ls => exact lanewise
  | u v =>
    cases p with
    | g ls => exact lanewise
    | u w => exact (congrArg (fun z : Word => z.setWidth 64) (hfg v w))
    | a b st => rw [Off.setWidth_at_a, uniform, ← affine]; rfl
  | a b st =>
    cases p with
    | g ls => exact lanewise
    | u w => rw [Off.setWidth_at_a, uniform, ← affine]; rfl
    | a b' st' => rw [Off.setWidth_at_a, Off.setWidth_at_a, ← affine]; rfl

/-- The lanes of an affine value under a linear function. -/
theorem Off.map_at {f : DWord → DWord} {m : Word → Word} (hfm : ∀ d, (f d).setWidth 32 = m (d.setWidth 32))
    (hlin : ∀ b st k, m (b + st * k) = m b + m st * k) (b st : Word) (l : Nat) :
    ((Off.a b st).map false f).at l = (m (((Off.a b st).at l).setWidth 32)).setWidth 64 := by
  rw [Off.setWidth_at_a, hlin]
  simp [Off.map, Off.at, hfm]

theorem Ty.width_of_narrow {t : Ty} (ht : t.width = 32 ∨ t.width = 64) (hw : ¬t.is64 = true) : t.width = 32 :=
  ht.resolve_right fun h64 => hw (by rw [Ty.is64, h64]; rfl)

theorem affAddSub_at {t : Ty} (ht : t.width = 32 ∨ t.width = 64) {f : DWord → DWord → DWord} {g : Word → Word → Word} {h : Int → Int → Int}
    (hfg : ∀ a b, (f a b).setWidth 32 = g (a.setWidth 32) (b.setWidth 32))
    (hlin : ∀ b st b' st' k, g (b + st * k) (b' + st' * k) = g b b' + g st st' * k)
    (hg : ∀ i j, BitVec.ofInt 32 (h i j) = g (BitVec.ofInt 32 i) (BitVec.ofInt 32 j)) {srcs : List Off} {r : Off}
    (hr : affAddSub t.is64 (Off.zip false f g) srcs = some r) {l : Nat} (hl : l < 256) :
    r.at l = (laneInt2 t h l (srcs.map fun k => k.at l)).1 := by
  unfold affAddSub at hr
  split at hr
  · next o p =>
    split at hr
    · cases hr
    · next hw =>
      cases hr
      replace ht := Ty.width_of_narrow ht fun h => hw (by rw [h]; rfl)
      rw [Off.zip_at hfg hlin o p hl]
      change _ = BitVec.ofNat 64 (modW t.width (h (intVal t (o.at l)) (intVal t (p.at l))))
      rw [ht, ofNat_modW32, hg, ofInt_intVal ht, ofInt_intVal ht]
  · cases hr

theorem affMul_at {t : Ty} (ht : t.width = 32 ∨ t.width = 64) {srcs : List Off} {r : Off} (hr : affMul t.is64 srcs = some r) (l : Nat) :
    r.at l = (laneInt2 t (· * ·) l (srcs.map fun k => k.at l)).1 := by
  have scaled (b st : Word) (k : DWord) : ((Off.a b st).map false fun d => d * k).at l =
      (((Off.a b st).at l).setWidth 32 * k.setWidth 32).setWidth 64 :=
    Off.map_at (m := fun d => d * k.setWidth 32) (fun d => BitVec.setWidth_mul d k (by decide)) (fun _ _ _ => by ring) b st l
  have product (hw : ¬t.is64 = true) (y z : DWord) : BitVec.ofNat 64 (modW t.width (intVal t y * intVal t z)) =
      (y.setWidth 32 * z.setWidth 32).setWidth 64 := by
    replace ht := Ty.width_of_narrow ht hw
    rw [ht, ofNat_modW32, BitVec.ofInt_mul, ofInt_intVal ht, ofInt_intVal ht]
  unfold affMul at hr
  split at hr
  · split at hr
    · cases hr
    · next hw =>
      cases hr
      exact (scaled _ _ _).trans (product hw _ _).symm
  · split at hr
    · cases hr
    · next hw =>
      cases hr
      exact (scaled _ _ _).trans ((BitVec.mul_comm _ _ ▸ product hw _ _).symm)
  · cases hr

theorem shlW_setWidth (d : DWord) (k : DWord) : (shlW false d k).setWidth 32 = shl32 k.toNat (d.setWidth 32) := by
  simp only [shlW, shl32, Bool.false_eq_true, if_false]
  split
  · rfl
  · simp only [cutW, Bool.false_eq_true, if_false]
    apply BitVec.eq_of_toNat_eq
    simp [BitVec.toNat_shiftLeft, Nat.shiftLeft_eq]

theorem affShl_at {t : Ty} (ht : t.width = 32 ∨ t.width = 64) {srcs : List Off}
    (hfit : t.width = 32 → ∀ o k, srcs = [o, .u k] → k.toNat < 2 ^ 32) {r : Off}
    (hr : affShl t.is64 srcs = some r) (l : Nat) :
    r.at l = (laneShift t ishl l (srcs.map fun k => k.at l)).1 := by
  unfold affShl at hr
  split at hr
  · next b st k =>
    split at hr
    · cases hr
    · next hw =>
      cases hr
      replace ht := Ty.width_of_narrow ht hw
      rw [Off.map_at (m := shl32 k.toNat) (fun d => shlW_setWidth d k) (shl32_add_mul _)]
      change _ = BitVec.ofNat 64 (modW t.width (ishl t (intVal t ((Off.a b st).at l)) (k.toNat % 2 ^ t.width)))
      rw [ht, ofNat_modW32, ofInt_ishl ht, Nat.mod_eq_of_lt (hfit ht _ _ rfl)]
  · cases hr

/-! ## Narrow operands -/

/-- An operand read narrow holds 32 bits in every lane. -/
theorem Regs.read_narrow {r : Regs} {lit : Option DWord} {o : Opnd} {v : Off} (h : r.read lit false o = .known v) (l : Nat) :
    cutW false (v.at l) = v.at l := by
  have cut (y : DWord) : cutW false (cutW false y) = cutW false y := by simp [cutW]
  have ext (y : Word) : cutW false (y.setWidth 64) = y.setWidth 64 := by simp [cutW]
  cases o with
  | v n =>
    simp only [Regs.read, Regs.readV, Bool.not_false, if_true] at h
    cases hs : (r.vreg n).shape <;> rw [hs] at h <;> simp only [VShape.src, Src.known.injEq, reduceCtorEq] at h <;> subst h
    · exact ext _
    · exact ext _
    · next ls =>
      rw [Off.at_g, List.getD_eq_getElem?_getD, List.getElem?_map]
      cases ls[l]? with
      | none => rfl
      | some y => exact ext y
  | s n =>
    cases hs : mapGet (SReg.val 0) r.s n with
    | val y =>
      simp only [Regs.read, Regs.readS, hs, Src.known.injEq] at h
      subst h
      exact cut y
    | pend f =>
      simp only [Regs.read, Regs.readS, hs, reduceCtorEq] at h
  | lane => simp only [Regs.read, Bool.false_eq_true, if_false, Src.known.injEq] at h; subst h; exact ext _
  | lit => cases h; exact cut _
  | zero | p | q | t | raw => cases h; rfl

theorem Ic.offs_narrow {c : Ic} {x : Opnds} {ops : List (Opnd × Bool)} {offs : List Off} (h : c.offs x ops = some offs)
    (hn : ∀ p ∈ ops, p.2 = false) {o : Off} (ho : o ∈ offs) (l : Nat) : cutW false (o.at l) = o.at l := by
  obtain ⟨-, hread⟩ := (c.offs_eq_some_iff x _ _).mp h
  have : Src.known o ∈ ops.map fun p => c.regs.read x.lit p.2 p.1 := hread ▸ List.mem_map_of_mem ho
  obtain ⟨p, hp, hpo⟩ := List.mem_map.mp this
  rw [hn p hp] at hpo
  exact Regs.read_narrow hpo l

/-! ## The shared operations -/

section
variable {s : State} {c : Ic} {x : Opnds} {i : Instr} {len : Nat} {srcs : List Off} {t : Ty} (hi : s.issuer = some c)
  (ht : t.width = 32 ∨ t.width = 64) (hd : c.freeV x.d.vnum t.is64 (c.act x))
include hi ht hd

theorem vaddOp_writes (hx : exec i s = vaddOp s len x t) (ho : c.offs x [(x.a, t.is64), (x.b, t.is64)] = some srcs) :
    c.writesLanes s i len x.d.vnum t.is64 (c.act x) srcs (laneInt2 t (· + ·)) :=
  vecOp_writes hi hx hd ho (fun _ _ _ => rfl) fun _ hr _ hl => ⟨affAddSub_at ht
    (fun _ _ => BitVec.setWidth_add _ _ (by decide)) (fun _ _ _ _ _ => by ring) BitVec.ofInt_add hr hl, rfl⟩

theorem vsubOp_writes (hx : exec i s = vsubOp s len x t) (ho : c.offs x [(x.a, t.is64), (x.b, t.is64)] = some srcs) :
    c.writesLanes s i len x.d.vnum t.is64 (c.act x) srcs (laneInt2 t (· - ·)) :=
  vecOp_writes hi hx hd ho (fun _ _ _ => rfl) fun _ hr _ hl => ⟨affAddSub_at ht
    setWidth_sub32 (fun _ _ _ _ _ => by ring) ofInt_sub32 hr hl, rfl⟩

theorem vmulOp_writes (hx : exec i s = vmulOp s len x t) (ho : c.offs x [(x.a, t.is64), (x.b, t.is64)] = some srcs) :
    c.writesLanes s i len x.d.vnum t.is64 (c.act x) srcs (laneInt2 t (· * ·)) :=
  vecOp_writes hi hx hd ho (fun _ _ _ => rfl) fun _ hr l _ => ⟨affMul_at ht hr l, rfl⟩

theorem vshlOp_writes (hx : exec i s = vshlOp s len x t) (ho : c.offs x [(x.a, t.is64), (x.b, t.is64)] = some srcs) :
    c.writesLanes s i len x.d.vnum t.is64 (c.act x) srcs (laneShift t ishl) :=
  vecOp_writes hi hx hd ho (fun _ _ _ => rfl) fun _ hr l _ => by
    refine ⟨affShl_at ht (fun h32 o k hs => ?_) hr l, rfl⟩
    rw [show t.is64 = false by rw [Ty.is64, h32]; rfl] at ho
    have hcut : cutW false k = k := Ic.offs_narrow ho (by simp) (o := .u k) (by simp [hs]) 0
    rw [← hcut, cutW, if_neg (by decide), BitVec.toNat_setWidth]
    omega

omit ht in
theorem vmovOp_writes (hx : exec i s = vmovOp s len x t) (ho : c.offs x [(x.a, t.is64)] = some srcs) :
    c.writesLanes s i len x.d.vnum t.is64 (c.act x) srcs (fun _ vs => (arg0 vs, 0)) :=
  vecOp_writes hi hx hd ho (fun _ _ _ => rfl) fun r hr l _ => by
    dsimp only at hr
    split at hr
    · split at hr <;> cases hr
      exact ⟨rfl, rfl⟩
    · cases hr

omit ht hd in
theorem vlaneOp_writes (hx : exec i s = vlaneOp s len x) (hd : c.freeV x.d.vnum false (c.act x)) :
    c.writesLanes s i len x.d.vnum false (c.act x) srcs (fun l _ => (.ofNat 64 l, 0)) := by
  refine (vecOp_writes (srcs := [.a 0 1]) hi hx hd rfl (fun _ _ _ => rfl) fun r hr l _ => ?_).congr fun l hl => ?_
  · cases hr
    exact ⟨rfl, rfl⟩
  · change (((0 : Word) + 1 * BitVec.ofNat 32 l).setWidth 64, (0 : Half)) = _
    rw [zero_add, one_mul]
    refine congrArg (·, 0) (BitVec.eq_of_toNat_eq ?_)
    rw [BitVec.toNat_setWidth, BitVec.toNat_ofNat, BitVec.toNat_ofNat]
    omega

end

/-! ## Masks -/

theorem testBit_foldr_bits (p : Nat → Bool) (n k l : Nat) :
    ((List.range' k n).foldr (fun l acc => (if p l then 1 else 0) + 2 * acc) 0).testBit l = (decide (l < n) && p (k + l)) := by
  induction n generalizing k l with
  | zero => simp
  | succ n ih =>
    rw [List.range'_succ, List.foldr_cons]
    cases l with
    | zero =>
      rw [Nat.testBit_zero]
      split <;> simp_all
    | succ l =>
      rw [Nat.testBit_succ, show ∀ a b : Nat, a < 2 → (a + 2 * b) / 2 = b by omega, ih]
      · rw [show k + 1 + l = k + (l + 1) by omega]
        simp
      · split <;> decide

/-- The lanes of a mask given by a test. -/
theorem laneIn_maskOf (p : Nat → Bool) {l : Nat} (hl : l < 256) : laneIn (maskOf p) l = p l := by
  rw [laneIn, maskOf, BitVec.getLsbD_ofNat, List.range_eq_range', testBit_foldr_bits]
  simp [hl]

/-! ## Vector integers -/

section
variable {s : State} {c : Ic} {x : Opnds} {srcs : List Off} (hi : s.issuer = some c)
include hi

theorem execVsel_writes (hd : c.freeV x.d.vnum x.t.is64 (c.act x))
    (ho : c.offs x [(x.a, x.t.is64), (x.b, x.t.is64)] = some srcs) :
    c.writesLanes s (.vsel x) x.len x.d.vnum x.t.is64 (c.act x) srcs
      (fun l vs => (if laneIn (c.regs.pred x.c.pnum) l then arg0 vs else arg1 vs, 0)) := by
  let o : VecOp := { f := fun l vs => (if laneIn (c.regs.pred x.c.pnum) l then arg0 vs else arg1 vs, 0), perLane := true }
  obtain ⟨hlanes, hflags⟩ := o.result_lanes (c.act x) (c.old x.d.vnum x.t.is64) srcs (by simp [o]) (by simp [o])
  refine ⟨_, hlanes, ?_⟩
  rw [← hflags]
  exact issueX_ends_of hi (c.vec_of s x _ _ _ o srcs ho hd)

/-- VADDC writes the sums, and the carries into the predicate that its carry in came from (R187). -/
theorem execVaddc_of {a b : Off} (hd : c.freeV x.d.vnum false (c.act x))
    (ho : c.offs x [(x.a, false), (x.b, false)] = some [a, b]) :
    let p := c.regs.pred x.c.pnum
    let sum (l : Nat) : Nat := (a.at l).toNat + (b.at l).toNat + (if laneIn p l then 1 else 0)
    ∃ v : Off, (∀ l < 256, v.at l = if laneIn (c.act x) l then .ofNat 64 (sum l % 2 ^ 32) else (c.old x.d.vnum false).at l) ∧
      ∃ q : Mask, (∀ l < 256, laneIn q l = if laneIn (c.act x) l then decide (2 ^ 32 ≤ sum l) else laneIn p l) ∧
        exec (.vaddc x) s = c.ends s x.len (((s.putRegs c (c.regs.writeV x.d.vnum false v)).raise c.key 0).onStrand c.key
          fun st => st.onCtx fun k => { k with regs := k.regs.setP x.c.pnum q }) := by
  intro p sum
  let o : VecOp :=
    { f := fun l vs => (.ofNat 64 (((arg0 vs).toNat + (arg1 vs).toNat + if laneIn p l then 1 else 0) % 2 ^ 32), 0)
      perLane := true }
  obtain ⟨hlanes, hflags⟩ := o.result_lanes (c.act x) (c.old x.d.vnum false) [a, b] (by simp [o]) (by simp [o])
  refine ⟨_, hlanes, maskOf fun l => if laneIn (c.act x) l then decide (2 ^ 32 ≤ sum l) else laneIn p l,
    fun l hl => laneIn_maskOf _ hl, ?_⟩
  have hzero : ∀ ls : List Nat, ls.foldl (fun (fl : Half) l => fl ||| (o.f l ([a, b].map fun k => k.at l)).2) 0 = 0 := by
    intro ls
    induction ls with
    | nil => rfl
    | cons l t ih => exact (congrArg (fun z => t.foldl _ z) (BitVec.or_self : (0 : Half) ||| 0 = 0)).trans ih
  have hvec := c.vec_of s x _ _ _ o _ ho hd
  rw [hflags, hzero] at hvec
  obtain ⟨-, hread⟩ := (c.offs_eq_some_iff x _ _).mp ho
  refine issueX_ends_of hi ?_
  simp only [List.map_cons, List.map_nil, List.cons.injEq, and_true] at hread
  dsimp only
  rw [hread.1, hread.2]
  exact congrArg (fun act : Act => act.also _) hvec

end

/-- Settles O17: every instruction is the shared operation of its kind, on its table entry's function. -/
theorem vectorIntegerResults : Obligations.VectorIntegerResults := by
  refine ⟨?_, ?_, fun s c x a b hi hd ho => execVaddc_of hi hd ho⟩
  · intro s c x srcs hi ht t w v writes writes32 int
    have lanewise {i : Instr} {dw : Bool} {ops : List (Opnd × Bool)} {f : Nat → List DWord → DWord × Half}
        (hx : exec i s = vecOp s x.len x dw ops { f := f }) (ho : c.offs x ops = some srcs) (hf : ∀ l vs, f l vs = f 0 vs)
        (hd : c.freeV x.d.vnum dw (c.act x)) : c.writesLanes s i x.len x.d.vnum dw (c.act x) srcs f :=
      vecOp_writes hi hx hd ho (fun _ => hf) (by simp)
    have natural (f : Nat → Nat) (y : DWord) : (BitVec.ofNat 64 (modW 32 (f (intVal .b32 y).toNat : Nat)) : DWord) =
        .ofNat 64 (f (y.toNat % 2 ^ 32) % 2 ^ 32) := by
      rw [modW, intVal_of_unsigned rfl, Int.toNat_natCast, BitVec.toNat_setWidth]
      norm_cast
    refine ⟨fun ho => ⟨?_, ?_, ?_, ?_, ?_, ?_, ?_, ?_, ?_, ?_, ?_, ?_, ?_⟩, fun ho => ⟨?_, ?_, ?_, ?_⟩,
      fun ho _ => ⟨fun hd => ?_, fun hd => ?_⟩, fun ho => ⟨?_, ?_⟩, fun ho => ?_, fun hd => ?_⟩
    · exact fun hd => vaddOp_writes hi ht hd (exec_vadd s) ho
    · exact fun hd => vsubOp_writes hi ht hd (exec_vsub s) ho
    · exact fun hd => vmulOp_writes hi ht hd (exec_vmul s) ho
    · exact fun hd => vint2_writes hi (exec_vmulh s) hd ho
    · exact fun hd => vint2_writes hi (exec_vand s) hd ho
    · exact fun hd => vint2_writes hi (exec_vor s) hd ho
    · exact fun hd => vint2_writes hi (exec_vxor s) hd ho
    · exact fun hd => vint2_writes hi (exec_vmin s) hd ho
    · exact fun hd => vint2_writes hi (exec_vmax s) hd ho
    · exact fun hd => vshlOp_writes hi ht hd (exec_vshl s) ho
    · exact fun hd => vshrOp_writes hi (exec_vshr s) hd ho
    · exact fun hd => vshrOp_writes hi (exec_vsar s) hd ho
    · exact fun hd => execVsel_writes hi hd ho
    · exact fun hd => vint1_writes hi (exec_vnot s) hd ho
    · exact fun hd => vint1_writes hi (exec_vabs s) hd ho
    · exact fun hd => vint1_writes hi (exec_vneg s) hd ho
    · exact fun hd => vmovOp_writes hi hd (exec_vmov s) ho
    · exact (vint1_writes hi (exec_vclz s) hd ho).congr fun l _ => congrArg (·, 0) (natural (clz 32) _)
    · exact (vint1_writes hi (exec_vpopc s) hd ho).congr fun l _ => congrArg (·, 0) (natural popc _)
    · exact lanewise (exec_vmad s) ho fun _ _ => rfl
    · exact lanewise (exec_vbfe s) ho fun _ _ => rfl
    · exact lanewise (exec_vbfi s) ho fun _ _ => rfl
    · exact vlaneOp_writes hi (exec_vlane s) hd
  · intro s c x srcs hi hd
    exact ⟨fun ho => vecOp_writes hi (exec_vdot4 s) hd ho (fun _ _ _ => rfl) (by simp),
      fun ho => vecOp_writes hi (exec_vsadd s) hd ho (fun _ _ _ => rfl) (by simp)⟩

/-! ## Floating point -/

theorem Ic.seedReady_of {c : Ic} {x : Opnds} {s : State} {k : Act}
    (hs : effMode c.st.ctx.mode x.rnd = .rsd → c.freeS (modeSeed c.st.ctx.mode) ∧ c.regs.spend (modeSeed c.st.ctx.mode) = false) :
    c.seedReady x s k = k := by
  unfold Ic.seedReady
  split
  · next h =>
    obtain ⟨hfree, hval⟩ := hs h
    rw [Ic.freeS] at hfree
    simp only [hfree, hval, Bool.false_eq_true, if_false]
  · rfl

/-- Without stochastic rounding the index of an element does not tell (R63). -/
theorem FpEnv.arg_const {e : FpEnv} (h : e.mode ≠ .rsd) (k l : Nat) : e.arg k = e.arg l := by
  rw [FpEnv.arg, FpEnv.arg, if_neg h, if_neg h]

theorem FpEnv.fin_const {e : FpEnv} (h : e.mode ≠ .rsd) (f : Fmt) (k l : Nat) (r : Fv × Half) : e.fin f k r = e.fin f l r := by
  rw [FpEnv.fin, FpEnv.fin, FpEnv.arg_const h k l]

theorem fdot2_const {t : Ty} {e : FpEnv} (h : e.mode ≠ .rsd) (k l : Nat) (a b d : DWord) : fdot2 t e k a b d = fdot2 t e l a b d := by
  unfold fdot2
  dsimp only
  rw [FpEnv.fin_const h fp32 k l]

theorem perElem_const {t : Ty} {g : Nat → List Nat → Nat × Half} (hg : ∀ k l xs, g k xs = g l xs) (k l : Nat) (xs : List DWord) :
    perElem t k xs g = perElem t l xs g := by
  simp only [perElem, hg k l, hg (k + 256) (l + 256)]

section
variable {s : State} {c : Ic} {x : Opnds} {i : Instr} {len : Nat} {srcs : List Off} {t : Ty} (hi : s.issuer = some c)
include hi

section
variable (hs : effMode c.st.ctx.mode x.rnd = .rsd → c.freeS (modeSeed c.st.ctx.mode) ∧ c.regs.spend (modeSeed c.st.ctx.mode) = false)
include hs

/-- A per-lane instruction that rounds, its seed at hand. -/
theorem seeded_writes {w : Bool} {ops : List (Opnd × Bool)} (o : FpEnv → VecOp)
    (hx : exec i s = issue s len fun c => c.seedReady x s (c.vec s x x.d.vnum w ops (o (c.fpEnv x))))
    (hl : ∀ e, (o e).perLane = (e.mode == .rsd)) (ha : ∀ e l, (o e).aff l = none)
    (hf : ∀ e : FpEnv, e.mode ≠ .rsd → ∀ k l vs, (o e).f k vs = (o e).f l vs)
    (hd : c.freeV x.d.vnum w (c.act x)) (ho : c.offs x ops = some srcs) :
    c.writesLanes s i len x.d.vnum w (c.act x) srcs (o (c.fpEnv x)).f := by
  obtain ⟨hlanes, hflags⟩ := (o (c.fpEnv x)).result_lanes (c.act x) (c.old x.d.vnum w) srcs
    (fun h l vs => hf _ (by simpa [hl] using h) l 0 vs) (by simp [ha])
  refine ⟨_, hlanes, ?_⟩
  rw [← hflags, hx, issue_some s len _ c hi, Ic.seedReady_of hs, c.vec_of s x _ _ _ _ _ ho hd]
  rfl

theorem vfpRound_writes {ops : List Opnd} {g : FpEnv → Nat → List Nat → Nat × Half}
    {pnd : FpEnv → Regs → Nat → List Src → Option (Form × List Nat)} (hx : exec i s = vfpRound s len x t ops g pnd)
    (hg : ∀ e : FpEnv, e.mode ≠ .rsd → ∀ k l xs, g e k xs = g e l xs)
    (hd : c.freeV x.d.vnum t.is64 (c.act x)) (ho : c.offs x (ops.map fun o => (o, t.is64)) = some srcs) :
    c.writesLanes s i len x.d.vnum t.is64 (c.act x) srcs fun l vs => perElem t l vs (g (c.fpEnv x)) :=
  seeded_writes hi hs (fun e => { f := fun l vs => perElem t l vs (g e), perLane := e.mode == .rsd, pnd := pnd e }) hx
    (fun _ => rfl) (fun _ _ => rfl) (fun _ h k l _ => perElem_const (hg _ h) k l _) hd ho

theorem ffunOp_writes {g : Fv → Fv × Half} (hx : exec i s = ffunOp s len x t g)
    (hd : c.freeV x.d.vnum t.is64 (c.act x)) (ho : c.offs x [(x.a, t.is64)] = some srcs) :
    c.writesLanes s i len x.d.vnum t.is64 (c.act x) srcs fun l vs => perElem t l vs
      fun i xs => (c.fpEnv x).fin (fmtOf t) i (g ((c.fpEnv x).val (fmtOf t) (nat0 xs))) :=
  vfpRound_writes hi hs hx (fun _ h _ _ _ => FpEnv.fin_const h _ _ _ _) hd ho

theorem faddOp_writes (hx : exec i s = faddOp s len x t)
    (hd : c.freeV x.d.vnum t.is64 (c.act x)) (ho : c.offs x [(x.a, t.is64), (x.b, t.is64)] = some srcs) :
    c.writesLanes s i len x.d.vnum t.is64 (c.act x) srcs fun l vs => perElem t l vs
      fun i xs => (c.fpEnv x).add (fmtOf t) i (nat0 xs) (nat1 xs) :=
  vfpRound_writes hi hs hx (fun _ h _ _ _ => FpEnv.fin_const h _ _ _ _) hd ho

theorem fsubOp_writes (hx : exec i s = fsubOp s len x t)
    (hd : c.freeV x.d.vnum t.is64 (c.act x)) (ho : c.offs x [(x.a, t.is64), (x.b, t.is64)] = some srcs) :
    c.writesLanes s i len x.d.vnum t.is64 (c.act x) srcs fun l vs => perElem t l vs
      fun i xs => (c.fpEnv x).sub (fmtOf t) i (nat0 xs) (nat1 xs) :=
  vfpRound_writes hi hs hx (fun _ h _ _ _ => FpEnv.fin_const h _ _ _ _) hd ho

theorem fmulOp_writes (hx : exec i s = fmulOp s len x t)
    (hd : c.freeV x.d.vnum t.is64 (c.act x)) (ho : c.offs x [(x.a, t.is64), (x.b, t.is64)] = some srcs) :
    c.writesLanes s i len x.d.vnum t.is64 (c.act x) srcs fun l vs => perElem t l vs
      fun i xs => (c.fpEnv x).mul (fmtOf t) i (nat0 xs) (nat1 xs) :=
  vfpRound_writes hi hs hx (fun _ h _ _ _ => FpEnv.fin_const h _ _ _ _) hd ho

theorem ffmaOp_writes (hx : exec i s = ffmaOp s len x t)
    (hd : c.freeV x.d.vnum t.is64 (c.act x)) (ho : c.offs x [(x.a, t.is64), (x.b, t.is64), (x.c, t.is64)] = some srcs) :
    c.writesLanes s i len x.d.vnum t.is64 (c.act x) srcs fun l vs => perElem t l vs
      fun i xs => (c.fpEnv x).fma (fmtOf t) i (nat0 xs) (nat1 xs) (nat2 xs) :=
  vfpRound_writes hi hs hx (fun _ h _ _ _ => FpEnv.fin_const h _ _ _ _) hd ho

end

theorem vfpPlain_writes {ops : List Opnd} {g : FpEnv → List Nat → Nat × Half} (hx : exec i s = vfpPlain s len x t ops g)
    (hd : c.freeV x.d.vnum t.is64 (c.act x)) (ho : c.offs x (ops.map fun o => (o, t.is64)) = some srcs) :
    c.writesLanes s i len x.d.vnum t.is64 (c.act x) srcs fun l vs => perElem t l vs fun _ => g (c.fpEnv x) := by
  let o : VecOp := { f := fun l vs => perElem t l vs fun _ => g (c.fpEnv x) }
  obtain ⟨hlanes, hflags⟩ := o.result_lanes (c.act x) (c.old x.d.vnum t.is64) srcs
    (fun _ l vs => perElem_const (g := fun _ => g (c.fpEnv x)) (fun _ _ _ => rfl) l 0 vs) (by simp [o])
  refine ⟨_, hlanes, ?_⟩
  rw [← hflags, hx, vfpPlain, issue_some s len _ c hi, c.vec_of s x _ _ _ _ _ ho hd]
  rfl

theorem fminmaxOp_writes {isMax prop : Bool} (hx : exec i s = fminmaxOp s len x t isMax prop)
    (hd : c.freeV x.d.vnum t.is64 (c.act x)) (ho : c.offs x [(x.a, t.is64), (x.b, t.is64)] = some srcs) :
    c.writesLanes s i len x.d.vnum t.is64 (c.act x) srcs fun l vs => perElem t l vs
      fun _ xs => (fmtOf t).minMax isMax prop (c.fpEnv x).fz (nat0 xs) (nat1 xs) :=
  vfpPlain_writes hi hx hd ho

end

/-- Settles O19: every instruction is the shared operation of its kind, on its table entry's function. -/
theorem vectorFloatResults : Obligations.VectorFloatResults := by
  intro s c x srcs hi t w f e act seed plain rounds
  refine ⟨fun hd ho => ⟨fun hs => ?_, fun hs => ?_, fun hs => ?_, fun hs => ?_, ?_, ?_, ?_, ?_⟩, fun hd ho hs => ?_,
    fun hd ho => ⟨fun hs => ?_, fun hs => ?_, fun hs => ?_, fun hs => ?_, ?_, ?_, ?_, ?_⟩,
    fun ht hd ho => ?_, fun hs hd ho => ?_, fun hs hd ho => ?_⟩
  · exact faddOp_writes hi hs (exec_fadd s) hd ho
  · exact fsubOp_writes hi hs (exec_fsub s) hd ho
  · exact fmulOp_writes hi hs (exec_fmul s) hd ho
  · exact vfpRound_writes (g := fun e i xs => e.div f i (nat0 xs) (nat1 xs)) hi hs (exec_fdiv s)
      (fun _ h _ _ _ => FpEnv.fin_const h _ _ _ _) hd ho
  · exact fminmaxOp_writes hi (exec_fmin s) hd ho
  · exact fminmaxOp_writes hi (exec_fmax s) hd ho
  · exact fminmaxOp_writes hi (exec_fminp s) hd ho
  · exact fminmaxOp_writes hi (exec_fmaxp s) hd ho
  · exact ffmaOp_writes hi hs (exec_ffma s) hd ho
  · exact ffunOp_writes hi hs (exec_frcp s) hd ho
  · exact ffunOp_writes hi hs (exec_frsq s) hd ho
  · exact ffunOp_writes hi hs (exec_fsqrt s) hd ho
  · exact vfpRound_writes (ops := [x.a]) (g := fun e i xs => f.frnd (e.arg i) (f.flushIn e.fz (nat0 xs)))
      (pnd := fun _ _ _ _ => none) hi hs (exec_frnd s)
      (fun e h k l _ => by rw [FpEnv.arg_const h k l]) hd ho
  · exact vfpPlain_writes (g := fun _ xs => (nat0 xs % f.signBit, 0)) hi (exec_fabs s) hd ho
  · exact vfpPlain_writes (g := fun _ xs => (nat0 xs ^^^ f.signBit, 0)) hi (exec_fneg s) hd ho
  · exact vfpPlain_writes (g := fun _ xs => (f.fclass (nat0 xs), 0)) hi (exec_fclass s) hd ho
  · exact vfpPlain_writes (g := fun e xs => f.flushOut e.fz (f.ffrac (f.flushIn e.fz (nat0 xs)))) hi (exec_ffrac s) hd ho
  · have hw : Ty.is64 t = false := by rw [ht]; rfl
    have fun32 {i : Instr} {g : Fv → Fv × Half} (hx : exec i s = ffunOp s x.len x .f32 g) :
        rounds i fun i xs => e.fin f i (g (e.val f (nat0 xs))) := by
      intro hs
      have h := ffunOp_writes hi hs hx hd ho
      simp only [w, f, hw, ht]
      exact h
    exact ⟨fun32 (exec_fexp2 s), fun32 (exec_flog2 s), fun32 (exec_fsin s), fun32 (exec_fcos s), fun32 (exec_ftanh s)⟩
  · exact seeded_writes hi hs (fun e =>
        { f := fun l vs =>
            let r := e.fin f l (match e.val f (arg0 vs).toNat with
              | .nan g => (.nan false, if g then flagInv else 0)
              | v => (v.scale (intVal .i32 (arg1 vs)), 0))
            (.ofNat 64 r.1, r.2),
          perLane := e.mode == .rsd }) (exec_fscale s)
      (fun _ => rfl) (fun _ _ => rfl) (fun e h k l vs => by dsimp only; rw [FpEnv.fin_const h f k l]) hd ho
  · exact seeded_writes hi hs (fun e => { f := fun l vs => fdot2 t e l (arg0 vs) (arg1 vs) (arg2 vs), perLane := e.mode == .rsd })
      (exec_fdot2 s) (fun _ => rfl) (fun _ _ => rfl) (fun e h k l vs => fdot2_const h k l _ _ _) hd ho

/-! ## The base forms -/

theorem lane32_of_ofInt {t : Ty} {i : Int} {v : DWord} (ht : t.width = 32) (h : BitVec.ofInt 32 i = v.setWidth 32) :
    BitVec.ofNat 64 (modW t.width i) = (v.setWidth 32).setWidth 64 := by
  rw [ht, ofNat_modW32, h]

theorem intVal_b32 (y : DWord) : intVal .b32 y = (y.setWidth 32).toNat := intVal_of_unsigned rfl y

theorem lane32_bitOp {g : Nat → Nat → Nat} {f : ∀ {w : Nat}, BitVec w → BitVec w → BitVec w}
    (h : ∀ a b : Word, (f a b).toNat = g a.toNat b.toNat) (hs : ∀ a b : DWord, (f a b).setWidth 32 = f (a.setWidth 32) (b.setWidth 32))
    (a b : DWord) : BitVec.ofNat 64 (modW 32 (bitOp g (intVal .b32 a) (intVal .b32 b))) = ((f a b).setWidth 32).setWidth 64 := by
  refine lane32_of_ofInt (t := .b32) rfl ?_
  rw [bitOp, intVal_b32, intVal_b32, Int.toNat_natCast, Int.toNat_natCast, BitVec.ofInt_natCast, hs, ← h, BitVec.ofNat_toNat,
    BitVec.setWidth_eq]

theorem cutW_cnt64 {n : Nat} (hn : n < 256) : (cutW false (cnt64 n)).toNat = n := by
  rw [cutW, if_neg (by decide), cnt64, BitVec.toNat_setWidth, BitVec.toNat_setWidth, BitVec.toNat_ofNat]
  omega

theorem shl32_setWidth (n : Nat) (v : DWord) : shl32 n (v.setWidth 32) = (if 32 ≤ n then 0 else v <<< n).setWidth 32 := by
  unfold shl32
  split
  · rfl
  · apply BitVec.eq_of_toNat_eq
    simp [BitVec.toNat_shiftLeft, Nat.shiftLeft_eq]

theorem lane32_ishr (v : DWord) (n : Nat) :
    BitVec.ofNat 64 (modW 32 (ishr .b32 (intVal .b32 v) n)) = (((v.setWidth 32 >>> n).setWidth 64).setWidth 32).setWidth 64 := by
  refine lane32_of_ofInt (t := .b32) rfl ?_
  rw [ishr, intVal_b32]
  norm_cast
  rw [BitVec.ofInt_natCast]
  apply BitVec.eq_of_toNat_eq
  simp only [BitVec.toNat_ofNat, BitVec.toNat_setWidth, BitVec.toNat_ushiftRight, Nat.shiftRight_eq_div_pow]
  have hv : v.toNat % 2 ^ 32 < 2 ^ 32 := Nat.mod_lt _ (by decide)
  generalize v.toNat % 2 ^ 32 = y at hv
  have hdiv : y / 2 ^ n < 2 ^ 32 := (Nat.div_le_self _ _).trans_lt hv
  by_cases h : n ≤ 32
  · rw [show min n (Ty.width .b32) = n from min_eq_left h, Nat.mod_eq_of_lt hdiv, Nat.mod_eq_of_lt (hdiv.trans (by decide)),
      Nat.mod_eq_of_lt hdiv]
  · have h32 : min n (Ty.width .b32) = 32 := min_eq_right (by simp only [Ty.width]; omega)
    have hpow : 2 ^ 32 ≤ 2 ^ n := Nat.pow_le_pow_right (by decide) (by omega)
    rw [h32, Nat.div_eq_of_lt hv, Nat.div_eq_of_lt (hv.trans_le hpow)]

theorem Ic.offs_v_lit {c : Ic} {x : Opnds} {o : Opnd} {v : Off} (h : c.offs x [(o, false)] = some [v]) (ho : o ≠ .lit) (y : Opnds) :
    c.offs y [(o, false), (.lit, false)] = some [v, .u (cutW false (y.lit.getD 0))] :=
  Ic.offs_concat_lit (Ic.offs_of_ne_lit h (by simpa using ho) y) false

/-- Settles O18: each base form runs its extended equivalent on operands that stand for its fields. -/
theorem laneBaseResults : Obligations.LaneBaseResults := by
  constructor
  · intro s c d a b va vb hi hd writes
    have cut {y : DWord} (hy : cutW false y = y) : y = (y.setWidth 32).setWidth 64 := by
      rw [cutW, if_neg (by decide)] at hy
      exact hy.symm
    have lit (v y : DWord) : (v + cutW false y).setWidth 32 = (v + y).setWidth 32 := by
      simp [cutW, BitVec.setWidth_add]
    refine ⟨fun ho => ?_, fun ho => ⟨fun n hn => ⟨?_, ?_⟩, fun i => ?_, fun n => ?_, ?_⟩, fun ho => ?_, ?_⟩
    · have ho {x : Opnds} := Ic.offs_of_ne_lit ho (by simp) x
      refine ⟨?_, ?_, ?_, ?_, ?_, ?_⟩
      · refine (vaddOp_writes (x := baseVVV .i32 d a b) (t := .i32) hi (.inl rfl) hd (exec_vaddBase s) ho).congr fun l _ => ?_
        exact congrArg (·, 0) (lane32_of_ofInt (t := .i32) rfl (by
          rw [BitVec.ofInt_add, ofInt_intVal rfl, ofInt_intVal rfl, BitVec.setWidth_add _ _ (by decide)]))
      · refine (vsubOp_writes (x := baseVVV .i32 d a b) (t := .i32) hi (.inl rfl) hd (exec_vsubBase s) ho).congr fun l _ => ?_
        exact congrArg (·, 0) (lane32_of_ofInt (t := .i32) rfl (by
          rw [ofInt_sub32, ofInt_intVal rfl, ofInt_intVal rfl, setWidth_sub32]))
      · refine (vmulOp_writes (x := baseVVV .i32 d a b) (t := .i32) hi (.inl rfl) hd (exec_vmulBase s) ho).congr fun l _ => ?_
        exact congrArg (·, 0) (lane32_of_ofInt (t := .i32) rfl (by
          rw [BitVec.ofInt_mul, ofInt_intVal rfl, ofInt_intVal rfl, BitVec.setWidth_mul _ _ (by decide)]))
      · exact (vint2_writes (x := baseVVV .b32 d a b) (t := .b32) hi (exec_vandBase s) hd ho).congr fun l _ =>
          congrArg (·, 0) (lane32_bitOp (f := (· &&& ·)) BitVec.toNat_and (fun _ _ => BitVec.setWidth_and) _ _)
      · exact (vint2_writes (x := baseVVV .b32 d a b) (t := .b32) hi (exec_vorBase s) hd ho).congr fun l _ =>
          congrArg (·, 0) (lane32_bitOp (f := (· ||| ·)) BitVec.toNat_or (fun _ _ => BitVec.setWidth_or) _ _)
      · exact (vint2_writes (x := baseVVV .b32 d a b) (t := .b32) hi (exec_vxorBase s) hd ho).congr fun l _ =>
          congrArg (·, 0) (lane32_bitOp (f := (· ^^^ ·)) BitVec.toNat_xor (fun _ _ => BitVec.setWidth_xor) _ _)
    · refine (vshlOp_writes (x := baseX .b32 (.v d) (.v a) .lit (some (cnt64 n))) (t := .b32) hi (.inl rfl) hd (exec_vshlBase s)
        (Ic.offs_v_lit ho (by simp) _)).congr fun l _ => ?_
      refine congrArg (·, 0) (lane32_of_ofInt (t := .b32) rfl ?_)
      change BitVec.ofInt 32 (ishl .b32 (intVal .b32 (va.at l)) ((cutW false (cnt64 n)).toNat % 2 ^ 32)) = _
      rw [ofInt_ishl rfl, cutW_cnt64 hn, Nat.mod_eq_of_lt (by omega), shl32_setWidth]
      rfl
    · refine (vshrOp_writes (x := baseX .b32 (.v d) (.v a) .lit (some (cnt64 n))) (t := .b32) hi (exec_vshrBase s) hd
        (Ic.offs_v_lit ho (by simp) _)).congr fun l _ => ?_
      refine congrArg (·, 0) ?_
      change BitVec.ofNat 64 (modW 32 (ishr .b32 (intVal .b32 (va.at l)) ((cutW false (cnt64 n)).toNat % 2 ^ 32))) = _
      rw [cutW_cnt64 hn, Nat.mod_eq_of_lt (by omega), lane32_ishr]
      rfl
    · refine (vaddOp_writes (x := baseX .i32 (.v d) (.v a) .lit (some (imm64 i))) (t := .i32) hi (.inl rfl) hd (exec_vaddImmBase s)
        (Ic.offs_v_lit ho (by simp) _)).congr fun l _ => ?_
      refine congrArg (·, 0) (lane32_of_ofInt (t := .i32) rfl ?_)
      rw [BitVec.ofInt_add, ofInt_intVal rfl, ofInt_intVal rfl, ← BitVec.setWidth_add _ _ (by decide)]
      exact lit _ _
    · refine (vaddOp_writes (x := baseX .i32 (.v d) (.v a) .lit (some n)) (t := .i32) hi (.inl rfl) hd (exec_vaddLit s)
        (Ic.offs_v_lit ho (by simp) _)).congr fun l _ => ?_
      refine congrArg (·, 0) (lane32_of_ofInt (t := .i32) rfl ?_)
      rw [BitVec.ofInt_add, ofInt_intVal rfl, ofInt_intVal rfl, ← BitVec.setWidth_add _ _ (by decide)]
      exact lit _ _
    · exact (vmovOp_writes (x := baseX .b32 (.v d) (.v a) .zero none) (t := .b32) hi hd (exec_vmovBase s)
        (Ic.offs_of_ne_lit ho (by simp) _)).congr fun l _ => congrArg (·, 0) (cut (Ic.offs_narrow ho (by simp) (by simp) l))
    · exact (vmovOp_writes (x := baseX .b32 (.v d) (.s a) .zero none) (t := .b32) hi hd (exec_vmovScalarBase s)
        (Ic.offs_of_ne_lit ho (by simp) _)).congr fun l _ => congrArg (·, 0) (cut (Ic.offs_narrow ho (by simp) (by simp) l))
    · exact vlaneOp_writes (x := baseX .n32 (.v d) .zero .zero none) hi (exec_vlaneBase s) hd
  · intro s c d a b va vb vd hi hd x e act v out seed
    refine ⟨fun ho => ⟨fun hs => ⟨?_, ?_, ?_⟩, ?_, ?_⟩, fun hs ho => ?_, fun hs ho => ?_⟩
    · exact (faddOp_writes (x := x) (t := .f32) hi hs (exec_faddBase s) hd ho).congr fun _ _ => rfl
    · exact (fsubOp_writes (x := x) (t := .f32) hi hs (exec_fsubBase s) hd ho).congr fun _ _ => rfl
    · exact (fmulOp_writes (x := x) (t := .f32) hi hs (exec_fmulBase s) hd ho).congr fun _ _ => rfl
    · exact (fminmaxOp_writes (x := x) (t := .f32) hi (exec_fminBase s) hd ho).congr fun _ _ => rfl
    · exact (fminmaxOp_writes (x := x) (t := .f32) hi (exec_fmaxBase s) hd ho).congr fun _ _ => rfl
    · exact (ffmaOp_writes (x := { x with c := .v d }) (t := .f32) hi hs (exec_ffmaBase s) hd
        (Ic.offs_of_ne_lit ho (by simp) _)).congr fun _ _ => rfl
    · exact (ffunOp_writes (x := baseX .f32 (.v d) (.v a) .zero none) (t := .f32) hi hs (exec_frcpBase s) hd
        (Ic.offs_of_ne_lit ho (by simp) _)).congr fun _ _ => rfl

end Sys2Proof.Machine
end

section
/-! PROOFS. Conversions (R61, R62, R194 to R198). -/

namespace Sys2Proof.Machine

open Sys2Proof

/-! ## Rounding does not depend on the lane without stochastic rounding -/

section
variable {e : FpEnv} (h : e.mode ≠ .rsd)
include h

theorem fpackLane_const {t : Ty} (cc k l : Nat) (a b d : DWord) : fpackLane t e cc k a b d = fpackLane t e cc l a b d := by
  unfold fpackLane
  dsimp only
  have harg (j : Nat) : e.arg (k + j) = e.arg (l + j) := FpEnv.arg_const h _ _
  simp only [harg]

theorem bqntLane_const {t : Ty} (k l : Nat) (a b d : DWord) : bqntLane t e k a b d = bqntLane t e l a b d := by
  unfold bqntLane
  rw [FpEnv.arg_const h k l]

theorem bdqLane_const {t : Ty} (k l : Nat) (a b d : DWord) : bdqLane t e k a b d = bdqLane t e l a b d := by
  unfold bdqLane
  rw [FpEnv.arg_const h k l]

end

section
variable {s : State} {c : Ic} {x : Opnds} {srcs : List Off} (hi : s.issuer = some c)
include hi

/-- FPACK with its count at hand and in range writes its lanes. -/
theorem execFpack_writes {k : DWord} {ops : List (Opnd × Bool)} (hk : c.offs x [(x.c, false)] = some [.u k])
    (hmax : k.toNat ≤ packMax x.t)
    (hs : effMode c.st.ctx.mode x.rnd = .rsd → c.freeS (modeSeed c.st.ctx.mode) ∧ c.regs.spend (modeSeed c.st.ctx.mode) = false)
    (hops : ops = [(x.a, false), (x.b, false)] ++ if packMax x.t ≠ 0 then [(x.d, false)] else [])
    (hd : c.freeV x.d.vnum false (c.act x)) (ho : c.offs x ops = some srcs) :
    c.writesLanes s (.fpack x) x.len x.d.vnum false (c.act x) srcs
      (fun l vs => fpackLane x.t (c.fpEnv x) k.toNat l (arg0 vs) (arg1 vs) (arg2 vs)) := by
  let o : VecOp :=
    { f := fun l vs => fpackLane x.t (c.fpEnv x) k.toNat l (arg0 vs) (arg1 vs) (arg2 vs)
      perLane := (c.fpEnv x).mode == .rsd }
  obtain ⟨hlanes, hflags⟩ := o.result_lanes (c.act x) (c.old x.d.vnum false) srcs
    (fun h l vs => fpackLane_const (by simpa [o] using h) _ l 0 _ _ _) (by simp [o])
  refine ⟨_, hlanes, ?_⟩
  rw [← hflags]
  refine issueX_ends_of hi ((Ic.seedReady_of hs).trans ((c.known_of s x _ _ _ hk).trans ?_))
  obtain ⟨hbusy, hread⟩ := (c.offs_eq_some_iff x _ _).mp ho
  have hknown : (knownAll [c.regs.read x.lit false x.a, c.regs.read x.lit false x.b]).isNone = false := by
    rw [hops, List.map_append] at hread
    rcases srcs with _ | ⟨p, _ | ⟨q, rest⟩⟩
    · simp at hread
    · simp at hread
    · simp only [List.map_cons, List.map_nil, List.cons_append, List.cons.injEq] at hread
      obtain ⟨hp, hq, -⟩ := hread
      rw [hp, hq]
      rfl
  subst hops
  dsimp only
  rw [if_neg (by rw [hbusy]; decide), if_neg (by rw [hknown]; decide)]
  exact (if_neg (Nat.not_lt.mpr hmax)).trans (c.vec_of s x _ _ _ o _ ho hd)

/-- FUNPK of an element in range writes its lanes. -/
theorem execFunpk_writes {a : Off} {k : DWord} (hk : k.toNat < 32 / x.t.width) (hd : c.freeV x.d.vnum false (c.act x))
    (ho : c.offs x [(x.a, false), (x.b, false)] = some [a, .u k]) :
    c.writesLanes s (.funpk x) x.len x.d.vnum false (c.act x) [a, .u k] (fun _ vs =>
      let r := roundSat fp32 rneArg false ((fmtOf x.t).val (elemOf x.t.width k.toNat (arg0 vs)).toNat)
      (.ofNat 64 r.1, r.2)) := by
  let o : VecOp :=
    { f := fun _ vs =>
        let r := roundSat fp32 rneArg false ((fmtOf x.t).val (elemOf x.t.width k.toNat (arg0 vs)).toNat)
        (.ofNat 64 r.1, r.2) }
  obtain ⟨hlanes, hflags⟩ := o.result_lanes (c.act x) (c.old x.d.vnum false) [a, .u k] (fun _ _ _ => rfl) (by simp [o])
  refine ⟨_, hlanes, ?_⟩
  rw [← hflags]
  exact issueX_ends_of hi ((c.known_of s x _ _ _ ho).trans ((if_neg (Nat.not_le.mpr hk)).trans (c.vec_of s x _ _ _ o _ ho hd)))

end

/-- The same, for a function of the lane's number: over all lanes it must not depend on it where the sources are uniform. -/
theorem VecOp.result_lanes_of_uniform (o : VecOp) (act : Mask) (old : Off) (srcs : List Off) (ha : o.aff srcs = none)
    (hf : act = fullMask → srcs.all Off.isU = true → ∀ l < 256, o.f l (srcs.map fun k => k.at l) = o.f 0 (srcs.map fun k => k.at 0)) :
    (∀ l < 256, (o.result act old srcs).1.at l = if laneIn act l then (o.f l (srcs.map fun k => k.at l)).1 else old.at l) ∧
      (o.result act old srcs).2 = (lanesOf act).foldl (fun fl l => fl ||| (o.f l (srcs.map fun k => k.at l)).2) 0 := by
  by_cases hu : act = fullMask ∧ srcs.all Off.isU = true ∧ o.perLane = false
  · obtain ⟨hfull, hall, hper⟩ := hu
    let p : VecOp := { f := fun _ vs => o.f 0 vs }
    have hsame : o.result act old srcs = p.result act old srcs := by
      simp [VecOp.result, hfull, hall, hper, p]
    have hpt {l : Nat} (hl : l < 256) : p.f l (srcs.map fun k => k.at l) = o.f l (srcs.map fun k => k.at l) := by
      rw [hf hfull hall l hl, ← map_at_uniform srcs l hall]
    obtain ⟨hlanes, hflags⟩ := p.result_lanes act old srcs (fun _ _ _ => rfl) (by simp [p])
    rw [hsame]
    refine ⟨fun l hl => by rw [hlanes l hl, hpt hl], ?_⟩
    rw [hflags]
    exact List.foldl_ext _ _ 0 fun fl l hl => by rw [hpt (mem_lanesOf.mp hl).1]
  · let p : VecOp := { f := o.f, perLane := true }
    have hsame : o.result act old srcs = p.result act old srcs := by
      simp only [not_and, Bool.not_eq_false] at hu
      by_cases hc : decide (act = fullMask) && !o.perLane
      · have hall : ¬srcs.all Off.isU = true := fun h => by simp_all
        unfold VecOp.result
        simp only [hc, if_true, ha, if_neg hall]
        simp [p]
      · unfold VecOp.result
        simp only [if_neg hc]
        simp [p]
    rw [hsame]
    exact p.result_lanes act old srcs (by simp [p]) (by simp [p])

/-- A list of one value per block, at the block of a lane. -/
theorem getD_map_range_div {α : Type} (f : Nat → α) (d : α) {k l : Nat} (hk : k ∣ 256) (hl : l < 256) :
    ((List.range (256 / k)).map f).getD (l / k) d = f (l / k) := by
  have : l / k < 256 / k := Nat.div_lt_div_of_lt_of_dvd hk hl
  simp [List.getD_eq_getElem?_getD, this]

/-- The code of SCLQ for block `j` of the lanes of act (R197). -/
def sclqCode (x : Opnds) (act : Mask) (a : Off) (b : DWord) (j : Nat) : Nat × Half :=
  let vs := ((List.range (blockLanes x.t)).map fun i => blockLanes x.t * j + i).filter (laneIn act) |>.map fun l => fp32.val (a.at l).toNat
  if x.t == .e8m0 then e8m0Code (selTyOf x) vs else e3m5Code ((fmtOf .bf16).val (b.toNat % 65536)) vs

theorem blockLanes_dvd (t : Ty) : blockLanes t ∣ 256 := by
  unfold blockLanes
  split <;> decide

/-- Over all lanes every block of a uniform value has the same code. -/
theorem sclqCode_uniform {x : Opnds} {v b : DWord} {j : Nat} (hj : j < 256 / blockLanes x.t) :
    sclqCode x fullMask (.u v) b j = sclqCode x fullMask (.u v) b 0 := by
  have hblock {j : Nat} (hj : j < 256 / blockLanes x.t) :
      (((List.range (blockLanes x.t)).map fun i => blockLanes x.t * j + i).filter (laneIn fullMask)).map
        (fun l => fp32.val ((Off.u v).at l).toNat) = List.replicate (blockLanes x.t) (fp32.val v.toNat) := by
    rw [List.filter_eq_self.mpr]
    · rw [List.map_map]
      exact List.eq_replicate_iff.mpr ⟨by simp, by simp [Off.at]⟩
    · intro l hl
      obtain ⟨i, hi, rfl⟩ := List.mem_map.mp hl
      have hk := Nat.div_mul_cancel (blockLanes_dvd x.t)
      have hi := List.mem_range.mp hi
      exact laneIn_full _ (by nlinarith)
  have h0 : 0 < 256 / blockLanes x.t := by omega
  unfold sclqCode
  rw [hblock hj, hblock h0]

theorem execSclq_writes {s : State} {c : Ic} {x : Opnds} {a : Off} {b : DWord} (hi : s.issuer = some c)
    (hd : c.freeV x.d.vnum false (c.act x)) (ho : c.offs x [(x.a, false), (x.c, false)] = some [a, .u b]) :
    c.writesLanes s (.sclq x) x.len x.d.vnum false (c.act x) [a, .u b] (fun l _ =>
      let r := sclqCode x (c.act x) a b (l / blockLanes x.t)
      (.ofNat 64 r.1, r.2)) := by
  let codes := (List.range (256 / blockLanes x.t)).map (sclqCode x (c.act x) a b)
  let o : VecOp := { f := fun l _ => let r := codes.getD (l / blockLanes x.t) (0, 0); (.ofNat 64 r.1, r.2) }
  have hcode {l : Nat} (hl : l < 256) : codes.getD (l / blockLanes x.t) (0, 0) = sclqCode x (c.act x) a b (l / blockLanes x.t) :=
    getD_map_range_div _ _ (blockLanes_dvd _) hl
  obtain ⟨hlanes, hflags⟩ := o.result_lanes_of_uniform (c.act x) (c.old x.d.vnum false) [a, .u b] rfl (by
    intro hfull hall l hl
    obtain ⟨v, rfl⟩ : ∃ v, a = .u v := by cases a <;> simp_all [Off.isU]
    dsimp only [o]
    rw [hcode hl, hcode (by decide), hfull, sclqCode_uniform (Nat.div_lt_div_of_lt_of_dvd (blockLanes_dvd _) hl), Nat.zero_div])
  have hwrites : c.writesLanes s (.sclq x) x.len x.d.vnum false (c.act x) [a, .u b] o.f := by
    refine ⟨_, hlanes, ?_⟩
    rw [← hflags]
    exact issueX_ends_of hi ((c.known_of s x _ _ _ ho).trans (c.vec_of s x _ _ _ o _ ho hd))
  exact hwrites.congr fun l hl => by dsimp only [o]; rw [hcode hl]

/-- Settles O20: each conversion is a per-lane operation whose rounding takes the lane's number only from the seed. -/
theorem conversionResults : Obligations.ConversionResults := by
  intro s c x srcs hi t frm e act seed writes out
  refine ⟨fun ho => ⟨fun hs hd => ?_, fun hs hd => ?_, fun hs hd => ?_, fun hd => ?_⟩,
    fun k hk hmax hs => ⟨fun h0 ho hd => ?_, fun h0 ho hd => ?_⟩, ?_, ?_, fun hs ho => ⟨fun hd => ?_, fun hd => ?_⟩⟩
  · exact seeded_writes hi hs (fun e =>
      { f := fun l vs => let r := fcvtElem t frm e l (arg0 vs).toNat; (.ofNat 64 r.1, r.2), perLane := e.mode == .rsd })
      (exec_fcvt s) (fun _ => rfl) (fun _ _ => rfl)
      (fun e h k l vs => by dsimp only [fcvtElem]; rw [FpEnv.arg_const h k l]) hd ho
  · exact seeded_writes hi hs (fun e =>
      { f := fun l vs => let r := floatToInt t (e.arg l) (e.val (fmtOf frm) (arg0 vs).toNat); (laneOut t r.1, r.2),
        perLane := e.mode == .rsd })
      (exec_ftoi s) (fun _ => rfl) (fun _ _ => rfl) (fun e h k l vs => by dsimp only; rw [FpEnv.arg_const h k l]) hd ho
  · exact seeded_writes hi hs (fun e =>
      { f := fun l vs => let r := (fmtOf t).round (e.arg l) false (Fv.ofInt (intVal frm (arg0 vs))); (.ofNat 64 r.1, r.2),
        perLane := e.mode == .rsd })
      (exec_itof s) (fun _ => rfl) (fun _ _ => rfl) (fun e h k l vs => by dsimp only; rw [FpEnv.arg_const h k l]) hd ho
  · exact vecOp_writes hi (exec_iext s) hd ho (fun _ _ _ => rfl) (by simp)
  · exact execFpack_writes hi hk hmax hs (by rw [if_neg (not_not.mpr h0)]; rfl) hd ho
  · exact execFpack_writes hi hk hmax hs (by rw [if_pos h0]; rfl) hd ho
  · rintro a k ho rfl hk hd
    exact execFunpk_writes hi hk hd ho
  · rintro a b ho rfl k hd
    have hblock : k = blockLanes t := by simp only [k, blockLanes, beq_iff_eq]
    refine (execSclq_writes hi hd ho).congr fun l _ => ?_
    simp only [sclqCode, hblock, beq_iff_eq, out, t, frm, act]
  · exact seeded_writes hi hs (fun e => { f := fun l vs => bqntLane t e l (arg0 vs) (arg1 vs) (arg2 vs), perLane := e.mode == .rsd })
      (exec_bqnt s) (fun _ => rfl) (fun _ _ => rfl) (fun e h k l vs => bqntLane_const h k l _ _ _) hd ho
  · exact seeded_writes hi hs (fun e => { f := fun l vs => bdqLane t e l (arg0 vs) (arg1 vs) (arg2 vs), perLane := e.mode == .rsd })
      (exec_bdq s) (fun _ => rfl) (fun _ _ => rfl) (fun e h k l vs => bdqLane_const h k l _ _ _) hd ho

end Sys2Proof.Machine
end

section
/-! PROOFS. Lane exchanges, reductions across lanes, and lane predicates (R179 to R181, R199 to R204). -/

namespace Sys2Proof.Machine

open Sys2Proof

/-! ## Masks -/

theorem maskOf_eq_zero {p : Nat → Bool} (h : ∀ l < 256, p l = false) : maskOf p = 0 := by
  apply BitVec.eq_of_getLsbD_eq
  intro l hl
  exact (laneIn_maskOf p hl).trans ((h l hl).trans (BitVec.getLsbD_zero).symm)

theorem laneIn_and (a b : Mask) (l : Nat) : laneIn (a &&& b) l = (laneIn a l && laneIn b l) := BitVec.getLsbD_and

/-- The lanes of a merge: the new bits in the mask, the old outside it. -/
theorem laneIn_mergeMask (act old new : Mask) {l : Nat} (hl : l < 256) :
    laneIn (mergeMask act old new) l = if laneIn act l then laneIn new l else laneIn old l := by
  have hbit : laneIn (mergeMask act old new) l = (laneIn old l && !laneIn act l || laneIn new l && laneIn act l) := by
    simp only [laneIn, mergeMask, BitVec.getLsbD_or, BitVec.getLsbD_and, BitVec.getLsbD_not, hl, decide_true, Bool.true_and]
  rw [hbit]
  cases laneIn act l <;> simp

theorem foldl_or_zero (f : Nat → DWord) (ls : List Nat) :
    ls.foldl (fun (fl : Half) l => fl ||| ((f l, (0 : Half)) : DWord × Half).2) 0 = 0 := by
  induction ls with
  | nil => rfl
  | cons l t ih => exact (congrArg (fun z => t.foldl _ z) (BitVec.or_self : (0 : Half) ||| 0 = 0)).trans ih

/-! ## Writes that depend on the lane only -/

theorem Ic.vec_byLane {c : Ic} {s : State} {x : Opnds} {n : Nat} {w : Bool} (f : Nat → DWord × Half) (hd : c.freeV n w (c.act x)) :
    ∃ v : Off, (∀ l < 256, v.at l = if laneIn (c.act x) l then (f l).1 else (c.old n w).at l) ∧
      c.vec s x n w [] { f := fun l _ => f l, perLane := true } =
        .done ((s.putRegs c (c.regs.writeV n w v)).raise c.key ((lanesOf (c.act x)).foldl (fun fl l => fl ||| (f l).2) 0)) := by
  let o : VecOp := { f := fun l _ => f l, perLane := true }
  obtain ⟨hlanes, hflags⟩ := o.result_lanes (c.act x) (c.old n w) [] (by simp [o]) (by simp [o])
  refine ⟨_, hlanes, ?_⟩
  rw [← hflags]
  exact c.vec_of s x n w [] o [] rfl hd

section
variable {s : State} {c : Ic} {x : Opnds} (hi : s.issuer = some c)
include hi

/-- An exchange with its sources at hand. -/
theorem exchange_writes {i : Instr} {ops : List (Opnd × Bool)} {offs : List Off} {g : List Off → Nat → DWord}
    (hx : exec i s = issueX s x fun c => c.exchange s x ops g) (ho : c.offs x ops = some offs)
    (hd : c.freeV x.d.vnum x.t.is64 (c.act x)) :
    c.writesLanes s i x.len x.d.vnum x.t.is64 (c.act x) [] fun l _ => (g offs l, 0) := by
  obtain ⟨v, hlanes, hvec⟩ := c.vec_byLane (s := s) (fun l => (g offs l, 0)) hd
  refine ⟨v, hlanes, ?_⟩
  rw [hx]
  exact issueX_ends_of hi ((c.known_of s x _ _ _ ho).trans hvec)

/-- LCMP packs the chosen lanes, and the destination's other lanes stay (R202). -/
theorem execLcmp_of {a : Off} (ho : c.offs x [(x.a, x.t.is64)] = some [a]) (hb : c.st.busy x.d x.t.is64 = false)
    (hw : c.regs.blocksWrite x.d.vnum x.t.is64 (decide ((lanesOf (c.sp.mask &&& c.regs.pred x.b.pnum)).length = 256)) = false)
    (hv : ∀ v, (c.regs.writeV x.d.vnum x.t.is64 v).overflows c.st.logG = false) :
    let src := lanesOf (c.sp.mask &&& c.regs.pred x.b.pnum)
    ∃ v : Off, (∀ j < 256, v.at j = if j < src.length then a.at (src.getD j 0) else (c.old x.d.vnum x.t.is64).at j) ∧
      exec (.lcmp x) s = c.ends s x.len (s.putRegs c (c.regs.writeV x.d.vnum x.t.is64 v)) := by
  intro src
  refine ⟨.g (lanes256.map fun j => if j < src.length then a.at (src.getD j 0) else (c.old x.d.vnum x.t.is64).at j),
    fun j hj => ?_, issueX_ends_of hi ((c.known_of s x _ _ _ ho).trans ?_)⟩
  · rw [Off.at_g, lanes256_getD _ j hj]
  · dsimp only
    rw [if_neg (by rw [hb]; decide), if_neg (by rw [hw]; decide)]
    exact if_neg (by rw [hv]; decide)

omit hi in
/-- With a legal leaf count and every index below it, and no index twice where that tells, a reduction goes on (R203, R403). -/
theorem Ic.reduce_of {a b : Off} {n : DWord} {dups : Bool} {k : Mask → Off → Off → Act}
    (ho : c.offs x [(x.a, x.t.is64), (x.b, false), (x.c, true)] = some [a, b, .u n]) (h0 : n.toNat ≠ 0) (hn : n.toNat ≤ 2 ^ 32)
    (hb : ∀ l, laneIn (c.act x) l = true → (b.at l).toNat < n.toNat)
    (hdup : dups = true → ∀ l k, laneIn (c.act x) l = true → laneIn (c.act x) k = true → l ≠ k → b.at l ≠ b.at k) :
    c.reduce s x dups k = k (c.act x) a b := by
  have hfar : (maskOf fun l => laneIn (c.act x) l && decide (n.toNat ≤ (b.at l).toNat)) = 0 := maskOf_eq_zero fun l _ => by
    rw [Bool.and_eq_false_imp]
    exact fun hl => decide_eq_false (Nat.not_le.mpr (hb l hl))
  have hdups : dups = true → dupLanes (c.act x) b = 0 := fun hd => maskOf_eq_zero fun l _ => by
    rw [Bool.and_eq_false_imp]
    intro hl
    rw [List.any_eq_false]
    intro k hk
    have hne := hdup hd k l (mem_lanesOf.mp hk).2 hl
    simp only [Bool.and_eq_true, bne_iff_ne, beq_iff_eq, not_and]
    exact hne
  refine (c.known_of s x _ _ _ ho).trans ((if_neg (not_or.mpr ⟨h0, Nat.not_lt.mpr hn⟩)).trans (if_neg (not_not.mpr ?_)))
  change (if dups = true then (maskOf fun l => laneIn (c.act x) l && decide (n.toNat ≤ (b.at l).toNat)) ||| dupLanes (c.act x) b
    else maskOf fun l => laneIn (c.act x) l && decide (n.toNat ≤ (b.at l).toNat)) = 0
  rw [hfar]
  split
  · next hd =>
    rw [hdups hd]
    rfl
  · rfl

end

/-- Settles O21: an exchange and a scan write lane by lane, and a reduction takes the root of its leaves. -/
theorem laneExchangeResults : Obligations.LaneExchangeResults := by
  constructor
  · intro s c x a b hi w act sg takes
    exact ⟨fun ho hd => exchange_writes hi (exec_bfly s) ho hd, fun ho hd => exchange_writes hi (exec_shfl s) ho hd,
      fun ho => ⟨fun hd => exchange_writes hi (exec_lrot s) ho hd, fun hd => exchange_writes hi (exec_lbcst s) ho hd⟩,
      fun ho hb hw hv => execLcmp_of hi ho hb hw hv⟩
  · intro s c x a b n hi ho h0 hn act hb leaves root val
    refine ⟨fun hdup => ⟨fun d hxd hd => ?_, fun d hxd hd => ?_⟩, fun hd => ?_⟩
    · refine issueX_ends_of hi ((Ic.reduce_of ho h0 hn hb fun _ => hdup).trans ?_)
      simp only [hxd, c.toS_of s d _ hd]
      rfl
    · obtain ⟨v, hlanes, hvec⟩ := c.vec_byLane (s := s) (fun _ => (val (root leaves), 0)) hd
      rw [foldl_or_zero fun _ => val (root leaves)] at hvec
      refine ⟨v, hlanes, issueX_ends_of hi ((Ic.reduce_of ho h0 hn hb fun _ => hdup).trans ?_)⟩
      simp only [hxd]
      exact congrArg (fun act : Act => act.also _) hvec
    · obtain ⟨v, hlanes, hvec⟩ := c.vec_byLane (s := s) (x := x) (fun l =>
        let r := root (leaves.filter fun e => decide (e.1 < (b.at l).toNat + if x.xs % 2 = 1 then 0 else 1))
        (val r, r.2)) hd
      exact ⟨v, hlanes, issueX_ends_of hi ((Ic.reduce_of ho h0 hn hb fun h => absurd h (by decide)).trans hvec)⟩

/-! ## Lane predicates -/

section
variable {s : State} {c : Ic} {x : Opnds} (hi : s.issuer = some c)
include hi

/-- A lane predicate takes new bits in the lanes of a mask. -/
theorem sets_of {i : Instr} {f : Ic → Act} {act new : Mask} {d : Nat} {also : State → State} {p : Nat → Bool}
    (hx : exec i s = issueX s x f) (hf : f c = .done (also (s.putRegs c (c.regs.setP d (mergeMask act (c.regs.pred d) new)))))
    (hp : ∀ l < 256, laneIn act l = true → laneIn new l = p l) :
    ∃ m : Mask, (∀ l < 256, laneIn m l = if laneIn act l then p l else laneIn (c.regs.pred d) l) ∧
      exec i s = c.ends s x.len (also (s.putRegs c (c.regs.setP d m))) := by
  refine ⟨mergeMask act (c.regs.pred d) new, fun l hl => ?_, hx.trans (issueX_ends_of hi hf)⟩
  rw [laneIn_mergeMask _ _ _ hl]
  split
  · next h => exact hp l hl h
  · rfl

/-- The same for bits that a test gives. -/
theorem sets_maskOf {i : Instr} {f : Ic → Act} {act : Mask} {d : Nat} {also : State → State} {p : Nat → Bool}
    (hx : exec i s = issueX s x f)
    (hf : f c = .done (also (s.putRegs c (c.regs.setP d (mergeMask act (c.regs.pred d) (maskOf p)))))) :
    ∃ m : Mask, (∀ l < 256, laneIn m l = if laneIn act l then p l else laneIn (c.regs.pred d) l) ∧
      exec i s = c.ends s x.len (also (s.putRegs c (c.regs.setP d m))) :=
  sets_of hi hx hf fun _ hl _ => laneIn_maskOf p hl

end

/-- The lanes of a 64-lane window of a mask. -/
theorem laneIn_window (k l : Nat) (hl : l < 256) :
    laneIn (((BitVec.allOnes 64).setWidth 256 : Mask) <<< (64 * k)) l = decide (l / 64 = k) := by
  rw [laneIn, BitVec.getLsbD_shiftLeft, BitVec.getLsbD_setWidth, BitVec.getLsbD_allOnes]
  by_cases h : l / 64 = k
  · simp [hl, h, show ¬l < 64 * k by omega, show l - 64 * k < 256 by omega, show l - 64 * k < 64 by omega]
  · by_cases hlt : l < 64 * k
    · simp [h, hlt]
    · simp [h, show ¬l - 64 * k < 64 by omega]

/-- Settles O22: each instruction merges new bits into its lane predicate, or gives one value. -/
theorem lanePredicateResults : Obligations.LanePredicateResults := by
  intro s c x a b hi w act r sets cmp
  refine ⟨fun ho => ⟨?_, ?_⟩, ?_, fun d p hxd hxa => ?_, fun d n hxd hxa ho => ?_, fun d n hxd hxa ho hxs => ?_,
    fun d p hxd hxa hd => ?_, fun d p hxd hxa hd => ?_, fun h0 => ?_, fun h1 => ?_, fun h2 ho => ?_, fun hd => ⟨?_, ?_⟩⟩
  · dsimp only [sets, id]
    refine sets_maskOf (also := fun u => u) hi (exec_pset s) ?_
    refine (c.known_of s x _ _ _ ho).trans ?_
    rfl
  · dsimp only [sets, id]
    refine sets_maskOf (also := fun u => u.raise c.key ((lanesOf act).foldl (fun fl l => fl ||| (cmp l).2) 0)) hi (exec_pfset s) ?_
    refine (c.known_of s x _ _ _ ho).trans ?_
    rfl
  · dsimp only [sets, id]
    refine sets_maskOf (also := fun u => u) hi (exec_plog s) ?_
    rfl
  · dsimp only [sets, id]
    refine sets_of (also := fun u => u) hi (exec_pmov s) (new := r.pred p) ?_ fun _ _ _ => rfl
    simp only [hxd, hxa]
    rfl
  · dsimp only [sets, id]
    refine sets_maskOf (also := fun u => u) hi (exec_pmov s) ?_
    rw [hxa] at ho
    simp only [hxd, hxa]
    refine (c.known_of s x _ _ _ ho).trans ?_
    rfl
  · have hact : (maskOf fun l => laneIn act l && decide (l / 64 = x.xs)) =
        act &&& (((BitVec.allOnes 64).setWidth 256 : Mask) <<< (64 * x.xs)) := BitVec.eq_of_getLsbD_eq fun l hl =>
      (laneIn_maskOf _ hl).trans (by rw [← laneIn_window _ l hl]; exact (laneIn_and _ _ l).symm)
    refine sets_of (also := fun u => u) hi (exec_pmov s) (new := (a.at 0).setWidth 256 <<< (64 * x.xs)) ?_ fun l hl hin => ?_
    · rw [hxa] at ho
      simp only [hxd, hxa]
      rw [hact]
      refine (c.known_of s x _ _ _ ho).trans ?_
      rfl
    rw [laneIn_maskOf _ hl, Bool.and_eq_true, decide_eq_true_eq] at hin
    rw [laneIn, BitVec.getLsbD_shiftLeft, BitVec.getLsbD_setWidth, show l - 64 * x.xs = l % 64 by omega]
    simp [hl, show ¬l < 64 * x.xs by omega, show l % 64 < 256 by omega]
  · obtain ⟨v, hlanes, hvec⟩ := c.vec_byLane (s := s) (x := x) (fun l => (if laneIn (r.pred p) l then 1 else 0, 0)) hd
    exact ⟨v, hlanes, issueX_ends_of hi (by simp only [hxd, hxa]; exact hvec)⟩
  · exact issueX_ends_of hi (by simp only [hxd, hxa]; exact c.toS_of s d _ hd)
  · exact issueX_ends_of hi (by simp only [h0]; rfl)
  · exact issueX_ends_of hi (by simp only [h1]; rfl)
  · obtain ⟨k, hk⟩ := Nat.exists_eq_add_of_le' h2
    exact issueX_ends_of hi (by simp only [hk]; exact (c.known_of s x _ _ _ ho).trans rfl)
  · exact issueX_ends_of hi (c.toS_of s _ _ hd)
  · exact issueX_ends_of hi (c.toS_of s _ _ hd)

end Sys2Proof.Machine
end

section
/-! PROOFS. Pendants and shapes (R205 to R207). -/

namespace Sys2Proof.Machine

open Sys2Proof

theorem VShape.src_known {sh : VShape} (h : ∀ k f, sh ≠ .p k f) : ∃ o, sh.src = .known o := by
  cases sh with
  | p k f => exact absurd rfl (h k f)
  | u | a | g => exact ⟨_, rfl⟩

section
variable {s : State} {c : Ic} {x : Opnds} {a : Off} (hi : s.issuer = some c)
  (ho : c.offs x [(x.a, x.t.is64)] = some [a]) (hb : c.st.busy x.d x.t.is64 = false)
  (hd : c.freeV x.d.vnum x.t.is64 (c.act x))
include hi ho hb hd

/-- What VSHAPE writes: the named shape over all lanes, lane by lane over some of them. -/
theorem execVshape_of (u : Off) (hu : u = if decide (c.act x = fullMask) then shapeOff x.sel (lowLane c.sp.mask) a else
      .g (lanes256.map fun l => if laneIn (c.act x) l then (shapeOff x.sel (lowLane c.sp.mask) a).at l
        else (c.old x.d.vnum x.t.is64).at l)) :
    exec (.vshape x) s = c.ends s x.len (s.putRegs c (c.regs.writeV x.d.vnum x.t.is64 u)) := by
  obtain ⟨-, hblocks, hover⟩ := hd
  subst hu
  refine issueX_ends_of hi ((c.known_of s x _ _ _ ho).trans ?_)
  dsimp only
  rw [if_neg (by rw [hb]; decide), if_neg (by rw [hblocks]; decide)]
  exact if_neg (by rw [hover]; decide)

end

/-- Settles O23: each instruction describes or shapes its register as it stands. -/
theorem shapeResults : Obligations.ShapeResults := by
  intro s c x a hi r
  refine ⟨fun hd => ⟨fun n hx => ?_, fun n hx => ?_, issueX_ends_of hi (c.toS_of s _ _ hd)⟩, fun n hx hp => ?_, fun n hx hp => ?_,
    fun hx hsyms => ?_, fun ho hb hd => ⟨fun hfull => ?_, fun hpart => ⟨_, fun l hl => ?_, execVshape_of hi ho hb hd _
      (if_neg (by simpa using hpart)).symm⟩⟩⟩
  · refine issueX_ends_of hi ?_
    simp only [hx, r]
    cases (c.regs.vreg n).shape <;> exact c.toS_of s _ _ hd
  · refine issueX_ends_of hi ?_
    simp only [hx, r, Regs.readS]
    cases mapGet (SReg.val 0) c.regs.s n <;> exact c.toS_of s _ _ hd
  · obtain ⟨o, ho⟩ := VShape.src_known hp
    refine issueX_ends_of hi ?_
    simp only [hx]
    rw [ho]
  · refine issueX_ends_of hi ?_
    simp only [hx]
    exact if_neg (by rw [show c.regs.spend n = false from hp]; decide)
  · refine issueX_ends_of hi ?_
    simp only [hx]
    exact if_pos (by rw [hsyms]; rfl)
  · exact execVshape_of hi ho hb hd _ (if_pos (by simpa using hfull)).symm
  · rw [Off.at_g, lanes256_getD _ l hl]

end Sys2Proof.Machine
end

section
/-! PROOFS. Control flow: branches, divergence, reconvergence and exit (R26, R31 to R33, R139, R176 to R178). -/

namespace Sys2Proof.Machine

open Sys2Proof

/-! ## What updates keep -/

/-- What each step of a fold keeps, the fold keeps. -/
theorem foldl_keeps {σ α β : Type} (g : σ → β) {f : σ → α → σ} (h : ∀ s a, g (f s a) = g s) (l : List α) (s : σ) :
    g (l.foldl f s) = g s := by
  induction l generalizing s with
  | nil => rfl
  | cons a t ih => exact (ih (f s a)).trans (h s a)

/-- What a change of a strand keeps of every strand, every strand keeps. -/
theorem State.onStrand_keeps {β : Type} (g : Strand → β) {f : Strand → Strand} (h : ∀ st, g (f st) = g st) (s : State) (k j : Nat) :
    ((s.onStrand k f).strand? j).map g = (s.strand? j).map g := by
  by_cases hj : j = k
  · subst hj
    rw [State.strand?_onStrand_same, Option.map_map]
    exact congrArg (fun p => (s.strand? j).map p) (funext h)
  · rw [State.strand?_onStrand_other s k j f hj]

theorem State.onStrands_keeps {β : Type} (g : Strand → β) {f : Strand → Strand} (h : ∀ st, g (f st) = g st) (s : State)
    (keys : List Nat) (j : Nat) : ((s.onStrands keys f).strand? j).map g = (s.strand? j).map g :=
  foldl_keeps (fun s : State => (s.strand? j).map g) (fun s k => s.onStrand_keeps g h k j) keys s

theorem State.tryBars_keeps {β : Type} (g : Strand → β) (h : ∀ st b, g (Strand.releaseBar st b) = g st) (s : State) (wg j : Nat) :
    ((s.tryBars wg).strand? j).map g = (s.strand? j).map g := by
  refine foldl_keeps (fun s : State => (s.strand? j).map g) (fun s k => ?_) _ s
  unfold State.tryBar
  split
  · rfl
  · dsimp only
    split
    · exact s.onStrands_keeps g (fun st => h st _) _ j
    · rfl

theorem State.cbarArrive_keeps {β : Type} (g : Strand → β) (h : ∀ st b, g (Strand.releaseBar st b) = g st) (s : State) (key k j : Nat) :
    ((s.cbarArrive key k).strand? j).map g = (s.strand? j).map g := by
  unfold State.cbarArrive
  split
  · rfl
  · dsimp only
    split
    · split
      · exact s.onStrands_keeps g (fun st => h st _) _ j
      · rfl
    · rfl

/-! ## Accesses of the device leave the strands -/

@[simp] theorem State.setCells_strands (s : State) (p : Place) (m : List Host.Cell) : (s.setCells p m).strands = s.strands := by
  cases p <;> rfl

@[simp] theorem State.touch_strands (s : State) (ent : Nat) (acc : Access) : (s.touch ent acc).strands = s.strands :=
  s.setCells_strands .flostra _

@[simp] theorem State.farSeen_strands (s : State) (part : Nat) (l : List FarReq) : (s.farSeen part l).strands = s.strands :=
  foldl_keeps State.strands (fun s r => by split <;> rfl) l s

@[simp] theorem State.seen_strands (s : State) (part va n : Nat) : (s.seen part va n).strands = s.strands := by
  refine foldl_keeps State.strands (fun s i => ?_) _ s
  dsimp only
  split
  · split <;> simp
  · rfl

@[simp] theorem State.seenAll_strands (s : State) (part : Nat) (l : List Nat) (n : Nat) : (s.seenAll part l n).strands = s.strands :=
  foldl_keeps State.strands (fun s _ => s.seen_strands part _ n) l s

@[simp] theorem State.vwrite_strands (s : State) (part va n v : Nat) : (s.vwrite part va n v).strands = s.strands := by
  unfold State.vwrite
  split
  · dsimp only
    split
    · exact State.touch_strands _ _ _
    · exact (State.touch_strands _ _ _).trans (s.setCells_strands _ _)
  · rfl

@[simp] theorem State.vfields_strands (s : State) (part a : Nat) (l : Fields) : (s.vfields part a l).strands = s.strands :=
  foldl_keeps State.strands (fun s _ => s.vwrite_strands part _ _ _) l s

@[simp] theorem State.putSpilled_strands (s : State) (part : Nat) (x : Ctx) (was now : List Entry) :
    (s.putSpilled part x was now).strands = s.strands :=
  foldl_keeps State.strands (fun s e => by split <;> simp) _ s

theorem State.strand?_congr {s t : State} (h : t.strands = s.strands) (k : Nat) : t.strand? k = s.strand? k := by
  rw [State.strand?, State.strand?, h]

theorem Ic.deviceReadsAll_of {c : Ic} {s : State} {l : List Nat} {n : Nat} (h : (s.seenAll c.st.part l n).far.ask = [])
    (k : State → Act) : c.deviceReadsAll s l n k = k (s.seenAll c.st.part l n) := by
  cases l with
  | nil => rfl
  | cons a t => exact if_pos (by rw [h]; rfl)

/-! ## Exit (R26) -/

/-- Giving a strand a settled context keeps what does not look at the context. -/
theorem State.settleWith_keeps {β : Type} (g : Strand → β) (h : ∀ st x, g { st with ctx := x } = g st) (s : State) (c : Ic) (x : Ctx)
    (was mem : List Entry) (joiner : Option Nat) (j : Nat) :
    ((s.settleWith c x was mem joiner).strand? j).map g = (s.strand? j).map g :=
  (State.onStrand_keeps g (fun st => h st _) _ _ j).trans
    (congrArg (Option.map g) (State.strand?_congr (s.putSpilled_strands _ _ _ _) j))

/-- The exited lanes and the phase of a strand of which lanes exit (R26). -/
theorem State.exitLanes_exited {s : State} {c : Ic} (hst : s.strand? c.key = some c.st) (b : Mask) (pc : VAddr) :
    ((s.exitLanes c b pc).strand? c.key).map (fun st => (st.exited, st.phase)) =
      some (c.st.exited ||| (c.sp.mask &&& b),
        if c.st.exited ||| (c.sp.mask &&& b) == BitVec.allOnes 256 then .exited else c.st.phase) := by
  have hrelease : ∀ (st : Strand) (w : BarWait), ((st.releaseBar w).exited, (st.releaseBar w).phase) = (st.exited, st.phase) :=
    fun _ _ => rfl
  unfold State.exitLanes
  dsimp only
  rw [foldl_keeps (fun s : State => (s.strand? c.key).map fun st => (st.exited, st.phase))
    (fun s k => s.cbarArrive_keeps _ hrelease c.key k c.key), State.tryBars_keeps _ hrelease, State.strand?_onStrand_same, Option.map_map]
  have hsettled := s.settleWith_keeps (fun st => (st.exited, st.phase)) (fun _ _ => rfl) c
    { c.st.ctx with
      splits := c.st.ctx.splits.set c.slot
        (if c.sp.mask &&& ~~~b == 0 then Split.empty else { c.sp.advance pc with mask := c.sp.mask &&& ~~~b })
      stack := c.st.ctx.stack.map (Entry.drop · b) }
    (s.spilled c.st.part c.st.ctx) ((s.spilled c.st.part c.st.ctx).map (Entry.drop · b)) none c.key
  rw [hst] at hsettled
  obtain ⟨st, hfound, hkept⟩ := Option.map_eq_some_iff.mp hsettled
  rw [hfound]
  simp only [Prod.mk.injEq] at hkept
  simp only [Option.map_some, Function.comp, hkept.1, hkept.2]

/-! ## Targets -/

/-- An issuing split's act, brought to its end. -/
theorem issue_of {s : State} {c : Ic} {len : Nat} {f : Ic → Act} {act : Act} (hi : s.issuer = some c) (hf : f c = act) :
    issue s len f = .next (s.conclude c len act) := by
  rw [issue_some s len f c hi, hf]

theorem farTarget_eq_false {t : DWord} (h : t.toNat < 2 ^ 57) : farTarget t = false := decide_eq_false (Nat.not_le.mpr h)

theorem Ic.branch_of {c : Ic} {s : State} {off : DWord} (h : (target c.sp.pc off).toNat < 2 ^ 57) :
    c.branch s off = .jump s ((target c.sp.pc off).setWidth 57) :=
  if_neg (by rw [farTarget_eq_false h]; decide)

theorem Ic.branchTo_of {c : Ic} {s : State} {a : DWord} (h : a.toNat < 2 ^ 57) (h4 : a.toNat % 4 = 0) :
    c.branchTo s a = .jump s (a.setWidth 57) :=
  (if_neg (by rw [farTarget_eq_false h]; decide)).trans (if_neg (not_not.mpr h4))

/-- A target within the address space is the sum (R139). -/
theorem toNat_target (pc : VAddr) {off : Int} (h0 : 0 ≤ (pc.toNat : Int) + 4 * off) (h : (pc.toNat : Int) + 4 * off < 2 ^ 57)
    (hlo : -(2 ^ 63) ≤ off) (hhi : off < 2 ^ 63) : ((target pc (.ofInt 64 off)).toNat : Int) = pc.toNat + 4 * off := by
  have hoff : (BitVec.ofInt 64 off).toInt = off := by
    rw [BitVec.toInt_ofInt]
    exact Int.bmod_eq_of_le (by simpa using hlo) (by simpa using hhi)
  rw [target, hoff]
  rw [if_pos h0, BitVec.toNat_ofNat]
  omega

/-- Settles O24: a branch goes to its target or on, and EXIT lets lanes leave. -/
theorem branchResults : Obligations.BranchResults := by
  constructor
  · intro s c x hi at' goesTo goesOn link
    have jump {len : Nat} {f : Ic → Act} {u : State} {pc : VAddr} (hf : f c = .jump u pc) :
        issue s len f = .next (s.conclude c len (.jump u pc)) := issue_of hi hf
    have on {len : Nat} {f : Ic → Act} {u : State} (hf : f c = .done u) : issue s len f = .next (goesOn len u) := issue_of hi hf
    refine ⟨fun off ht => jump (Ic.branch_of ht), fun q neg off => ⟨fun hq ht => jump ((if_pos hq).trans (Ic.branch_of ht)),
      fun hq => on (if_neg (by rw [hq]; decide))⟩, ⟨fun ht => ⟨jump (Ic.branch_of ht), fun hq =>
      jump ((if_pos hq).trans (Ic.branch_of ht)), fun hb => jump ?_, fun v hv hne => jump ?_⟩, fun hq =>
      on (if_neg (by rw [hq]; decide)), fun hv => on ?_⟩, fun a ha h4 ht => ⟨?_, ?_, fun hb => ?_⟩, fun off h0 h hlo hhi =>
      toNat_target _ h0 h hlo hhi⟩
    · refine (if_neg (by rw [hb]; decide)).trans ?_
      rw [Ic.branch_of ht]
      rfl
    · obtain ⟨k, hk, rfl⟩ := c.offs_of_scalar hv
      refine (c.known_of s x _ _ _ hk).trans ((if_neg ?_).trans ?_)
      · exact fun h0 => hne (by rw [← sub_eq_zero]; exact h0)
      · rw [Ic.branch_of ht]
        rfl
    · obtain ⟨k, hk, hk1⟩ := c.offs_of_scalar hv
      refine (c.known_of s x _ _ _ hk).trans ((if_pos ?_).trans ?_)
      · change k.at 0 - 1 = 0
        rw [hk1]
        rfl
      · change Act.done (s.putRegs c (c.regs.setS x.d.snum (k.at 0 - 1))) = _
        rw [hk1]
        rfl
    all_goals obtain ⟨k, hk, rfl⟩ := c.offs_of_scalar ha
    · exact jump ((c.known_of s x _ _ _ hk).trans (Ic.branchTo_of ht h4))
    · exact jump ((c.known_of s x _ _ _ hk).trans (Ic.branchTo_of ht h4))
    · refine jump ((c.known_of s x _ _ _ hk).trans ((if_neg (by rw [hb]; decide)).trans ?_))
      change (c.branchTo s (k.at 0)).onJump _ = _
      rw [Ic.branchTo_of ht h4]
      rfl
  · intro s c x hi u hask
    have hst : u.strand? c.key = some c.st :=
      (State.strand?_congr (s.seenAll_strands _ _ _) c.key).trans (s.issuer_spec c hi).2.1
    refine ⟨issue_of hi (Ic.deviceReadsAll_of hask _), issue_of hi (Ic.deviceReadsAll_of hask _), fun st hfound => ?_⟩
    · have hexit := State.exitLanes_exited hst (c.act x) (c.nextPc x.len)
      rw [hfound, Option.map_some, Option.some.injEq, Prod.mk.injEq] at hexit
      refine ⟨hexit.1, fun hall => ?_⟩
      rw [hexit.2, hall]
      rfl

/-! ## Divergence and reconvergence -/

/-- Settles O25: BRD, JOIN and BRK choose by the paths with lanes, the deferred path and the free slots. -/
theorem divergeResults : Obligations.DivergeResults := by
  refine ⟨?_, ?_, ?_⟩
  · intro s c x hi hroom ctx lit t j p taken fall next e here hj
    have start {act : Act} (hfar : taken ≠ 0 → t.toNat < 2 ^ 57)
        (hact : (if taken == 0 then .jump (s.putCtx c { ctx with stack := ctx.stack ++ [e] }) next
          else if fall == 0 then .jump (s.putCtx c { ctx with stack := ctx.stack ++ [e] }) (t.setWidth 57)
          else match freeSplit ctx.splits with
            | some k => .stay (s.putCtx c
              { ctx with splits := (ctx.splits.set c.slot here).set k (Split.empty.path next fall)
                         stack := ctx.stack ++ [{ e with pending := 2 }] })
            | none => .stay (s.putCtx c
              { ctx with splits := ctx.splits.set c.slot here
                         stack := ctx.stack ++ [{ e with pending := 2, deferred := some (next, fall) }] })) = act) :
        exec (.brd x) s = .next (s.conclude c x.len act) := by
      have hnear : (farTarget j || (taken != 0 && farTarget t)) = false := by
        rw [farTarget_eq_false hj, Bool.false_or]
        by_cases h0 : taken = 0
        · rw [h0]
          rfl
        · rw [farTarget_eq_false (hfar h0), Bool.and_false]
      subst hact
      exact issueX_of hi ((if_neg (Nat.not_le.mpr hroom)).trans ((if_neg (by rw [hnear]; decide)).trans rfl))
    refine ⟨fun h0 => start (fun h => absurd h0 h) (if_pos (by rw [h0]; rfl)), fun h0 ht => ⟨fun hf0 => ?_, fun hf0 => ⟨fun k hk => ?_,
      fun hk => ?_⟩⟩⟩
    all_goals refine start (fun _ => ht) ((if_neg (by simpa using h0)).trans ?_)
    · exact if_pos (by rw [hf0]; rfl)
    · refine (if_neg (by simpa using hf0)).trans ?_
      rw [hk]
    · refine (if_neg (by simpa using hf0)).trans ?_
      rw [hk]
  · intro s c x i e hi htop hget hpc ctx e'
    refine ⟨fun pc m hdef => issueX_of hi ?_, fun hdef hask => issueX_of hi ?_⟩
    all_goals
      simp only [htop, hget, hdef]
      refine (if_neg (not_not.mpr hpc)).trans ?_
    · rfl
    · refine (Ic.deviceReadsAll_of hask _).trans ?_
      simp only [e', hdef]
      rfl
  · intro s c x hi ctx b n cov t rest nobody stack
    refine ⟨fun hb => issueX_of hi (if_pos (beq_iff_eq.mpr hb)), fun hb hn ht hask => ⟨fun hr => issueX_of hi ?_,
      fun k hr hk => issueX_of hi ?_⟩⟩
    all_goals
      refine (if_neg (mt beq_iff_eq.mp hb)).trans ((if_neg (Nat.not_lt.mpr hn)).trans ((if_neg fun hstuck => ?_).trans ((if_neg
        (ne_true_of_eq_false (farTarget_eq_false ht))).trans ((Ic.deviceReadsAll_of hask _).trans ?_))))
    · exact bne_iff_ne.mp (Bool.and_eq_true_iff.mp (Bool.and_eq_true_iff.mp hstuck).1).1 hr
    · exact if_pos (beq_iff_eq.mpr hr)
    · have hslot : (if rest == 0 then none else freeSplit ctx.splits) = some k := (if_neg (mt beq_iff_eq.mp hr)).trans hk
      have hnone : (if rest == 0 then none else freeSplit ctx.splits).isNone = true :=
        (Bool.and_eq_true_iff.mp (Bool.and_eq_true_iff.mp hstuck).1).2
      rw [hslot] at hnone
      exact Bool.false_ne_true hnone
    · have hslot : (if rest == 0 then none else freeSplit ctx.splits) = some k := (if_neg (mt beq_iff_eq.mp hr)).trans hk
      refine (if_neg (mt beq_iff_eq.mp hr)).trans ?_
      dsimp only
      split
      next e =>
        cases e.symm.trans hslot
        rfl
      next e => exact absurd (e.symm.trans hslot) nofun

end Sys2Proof.Machine
end

section
/-! PROOFS. System instructions: time, identity, control registers, traps, the mailbox and images (R165 to R175). -/

namespace Sys2Proof.Machine

open Sys2Proof

/-- A per-lane write that an act comes to. -/
theorem writes_of_act {s : State} {c : Ic} {x : Opnds} {i : Instr} {f : Ic → Act} {n : Nat} {w : Bool} {ops : List (Opnd × Bool)}
    {o : VecOp} {offs : List Off} (hi : s.issuer = some c) (hx : exec i s = issueX s x f) (hf : f c = c.vec s x n w ops o)
    (hd : c.freeV n w (c.act x)) (ho : c.offs x ops = some offs) (hl : o.perLane = false → ∀ l vs, o.f l vs = o.f 0 vs)
    (ha : ∀ r, o.aff offs = some r → ∀ l < 256, r.at l = (o.f l (offs.map fun k => k.at l)).1 ∧
      (o.f l (offs.map fun k => k.at l)).2 = 0) : c.writesLanes s i x.len n w (c.act x) offs o.f := by
  obtain ⟨hlanes, hflags⟩ := o.result_lanes (c.act x) (c.old n w) offs hl ha
  refine ⟨_, hlanes, hx.trans ?_⟩
  rw [← hflags]
  exact issueX_ends_of hi (hf.trans (c.vec_of s x n w ops o offs ho hd))

/-! ## Control registers -/

section
variable {s : State} {c : Ic} {x : Opnds} (hi : s.issuer = some c)
include hi

omit hi in
theorem Ic.flagsIn_of {k : Act} (hsyms : c.st.flagSyms = []) (hops : c.st.ops.any Op.raises = false) : c.flagsIn s k = k :=
  (if_neg (by rw [hsyms]; decide)).trans (if_neg (by rw [hops]; decide))

theorem execCsrw_of {a : DWord} (hw : c.mayWriteCsr x.c.rawNum = true) (ha : c.scalars x [x.a] = some [a]) :
    exec (.csrw x) s = c.ends s x.len (s.csrWrite c x.c.rawNum a) := by
  obtain ⟨k, hk, rfl⟩ := c.offs_of_scalar ha
  exact issueX_ends_of hi ((if_neg (by rw [hw]; decide)).trans (c.known_of s x _ _ _ hk))

theorem execMode_of {a : DWord} (ha : c.scalars x [x.a] = some [a]) {act : Act}
    (hact : (match x.d with
      | .s n => c.flagsIn s (if c.st.busy x.d false then .wait s .scoreboard
          else .done ((s.onStrand c.key fun st => st.onCtx fun y => { y with mode := modeField c.st.ctx.mode x.sel a }).putRegs c
            (c.regs.setS n c.st.ctx.mode)))
      | _ => .done (s.onStrand c.key fun st => st.onCtx fun y => { y with mode := modeField c.st.ctx.mode x.sel a })) = act) :
    exec (.mode x) s = .next (s.conclude c x.len act) := by
  obtain ⟨k, hk, rfl⟩ := c.offs_of_scalar ha
  refine issueX_of hi ((c.known_of s x _ _ _ hk).trans ?_)
  rw [← hact]
  rfl

end

/-- Settles O26: each instruction gives the value or makes the write that its row names. -/
theorem systemResults : Obligations.SystemResults := by
  constructor
  · intro s c x a hi put
    refine ⟨issueX_ends_of hi rfl, fun d p q => issue_of hi rfl, fun hd => issueX_ends_of hi (c.toS_of s _ _ hd), fun ha => ?_, ?_,
      fun n hx hd => ?_, fun n hx hd hp => ?_, fun hd ha => ⟨fun hnum => ?_, fun i cls inst hnum hown hfree => ?_⟩⟩
    · obtain ⟨k, hk, rfl⟩ := c.offs_of_scalar ha
      exact issueX_ends_of hi (c.known_of s x _ _ _ hk)
    · rw [exec_yield, execYield, hi]
    · refine issueX_ends_of hi ?_
      simp only [hx]
      exact c.toS_of s _ _ hd
    · have hact : c.act x = c.sp.mask := by rw [Ic.act, hp]
      rw [← hact] at hd ⊢
      exact writes_of_act hi (ops := []) (o := { f := fun _ _ => (s.idq c x.sel, 0) }) (exec_idq s) (by simp only [hx]) hd rfl (fun _ _ _ => rfl)
        (by simp)
    · obtain ⟨k, hk, rfl⟩ := c.offs_of_scalar ha
      refine issueX_ends_of hi ((c.known_of s x _ _ _ hk).trans ?_)
      simp only [List.getD_cons_zero, hnum]
      exact c.toS_of s _ _ hd
    · obtain ⟨k, hk, rfl⟩ := c.offs_of_scalar ha
      refine issueX_ends_of hi ((c.known_of s x _ _ _ hk).trans ?_)
      simp only [List.getD_cons_zero, hnum]
      refine (if_neg ?_).trans ((if_neg (by rw [hfree]; decide)).trans (c.toS_of s _ _ hd))
      rintro ⟨h0, h1, hpriv⟩
      rcases hown with h | h | h
      · exact h0 h
      · exact h1 h
      · rw [h] at hpriv
        cases hpriv
  · intro s c x a hi n ctx m still
    refine ⟨fun hr hd hstill => issueX_ends_of hi ((if_neg (by rw [hr]; decide)).trans ?_), fun hw ha => ?_, fun ha => ?_⟩
    · dsimp only
      split
      · next h0 => exact (Ic.flagsIn_of (hstill h0).1 (hstill h0).2).trans (c.toS_of s _ _ hd)
      · exact c.toS_of s _ _ hd
    · have hwrite := execCsrw_of hi hw ha
      refine ⟨hwrite, ?_, ?_, ?_, ?_, ?_⟩
      all_goals
        intro hn
        rw [hwrite, show x.c.rawNum = _ from hn]
        rfl
    · refine ⟨fun hx => ?_, fun d hx hstill hb => ?_, fun h0 => ?_, fun h4 => ?_⟩
      · exact execMode_of hi ha (by simp only [hx, m])
      · refine execMode_of hi ha ?_
        simp only [hx]
        rw [hx] at hb
        exact (Ic.flagsIn_of hstill.1 hstill.2).trans (if_neg (by rw [hb]; decide))
      · rw [h0, modeField]
        dsimp only
        rw [BitVec.shiftLeft_zero]
        rfl
      · rw [h4]
        rfl

/-! ## Traps and their return -/

/-- A strand as an issue of a split at a clock notes it (R25, R28, R445). -/
def Strand.noted (st : Strand) (slot clock : Nat) : Strand :=
  { st with last := slot, lastIssue := clock, watch := 0, watchOff := false,
            phase := if st.phase == .granted then .running else st.phase }

theorem State.noteIssue_strand? (s : State) (key slot : Nat) :
    (s.noteIssue key slot).strand? key = (s.strand? key).map fun st => st.noted slot s.clock.toNat :=
  s.strand?_onStrand_same key fun st => st.noted slot s.clock.toNat

/-- A split stored in its slot. -/
theorem Strand.split_setSplit_same (st : Strand) {i : Nat} (p : Split) (h : i < st.ctx.splits.length) : (st.setSplit i p).split i = p := by
  simp [Strand.split, Strand.setSplit, h]

/-- Settles O27: TRAP traps, HALT halts, and TRET returns to TPC. -/
theorem trapInstructionResults : Obligations.TrapInstructionResults := by
  intro s c x a hi
  refine ⟨fun ha => ?_, fun hp => ⟨issueX_ends_of hi (if_pos hp), fun hr hl => ?_, fun hr hl => issueX_of hi ?_⟩⟩
  · obtain ⟨k, hk, rfl⟩ := c.offs_of_scalar ha
    exact issueX_of hi (c.known_of s x _ _ _ hk)
  · have hst := (s.issuer_spec c hi).2.1
    have htret : exec (.tret x) s = c.stays s x.len (s.onStrand c.key fun st => st.tret c.slot) := by
      refine issueX_of hi ((if_pos hp).trans ((if_neg (not_not.mpr hr)).trans ?_))
      rw [hl]
    refine ⟨_, (c.st.tret c.slot).noted c.slot s.clock.toNat, htret, ?_, rfl, fun hslot => ?_⟩
    · refine (State.noteIssue_strand? _ _ _).trans ?_
      rw [State.strand?_onStrand_same, hst]
      rfl
    · have h := c.st.split_setSplit_same
        { c.st.split c.slot with st := .ready, pc := .ofNat 57 c.st.ctx.tpc.toNat, stall := .none, words := [],
                                 priv := false, park := none, pass := none, redo := none } hslot
      exact ⟨congrArg Split.st h, congrArg Split.pc h⟩
  · refine (if_pos hp).trans ((if_pos hr).trans ?_)
    rw [hl]

/-! ## The mailbox and the TLB -/

/-- What is left of the TLB of a core after an invalidation (R173). -/
theorem State.tlbInv_tlb (s : State) (part lo hi core : Nat) : ((s.tlbInv part lo hi).core core).tlb =
    (s.core core).tlb.filter fun t => t.part != part || decide (hi ≤ t.va ∨ t.va + pageBytes t.size ≤ lo) := by
  refine (congrArg (fun o => (o.getD CoreSt.reset).tlb) (mapFind_map_key (fun _ (e : CoreSt) => { e with
    tlb := e.tlb.filter fun t => t.part != part || decide (hi ≤ t.va ∨ t.va + pageBytes t.size ≤ lo)
    fails := e.fails.filter fun f => f.req.part != part || decide (hi ≤ f.req.va.toNat ∨ f.req.va.toNat + 65536 ≤ lo) })
    core s.cores)).trans ?_
  rw [State.core, mapGet]
  cases mapFind s.cores core <;> rfl

/-- Settles O28: a privileged split posts, takes a reply, and drops translations. -/
theorem privilegedResults : Obligations.PrivilegedResults := by
  constructor
  · intro s c x a hi hp ha hbox hb
    obtain ⟨k, hk, rfl⟩ := c.offs_of_scalar ha
    have mailbox {act : Act} : c.mailbox s act = act := if_neg hbox
    refine ⟨issueX_ends_of hi ((if_pos hp).trans ((c.known_of s x _ _ _ hk).trans (mailbox.trans (if_neg (by rw [hb]; decide))))),
      fun w hw hposted => issueX_ends_of hi ((if_pos hp).trans ((c.known_of s x _ _ _ hk).trans (mailbox.trans
        ((if_neg (by rw [hb]; decide)).trans ?_))))⟩
    rw [hposted, hw]
    rfl
  · intro s c x a b hi hp
    refine ⟨issueX_ends_of hi (if_pos hp), fun hab => ⟨fun h0 => ?_, fun h0 => ?_⟩, fun part lo hi' core e he => ?_⟩
    · obtain ⟨k, l, hk, rfl, hb⟩ := c.offs_of_scalars hab
      refine issueX_ends_of hi ((if_pos hp).trans ((c.known_of s x _ _ _ hk).trans (congrArg Act.done (if_pos ?_))))
      change (l.at 0).toNat = 0
      rw [hb, h0]
      rfl
    · obtain ⟨k, l, hk, rfl, rfl⟩ := c.offs_of_scalars hab
      refine issueX_ends_of hi ((if_pos hp).trans ((c.known_of s x _ _ _ hk).trans (congrArg Act.done (if_neg ?_))))
      exact fun h => h0 (BitVec.eq_of_toNat_eq h)
    · rw [State.tlbInv_tlb] at he
      simpa using (List.mem_filter.mp he).2

/-! ## Traps of reserved encodings and of privileged instructions -/

/-- Settles O29: the guard of each instruction answers the trap. -/
theorem reservedAndPrivilegeTraps : Obligations.ReservedAndPrivilegeTraps := by
  refine ⟨fun s c code words hi => issue_of hi rfl, ?_⟩
  intro s c x hi trap
  refine ⟨fun hp => ?_, fun hf => issueX_of hi ?_⟩
  · have guarded {f : Ic → Act} {k : Act} (hf : f c = c.privileged k) : issueX s x f = trap :=
      issueX_of hi (hf.trans (if_neg (by rw [hp]; decide)))
    refine ⟨guarded rfl, guarded rfl, guarded rfl, guarded rfl, guarded rfl, guarded rfl, guarded rfl, guarded rfl, guarded rfl,
      guarded rfl, issueX_of hi (if_pos ?_), fun hn => issueX_of hi (if_pos ?_)⟩
    · rw [Ic.mayWriteCsr, hp]
      rfl
    · obtain ⟨h0, h1, hq⟩ := hn
      rw [Ic.mayReadCsr, if_neg (by simpa [h0, h1] using hq), hp]
      rfl
  · refine if_pos ?_
    rw [Ic.mayWriteCsr, hf]
    simp

end Sys2Proof.Machine
end

section
/-! PROOFS. Images of stack entries and of the context (R34, R35, R175, R442, R443). -/

namespace Sys2Proof.Machine

open Sys2Proof

theorem Ic.reachImage_of {c : Ic} {s : State} {acc : Access} {l : List Nat} (hredo : c.sp.redo = none) (h : s.reachesAll c acc l)
    (k : State → List Nat → Act) : c.reachImage s acc l k = k s l := by
  unfold Ic.reachImage
  rw [hredo]
  exact Ic.reachOf_of l _ h

/-- Nothing is due and nothing is left to wait for. -/
theorem Ic.waitOps_nil {c : Ic} {s : State} {left : List Op} (h : left = []) (why : Stall) (k : Act) :
    c.waitOps s [] left why k = k := by
  unfold Ic.waitOps
  rw [List.find?_eq_none.mpr (by simp)]
  exact if_pos (by rw [h]; rfl)

/-- The pages of an image begin with its address (R442). -/
theorem headD_imagePages (a n : Nat) : (imagePages a n).headD a = a := by
  unfold imagePages
  rw [List.range_eq_range', show n / 65536 + 2 = n / 65536 + 1 + 1 from rfl, List.range'_succ, List.filterMap_cons]
  by_cases hn : 0 < n
  · simp [hn]
  · obtain rfl : n = 0 := by omega
    simp only [if_pos, Nat.add_zero, lt_irrefl, if_false]
    suffices h : (List.range' 1 1).filterMap (fun i => if (if i = 0 then a else (a / 65536 + i) * 65536) < a then
        some (if i = 0 then a else (a / 65536 + i) * 65536) else none) = [] by
      simpa using congrArg (fun l => List.headD l a) h
    simp
    omega

/-- A list of addresses by their places in it. -/
theorem getD_map_range {f : Nat → Nat} {n i d : Nat} (h : i < n) : ((List.range n).map f).getD i d = f i := by
  simp [List.getD_eq_getElem?_getD, h]

/-- Settles O30: the guards of each instruction let it through to the images. -/
theorem contextImageResults : Obligations.ContextImageResults := by
  intro s c x a hi hp hredo y n ok out back
  refine ⟨fun ha => ⟨fun h1 hn hok => ?_, ?_⟩, fun hsave => ⟨fun hops hok e he => ?_, ?_⟩⟩
  · obtain ⟨k, hk, rfl⟩ := c.offs_of_scalar ha
    refine issueX_ends_of hi ((if_pos hp).trans ((c.known_of s x _ _ _ hk).trans ((if_neg (not_or.mpr ⟨Nat.not_lt.mpr h1,
      Nat.not_lt.mpr hn⟩)).trans ((Ic.reachImage_of hredo hok _).trans ?_))))
    refine congrArg (fun t : State => Act.done (t.onStrand c.key fun st => st.onCtx fun z => { z with stack := z.stack.drop n })) ?_
    refine List.foldl_ext _ _ s fun t e he => ?_
    have hlt : e.2 < n := by
      have hlen := List.snd_lt_of_mem_zipIdx he
      rw [Nat.add_zero] at hlen
      exact hlen.trans_le (List.length_take_le _ _)
    exact congrArg (fun p => t.vimage c.st.part p 128 e.1.fields) (getD_map_range (f := out) hlt)
  · intro hn hroom hok u hask
    obtain ⟨k, hk, rfl⟩ := c.offs_of_scalar ha
    refine issueX_ends_of hi ((if_pos hp).trans ((c.known_of s x _ _ _ hk).trans ((if_neg (not_or.mpr ⟨Nat.not_lt.mpr hn,
      Nat.not_lt.mpr hroom⟩)).trans ((Ic.reachImage_of hredo hok _).trans ((Ic.deviceReadsAll_of hask _).trans ?_)))))
    refine congrArg (fun es => Act.done (u.onStrand c.key fun st => st.onCtx fun z => { z with stack := es ++ z.stack })) ?_
    refine List.map_congr_left fun i hi => ?_
    exact congrArg (fun p => readEntry (fun o k => u.vread c.st.part (p + o) k) 0) (getD_map_range (f := back) (List.mem_range.mp hi))
  · have hnone : (c.st.ops.filter fun o => o.sym.isNone && (o.cls == .ld || o.cls == .st)) = [] := by
      rw [List.filter_eq_nil_iff]
      intro o ho
      have := List.all_eq_true.mp hops o ho
      cases hs : o.sym <;> cases hc : o.cls <;> simp_all
    refine issueX_ends_of hi ((if_pos hp).trans ((Ic.waitOps_nil hnone _ _).trans ((if_neg hsave).trans
      ((Ic.reachImage_of hredo hok _).trans ?_))))
    dsimp only
    rw [he, headD_imagePages] <;> rfl
  · intro u hsyms hok hask hlog
    refine issueX_ends_of hi ((if_pos hp).trans ((if_neg (by rw [hsyms]; decide)).trans ((if_neg hsave).trans
      ((Ic.reachImage_of hredo hok _).trans ?_))))
    dsimp only
    rw [headD_imagePages, Ic.deviceReads_of hask]
    exact if_neg (not_not.mpr hlog)

end Sys2Proof.Machine
end

section
/-! PROOFS. Memory instructions at issue: loads, stores and atomics with nothing in their way (R210 to R221). -/

namespace Sys2Proof.Machine

open Sys2Proof

/-! ## Lanes that all translate -/

/-- A lane all of whose addresses translate joins those sorted as `ok`. -/
theorem sortLanes_cons_of_ok {f : DWord → TrRes} {ex : DWord → List DWord} {l : Nat} {v : DWord} {ls : List LaneAddr}
    {ok : List (Nat × DWord × Tr)} (hv : ok.map (fun e => (e.1, e.2.1)) = (ex v).map fun u => (l, u))
    (h : ∀ e ∈ ok, f e.2.1 = .ok e.2.2) :
    sortLanes ((l, v) :: ls) ex f = { sortLanes ls ex f with ok := ok ++ (sortLanes ls ex f).ok } := by
  have hex : ex v = ok.map fun e => e.2.1 := by
    have := congrArg (List.map Prod.snd) hv
    simpa [Function.comp_def] using this.symm
  have hl : ∀ e ∈ ok, e.1 = l := fun e he => by
    have : (e.1, e.2.1) ∈ (ex v).map fun u => (l, u) := hv ▸ List.mem_map_of_mem he
    obtain ⟨u, -, hu⟩ := List.mem_map.mp this
    exact (congrArg Prod.fst hu).symm
  have hrs : (ex v).map (fun u => (u, f u)) = ok.map fun e => (e.2.1, TrRes.ok e.2.2) := by
    rw [hex, List.map_map]
    exact List.map_congr_left fun e he => congrArg (Prod.mk e.2.1) (h e he)
  have hok : ok.map (fun e => (l, e.2.1, e.2.2)) = ok :=
    (List.map_congr_left fun e he => by rw [← hl e he]; rfl).trans (List.map_id ok)
  have hnone : (ok.findSome? fun _ => (none : Option (DWord × WalkErr))) = none := List.findSome?_eq_none_iff.mpr fun _ _ => rfl
  unfold sortLanes
  rw [List.foldr_cons]
  dsimp only
  rw [hrs]
  simp [List.filterMap_map, List.findSome?_map, Function.comp_def, hok, hnone]

/-- Lanes all of whose addresses translate are sorted as `ok`, in their order. -/
theorem sortLanes_of_ok {f : DWord → TrRes} {ex : DWord → List DWord} :
    ∀ {ls : List LaneAddr} {ok : List (Nat × DWord × Tr)},
      ok.map (fun e => (e.1, e.2.1)) = ls.flatMap (fun e => (ex e.2).map fun u => (e.1, u)) →
      (∀ e ∈ ok, f e.2.1 = .ok e.2.2) → sortLanes ls ex f = { ok := ok, fail := [], miss := [] }
  | [], ok, hls, _ => by
    rw [List.flatMap_nil, List.map_eq_nil_iff] at hls
    rw [hls]
    rfl
  | (l, v) :: ls, ok, hls, h => by
    rw [List.flatMap_cons, List.map_eq_append_iff] at hls
    obtain ⟨here, rest, rfl, hhere, hrest⟩ := hls
    have htail := sortLanes_of_ok hrest fun e he => h e (List.mem_append_right here he)
    rw [sortLanes_cons_of_ok hhere fun e he => h e (List.mem_append_left rest he), htail]

/-- A memory instruction whose lanes all translate, with room for it and nothing in its way, performs for all of them. -/
theorem Ic.memIssue_of {c : Ic} {s : State} {m : MemAct} {ok : List (Nat × DWord × Tr)} (hfull : c.st.full m.cls = false)
    (hsort : sortLanes m.lanes m.expand (fun v => m.judge (c.trLane s m.space m.a m.acc v)) = { ok := ok, fail := [], miss := [] })
    (hlate : m.acc = .write → c.st.lateHits m.space ok (m.ranges ok) = [])
    (hroom : s.sectorsFit (coreOf c.key) (m.ranges ok) = true)
    (hscan : m.reads = true → s.eccScan c.st.part m.bytes (m.scan ok) = (s, [], 0, 0)) (hne : ok = [] → m.lanes = []) :
    c.memIssue s m = .done (m.perform (s.touchAll c.st.part m.acc m.space ok) ok) := by
  have hl : (if m.acc = .write then c.st.lateHits m.space ok (m.ranges ok) else []) = [] := by
    split <;> simp_all
  have hs : (if m.reads then s.eccScan c.st.part m.bytes (m.scan ok) else (s, [], 0, 0)) = (s, [], 0, 0) := by
    split <;> simp_all
  have hp : (m.lanes.isEmpty || !ok.isEmpty) = true := by
    cases ok <;> simp_all
  unfold Ic.memIssue
  rw [if_neg (by rw [hfull]; decide)]
  simp only [hsort, hl, hs, hp, List.isEmpty_nil, Bool.not_true, Bool.false_eq_true, if_false, if_true]
  exact c.sectorRoom_of hroom _

/-- A plain access that nothing keeps from its issue performs for all its lanes. -/
theorem Ic.memIssue_clear {c : Ic} {s : State} {m : MemAct} {ok : List (Nat × DWord × Tr)}
    (h : c.clear s m.space m.a m.acc m.bytes m.cls m.reads m.lanes ok) (hexpand : m.expand = fun v => [v])
    (hscan : m.scan = accsOf) (hjudge : m.judge = fun r => r.plain m.bytes)
    (hranges : m.ranges ok = plainRanges ok m.bytes (m.acc == .write)) :
    c.memIssue s m = .done (m.perform (s.touchAll c.st.part m.acc m.space ok) ok) := by
  obtain ⟨_, hfull, _, ⟨hlanes, htr⟩, hlate, hroom, hecc⟩ := h
  refine Ic.memIssue_of hfull ?_ ?_ (hranges ▸ hroom) (hscan ▸ hecc) ?_
  · rw [hexpand, hjudge, ← hlanes]
    exact sortLanes_of_ok (by simp) htr
  · intro hw
    rw [hranges, hw]
    exact hlate hw
  · rintro rfl
    exact hlanes.symm

/-- The bytes that a plain access's operation names are those that its lanes touch. -/
theorem load_ranges (ok : List (Nat × DWord × Tr)) (t : Ty) (d : Dst) :
    (OpBody.load (accsOf ok) t d).ranges = plainRanges ok t.bytes false := by
  simp [OpBody.ranges, OpBody.spots, accsOf, plainRanges]

theorem store_ranges (ok : List (Nat × DWord × Tr)) (t : Ty) (l : List DWord) :
    (OpBody.store (accsOf ok) t l).ranges = plainRanges ok t.bytes true := by
  simp [OpBody.ranges, OpBody.spots, accsOf, plainRanges]

theorem atomic_ranges (ok : List (Nat × DWord × Tr)) (op : AtmOp) (t : Ty) (v e : List DWord) (nr : Bool) (d : Nat) :
    (OpBody.atomic (accsOf ok) op t v e nr d).ranges = plainRanges ok t.bytes true := by
  simp [OpBody.ranges, OpBody.spots, accsOf, plainRanges]

/-- A read sets no D bit. -/
theorem State.touchAll_read (s : State) (part : Nat) (sp : Space) (ok : List (Nat × DWord × Tr)) :
    s.touchAll part .read sp ok = s := if_pos (by simp)

/-! ## A first issue -/

theorem Ic.firstIssue_of {c : Ic} {check : Option Act} (h : check = none) (k : Act) : c.firstIssue check k = k := by
  unfold Ic.firstIssue
  rw [h]
  cases c.sp.redo <;> rfl

theorem Ic.firstIssue_some {c : Ic} {a : Act} (h : c.sp.redo = none) (k : Act) : c.firstIssue (some a) k = a := by
  unfold Ic.firstIssue
  rw [h]

theorem Ic.memLanes_of {c : Ic} (h : c.sp.redo = none) (whole : Bool) (l : List LaneAddr) : c.memLanes whole l = l := by
  unfold Ic.memLanes
  rw [h]

theorem Ic.memData_of {c : Ic} (h : c.sp.redo = none) (l : List DWord) : c.memData l = l := by
  unfold Ic.memData
  rw [h]

theorem Ic.memData2_of {c : Ic} (h : c.sp.redo = none) (l : List DWord) : c.memData2 l = l := by
  unfold Ic.memData2
  rw [h]

/-! ## Destinations of loads -/

theorem Ic.loadDest_s {c : Ic} {n : Nat} (h : c.freeS n) (s : State) (full : Bool) (k : Regs → Act) :
    c.loadDest s (.s n) full k = k c.regs := if_neg (ne_true_of_eq_false h)

/-- A free vector destination takes shape G with the lanes that it holds (R91). -/
theorem Ic.loadDest_v {c : Ic} {n : Nat} {w : Bool} {act : Mask} (h : c.freeV n w act) (s : State) (k : Regs → Act) :
    c.loadDest s (.v n w) (decide (act = fullMask)) k = k (c.regs.writeV n w (.g (c.old n w).lanes)) := by
  obtain ⟨hbusy, hblock, hroom⟩ := h
  exact (if_neg (ne_true_of_eq_false hbusy)).trans <| (if_neg (ne_true_of_eq_false hblock)).trans <|
    if_neg (ne_true_of_eq_false (hroom _))

/-- A load that is not .late reserves its destination and issues as a plain access. -/
theorem Ic.loadIssue_plain {c : Ic} {s : State} {late : Bool} {m : LoadAct} {act : Act}
    (hlate : late = false)
    (h : (c.loadDest s m.dst (m.whole || decide (m.act = fullMask)) fun regs =>
      c.memIssue s
        { space := m.space, a := m.a, acc := .read, bytes := m.bytes, reads := true, cls := .ld, whole := m.whole,
          lanes := m.lanes, expand := m.expand, data := m.data, scan := m.scan, judge := m.judge, ranges := fun ok => (m.body ok).ranges
          perform := fun s ok => (s.putRegs c regs).addOp c.key (c.newOp .ld (m.body ok) m.ord (reachScope ok m.scope)) }) = act) :
    c.loadIssue s late m = act := by
  unfold Ic.loadIssue
  rw [hlate]
  exact h

/-! ## Loads, stores and atomics -/

section
variable {s : State} {c : Ic} {i : Instr} {len : Nat} {x : Opnds} {sp : Space}

theorem ldOp_loads (hx : exec i s = ldOp s len x sp) (hi : s.issuer = some c) : c.loads s i len x sp := by
  intro ka kb ok ho hlate
  constructor
  · intro d hd hfree hclear
    have hredo := hclear.1
    have hcheck := hclear.2.2.1
    rw [hx, ldOp]
    refine issue_of hi ((c.known_of s x _ _ _ ho).trans ?_)
    simp only [hd, List.getD_cons_zero, List.getD_cons_succ, Bool.false_eq_true, if_false, Bool.false_and, c.memLanes_of hredo, hcheck]
    refine (Ic.firstIssue_of rfl _).trans (Ic.loadIssue_plain hlate ((Ic.loadDest_v hfree s _).trans ?_))
    refine (Ic.memIssue_clear hclear rfl rfl rfl (load_ranges ok x.t _)).trans ?_
    rw [State.touchAll_read]
    rfl
  · intro d hd hfree hu hclear
    have hredo := hclear.1
    have hcheck := hclear.2.2.1
    rw [hx, ldOp]
    refine issue_of hi ((c.known_of s x _ _ _ ho).trans ?_)
    simp only [hd, List.getD_cons_zero, List.getD_cons_succ, if_true, hu, Bool.not_true, Bool.and_false, Bool.false_eq_true, if_false,
      c.memLanes_of hredo, hcheck]
    refine (Ic.firstIssue_of rfl _).trans (Ic.loadIssue_plain hlate ((Ic.loadDest_s hfree s _ _).trans ?_))
    refine (Ic.memIssue_clear hclear rfl rfl rfl (load_ranges ok x.t _)).trans ?_
    rw [State.touchAll_read]
    rfl

theorem stOp_stores (hx : exec i s = stOp s len x sp) (hi : s.issuer = some c) : c.storesTo s i len x sp := by
  intro ka kb kd ok ho hclear
  have hredo := hclear.1
  have hcheck := hclear.2.2.1
  rw [hx, stOp]
  refine issue_of hi ((c.known_of s x _ _ _ ho).trans ?_)
  simp only [List.getD_cons_zero, List.getD_cons_succ, c.memLanes_of hredo, c.memData_of hredo]
  exact (Ic.firstIssue_of hcheck _).trans (Ic.memIssue_clear hclear rfl rfl rfl (store_ranges ok x.t _))

theorem atmOp_atomics {op : AtmOp} (hx : exec i s = atmOp s x op) (hi : s.issuer = some c) : c.atomics s i x op := by
  intro ka kb kc ke ok ls u ops offs exp
  have hexp : (offs.getD 3 (.u 0)).lanes = exp := by
    by_cases h : op = .cas <;> simp [offs, exp, h]
  constructor
  · intro hsel ho hfree hclear
    have hredo := hclear.1
    have hcheck := hclear.2.2.1
    have hnr : decide (4 ≤ x.sel) = false := decide_eq_false (Nat.not_le.mpr hsel)
    rw [hx, atmOp]
    simp only [hnr, Bool.false_eq_true, if_false]
    refine issueX_of hi ((c.known_of s x _ _ _ ho).trans ?_)
    simp only [c.memLanes_of hredo, c.memData_of hredo, c.memData2_of hredo, hexp]
    refine (Ic.firstIssue_of hcheck _).trans ((Ic.loadDest_v hfree s _).trans ?_)
    exact Ic.memIssue_clear hclear rfl rfl rfl (atomic_ranges ok op x.t _ _ _ _)
  · intro hsel ho hclear
    have hredo := hclear.1
    have hcheck := hclear.2.2.1
    have hnr : decide (4 ≤ x.sel) = true := decide_eq_true hsel
    rw [hx, atmOp]
    simp only [hnr, if_true]
    refine issueX_of hi ((c.known_of s x _ _ _ ho).trans ?_)
    simp only [c.memLanes_of hredo, c.memData_of hredo, c.memData2_of hredo, hexp]
    exact (Ic.firstIssue_of hcheck _).trans (Ic.memIssue_clear hclear rfl rfl rfl (atomic_ranges ok op x.t _ _ _ _))

end

/-! ## What an atomic writes -/

theorem intVal_n32 (v : Word) : intVal .n32 (.ofNat 64 v.toNat) = v.toNat := by
  have := v.isLt
  simp only [intVal, Ty.width, Ty.signed, Bool.false_and, Bool.false_eq_true, if_false, BitVec.toNat_ofNat]
  omega

theorem intVal_i32 (v : Word) : intVal .i32 (.ofNat 64 v.toNat) = v.toInt := by
  have := v.isLt
  simp only [intVal, Ty.width, Ty.signed, Bool.true_and, decide_eq_true_eq, BitVec.toNat_ofNat, BitVec.toInt_eq_toNat_cond]
  split <;> split <;> omega

/-- Settles O31. Each issue goes through `Ic.memIssue_clear`: all lanes translate and nothing is in the way. -/
theorem memoryIssue : Obligations.MemoryIssue := by
  unfold Obligations.MemoryIssue
  refine ⟨fun s c x hi => ⟨ldOp_loads (exec_ld s) hi, ldOp_loads (exec_lds s) hi, ldOp_loads (exec_ldv s) hi,
      fun d a b => ldOp_loads (exec_ldBase s) hi, fun d a imm => ldOp_loads (exec_ldsBase s) hi⟩,
    fun s c x hi => ⟨stOp_stores (exec_st s) hi, stOp_stores (exec_sts s) hi, stOp_stores (exec_stv s) hi,
      fun d a b => stOp_stores (exec_stBase s) hi⟩,
    fun s c x hi => ⟨⟨atmOp_atomics (exec_aadd s) hi, atmOp_atomics (exec_aand s) hi, atmOp_atomics (exec_aor s) hi,
      atmOp_atomics (exec_axor s) hi, atmOp_atomics (exec_amin s) hi, atmOp_atomics (exec_amax s) hi,
      atmOp_atomics (exec_axch s) hi, atmOp_atomics (exec_acas s) hi, atmOp_atomics (exec_ainc s) hi⟩, fun o v e => ?_⟩⟩
  refine ⟨?_, ?_, ?_, ?_, ?_, ?_, ?_, ?_, rfl, ?_, rfl⟩
  · simp [atmNew, Ty.width]
  · simp [atmNew]
  · simp [atmNew]
  · simp [atmNew]
  · simp only [atmNew, intVal_n32]
    split <;> omega
  · simp only [atmNew, intVal_n32]
    split <;> omega
  · simp only [atmNew, intVal_i32, BitVec.slt_iff_toInt_lt]
    split <;> rfl
  · simp only [atmNew, intVal_i32, BitVec.slt_iff_toInt_lt]
    split <;> rfl
  · simp only [atmNew, BitVec.toNat_inj]
    split <;> rfl

end Sys2Proof.Machine
end

section
/-! PROOFS. The other memory instructions at issue (R214, R216 to R219), .late loads (R98, R102) and illegal or misaligned
addresses (R391, R404). -/

namespace Sys2Proof.Machine

open Sys2Proof

/-! ## Masks of lanes that fail a check -/

/-- No lane fails a check: its mask is empty. -/
theorem laneMask_filter_nil {α : Type} {l : List (Nat × α)} {p : Nat × α → Bool} (h : ∀ e ∈ l, p e = false) :
    laneMask ((l.filter p).map (·.1)) = 0 := by
  rw [List.filter_eq_nil_iff.mpr fun e he => ne_true_of_eq_false (h e he)]
  rfl

/-- Lanes that all reach formatted pages pass the check for unformatted ones. -/
theorem Ic.unformatted_of {c : Ic} {s : State} {a : Opnd} {acc : Access} {ls : List LaneAddr} {ok : List (Nat × DWord × Tr)}
    (hls : ok.map (fun e => (e.1, e.2.1)) = ls)
    (h : ∀ e ∈ ok, c.trLane s .global a acc e.2.1 = .ok e.2.2 ∧ e.2.2.fmt ≠ 0) : c.unformatted s a acc ls = none := by
  have hsort := sortLanes_of_ok (ex := fun v => [v]) (by simpa using hls) fun e he => (h e he).1
  have hmask := laneMask_filter_nil (l := ok) (p := fun e => e.2.2.fmt == 0) fun e he => beq_false_of_ne (h e he).2
  simp [Ic.unformatted, hsort, hmask]

/-- Elements judged at a first issue as they translate. -/
theorem Ic.judgeFmt_of {c : Ic} (h : c.sp.redo = none) (r : TrRes) : c.judgeFmt r = r := by
  cases r <;> simp [Ic.judgeFmt, h]

/-- The lanes of an instruction on formatted pages sorted at their first issue. -/
theorem sortLanes_judgeFmt {c : Ic} {s : State} {a : Opnd} {acc : Access} {ls : List LaneAddr} {ok : List (Nat × DWord × Tr)}
    (hredo : c.sp.redo = none) (hls : ok.map (fun e => (e.1, e.2.1)) = ls)
    (h : ∀ e ∈ ok, c.trLane s .global a acc e.2.1 = .ok e.2.2 ∧ e.2.2.fmt ≠ 0) :
    sortLanes ls (fun v => [v]) (fun v => c.judgeFmt (c.trLane s .global a acc v)) = { ok := ok, fail := [], miss := [] } :=
  sortLanes_of_ok (by simpa using hls) fun e he => (c.judgeFmt_of hredo _).trans (h e he).1

section
variable {s : State} {c : Ic} {x : Opnds} {ka kb : Off} {a k : DWord} {ok : List (Nat × DWord × Tr)}

theorem execLdt_of (hi : s.issuer = some c) (hredo : c.sp.redo = none) (hfull : c.st.full .ld = false)
    (hecc : s.eccScan c.st.part 2 (accsOf ok) = (s, [], 0, 0))
    (hroom : s.sectorsFit (coreOf c.key) (plainRanges ok 2 false) = true)
    (ho : c.offs x [(x.a, addrWide x.a), (x.b, addrWide x.b), (x.c, true)] = some [ka, kb, .u k])
    (hu : Off.uniformAddr ka kb = true) (hd : c.freeV x.d.vnum true (c.act x))
    (hvalid : ∀ n, x.a = .t n → (c.regs.treg n).valid = true) (hnear : ∀ n, x.a ≠ .t n → a.toNat < 2 ^ 57)
    (hk8 : k.toNat % 8 = 0) (hkmin : 8 ≤ k.toNat) (hkmax : k.toNat ≤ 2 ^ 31 - 8) (ha8 : a.toNat % 8 = 0)
    (hbase : laneAddrs .global c.regs x.a x.b ka kb [lowLane c.sp.mask] = [(lowLane c.sp.mask, a)])
    (hok : ok.map (fun e => (e.1, e.2.1)) = (lanesOf (c.act x)).flatMap (fun l => (List.range 4).map fun r =>
      (l, a + .ofNat 64 (4 * (l % 8)) * k + .ofNat 64 (2 * (l / 8)) + .ofNat 64 r * k)))
    (htr : ∀ e ∈ ok, (c.trLane s .global x.a .read e.2.1).plain 2 = .ok e.2.2) :
    exec (.ldt x) s = c.ends s x.len
      ((s.putRegs c (c.regs.writeV x.d.vnum true (.g (c.old x.d.vnum true).lanes))).addOp c.key
        (c.newOp .ld (.loadT (accsOf ok) x.d.vnum) 0 (reachScope ok 0))) := by
  have hstride : ¬(k.toNat % 8 ≠ 0 ∨ k.toNat < 8 ∨ 2 ^ 31 - 8 < k.toNat) := by omega
  have hlegal : (!(match x.a with | .t n => (c.regs.treg n).valid | _ => true) ||
      (match x.a with | .t _ => false | _ => decide (2 ^ 57 ≤ a.toNat)) || !Off.uniformAddr ka kb) = false := by
    rw [hu]
    split
    · next n hn => rw [hvalid n hn]; simp
    · next hn =>
      have := hnear 0 (hn 0)
      simp only [Bool.not_true, Bool.or_false, Bool.false_or, decide_eq_false_iff_not]
      omega
  rw [exec_ldt, execLdt]
  refine issueX_ends_of hi ((c.known_of s x _ _ _ ho).trans ?_)
  simp only [List.getD_cons_zero, List.getD_cons_succ, c.memData_of hredo, c.memLanes_of hredo, hbase, List.map_cons, List.map_nil]
  rw [show (Off.u k).at 0 = k from rfl]
  refine (Ic.firstIssue_of ?_ _).trans (Ic.loadIssue_plain rfl ((Ic.loadDest_v hd s _).trans ?_))
  · exact (if_neg (ne_true_of_eq_false hlegal)).trans <| (if_neg hstride).trans (if_neg (not_not.mpr ha8))
  · refine (Ic.memIssue_of (ok := ok) hfull ?_ (fun h => Access.noConfusion h) ?_ (fun _ => hecc) ?_).trans ?_
    · exact sortLanes_of_ok (by rw [hok]; simp [List.flatMap_map, Function.comp_def]) htr
    · simpa [OpBody.ranges, OpBody.spots, accsOf, plainRanges, Function.comp_def] using hroom
    · rintro rfl
      cases hact : lanesOf (c.act x) with
      | nil => rfl
      | cons l ls => simp [hact, List.range_succ] at hok
    · rw [State.touchAll_read]

theorem execLdf_of (hi : s.issuer = some c) (hredo : c.sp.redo = none) (hlate : x.late = false) (hfull : c.st.full .ld = false)
    (hecc : s.eccScan c.st.part 1 ((elemsOf ok).flatMap Elem.reads) = (s, [], 0, 0))
    (hroom : s.sectorsFit (coreOf c.key) (((elemsOf ok).flatMap Elem.readRanges).map farRange) = true)
    (hseed : effMode c.st.ctx.mode x.rnd = .rsd → c.freeS (modeSeed c.st.ctx.mode) ∧ c.regs.spend (modeSeed c.st.ctx.mode) = false)
    (ho : c.offs x [(x.b, addrWide x.b)] = some [kb]) (hd : c.freeV x.d.vnum false (c.act x))
    (hok : ok.map (fun e => (e.1, e.2.1)) = laneAddrs .global c.regs x.a x.b (.u 0) kb (lanesOf (c.act x)))
    (htr : ∀ e ∈ ok, c.trLane s .global x.a .read e.2.1 = .ok e.2.2 ∧ e.2.2.fmt ≠ 0)
    (hcheck : c.checkAddrs s .global x.a 1 (laneAddrs .global c.regs x.a x.b (.u 0) kb (lanesOf (c.act x))) = none) :
    exec (.ldf x) s = c.ends s x.len
      ((s.putRegs c (c.regs.writeV x.d.vnum false (.g (c.old x.d.vnum false).lanes))).addOp c.key
        (c.newOp .ld (.loadF (elemsOf ok) x.t (c.fpEnv x).mode (c.fpEnv x).fz (c.fpEnv x).seed x.d.vnum) 0 (reachScope ok 0))) := by
  rw [exec_ldf, execLdf]
  refine issueX_ends_of hi ((Ic.seedReady_of hseed).trans ((c.known_of s x _ _ _ ho).trans ?_))
  simp only [List.getD_cons_zero, c.memLanes_of hredo, hcheck, Ic.unformatted_of hok htr]
  refine (Ic.firstIssue_of rfl _).trans (Ic.loadIssue_plain hlate ((Ic.loadDest_v hd s _).trans ?_))
  refine (Ic.memIssue_of (ok := ok) hfull (sortLanes_judgeFmt hredo hok htr) (fun h => Access.noConfusion h) hroom
    (fun _ => hecc) ?_).trans ?_
  · rintro rfl
    exact hok.symm
  · rw [State.touchAll_read]

theorem execStf_of (hi : s.issuer = some c) (hredo : c.sp.redo = none) (hfull : c.st.full .st = false)
    (hlate : c.st.lateHits .global ok (((elemsOf ok).flatMap Elem.writeRanges).map farRange) = [])
    (hroom : s.sectorsFit (coreOf c.key) (((elemsOf ok).flatMap Elem.writeRanges).map farRange) = true)
    (hseed : effMode c.st.ctx.mode x.rnd = .rsd → c.freeS (modeSeed c.st.ctx.mode) ∧ c.regs.spend (modeSeed c.st.ctx.mode) = false)
    (ho : c.offs x [(x.b, addrWide x.b), (x.d, false)] = some [kb, ka])
    (hok : ok.map (fun e => (e.1, e.2.1)) = laneAddrs .global c.regs x.a x.b (.u 0) kb (lanesOf (c.act x)))
    (htr : ∀ e ∈ ok, c.trLane s .global x.a .write e.2.1 = .ok e.2.2 ∧ e.2.2.fmt ≠ 0)
    (hcheck : c.checkAddrs s .global x.a 1 (laneAddrs .global c.regs x.a x.b (.u 0) kb (lanesOf (c.act x))) = none)
    (hblocks : partBlocks (elemsOf ok) = []) :
    exec (.stf x) s = c.ends s x.len ((s.touchAll c.st.part .write .global ok).addOp c.key
      (c.newOp .st (.storeF (elemsOf ok) (c.fpEnv x).mode (c.fpEnv x).sat (c.fpEnv x).fz (c.fpEnv x).seed ka.lanes) 0
        (reachScope ok 0))) := by
  have hsort : sortLanes (laneAddrs .global c.regs x.a x.b (.u 0) kb (lanesOf (c.act x))) (fun v => [v])
      (fun v => c.trLane s .global x.a .write v) = { ok := ok, fail := [], miss := [] } :=
    sortLanes_of_ok (by simpa using hok) fun e he => (htr e he).1
  rw [exec_stf, execStf]
  refine issueX_ends_of hi ((Ic.seedReady_of hseed).trans ((c.known_of s x _ _ _ ho).trans ?_))
  simp only [List.getD_cons_zero, List.getD_cons_succ, c.memLanes_of hredo, c.memData_of hredo, hcheck, Ic.unformatted_of hok htr,
    hsort, hblocks]
  refine (Ic.firstIssue_of (by simp [laneMask]) _).trans
    (Ic.memIssue_of hfull (sortLanes_judgeFmt hredo hok htr) (fun _ => hlate) hroom (fun h => Bool.noConfusion h) ?_)
  rintro rfl
  exact hok.symm

/-- LDC to a vector: each lane of act names its own offset. -/
theorem execLdc_v {d : Nat} (hi : s.issuer = some c) (hfull : c.st.full .ld = false) (ho : c.offs x [(x.a, ldcWide x)] = some [ka])
    (hd : x.d = .v d) (hfree : c.freeV d x.t.is64 (c.act x))
    (hat : ∀ l ∈ lanesOf (c.act x), (ldcOff x (ka.at l)).toNat + x.t.bytes ≤ 65536 ∧ (ldcOff x (ka.at l)).toNat % x.t.bytes = 0) :
    exec (.ldc x) s = c.ends s x.len ((s.putRegs c (c.regs.writeV d x.t.is64 (.g (c.old d x.t.is64).lanes))).addOp c.key
      (c.newOp .ld (.loadC ((lanesOf (c.act x)).map fun l => (l, (ldcOff x (ka.at l)).toNat)) x.t (.v d x.t.is64)) 0 0)) := by
  have hpast := laneMask_filter_nil (l := (lanesOf (c.act x)).map fun l => (l, ldcOff x (ka.at l)))
    (p := fun e => decide (65536 < e.2.toNat + x.t.bytes)) fun e he => by
      obtain ⟨l, hl, rfl⟩ := List.mem_map.mp he
      exact decide_eq_false (Nat.not_lt.mpr (hat l hl).1)
  have hmis := laneMask_filter_nil (l := (lanesOf (c.act x)).map fun l => (l, ldcOff x (ka.at l)))
    (p := fun e => e.2.toNat % x.t.bytes != 0) fun e he => by
      obtain ⟨l, hl, rfl⟩ := List.mem_map.mp he
      simp [(hat l hl).2]
  rw [exec_ldc, execLdc]
  refine issueX_ends_of hi ((c.known_of s x _ _ _ ho).trans ?_)
  simp only [hd, List.getD_cons_zero, hfull, hpast, hmis, dstOf, Bool.false_and, Bool.false_eq_true, if_false, ne_eq, not_true]
  refine (Ic.loadDest_v hfree s _).trans ?_
  rw [List.map_map]
  rfl

/-- LDC to a scalar: the lowest lane's offset, uniform. -/
theorem execLdc_s {d : Nat} (hi : s.issuer = some c) (hfull : c.st.full .ld = false) (ho : c.offs x [(x.a, ldcWide x)] = some [ka])
    (hd : x.d = .s d) (hfree : c.freeS d) (hu : ka.isU = true)
    (hpast : (ldcOff x (ka.at (lowLane c.sp.mask))).toNat + x.t.bytes ≤ 65536)
    (hmis : (ldcOff x (ka.at (lowLane c.sp.mask))).toNat % x.t.bytes = 0) :
    exec (.ldc x) s = c.ends s x.len ((s.putRegs c c.regs).addOp c.key
      (c.newOp .ld (.loadC [(lowLane c.sp.mask, (ldcOff x (ka.at (lowLane c.sp.mask))).toNat)] x.t (.s d)) 0 0)) := by
  have hp := laneMask_filter_nil (l := [lowLane c.sp.mask].map fun l => (l, ldcOff x (ka.at l)))
    (p := fun e => decide (65536 < e.2.toNat + x.t.bytes)) (by simpa using hpast)
  have hm := laneMask_filter_nil (l := [lowLane c.sp.mask].map fun l => (l, ldcOff x (ka.at l)))
    (p := fun e => e.2.toNat % x.t.bytes != 0) (by simpa using hmis)
  rw [exec_ldc, execLdc]
  refine issueX_ends_of hi ((c.known_of s x _ _ _ ho).trans ?_)
  simp only [hd, List.getD_cons_zero, hfull, hp, hm, hu, dstOf, Bool.not_true, Bool.and_false, Bool.false_eq_true, if_false, if_true,
    ne_eq, not_true]
  exact Ic.loadDest_s hfree s _ _

theorem execTrx_of (hi : s.issuer = some c) (hredo : c.sp.redo = none) (ha : c.scalars x [x.a] = some [a]) (hnear : a.toNat < 2 ^ 57)
    {t : TlbEnt} (ht : (s.core (coreOf c.key)).tlbFind c.st.part .read a.toNat = some t) :
    exec (.trx x) s = c.ends s x.len ((s.putRegs c (c.regs.setT x.d.tnum (tregOf a.toNat t))).touch t.ent .read) := by
  obtain ⟨k, ho, rfl⟩ := Ic.offs_of_scalar ha
  rw [exec_trx, execTrx]
  refine issueX_ends_of hi ((c.known_of s x _ _ _ ho).trans ?_)
  simp only [List.getD_cons_zero, hredo, ht]
  exact if_neg (Nat.not_le.mpr hnear)

theorem execPref_of (hi : s.issuer = some c) (ho : c.offs x [(x.a, addrWide x.a), (x.b, addrWide x.b)] = some [ka, kb])
    (hroom : s.sectorsFit (coreOf c.key) (plainRanges (sortLanes (laneAddrs .global c.regs x.a x.b ka kb (lanesOf (c.act x)))
      (fun v => [v]) fun v => c.trLane s .global x.a .read v).ok 1 false) = true) :
    exec (.pref x) s = c.ends s x.len s := by
  rw [exec_pref, execPref]
  exact issueX_ends_of hi ((c.known_of s x _ _ _ ho).trans (c.sectorRoom_of hroom _))

end

/-- Settles O32, instruction by instruction. -/
theorem specialLoadIssue : Obligations.SpecialLoadIssue := by
  unfold Obligations.SpecialLoadIssue
  intro s c x ka kb a k ok hi act e seed flight dest direct
  refine ⟨?_, ?_, ?_, ?_, ?_, ?_⟩
  · intro hredo hfull hecc hroom ho hu hd hvalid hnear h1 h2 h3 h4 hbase hok htr
    dsimp only [flight, dest]
    exact execLdt_of hi hredo hfull hecc hroom ho hu hd hvalid hnear h1 h2 h3 h4 hbase hok htr
  · exact fun hredo hlate hfull hecc hroom hseed ho hd hdir =>
      execLdf_of hi hredo hlate hfull hecc hroom hseed ho hd hdir.1 hdir.2.1 hdir.2.2
  · exact fun hredo hfull hlate hroom hseed ho hdir hblocks =>
      execStf_of hi hredo hfull hlate hroom hseed ho hdir.1 hdir.2.1 hdir.2.2 hblocks
  · intro hfull ho at'
    dsimp only [flight, dest, at', act]
    constructor
    · intro d hd hfree hat
      rw [show x.d.vnum = d by rw [hd]; rfl]
      exact execLdc_v hi hfull ho hd hfree hat
    · intro d hd hfree hu hpast hmis
      exact execLdc_s hi hfull ho hd hfree hu hpast hmis
  · exact fun hredo ha hnear t ht => execTrx_of hi hredo ha hnear ht
  · exact fun ho => execPref_of hi ho

end Sys2Proof.Machine
end

section
/-! PROOFS. .late loads (R98, R102) and illegal or misaligned addresses (R391, R404). -/

namespace Sys2Proof.Machine

open Sys2Proof

section
variable {s : State} {c : Ic} {i : Instr} {len : Nat} {x : Opnds} {sp : Space} {ka kb : Off} {d : Nat}

/-- A load to a vector register, its operands at hand, is judged and goes on lane by lane. -/
theorem ldOp_v {act : Act} (hi : s.issuer = some c) (hredo : c.sp.redo = none)
    (ho : c.offs x [(x.a, addrWide x.a), (x.b, addrWide x.b)] = some [ka, kb]) (hd : x.d = .v d)
    (h : (c.firstIssue (c.checkAddrs s sp x.a x.t.bytes (laneAddrs sp c.regs x.a x.b ka kb (lanesOf (c.act x)))) <|
      c.loadIssue s x.late
        { space := sp, a := x.a, bytes := x.t.bytes, whole := false, dst := .v d x.t.is64, act := c.act x
          lanes := laneAddrs sp c.regs x.a x.b ka kb (lanesOf (c.act x)), judge := fun r => r.plain x.t.bytes
          ord := x.ord, scope := x.scope, body := fun ok => .load (accsOf ok) x.t (.v d x.t.is64) }) = act) :
    ldOp s len x sp = .next (s.conclude c len act) := by
  rw [ldOp]
  refine issue_of hi ((c.known_of s x _ _ _ ho).trans ?_)
  simp only [hd, List.getD_cons_zero, List.getD_cons_succ, Bool.false_eq_true, if_false, Bool.false_and, c.memLanes_of hredo]
  rw [← h]
  cases c.checkAddrs s sp x.a x.t.bytes (laneAddrs sp c.regs x.a x.b ka kb (lanesOf (c.act x))) <;> rfl

/-! ## Illegal and misaligned addresses -/

theorem Ic.checkAddrs_global {a : Opnd} (h : ∀ k, a ≠ .t k) (n : Nat) (ls : List LaneAddr) :
    c.checkAddrs s .global a n ls =
      if laneMask ((ls.filter fun e => decide (2 ^ 57 ≤ e.2.toNat)).map (·.1)) ≠ 0 then
        some (Act.trapLanes 0x06 2 (laneMask ((ls.filter fun e => decide (2 ^ 57 ≤ e.2.toNat)).map (·.1))))
      else if laneMask ((ls.filter fun e => e.2.toNat % n != 0).map (·.1)) ≠ 0 then
        some (Act.trapLanes 0x05 2 (laneMask ((ls.filter fun e => e.2.toNat % n != 0).map (·.1))))
      else none := by
  cases a with
  | t k => exact absurd rfl (h k)
  | _ => rfl

theorem Ic.checkAddrs_spad (a : Opnd) (n : Nat) (ls : List LaneAddr) :
    c.checkAddrs s .spad a n ls =
      if laneMask ((ls.filter fun e => decide (s.spadBytes c.st.wg < e.2.toNat + n)).map (·.1)) ≠ 0 then
        some (Act.trapLanes 0x06 2 (laneMask ((ls.filter fun e => decide (s.spadBytes c.st.wg < e.2.toNat + n)).map (·.1))))
      else if laneMask ((ls.filter fun e => e.2.toNat % n != 0).map (·.1)) ≠ 0 then
        some (Act.trapLanes 0x05 2 (laneMask ((ls.filter fun e => e.2.toNat % n != 0).map (·.1))))
      else none := by
  cases a <;> rfl

/-- A check that fails traps at a first issue over the lanes that fail it. -/
theorem ldOp_traps {sub code : Nat} {m : Mask} (hi : s.issuer = some c) (hredo : c.sp.redo = none)
    (ho : c.offs x [(x.a, addrWide x.a), (x.b, addrWide x.b)] = some [ka, kb]) (hd : x.d = .v d)
    (hcheck : c.checkAddrs s sp x.a x.t.bytes (laneAddrs sp c.regs x.a x.b ka kb (lanesOf (c.act x))) =
      some (Act.trapLanes sub code m)) :
    ldOp s len x sp =
      c.traps s len { cls := 0x02, sub := sub, code := code, lanes := m, restart := true, async := false, oprec := 0 } :=
  ldOp_v hi hredo ho hd (by rw [hcheck]; exact Ic.firstIssue_some hredo _)

end

/-- Settles O34: the check of an illegal address stands before that of a misaligned one. -/
theorem memoryAddressTraps : Obligations.MemoryAddressTraps := by
  unfold Obligations.MemoryAddressTraps
  intro s c x ka kb hi hredo ha ho ⟨d, hd⟩ e he
  simp only [List.mem_cons, List.not_mem_nil, or_false] at he
  obtain rfl | rfl := he
  · refine ⟨fun hbad => ?_, fun hbad hmis => ?_⟩
    · exact (exec_ld s).trans <|
        ldOp_traps hi hredo ho hd ((Ic.checkAddrs_global ha _ _).trans (if_pos hbad))
    · exact (exec_ld s).trans <|
        ldOp_traps hi hredo ho hd ((Ic.checkAddrs_global ha _ _).trans ((if_neg (not_not.mpr hbad)).trans (if_pos hmis)))
  · refine ⟨fun hbad => ?_, fun hbad hmis => ?_⟩
    · exact (exec_lds s).trans <|
        ldOp_traps hi hredo ho hd ((Ic.checkAddrs_spad _ _ _).trans (if_pos hbad))
    · exact (exec_lds s).trans <|
        ldOp_traps hi hredo ho hd ((Ic.checkAddrs_spad _ _ _).trans ((if_neg (not_not.mpr hbad)).trans (if_pos hmis)))

/-! ## Late loads -/

/-- A .late load whose lanes all translate, with a symbol free, leaves a form over the symbol in its destination. -/
theorem ldOp_late {s : State} {c : Ic} {len : Nat} {x : Opnds} {sp : Space} {ka kb k : Off} {d num : Nat}
    {ok : List (Nat × DWord × Tr)} (hi : s.issuer = some c) (hredo : c.sp.redo = none)
    (ho : c.offs x [(x.a, addrWide x.a), (x.b, addrWide x.b)] = some [ka, kb]) (hd : x.d = .v d) (hlate : x.late = true)
    (hsym : s.freeSym (quarterOf c.key) = some num) (hlateOk : c.lateOk s = true) (hfull : c.st.full .ld = false)
    (hcheck : c.checkAddrs s sp x.a x.t.bytes (laneAddrs sp c.regs x.a x.b ka kb (lanesOf (c.act x))) = none)
    (hreach : c.reaches s sp x.a .read x.t.bytes (laneAddrs sp c.regs x.a x.b ka kb (lanesOf (c.act x))) ok)
    (hroom : s.sectorsFit (coreOf c.key) (plainRanges ok x.t.bytes false) = true) (hbusy : c.st.busy (.v d) x.t.is64 = false)
    (hblock : c.regs.blocksWrite d x.t.is64 (decide (c.act x = fullMask)) = false)
    (hslots : (c.regs.writeP d (Form.fresh num x.t.is64)).overflows c.st.logG = false) (hold : c.regs.readV d x.t.is64 = .known k) :
    ldOp s len x sp = c.ends s len
      (((s.putRegs c (c.regs.writeP d (Form.fresh num x.t.is64))).onStrand c.key fun st => { st with
          syms := st.syms ++ [{ num := num, op := c.st.opNext, space := sp, mask := c.act x
                                addrs := lanes256.map fun l => mapGet 0 (laneAddrs sp c.regs x.a x.b ka kb (lanesOf (c.act x))) l
                                old := k.lanes, words := c.sp.words }] }).addOp c.key
        { c.newOp .ld (.load (accsOf ok) x.t (.v d x.t.is64)) x.ord (reachScope ok x.scope) with sym := some num }) := by
  have hsort : sortLanes (laneAddrs sp c.regs x.a x.b ka kb (lanesOf (c.act x))) (fun v => [v])
      (fun v => (c.trLane s sp x.a .read v).plain x.t.bytes) = { ok := ok, fail := [], miss := [] } :=
    sortLanes_of_ok (by simpa using hreach.1) hreach.2
  refine ldOp_v hi hredo ho hd ((Ic.firstIssue_of hcheck _).trans ?_)
  unfold Ic.loadIssue
  simp only [hlate, hredo, hlateOk, hsym, Option.isNone_none, Bool.and_self, if_true]
  unfold Ic.lateIssue
  simp only [hsort, hfull, hbusy, hblock, hslots, hold, List.isEmpty_nil, Bool.not_true, Bool.false_or, Bool.false_eq_true, if_false,
    if_true, load_ranges]
  exact c.sectorRoom_of hroom _

/-- Settles O33: each of the three loads goes through `ldOp_late`; the symbol's value is the definition's. -/
theorem lateLoadResults : Obligations.LateLoadResults := by
  unfold Obligations.LateLoadResults
  intro s c x ka kb ok num hi ho hlate hsym hlateOk e he d hd w ls regs o y hredo hfull hcheck hreach hroom hbusy hblock hslots
  refine ⟨fun k hold => ?_, fun old vals l => rfl⟩
  simp only [List.mem_cons, List.not_mem_nil, or_false] at he
  obtain rfl | rfl | rfl := he
  · exact (exec_ld s).trans <|
      ldOp_late hi hredo ho hd hlate hsym hlateOk hfull hcheck hreach hroom hbusy hblock hslots hold
  · exact (exec_lds s).trans <|
      ldOp_late hi hredo ho hd hlate hsym hlateOk hfull hcheck hreach hroom hbusy hblock hslots hold
  · exact (exec_ldv s).trans <|
      ldOp_late hi hredo ho hd hlate hsym hlateOk hfull hcheck hreach hroom hbusy hblock hslots hold

end Sys2Proof.Machine
end

section
/-! PROOFS. Memory operations perform: loads and symbols (R91, R102, R211, R213), stores and atomics (R108, R220, R228). -/

namespace Sys2Proof.Machine

open Sys2Proof

/-! ## Operations that may perform -/

/-- An operation that may perform is one of its strand's. -/
theorem State.ready?_spec {s : State} {key id : Nat} {st : Strand} {o : Op} (h : s.ready? key id = some (st, o)) :
    s.strand? key = some st ∧ st.op? id = some o := by
  unfold State.ready? at h
  split at h
  · exact absurd h nofun
  · next st' hst =>
    split at h
    · exact absurd h nofun
    · next o' ho =>
      split at h
      · obtain ⟨rfl, rfl⟩ := Prod.mk.inj (Option.some.inj h)
        exact ⟨hst, ho⟩
      · exact absurd h nofun

/-- What asks nothing of other devices stands at once. -/
theorem State.farDo_of {s : State} {f : State → State} (h : (f s).far.asked = []) (part : Nat) (k : FarKey) :
    s.farDo part k f = f s := if_pos (by rw [h]; rfl)

theorem State.farFor_of {s : State} {f : State → State} (h : (f s).far.asked = []) (key op : Nat) : s.farFor key op f = f s :=
  State.farDo_of h _ _

/-! ## Loads -/

/-- Reads that go to no register of a doorbell page and to no other device bring what memory holds and change nothing. -/
theorem State.rdAcc_of {s : State} {p : Place} {a n : Nat} (hb : p ≠ .bell) (hp : (s.redirect p a).1 ≠ .peer) :
    s.rdAcc p a n = (s.load (s.redirect p a).1 (s.redirect p a).2 n, s) :=
  (if_neg hb).trans (if_neg hp)

theorem State.rdLanes_of {s : State} {t : Ty} {accs : List Acc}
    (h : ∀ a ∈ accs, a.place ≠ .bell ∧ (s.redirect a.place a.pa).1 ≠ .peer) :
    s.rdLanes accs t = (accs.map fun a => (a.lane, extendTy t
      (s.load (s.redirect a.place a.pa).1 (s.redirect a.place a.pa).2 t.bytes)), s) := by
  have hfold : ∀ (l : List Acc) (vs : LaneVals), (∀ a ∈ l, a.place ≠ .bell ∧ (s.redirect a.place a.pa).1 ≠ .peer) →
      l.foldl (fun (acc : LaneVals × State) a =>
        ((acc.1 ++ [(a.lane, extendTy t (acc.2.rdAcc a.place a.pa t.bytes).1)]), (acc.2.rdAcc a.place a.pa t.bytes).2)) (vs, s) =
      (vs ++ l.map fun a => (a.lane, extendTy t
        (s.load (s.redirect a.place a.pa).1 (s.redirect a.place a.pa).2 t.bytes)), s) := by
    intro l
    induction l with
    | nil => simp
    | cons a l ih =>
      intro vs hl
      have ha := hl a List.mem_cons_self
      rw [List.foldl_cons]
      simp only [State.rdAcc_of ha.1 ha.2]
      rw [ih _ fun b hb => hl b (List.mem_cons_of_mem a hb)]
      simp
  exact (hfold accs [] h).trans (by simp)

/-- A load's destination lanes with a value take it, the others keep theirs (R91). -/
theorem Regs.land_v (r : Regs) (n : Nat) (w : Bool) (vals : LaneVals) :
    ∃ v : Off, r.land (.v n w) vals = r.writeV n w v ∧
      ∀ l < 256, v.at l = (mapFind vals l).getD ((match r.readV n w with | .known k => k | .pend _ => .u 0 : Off).at l) := by
  refine ⟨.g (lanes256.map fun l => match mapFind vals l with
    | some v => v
    | none => (match r.readV n w with | .known k => k | .pend _ => .u 0 : Off).at l), rfl, fun l hl => ?_⟩
  rw [Off.at, List.getD_eq_getElem?_getD, List.getElem?_map, lanes256, List.getElem?_range hl]
  simp only [Option.map_some, Option.getD_some]
  cases mapFind vals l <;> rfl

theorem extendTy_i8 (b : Word) : extendTy .i8 (b.toNat % 256) = (b.setWidth 8).signExtend 64 := by
  refine congrArg (BitVec.ofInt 64) ?_
  simp only [intVal, Ty.width, Ty.signed, Bool.true_and, decide_eq_true_eq, BitVec.toNat_ofNat, BitVec.toInt_eq_toNat_cond,
    BitVec.toNat_setWidth]
  split <;> split <;> omega

theorem extendTy_i16 (b : Word) : extendTy .i16 (b.toNat % 65536) = (b.setWidth 16).signExtend 64 := by
  refine congrArg (BitVec.ofInt 64) ?_
  simp only [intVal, Ty.width, Ty.signed, Bool.true_and, decide_eq_true_eq, BitVec.toNat_ofNat, BitVec.toInt_eq_toNat_cond,
    BitVec.toNat_setWidth]
  split <;> split <;> omega

theorem extendTy_n8 (b : Word) : extendTy .n8 (b.toNat % 256) = (b.setWidth 8).setWidth 64 := by
  apply BitVec.eq_of_toNat_eq
  have := b.isLt
  simp only [extendTy, intVal, Ty.width, Ty.signed, Bool.false_and, Bool.false_eq_true, if_false, BitVec.toNat_ofNat,
    BitVec.toNat_ofInt, BitVec.toNat_setWidth]
  omega

theorem extendTy_n32 (b : Word) : extendTy .n32 b.toNat = b.setWidth 64 := by
  apply BitVec.eq_of_toNat_eq
  have := b.isLt
  simp only [extendTy, intVal, Ty.width, Ty.signed, Bool.false_and, Bool.false_eq_true, if_false, BitVec.toNat_ofNat,
    BitVec.toNat_ofInt, BitVec.toNat_setWidth]
  omega

/-- A load's data land in its destination and the operation completes. -/
theorem State.landLoad_of {s u : State} {key id : Nat} {st : Strand} {o : Op} {vals : LaneVals} {fl : Half}
    (hst : s.strand? key = some st) (ho : st.op? id = some o) (hv : s.loadVals st.wg o.body = (vals, fl, u)) :
    s.landLoad key id = ((u.useSlots key (st.ctx.regs.dstSlots o.body.dst)).onStrand key fun q =>
      q.landRegs id (Ctx.landed fl fun r => r.land o.body.dst vals)).finishOp key id := by
  simp only [State.landLoad, hst, ho, hv]

/-- A symbol's data settle every register that holds it, and the operation completes. -/
theorem State.resolveSym_of {s u : State} {key id num : Nat} {st : Strand} {o : Op} {y : Sym} {vals : LaneVals} {fl : Half}
    (hst : s.strand? key = some st) (ho : st.op? id = some o) (hy : (st.syms.find? fun z => z.num == num) = some y)
    (hv : s.loadVals st.wg o.body = (vals, fl, u)) :
    s.resolveSym key id num = ((u.wakeDest key y.num).onStrand key fun q =>
      q.settleSym id y o.body.dst (o.held ++ vals) (o.flags ||| fl)).finishOp key id := by
  simp only [State.resolveSym, hst, ho, hy, hv]

/-- A symbol that carries its destination resolves in the strand's registers. -/
theorem Strand.settleSym_of {y : Sym} (h : y.lead = none) (q : Strand) (op : Nat) (d : Dst) (vals : LaneVals) (fl : Half) :
    q.settleSym op y d vals fl =
      { q.landRegs op fun x => { x with regs := (x.regs.resolve y.num (y.value d vals)).1
                                        mode := orMode x.mode (fl ||| (x.regs.resolve y.num (y.value d vals)).2) }
          with syms := q.syms.filter fun z => z.num != y.num } := by
  simp only [Strand.settleSym, h]

/-- Words none of which is lost let a symbol's data go on. -/
theorem State.lateRead_of {s : State} {key : Nat} {st : Strand} {o : Op}
    (h : s.eccScan st.part o.body.replyAccs.1 o.body.replyAccs.2 = (s, [], 0, 0)) (k : State → State) :
    s.lateRead key st o k = k s := by
  simp only [State.lateRead, h, List.isEmpty_nil, if_true]

/-- Settles O35. -/
theorem loadDataResults : Obligations.LoadDataResults := by
  unfold Obligations.LoadDataResults
  constructor
  · intro s key id st o hready hsym hbrings
    obtain ⟨hst, ho⟩ := State.ready?_spec hready
    refine ⟨fun hdump vals fl u hv => ?_, fun hdump => ?_, fun accs t d hbody h => ?_, Regs.land_v,
      fun b => ⟨extendTy_i8 b, extendTy_n8 b, extendTy_i16 b, extendTy_n32 b⟩⟩
    · intro t ht
      replace ht : (s.landLoad key id).far.asked = [] := by rw [State.landLoad_of hst ho hv]; exact ht
      simp only [exec_loadDataArrival, execLoadDataArrival, event, hready, hsym, hbrings, hdump, Option.isSome_none, Bool.not_true,
        Bool.or_self, Bool.false_eq_true, if_false]
      rw [State.farFor_of ht, State.landLoad_of hst ho hv]
    · simp only [exec_loadDataArrival, execLoadDataArrival, event, hready, hsym, hbrings, hdump, Option.isSome_none, Bool.not_true,
        Bool.or_self, Bool.false_eq_true, if_false, if_true]
    · simp only [hbody, State.loadVals, State.rdLanes_of h]
  · intro s key num st o hfind hready hdata
    refine ⟨fun hdump => ?_, fun hdump hecc hasked => ?_, fun y vals fl u ho hy hst hv => ?_⟩
    · simp only [exec_symbolResolution, execSymbolResolution, event, hfind, hready, hdata, hdump, Bool.not_true, Bool.false_eq_true,
        if_false, if_true]
    · simp only [exec_symbolResolution, execSymbolResolution, event, hfind, hready, hdata, hdump, Bool.not_true, Bool.false_eq_true,
        if_false]
      have hread := s.lateRead_of (key := key) hecc fun s => s.resolveSym key o.id num
      rw [State.farFor_of (by rw [hread]; exact hasked), hread]
    · refine ⟨State.resolveSym_of hst ho hy hv, fun hlead q => ?_⟩
      have hnum : y.num = num := by simpa using List.find?_some hy
      rw [Strand.settleSym_of hlead, hnum]

end Sys2Proof.Machine
end

section
/-! PROOFS. Stores, atomics and sync-word updates perform (R108, R134, R220, R228). -/

namespace Sys2Proof.Machine

open Sys2Proof

/-! ## A write where an access goes -/

/-- Where accesses go is told by the exchanges of the dies and by the group's bridge. -/
theorem State.redirect_congr {s t : State} (hw : t.dieW = s.dieW) (he : t.dieE = s.dieE) (hb : t.boot = s.boot) (p : Place) (a : Nat) :
    t.redirect p a = s.redirect p a := by
  simp only [State.redirect, State.hostPlace, hw, he, hb]

/-- Asking for what another device holds notes the request and nothing else. -/
theorem State.farAsk_eq (s : State) (r : FarReq) : ∃ far, s.farAsk r = { s with far := far } := by
  unfold State.farAsk
  split
  · exact ⟨s.far, rfl⟩
  · exact ⟨_, rfl⟩

theorem State.farWrite_eq (s : State) (a : Nat) (l : List Byte) (b32 : Bool) : ∃ far, s.farWrite a l b32 = { s with far := far } := by
  unfold State.farWrite
  induction farStores a l b32 generalizing s with
  | nil => exact ⟨s.far, rfl⟩
  | cons r rs ih =>
    obtain ⟨far, h⟩ := s.farAsk_eq r
    rw [List.foldl_cons, h]
    exact ih { s with far := far }

/-- A write reaches one memory of this device or asks another device, and notes what upset words it meets. -/
theorem State.wr_eq (s : State) (p : Place) (a n v : Nat) (b32 : Bool) :
    ((s.redirect p a).1 = .peer ∧ ∃ far, s.wr p a n v b32 = { s with far := far }) ∨
      ((s.redirect p a).1 ≠ .peer ∧ ∃ ups, s.wr p a n v b32 = { s.store (s.redirect p a).1 (s.redirect p a).2 n v with upsets := ups }) := by
  by_cases h : (s.redirect p a).1 = .peer
  · obtain ⟨far, hf⟩ := s.farWrite_eq (s.redirect p a).2 (bytesOf n v) b32
    exact .inl ⟨h, far, (if_pos h).trans hf⟩
  · exact .inr ⟨h, _, if_neg h⟩

theorem State.store_dies (s : State) (p : Place) (a n v : Nat) :
    (s.store p a n v).dieW = s.dieW ∧ (s.store p a n v).dieE = s.dieE ∧ (s.store p a n v).boot = s.boot := by
  cases p <;> exact ⟨rfl, rfl, rfl⟩

theorem State.redirect_wr (s : State) (p : Place) (a n v : Nat) (b32 : Bool) (q : Place) (k : Nat) :
    (s.wr p a n v b32).redirect q k = s.redirect q k := by
  obtain ⟨-, far, h⟩ | ⟨-, ups, h⟩ := s.wr_eq p a n v b32
  · rw [h]
    rfl
  · obtain ⟨hw, he, hb⟩ := s.store_dies (s.redirect p a).1 (s.redirect p a).2 n v
    rw [h]
    exact State.redirect_congr hw he hb q k

theorem State.memWf_wr {s : State} (hs : s.memWf = true) (p : Place) (a n v : Nat) (b32 : Bool) :
    (s.wr p a n v b32).memWf = true := by
  obtain ⟨-, far, h⟩ | ⟨-, ups, h⟩ := s.wr_eq p a n v b32
  · rw [h]
    exact hs
  · rw [h]
    exact State.memWf_store s _ _ n v hs

/-- A write leaves every byte but those that it names where it goes. -/
theorem State.readByte_wr_other {s : State} (hs : s.memWf = true) (p : Place) (a n v : Nat) (b32 : Bool) (q : Place) (k : Nat)
    (h : (s.redirect p a).1 = q → k < (s.redirect p a).2 ∨ (s.redirect p a).2 + n ≤ k) :
    readByte ((s.wr p a n v b32).cells q) k = readByte (s.cells q) k := by
  obtain ⟨-, far, hwr⟩ | ⟨-, ups, hwr⟩ := s.wr_eq p a n v b32
  · rw [hwr]
    cases q <;> rfl
  · rw [hwr]
    refine Eq.trans ?_ (State.sameMemBut_store hs (s.redirect p a).1 (s.redirect p a).2 n v q k fun hq => h hq.symm)
    cases q <;> rfl

/-- A write to a memory of this device is read back. -/
theorem State.readByte_wr {s : State} (hs : s.memWf = true) (p : Place) (a n v : Nat) (b32 : Bool)
    (hp : (s.redirect p a).1 ≠ .peer) (hb : (s.redirect p a).1 ≠ .bell) {i : Nat} (hi : i < n) :
    readByte ((s.wr p a n v b32).cells (s.redirect p a).1) ((s.redirect p a).2 + i) = .ofNat 8 (v / 256 ^ i) := by
  obtain ⟨h, -⟩ | ⟨-, ups, hwr⟩ := s.wr_eq p a n v b32
  · exact absurd h hp
  · rw [hwr]
    have := State.readByte_store hs hp hb (s.redirect p a).2 n v ((s.redirect p a).2 + i)
    rw [if_pos (by omega), Nat.add_sub_cancel_left] at this
    exact Eq.trans (by cases (s.redirect p a).1 <;> rfl) this

/-! ## The lanes of a store, one after another -/

/-- What a store writes of a lane. -/
def Acc.storeVal (a : Acc) (t : Ty) (data : List DWord) : Nat := (data.getD a.lane 0).toNat % 2 ^ (8 * t.bytes)

/-- The writes of some lanes. -/
def State.storeLanes (s : State) (accs : List Acc) (t : Ty) (data : List DWord) : State :=
  accs.foldl (fun s a => s.wrAcc a.place a.pa t.bytes (a.storeVal t data)) s

theorem State.doStore_store (s : State) (key : Nat) (accs : List Acc) (t : Ty) (data : List DWord) :
    s.doStore key (.store accs t data) = s.storeLanes (topLanes accs) t data := rfl

theorem State.wrAcc_of {p : Place} (hb : p ≠ .bell) (s : State) (a n v : Nat) : s.wrAcc p a n v = s.wr p a n v (decide (n = 4)) :=
  if_neg hb

section
variable {t : Ty} {data : List DWord}

/-- A lane's write keeps canonical memories and where accesses go. -/
theorem State.storeLanes_cons {s : State} {a : Acc} {l : List Acc} (hs : s.memWf = true) (hb : a.place ≠ .bell) :
    ∃ u : State, s.storeLanes (a :: l) t data = u.storeLanes l t data ∧ u.memWf = true ∧ (∀ p k, u.redirect p k = s.redirect p k) ∧
      u = s.wr a.place a.pa t.bytes (a.storeVal t data) (decide (t.bytes = 4)) :=
  ⟨_, by rw [State.storeLanes, List.foldl_cons, State.wrAcc_of hb]; rfl, State.memWf_wr hs _ _ _ _ _, s.redirect_wr _ _ _ _ _, rfl⟩

/-- A store leaves every byte that no lane names. -/
theorem State.readByte_storeLanes_other {q : Place} {k : Nat} :
    ∀ {l : List Acc} {s : State}, s.memWf = true → (∀ a ∈ l, a.place ≠ .bell) →
      (∀ a ∈ l, (s.redirect a.place a.pa).1 = q → k < (s.redirect a.place a.pa).2 ∨ (s.redirect a.place a.pa).2 + t.bytes ≤ k) →
      readByte ((s.storeLanes l t data).cells q) k = readByte (s.cells q) k
  | [], _, _, _, _ => rfl
  | a :: l, s, hs, hb, h => by
    obtain ⟨u, heq, hu, hr, hwr⟩ := State.storeLanes_cons (t := t) (data := data) (l := l) hs (hb a List.mem_cons_self)
    rw [heq, State.readByte_storeLanes_other hu (fun b hl => hb b (List.mem_cons_of_mem a hl)) (by
      intro b hl
      rw [hr]
      exact h b (List.mem_cons_of_mem a hl)), hwr]
    exact State.readByte_wr_other hs _ _ _ _ _ q k (h a List.mem_cons_self)

/-- A lane's bytes stand where no other lane names one of them. -/
theorem State.readByte_storeLanes {a : Acc} {i : Nat} (hi : i < t.bytes) {l : List Acc} {s : State} (hs : s.memWf = true)
    (hb : ∀ b ∈ l, b.place ≠ .bell) (ha : a ∈ l) (hp : (s.redirect a.place a.pa).1 ≠ .peer)
    (hbell : (s.redirect a.place a.pa).1 ≠ .bell)
    (hapart : ∀ b ∈ l, b ≠ a → (s.redirect b.place b.pa).1 = (s.redirect a.place a.pa).1 →
      (s.redirect b.place b.pa).2 + t.bytes ≤ (s.redirect a.place a.pa).2 ∨
        (s.redirect a.place a.pa).2 + t.bytes ≤ (s.redirect b.place b.pa).2) :
    readByte ((s.storeLanes l t data).cells (s.redirect a.place a.pa).1) ((s.redirect a.place a.pa).2 + i) =
      .ofNat 8 (a.storeVal t data / 256 ^ i) := by
  induction l generalizing s with
  | nil => exact absurd ha List.not_mem_nil
  | cons b l ih =>
    obtain ⟨u, heq, hu, hr, hwr⟩ := State.storeLanes_cons (t := t) (data := data) (l := l) hs (hb b List.mem_cons_self)
    have hbl : ∀ e ∈ l, e.place ≠ .bell := fun e he => hb e (List.mem_cons_of_mem b he)
    rw [heq]
    by_cases hal : a ∈ l
    · have := ih hu hbl hal (by rw [hr]; exact hp) (by rw [hr]; exact hbell) fun e he hea => by
        rw [hr, hr]
        exact hapart e (List.mem_cons_of_mem b he) hea
      rw [hr] at this
      exact this
    · obtain rfl : a = b := (List.mem_cons.mp ha).resolve_right hal
      have hother := State.readByte_storeLanes_other (t := t) (data := data) (q := (s.redirect a.place a.pa).1)
        (k := (s.redirect a.place a.pa).2 + i) hu hbl fun e he hplace => by
          rw [hr] at hplace ⊢
          have := hapart e (List.mem_cons_of_mem a he) (fun h => hal (h ▸ he)) hplace
          omega
      rw [hother, hwr]
      exact State.readByte_wr hs _ _ _ _ _ hp hbell hi

end

/-! ## The highest lane of several at one address -/

theorem mem_of_mem_topLanes {a : Acc} : ∀ {l : List Acc}, a ∈ topLanes l → a ∈ l
  | b :: l, h => by
    unfold topLanes at h
    split at h
    · exact List.mem_cons_of_mem b (mem_of_mem_topLanes h)
    · obtain rfl | h := List.mem_cons.mp h
      · exact List.mem_cons_self
      · exact List.mem_cons_of_mem b (mem_of_mem_topLanes h)

/-- A lane whose address no other lane names writes. -/
theorem mem_topLanes {a : Acc} : ∀ {l : List Acc}, a ∈ l → (∀ b ∈ l, b.place = a.place → b.pa = a.pa → b = a) → a ∈ topLanes l
  | b :: l, ha, h => by
    have htail : ∀ e ∈ l, e.place = a.place → e.pa = a.pa → e = a := fun e he => h e (List.mem_cons_of_mem b he)
    unfold topLanes
    split
    · next hany =>
      refine mem_topLanes ?_ htail
      obtain rfl | ha := List.mem_cons.mp ha
      · obtain ⟨e, he, hsame⟩ := List.any_eq_true.mp hany
        simp only [Bool.and_eq_true, beq_iff_eq] at hsame
        exact htail e he hsame.1 hsame.2 ▸ he
      · exact ha
    · obtain rfl | ha := List.mem_cons.mp ha
      · exact List.mem_cons_self
      · exact List.mem_cons_of_mem b (mem_topLanes ha htail)

/-- A lane with a later one at its address does not count (R108). -/
theorem topLanes_drop {a b : Acc} {post : List Acc} (hb : b ∈ post) (hp : b.place = a.place) (hpa : b.pa = a.pa) :
    ∀ pre : List Acc, topLanes (pre ++ a :: post) = topLanes (pre ++ post)
  | [] => if_pos (List.any_eq_true.mpr ⟨b, hb, by simp [hp, hpa]⟩)
  | x :: pre => by
    have hany : ((pre ++ a :: post).any fun e => e.place == x.place && e.pa == x.pa) =
        (pre ++ post).any fun e => e.place == x.place && e.pa == x.pa := by
      rw [Bool.eq_iff_iff, List.any_eq_true, List.any_eq_true]
      constructor
      · rintro ⟨e, he, hx⟩
        obtain he | rfl | he : e ∈ pre ∨ e = a ∨ e ∈ post := by simpa using he
        · exact ⟨e, List.mem_append_left post he, hx⟩
        · exact ⟨b, List.mem_append_right pre hb, by rw [hp, hpa]; exact hx⟩
        · exact ⟨e, List.mem_append_right pre he, hx⟩
      · rintro ⟨e, he, hx⟩
        exact ⟨e, by simp only [List.mem_append, List.mem_cons] at he ⊢; tauto, hx⟩
    rw [List.cons_append, List.cons_append, topLanes, topLanes, hany, topLanes_drop hb hp hpa pre]

/-- A byte of a value cut to its bytes. -/
theorem Acc.storeVal_byte (a : Acc) (t : Ty) (data : List DWord) {i : Nat} (hi : i < t.bytes) :
    BitVec.ofNat 8 (a.storeVal t data / 256 ^ i) = .ofNat 8 ((data.getD a.lane 0).toNat / 256 ^ i) := by
  apply BitVec.eq_of_toNat_eq
  rw [BitVec.toNat_ofNat, BitVec.toNat_ofNat, Acc.storeVal, show (256 : Nat) = 2 ^ 8 from rfl, ← pow_mul]
  apply Nat.eq_of_testBit_eq
  intro j
  simp only [Nat.testBit_mod_two_pow, Nat.testBit_div_two_pow]
  by_cases hj : j < 8
  · simp [hj, show j + 8 * i < 8 * t.bytes by omega]
  · simp [hj]

/-! ## Atomics -/

theorem State.doAtomics_cons {s : State} {a : Acc} (rest : List Acc) (op : AtmOp) (t : Ty) (v e : List DWord)
    (hp : (s.redirect a.place a.pa).1 ≠ .peer) :
    s.doAtomics (a :: rest) op t v e =
      ((a.lane, extendTy t (s.rdAcc a.place a.pa t.bytes).1) ::
        (((s.rdAcc a.place a.pa t.bytes).2.wrAcc a.place a.pa t.bytes (atmNew op t (s.rdAcc a.place a.pa t.bytes).1
          (v.getD a.lane 0).toNat (e.getD a.lane 0).toNat)).doAtomics rest op t v e).1,
        (((s.rdAcc a.place a.pa t.bytes).2.wrAcc a.place a.pa t.bytes (atmNew op t (s.rdAcc a.place a.pa t.bytes).1
          (v.getD a.lane 0).toNat (e.getD a.lane 0).toNat)).doAtomics rest op t v e).2) := by
  have hfold : ∀ (l : List Acc) (vs : LaneVals) (u : State),
      l.foldl (fun (acc : LaneVals × State) a =>
        (acc.1 ++ [(a.lane, extendTy t (acc.2.doAtomic a op t (v.getD a.lane 0).toNat (e.getD a.lane 0).toNat).1)],
          (acc.2.doAtomic a op t (v.getD a.lane 0).toNat (e.getD a.lane 0).toNat).2)) (vs, u) =
      (vs ++ (u.doAtomics l op t v e).1, (u.doAtomics l op t v e).2) := by
    intro l
    induction l with
    | nil => simp [State.doAtomics]
    | cons b l ih =>
      intro vs u
      have hcons : u.doAtomics (b :: l) op t v e = _ :=
        ih [(b.lane, extendTy t (u.doAtomic b op t (v.getD b.lane 0).toNat (e.getD b.lane 0).toNat).1)]
          (u.doAtomic b op t (v.getD b.lane 0).toNat (e.getD b.lane 0).toNat).2
      rw [List.foldl_cons, ih, hcons]
      simp
  have hone : s.doAtomic a op t (v.getD a.lane 0).toNat (e.getD a.lane 0).toNat =
      ((s.rdAcc a.place a.pa t.bytes).1, (s.rdAcc a.place a.pa t.bytes).2.wrAcc a.place a.pa t.bytes
        (atmNew op t (s.rdAcc a.place a.pa t.bytes).1 (v.getD a.lane 0).toNat (e.getD a.lane 0).toNat)) := if_neg hp
  refine (hfold rest [(a.lane, extendTy t (s.doAtomic a op t (v.getD a.lane 0).toNat (e.getD a.lane 0).toNat).1)]
    (s.doAtomic a op t (v.getD a.lane 0).toNat (e.getD a.lane 0).toNat).2).trans ?_
  rw [hone]
  rfl

/-- Settles O36. -/
theorem storePerformedResults : Obligations.StorePerformedResults := by
  unfold Obligations.StorePerformedResults
  refine ⟨fun s key id st o hready hwrites => ⟨fun hasked => ?_, fun accs t data hbody hs hb => ?_⟩, fun s a rest op t v e => ?_⟩
  · simp only [exec_storePerformed, execStorePerformed, event, hready, hwrites, if_true]
    rw [State.farFor_of hasked]
  · intro at_ u
    have hu : u = s.storeLanes (topLanes accs) t data := by
      dsimp only [u]
      rw [hbody, State.doStore_store]
    have hbtop : ∀ a ∈ topLanes accs, a.place ≠ .bell := fun a ha => hb a (mem_of_mem_topLanes ha)
    refine ⟨fun q k h => ?_, fun a ha hp hbell hapart i hi => ?_, fun pre a post b hsplit hbpost hplace hpa => ?_⟩
    · rw [hu]
      exact State.readByte_storeLanes_other hs hbtop fun a ha => h a (mem_of_mem_topLanes ha)
    · have hbytes : 0 < t.bytes := Nat.lt_of_le_of_lt (Nat.zero_le i) hi
      have htop : a ∈ topLanes accs := by
        refine mem_topLanes ha fun b hbm hplace hpa => by_contra fun hba => ?_
        have hsame : at_ b = at_ a := by
          dsimp only [at_]
          rw [hplace, hpa]
        have := hapart b hbm hba (by rw [hsame])
        rw [hsame] at this
        omega
      rw [hu, ← a.storeVal_byte t data hi]
      exact State.readByte_storeLanes hi hs hbtop htop hp hbell fun b hbm => hapart b (mem_of_mem_topLanes hbm)
    · rw [hu, State.doStore_store, hsplit, topLanes_drop hbpost hplace hpa]
  · refine ⟨fun hp => State.doAtomics_cons rest op t v e hp, fun key id st o hready => ⟨fun d hbody => ?_, fun p pa upd hbody => ?_⟩⟩
    · rw [hbody]
      rfl
    · rw [hbody]
      rfl

end Sys2Proof.Machine
end

section
/-! PROOFS. Fences, waits, batches and barriers (R230 to R233, R377, R39). -/

namespace Sys2Proof.Machine

open Sys2Proof

/-! ## Waiting -/

/-- An operation that is not suspended parks no split. -/
theorem Op.parks_of_susp {o : Op} (h : o.susp = none) : o.parks = false := by
  unfold Op.parks
  rw [h]

/-- With nothing due of the classes and nothing left, a wait goes on. -/
theorem Ic.waitOps_of {c : Ic} {s : State} {ks : List Ctr} {left : List Op} (hdue : ∀ d ∈ c.st.due, ks.contains d.2.2.2 = false)
    (hleft : left = []) (why : Stall) (k : Act) : c.waitOps s ks left why k = k := by
  unfold Ic.waitOps
  rw [List.find?_eq_none.mpr fun d hd => ne_true_of_eq_false (hdue d hd)]
  exact if_pos (by rw [hleft]; rfl)

/-- With nothing due of the classes and operations left, none of them suspended, a wait waits. -/
theorem Ic.waitOps_waits {c : Ic} {s : State} {ks : List Ctr} {left : List Op} (hdue : ∀ d ∈ c.st.due, ks.contains d.2.2.2 = false)
    (hleft : left ≠ []) (hsusp : ∀ o ∈ left, o.susp = none) (why : Stall) (k : Act) : c.waitOps s ks left why k = .wait s why := by
  unfold Ic.waitOps
  rw [List.find?_eq_none.mpr fun d hd => ne_true_of_eq_false (hdue d hd),
    List.find?_eq_none.mpr fun o ho => ne_true_of_eq_false (Op.parks_of_susp (hsusp o ho))]
  exact if_neg (by simpa using hleft)

/-- The operations that keep a count from being met are some of the strand's. -/
theorem Strand.mem_of_mem_blockers {st : Strand} {k : Ctr} {n : Nat} {o : Op} (h : o ∈ st.blockers k n) : o ∈ st.ops :=
  (List.mem_filter.mp (List.mem_of_mem_take h)).1

/-- A count is met when no operation keeps it from being met. -/
theorem Strand.blockers_eq_nil_iff {st : Strand} {k : Ctr} {n : Nat} : st.blockers k n = [] ↔ st.count k ≤ n := by
  unfold Strand.blockers Strand.count
  rw [List.take_eq_nil_iff]
  constructor
  · rintro (h | h)
    · omega
    · simp [h]
  · intro h
    exact .inl (Nat.sub_eq_zero_of_le h)

/-- Every count of a list is met when no operation keeps one from being met. -/
theorem Strand.flatMap_blockers_eq_nil_iff {st : Strand} {l : List (Ctr × Nat)} :
    (l.flatMap fun e => st.blockers e.1 e.2) = [] ↔ ∀ e ∈ l, st.count e.1 ≤ e.2 := by
  simp [List.flatMap_eq_nil_iff, Strand.blockers_eq_nil_iff]

section
variable {s : State} {c : Ic} {len : Nat} {counts : List (Ctr × Nat)}

theorem waitOp_goes (hi : s.issuer = some c) (hdue : ∀ d ∈ c.st.due, (counts.map (·.1)).contains d.2.2.2 = false)
    (h : ∀ e ∈ counts, c.st.count e.1 ≤ e.2) : waitOp s len counts = c.ends s len s :=
  issue_of hi (Ic.waitOps_of hdue (Strand.flatMap_blockers_eq_nil_iff.mpr h) _ _)

theorem waitOp_waits (hi : s.issuer = some c) (hdue : ∀ d ∈ c.st.due, (counts.map (·.1)).contains d.2.2.2 = false)
    (h : ¬∀ e ∈ counts, c.st.count e.1 ≤ e.2) (hsusp : ∀ o ∈ c.st.ops, o.susp = none) :
    waitOp s len counts = .next (s.conclude c len (.wait s .counterWait)) := by
  refine issue_of hi (Ic.waitOps_waits hdue (fun hnil => h (Strand.flatMap_blockers_eq_nil_iff.mp hnil)) (fun o ho => ?_) _ _)
  obtain ⟨e, -, ho⟩ := List.mem_flatMap.mp ho
  exact hsusp o (Strand.mem_of_mem_blockers ho)

theorem execFence_goes {x : Opnds} (hi : s.issuer = some c) (hld : c.st.count .ld = 0) (hst : c.st.count .st = 0) :
    exec (.fence x) s = c.ends s x.len s :=
  issueX_ends_of hi (Ic.waitOps_nil (by
    rw [Strand.blockers_eq_nil_iff.mpr (Nat.le_of_eq hld), Strand.blockers_eq_nil_iff.mpr (Nat.le_of_eq hst)]
    rfl) _ _)

theorem execFence_waits {x : Opnds} (hi : s.issuer = some c) (h : c.st.count .ld + c.st.count .st ≠ 0)
    (hsusp : ∀ o ∈ c.st.ops, o.susp = none) : exec (.fence x) s = .next (s.conclude c x.len (.wait s .counterWait)) := by
  refine issueX_of hi (Ic.waitOps_waits (fun d _ => rfl) (fun hnil => h ?_) (fun o ho => ?_) _ _)
  · obtain ⟨hld, hst⟩ := List.append_eq_nil_iff.mp hnil
    have hld := Strand.blockers_eq_nil_iff.mp hld
    have hst := Strand.blockers_eq_nil_iff.mp hst
    omega
  · obtain ho | ho := List.mem_append.mp ho
    · exact hsusp o (Strand.mem_of_mem_blockers ho)
    · exact hsusp o (Strand.mem_of_mem_blockers ho)

end

/-- Settles O37. -/
theorem fenceAndWaitResults : Obligations.FenceAndWaitResults := by
  unfold Obligations.FenceAndWaitResults
  constructor
  · intro s c x n m hi
    refine ⟨fun hld hst => execFence_goes hi hld hst, fun hdue h => ?_, fun hdue h => ?_, fun hdue h hsusp => ?_,
      fun h hsusp => execFence_waits hi h hsusp⟩
    · exact (exec_wait s).trans (waitOp_goes hi hdue h)
    · exact (exec_waitBase s).trans (waitOp_goes hi hdue h)
    · exact (exec_wait s).trans (waitOp_waits hi hdue h hsusp)
  · intro s c x a hi closed
    refine ⟨fun hbusy hroom => ?_, fun hbusy hfull => ?_, fun ha hdue h => ?_⟩
    · rw [exec_batch, execBatch]
      exact issueX_ends_of hi ((if_neg (ne_true_of_eq_false hbusy)).trans (if_neg (Nat.not_le.mpr hroom)))
    · rw [exec_batch, execBatch]
      exact issueX_of hi ((if_neg (ne_true_of_eq_false hbusy)).trans (if_pos hfull))
    · obtain ⟨k, ho, rfl⟩ := Ic.offs_of_scalar ha
      rw [exec_waitb, execWaitb]
      refine issueX_ends_of hi ((c.known_of s x _ _ _ ho).trans (Ic.waitOps_of (fun d hd => ?_) ?_ _ _))
      · simpa using hdue d hd
      · refine List.filter_eq_nil_iff.mpr fun o hop => ?_
        cases hb : o.batch with
        | none => simp
        | some b =>
          simp only [List.contains_eq_mem, decide_eq_true_eq, List.mem_filter, not_and]
          exact fun hclosed hsel => h o hop b hb hclosed (of_decide_eq_true hsel)

/-! ## Barriers -/

section
variable {s : State} {c : Ic} {x : Opnds} {a b : DWord}

theorem execBar_of (hi : s.issuer = some c) (ha : c.scalars x [x.a] = some [a]) (hk : a.toNat ≤ 15) (hd : c.drained = true) :
    exec (.bar x) s = .next (s.conclude c x.len (.stay
      ((s.toBarrier c x.len (.workgroup a.toNat)).tryBar c.st.wg a.toNat))) := by
  obtain ⟨k, ho, rfl⟩ := Ic.offs_of_scalar ha
  rw [exec_bar, execBar]
  refine issueX_of hi ((c.known_of s x _ _ _ ho).trans ?_)
  exact (if_neg (Nat.not_lt.mpr hk)).trans (if_neg (by rw [hd]; decide))

theorem execCbar_of (hi : s.issuer = some c) (ha : c.scalars x [x.a, x.b] = some [a, b]) (hk : a.toNat ≤ 15) (hmin : 1 ≤ b.toNat)
    (hmax : b.toNat ≤ 1024)
    (hneed : (mapGet CBar.reset s.cbars (cbarKey c.st.part (coreOf c.key) a.toNat)).need = 0 ∨
      (mapGet CBar.reset s.cbars (cbarKey c.st.part (coreOf c.key) a.toNat)).need = b.toNat) (hd : c.drained = true) :
    exec (.cbar x) s = .next (s.conclude c x.len (.stay
      ((({ s with cbars := mapPut CBar.reset s.cbars (cbarKey c.st.part (coreOf c.key) a.toNat)
                        { mapGet CBar.reset s.cbars (cbarKey c.st.part (coreOf c.key) a.toNat) with need := b.toNat } } : State).toBarrier c x.len
        (.cluster a.toNat (mapGet CBar.reset s.cbars (cbarKey c.st.part (coreOf c.key) a.toNat)).round)).cbarArrive c.key a.toNat))) := by
  obtain ⟨ka, kb, ho, rfl, rfl⟩ := Ic.offs_of_scalars ha
  rw [exec_cbar, execCbar]
  refine issueX_of hi ((c.known_of s x _ _ _ ho).trans ?_)
  refine (if_neg (Nat.not_lt.mpr hk)).trans <| (if_neg fun h => ?_).trans (if_neg (by rw [hd]; decide))
  obtain h | h | ⟨h0, hb⟩ := h
  · exact absurd h (Nat.ne_of_gt hmin)
  · exact absurd hmax (Nat.not_le.mpr h)
  · exact hneed.elim h0 hb

end

/-- A workgroup barrier at which every strand has arrived and one waits releases all that wait there (R39). -/
theorem State.tryBar_releases {t : State} {wg k : Nat} {w : Wg} (hw : t.wg? wg = some w)
    (hall : ∀ n ∈ w.strands, ∃ st, t.strand? n = some st ∧ st.atBar (.workgroup k) = true)
    (hone : ∃ n ∈ w.strands, ∃ st, t.strand? n = some st ∧ ∃ p ∈ st.ctx.splits, p.st = .barrier ∧ p.bar = some (.workgroup k)) :
    t.tryBar wg k = t.onStrands w.strands (·.releaseBar (.workgroup k)) := by
  simp only [State.tryBar, hw]
  refine if_pos (Bool.and_eq_true_iff.mpr ⟨List.all_eq_true.mpr fun n hn => ?_, List.any_eq_true.mpr ?_⟩)
  · obtain ⟨st, hst, hat⟩ := hall n hn
    simp only [hst, hat]
  · obtain ⟨n, hn, st, hst, p, hp, hbar, hk⟩ := hone
    refine ⟨n, hn, ?_⟩
    simp only [hst]
    exact List.any_eq_true.mpr ⟨p, hp, by simp [hbar, hk]⟩

/-- A strand that has not arrived keeps the barrier closed. -/
theorem State.tryBar_keeps_closed {t : State} {wg k n : Nat} {w : Wg} {st : Strand} (hw : t.wg? wg = some w) (hn : n ∈ w.strands)
    (hst : t.strand? n = some st) (hat : st.atBar (.workgroup k) = false) : t.tryBar wg k = t := by
  simp only [State.tryBar, hw]
  refine if_neg fun h => ?_
  have := List.all_eq_true.mp (Bool.and_eq_true_iff.mp h).1 n hn
  simp [hst, hat] at this

/-- A split that waits at a released barrier goes on where it stood. -/
theorem Strand.split_releaseBar {st : Strand} {w : BarWait} {i : Nat} (hst : (st.split i).st = .barrier)
    (hbar : (st.split i).bar = some w) : (st.releaseBar w).split i = (st.split i).wakeBar := by
  unfold Strand.split at hst hbar ⊢
  rw [List.getD_eq_getElem?_getD] at hst hbar ⊢
  rw [List.getD_eq_getElem?_getD, Strand.releaseBar, Strand.onCtx, List.getElem?_map]
  cases hp : st.ctx.splits[i]? with
  | none =>
    rw [hp] at hst
    exact absurd hst (by decide)
  | some p =>
    rw [hp] at hst hbar
    rw [Option.getD_some] at hst hbar
    simp [hst, hbar]

/-- Settles O38. -/
theorem barrierResults : Obligations.BarrierResults := by
  unfold Obligations.BarrierResults
  intro s c x a b hi k ck cb
  refine ⟨fun ha hk hd => execBar_of hi ha hk hd, fun ha hk hmin hmax hneed hd => execCbar_of hi ha hk hmin hmax hneed hd,
    fun t wg w hw hall hone => State.tryBar_releases hw hall hone,
    fun t wg w n st hw hn hst hat => State.tryBar_keeps_closed hw hn hst hat, fun st w i hst hbar => ?_⟩
  rw [Strand.split_releaseBar hst hbar]
  exact ⟨rfl, rfl⟩

end Sys2Proof.Machine
end

section
/-! PROOFS. Sync words and memory counters (R228, R229, R234, R235). -/

namespace Sys2Proof.Machine

open Sys2Proof

section
variable {s : State} {c : Ic} {i : Instr} {x : Opnds} {ops : List Opnd}

/-- A check that finds nothing wrong with a sync word's address. -/
theorem Ic.msAddr_of {ka kb : Off}
    (h : c.checkAddrs s (msSpace x) x.a 8 (laneAddrs (msSpace x) c.regs x.a x.b ka kb [lowLane c.sp.mask]) = none) :
    c.msAddr s x ka kb = (laneAddrs (msSpace x) c.regs x.a x.b ka kb [lowLane c.sp.mask], none) := by
  simp only [Ic.msAddr, h, Option.map_none]

theorem msUpdate_updates {u : DWord → DWord → SyncUpd} (hx : exec i s = msUpdate s x ops u) (hi : s.issuer = some c) :
    c.updates s i x ops u := by
  intro ka kb rest e ho hclear
  have hredo := hclear.1
  have hcheck := hclear.2.2.1
  rw [hx, msUpdate]
  refine issueX_ends_of hi ((c.known_of s x _ _ _ ho).trans ?_)
  simp only [List.getD_cons_zero, List.getD_cons_succ, List.drop_succ_cons, List.drop_zero, Ic.msAddr_of hcheck, c.memLanes_of hredo,
    c.memData_of hredo]
  exact (Ic.firstIssue_of rfl _).trans ((Ic.memIssue_clear (ok := [e]) hclear rfl rfl rfl rfl).trans rfl)

theorem State.load_far (s : State) (far : FarIo) (p : Place) (a n : Nat) : ({ s with far := far } : State).load p a n = s.load p a n := by
  cases p <;> rfl

/-- A word in a memory of this device is read at once, with nothing asked of another device. -/
theorem Ic.peek_of {p : Place} {a n : Nat} (hp : (s.redirect p a).1 ≠ .peer) (hasked : s.far.asked = []) (k : State → Nat → Act) :
    c.peek s p a n k =
      k { s with far := { (s.far.used (.issue c.key c.slot)) with cur := none } } (s.load (s.redirect p a).1 (s.redirect p a).2 n) := by
  have hrd : ({ s with far := { s.far with cur := some (.issue c.key c.slot) } } : State).rd p a n =
      (s.load (s.redirect p a).1 (s.redirect p a).2 n, { s with far := { s.far with cur := some (.issue c.key c.slot) } }) := by
    exact (if_neg hp).trans (Prod.ext (s.load_far _ _ _ _) rfl)
  simp only [Ic.peek, hrd]
  split
  · rfl
  · next hne => exact absurd hasked hne

/-- What a sync-word read comes to at issue, where nothing stands in its way. -/
theorem msRead_of {ka kb : Off} {rest : List Off} {e : Nat × DWord × Tr} {k : Ic → State → DWord → List DWord → Act} {act : Act}
    (hi : s.issuer = some c)
    (ho : c.offs x ([(x.a, addrWide x.a), (x.b, addrWide x.b)] ++ ops.map fun o => (o, true)) = some (ka :: kb :: rest))
    (hredo : c.sp.redo = none) (hbusy : c.st.busy x.d true = false)
    (hcheck : c.checkAddrs s (msSpace x) x.a 8 (laneAddrs (msSpace x) c.regs x.a x.b ka kb [lowLane c.sp.mask]) = none)
    (hreach : c.reaches s (msSpace x) x.a .read 8 (laneAddrs (msSpace x) c.regs x.a x.b ka kb [lowLane c.sp.mask]) [e])
    (hroom : s.sectorsFit (coreOf c.key) (plainRanges [e] 8 false) = true) (hecc : s.eccScan c.st.part 8 (accsOf [e]) = (s, [], 0, 0))
    (hmay : c.st.mayPerform (c.newOp .ld (.load (accsOf [e]) .b64 .none) 1 (reachScope [e] x.scope)) = true)
    (hhid : s.hidden c.key (c.newOp .ld (.load (accsOf [e]) .b64 .none) 1 (reachScope [e] x.scope)) = false)
    (hp : (s.redirect e.2.2.place e.2.2.pa).1 ≠ .peer) (hasked : s.far.asked = [])
    (hk : (k c { s with far := { (s.far.used (.issue c.key c.slot)) with cur := none } }
      (.ofNat 64 (s.load (s.redirect e.2.2.place e.2.2.pa).1 (s.redirect e.2.2.place e.2.2.pa).2 8))
      (rest.map fun o => o.at 0)).acquired c (reachScope [e] x.scope) = act) :
    msRead s x ops k = .next (s.conclude c x.len act) := by
  have hsort : sortLanes (laneAddrs (msSpace x) c.regs x.a x.b ka kb [lowLane c.sp.mask]) (fun v => [v])
      (fun v => (c.trLane s (msSpace x) x.a .read v).plain 8) = { ok := [e], fail := [], miss := [] } :=
    sortLanes_of_ok (by simpa using hreach.1) hreach.2
  rw [msRead]
  refine issueX_of hi ((c.known_of s x _ _ _ ho).trans ?_)
  simp only [List.getD_cons_zero, List.getD_cons_succ, List.drop_succ_cons, List.drop_zero, Ic.msAddr_of hcheck, c.memLanes_of hredo,
    hsort, hecc, hbusy, List.isEmpty_nil, Bool.not_true, Bool.false_eq_true, if_false]
  refine (Ic.firstIssue_of rfl _).trans ((c.sectorRoom_of hroom _).trans ?_)
  have hfollows : (c.st.mayPerform (c.newOp .ld (.load (accsOf [e]) .b64 .none) 1 (reachScope [e] x.scope)) &&
      !s.hidden c.key (c.newOp .ld (.load (accsOf [e]) .b64 .none) 1 (reachScope [e] x.scope))) = true := by
    rw [hmay, hhid]
    rfl
  exact (if_pos hfollows).trans ((Ic.peek_of hp hasked _).trans hk)

/-- A sync-word read that ends with the word in its destination where the word passes, and waits elsewhere. -/
theorem msRead_syncReads {passes : DWord → DWord → Bool} {k : Ic → State → DWord → List DWord → Act}
    (hx : exec i s = msRead s x ops k)
    (hk : ∀ (u : State) (w : DWord) (vs : List DWord), k c u w vs =
      if passes w (vs.getD 0 0) then .done (u.putRegs c (c.regs.setS x.d.snum w)) else .wait u .syncWord)
    (hi : s.issuer = some c) : c.syncReads s i x ops passes := by
  intro ka kb rest e ho hredo hbusy ls hcheck hreach hroom hecc scope o hmay hhid at_ hp hasked w u
  rw [hx]
  split
  · next hpass =>
    refine msRead_of hi ho hredo hbusy hcheck hreach hroom hecc hmay hhid hp hasked ?_
    rw [hk, if_pos hpass]
    rfl
  · next hpass =>
    refine msRead_of hi ho hredo hbusy hcheck hreach hroom hecc hmay hhid hp hasked ?_
    rw [hk, if_neg hpass]
    rfl

end

/-! ## What an update makes of a word -/

theorem getLsbD_armed (i : Nat) : (0x8000000000000000#64).getLsbD i = decide (i = 63) := by
  rw [show 0x8000000000000000#64 = BitVec.twoPow 64 63 from rfl, BitVec.getLsbD_twoPow]
  simp [eq_comm]

theorem getLsbD_under (i : Nat) : (0x4000000000000000#64).getLsbD i = decide (i = 62) := by
  rw [show 0x4000000000000000#64 = BitVec.twoPow 64 62 from rfl, BitVec.getLsbD_twoPow]
  simp [eq_comm]

theorem getLsbD_upperHalf (i : Nat) : (0xFFFFFFFF00000000#64).getLsbD i = decide (32 ≤ i ∧ i < 64) := by
  rw [show 0xFFFFFFFF00000000#64 = BitVec.allOnes 64 <<< 32 from rfl]
  simp only [BitVec.getLsbD_shiftLeft, BitVec.getLsbD_allOnes]
  grind

/-- An armed word: the epoch and the count pending, nothing else (R234). -/
theorem SyncUpd.apply_arm (w : DWord) (p : Word) (e : Byte) :
    (SyncUpd.arm p e).apply w = (1 : BitVec 1) ++ (0 : BitVec 7) ++ e ++ (0 : BitVec 16) ++ p := by
  apply BitVec.eq_of_getLsbD_eq
  intro i hi
  show ((SyncUpd.arm p e).apply w).getLsbD i = _
  simp only [SyncUpd.apply, getLsbD_armed, BitVec.getLsbD_or, BitVec.getLsbD_append, BitVec.getLsbD_shiftLeft, BitVec.getLsbD_setWidth,
    BitVec.getLsbD_one, BitVec.ofNat_eq_ofNat, BitVec.natCast_eq_ofNat, BitVec.getLsbD_zero]
  grind

/-- The pending count of a word. -/
theorem setWidth_syncWord (top under : BitVec 1) (mid : BitVec 14) (fl : Half) (p : Word) :
    (top ++ under ++ mid ++ fl ++ p).setWidth 32 = p := by
  apply BitVec.eq_of_getLsbD_eq
  intro i hi
  simp only [BitVec.getLsbD_setWidth, BitVec.getLsbD_append]
  grind

/-- An arrival ORs its flags and counts down, the count never below zero (R228). -/
theorem SyncUpd.apply_arrive (top under : BitVec 1) (mid : BitVec 14) (fl g : Half) (p n : Word) :
    (SyncUpd.arrive n g).apply (top ++ under ++ mid ++ fl ++ p) =
      if p < n then top ++ (1 : BitVec 1) ++ mid ++ (fl ||| (g &&& 0xFF7F)) ++ (0 : Word)
      else top ++ under ++ mid ++ (fl ||| (g &&& 0xFF7F)) ++ (p - n) := by
  have hp := setWidth_syncWord top under mid fl p
  simp only [SyncUpd.apply, hp, BitVec.lt_def]
  generalize g &&& 0xFF7F = f
  split
  · refine BitVec.eq_of_getLsbD_eq (w := 64) fun i hi => ?_
    simp only [getLsbD_under, getLsbD_upperHalf, BitVec.getLsbD_or, BitVec.getLsbD_and, BitVec.getLsbD_append, BitVec.getLsbD_shiftLeft,
      BitVec.getLsbD_setWidth, BitVec.ofNat_eq_ofNat, BitVec.natCast_eq_ofNat, BitVec.getLsbD_zero]
    grind
  · generalize p - n = q
    refine BitVec.eq_of_getLsbD_eq (w := 64) fun i hi => ?_
    simp only [BitVec.natCast_eq_ofNat, getLsbD_upperHalf, BitVec.getLsbD_or, BitVec.getLsbD_and, BitVec.getLsbD_append, BitVec.getLsbD_shiftLeft,
      BitVec.getLsbD_setWidth]
    grind

/-- A word passes where it is armed for the epoch with nothing pending (R228). -/
theorem syncPasses_word (armed under : BitVec 1) (mid : BitVec 6) (e : Byte) (fl : Half) (p : Word) (k : Byte) :
    syncPasses (armed ++ under ++ mid ++ e ++ fl ++ p) k.toNat = (armed == 1 && e == k && p == 0) := by
  have hcount : (armed ++ under ++ mid ++ e ++ fl ++ p).toNat % 2 ^ 32 = p.toNat := by
    rw [← BitVec.toNat_setWidth]
    congr 1
    apply BitVec.eq_of_getLsbD_eq
    intro i hi
    simp only [BitVec.getLsbD_setWidth, BitVec.getLsbD_append]
    grind
  have hepoch : (armed ++ under ++ mid ++ e ++ fl ++ p).toNat / 2 ^ 48 % 256 = e.toNat := by
    rw [← Nat.shiftRight_eq_div_pow, show 256 = 2 ^ 8 from rfl, ← BitVec.extractLsb'_toNat]
    congr 1
    apply BitVec.eq_of_getLsbD_eq
    intro i hi
    simp only [BitVec.getLsbD_extractLsb', BitVec.getLsbD_append]
    grind
  have harmed : (armed ++ under ++ mid ++ e ++ fl ++ p).getLsbD 63 = (armed == 1) := by
    have hbit : ∀ b : BitVec 1, b.getLsbD 0 = (b == 1) := by decide
    simp only [BitVec.getLsbD_append]
    exact hbit armed
  show ((armed ++ under ++ mid ++ e ++ fl ++ p).getLsbD 63 && (armed ++ under ++ mid ++ e ++ fl ++ p).toNat / 2 ^ 48 % 256 == k.toNat &&
    (armed ++ under ++ mid ++ e ++ fl ++ p).toNat % 2 ^ 32 == 0) = _
  rw [harmed, hepoch, hcount]
  congr 1
  · congr 1
    rw [Bool.eq_iff_iff, beq_iff_eq, beq_iff_eq, BitVec.toNat_inj]
  · rw [Bool.eq_iff_iff, beq_iff_eq, beq_iff_eq, ← BitVec.toNat_inj]
    rfl

/-- Settles O39. -/
theorem syncWordResults : Obligations.SyncWordResults := by
  unfold Obligations.SyncWordResults
  refine ⟨fun s c x hi => ⟨?_, ?_, ?_, ?_, ?_, ?_, ?_⟩, SyncUpd.apply_arm, SyncUpd.apply_arrive, fun _ _ => rfl, syncPasses_word⟩
  · refine msUpdate_updates ?_ hi
    exact exec_syarm s
  · refine msUpdate_updates ?_ hi
    exact exec_syarv s
  · refine msUpdate_updates ?_ hi
    exact exec_syflg s
  · refine msUpdate_updates ?_ hi
    exact exec_signal s
  · exact msRead_syncReads (k := fun c s w _ => .done (s.putRegs c (c.regs.setS x.d.snum w))) (exec_sytst s) (fun _ _ _ => rfl) hi
  · exact msRead_syncReads (k := fun c s w vs =>
      if syncPasses w ((vs.getD 0 0).toNat % 256) then .done (s.putRegs c (c.regs.setS x.d.snum w)) else .wait s .syncWord)
      (exec_sywait s) (fun _ _ _ => rfl) hi
  · generalize hp : (fun w t : DWord => decide (0 ≤ (w - t).toInt)) = passes
    refine msRead_syncReads (k := fun c s w vs =>
      if 0 ≤ (w - vs.getD 0 0).toInt then .done (s.putRegs c (c.regs.setS x.d.snum w)) else .wait s .syncWord)
      ?_ (fun _ w vs => ?_) hi
    · rw [exec_waitc, execWaitc]
    · rw [← hp]
      by_cases h : 0 ≤ (w - vs.getD 0 0).toInt
      · rw [if_pos h, if_pos (decide_eq_true h)]
      · rw [if_neg h, if_neg (by simpa using h)]

end Sys2Proof.Machine
end

section
/-! PROOFS. Remote instructions at issue (R237 to R239). -/

namespace Sys2Proof.Machine

open Sys2Proof

section
variable {s : State} {c : Ic} {i : Instr} {len : Nat}

/-- Legal peers and aligned addresses pass the checks (R405). -/
theorem Ic.rmtCheck_of {m : RmtAct} {n : Nat} (hp : ∀ e ∈ m.peers, peerOk e.2 = true)
    (hl : ∀ e ∈ m.lanes, e.2.toNat < 2 ^ 57 ∧ e.2.toNat % n = 0) : c.rmtCheck m n = none := by
  have hpeers := laneMask_filter_nil (l := m.peers) (p := fun e => !peerOk e.2) fun e he => by rw [hp e he]; rfl
  have hfar := laneMask_filter_nil (l := m.lanes) (p := fun e => decide (2 ^ 57 ≤ e.2.toNat)) fun e he =>
    decide_eq_false (Nat.not_le.mpr (hl e he).1)
  have hmis := laneMask_filter_nil (l := m.lanes) (p := fun e => e.2.toNat % n != 0) fun e he => by simp [(hl e he).2]
  exact (if_neg (not_not.mpr hpeers)).trans <| (if_neg (not_not.mpr hfar)).trans (if_neg (not_not.mpr hmis))

/-- A remote instruction that is not .late, with room and no symbol in its way, issues one operation for each peer. -/
theorem Ic.rmtIssue_of {m : RmtAct} {regs : Regs} (hlate : m.late = false) (hroom : c.st.count m.cls + (peersOf m.peers).length ≤ 255)
    (hfit : s.sectorsFit (coreOf c.key) m.ranges = true) (hsyms : m.kind ≠ .load → c.st.lateRemote m = [])
    (hdest : ∀ k : Regs → Act, c.loadDest s m.dst (decide (laneMask (m.peers.map (·.1)) = fullMask)) k = k regs) :
    c.rmtIssue s m = .done (((c.peerOps m).foldl (fun u o => u.addRecOp c.key o) (s.putRegs c regs)).pump c.key) := by
  unfold Ic.rmtIssue
  refine (if_neg (Nat.not_lt.mpr hroom)).trans ((c.sectorRoom_of hfit _).trans ?_)
  dsimp only
  refine (if_neg ?_).trans ?_
  · split
    · decide
    · next h => rw [hsyms h]; decide
  have hplain : c.loadDest s m.dst (decide (laneMask (m.peers.map (·.1)) = fullMask)) (fun regs =>
      .done (((peersOf m.peers).zipIdx.foldl (fun s e => s.addRecOp c.key
        { c.newOp m.cls (.remote
            { kind := m.kind, peer := e.1 % 512, incarn := .ofNat 16 (e.1 / 2 ^ 16), ty := m.ty
              lanes := m.lanes.filter fun l => m.peers.contains (l.1, e.1)
              data := m.data, data2 := m.data2, dst := m.dst, got := [], wait := [], refused := [] }) m.ord m.scope with
            id := c.st.opNext + e.2, sym := ([] : List Nat)[e.2]? }) (s.putRegs c regs)).pump c.key)) =
      .done (((c.peerOps m).foldl (fun u o => u.addRecOp c.key o) (s.putRegs c regs)).pump c.key) := by
    rw [hdest, Ic.peerOps, List.foldl_map]
    rfl
  split
  · rw [hlate]
    exact hplain
  · exact hplain

/-- A remote instruction whose operands are at hand issues its operations. -/
theorem remotes_of {x : Opnds} {n : Nat} {m : RmtAct} {regs : Regs} (hi : s.issuer = some c)
    (hx : (c.rmtCheck m n = none → ∃ f, exec i s = issueX s x f ∧ f c = c.rmtIssue s m)) (hlate : m.late = false)
    (hdest : ∀ k : Regs → Act, c.loadDest s m.dst (decide (laneMask (m.peers.map (·.1)) = fullMask)) k = k regs) :
    c.remotes s i x.len n m regs := by
  intro hp hl hroom hfit hsyms
  obtain ⟨f, hex, hf⟩ := hx (Ic.rmtCheck_of hp hl)
  rw [hex]
  exact issueX_ends_of hi (hf.trans (Ic.rmtIssue_of hlate hroom hfit hsyms hdest))

end

/-- Settles O40: each instruction is `Ic.rmtIssue` on its operands. -/
theorem remoteIssue : Obligations.RemoteIssue := by
  unfold Obligations.RemoteIssue
  intro s c x ka kb kc kd ke hi ls w one dest ops m signal free
  refine ⟨fun d hd hlate ho hfree => ?_, fun ho => ?_, fun hsel ho hfree => ?_, fun hsel ho hfree => ?_, fun ho => ⟨?_, ?_⟩⟩
  · have hn : x.d.vnum = d := by rw [hd]; rfl
    refine remotes_of hi (fun hcheck => ⟨_, exec_rld s, (c.known_of s x _ _ _ ho).trans ?_⟩) rfl fun k => ?_
    · simp only [List.getD_cons_zero, List.getD_cons_succ, hd, hlate, dstOf]
      generalize hr : c.rmtCheck _ _ = r
      obtain rfl : r = none := hr.symm.trans hcheck
      rfl
    · dsimp only [m, dest, w]
      rw [← hn]
      exact Ic.loadDest_v hfree s k
  · refine remotes_of hi (fun hcheck => ⟨_, exec_rst s, (c.known_of s x _ _ _ ho).trans ?_⟩) rfl fun k => rfl
    simp only [List.getD_cons_zero, List.getD_cons_succ]
    rw [hcheck]
  · refine remotes_of hi (fun hcheck => ⟨_, exec_ratm s, ?_⟩) rfl fun k => Ic.loadDest_v hfree s k
    simp only [hsel, decide_false, Bool.false_eq_true, if_false, List.append_nil]
    refine (c.known_of s x _ _ _ ho).trans ?_
    simp only [List.getD_cons_zero, List.getD_cons_succ]
    rw [hcheck]
  · refine remotes_of hi (fun hcheck => ⟨_, exec_ratm s, ?_⟩) rfl fun k => Ic.loadDest_v hfree s k
    simp only [hsel, decide_true, if_true]
    refine (c.known_of s x _ _ _ ho).trans ?_
    simp only [List.getD_cons_zero, List.getD_cons_succ]
    generalize hr : c.rmtCheck _ _ = r
    obtain rfl : r = none := hr.symm.trans hcheck
    rfl
  · refine remotes_of hi (fun hcheck => ⟨_, exec_rsigCtr s, (c.known_of s x _ _ _ ho).trans ?_⟩) rfl fun k => rfl
    simp only [List.getD_cons_zero, List.getD_cons_succ]
    rw [hcheck]
  · refine remotes_of hi (fun hcheck => ⟨_, exec_rsigSync s, (c.known_of s x _ _ _ ho).trans ?_⟩) rfl fun k => rfl
    simp only [List.getD_cons_zero, List.getD_cons_succ]
    rw [hcheck]

end Sys2Proof.Machine
end

section
/-! PROOFS. Copies and swaps at issue (R241 to R245). -/

namespace Sys2Proof.Machine

open Sys2Proof

/-- Scalar operands at hand, one by one. -/
theorem Ic.scalars_getD {c : Ic} {x : Opnds} {ops : List Opnd} {vs : List DWord} (h : c.scalars x ops = some vs) :
    ∃ offs, c.offs x (ops.map fun o => (o, true)) = some offs ∧ ∀ i, (offs.getD i (.u 0)).at 0 = vs.getD i 0 := by
  obtain ⟨offs, hoffs, rfl⟩ := c.scalars_offs x ops vs h
  refine ⟨offs, hoffs, fun i => ?_⟩
  rw [List.getD_eq_getElem?_getD, List.getD_eq_getElem?_getD, List.getElem?_map]
  cases offs[i]? <;> rfl

section
variable {s : State} {c : Ic} {x : Opnds}

theorem Ic.wholeStrand_of (h : c.sp.mask = fullMask) (k : Act) : c.wholeStrand k = k := if_pos h

theorem Ic.privileged_of (h : c.sp.privileged = true) (k : Act) : c.privileged k = k := if_pos h

theorem Ic.cpIssue_of (h : c.st.full .cp = false) (b : OpBody) :
    c.cpIssue s b = .done (s.addRecOp c.key (c.newOp .cp b 0 0)) := if_neg (ne_true_of_eq_false h)

theorem execCpy_of {d a n v : DWord} (hi : s.issuer = some c) (hmask : c.sp.mask = fullMask) (hfull : c.st.full .cp = false)
    (hsync : syncMis (copySync x v) = false) (ho : c.scalars x [x.d, x.a, x.b, x.c] = some [d, a, n, v])
    (hsrc : c.copyRange s (spaceOf (x.sel / 4)) a (n.toNat % 2 ^ 32) 1 0 = true)
    (hdst : c.copyRange s (spaceOf (x.sel % 4)) d (n.toNat % 2 ^ 32) 1 0 = true) :
    exec (.cpy x) s = c.ends s x.len (s.addRecOp c.key (c.newOp .cp (.copy
      { dstSpace := spaceOf (x.sel % 4), dst := d, srcSpace := spaceOf (x.sel / 4), src := a, rowBytes := n.toNat % 2 ^ 32, rows := 1
        dstStride := 0, srcStride := 0, recv := [], multi := false, sync := copySync x v, written := 0 }) 0 0)) := by
  obtain ⟨offs, hoffs, hat⟩ := Ic.scalars_getD ho
  rw [exec_cpy, execCpy]
  refine issueX_ends_of hi ((Ic.wholeStrand_of hmask _).trans ((c.known_of s x _ _ _ hoffs).trans ?_))
  simp only [hat, List.getD_cons_zero, List.getD_cons_succ, hsrc, hdst, hsync, Bool.not_true, Bool.false_eq_true, if_false]
  exact Ic.cpIssue_of hfull _

theorem execCpy2d_of {d a n st v : DWord} (hi : s.issuer = some c) (hmask : c.sp.mask = fullMask) (hfull : c.st.full .cp = false)
    (hsync : syncMis (copySync x v) = false)
    (ho : c.scalars x [x.d, x.a, x.b, .s (x.b.snum + 1), x.c] = some [d, a, n, st, v])
    (hmin : 1 ≤ n.toNat % 2 ^ 32) (hmax : n.toNat % 2 ^ 32 ≤ 2 ^ 31) (hrows : 1 ≤ n.toNat / 2 ^ 32)
    (hdst : c.copyRange s (spaceOf (x.sel % 4)) d (n.toNat % 2 ^ 32) (n.toNat / 2 ^ 32) (int32 (st.toNat % 2 ^ 32)) = true)
    (hsrc : c.copyRange s (spaceOf (x.sel / 4)) a (n.toNat % 2 ^ 32) (n.toNat / 2 ^ 32) (int32 (st.toNat / 2 ^ 32)) = true) :
    exec (.cpy2d x) s = c.ends s x.len (s.addRecOp c.key (c.newOp .cp (.copy
      { dstSpace := spaceOf (x.sel % 4), dst := d, srcSpace := spaceOf (x.sel / 4), src := a, rowBytes := n.toNat % 2 ^ 32
        rows := n.toNat / 2 ^ 32, dstStride := int32 (st.toNat % 2 ^ 32), srcStride := int32 (st.toNat / 2 ^ 32)
        recv := [], multi := false, sync := copySync x v, written := 0 }) 0 0)) := by
  obtain ⟨offs, hoffs, hat⟩ := Ic.scalars_getD ho
  have hlegal : ¬(n.toNat % 2 ^ 32 = 0 ∨ 2 ^ 31 < n.toNat % 2 ^ 32 ∨ n.toNat / 2 ^ 32 = 0) := by omega
  rw [exec_cpy2d, execCpy2d]
  refine issueX_ends_of hi ((Ic.wholeStrand_of hmask _).trans ((c.known_of s x _ _ _ hoffs).trans ?_))
  simp only [hat, List.getD_cons_zero, List.getD_cons_succ, hsrc, hdst, hsync, Bool.not_true, Bool.false_eq_true, if_false]
  exact (if_neg hlegal).trans (Ic.cpIssue_of hfull _)

/-- A multicast to cores each with one workgroup of the source, into a scratchpad or a vault that holds the bytes. -/
theorem execCpym_of {d a n v : DWord} {g : Wg} {one : Nat → Nat × Wg} {cores : List Nat} (hi : s.issuer = some c)
    (hmask : c.sp.mask = fullMask) (hfull : c.st.full .cp = false) (hsync : syncMis (copySync x v) = false)
    (ho : c.scalars x [x.d, x.a, x.b, x.c] = some [d, a, n, v])
    (hsrc : c.copyRange s (spaceOf (x.sel / 4)) a (n.toNat % 2 ^ 32) 1 0 = true) (hg : s.wg? c.st.wg = some g)
    (hcores : cores = ((List.range 8).filter fun i => (d.toNat / 2 ^ 56).testBit i).map fun i => clusterOf (coreOf c.key) * 8 + i)
    (hsome : d.toNat / 2 ^ 56 ≠ 0) (hds : spaceOf (x.sel % 4) ≠ .global) (hone : ∀ k ∈ cores, s.residentOn g.source k = [one k])
    (hfits : n.toNat % 2 ^ 32 = 0 ∨ ∀ k ∈ cores, d.toNat % 2 ^ 22 + n.toNat % 2 ^ 32 ≤
      if spaceOf (x.sel % 4) = .vault then Config.vaultBytes else (one k).2.kernel.spad) :
    exec (.cpym x) s = c.ends s x.len (s.addRecOp c.key (c.newOp .cp (.copy
      { dstSpace := spaceOf (x.sel % 4), dst := .ofNat 64 (d.toNat % 2 ^ 22), srcSpace := spaceOf (x.sel / 4), src := a
        rowBytes := n.toNat % 2 ^ 32, rows := 1, dstStride := 0, srcStride := 0, multi := true, sync := copySync x v, written := 0
        recv := cores.map fun k => (k, if spaceOf (x.sel % 4) = .vault then k * Config.vaultBytes else (one k).2.spadPa 0, false)
        wgs := cores.map fun k => (one k).1 }) 0 0)) := by
  obtain ⟨offs, hoffs, hat⟩ := Ic.scalars_getD ho
  have hrecv : (cores.map fun k => (k, s.residentOn g.source k)) = cores.map fun k => (k, [one k]) :=
    List.map_congr_left fun k hk => by rw [hone k hk]
  have hlegal : ¬(d.toNat / 2 ^ 56 = 0 ∨ spaceOf (x.sel % 4) = .global ∨
      ((cores.map fun k => (k, [one k])).any fun e => decide (e.2.length ≠ 1)) = true) := by
    rintro (h | h | h)
    · exact hsome h
    · exact hds h
    · simp at h
  rw [exec_cpym, execCpym]
  refine issueX_ends_of hi ((Ic.wholeStrand_of hmask _).trans ((c.known_of s x _ _ _ hoffs).trans ?_))
  simp only [hat, List.getD_cons_zero, List.getD_cons_succ, hg, ← hcores, hrecv]
  refine (if_neg hlegal).trans ((if_neg ?_).trans ?_)
  · intro h
    obtain ⟨hn, hall⟩ := Bool.and_eq_true_iff.mp h
    obtain h0 | hfits := hfits
    · rw [h0] at hn
      exact absurd hn (by decide)
    · rw [Bool.not_eq_true', ← Bool.not_eq_true] at hall
      refine hall (List.all_eq_true.mpr fun e he => ?_)
      obtain ⟨k, hk, rfl⟩ := List.mem_map.mp he
      have := hfits k hk
      generalize spaceOf (x.sel % 4) = ds at hds this
      cases ds with
      | global => exact absurd rfl hds
      | spad => exact decide_eq_true this
      | vault => exact decide_eq_true this
  · simp only [hsrc, hsync, Bool.not_true, Bool.false_eq_true, if_false, List.map_map, List.filterMap_map]
    refine (Ic.cpIssue_of hfull _).trans ?_
    generalize spaceOf (x.sel % 4) = ds at hds
    cases ds with
    | global => exact absurd rfl hds
    | spad => simp [Function.comp_def]
    | vault => simp [Function.comp_def]

/-- A swap of a near and a far page of one size and format begins the die's exchange. -/
theorem execSwapf_of {a b v : DWord} {near far : LeafAt} (hi : s.issuer = some c) (hpriv : c.sp.privileged = true)
    (hmask : c.sp.mask = fullMask) (ho : c.scalars x [x.a, x.b, x.c] = some [a, b, v]) (ha : a.toNat < 2 ^ 57) (hb : b.toNat < 2 ^ 57)
    (hnear : s.walk c.st.part .read a.toNat = .ok near) (hfar : s.walk c.st.part .read b.toNat = .ok far)
    (hsize : near.size = far.size) (hfmt : leafFmt near.leaf = leafFmt far.leaf) (hn : leafFar near.leaf = false)
    (hf : leafFar far.leaf = true) (hsync : syncMis (copySync x v) = false) (hfull : c.st.full .cp = false)
    (hns : leafSwp near.leaf = false) (hfs : leafSwp far.leaf = false) (hswap : (s.dieSt (dieOf (coreOf c.key))).swap = none)
    {act : Act}
    (hact : (let n := pageBytes near.size
      let lo := a.toNat / n * n
      let hi := b.toNat / n * n
      let mark (t : State) (l : LeafAt) : State := t.store .flostra l.ent 8 (t.load .flostra l.ent 8 ||| 0x1000)
      let o := c.newOp .cp (.swap (.ofNat 64 lo) (.ofNat 64 hi) (copySync x v)) 0 0
      let sw : Swap :=
        { part := c.st.part, near := leafFrame near.leaf, far := leafFrame far.leaf, nearVa := lo, farVa := hi
          sync := copySync x v, wg := c.st.wg, strand := c.key, op := o.id
          sectors := frameBytes near.size (leafFmt near.leaf) / 4096, at_ := 0
          nearEnt := near.ent, farEnt := far.ent, nearLeaf := near.leaf, farLeaf := far.leaf
          recNo := (s.core (coreOf c.key)).opNext }
      Act.done ((((((mark (mark s near) far).clearDirect c.st.part lo (lo + n)).clearDirect c.st.part hi (hi + n)).addRecOp c.key o).onDie
        (dieOf (coreOf c.key))) fun d => { d with swap := some sw })) = act) :
    exec (.swapf x) s = .next (s.conclude c x.len act) := by
  obtain ⟨offs, hoffs, hat⟩ := Ic.scalars_getD ho
  have hrange : ¬(decide (2 ^ 57 ≤ a.toNat) = true ∨ decide (2 ^ 57 ≤ b.toNat) = true) := by
    simp only [decide_eq_true_eq]
    omega
  have hpages : ¬(near.size ≠ far.size ∨ leafFmt near.leaf ≠ leafFmt far.leaf ∨ (!nearLeaf near.leaf) = true ∨ nearLeaf far.leaf = true) := by
    simp [hsize, hfmt, nearLeaf, hn, hf]
  have hidle : ¬(leafSwp near.leaf = true ∨ leafSwp far.leaf = true ∨ (s.dieSt (dieOf (coreOf c.key))).swap.isSome = true) := by
    simp [hns, hfs, hswap]
  rw [exec_swapf, execSwapf]
  refine issueX_of hi ((Ic.privileged_of hpriv _).trans ((Ic.wholeStrand_of hmask _).trans ((c.known_of s x _ _ _ hoffs).trans ?_)))
  simp only [hat, List.getD_cons_zero, List.getD_cons_succ, hnear, hfar]
  refine (if_neg hrange).trans ((if_neg hpages).trans ((if_neg ?_).trans ((if_neg ?_).trans ((if_neg hidle).trans hact))))
  · rw [hsync]
    decide
  · rw [hfull]
    decide

end

/-- Settles O41. -/
theorem copyIssue : Obligations.CopyIssue := by
  unfold Obligations.CopyIssue
  refine ⟨fun s c x d a n st v hi hmask hfull => ?_, fun s c x a b v near far hi hpriv hmask ho ha hb hnear hfar hsize hfmt hn hf hsync
    hfull hns hfs => ?_⟩
  · intro ds ss sync queued hsync
    refine ⟨fun ho => ?_, fun ho => ?_⟩
    · intro bytes hsrc
      refine ⟨fun hdst => execCpy_of hi hmask hfull hsync ho hsrc hdst, ?_⟩
      intro off cl cores g one hg hsome hds hone hfits
      exact execCpym_of hi hmask hfull hsync ho hsrc hg rfl hsome hds hone hfits
    · intro rb rows sd ss' hmin hmax hrows hdst hsrc
      exact execCpy2d_of hi hmask hfull hsync ho hmin hmax hrows hdst hsrc
  · intro die hswap
    exact execSwapf_of hi hpriv hmask ho ha hb hnear hfar hsize hfmt hn hf hsync hfull hns hfs hswap rfl

end Sys2Proof.Machine
end

section
/-! PROOFS. Contributions to domains and the state of their slots (R81, R222 to R226). -/

namespace Sys2Proof.Machine

open Sys2Proof

/-! ## Contributions -/

section
variable {s : State} {c : Ic} {i : Instr} {x : Opnds} {absent : Bool} {ka kb kc : Off} {offs : List Off} {d : Dom}

/-- No lane fails a check. -/
theorem laneMask_filter_lanes {l : List Nat} {p : Nat → Bool} (h : ∀ e ∈ l, p e = false) : laneMask (l.filter p) = 0 := by
  rw [List.filter_eq_nil_iff.mpr fun e he => ne_true_of_eq_false (h e he)]
  rfl

/-- A contribution to an Open generation, with valid elements and labels, adds its operation and its nodes. -/
theorem ctbOp_of (hi : s.issuer = some c) (hfull : c.st.full .ct = false)
    (hmay : c.st.mayPerform (c.newOp .ld (.load [] .b32 .none) 0 0) = true)
    (ho : c.offs x ([(x.a, true), (x.b, false), (x.c, decide (x.xs ≠ 0))] ++ if absent then [] else [(x.d, x.t.is64)]) = some offs)
    (ha : offs.getD 0 (.u 0) = ka) (hb : offs.getD 1 (.u 0) = kb) (hc : offs.getD 2 (.u 0) = kc)
    (hdom : s.openDom? c.st.part ((ka.at 0).setWidth 32) = some d)
    (hvalid : ∀ l ∈ lanesOf (c.act x), (kb.at l).toNat % 2 ^ 32 < d.elems ∧ (laneLabel x (kc.at l)).2.2 = true ∧
      d.labelOk (laneLabel x (kc.at l)).1 (laneLabel x (kc.at l)).2.1 = true)
    (hconv : absent = false → convertible x.t d.nf = true) {u : State}
    (hu : u = if lanesOf (c.act x) = [] then
      (s.addRecOp c.key (c.newOp .ct (.contribute (lanesOf (c.act x)).length) 0 0)).onStrand c.key fun st => st.complete c.st.opNext
      else s.addRecOp c.key (c.newOp .ct (.contribute (lanesOf (c.act x)).length) 0 0)) {node : Nat → Node}
    (hnode : ∀ l, node l =
      { part := c.st.part, handle := (ka.at 0).setWidth 32, elem := (kb.at l).toNat % 2 ^ 32, level := (laneLabel x (kc.at l)).1
        index := (laneLabel x (kc.at l)).2.1
        val := if absent then none else some (toNode x.t d.nf ((offs.getD 3 (.u 0)).at l)).1
        flags := if absent then 0 else (toNode x.t d.nf ((offs.getD 3 (.u 0)).at l)).2
        src := some (c.key, c.st.opNext), since := s.clock.toNat }) :
    ctbOp s x absent = c.ends s x.len (u.contribute (coreOf c.key) d ((lanesOf (c.act x)).map node)) := by
  have helem := laneMask_filter_lanes (l := lanesOf (c.act x)) (p := fun l => decide (d.elems ≤ (kb.at l).toNat % 2 ^ 32))
    fun l hl => decide_eq_false (Nat.not_le.mpr (hvalid l hl).1)
  have hlab := laneMask_filter_lanes (l := lanesOf (c.act x)) (p := fun l => !((laneLabel x (kc.at l)).2.2 &&
    d.labelOk (laneLabel x (kc.at l)).1 (laneLabel x (kc.at l)).2.1)) fun l hl => by
      obtain ⟨-, h1, h2⟩ := hvalid l hl
      rw [h1, h2]
      rfl
  have hc1 : ¬(!absent && !convertible x.t d.nf) = true := by
    cases absent with
    | true => simp
    | false => simp [hconv rfl]
  rw [ctbOp]
  refine issueX_ends_of hi ((c.known_of s x _ _ _ ho).trans ((if_neg (ne_true_of_eq_false hfull)).trans ?_))
  simp only [ha, hb, hc, hdom]
  refine (if_neg hc1).trans <| (if_neg (not_not.mpr helem)).trans <| (if_neg (not_not.mpr hlab)).trans <| (Ic.acquired_of hmay s _).trans ?_
  rw [hu, funext hnode]
  simp only [List.isEmpty_iff]

end

/-- Settles O43. -/
theorem contributionResults : Obligations.ContributionResults := by
  unfold Obligations.ContributionResults
  intro s c x ka kb kc kd d hi hfull hmay h act elem lab ops hdom hvalid o node counted
  constructor
  · intro ho hconv
    refine (exec_ctb s).trans (ctbOp_of hi hfull hmay (offs := [ka, kb, kc, kd]) ho rfl rfl rfl hdom hvalid (fun _ => hconv) ?_ fun l => ?_)
    · rfl
    · rfl
  · intro ho
    refine (exec_ctbn s).trans (ctbOp_of hi hfull hmay (offs := [ka, kb, kc]) (absent := true) ho rfl rfl rfl hdom hvalid
      (fun h => absurd h (by decide)) ?_ fun l => ?_)
    · rfl
    · rfl

/-! ## Domain slots -/

section
variable {s : State} {c : Ic} {x : Opnds} {a : DWord}

/-- A slot whose descriptor translates and lies in this device's memory is read. -/
theorem Ic.withDom_of {slot : Nat} {acc : Access}
    (h : (∃ t, c.trLane s .global (.s 0) acc (.ofNat 64 (s.domAddr c.st.part slot)) = .ok t) ∧
      (s.seen c.st.part (s.domAddr c.st.part slot) 64).far.ask = []) (k : State → Act) :
    c.withDom s slot acc k = k (s.seen c.st.part (s.domAddr c.st.part slot) 64) := by
  obtain ⟨⟨t, ht⟩, hask⟩ := h
  simp only [Ic.withDom, ht]
  exact Ic.deviceReads_of hask k

/-- An armed generation's handle names its slot and the next generation (R81). -/
theorem State.arm_handle {v t : State} {part slot : Nat} {g : Word} (h : v.arm part slot = some (t, g)) :
    g = mkHandle slot (((v.domGenState part slot).1 + 1) % 4096) := by
  unfold State.arm at h
  dsimp only at h
  split at h
  · exact absurd h nofun
  · exact (congrArg Prod.snd (Option.some.inj h)).symm

theorem execDomarm_of {v t : State} {slot : Nat} {g : Word} (hi : s.issuer = some c) (ha : c.scalars x [x.a] = some [a])
    (hmay : c.st.mayPerform (c.newOp .ld (.load [] .b32 .none) 0 0) = true) (hslot : slot = a.toNat % 2 ^ 20)
    (hv : v = s.seen c.st.part (s.domAddr c.st.part slot) 64) (hbusy : c.st.busy x.d true = false)
    (hreach : (∃ t, c.trLane s .global (.s 0) .write (.ofNat 64 (s.domAddr c.st.part slot)) = .ok t) ∧ v.far.ask = [])
    (harm : v.canArm c.st.part slot = true) (hg : v.arm c.st.part slot = some (t, g)) :
    exec (.domarm x) s = c.ends s x.len ((t.putRegs c (c.regs.setS x.d.snum (g.setWidth 64))).acquired c 0) := by
  obtain ⟨k, ho, rfl⟩ := Ic.offs_of_scalar ha
  subst hslot hv
  rw [exec_domarm, execDomarm]
  refine issueX_ends_of hi ((c.known_of s x _ _ _ ho).trans ?_)
  simp only [List.getD_cons_zero, Ic.withDom_of hreach, hbusy, harm, Bool.not_true, Bool.false_eq_true, if_false, hg]
  exact Ic.acquired_of hmay _ _

section
variable {k : Off} {h : Word} {u : State} {now : Nat × Nat}

section
variable (hi : s.issuer = some c) (ho : c.offs x [(x.a, true)] = some [k])
  (hmay : c.st.mayPerform (c.newOp .ld (.load [] .b32 .none) 0 0) = true) (hh : h = (k.at 0).setWidth 32)
  (hu : u = s.seen c.st.part (s.domAddr c.st.part (handleSlot h)) 64) (hct : c.st.count .ct = 0)
  (hreach : (∃ t, c.trLane s .global (.s 0) .write (.ofNat 64 (s.domAddr c.st.part (handleSlot h))) = .ok t) ∧
    u.far.ask = [])
  (hnow : u.domGenState c.st.part (handleSlot h) = now)
include hi ho hmay hh hu hct hreach hnow

/-- DOMCLOSE of another generation does nothing. -/
theorem execDomclose_other (hgen : now.1 ≠ handleGen h) : exec (.domclose x) s = c.ends s x.len u := by
  obtain ⟨gen, st⟩ := now
  subst hh hu
  rw [exec_domclose, execDomclose]
  refine issueX_ends_of hi ((c.known_of s x _ _ _ ho).trans ?_)
  simp only [List.getD_cons_zero]
  rw [if_neg (not_not.mpr hct), Ic.withDom_of hreach, Ic.acquired_of hmay, hnow]
  exact if_pos hgen

/-- DOMCLOSE of a Complete generation makes its slot Idle. -/
theorem execDomclose_complete (hgen : now.1 = handleGen h) {d : Dom}
    (hd : u.dom? c.st.part h = some d) (hdone : d.complete = true) :
    exec (.domclose x) s = c.ends s x.len { u.setDomGenState c.st.part (handleSlot h) now.1 0 with
      doms := u.doms.filter fun y => !(y.part == d.part && y.slot == d.slot && y.gen == d.gen) } := by
  obtain ⟨gen, st⟩ := now
  subst hh hu
  rw [exec_domclose, execDomclose]
  refine issueX_ends_of hi ((c.known_of s x _ _ _ ho).trans ?_)
  simp only [List.getD_cons_zero]
  rw [if_neg (not_not.mpr hct), Ic.withDom_of hreach, Ic.acquired_of hmay, hnow]
  refine (if_neg (not_not.mpr hgen)).trans ?_
  rw [hd]
  exact if_pos hdone

/-- DOMCLOSE of an Open generation whose spill slots can be cleared closes it with a record. -/
theorem execDomclose_open (hgen : now.1 = handleGen h) {d : Dom}
    (hd : u.dom? c.st.part h = some d) (hopen : d.complete = false) (hfault : u.closeFault d = none) :
    exec (.domclose x) s = c.ends s x.len (u.closeDom d { u.strandRec c.key c.st 0x04 0x01 c.sp.pc (h.setWidth 64) 0 with
      mask := domMask d.lowestOpen (d.elems - d.written.length) (u.heldLabel d d.lowestOpen) 0 }) := by
  obtain ⟨gen, st⟩ := now
  subst hh hu
  rw [exec_domclose, execDomclose]
  refine issueX_ends_of hi ((c.known_of s x _ _ _ ho).trans ?_)
  simp only [List.getD_cons_zero]
  rw [if_neg (not_not.mpr hct), Ic.withDom_of hreach, Ic.acquired_of hmay, hnow]
  refine (if_neg (not_not.mpr hgen)).trans ?_
  rw [hd]
  refine (if_neg (ne_true_of_eq_false hopen)).trans ?_
  rw [hfault]

/-- DOMCLOSE of a generation that the device holds no copy of. -/
theorem execDomclose_none (hgen : now.1 = handleGen h)
    (hd : u.dom? c.st.part h = none) :
    exec (.domclose x) s = c.ends s x.len (if now.2 = 2 then u.setDomGenState c.st.part (handleSlot h) now.1 0 else u) := by
  obtain ⟨gen, st⟩ := now
  subst hh hu
  rw [exec_domclose, execDomclose]
  refine issueX_ends_of hi ((c.known_of s x _ _ _ ho).trans ?_)
  simp only [List.getD_cons_zero]
  rw [if_neg (not_not.mpr hct), Ic.withDom_of hreach, Ic.acquired_of hmay, hnow]
  refine (if_neg (not_not.mpr hgen)).trans ?_
  rw [hd]

end

theorem execDomq_of (hi : s.issuer = some c) (ho : c.offs x [(x.a, true)] = some [k])
    (hmay : c.st.mayPerform (c.newOp .ld (.load [] .b32 .none) 0 0) = true) (hh : h = (k.at 0).setWidth 32)
    (hu : u = s.seen c.st.part (s.domAddr c.st.part (handleSlot h)) 64)
    (hreach : (∃ t, c.trLane s .global (.s 0) .read (.ofNat 64 (s.domAddr c.st.part (handleSlot h))) = .ok t) ∧
      u.far.ask = [])
    (hfree : c.freeS x.d.snum) :
    exec (.domq x) s = c.ends s x.len (u.putRegs c (c.regs.setS x.d.snum (u.domWord c.st.part h))) := by
  subst hh hu
  rw [exec_domq, execDomq]
  refine issueX_ends_of hi ((c.known_of s x _ _ _ ho).trans ?_)
  simp only [List.getD_cons_zero, Ic.withDom_of hreach]
  exact (Ic.acquired_of hmay _ _).trans (c.toS_of _ _ _ hfree)

theorem execDomqWait_of (hi : s.issuer = some c) (ho : c.offs x [(x.a, true)] = some [k])
    (hmay : c.st.mayPerform (c.newOp .ld (.load [] .b32 .none) 0 0) = true) (hh : h = (k.at 0).setWidth 32)
    (hu : u = s.seen c.st.part (s.domAddr c.st.part (handleSlot h)) 64)
    (hreach : (∃ t, c.trLane s .global (.s 0) .read (.ofNat 64 (s.domAddr c.st.part (handleSlot h))) = .ok t) ∧
      u.far.ask = [])
    (hfree : c.freeS x.d.snum) (hnow : u.domGenState c.st.part (handleSlot h) = now) (hopen : ¬(now.1 = handleGen h ∧ now.2 = 1)) :
    exec (.domqWait x) s = c.ends s x.len ((u.putRegs c (c.regs.setS x.d.snum (u.domWord c.st.part h))).acquired c 0) := by
  obtain ⟨gen, st⟩ := now
  subst hh hu
  rw [exec_domqWait, execDomqWait]
  refine issueX_ends_of hi ((c.known_of s x _ _ _ ho).trans ?_)
  simp only [List.getD_cons_zero, Ic.withDom_of hreach, hnow, if_neg hopen, c.toS_of _ _ _ hfree]
  exact Ic.acquired_of hmay _ _

end

end

/-- Settles O44: each instruction reads its slot through `Ic.withDom`. -/
theorem domainResults : Obligations.DomainResults := by
  unfold Obligations.DomainResults
  intro s c x a hi ha hmay part h read u now reaches
  obtain ⟨k, ho, hk⟩ := Ic.offs_of_scalar ha
  have hh : h = (k.at 0).setWidth 32 := by rw [hk]
  have hu : u = read (handleSlot h) := rfl
  have hnow : u.domGenState part (handleSlot h) = now := rfl
  have hr {acc} (hreach : reaches (handleSlot h) acc) : (∃ t, c.trLane s .global (.s 0) acc
      (.ofNat 64 (s.domAddr c.st.part (handleSlot h))) = .ok t) ∧ u.far.ask = [] :=
    ⟨hreach.1, (congrArg (fun v => v.far.ask) hu).trans hreach.2⟩
  clear_value now
  refine ⟨?_, fun hct hreach hgen => ?_, fun hct hreach hgen d hd => ⟨fun hdone => ?_, fun hdone hfault => ?_⟩, fun hct hreach hgen hd => ?_,
    fun hreach hfree => ?_, fun hreach hfree hopen => ?_⟩
  · intro slot v hbusy hreach harm t g hg
    have hv : v = read slot := rfl
    have hr : (∃ t, c.trLane s .global (.s 0) .write (.ofNat 64 (s.domAddr c.st.part slot)) = .ok t) ∧ v.far.ask = [] :=
      ⟨hreach.1, (congrArg (fun v => v.far.ask) hv).trans hreach.2⟩
    exact ⟨execDomarm_of hi ha hmay rfl hv hbusy hr harm hg, State.arm_handle hg⟩
  · exact execDomclose_other hi ho hmay hh hu hct (hr hreach) hnow hgen
  · exact execDomclose_complete hi ho hmay hh hu hct (hr hreach) hnow hgen hd hdone
  · exact ⟨_, rfl, rfl, execDomclose_open hi ho hmay hh hu hct (hr hreach) hnow hgen hd hdone hfault⟩
  · exact execDomclose_none hi ho hmay hh hu hct (hr hreach) hnow hgen hd
  · exact execDomq_of hi ho hmay hh hu (hr hreach) hfree
  · exact execDomqWait_of hi ho hmay hh hu (hr hreach) hfree hnow hopen

end Sys2Proof.Machine
end

section
/-! PROOFS. Tile instructions at issue and the state of tiles (R253 to R273). -/

namespace Sys2Proof.Machine

open Sys2Proof

/-! ## What an access of the device leaves -/

/-- What neither the memories nor what is asked of other devices holds stays as the device reads. -/
theorem State.seen_keeps {β : Type} (g : State → β) (hcells : ∀ s p m, g (State.setCells s p m) = g s)
    (hfar : ∀ (s : State) f, g { s with far := f } = g s) (s : State) (part va n : Nat) : g (s.seen part va n) = g s := by
  refine foldl_keeps g (fun s i => ?_) _ s
  dsimp only
  split
  · next t _ =>
    have htouch : g (s.touch t.ent .read) = g s := hcells s .flostra _
    split
    · refine (foldl_keeps g (fun s r => ?_) _ _).trans htouch
      split
      · exact hfar s _
      · exact hfar s _
    · exact htouch
  · rfl

theorem State.seen_wgs (s : State) (part va n : Nat) : (s.seen part va n).wgs = s.wgs :=
  State.seen_keeps State.wgs (fun _ p _ => by cases p <;> rfl) (fun _ _ => rfl) s part va n

theorem State.seen_cores (s : State) (part va n : Nat) : (s.seen part va n).cores = s.cores :=
  State.seen_keeps State.cores (fun _ p _ => by cases p <;> rfl) (fun _ _ => rfl) s part va n

/-! ## Tiles, the engine's queue, operations that wait -/

section
variable {s : State} {c : Ic} {x : Opnds} {t : Tile} {h code : Nat}

theorem Ic.withTile_of (hh : h < s.kernelTiles c.st.wg) (ht : c.st.tile? h = some t) (hf : t.freeing = false) (k : Tile → Act) :
    c.withTile s h code k = k t := by
  refine (if_neg (Nat.not_le.mpr hh)).trans ?_
  rw [ht]
  exact if_neg (ne_true_of_eq_false hf)

/-- With room in the counter and in the engine's queue an operation is queued. -/
theorem Ic.mxIssue_of {cls : Ctr} (hfull : c.st.full cls = false) (hroom : (s.core (coreOf c.key)).engine.length < Config.engineQueue)
    (k : MxKind) (h : Nat) (sync : Option SyncRef) (upd : Tile → Tile) :
    c.mxIssue s cls k h sync upd = .done (((s.addRecOp c.key (c.newOp cls (.mx k h sync) 0 0)).onCore (coreOf c.key) fun y =>
      { y with engine := y.engine ++ [(c.key, (c.newOp cls (.mx k h sync) 0 0).id)] }).onStrand c.key fun st => st.onTile h upd) :=
  (if_neg (ne_true_of_eq_false hfull)).trans (if_neg (Nat.not_le.mpr hroom))

theorem Op.parks_eq_false {o : Op} (h : o.susp = none) : o.parks = false := by
  simp only [Op.parks, h]

/-- No suspended operation, no delivery. -/
theorem Ic.tileDeliver_of (hcalm : ∀ o ∈ c.st.ops, o.tile = some h → o.susp = none) (k : Act) : c.tileDeliver s h k = k := by
  have hnone : (c.st.ops.find? fun o => o.parks && o.tile == some h) = none := by
    refine List.find?_eq_none.mpr fun o ho hp => ?_
    obtain ⟨hp, ht⟩ := Bool.and_eq_true_iff.mp hp
    rw [Op.parks_eq_false (hcalm o ho (eq_of_beq ht))] at hp
    exact absurd hp (by decide)
  simp only [Ic.tileDeliver, hnone]

/-! ## MXALLOC and the operations on a bound tile -/

theorem execMxalloc_of {a b d : DWord} (hi : s.issuer = some c) (hmask : c.sp.mask = fullMask)
    (ho : c.scalars x [x.a, x.b, x.c] = some [a, b, d]) (hh : x.d.rawNum < s.kernelTiles c.st.wg)
    (ht : c.st.tile? x.d.rawNum = none) (ha : 1 ≤ a.toNat) (ha' : a.toNat ≤ 256) (hb : 1 ≤ b.toNat) (hb' : b.toNat ≤ 256)
    (hd : d.toNat ≤ 8) (hfit : s.granulesUsed (coreOf c.key) + tileGranules a.toNat b.toNat d.toNat ≤ Config.granules) :
    exec (.mxalloc x) s = c.ends s x.len (s.onStrand c.key fun st => st.setTile x.d.rawNum (some
      { rows := a.toNat, cols := b.toNat, fp := x.t == .f32, depth := d.toNat, vals := [], spines := [], n := 0, flags := 0,
        nIssue := 0, freeing := false, last := none })) := by
  obtain ⟨offs, hoffs, hat⟩ := Ic.scalars_getD ho
  rw [exec_mxalloc, execMxalloc]
  refine issueX_ends_of hi ((Ic.wholeStrand_of hmask _).trans ((c.known_of s x _ _ _ hoffs).trans ?_))
  simp only [hat, List.getD_cons_zero, List.getD_cons_succ, ht, Option.isSome_none, Bool.false_eq_true, if_false]
  refine (if_neg (Nat.not_le.mpr hh)).trans <| (if_neg ?_).trans <| (if_neg ?_).trans <| (if_neg (Nat.not_lt.mpr hd)).trans <|
    (if_neg (Nat.not_lt.mpr ((Nat.le_add_left _ _).trans hfit))).trans (if_neg (Nat.not_lt.mpr hfit))
  · omega
  · omega

section
variable (hi : s.issuer = some c) (hmask : c.sp.mask = fullMask)
  (hnamed : x.d.rawNum < s.kernelTiles c.st.wg ∧ c.st.tile? x.d.rawNum = some t ∧ t.freeing = false)
include hi hmask hnamed

theorem execMxfree_of : exec (.mxfree x) s = .next (s.conclude c x.len
    (c.mxIssue s .mx .free x.d.rawNum none fun u => { u with freeing := true })) := by
  obtain ⟨hh, ht, hf⟩ := hnamed
  rw [exec_mxfree, execMxfree]
  exact issueX_of hi ((Ic.wholeStrand_of hmask _).trans (Ic.withTile_of hh ht hf _))

theorem mxzeroOp_of (abs : Bool) : mxzeroOp s x abs = .next (s.conclude c x.len
    (c.mxIssue s .mx (.zero abs) x.d.rawNum none fun u => { u with nIssue := 0 })) := by
  obtain ⟨hh, ht, hf⟩ := hnamed
  exact issueX_of hi ((Ic.wholeStrand_of hmask _).trans (Ic.withTile_of hh ht hf _))

theorem execMxfin_plain (ha : x.a = .zero) : exec (.mxfin x) s = .next (s.conclude c x.len
    (c.mxIssue s .mx .fin x.d.rawNum none fun u => { u with nIssue := 0 })) := by
  obtain ⟨hh, ht, hf⟩ := hnamed
  rw [exec_mxfin, execMxfin, ha]
  exact issueX_of hi ((Ic.wholeStrand_of hmask _).trans ((c.known_of s x [] [] _ rfl).trans (Ic.withTile_of hh ht hf _)))

theorem execMxfin_sync {n : Nat} {v0 v1 : DWord} (ha : x.a = .s n) (ho : c.scalars x [.s n, .s (n + 1)] = some [v0, v1])
    (hsync : c.syncCheck s (readControl v0 v1).sync 2 = none) : exec (.mxfin x) s = .next (s.conclude c x.len
    (c.mxIssue s .mx .fin x.d.rawNum (readControl v0 v1).sync fun u => { u with nIssue := 0 })) := by
  obtain ⟨hh, ht, hf⟩ := hnamed
  obtain ⟨offs, hoffs, hat⟩ := Ic.scalars_getD ho
  rw [exec_mxfin, execMxfin, ha]
  refine issueX_of hi ((Ic.wholeStrand_of hmask _).trans ((c.known_of s x _ _ _ hoffs).trans ((Ic.withTile_of hh ht hf _).trans ?_)))
  simp only [hat, List.getD_cons_zero, List.getD_cons_succ, hsync]

section
variable {v0 v1 v2 v3 v4 : DWord} {ct : Control} (hct : ct = readControl v2 v3)
  (hsize : ct.zeros = true ∧ 1 ≤ ct.m ∧ ct.m ≤ t.rows ∧ ct.m ≤ 256 ∧ 1 ≤ ct.n ∧ ct.n ≤ t.cols ∧ ct.n ≤ 256 ∧ ct.k = 0)
  (hsync : c.syncCheck s ct.sync 3 = none) {r : MatRef} (hr : readPair v0 v1 (some x.t) = some r)
include hct hsize hsync hr

theorem execMxld_of (ho : c.scalars x [x.a, .s (x.a.snum + 1), x.b, .s (x.b.snum + 1)] = some [v0, v1, v2, v3])
    (hext : c.extentOk s r ct.m ct.n = true) (hfp : (x.t == .i32) = !t.fp) : exec (.mxld x) s = .next (s.conclude c x.len
    (c.mxIssue s .mx (.load x.t r ct.m ct.n) x.d.rawNum ct.sync fun u => { u with nIssue := 0 })) := by
  obtain ⟨hh, ht, hf⟩ := hnamed
  obtain ⟨hz, hm, hmt, hm', hn, hnt, hn', hk⟩ := hsize
  obtain ⟨offs, hoffs, hat⟩ := Ic.scalars_getD ho
  have hlegal : ¬((!ct.zeros) = true ∨ ct.m = 0 ∨ 256 < ct.m ∨ ct.n = 0 ∨ 256 < ct.n ∨ ct.k ≠ 0) := by
    simp only [hz, Bool.not_true, Bool.false_eq_true, false_or]
    omega
  have hfp' : ¬(x.t == .i32) = t.fp := by
    rw [hfp]
    cases t.fp <;> decide
  rw [exec_mxld, execMxld]
  refine issueX_of hi ((Ic.wholeStrand_of hmask _).trans ((c.known_of s x _ _ _ hoffs).trans ((Ic.withTile_of hh ht hf _).trans ?_)))
  simp only [hat, List.getD_cons_zero, List.getD_cons_succ, ← hct, hr, hext, hsync, Bool.not_true, Bool.false_eq_true, if_false]
  exact (if_neg hlegal).trans <| (if_neg (by omega)).trans (if_neg hfp')

theorem execMxst_of (ho : c.scalars x [x.a, .s (x.a.snum + 1), x.b, .s (x.b.snum + 1), x.c] = some [v0, v1, v2, v3, v4])
    (hcalm : ∀ o ∈ c.st.ops, o.susp = none)
    (hseed : effMode c.st.ctx.mode x.rnd = .rsd → c.freeS (modeSeed c.st.ctx.mode) ∧ c.regs.spend (modeSeed c.st.ctx.mode) = false)
    (h4 : v4.toNat < 2 ^ 56) (hfp : x.t.isFloat = t.fp)
    (hext : c.extentOk s { r with fmt := if narrowFmt x.t then .i8 else x.t } ct.m ct.n = true) :
    exec (.mxst x) s = .next (s.conclude c x.len
      (c.mxIssue s .mx (.store x.t r ct.m ct.n (v4.toNat % 2 ^ 32) (v4.toNat / 2 ^ 32 % 2 ^ 24) (c.fpEnv x).mode (c.fpEnv x).sat
        (c.fpEnv x).seed) x.d.rawNum ct.sync id)) := by
  obtain ⟨hh, ht, hf⟩ := hnamed
  obtain ⟨hz, hm, hmt, hm', hn, hnt, hn', hk⟩ := hsize
  obtain ⟨offs, hoffs, hat⟩ := Ic.scalars_getD ho
  have hlegal : ¬((!ct.zeros) = true ∨ ct.m = 0 ∨ 256 < ct.m ∨ ct.n = 0 ∨ 256 < ct.n ∨ ct.k ≠ 0) := by
    simp only [hz, Bool.not_true, Bool.false_eq_true, false_or]
    omega
  rw [exec_mxst, execMxst]
  refine issueX_of hi ((Ic.wholeStrand_of hmask _).trans ((Ic.seedReady_of hseed).trans ((c.known_of s x _ _ _ hoffs).trans
    ((Ic.withTile_of hh ht hf _).trans ((Ic.tileDeliver_of (fun o ho _ => hcalm o ho) _).trans ?_)))))
  simp only [hat, List.getD_cons_zero, List.getD_cons_succ, ← hct, hr, hext, hsync, hfp, bne_self_eq_false, Bool.not_true,
    Bool.false_eq_true, if_false]
  exact (if_neg hlegal).trans <| (if_neg (by omega)).trans (if_neg (not_not.mpr (Nat.div_eq_of_lt h4)))

end

theorem execCtbm_of {v0 v1 v2 v3 : DWord} {d : Dom} {r rows cols e0 stride : Nat}
    (ho : c.scalars x [x.a, x.b, .s (x.b.snum + 1), x.c] = some [v0, v1, v2, v3]) (hcalm : ∀ o ∈ c.st.ops, o.susp = none)
    (hd : s.openDom? c.st.part (v0.setWidth 32) = some d) (hr : r = v1.toNat) (hrows : rows = r / 2 ^ 16 % 512)
    (hcols : cols = r / 2 ^ 32 % 512) (he0 : e0 = v2.toNat % 2 ^ 32) (hstride : stride = v2.toNat / 2 ^ 32)
    (hshape : ¬(rows = 0 ∨ cols = 0 ∨ 256 < rows ∨ 256 < cols ∨ r / 2 ^ 25 % 128 + r / 2 ^ 41 ≠ 0 ∨ t.rows < r % 256 + rows ∨
      t.cols < r / 2 ^ 8 % 256 + cols))
    (helems : e0 + (rows - 1) * stride + (cols - 1) < d.elems) (hzeros : v3.toNat / 2 ^ 40 % 2 ^ 18 = 0)
    (hlabel : d.labelOk (v3.toNat / 2 ^ 58) (v3.toNat % 2 ^ 40) = true) (hconv : convertible (if t.fp then .f32 else .i32) d.nf = true) :
    exec (.ctbm x) s = .next (s.conclude c x.len (c.mxIssue s .ct (.ctb (v0.setWidth 32) (r % 256) (r / 2 ^ 8 % 256) rows cols e0 stride
      (v3.toNat / 2 ^ 58) (v3.toNat % 2 ^ 40)) x.d.rawNum none id)) := by
  obtain ⟨hh, ht, hf⟩ := hnamed
  obtain ⟨offs, hoffs, hat⟩ := Ic.scalars_getD ho
  rw [exec_ctbm, execCtbm]
  refine issueX_of hi ((Ic.wholeStrand_of hmask _).trans ((c.known_of s x _ _ _ hoffs).trans ?_))
  simp only [hat, List.getD_cons_zero, List.getD_cons_succ, hd, ← hr, ← hrows, ← hcols, ← he0, ← hstride]
  refine (Ic.withTile_of hh ht hf _).trans <| (Ic.tileDeliver_of (fun o ho _ => hcalm o ho) _).trans <| (if_neg hshape).trans <|
    (if_neg (Nat.not_le.mpr helems)).trans <| (if_neg ?_).trans (if_neg ?_)
  · rintro (h | h)
    · exact h hzeros
    · rw [hlabel] at h
      exact Bool.false_ne_true h
  · rw [hconv]
    exact Bool.false_ne_true

end

end

/-! ## MXMMA -/

/-- A state after the device has read the tensor shape record that a scalar names, where the operand names one (R257). -/
def State.sawRec (s : State) (part : Nat) (lo : DWord) (viaRec : Bool) : State :=
  if viaRec then s.seen part (s.recAddr part (handleSlot (lo.setWidth 32))) 64 else s

section
variable {s : State} {c : Ic} {x : Opnds} {t : Tile}

theorem State.sawRec_true (s : State) (part : Nat) (lo : DWord) :
    s.sawRec part lo true = s.seen part (s.recAddr part (handleSlot (lo.setWidth 32))) 64 := rfl

theorem Ic.recRead_of {lo : DWord} {viaRec : Bool} (h : (s.sawRec c.st.part lo viaRec).far.ask = []) (k : State → Act) :
    c.recRead s lo viaRec k = k (s.sawRec c.st.part lo viaRec) := by
  cases viaRec with
  | false => rfl
  | true =>
    rw [State.sawRec_true] at h ⊢
    exact (if_pos rfl).trans (Ic.deviceReads_of h k)

theorem State.ask_eq_nil_of_sawRec {part : Nat} {lo : DWord} {viaRec : Bool} (h : (s.sawRec part lo viaRec).far.ask = []) :
    s.far.ask = [] := by
  cases viaRec with
  | false => exact h
  | true =>
    rw [State.sawRec_true] at h
    exact State.ask_eq_nil_of_seen h

theorem State.sawRec_keeps {β : Type} {g : State → β} (h : ∀ s part va n, g (State.seen s part va n) = g s) (s : State) (part : Nat)
    (lo : DWord) (viaRec : Bool) : g (s.sawRec part lo viaRec) = g s := by
  cases viaRec with
  | false => rfl
  | true => exact (congrArg g (s.sawRec_true part lo)).trans (h s part _ _)

/-- What an MXMMA does once its operands are at hand and legal: it enters the latch or the engine's queue. -/
def Ic.mmaIssue (c : Ic) (w : State) (x : Opnds) (a b : MatRef) (k : Control) (fin : Bool) : Act :=
  let upd (u : Tile) : Tile := { u with nIssue := if fin then 0 else u.nIssue + k.k }
  if x.g then c.toLatch w (.mma a b k.m k.n k.k fin) x.d.rawNum k.sync upd
  else c.mxIssue w .mx (.mma a b k.m k.n k.k fin) x.d.rawNum k.sync upd

/-- The conditions of R391 on an MXMMA of a member that is not another one's, or is (R273). -/
theorem execMxmma_of {v0 v1 v2 v3 v4 v5 : DWord} {other : Bool} {w : State} {k : Control} {a b : MatRef} (hi : s.issuer = some c)
    (hmask : c.sp.mask = fullMask)
    (ho : c.scalars x [x.a, .s (x.a.snum + 1), x.b, .s (x.b.snum + 1), x.c, .s (x.c.snum + 1)] = some [v0, v1, v2, v3, v4, v5])
    (hnamed : x.d.rawNum < s.kernelTiles c.st.wg ∧ c.st.tile? x.d.rawNum = some t ∧ t.freeing = false)
    (hother : other = (x.g && gangNamed c.st.ctx.gang && (gangMembers c.st.ctx.gang (coreOf c.key)).head? != some c.st.name))
    (hw : w = (s.sawRec c.st.part v0 (x.xs % 2 == 1)).sawRec c.st.part v2 (!other && x.xs / 2 % 2 == 1)) (hask : w.far.ask = [])
    (hk : k = readControl v4 v5) (hz : k.zeros = true) (hm : 1 ≤ k.m ∧ k.m ≤ t.rows ∧ k.m ≤ 256) (hkk : 1 ≤ k.k ∧ k.k ≤ 4096)
    (hn : other = false → (1 ≤ k.n ∧ k.n ≤ 256) ∧ k.n ≤ t.cols) (hsync : c.syncCheck w k.sync 4 = none)
    (htakes : t.takes t.nIssue k.k (x.sel % 2 == 1) = true) (ha : c.matOperand w v0 v1 (x.xs % 2 == 1) = .ok a)
    (hfp : (a.fmt == .i8) = !t.fp) (hexta : c.extentOk w a k.m k.k = true)
    (hb : (if other then MatRes.ok MatRef.unused else c.matOperand w v2 v3 (x.xs / 2 % 2 == 1)) = .ok b)
    (hb' : other = false → matRow a.fmt = matRow b.fmt ∧ c.extentOk w b k.k k.n = true)
    (hgang : x.g = true → gangNamed c.st.ctx.gang = true ∧ c.st.name ∈ gangMembers c.st.ctx.gang (coreOf c.key)) :
    exec (.mxmma x) s = .next (s.conclude c x.len (c.mmaIssue w x a b k (x.sel % 2 == 1))) := by
  obtain ⟨hh, ht, hf⟩ := hnamed
  obtain ⟨offs, hoffs, hat⟩ := Ic.scalars_getD ho
  have hask1 : (s.sawRec c.st.part v0 (x.xs % 2 == 1)).far.ask = [] := State.ask_eq_nil_of_sawRec (hw ▸ hask)
  have hwh : x.d.rawNum < w.kernelTiles c.st.wg := by
    have hwgs : w.wgs = s.wgs := by rw [hw, State.sawRec_keeps State.seen_wgs, State.sawRec_keeps State.seen_wgs]
    rwa [State.kernelTiles, State.wg?, hwgs]
  have hmember : ¬(x.g && (!gangNamed c.st.ctx.gang || !(gangMembers c.st.ctx.gang (coreOf c.key)).contains c.st.name)) = true := by
    cases hg : x.g with
    | false => exact Bool.false_ne_true
    | true =>
      obtain ⟨h1, h2⟩ := hgang hg
      simp [h1, h2]
  have hcontrol : ¬((!k.zeros) = true ∨ k.m = 0 ∨ 256 < k.m ∨ (!other && decide (k.n = 0 ∨ 256 < k.n)) = true ∨ k.k = 0 ∨ 4096 < k.k) := by
    cases other with
    | false =>
      have := (hn rfl).1
      simp only [hz, Bool.not_true, Bool.false_eq_true, Bool.not_false, Bool.true_and, decide_eq_true_eq, false_or]
      omega
    | true =>
      simp only [hz, Bool.not_true, Bool.false_eq_true, Bool.false_and, false_or]
      omega
  have htile : ¬(t.rows < k.m ∨ (t.cols < k.n ∧ (!other) = true)) := by
    cases other with
    | false =>
      have := (hn rfl).2
      omega
    | true => simpa using hm.2.1
  have hfp' : ((a.fmt == .i8) == t.fp) = false := by
    rw [hfp]
    cases t.fp <;> rfl
  have hrows : (!other && matRow a.fmt != matRow b.fmt) = false := by
    cases other with
    | false => rw [(hb' rfl).1, bne_self_eq_false, Bool.and_false]
    | true => rfl
  have hextb : (!other && !c.extentOk w b k.k k.n) = false := by
    cases other with
    | false => rw [(hb' rfl).2]; rfl
    | true => rfl
  rw [exec_mxmma, execMxmma]
  refine issueX_of hi ((Ic.wholeStrand_of hmask _).trans ((c.known_of s x _ _ _ hoffs).trans ?_))
  simp only [hat, List.getD_cons_zero, List.getD_cons_succ, ← hother, ← hk]
  refine (Ic.recRead_of hask1 _).trans ((Ic.recRead_of (hw ▸ hask) _).trans ?_)
  rw [← hw]
  simp only [ha, hb, List.filterMap_cons_none, List.filterMap_nil, List.isEmpty_nil, reduceCtorEq, Bool.not_true, Bool.false_eq_true,
    if_false]
  refine (Ic.withTile_of hwh ht hf _).trans ((if_neg hmember).trans ((if_neg hcontrol).trans ((if_neg htile).trans ?_)))
  simp only [MatRes.mat?, Option.any_some, hfp', hrows, hexta, hextb, htakes, hsync, Bool.or_false, Bool.not_true, Bool.false_eq_true, if_false]
  rfl

/-! ## The rendezvous latch -/

/-- The state as a joint operation enters the latch with these entries. -/
def Ic.enterLatch (c : Ic) (w : State) (o : Op) (h : Nat) (upd : Tile → Tile) (l : List LatchEnt) : State :=
  { (w.addRecOp c.key o).onStrand c.key fun st => ({ st with gangSeq := st.gangSeq + 1 }).onTile h upd with
    latches := mapPut [] w.latches (clusterOf (coreOf c.key)) l }

/-- Is a latch entry the one of the strand's next joint operation (R43)? -/
def Ic.ownsLatch (c : Ic) (e : LatchEnt) : Prop := e.part = c.st.part ∧ e.gang = c.st.ctx.gang ∧ e.seq = c.st.gangSeq

theorem Ic.ownsLatch_iff (e : LatchEnt) :
    (e.part == c.st.part && e.gang == c.st.ctx.gang && e.seq == c.st.gangSeq) = true ↔ c.ownsLatch e := by
  simp [Ic.ownsLatch, and_assoc]

section
variable {w : State} {k : MxKind} {h : Nat} {sync : Option SyncRef} {upd : Tile → Tile} {o : Op}
  (hfull : c.st.full .mx = false) (hown : o = { c.newOp .mx (.mx k h sync) 0 0 with joint := some 0 })
include hfull hown

/-- The strand's own entry takes the operation as a member. -/
theorem Ic.toLatch_joins {pre post : List LatchEnt} {e : LatchEnt}
    (hents : mapGet [] w.latches (clusterOf (coreOf c.key)) = pre ++ e :: post) (he : c.ownsLatch e)
    (hothers : ∀ y ∈ pre ++ post, ¬c.ownsLatch y) :
    c.toLatch w k h sync upd =
      .done (c.enterLatch w o h upd (pre ++ { e with members := e.members ++ [(c.key, o.id)] } :: post)) := by
  have hkeep {l : List LatchEnt} (hl : ∀ y ∈ l, ¬c.ownsLatch y) : (l.map fun y =>
      if (y.part == c.st.part && y.gang == c.st.ctx.gang && y.seq == c.st.gangSeq) = true then
        { y with members := y.members ++ [(c.key, o.id)] } else y) = l :=
    (List.map_congr_left fun y hy => if_neg fun hm => hl y hy ((c.ownsLatch_iff y).mp hm)).trans (List.map_id l)
  have hmem : ((pre ++ e :: post).any fun y => y.part == c.st.part && y.gang == c.st.ctx.gang && y.seq == c.st.gangSeq) = true :=
    List.any_eq_true.mpr ⟨e, by simp, (c.ownsLatch_iff e).mpr he⟩
  subst hown
  unfold Ic.toLatch
  dsimp only
  rw [hents, if_neg (ne_true_of_eq_false hfull), if_pos hmem, List.map_append, List.map_cons,
    if_pos ((c.ownsLatch_iff e).mpr he), hkeep fun y hy => hothers y (List.mem_append_left _ hy),
    hkeep fun y hy => hothers y (List.mem_append_right _ hy)]
  rfl

/-- With room in the latch a new entry is made. -/
theorem Ic.toLatch_opens (hents : ∀ e ∈ mapGet [] w.latches (clusterOf (coreOf c.key)), ¬c.ownsLatch e)
    (hroom : (mapGet [] w.latches (clusterOf (coreOf c.key))).length < 16)
    (hshare : ((mapGet [] w.latches (clusterOf (coreOf c.key))).filter fun e => e.part == c.st.part).length <
      w.latchShare (clusterOf (coreOf c.key))) :
    c.toLatch w k h sync upd = .done (c.enterLatch w o h upd (mapGet [] w.latches (clusterOf (coreOf c.key)) ++
      [{ part := c.st.part, gang := c.st.ctx.gang, seq := c.st.gangSeq, members := [(c.key, o.id)] }])) := by
  have hnone : ¬((mapGet [] w.latches (clusterOf (coreOf c.key))).any fun y =>
      y.part == c.st.part && y.gang == c.st.ctx.gang && y.seq == c.st.gangSeq) = true := by
    intro hany
    obtain ⟨e, he, hm⟩ := List.any_eq_true.mp hany
    exact hents e he ((c.ownsLatch_iff e).mp hm)
  subst hown
  unfold Ic.toLatch
  dsimp only
  rw [if_neg (ne_true_of_eq_false hfull), if_neg hnone, if_neg (not_or.mpr ⟨Nat.not_le.mpr hroom, Nat.not_le.mpr hshare⟩)]
  rfl

end

end

/-- Settles O45, with an `Ic.mxIssue` or `Ic.toLatch` for each operation whose operands are legal. -/
theorem matrixIssue : Obligations.MatrixIssue := by
  unfold Obligations.MatrixIssue
  intro s c x v0 v1 v2 v3 v4 v5 t hi hmask h core room queuedIn queued named pairs ct size calm
  have issued {w : State} {k : Ctr} {b : MxKind} {sync : Option SyncRef} {upd : Tile → Tile} {i : Instr} (hfull : c.st.full k = false)
      (heng : (w.core (coreOf c.key)).engine.length < Config.engineQueue)
      (he : exec i s = .next (s.conclude c x.len (c.mxIssue w k b x.d.rawNum sync upd))) : exec i s = queuedIn w k b sync upd :=
    he.trans (by rw [Ic.mxIssue_of hfull heng]; rfl)
  refine ⟨fun ho hh ht ha ha' hb hb' hd hfit => execMxalloc_of hi hmask ho hh ht ha ha' hb hb' hd hfit, ?_, ?_, ?_, ?_, ?_⟩
  · rintro hnamed ⟨hfull, heng⟩
    exact ⟨issued hfull heng (execMxfree_of hi hmask hnamed), issued hfull heng ((exec_mxzero s).trans (mxzeroOp_of hi hmask hnamed false)),
      issued hfull heng ((exec_mxzeroAbs s).trans (mxzeroOp_of hi hmask hnamed true)),
      fun ha => issued hfull heng (execMxfin_plain hi hmask hnamed ha),
      fun n ha ho hsync => issued hfull heng (execMxfin_sync hi hmask hnamed ha ho hsync)⟩
  · rintro ho hnamed ⟨hfull, heng⟩ hsize hsync r hr hext hfp
    exact issued hfull heng (execMxld_of hi hmask hnamed rfl hsize hsync hr ho hext hfp)
  · rintro ho hnamed ⟨hfull, heng⟩ hsize hsync hcalm hseed h4 hfp r hr hext
    exact issued hfull heng (execMxst_of hi hmask hnamed rfl hsize hsync hr ho hcalm hseed h4 hfp hext)
  · rintro ho hnamed ⟨hfull, heng⟩ hcalm r rows cols e0 stride d hd h1 h2 h3 h4 h5 h6 h7 h8 helems hzeros hlabel hconv
    refine issued hfull heng (execCtbm_of hi hmask hnamed ho hcalm hd rfl rfl rfl rfl rfl ?_ helems hzeros hlabel hconv)
    clear_value r rows cols
    omega
  · intro ho hnamed k fin upd gang first other saw w hask hz hm hmt hm' hk hk' hfirst hfirst' hsync htakes a b ha hfp hexta hb hnb
    have hw : w = (s.sawRec c.st.part v0 (x.xs % 2 == 1)).sawRec c.st.part v2 (!other && x.xs / 2 % 2 == 1) := rfl
    have hcores : w.cores = s.cores := by rw [hw, State.sawRec_keeps State.seen_cores, State.sawRec_keeps State.seen_cores]
    clear_value w
    have hexec (hfo : other = false → first) (hof : other = true → ¬first)
        (hgang : x.g = true → gangNamed gang = true ∧ c.st.name ∈ gangMembers gang core) :
        exec (.mxmma x) s = .next (s.conclude c x.len (c.mmaIssue w x a b k fin)) := by
      refine execMxmma_of hi hmask ho hnamed (other := other) rfl hw hask rfl hz ⟨hm, hmt, hm'⟩ ⟨hk, hk'⟩
        (fun h => ⟨hfirst (hfo h), hfirst' (hfo h)⟩) hsync htakes ha hfp hexta ?_ (fun h => (hb (hfo h)).2) hgang
      clear_value other
      cases other with
      | false => exact (if_neg Bool.false_ne_true).trans (hb (hfo rfl)).1
      | true => rw [hnb (hof rfl)]; rfl
    refine ⟨fun hg hroom => ?_, fun hg hnamedGang hmember hfull => ?_⟩
    · obtain ⟨hfull, heng⟩ := hroom
      have hother : other = false := by simp only [other, hg, Bool.false_and]
      have hfirst : first := fun h => absurd (hg.symm.trans h) Bool.false_ne_true
      refine issued hfull (w := w) ?_ ((hexec (fun _ => hfirst) (fun h => absurd (hother.symm.trans h) Bool.false_ne_true)
        fun h => absurd (hg.symm.trans h) Bool.false_ne_true).trans ?_)
      · rwa [State.core, hcores]
      · rw [Ic.mmaIssue, if_neg (ne_true_of_eq_false hg)]
    · intro o ents mine enters
      have hother : other = true ↔ ¬first := by
        simp only [other, first, hg, hnamedGang, Bool.true_and, bne_iff_ne, ne_eq, forall_const]
      have henters (l : List LatchEnt) (hl : c.toLatch w (.mma a b k.m k.n k.k fin) x.d.rawNum k.sync upd =
          .done (c.enterLatch w o h upd l)) : exec (.mxmma x) s = enters l :=
        (hexec (fun h => not_not.mp fun hn => absurd (h.symm.trans (hother.mpr hn)) Bool.false_ne_true) hother.mp
          fun _ => ⟨hnamedGang, hmember⟩).trans (by rw [Ic.mmaIssue, if_pos hg, hl]; rfl)
      refine ⟨fun pre e post hents he hothers => ?_, fun hents hroom hshare => ?_⟩
      · exact henters _ (Ic.toLatch_joins hfull rfl hents he hothers)
      · exact henters _ (Ic.toLatch_opens hfull rfl hents hroom hshare)

end Sys2Proof.Machine
end

section
/-! PROOFS. Gangs, progress and flags of tiles, tensor shape records (R257, R258, R269, R271, R272). -/

namespace Sys2Proof.Machine

open Sys2Proof

section
variable {s : State} {c : Ic} {x : Opnds} {t : Tile} {a : DWord}

theorem execMxgang_of (hi : s.issuer = some c) (hmask : c.sp.mask = fullMask) (ho : c.scalars x [x.a] = some [a])
    (hjoint : ∀ o ∈ c.st.ops, o.joint = none) : exec (.mxgang x) s = c.ends s x.len
      (s.onStrand c.key fun st => { st with gangSeq := 0, name := c.key, ctx := { st.ctx with gang := a } }) := by
  obtain ⟨k, hk, rfl⟩ := Ic.offs_of_scalar ho
  rw [exec_mxgang, execMxgang]
  refine issueX_ends_of hi ((Ic.wholeStrand_of hmask _).trans ((c.known_of s x _ _ _ hk).trans (if_neg ?_)))
  rw [Bool.not_eq_true, List.any_eq_false]
  intro o hmem
  rw [hjoint o hmem]
  exact Bool.false_ne_true

section
variable (hi : s.issuer = some c) (hmask : c.sp.mask = fullMask)
  (hnamed : x.a.rawNum < s.kernelTiles c.st.wg ∧ c.st.tile? x.a.rawNum = some t ∧ t.freeing = false) (hfree : c.freeS x.d.snum)
include hi hmask hnamed hfree

/-- MXROW writes the word of the youngest operation on the tile. -/
theorem execMxrow_of {v : DWord} {u : State} (hrow : c.rowWord s t x.a.rawNum = (v, u)) :
    exec (.mxrow x) s = c.ends s x.len (u.putRegs c (c.regs.setS x.d.snum v)) := by
  obtain ⟨hh, ht, hf⟩ := hnamed
  rw [exec_mxrow, execMxrow]
  refine issueX_ends_of hi ((Ic.wholeStrand_of hmask _).trans ((Ic.withTile_of hh ht hf _).trans ?_))
  rw [hrow]
  exact c.toS_of u x.d.snum v hfree

/-- MXROW.flags reads the flags once every operation on the tile is done. -/
theorem execMxrowFlags_of (hdone : ∀ o ∈ c.st.ops, o.tile = some x.a.rawNum ∨ o.sentOf = some x.a.rawNum →
      o.susp = none ∧ o.done = true) :
    exec (.mxrowFlags x) s = c.ends s x.len (s.putRegs c (c.regs.setS x.d.snum (t.flags.setWidth 64))) := by
  obtain ⟨hh, ht, hf⟩ := hnamed
  rw [exec_mxrowFlags, execMxrowFlags]
  refine issueX_ends_of hi ((Ic.wholeStrand_of hmask _).trans ((Ic.withTile_of hh ht hf _).trans
    ((Ic.tileDeliver_of (fun o ho hot => (hdone o ho (.inl hot)).1) _).trans ((if_neg ?_).trans (c.toS_of s _ _ hfree)))))
  rw [Bool.not_eq_true, List.any_eq_false]
  intro o ho hbusy
  obtain ⟨hon, hopen⟩ := Bool.and_eq_true_iff.mp hbusy
  rw [(hdone o ho ((Bool.or_eq_true_iff.mp hon).imp eq_of_beq eq_of_beq)).2] at hopen
  exact Bool.false_ne_true hopen

end

section
variable {h : Nat} {mine : List Op} (hmine : mine = c.st.ops.filter fun o => o.tile == some h && o.cls == .mx)
include hmine

theorem Ic.rowWord_done {o : Op} (ho : mine.getLast? = some o) (hd : o.done = true) :
    c.rowWord s t h = (.ofNat 64 (o.recNo + o.rows * 2 ^ 16 + 2 ^ 31), s) := by
  rw [hmine] at ho
  simp only [Ic.rowWord, ho, hd, Bool.true_or, if_true]

theorem Ic.rowWord_running {o : Op} (ho : mine.getLast? = some o) (hd : o.done = false) :
    c.rowWord s t h = (.ofNat 64 (o.recNo + (match o.body with | .mx (.mma ..) _ _ => o.rows | _ => 0) * 2 ^ 16), s) := by
  rw [hmine] at ho
  simp only [Ic.rowWord, ho, hd, Bool.false_or, Bool.false_eq_true, if_false, Nat.add_zero]
  split <;> simp_all

theorem Ic.rowWord_last {n : Half} {rows : Nat} (hnone : mine = []) (hl : t.last = some (n, rows)) :
    c.rowWord s t h = (.ofNat 64 (n.toNat + rows * 2 ^ 16 + 2 ^ 31), s) := by
  rw [hmine] at hnone
  simp only [Ic.rowWord, hnone, List.getLast?_nil, hl]

theorem Ic.rowWord_none (hnone : mine = []) (hl : t.last = none) : c.rowWord s t h = s.draw := by
  rw [hmine] at hnone
  simp only [Ic.rowWord, hnone, List.getLast?_nil, hl]

end

/-! ## Tensor shape records -/

/-- A record that translates and lies in this device's memory is read. -/
theorem Ic.withRec_of {h : Word} {acc : Access} {p : Nat} {u : State} (hp : p = s.recAddr c.st.part (handleSlot h))
    (hu : u = s.seen c.st.part p 64) (ht : ∃ r, c.trLane s .global (.s 0) acc (.ofNat 64 p) = .ok r) (hask : u.far.ask = [])
    (k : State → Nat → Act) : c.withRec s h acc k = k u p := by
  subst hp hu
  obtain ⟨r, ht⟩ := ht
  simp only [Ic.withRec, ht]
  exact Ic.deviceReads_of hask _

section
variable {g : Word} {p : Nat} {u : State} (hi : s.issuer = some c) (hmask : c.sp.mask = fullMask) (ho : c.scalars x [x.a] = some [a])
  (hg : g = a.setWidth 32) (hp : p = s.recAddr c.st.part (handleSlot g)) (hu : u = s.seen c.st.part p 64) (hask : u.far.ask = [])
include hi hmask ho hg hp hu hask

theorem execMxshpQ_of (hfree : c.freeS x.d.snum) (ht : ∃ r, c.trLane s .global (.s 0) .read (.ofNat 64 p) = .ok r)
    (hgen : u.recGen c.st.part p = handleGen g) :
    exec (.mxshpQ x) s = c.ends s x.len (u.putRegs c (c.regs.setS x.d.snum
      (.ofNat 64 (u.vread c.st.part (p + 8) 4 + u.vread c.st.part (p + 12) 4 * 2 ^ 32)))) := by
  obtain ⟨k, hk, rfl⟩ := Ic.offs_of_scalar ho
  rw [exec_mxshpQ, execMxshpQ]
  refine issueX_ends_of hi ((Ic.wholeStrand_of hmask _).trans ((c.known_of s x _ _ _ hk).trans ?_))
  simp only [List.getD_cons_zero, ← hg]
  exact (Ic.withRec_of hp hu ht hask _).trans ((if_neg (not_not.mpr hgen)).trans (c.toS_of u _ _ hfree))

theorem execMxshpGen_of (hbusy : c.st.busy x.d true = false) (ht : ∃ r, c.trLane s .global (.s 0) .write (.ofNat 64 p) = .ok r)
    {gen : Nat} (hgen : gen = (u.recGen c.st.part p + 1) % 4096) :
    exec (.mxshpGen x) s = c.ends s x.len ((u.vwrite c.st.part (p + 22) 2 (u.vread c.st.part (p + 22) 2 / 4096 * 4096 + gen)).putRegs c
      (c.regs.setS x.d.snum ((mkHandle (handleSlot g) gen).setWidth 64))) := by
  obtain ⟨k, hk, rfl⟩ := Ic.offs_of_scalar ho
  rw [exec_mxshpGen, execMxshpGen]
  refine issueX_ends_of hi ((Ic.wholeStrand_of hmask _).trans ((c.known_of s x _ _ _ hk).trans ?_))
  simp only [List.getD_cons_zero, ← hg]
  refine (Ic.withRec_of hp hu ht hask _).trans ((if_neg (ne_true_of_eq_false hbusy)).trans ?_)
  rw [hgen]

end

end

/-- Settles O46. -/
theorem matrixStateResults : Obligations.MatrixStateResults := by
  unfold Obligations.MatrixStateResults
  intro s c x a t hi hmask h put mine named
  refine ⟨fun ho hjoint => execMxgang_of hi hmask ho hjoint, fun hnamed hfree => ⟨?_, ?_, ?_, ?_, ?_⟩, fun ho => ?_⟩
  · exact fun o hlast hd => execMxrow_of hi hmask hnamed hfree (Ic.rowWord_done rfl hlast hd)
  · exact fun n rows hnone hl => execMxrow_of hi hmask hnamed hfree (Ic.rowWord_last rfl hnone hl)
  · exact fun o hlast hd => execMxrow_of hi hmask hnamed hfree (Ic.rowWord_running rfl hlast hd)
  · exact fun hnone hl => execMxrow_of hi hmask hnamed hfree (Ic.rowWord_none rfl hnone hl)
  · exact fun hdone => execMxrowFlags_of hi hmask hnamed hfree hdone
  · intro g p u hask
    have hp : p = s.recAddr c.st.part (handleSlot g) := rfl
    refine ⟨fun hfree ht hgen => ?_, fun hbusy ht => ?_⟩
    · exact execMxshpQ_of hi hmask ho rfl rfl rfl hask hfree ht hgen
    · intro gen
      have hgen : gen = (u.recGen c.st.part p + 1) % 4096 := rfl
      have hu : u = s.seen c.st.part p 64 := rfl
      clear_value gen u p
      exact execMxshpGen_of hi hmask ho rfl hp hu hask hbusy ht hgen

end Sys2Proof.Machine
end

section
/-! PROOFS. Events of strands, walks, fetches and compaction (R25, R95 to R97, R104, R170, R390, R410, R452). -/

namespace Sys2Proof.Machine

open Sys2Proof

/-- An event ends in the state that its effect gives. -/
theorem event_of {s t : State} {f : State → State} (h : f s = t) : event s f = .next t := congrArg _ h

/-- A change of a quarter depends on what the quarter holds. -/
theorem State.onQuarter_congr {s : State} {n : Nat} {f g : QuarterSt → QuarterSt} (h : f (s.quarter n) = g (s.quarter n)) :
    s.onQuarter n f = s.onQuarter n g := congrArg (s.setQuarter n) h

section
variable {s : State} {key : Nat} {st : Strand} {i : Nat}

/-- The end of a strand that nothing keeps. -/
theorem execStrandLeavesExited_of (hst : s.strand? key = some st) {w : Wg} (hw : s.wg? st.wg = some w)
    (hmay : (w.phase = .killed ∧ ∀ e ∈ s.members w, e.2.ops = []) ∨ (w.phase = .running ∧ st.phase = .exited)) (hops : st.ops = [])
    (hcopy : s.copyInto st.wg = false) {u : State}
    (hu : u = ({ s.drain key st 0 with strands := mapErase key s.strands } : State).onWg st.wg fun w =>
      { w with strands := w.strands.erase key, charge := w.charge + s.stayCharge st }) :
    exec (.strandLeavesExited key) s = .next (if (w.strands.erase key).isEmpty then u.endWg st.wg else u.writeUse w.part w.rcb) := by
  have hmay' : (w.phase == .killed && (s.members w).all (fun e => e.2.ops.isEmpty) || w.phase == .running && st.phase == .exited) = true := by
    obtain ⟨hk, hall⟩ | ⟨hr, he⟩ := hmay
    · have : (s.members w).all (fun e => e.2.ops.isEmpty) = true := List.all_eq_true.mpr fun e he => by rw [hall e he]; rfl
      rw [hk, this]
      rfl
    · rw [hr, he]
      rfl
  rw [exec_strandLeavesExited, execStrandLeavesExited]
  refine event_of ?_
  simp only [hst, hw]
  rw [hmay', hops, hcopy, Bool.and_false, hu]
  rfl

section
variable {n b len : Nat} (hdump : (s.quarter n).dumping = false)
include hdump

theorem execDrainingEnd_write {left : Nat} (hfind : ((s.quarter n).draining.find? fun d => d.1 == b) = some (b, len, left + 1)) :
    exec (.drainingEnd n b) s = .next (s.onQuarter n fun q =>
      { q with draining := q.draining.map fun d => if d.1 == b then (b, len, left) else d }) := by
  rw [exec_drainingEnd, execDrainingEnd]
  refine event_of ?_
  simp only [hfind, hdump]
  rfl

theorem execDrainingEnd_last (hfind : ((s.quarter n).draining.find? fun d => d.1 == b) = some (b, len, 0)) :
    exec (.drainingEnd n b) s = .next (let t := s.onQuarter n fun q =>
        { q with free := buddyRelease 8 q.free b len, draining := q.draining.filter fun d => d.1 != b }
      match s.partOfCore (n / 4) with | some p => t.roomFreed p [n / 4] | none => t) := by
  rw [exec_drainingEnd, execDrainingEnd]
  refine event_of ?_
  simp only [hfind, hdump]
  rfl

end

theorem execSlotDrowsy_of (hst : s.strand? key = some st) (hidle : max st.granted (mapGet 0 st.touched i) + 512 ≤ s.clock.toNat)
    (hi : i < 2 ^ st.logG) (hq : (s.quarter (quarterOf key)).drowsy.contains (key, i) = false) :
    exec (.slotDrowsy key i) s = .next (s.onQuarter (quarterOf key) fun q => { q with drowsy := q.drowsy ++ [(key, i)] }) := by
  rw [exec_slotDrowsy, execSlotDrowsy]
  refine event_of ?_
  simp only [hst]
  refine (if_neg (by omega)).trans (State.onQuarter_congr ?_)
  exact if_neg (ne_true_of_eq_false hq)

theorem execWalkComplete_of {w : WalkReq} (hw : (s.core w.core).walks.contains w = true) :
    exec (.walkComplete w) s = .next (s.endWalk w) := event_of (if_pos hw)

/-! ## Fetch -/

theorem State.cacheWords_far (s : State) (core part : Nat) (va : VAddr) (l : List Nat) : (s.cacheWords core part va l).far = s.far :=
  foldl_keeps State.far (fun s e => by
    dsimp only
    split
    · rfl
    · rfl) _ s

/-- What asks nothing of other devices ends at once. -/
theorem State.farDo_eq {s v : State} {f : State → State} {part : Nat} {k : FarKey} (h : f s = v) (hv : v.far.asked = []) :
    s.farDo part k f = v :=
  (State.farDo_of (h ▸ hv) part k).trans h

/-- The words of an instruction in this device's memory, none of them lost, arrive. -/
theorem execFetch_of (hst : s.strand? key = some st) (hsp : (st.split i).st = .ready ∨ (st.split i).st = .trapped)
    (hwords : (st.split i).words = []) (haway : s.wgAway st.wg = false) (hfar : s.far.asked = []) {l : List Nat} {accs : List Acc}
    (hfetch : s.fetch (coreOf key) st.part (st.split i).pc = .words l accs) (hnear : s.farWords accs = false)
    (hecc : s.eccScan st.part 4 accs = (s, [], 0, 0)) {u : State} (hu : u = s.cacheWords (coreOf key) st.part (st.split i).pc l) :
    exec (.instructionFetchComplete key i) s = .next (({ u with free := u.free + 1 } : State).onStrand key fun y =>
      y.onSplit i fun p => { p with words := l, stall := .none }) := by
  have hruns : ((!((st.split i).st == .ready || (st.split i).st == .trapped)) || !(st.split i).words.isEmpty || s.wgAway st.wg) = false := by
    rw [hwords, haway]
    obtain h | h := hsp <;> rw [h] <;> rfl
  have hu' : u.far.asked = [] := by rw [hu, State.cacheWords_far, hfar]
  rw [exec_instructionFetchComplete, execInstructionFetchComplete]
  refine event_of ?_
  simp only [hst]
  refine (if_neg (ne_true_of_eq_false hruns)).trans ?_
  refine State.farDo_eq ?_ hu'
  simp only [hfetch, hnear, Bool.false_eq_true, if_false, hecc, hu]
  rfl

/-! ## Compaction -/

/-- A block moves where its strand may move and the room is clear. -/
theorem execCompactionMove_of {n b : Nat} {rest : List (Nat × Nat)} (hst : s.strand? key = some st)
    (hmoves : (s.quarter n).moves = (key, b) :: rest) (hrest : rest ≠ []) (hfixed : st.fixed = false) (hmov : st.movable = true)
    (hclear : ∀ r ∈ (s.heldBlocks n).erase (st.block, 2 ^ st.logG), r.1 + r.2 ≤ b ∨ b + 2 ^ st.logG ≤ r.1) :
    exec (.compactionMove n) s = .next
      (((s.useSlots key st.ctx.regs.live).onStrand key fun x => { x with block := b }).onQuarter n fun y => { y with moves := rest }) := by
  have hclear' : ((s.heldBlocks n).erase (st.block, 2 ^ st.logG)).all (fun t => decide (t.1 + t.2 ≤ b ∨ b + 2 ^ st.logG ≤ t.1)) = true :=
    List.all_eq_true.mpr fun t ht => decide_eq_true (hclear t ht)
  rw [exec_compactionMove, execCompactionMove]
  refine event_of ?_
  simp only [State.moveBlock, hmoves, hst]
  rw [hfixed, hclear', hmov]
  exact if_neg fun h => hrest (List.isEmpty_iff.mp h)

theorem execScratchpadCompaction_plan {core : Nat} (hmoves : (s.core core).spadMoves = []) : exec (.scratchpadCompaction core) s =
    .next (if s.planSpad core = [] then s else s.onCore core fun c => { c with spadMoves := s.planSpad core }) := by
  rw [exec_scratchpadCompaction, execScratchpadCompaction]
  refine event_of ?_
  simp only [State.compactSpad, hmoves]
  cases s.planSpad core <;> rfl

/-- An allocation moves down where its workgroup leaves the scratchpad alone. -/
theorem execScratchpadCompaction_move {core k b : Nat} {rest : List Nat} {w : Wg} (hmoves : (s.core core).spadMoves = k :: rest)
    (hrest : rest ≠ []) (hw : s.wg? k = some w) (hrun : w.phase = .running) (hhome : w.home = core) (hidle : s.spadIdle k w = true)
    (hfit : firstFit ((s.spadRuns core).erase (w.spadBase, w.kernel.spad)) w.kernel.spad Config.spadBytes = some b) (hb : b < w.spadBase) :
    exec (.scratchpadCompaction core) s = .next
      ((State.onWg { s with spad := writeBytes s.spad (core * Config.spadBytes + b) (readBytes s.spad (w.spadPa 0) w.kernel.spad) } k
        fun x => { x with spadBase := b }).onCore core fun c => { c with spadMoves := rest }) := by
  rw [exec_scratchpadCompaction, execScratchpadCompaction]
  refine event_of ?_
  simp only [State.compactSpad, hmoves, State.moveSpad, hw]
  refine (if_neg ?_).trans <| (if_neg ?_).trans ?_
  · exact not_or.mpr ⟨not_not.mpr hrun, not_not.mpr hhome⟩
  · rw [hidle]
    exact Bool.false_ne_true
  · rw [hfit]
    exact (if_neg (Nat.not_le.mpr hb)).trans (if_neg fun h => hrest (List.isEmpty_iff.mp h))

end

/-- Settles O50. -/
theorem strandEventResults : Obligations.StrandEventResults := by
  unfold Obligations.StrandEventResults
  intro s key st i hst q
  refine ⟨fun w hw hmay hops hcopy => execStrandLeavesExited_of hst hw hmay hops hcopy rfl,
    fun n b len left hdump hfind => execDrainingEnd_write hdump hfind, fun n b len hdump hfind hpart => ?_,
    fun n b len p hdump hfind hpart => ?_, fun hidle hi hq => execSlotDrowsy_of hst hidle hi hq, ⟨_, rfl, ?_⟩, fun w hw => ?_,
    fun hsp hwords haway hfar l accs hfetch hnear hecc => execFetch_of hst hsp hwords haway hfar hfetch hnear hecc rfl,
    fun n b rest hmoves hrest hfixed hmov hclear => execCompactionMove_of hst hmoves hrest hfixed hmov hclear,
    fun core hmoves => execScratchpadCompaction_plan hmoves,
    fun core k rest w b hmoves hrest hw hrun hhome hidle hfit hb =>
      execScratchpadCompaction_move hmoves hrest hw hrun hhome hidle hfit hb⟩
  · rw [execDrainingEnd_last hdump hfind, hpart]
  · rw [execDrainingEnd_last hdump hfind, hpart]
  · rw [State.strand?_onStrand_same, hst]
    rfl
  · intro u
    rw [execWalkComplete_of hw]
    have hwalk : s.endWalk w = match u.walk w.part w.acc w.va.toNat with
      | .ok l => (u.onCore w.core fun c => c.tlbFill w.part w.va.toNat l).touch l.ent w.acc
      | .error e => u.onCore w.core fun c => { c with fails := c.fails ++ [{ req := w, sub := e.sub, ent := e.ent }] } := rfl
    rw [hwalk]
    exact ⟨fun l hl => by rw [hl], fun e he => by rw [he]⟩

end Sys2Proof.Machine
end

section
/-! PROOFS. Events of the matrix, copy and swap engines (R43, R44, R127, R243, R244, R269 to R273, R379). -/

namespace Sys2Proof.Machine

open Sys2Proof

section
variable {s : State} {key id h : Nat} {st : Strand} {o : Op} {t : Tile}

theorem State.engReady?_spec (hr : s.engReady? key id = some (st, o)) : s.strand? key = some st ∧ st.op? id = some o := by
  unfold State.engReady? at hr
  split at hr
  · exact absurd hr nofun
  · next st' o' hready =>
    dsimp only at hr
    split at hr
    · obtain ⟨rfl, rfl⟩ := Prod.mk.inj (Option.some.inj hr)
      exact State.ready?_spec hready
    · exact absurd hr nofun

theorem State.mxReady?_spec (hr : s.mxReady? key id = some (st, o, h)) : s.strand? key = some st ∧ st.op? id = some o := by
  unfold State.mxReady? at hr
  split at hr
  · exact absurd hr nofun
  · next st' o' hready =>
    split at hr
    · exact absurd hr nofun
    · split at hr
      · simp only [Option.some.injEq, Prod.mk.injEq] at hr
        obtain ⟨rfl, rfl, -⟩ := hr
        exact State.engReady?_spec hready
      · exact absurd hr nofun

theorem Op.mma?_of {a b : MatRef} {m n k : Nat} {fin : Bool} {h : Nat} {sync : Option SyncRef}
    (hb : o.body = .mx (.mma a b m n k fin) h sync) : o.mma? = some (a, b, m, n, k, fin) := by simp only [Op.mma?, hb]

theorem State.onDie_far (s : State) (d : Nat) (f : DieSt → DieSt) : (s.onDie d f).far = s.far := by
  unfold State.onDie State.setDie
  split <;> rfl

/-! ## No error of a unit -/

theorem State.takeCheck_nil (hc : s.checks = []) (f : Check → Bool) : s.takeCheck f = none := by
  simp only [State.takeCheck, hc, List.find?_nil]

theorem State.engCheck_of (hc : s.checks = []) (sub : Nat) : s.engCheck key st o sub = (s, true) := by
  simp only [State.engCheck, State.takeCheck_nil hc]

theorem State.accCheck_of (hc : s.checks = []) : s.accCheck key st o h = (s, true) := by
  simp only [State.accCheck, State.takeCheck_nil hc]

/-! ## Matrix operations -/

section
variable (hready : s.mxReady? key id = some (st, o, h))
include hready

/-- The next band of an MXMMA that the engine may run. -/
theorem execBandComplete_of (hc : s.checks = []) {a b : MatRef} {m n k : Nat} {fin : Bool} (hmma : o.mma? = some (a, b, m, n, k, fin))
    (hrows : o.rows < m) (hbusy : s.engineBusy key id = false) (hfar : (s.runBand key st o h).far.asked = []) :
    exec (.bandComplete key id) s = .next (s.runBand key st o h) := by
  rw [exec_bandComplete, execBandComplete]
  refine event_of ?_
  simp only [hready, hmma]
  refine (if_neg (not_or.mpr ⟨Nat.not_le.mpr hrows, ne_true_of_eq_false hbusy⟩)).trans ?_
  rw [State.engCheck_of hc, State.accCheck_of hc]
  exact State.farFor_of (f := fun s => s.runBand key st o h) hfar key id

section
variable (ht : st.tile? h = some t) {kind : MxKind} {sync : Option SyncRef} (hb : o.body = .mx kind h sync) {u : State}
  (hfar : u.far.asked = [])
include ht hb hfar

/-- Only the arrival is left. -/
theorem execMxOperationComplete_arrives (hs : o.started = true) (hu : u = s.arriveOp key st o 0x01 sync 1 o.flags) :
    exec (.mxOperationComplete key id) s = .next u := by
  rw [exec_mxOperationComplete, execMxOperationComplete]
  refine event_of ?_
  simp only [hready, hb, ht]
  exact State.farDo_eq ((if_pos hs).trans hu.symm) hfar

/-- The bands of an MXMMA that stands alone are done: the tile's writes, then the arrival. -/
theorem execMxOperationComplete_mma {a b : MatRef} {m n k : Nat} {fin : Bool} (hk : kind = .mma a b m n k fin) (hrows : m ≤ o.rows)
    (hjoint : o.joint = none) (hs : o.started = false) {st2 : Strand} {o2 : Op} (hst2 : (s.endMma key st o h k).strand? key = some st2)
    (ho2 : st2.op? id = some o2) (hu : u = (s.endMma key st o h k).arriveOp key st o2 0x01 sync 1 o2.flags) :
    exec (.mxOperationComplete key id) s = .next u := by
  have hmma : o.mma? = some (a, b, m, n, k, fin) := Op.mma?_of (hk ▸ hb)
  rw [exec_mxOperationComplete, execMxOperationComplete]
  refine event_of ?_
  simp only [hready, hb, ht, hs, hmma]
  refine State.farDo_eq ((if_neg Bool.false_ne_true).trans ((if_neg ?_).trans ((if_neg ?_).trans ?_))) hfar
  · exact fun h => Bool.false_ne_true h.1
  · rw [hjoint]
    exact not_or.mpr ⟨Bool.false_ne_true, Nat.not_lt.mpr hrows⟩
  · rw [hst2]
    simp only [Option.bind_some, ho2]
    exact hu.symm

/-- A matrix operation other than MXMMA performs. -/
theorem execMxOperationComplete_run (hc : s.checks = []) (hs : o.started = false) (hmma : o.mma? = none)
    (hbusy : s.engineBusy key id = false) (hu : u = s.runMx key st o h t) : exec (.mxOperationComplete key id) s = .next u := by
  have hst := (State.mxReady?_spec hready).1
  rw [exec_mxOperationComplete, execMxOperationComplete]
  refine event_of ?_
  simp only [hready, hb, ht, hs, hmma]
  refine State.farDo_eq ((if_neg Bool.false_ne_true).trans ((if_neg fun h => Bool.false_ne_true (hbusy.symm.trans h.2)).trans ?_)) hfar
  cases kind <;> (
    simp only [State.accCheck_of hc, hst, Option.bind_some, ht, Bool.not_true, Bool.false_eq_true, if_false]
    exact hu.symm)

end

end

/-- What the operations with a short effect do to their tile. -/
theorem State.runMx_free {sync : Option SyncRef} (hb : o.body = .mx .free h sync) :
    s.runMx key st o h t = (s.unqueue key o.id).finishOp key o.id := by simp only [State.runMx, hb]

theorem State.runMx_zero {sync : Option SyncRef} (hb : o.body = .mx (.zero false) h sync) :
    s.runMx key st o h t = ((s.endTile key o h { t with vals := [], spines := [], n := 0 } t.rows 0 true).unqueue key o.id).arriveOp
      key st o 0x01 sync 1 0 := by
  simp only [State.runMx, hb, Bool.false_eq_true, if_false]
  rfl

theorem State.runMx_fin {sync : Option SyncRef} (hb : o.body = .mx .fin h sync) :
    s.runMx key st o h t = ((s.endTile key o h (t.close 0).1 (t.close 0).1.rows (t.close 0).2 false).unqueue key o.id).arriveOp
      key st o 0x01 sync 1 (t.close 0).2 := by
  simp only [State.runMx, hb]
  rfl

/-! ## Joint operations -/

/-- The flags of a part as its strand holds them, none where the part is gone. -/
theorem orFlags_eq (f : Half) (p : Option Op) : (match p with | some o => f ||| o.flags | none => f) = f ||| p.elim 0 fun x => x.flags := by
  cases p with
  | none => exact (BitVec.or_zero).symm
  | some o => rfl

/-- With every part done the members' tiles, arrivals and counters come together. -/
theorem execJointOperationComplete_of {g : Nat} {j : Joint} {p : Nat × Strand × Op × Nat} {ps : List (Nat × Strand × Op × Nat)}
    (hj : mapFind s.joints g = some j) (hdone : j.members.map s.partDone = (p :: ps).map some) {a b : MatRef} {m n k : Nat} {fin : Bool}
    (hmma : p.2.2.1.mma? = some (a, b, m, n, k, fin)) {u v : State} {fl : Half}
    (hu : u = (p :: ps).foldl (fun y e => if e.2.2.1.started then y else y.endMma e.1 e.2.1 e.2.2.1 e.2.2.2 k) s)
    (hfl : fl = (p :: ps).foldl (fun (f : Half) e => f ||| ((u.strand? e.1).bind fun y => y.op? e.2.2.1.id).elim 0 fun x => x.flags) 0)
    (hv : v = (p :: ps).foldl (fun (y : State) e =>
      let z := y.onStrand e.1 fun w => w.onOp e.2.2.1.id fun x => { x with flags := fl }
      match (z.strand? e.1).bind fun w => (w.op? e.2.2.1.id).map fun x => (w, x), e.2.2.1.body with
      | some (w, x), .mx _ _ sync => z.arriveOp e.1 w x 0x01 sync 1 fl
      | _, _ => z) { u with joints := mapErase g u.joints })
    (hfar : v.far.asked = []) : exec (.jointOperationComplete g) s = .next v := by
  have hall : ((p :: ps).map some).any (fun q => q.isNone) = false := List.any_eq_false.mpr fun q hq => by
    obtain ⟨e, -, rfl⟩ := List.mem_map.mp hq
    exact Bool.false_ne_true
  have hps : ((p :: ps).map some).filterMap id = p :: ps := by
    rw [List.filterMap_map]
    exact List.filterMap_some
  rw [exec_jointOperationComplete, execJointOperationComplete]
  refine event_of ?_
  simp -zeta only [hj, hdone]
  extract_lets qs l k' u' fl'
  refine (if_neg (ne_true_of_eq_false hall)).trans ?_
  have hl : l = p :: ps := hps
  have hk : k' = k := by simp only [k', hl, List.head?_cons, hmma, Option.elim_some]
  have hu' : u' = u := by simp only [hu, u', hl, hk]
  have hfl' : fl' = fl := by
    simp only [hfl, fl', hl, hu']
    exact congrArg (fun F => List.foldl F 0 (p :: ps)) (funext fun f => funext fun e => orFlags_eq f _)
  clear_value l u' fl'
  subst hl hu' hfl'
  exact State.farDo_eq hv.symm hfar

/-- The parts of a full latch entry enter their engines' queues. -/
theorem execJointOperationStart_of {cluster entry : Nat} {e : LatchEnt} {ms : List (Nat × Nat)}
    (he : (mapGet [] s.latches cluster)[entry]? = some e) (hfull : s.latchFull cluster e = some ms) (hready : s.jointReady ms = true)
    {u : State} (hu : u = ms.foldl (fun y m => y.onStrand m.1 fun z => z.onOp m.2 fun p => { p with joint := some (s.jointNext + 1) })
        { s with latches := mapPut [] s.latches cluster ((mapGet [] s.latches cluster).eraseIdx entry), jointNext := s.jointNext + 1
                 joints := mapIns (s.jointNext + 1) { members := ms } s.joints }) {k : Nat}
    (hk : k = match ms.head? with
        | some m => ((u.strand? m.1).bind fun y => (y.op? m.2).bind fun p => p.mma?).elim 0 fun x => x.2.2.2.2.1
        | none => 0)
    (hbad : u.jointBad ms k = []) : exec (.jointOperationStart cluster entry) s =
      .next (ms.foldl State.recount (ms.foldl (fun y m => y.onCore (coreOf m.1) fun z => { z with engine := z.engine ++ [m] }) u)) := by
  rw [exec_jointOperationStart, execJointOperationStart]
  refine event_of ?_
  extract_lets ents n
  have he' : ents[entry]? = some e := he
  simp -zeta only [he', hfull, hready]
  extract_lets y z k'
  refine (if_neg Bool.false_ne_true).trans ?_
  have hz : z = u := hu.symm
  have hk' : k' = k := by
    rw [hk]
    simp only [k', hz] <;> cases ms.head? <;> rfl
  clear_value z k'
  subst hz hk'
  simp only [hbad]
  rfl

/-! ## Copies -/

theorem execCopyComplete_of (hc : s.checks = []) (hready : s.engReady? key id = some (st, o)) {k : CopyOp} (hb : o.body = .copy k)
    (hm : k.multi = false) {run : State}
    (hrun : run = s.runCopy key st o (k.sectors 0 k.rows) (k.sectors 0 k.rows / 512 + 2) k) (hfar : run.far.asked = []) :
    exec (.copyComplete key id) s = .next run := by
  rw [exec_copyComplete, execCopyComplete]
  refine event_of ?_
  simp only [hready, hb, hm, State.engCheck_of hc]
  exact State.farDo_eq (f := fun s => s.runCopy key st o (k.sectors 0 k.rows) (k.sectors 0 k.rows / 512 + 2) k) hrun.symm hfar

theorem execCpymReceiverArrival_of (hc : s.checks = []) (hready : s.engReady? key id = some (st, o)) {k : CopyOp} (hb : o.body = .copy k)
    (hm : k.multi = true) {core : Nat} (hfar : (s.serve key st o k core).far.asked = []) :
    exec (.cpymReceiverArrival key id core) s = .next (s.serve key st o k core) := by
  rw [exec_cpymReceiverArrival, execCpymReceiverArrival]
  refine event_of ?_
  simp only [hready, hb, hm, State.engCheck_of hc]
  exact State.farFor_of (f := fun s => s.serve key st o k core) hfar key id

/-- A copy whose sectors are all written arrives. -/
theorem State.runCopy_done {k : CopyOp} {total fuel : Nat} (h : total ≤ k.written) : s.runCopy key st o total (fuel + 1) k =
    (s.onStrand key fun y => y.onOp o.id fun p => { p with body := .copy k }).arriveOp key st o 0x02 k.sync (k.rowBytes * k.rows) 0 :=
  if_pos h

/-! ## Swaps -/

theorem length_readBytes (m : List Host.Cell) (a n : Nat) : (readBytes m a n).length = n := by
  induction n generalizing a with
  | zero => rfl
  | succ n ih => exact congrArg (· + 1) (ih (a + 1))

theorem getD_readBytes (m : List Host.Cell) {a n i : Nat} (h : i < n) : (readBytes m a n).getD i 0 = readByte m (a + i) := by
  induction n generalizing a i with
  | zero => exact absurd h (Nat.not_lt_zero i)
  | succ n ih =>
    cases i with
    | zero => rfl
    | succ i =>
      rw [readBytes, List.getD_cons_succ, ih (Nat.lt_of_succ_lt_succ h)]
      congr 1
      omega

/-- Bytes copied from another place are read there. -/
theorem readByte_writeBytes_readBytes {m m' : List Host.Cell} (hm : Memory.wf m = true) (a b n k : Nat) :
    readByte (writeBytes m a (readBytes m' b n)) k = if a ≤ k ∧ k < a + n then readByte m' (b + (k - a)) else readByte m k := by
  rw [readByte_writeBytes hm, length_readBytes]
  by_cases h : a ≤ k ∧ k < a + n
  · rw [if_pos h, if_pos h, getD_readBytes m' (by omega)]
  · rw [if_neg h, if_neg h]

section
variable {x : Swap} {base : Nat} (hfar : s.swapFar x = (.host, base)) (hup : s.upsets = [])
include hfar hup

/-- With no upset word and a far frame in the host's memory the two memories hold each other's sector. -/
theorem State.exchange_host : ∃ u, s.exchange x = { s with
    flostra := writeBytes s.flostra (x.near + 4096 * x.at_) (readBytes s.hostMem (base + 4096 * x.at_) 4096)
    hostMem := writeBytes s.hostMem (base + 4096 * x.at_) (readBytes s.flostra (x.near + 4096 * x.at_) 4096)
    upsets := u } := by
  have hloss (p : Place) (a : Nat) : s.swapLoss x p a = s := by
    simp only [State.swapLoss, hup, List.filter_nil, List.foldl_nil]
  unfold State.exchange
  rw [hfar]
  have hne : ¬Place.host = .peer := nofun
  simp only [hloss, if_neg hne, State.putSector, State.setCells, State.cells, State.wrote]
  exact ⟨_, rfl⟩

/-- The two sectors are exchanged, and every other byte stays (R127). -/
theorem State.exchange_bytes (hwf : s.memWf = true) {u : State} (hu : u = s.exchange x) {near far : Nat}
    (hnear : near = x.near + 4096 * x.at_) (hf : far = base + 4096 * x.at_) :
    (∀ k < 4096, readByte u.flostra (near + k) = readByte s.hostMem (far + k) ∧
      readByte u.hostMem (far + k) = readByte s.flostra (near + k)) ∧
    (∀ a, (a < near ∨ near + 4096 ≤ a) → readByte u.flostra a = readByte s.flostra a) ∧
    (∀ a, (a < far ∨ far + 4096 ≤ a) → readByte u.hostMem a = readByte s.hostMem a) := by
  obtain ⟨ups, he⟩ := State.exchange_host hfar hup
  subst hnear hf
  rw [he] at hu
  have hflostra := congrArg State.flostra hu
  have hhost := congrArg State.hostMem hu
  dsimp only at hflostra hhost
  have hwf1 : Memory.wf s.flostra = true := (s.memWf_iff.mp hwf) .flostra
  have hwf2 : Memory.wf s.hostMem = true := (s.memWf_iff.mp hwf) .host
  rw [hflostra, hhost]
  refine ⟨fun k hk => ⟨?_, ?_⟩, fun a ha => ?_, fun a ha => ?_⟩
  · rw [readByte_writeBytes_readBytes hwf1, if_pos (by omega), Nat.add_sub_cancel_left]
  · rw [readByte_writeBytes_readBytes hwf2, if_pos (by omega), Nat.add_sub_cancel_left]
  · rw [readByte_writeBytes_readBytes hwf1, if_neg (by omega)]
  · rw [readByte_writeBytes_readBytes hwf2, if_neg (by omega)]

end

/-- A sector of an exchange whose far frame is in reach. -/
theorem execSwapSector_of {x : Swap} {die : Nat} (hs : (s.dieSt die).swap = some x) (hat : x.at_ < x.sectors) (hlost : s.farLost x = false)
    {v : State} (hv : v = if x.at_ + 1 < x.sectors then
      (s.exchange x).onDie die fun d => { d with swap := some { x with at_ := x.at_ + 1 } }
      else (s.exchange x).endSwap die { x with at_ := x.at_ + 1 })
    (hask : v.far.asked = []) : exec (.swapSector die) s = .next v := by
  rw [exec_swapSector, execSwapSector]
  refine event_of ?_
  simp only [hs]
  refine (if_neg fun h => ne_true_of_eq_false hlost h.2).trans (State.farDo_eq ?_ hask)
  simp only [hat, if_true]
  exact hv.symm

end

/-- Settles O51, engine by engine: what an operation that may run does is performed at once. -/
theorem engineEventResults : Obligations.EngineEventResults := by
  unfold Obligations.EngineEventResults
  refine ⟨fun s key id h st o t hready ht hc => ⟨fun a b m n k fin hmma => ⟨fun hrows hbusy hfar => ?_, ?_⟩, ?_, ?_, ?_⟩,
    fun s hc => ⟨?_, ?_⟩⟩
  · exact execBandComplete_of hready hc hmma hrows hbusy hfar
  · intro hrows hjoint hs sync hb st2 o2 hst2 ho2 u hfar
    exact execMxOperationComplete_mma hready ht hb hfar rfl hrows hjoint hs hst2 ho2 rfl
  · intro kind sync hb done ends
    refine ⟨fun hs hfar => execMxOperationComplete_arrives hready ht hb hfar hs rfl, fun hs hmma hbusy =>
      ⟨fun hfar => execMxOperationComplete_run hready ht hb hfar hc hs hmma hbusy rfl, ?_, ?_, ?_⟩⟩
    · intro hk
      exact State.runMx_free (hk ▸ hb)
    · intro hk
      subst hk
      exact State.runMx_zero hb
    · intro hk
      subst hk
      exact State.runMx_fin hb
  · intro g j ps p hj hdone a b m n k fin hmma all u fl arrives v hfar
    exact execJointOperationComplete_of hj hdone hmma rfl rfl rfl hfar
  · intro cluster entry e ms he hfull hready g u k hbad
    exact execJointOperationStart_of he hfull hready rfl rfl hbad
  · intro key id st o k hready hb run
    exact ⟨fun hm hfar => execCopyComplete_of hc hready hb hm rfl hfar,
      fun core hm hfar => execCpymReceiverArrival_of hc hready hb hm hfar, fun h => State.runCopy_done h⟩
  · intro die x base hs hat hlost hfar hask hup hwf u far near last
    obtain ⟨hbytes, hkeep, hkeep'⟩ := State.exchange_bytes hfar hup hwf (u := u) rfl (near := near) rfl (far := far) rfl
    have hu : u = s.exchange x := rfl
    have hasked : u.far.asked = [] := by
      obtain ⟨ups, he⟩ := State.exchange_host hfar hup
      rw [hu, he]
      exact hask
    refine ⟨fun hmore => ?_, fun hend hfin => ?_, hbytes, hkeep, hkeep'⟩
    · refine execSwapSector_of hs hat hlost ?_ ((congrArg (·.asked) (u.onDie_far die _)).trans hasked)
      rw [if_pos hmore]
    · refine execSwapSector_of hs hat hlost ?_ hfin
      rw [if_neg (by omega)]

end Sys2Proof.Machine
end

section
/-! PROOFS. Events of reductions (R123 to R125, R322 to R326, R460). -/

namespace Sys2Proof.Machine

open Sys2Proof

section
variable {s : State} {n : Node} {d : Dom} {k i : Nat} {p : Pkt}

/-! ## No error of a clasp -/

theorem State.claspCheck?_nil (hc : s.checks = []) (unit : Nat) : s.claspCheck? unit = none := by
  simp only [State.claspCheck?, hc, List.find?_nil]

theorem State.claspCheck_of (hc : s.checks = []) (sl : Nat) : s.claspCheck sl = s := by
  simp only [State.claspCheck, State.claspCheck?_nil hc]

theorem State.coreClaspCheck_of (hc : s.checks = []) (core : Nat) : s.coreClaspCheck core = s := by
  simp only [State.coreClaspCheck, State.claspCheck?_nil hc]

/-! ## Holds that expire -/

theorem execCoreClaspHoldExpiry_of (hc : s.checks = []) (hheld : (s.core k).clasp[i]? = some n) (hage : n.since + 256 ≤ s.clock.toNat) :
    exec (.coreClaspHoldExpiry k i) s = .next ((s.onCore k fun c => { c with clasp := c.clasp.erase n }).forward k n) := by
  rw [exec_coreClaspHoldExpiry, execCoreClaspHoldExpiry]
  refine event_of ?_
  simp only [hheld]
  refine (if_neg (Nat.not_lt.mpr hage)).trans ?_
  rw [State.coreClaspCheck_of hc]

/-- A held node of a generation that the device knows goes to its element's home slice. -/
theorem State.forward_of {u : State} (hd : u.doms.find? (fun y => n.of y) = some d) :
    u.forward k n = { u with toSlice := u.toSlice ++ [(u.elemSlice d n.elem, { n with core := some k })] } := by
  simp only [State.forward, hd]
  rfl

section
variable (hc : s.checks = []) (hheld : (s.slice k).clasp[i]? = some n) (hd : s.doms.find? (fun y => n.of y) = some d)
include hc hheld hd

theorem execSliceHoldExpiry_of (hage : n.since + 1536 ≤ s.clock.toNat) {home : Member} (hrole : s.role d n.elem = .other home) :
    exec (.sliceHoldExpiry k i) s = .next ((s.unhold k n).sendNode d n home) := by
  rw [exec_sliceHoldExpiry, execSliceHoldExpiry]
  refine event_of ?_
  simp only [hheld]
  refine (if_neg (Nat.not_lt.mpr hage)).trans ?_
  simp only [State.claspCheck_of hc, hd, hrole]

theorem execPodHomeHoldExpiry_of (hage : n.since + s.us 4 ≤ s.clock.toNat) {sys : Member} (hrole : s.role d n.elem = .podHome sys) :
    exec (.podHomeHoldExpiry k i) s = .next ((s.unhold k n).sendUet d sys
      (.node n.handle (.ofNat 32 n.elem) n.label (n.val.getD 0) n.val.isNone n.flags)) := by
  rw [exec_podHomeHoldExpiry, execPodHomeHoldExpiry]
  refine event_of ?_
  simp only [hheld]
  refine (if_neg (Nat.not_lt.mpr hage)).trans ?_
  simp only [State.claspCheck_of hc, hd, hrole]

end

theorem execPortClaspHoldExpiry_of {dev : Nat} (hheld : (s.portHeld k dev)[i]? = some n) (hage : n.since + s.us 2 ≤ s.clock.toNat) :
    exec (.portClaspHoldExpiry k dev i) s = .next ((s.onPortClasp k dev fun l => l.eraseIdx i).passNode k dev n) := by
  rw [exec_portClaspHoldExpiry, execPortClaspHoldExpiry]
  refine event_of ?_
  simp only [hheld]
  exact if_neg (Nat.not_lt.mpr hage)

/-! ## Arrivals at slices and ports -/

theorem execNodeArrivalSlice_of (hc : s.checks = []) (hi : s.toSlice[i]? = some (k, n)) :
    exec (.nodeArrivalSlice i) s = .next (s.arriveSlice i) := by
  rw [exec_nodeArrivalSlice, execNodeArrivalSlice]
  refine event_of ?_
  simp only [hi, State.claspCheck_of hc]

theorem execSpillRefill_of (hi : s.doms[i]? = some d) : exec (.spillRefill k i) s = .next (s.refill k d) := by
  rw [exec_spillRefill, execSpillRefill]
  refine event_of ?_
  simp only [hi]

section
variable (hopc : p.opc = 6) (hport : p.port = false) (hlive : s.planeLive p.dst p.plane = true) {f : Nat}
  (hf : f = 4096 + p.dst * 512 + p.src)
include hopc hport hlive hf

/-- A port judges a device's node packet by its number. -/
theorem execPortClaspArrival_judges : exec (.portClaspArrival p.dst p) s = .next (
    if seqBefore p.seq (s.flow f p.plane).inNext then s.portAck p.dst p 2 ((s.flow f p.plane).inNext - 1)
    else if p.seq = (s.flow f p.plane).inNext then s.takeInTurn f p fun s q => (s.portTake p.dst q, true)
    else s.keepAhead f p) := by
  subst hf
  rw [exec_portClaspArrival, execPortClaspArrival]
  refine event_of (if_neg ?_)
  rw [hopc, hport, hlive]
  simp

theorem execPortClaspArrival_turn (hseq : p.seq = (s.flow f p.plane).inNext) : exec (.portClaspArrival p.dst p) s =
    .next (State.drainFlow f p.plane (fun y q => (y.portTake p.dst q, true)) 1024 ((s.portTake p.dst p).onFlow f p.plane Flow.pass)) := by
  rw [execPortClaspArrival_judges hopc hport hlive hf, ← hseq, seqBefore_self, if_neg Bool.false_ne_true, if_pos rfl]
  rfl

theorem execPortClaspArrival_again (hseq : seqBefore p.seq (s.flow f p.plane).inNext = true) :
    exec (.portClaspArrival p.dst p) s = .next (s.portAck p.dst p 2 ((s.flow f p.plane).inNext - 1)) := by
  rw [execPortClaspArrival_judges hopc hport hlive hf, if_pos hseq]

end

/-- What a port does with a packet whose turn has come. -/
theorem State.portTake_eq (dev : Nat) {u : State} (hu : u = s.portAck dev p 0 p.seq) : s.portTake dev p =
    match u.partOfFab p.fabid with
    | none => u.portSend p.plane dev dev 6 p.tincarn p.fabid p.addr p.flags p.payload
    | some part => u.portGo p.plane dev 64 { pktNode p part u.clock.toNat with inc := some p.tincarn } := by
  rw [hu]
  rfl

/-! ## Node and root packets -/

theorem pktAct_node (hopc : p.opc = 6) (u : State) (part : Nat) : pktAct p u part = nodeAct p u part := by
  simp only [pktAct, hopc]

theorem pktAct_root (hopc : p.opc = 7) (u : State) (part : Nat) : pktAct p u part = rootAct p u part := by
  simp only [pktAct, hopc]

section
variable {part : Nat} (hturn : s.inTurn p part) {u : State} (hu : u = s.taken p)
include hturn hu

/-- A node packet in its turn is performed as its judgement says. -/
theorem execNodePacket_of (hopc : p.opc = 6) {t : State} (ht : nodeAct p u part = (t, true)) :
    exec (.nodePacket p) s = .next (t.passed p) :=
  event_of (State.arrivesAs_of s t p part 6 hopc hturn (by rw [pktAct_node hopc, ← hu, ht]))

/-- Likewise a root packet. -/
theorem execRootPacket_of (hopc : p.opc = 7) {t : State} (ht : rootAct p u part = (t, true)) :
    exec (.rootPacket p) s = .next (t.passed p) :=
  event_of (State.arrivesAs_of s t p part 7 hopc hturn (by rw [pktAct_root hopc, ← hu, ht]))

end

/-- A root packet at a participant, as its judgement says (R324, R325). -/
theorem rootAct_eq (u : State) (part : Nat) : rootAct p u part =
    match u.judge part (redHandle p) with
    | .accepted d =>
      if d.elems ≤ p.addr.toNat / 2 ^ 32 ∨ d.written.contains (p.addr.toNat / 2 ^ 32) = true then (u.sendAck p 0, true)
      else if (mapGet none d.stuck (u.elemSlice d (p.addr.toNat / 2 ^ 32))).isSome then (u, false)
      else
        match u.finalFault d (p.addr.toNat / 2 ^ 32) (pktRoot p) with
        | some (a, sub) => (u.stick d (u.elemSlice d (p.addr.toNat / 2 ^ 32)) a sub, false)
        | none => ((u.takeRoot d (p.addr.toNat / 2 ^ 32) (pktRoot p) p.flags).sendAck p 0, true)
    | .early => (u.notReadyTo p 0, true)
    | .over => (u.refuseStale p part, true) := rfl

/-- A root of an element not yet written, whose final write translates, is taken. -/
theorem rootAct_accepted {u : State} {part el : Nat} {e : Dom} (hel : el = p.addr.toNat / 2 ^ 32)
    (hj : u.judge part (redHandle p) = .accepted e) (hlt : el < e.elems) (hnew : e.written.contains el = false)
    (hfree : (mapGet none e.stuck (u.elemSlice e el)).isSome = false) (hfault : u.finalFault e el (pktRoot p) = none) :
    rootAct p u part = ((u.takeRoot e el (pktRoot p) p.flags).sendAck p 0, true) := by
  subst hel
  rw [rootAct_eq, hj]
  refine (if_neg ?_).trans ((if_neg (ne_true_of_eq_false hfree)).trans ?_)
  · exact not_or.mpr ⟨Nat.not_le.mpr hlt, ne_true_of_eq_false hnew⟩
  · rw [hfault]

end

/-- Settles O52. -/
theorem reductionEventResults : Obligations.ReductionEventResults := by
  unfold Obligations.ReductionEventResults
  intro s n d k i p hc known held
  refine ⟨fun hheld hage => ?_, fun hi => execNodeArrivalSlice_of hc hi, fun hi => execSpillRefill_of hi,
    fun hheld hage hd home hrole => execSliceHoldExpiry_of hc hheld hd hage hrole,
    fun hheld hage hd sys hrole => execPodHomeHoldExpiry_of hc hheld hd hage hrole,
    fun dev hheld hage => execPortClaspHoldExpiry_of hheld hage, fun hopc hport hlive => ?_, fun part hturn => ?_⟩
  · intro u
    exact ⟨execCoreClaspHoldExpiry_of hc hheld hage, fun hd => State.forward_of hd⟩
  · intro f u moved
    refine ⟨fun hseq => ⟨fun part hpart => ?_, fun hpart => ?_⟩, fun hseq => execPortClaspArrival_again hopc hport hlive rfl hseq⟩
    · rw [execPortClaspArrival_turn hopc hport hlive rfl hseq, State.portTake_eq p.dst (u := u) rfl, hpart]
    · rw [execPortClaspArrival_turn hopc hport hlive rfl hseq, State.portTake_eq p.dst (u := u) rfl, hpart]
  · intro u
    refine ⟨fun hopc => ?_, fun hopc hj => ?_, fun hopc hj => ?_, fun hopc e hj => ?_⟩
    · intro m
      refine ⟨fun e hj => ?_, fun hj => ?_, fun hj => ?_⟩
      · exact execNodePacket_of hturn (u := u) rfl hopc (by rw [nodeAct]; simp only [hj, m])
      · exact execNodePacket_of hturn (u := u) rfl hopc (by rw [nodeAct]; simp only [hj, m])
      · exact execNodePacket_of hturn (u := u) rfl hopc (by rw [nodeAct]; simp only [hj, m])
    · exact execRootPacket_of hturn (u := u) rfl hopc (by rw [rootAct_eq, hj])
    · exact execRootPacket_of hturn (u := u) rfl hopc (by rw [rootAct_eq, hj])
    · intro el hlt hnew hfree hfault
      exact execRootPacket_of hturn (u := u) rfl hopc (rootAct_accepted rfl hj hlt hnew hfree hfault)

end Sys2Proof.Machine
end

section
/-! PROOFS. Events of queues, packets, pipelines and periods (R52, R276, R278, R285 to R287, R292). -/

namespace Sys2Proof.Machine

open Sys2Proof

section
variable {s : State} {part q i : Nat} {w : Word} {p : QPkt}

/-! ## Notify writes -/

/-- A write of WIDX to a queue that the partition does not own is recorded. -/
theorem execNotifyWrite_foreign (hown : (s.part part).ownsQueue q = false) : exec (.notifyWrite part q w) s =
    .next (s.postRec part (schedRec 0x02 2 q 0 w.toNat 0)) := by
  rw [exec_notifyWrite, execNotifyWrite]
  refine event_of (if_pos ?_)
  rw [hown]
  rfl

/-- A new WIDX that names room in the ring is taken. -/
theorem execNotifyWrite_of (hown : (s.part part).ownsQueue q = true) {u : State} (hu : u = s.seen part (s.qAddr part q) 64)
    (hok : u.queueOk part q = true) (hnew : w ≠ .ofNat 32 (u.qf part q 28 4))
    (hroom : (w - .ofNat 32 (u.qf part q 24 4)).toNat ≤ 2 ^ u.qf part q 8 1) :
    exec (.notifyWrite part q w) s = .next (u.setQf part q 28 4 w.toNat) := by
  rw [exec_notifyWrite, execNotifyWrite]
  refine event_of ?_
  unfold State.notify
  dsimp only
  rw [← hu, hown, hok]
  exact (if_neg Bool.false_ne_true).trans ((if_neg Bool.false_ne_true).trans ((if_neg hnew).trans (if_pos hroom)))

/-! ## Acceptance -/

/-- What a ring slot holds, as the device copies it. -/
def State.ringPkt (s : State) (part q : Nat) : QPkt :=
  { queue := q, part := part, idx := s.qf part q 24 4, words := s.pktWords part q (s.qf part q 24 4), kernels := [], args := []
    st := .waiting, failed := none }

section
variable {t u : State} {x : QPkt} {r : Nat} (hq : s.partOfQueue q = some part) (hlive : (s.part part).live = true)
  (ht : t = s.seen part (s.qAddr part q) 64) (hr : r = t.qf part q 24 4)
  (hready : (t.part part).live = true ∧ t.queueOk part q = true ∧ t.qf part q 28 4 ≠ r ∧
    (t.pkts.filter fun x => x.part == part && x.queue == q).length < 64 ∧ t.vok part .read (t.pktAddr part q r) = true)
  (hx : x = { queue := q, part := part, idx := r, words := t.pktWords part q r, kernels := [], args := []
              st := .waiting, failed := none })
  (hu : u = t.setQf part q 24 4 ((r + 1) % 2 ^ 32))
include hq hlive ht hr hready hx hu

/-- A packet that fails a check is refused with a record. -/
theorem execPacketAccept_fault {d v : Nat} (hfault : t.pktFault x (t.fitsEmpty part) = some (d, v)) : exec (.packetAccept q) s =
    .next (u.postRec part (schedRec (if d = 11 ∧ x.type = 1 ∧
      ((t.readKernel part (x.field 8 8)).elim false fun k => k.coop) = true then 0x03 else 0x01) d q r v (.ofNat 64 (t.pktAddr part q r)))) := by
  obtain ⟨hl, hok, hnew, hroom, hvok⟩ := hready
  rw [exec_packetAccept, execPacketAccept]
  refine event_of ?_
  simp only [hq]
  rw [if_pos hlive, ← ht, ← hr, ← hx, ← hu, if_neg (by simp [hl, hok, hnew, hroom, hvok])]
  simp only [hfault]

/-- A packet that passes every check is copied with its kernels and arguments. -/
theorem execPacketAccept_ok (hfault : t.pktFault x (t.fitsEmpty part) = none) {y : QPkt} (hy : y = { x with
      kernels := (t.pktKernels x).filterMap fun k => t.readKernel part k
      args := if x.field 24 8 = 0 then [] else t.vreadBytes part (x.field 24 8) (t.pktArgs x) }) {v : State}
    (hv : v = (u.seenPkt y).setQf part q 44 4 (u.qf part q 44 4 + 1)) : exec (.packetAccept q) s =
    .next { (if x.type = 1 ∨ x.type = 2 then v.dropCode part else v) with pkts := v.pkts ++ [y] } := by
  obtain ⟨hl, hok, hnew, hroom, hvok⟩ := hready
  have htype : y.type = x.type := by rw [hy]; rfl
  have hy' : y = { queue := q, part := part, idx := r, words := t.pktWords part q r
                   kernels := (t.pktKernels x).filterMap fun k => t.readKernel part k
                   args := if x.field 24 8 = 0 then [] else t.vreadBytes part (x.field 24 8) (t.pktArgs x)
                   st := .waiting, failed := none } := by
    subst hx
    exact hy
  rw [exec_packetAccept, execPacketAccept]
  refine event_of ?_
  simp only [hq]
  rw [if_pos hlive, ← ht, ← hr, ← hx, ← hu, if_neg (by simp [hl, hok, hnew, hroom, hvok])]
  simp only [hfault]
  rw [← hy', ← hv, htype]

end

/-! ## Packets that may start -/

theorem execDependencePoll_of (hfind : (s.pkts.find? fun y => y.queue == q && y.idx == i) = some p) {u : State}
    (hu : u = if p.field 40 8 = 0 then s else s.seen p.part (p.field 40 8) 8) :
    exec (.dependencePoll q i) s = .next (match u.startable q i with | some y => u.startPkt y | none => u) := by
  rw [exec_dependencePoll, execDependencePoll]
  refine event_of ?_
  simp only [hfind, ← hu] <;> rfl

/-- The event of a type starts a packet of that type that may start. -/
theorem State.startType_of (hs : s.startable q i = some p) {n : Nat} (ht : p.type = n) : s.startType q i n = s.startPkt p := by
  rw [State.startType, hs]
  exact if_pos ht

/-! ## Quiescence and periods -/

/-- A pipeline with empty lists whose resident strands wait at TAKE is quiet. -/
theorem execQuiescence_of {x : Source} {k : Nat} {y : Pipe} (hx : s.source? i = some x) (hk : x.pipe = some k)
    (hy : mapFind s.pipes k = some y) (hquiet : y.quiet = false) (hlists : ∀ l ∈ y.lists, s.listCount y.part l.toNat = 0)
    (htake : ∀ e ∈ s.strands, (∃ g ∈ s.wgs, g.1 = e.2.wg ∧ y.sources.contains g.2.source ∧ g.2.resident) → e.2.atTake = true) :
    exec (.quiescence i) s = .next ((({ s with pipes := mapIns k { y with quiet := true } s.pipes } : State).wakeTakes y.part
      fun l _ => y.lists.any fun z => z.toNat == l).checkWork y.part y.queue y.pkt) := by
  have hempty : (y.lists.all fun l => s.listCount y.part l.toNat == 0) = true :=
    List.all_eq_true.mpr fun l hl => beq_iff_eq.mpr (hlists l hl)
  have hwaits : (s.strands.any fun e => ((s.wgs.filter fun e => y.sources.contains e.2.source && e.2.resident).map (·.1)).contains
      e.2.wg && !e.2.atTake) = false := by
    rw [List.any_eq_false]
    intro e he hbusy
    obtain ⟨hmem, hgoes⟩ := Bool.and_eq_true_iff.mp hbusy
    obtain ⟨g, hg, hwg⟩ := List.mem_map.mp (List.contains_iff_mem.mp hmem)
    obtain ⟨hg, hres⟩ := List.mem_filter.mp hg
    obtain ⟨hsrc, hres⟩ := Bool.and_eq_true_iff.mp hres
    rw [htake e he ⟨g, hg, hwg, hsrc, hres⟩] at hgoes
    exact Bool.false_ne_true hgoes
  rw [exec_quiescence, execQuiescence]
  refine event_of ?_
  simp only [hx, Option.bind_some, hk, hy, Option.map_some]
  rw [hwaits, hempty, hquiet]
  rfl

/-- An accounting period that has ended rolls the balances over. -/
theorem execPeriodRollover_of {m last : Nat} (hm : m = s.rcb part 0 48 8) (hl : last = (s.part part).period)
    (hlive : (s.part part).live = true) (hne : m ≠ 0) (hover : last / m < s.clock.toNat / m) : exec (.periodRollover part) s = .next
      (((s.onPart part fun x => { x with period := (last / m + 1) * m }).rollFrom part (2 ^ 24) 0).refresh part) := by
  subst hm hl
  rw [exec_periodRollover, execPeriodRollover]
  refine event_of (if_neg ?_)
  rw [hlive]
  exact not_or.mpr ⟨nofun, not_or.mpr ⟨hne, Nat.not_le.mpr hover⟩⟩

end

/-- Settles O53. -/
theorem queueEventResults : Obligations.QueueEventResults := by
  unfold Obligations.QueueEventResults
  intro s part q i w p
  refine ⟨fun hown => ?_, execNotifyWrite_foreign, fun hq hlive => ?_, fun hfind => ?_, fun hs => ?_, ?_, ?_⟩
  · intro u c hok hnew hroom
    exact execNotifyWrite_of hown rfl hok hnew hroom
  · intro goes t r hl hok hnew hroom hvok x u
    have hready := And.intro hl (And.intro hok (And.intro hnew (And.intro hroom hvok)))
    refine ⟨fun d v hfault => ?_, fun hfault => ?_⟩
    · intro coop
      have h := execPacketAccept_fault hq hlive (t := t) rfl (r := r) rfl hready (x := x) rfl (u := u) rfl hfault
      refine ⟨fun hno => ?_, fun hd hcoop => ?_⟩
      · rwa [if_neg hno] at h
      · rwa [if_pos ⟨hd, hcoop⟩] at h
    · exact execPacketAccept_ok hq hlive (t := t) rfl (r := r) rfl hready (x := x) rfl (u := u) rfl hfault rfl rfl
  · intro u
    refine ⟨fun y hy => ?_, fun hn => ?_⟩
    · rw [execDependencePoll_of hfind (u := u) rfl, hy]
    · rw [execDependencePoll_of hfind (u := u) rfl, hn]
  · have hstart {n : Nat} (ht : p.type = n) : s.startType q i n = s.startPkt p := State.startType_of hs ht
    refine ⟨fun ht => ?_, fun ht => ?_, fun ht => ?_, fun ht => ?_, fun ht => ?_⟩
    · exact (exec_launchPacket s).trans (event_of ((hstart ht).trans (by simp only [State.startPkt, ht])))
    · exact (exec_pipelinePacket s).trans (event_of ((hstart ht).trans (by simp only [State.startPkt, ht])))
    · exact (exec_barrierAndPacket s).trans (event_of ((hstart ht).trans (by simp only [State.startPkt, ht])))
    · exact (exec_signalPacket s).trans (event_of ((hstart ht).trans (by simp only [State.startPkt, ht])))
    · exact (exec_domainArmPacket s).trans (event_of ((hstart ht).trans (by simp only [State.startPkt, ht])))
  · intro x k y hx hk hy hquiet hlists htake
    exact execQuiescence_of hx hk hy hquiet hlists htake
  · intro m last hlive hne hover
    exact execPeriodRollover_of rfl rfl hlive hne hover

end Sys2Proof.Machine
end

section
/-! PROOFS. Events of the policy engines and of policy images (R294, R305 to R309). -/

namespace Sys2Proof.Machine

open Sys2Proof

section
variable {s : State} {die part : Nat} {d : Decision}

/-! ## Decisions -/

section
variable (hidle : (s.dieSt die).dec = none)
include hidle

/-- FAULT comes before the other kinds. -/
theorem State.decideEvent_fault {f : FaultEv} {t : List FaultEv} (hf : (s.dieSt die).faults = f :: t) (p : Option Nat) :
    s.decideEvent die .fault p =
      (s.onDie die fun y => { y with faults := t }).beginDecision die f.part .fault (some f.core) (s.sourceOf f.wg) (some f) := by
  simp only [State.decideEvent, hidle, hf]

/-- PREEMPT comes before DISPATCH. -/
theorem State.decideEvent_preempt {src : Nat} {t : List (Nat × Nat)} (hf : (s.dieSt die).faults = [])
    (hp : (s.dieSt die).preempt = (part, src) :: t) : s.decideEvent die .preempt (some part) =
      (s.onDie die fun y => { y with preempt := t }).beginDecision die part .preempt none (some src) none := by
  simp only [State.decideEvent, hidle, hf, hp]
  exact if_pos (beq_self_eq_true part)

theorem State.decideEvent_dispatch {core src : Option Nat} {t : List (Nat × Option Nat × Option Nat)} (hf : (s.dieSt die).faults = [])
    (hp : (s.dieSt die).preempt = []) (hd : (s.dieSt die).dispatch = (part, core, src) :: t) : s.decideEvent die .dispatch (some part) =
      (s.onDie die fun y => { y with dispatch := t }).beginDecision die part .dispatch core src none := by
  simp only [State.decideEvent, hidle, hf, hp, hd]
  exact if_pos (beq_self_eq_true part)

end

/-- A decision that its program has ended is applied. -/
theorem State.decideEvent_ended {ch : Int × Int} (hd : (s.dieSt die).dec = some d) (hch : d.chosen = some ch) {kind : EvKind}
    (hk : d.kind = kind) {p : Option Nat} (hp : p = none ∨ p = some d.part) : s.decideEvent die kind p = s.endDecision die d (some ch) := by
  simp only [State.decideEvent, hd, hch]
  refine if_pos ⟨hk, ?_, rfl⟩
  obtain rfl | rfl := hp
  · rfl
  · exact beq_self_eq_true d.part

section
variable {chosen : Option (Int × Int)}

theorem State.endDecision_dispatch (hk : d.kind = .dispatch) : s.endDecision die d chosen =
    (s.onDie die fun y => { y with dec := none }).applyDispatch die d.part (some d) d.core chosen := by
  simp only [State.endDecision, hk]

theorem State.endDecision_preempt (hk : d.kind = .preempt) : s.endDecision die d chosen =
    (s.onDie die fun y => { y with dec := none }).applyPreempt die d.part (some d) chosen := by
  simp only [State.endDecision, hk]

theorem State.endDecision_fault (hk : d.kind = .fault) {f : FaultEv} (hf : d.flt = some f) : s.endDecision die d chosen =
    (s.onDie die fun y => { y with dec := none }).applyFault die f (some d) chosen := by
  simp only [State.endDecision, hk, hf]

end

section
variable (hdie : die < 2) {t : State}
include hdie

theorem execDispatchDecision_of (h : s.decideEvent die .dispatch (some part) = t) : exec (.dispatchDecision die part) s = .next t := by
  rw [exec_dispatchDecision, execDispatchDecision, Nat.mod_eq_of_lt hdie]
  exact event_of h

theorem execPreemptDecision_of (h : s.decideEvent die .preempt (some part) = t) : exec (.preemptDecision die part) s = .next t := by
  rw [exec_preemptDecision, execPreemptDecision, Nat.mod_eq_of_lt hdie]
  exact event_of h

theorem execFaultDecision_of (h : s.decideEvent die .fault none = t) : exec (.faultDecision die) s = .next t := by
  rw [exec_faultDecision, execFaultDecision, Nat.mod_eq_of_lt hdie]
  exact event_of h

/-- A decision whose next instruction would pass the budget is counted, and the fallback decides. -/
theorem execPolicyOverrun_of (hd : (s.dieSt die).dec = some d) (hch : d.chosen = none)
    (hcost : d.prog.budget < d.cycles + hgCost (d.word % 256)) : exec (.policyOverrun die) s = .next
      ((s.onPart d.part fun p => { p with overruns := if p.overruns = BitVec.allOnes 32 then p.overruns else p.overruns + 1
        }).endDecision die d none) := by
  rw [exec_policyOverrun, execPolicyOverrun, Nat.mod_eq_of_lt hdie]
  refine event_of ?_
  simp only [hd]
  refine if_neg ?_
  rw [Decision.affords, decide_eq_false (Nat.not_le.mpr hcost), hch]
  exact Bool.false_ne_true

end

/-! ## Images -/

theorem execPolicyLoad_of (h : ¬((s.part part).shadow = 1 ∧ (s.part part).verify.isSome = true)) {a : Nat}
    (ha : a = (if (s.part part).shadow = 1 then (s.part part).loadAt else (s.part part).polimg).toNat) {l : List Nat}
    (hl : l = (s.readImage part a).getD []) : exec (.policyLoad part) s =
      .next ((s.seen part a (4 * l.length)).onPart part fun p => { p with shadow := 1, verify := some l }) := by
  subst ha hl
  rw [exec_policyLoad, execPolicyLoad]
  exact event_of (if_neg h)

section
variable {w : List Nat} (hw : (s.part part).verify = some w)
include hw

/-- An image that breaks a rule is rejected with its number. -/
theorem execImageVerdict_rejects {r : Nat} (hr : imgReason w = some r) : exec (.imageVerdict part) s = .next ((s.onPart part fun p =>
    { p with shadow := 3, reason := r, verify := none
             rejects := if p.rejects = BitVec.allOnes 16 then p.rejects else p.rejects + 1 }).interrupt part 3) := by
  rw [exec_imageVerdict, execImageVerdict]
  refine event_of ?_
  simp only [hw, hr]

/-- An image that breaks none is staged on both dies. -/
theorem execImageVerdict_accepts (hr : imgReason w = none) {v : Half} (hv : v = nextVersion (s.part part).version) {u : State}
    (hu : u = s.onPart part fun p =>
      { p with shadow := 2, wcet := hgWorst (imgCode w) (imgEntries w), version := v, verify := none
               polWest := { p.polWest with staged := some (imgPolicy w v) }
               polEast := { p.polEast with staged := some (imgPolicy w v) } }) :
    exec (.imageVerdict part) s = .next (((u.swapPolicy part 0).swapPolicy part 1).interrupt part 3) := by
  rw [exec_imageVerdict, execImageVerdict]
  refine event_of ?_
  simp only [hw, hr, ← hv, ← hu]

end

end

/-- Settles O54. -/
theorem policyEventResults : Obligations.PolicyEventResults := by
  unfold Obligations.PolicyEventResults
  intro s die part hdie x
  refine ⟨fun hidle => ⟨fun f t hf => execFaultDecision_of hdie (State.decideEvent_fault hidle hf none),
      fun src t hf hp => execPreemptDecision_of hdie (State.decideEvent_preempt hidle hf hp),
      fun core src t hf hp hd => execDispatchDecision_of hdie (State.decideEvent_dispatch hidle hf hp hd)⟩,
    fun d ch hd hch => ⟨fun hk => ?_, fun hk => ?_, fun f hk hf => ?_⟩, fun d hd hch hcost => execPolicyOverrun_of hdie hd hch hcost,
    fun h => execPolicyLoad_of h rfl rfl, rfl, fun w hw => ⟨fun r hr => execImageVerdict_rejects hw hr, fun hr => ?_⟩⟩
  · exact execDispatchDecision_of hdie ((State.decideEvent_ended hd hch hk (.inr rfl)).trans (State.endDecision_dispatch hk))
  · exact execPreemptDecision_of hdie ((State.decideEvent_ended hd hch hk (.inr rfl)).trans (State.endDecision_preempt hk))
  · exact execFaultDecision_of hdie ((State.decideEvent_ended hd hch hk (.inl rfl)).trans (State.endDecision_fault hk hf))
  · intro v u
    exact execImageVerdict_accepts hw hr rfl rfl

end Sys2Proof.Machine
end

section
/-! PROOFS. Answers, flow recovery, peers and links of the Chaelo fabric (R312, R314, R316, R325, R454 to R466). -/

namespace Sys2Proof.Machine

open Sys2Proof

/-- An event on a frame of the device's EtherType. -/
theorem framed_event_of {s t : State} {p : Pkt} {f : State → State} (he : p.etype = s.boot.etype) (h : f s = t) :
    event s (fun s => s.framed p f) = .next t := event_of ((s.framed_of p f he).trans h)

section
variable {s : State} {p : Pkt}

/-! ## Answers -/

/-- An answer to this device is none to a switch port. -/
theorem portAnswer_of_answerHere {opc kind : Nat} (h : s.answerHere p opc kind = true) (opc' kind' : Nat) : portAnswer p opc' kind' = false := by
  simp only [State.answerHere, Bool.and_eq_true, beq_iff_eq] at h
  obtain ⟨-, h⟩ := h
  rw [portAnswer, h]
  exact Bool.and_false _

/-- An answer of one kind is of no other. -/
theorem answerHere_other {opc kind kind' : Nat} (h : s.answerHere p opc kind = true) (hne : kind ≠ kind') (u : State) :
    u.answerHere p opc kind' = false := by
  simp only [State.answerHere, Bool.and_eq_true, beq_iff_eq] at h
  obtain ⟨⟨-, h⟩, -⟩ := h
  have : ((p.payload.getD 0 0).toNat == kind') = false := by
    rw [h]
    exact beq_eq_false_iff_ne.mpr hne
  rw [State.answerHere, this, Bool.and_false, Bool.false_and]

section
variable (he : p.etype = s.boot.etype)
include he

/-- An acknowledgment of this device's packets takes what it covers, and is counted where it is a duplicate's. -/
theorem execAck_here {flow : Nat} (hf : flow = if p.port then 512 + p.src else p.src) {u : State} (hu : u = s.takeAck flow p.plane p.ack)
    (h : s.answerHere p 0 0 = true ∨ s.answerHere p 0 2 = true) (dup : Bool) :
    exec (.ack p dup) s = .next (if dup || u.answerHere p 0 2 then u.spurious p flow else u) := by
  have hport (kind : Nat) : portAnswer p 0 kind = false := h.elim (portAnswer_of_answerHere · 0 kind) (portAnswer_of_answerHere · 0 kind)
  have hhere : (s.answerHere p 0 0 || s.answerHere p 0 2) = true := by
    obtain h | h := h <;> rw [h]
    · rfl
    · exact Bool.or_true _
  rw [exec_ack, execAck]
  refine framed_event_of he ?_
  simp only [hport, Bool.or_self, Bool.false_eq_true, if_false, hhere, if_true, ← hf, ← hu]

theorem execAck_port (h : portAnswer p 0 0 = true ∨ portAnswer p 0 2 = true) (dup : Bool) :
    exec (.ack p dup) s = .next (s.takeAck (portFlow p.dst p.src) p.plane p.ack) := by
  rw [exec_ack, execAck]
  refine framed_event_of he (if_pos ?_)
  obtain h | h := h <;> rw [h]
  · rfl
  · exact Bool.or_true _

theorem execStaleAnswer_port (h : portAnswer p 0 1 = true) :
    exec (.staleAnswer p) s = .next (s.dropUnacked (portFlow p.dst p.src) (answerPlane p) (answerSeq p)) := by
  rw [exec_staleAnswer, execStaleAnswer]
  exact framed_event_of he (if_pos h)

/-- A stale answer takes its packet off the flow; what waited for it fails. -/
theorem execStaleAnswer_here {f : Nat} {q : Pkt} (h : s.answerHere p 0 1 = true)
    (hsent : s.sentPkt p.src (answerPlane p) (answerSeq p) = some (f, q)) {v : State}
    (hv : v = s.dropUnacked f (answerPlane p) (answerSeq p)) {addr : DWord} (ha : addr = peerVal p.src p.sincarn) :
    exec (.staleAnswer p) s = .next (match s.waiting p.src (answerPlane p) (answerSeq p) with
      | some (key, o, r, _) => v.failRemote key o r 0x05 addr
      | none =>
        match v.farWaiting p.src (answerPlane p) (answerSeq p) with
        | some w => v.failFar w 0x05 addr
        | none => if q.opc = 6 ∨ q.opc = 7 then v.failNode q 0x05 addr else v) := by
  rw [exec_staleAnswer, execStaleAnswer]
  refine framed_event_of he ?_
  simp only [portAnswer_of_answerHere h, h, hsent, Bool.false_eq_true, Bool.not_true, if_false, ← hv, ← ha] <;> rfl

theorem execRefusedAnswer_of (h : s.answerHere p 0 3 = true) (faults : List PeerFault) :
    exec (.refusedAnswer p faults) s = .next (s.takeRefusal p faults) := by
  rw [exec_refusedAnswer, execRefusedAnswer]
  exact framed_event_of he (if_pos h)

/-- A not-ready answer: the packet waits with its sender, or is dropped where it is refused as stale. -/
theorem execNotReady_of {toPort : Bool} (htp : toPort = (portAnswer p 10 0 || portAnswer p 10 1))
    (h : toPort = true ∨ s.answerHere p 10 0 = true ∨ s.answerHere p 10 1 = true) {f : Nat} {q : Pkt}
    (hsent : s.sentPkt (if toPort then portFlow p.dst p.src else p.src) (answerPlane p) (answerSeq p) = some (f, q)) {v : State}
    (hv : v = s.dropUnacked f (answerPlane p) (answerSeq p)) {mine : NotReady → Bool}
    (hm : mine = fun e => e.sent == some (answerSeq p) && e.pkt.samePath q) : exec (.notReady p) s = .next (
      if (p.payload.getD 0 0).toNat = 1 then
        let x := v.onFab fun f => { f with notReady := f.notReady.filter fun e => !mine e }
        if toPort then x else x.dropStalePkt q
      else if v.fabric.notReady.any mine then v.onFab fun f =>
        { f with notReady := f.notReady.map fun e => if mine e then { e with sent := none, last := v.clock.toNat } else e }
      else v.onFab fun f =>
        { f with notReady := f.notReady ++ [{ pkt := q, since := v.clock.toNat, last := v.clock.toNat, sent := none }] }) := by
  have hcond : (!(toPort || s.answerHere p 10 0 || s.answerHere p 10 1)) = false := by
    obtain h | h | h := h <;> rw [h] <;> simp
  subst hm
  rw [exec_notReady, execNotReady]
  refine framed_event_of he ?_
  simp only [← htp, hcond, Bool.false_eq_true, if_false, hsent, ← hv]

end

end

/-! ## Packets that wait and flows that recover -/

section
variable {s : State} {i dev plane : Nat} {w : Word}

section
variable {e : NotReady} (hi : s.fabric.notReady[i]? = some e) (hsent : e.sent = none)
include hi hsent

theorem execNotReadyResend_of (hage : e.last + s.us 1 ≤ s.clock.toNat) : exec (.notReadyResend i) s = .next
    (let flow := if e.pkt.port then portFlow e.pkt.src e.pkt.dst else e.pkt.dst
     (if e.pkt.port then s.portEmit e.pkt else s.send e.pkt).onFab fun x =>
      { x with notReady := x.notReady.set i { e with sent := some (s.flow flow e.pkt.plane).next } }) := by
  rw [exec_notReadyResend, execNotReadyResend]
  refine event_of ?_
  simp only [hi, hsent]
  exact if_neg (not_or.mpr ⟨nofun, Nat.not_lt.mpr hage⟩)

theorem execNotReadyTimeout_of (hage : e.since + s.us 1000 ≤ s.clock.toNat) : exec (.notReadyTimeout i) s =
    .next ((s.onFab fun x => { x with notReady := x.notReady.eraseIdx i }).dropStalePkt e.pkt) := by
  rw [exec_notReadyTimeout, execNotReadyTimeout]
  refine event_of ?_
  simp only [hi, hsent]
  exact if_neg (not_or.mpr ⟨nofun, Nat.not_lt.mpr hage⟩)

end

section
variable {u : UeEntry} {a b : Nat} (hu : s.ueEarly[i]? = some (u, a, b))
include hu

/-- The entries of the endpoint come after the packets of the fabric. -/
theorem execNotReadyResend_ue (hage : b + s.us 1 ≤ s.clock.toNat) : exec (.notReadyResend (s.fabric.notReady.length + i)) s =
    .next (s.onFab fun f =>
      { f with uetOut := f.uetOut ++ [u.pkt]
               ue := f.ue.map fun x => if x = u then { x with early := x.early.map fun t => (t.1, s.clock.toNat) } else x }) := by
  rw [exec_notReadyResend, execNotReadyResend]
  refine event_of ?_
  simp only [List.getElem?_eq_none (Nat.le_add_right _ i), Nat.add_sub_cancel_left, hu]
  exact if_neg (Nat.not_lt.mpr hage)

theorem execNotReadyTimeout_ue (hage : a + s.us 1000 ≤ s.clock.toNat) : exec (.notReadyTimeout (s.fabric.notReady.length + i)) s =
    .next (s.ueStale u) := by
  rw [exec_notReadyTimeout, execNotReadyTimeout]
  refine event_of ?_
  simp only [List.getElem?_eq_none (Nat.le_add_right _ i), Nat.add_sub_cancel_left, hu]
  exact if_neg (Nat.not_lt.mpr hage)

end

/-- A packet unanswered in time: what becomes of it. -/
theorem execRecoveryTimerExpiry_of {f t n : Nat} {q x : Pkt} (hsent : s.sentPkt dev plane w = some (f, q))
    (hfind : ((s.flow f plane).unacked.find? fun e => e.1.seq == w) = some (x, t, n))
    (hage : t + s.us (if n = 0 then 60 else 120) ≤ s.clock.toNat) {again : Nat → State}
    (ha : again = fun m => s.onFlow f plane fun g =>
      { g with unacked := g.unacked.map fun e => if e.1.seq == w then (e.1, s.clock.toNat, m) else e }) :
    exec (.recoveryTimerExpiry dev plane w) s = .next (
      if s.planeLive (dev % 512) plane = false ∨ (s.flow f plane).asking = true then
        if x.port then s else (again n).flowGone (dev % 512) plane
      else if n < 8 then (again (n + 1)).sendAgain x
      else if x.port then s.portGone (dev % 512) plane
      else (s.onPeer (dev % 512) fun y => { y with dead := y.dead ||| (1#64 <<< plane) }).flowGone (dev % 512) plane) := by
  subst ha
  rw [exec_recoveryTimerExpiry, execRecoveryTimerExpiry]
  refine event_of ?_
  simp only [hsent, hfind]
  exact if_neg (Nat.not_lt.mpr hage)

theorem execRecoveryQuery_of {via : Nat} (hup : s.planeUp via = true) (hon : s.fabricOn = true) :
    exec (.recoveryQuery dev plane via) s = .next
      (let u := s.onFlow dev plane fun f => { f with recovering := true, ahead := [] }
       u.emit { u.mkPkt 0 dev via (u.incarnOf dev) 0 (.ofNat 64 (2 ^ 32 * plane)) [4] with ack := (u.flow dev plane).inNext - 1 }) := by
  rw [exec_recoveryQuery, execRecoveryQuery]
  exact event_of (if_pos ⟨hup, hon⟩)

theorem execRecoveryAnswer_of (hask : (s.flow dev plane).asking = true) (hon : s.fabricOn = true) :
    exec (.recoveryAnswer dev plane w) s = .next (s.recover dev plane w) := by
  rw [exec_recoveryAnswer, execRecoveryAnswer]
  refine event_of (if_neg ?_)
  rw [hask, hon]
  exact Bool.false_ne_true

end

/-! ## Peers and links -/

section
variable {s : State} {k n dev : Nat}

theorem execLivePlaneAnnouncement_of {incarn : Half} {planes : DWord} (hdev : dev ≠ s.boot.devid.toNat) (hon : s.fabricOn = true) :
    exec (.livePlaneAnnouncement dev incarn planes) s = .next
      (let y := s.peer dev
       let fresh : Bool := y.incarn != 0 && y.incarn != incarn
       let gone := (List.range 64).filter fun j => y.planes.getLsbD j && !planes.getLsbD j
       let came := (List.range 64).filter fun j => planes.getLsbD j && !y.planes.getLsbD j
       let u := s.onPeer dev fun x => { x with incarn := incarn, planes := planes, lost := false, heard := s.clock.toNat
                                               dead := if fresh then 0 else x.dead &&& planes }
       let u := if fresh then (u.failPeer dev incarn).uePeerLost dev else u
       let u := came.foldl (fun t j =>
         if (t.flow dev j).recovering then t.onFlow dev j fun f => { f with recovering := false } else t) u
       let u := gone.foldl (fun t j => t.planeGone dev j) u
       let asking := (u.fabric.flows.filter fun e => e.1 / 64 == dev && e.2.asking).map fun e => e.1 % 64
       ((if came = [] then [] else asking).foldl (fun t j => t.askRecovery dev j) u).noteCut dev) := by
  rw [exec_livePlaneAnnouncement, execLivePlaneAnnouncement]
  refine event_of ((if_neg (not_or.mpr ⟨hdev, by rw [hon]; nofun⟩)).trans ?_)
  simp only [List.isEmpty_iff]

theorem execPeerLostTimeout_of (hdev : dev ≠ s.boot.devid.toNat) (hlost : (s.peer dev).lost = false)
    (hdue : (s.peer dev).heard + s.us 2000 ≤ s.clock.toNat ∨ (∃ t, (s.peer dev).cutAt = some t ∧ t + s.us 2000 ≤ s.clock.toNat)) :
    exec (.peerLostTimeout dev) s = .next (s.losePeer dev) := by
  rw [exec_peerLostTimeout, execPeerLostTimeout]
  refine event_of (if_neg ?_)
  rw [hlost]
  refine not_or.mpr ⟨hdev, not_or.mpr ⟨nofun, ne_false_of_eq_true ?_⟩⟩
  beta_reduce
  obtain h | ⟨t, ht, h⟩ := hdue
  · rw [decide_eq_true h, Bool.true_or]
  · rw [ht, Option.any_some, decide_eq_true h, Bool.or_true]

theorem execLinkTrainingComplete_of (hk : k < 72) (hup : (s.port k).up = false) (hlanes : 0 < (s.port k).lanes) (hon : s.fabricOn = true) :
    exec (.linkTrainingComplete k) s = .next (s.onPort k fun x => { x with trained := true, up := true }) := by
  rw [exec_linkTrainingComplete, execLinkTrainingComplete]
  exact event_of (if_pos ⟨hk, hup, hlanes, hon⟩)

/-- A lane of a Chaelo port that is up fails. -/
theorem execLaneLoss_of (hk : k < 64) (hup : (s.port k).up = true) : exec (.laneLoss k n) s = .next (
    if (s.port k).lanes = 2 then
      (s.onPort k fun x => { x with lanes := 1, trained := false }).postAll (fabricRec 0x01 1 k (n % 2) 0 0 1 0)
    else s.downPort k 1) := by
  rw [exec_laneLoss, execLaneLoss]
  refine event_of (if_neg ?_)
  rw [chaelo, decide_eq_true hk, hup]
  exact Bool.false_ne_true

theorem execLaneRetrainDone_of (hup : (s.port k).up = true) (ht : (s.port k).trained = false) :
    exec (.laneRetrainDone k) s = .next ((s.onPort k fun x => { x with trained := true }).replayFrom k 0) := by
  rw [exec_laneRetrainDone, execLaneRetrainDone]
  refine event_of (if_pos ?_)
  rw [hup, ht]
  rfl

section
variable (hup : (s.port k).up = true)
include hup

theorem execFrameCrcFailure_first : exec (.frameCrcFailure k false) s =
    .next ((s.onPort k fun x => { x with crcRetry := x.crcRetry + 1 }).onFab fun f => { f with naks := f.naks ++ [k] }) := by
  rw [exec_frameCrcFailure, execFrameCrcFailure]
  exact event_of ((if_neg (ne_false_of_eq_true hup)).trans (if_neg Bool.false_ne_true))

theorem execFrameCrcFailure_again : exec (.frameCrcFailure k true) s = .next (s.draw.2.loseLane k (s.draw.1.toNat % 2)) := by
  rw [exec_frameCrcFailure, execFrameCrcFailure]
  exact event_of ((if_neg (ne_false_of_eq_true hup)).trans (if_pos rfl))

theorem execNegativeAcknowledgment_of : exec (.negativeAcknowledgment k n) s =
    .next ((s.onPort k fun x => { x with crcRetry := x.crcRetry + 1 }).replayFrom k n) := by
  rw [exec_negativeAcknowledgment, execNegativeAcknowledgment]
  exact event_of (if_pos hup)

/-- An Ultra Ethernet port that goes down has no plane. -/
theorem State.downPort_ultra (hk : 64 ≤ k) : s.downPort k n =
    (s.onPort k fun x => { x with up := false, trained := false, lanes := 0 }).postAll (fabricRec 0x02 n k 0 0 0 1 0) := by
  refine (if_neg fun h => ne_false_of_eq_true hup h.1).trans (if_neg ?_)
  rw [chaelo, decide_eq_false (Nat.not_lt.mpr hk)]
  exact Bool.false_ne_true

end

end

/-- Settles O56. -/
theorem fabricFlowResults : Obligations.FabricFlowResults := by
  unfold Obligations.FabricFlowResults
  refine ⟨?_, ?_, ?_⟩
  · intro s p he pl sq flow u back toPort
    refine ⟨fun h => ?_, fun h hu => ?_, fun h dup => execAck_port he h dup, fun h => execStaleAnswer_port he h, fun f q h hsent => ?_,
      fun faults h => execRefusedAnswer_of he h faults, fun f q h hsent => ?_⟩
    · have hno := answerHere_other h (by decide : (0 : Nat) ≠ 2) u
      have hack := execAck_here he (flow := flow) rfl (u := u) rfl (.inl h)
      refine ⟨(hack false).trans ?_, (hack true).trans ?_⟩
      · rw [hno]
        rfl
      · rfl
    · refine (execAck_here he (flow := flow) rfl (u := u) rfl (.inr h) false).trans ?_
      rw [hu]
      rfl
    · intro v addr
      have hstale := execStaleAnswer_here he h hsent (v := v) rfl (addr := addr) rfl
      refine ⟨fun key o r l hw => ?_, fun hw => ⟨fun w hfar => ?_, fun hfar => ?_⟩⟩
      · rw [hstale, hw]
      · rw [hstale, hw]
        dsimp only
        rw [hfar]
      · rw [hstale, hw]
        dsimp only
        rw [hfar]
    · intro v mine
      have hans := execNotReady_of he (toPort := toPort) rfl h hsent (v := v) rfl (mine := mine) rfl
      refine ⟨fun h1 => ?_, fun h1 hany => ?_, fun h1 hany => ?_⟩
      · rw [hans, if_pos h1]
      · rw [hans, if_neg h1, if_pos hany]
      · rw [hans, if_neg h1, if_neg (ne_true_of_eq_false hany)]
  · intro s i dev plane via w
    refine ⟨fun e hi hsent => ⟨execNotReadyResend_of hi hsent, execNotReadyTimeout_of hi hsent⟩,
      fun u a b hu => ⟨execNotReadyResend_ue hu, execNotReadyTimeout_ue hu⟩, fun f q x t n hsent hfind hage => ?_,
      execRecoveryQuery_of, execRecoveryAnswer_of⟩
    intro again goes
    have hexec := execRecoveryTimerExpiry_of hsent hfind hage (again := again) rfl
    refine ⟨fun hlive hask => ?_, fun h => hexec.trans (by rw [if_pos h])⟩
    have hgo : ¬(s.planeLive (dev % 512) plane = false ∨ (s.flow f plane).asking = true) :=
      not_or.mpr ⟨ne_false_of_eq_true hlive, ne_true_of_eq_false hask⟩
    rw [if_neg hgo] at hexec
    exact ⟨fun hn => hexec.trans (by rw [if_pos hn]), fun hn => hexec.trans (by rw [if_neg (Nat.not_lt.mpr hn)])⟩
  · intro s k n dev incarn planes q
    refine ⟨execLivePlaneAnnouncement_of, execPeerLostTimeout_of, (exec_announcementTimer s).trans (event_of rfl),
      execLinkTrainingComplete_of, fun hk hup => ⟨fun hl => ?_, fun hl => ?_⟩, execLaneRetrainDone_of,
      fun hup => ⟨execFrameCrcFailure_first hup, execFrameCrcFailure_again hup, execNegativeAcknowledgment_of hup⟩, rfl,
      fun hk hup => State.downPort_ultra hup hk⟩
    · exact (execLaneLoss_of hk hup).trans (by rw [if_pos hl])
    · exact (execLaneLoss_of hk hup).trans (by rw [if_neg hl])

end Sys2Proof.Machine
end

section
/-! PROOFS. Events of the Ultra Ethernet endpoint (R325 to R330, R469 to R471). -/

namespace Sys2Proof.Machine

open Sys2Proof

section
variable {s v : State} {part k op : Nat} {r : Word} {words : List Nat}

/-! ## Entries taken up -/

section
variable (hr : r = s.ueRidx part k) (hnext : k < (s.part part).ueqn ∧ s.ueOk part k = true ∧ s.ueWidx part k ≠ r)
  (hv : v = s.ueSeen part k r.toNat) (hw : words = v.ueWords part k r.toNat)
include hr hnext hv hw

/-- The next entry of a queue, where it fails the checks of R470. -/
theorem State.ueTake_refused (hbad : v.ueBad part words = true) : s.ueTake part k op = ((v.ueTaken part k).postRec part
    (fabricRec 0x05 0 (v.uePort part k (ueField words 2 1)) 0 k r.toNat 1 0)).ueArrive part words (2 ^ 32 - 1) := by
  rw [State.ueTake, ← hr]
  refine (if_pos hnext).trans ?_
  rw [← hv]
  dsimp only
  rw [← hw]
  exact if_pos hbad

/-- The next entry of a queue goes to its peer. -/
theorem State.ueTake_sent (hbad : v.ueBad part words = false) (hheld : v.ueHeld part k words = false) (hop : ueOp words = op)
    {x : State} (hx : x = if op = 1 then v.seen part (ueLocal words) (ueBytes words) else v)
    {d : DWord × State} (hd : d = if ueField words 3 1 % 2 = 1 then x.draw else (0, x))
    {order : Nat} (horder : order = mapGet 0 x.fabric.rodSent (64 * part + k) + 1)
    {pkt : UetPkt} (hpkt : pkt = x.uePkt part k r.toNat words (x.uePick part words (d.1.toNat % 256)) order) :
    s.ueTake part k op = (d.2.ueTaken part k).onFab fun f =>
      { f with uetOut := f.uetOut ++ [pkt]
               ue := f.ue ++ [{ part := part, k := k, idx := r.toNat, words := words, resends := 0, since := x.clock.toNat, pkt := pkt }]
               rodSent := if pkt.mode = 2 then mapPut 0 f.rodSent (64 * part + k) order else f.rodSent } := by
  rw [State.ueTake, ← hr]
  refine (if_pos hnext).trans ?_
  rw [← hv]
  dsimp only
  rw [← hw]
  refine (if_neg (ne_true_of_eq_false hbad)).trans ((if_neg (not_or.mpr ⟨not_not.mpr hop, ne_true_of_eq_false hheld⟩)).trans ?_)
  rw [hop, ← hx, ← hd, ← horder, ← hpkt]

end

/-! ## Entries in progress -/

section
variable {i : Nat} {u : UeEntry} (hu : s.ueEntry? part k i = some u)
include hu

/-- A write, or a packet of the endpoint itself, is complete once it is acknowledged. -/
theorem execUeEntryComplete_write (hk : k = 64 ∨ ueOp u.words = 1) (hacked : u.acked = true) (data : List Byte) :
    exec (.ueEntryComplete part k i data) s = .next (s.ueDone u []) := by
  rw [exec_ueEntryComplete, execUeEntryComplete]
  refine event_of ?_
  simp only [hu]
  exact (if_pos hk).trans (if_pos hacked)

/-- A read or an atomic is complete with its data. -/
theorem execUeEntryComplete_data (hk : k ≠ 64) (hop : ueOp u.words ≠ 1) {data : List Byte} (hlen : data.length = ueBytes u.words) :
    exec (.ueEntryComplete part k i data) s = .next (s.ueDone u data) := by
  rw [exec_ueEntryComplete, execUeEntryComplete]
  refine event_of ?_
  simp only [hu]
  exact (if_neg (not_or.mpr ⟨hk, hop⟩)).trans (if_pos hlen)

theorem execUeRetransmitTimeout_of (hacked : u.acked = false) : exec (.ueRetransmitTimeout part k i) s = .next (s.ueAgain u) := by
  rw [exec_ueRetransmitTimeout, execUeRetransmitTimeout]
  refine event_of ?_
  simp only [hu]
  exact if_neg (ne_true_of_eq_false hacked)

end

/-! ## Paths -/

/-- Has a peer traffic: an entry in progress of one of its queues? -/
theorem ue_any_iff : (s.fabric.ue.any fun u => u.part == part && u.k != 64 && uePeerIdx u.words == k) = true ↔
    ∃ u ∈ s.fabric.ue, u.part = part ∧ u.k ≠ 64 ∧ uePeerIdx u.words = k := by
  simp only [List.any_eq_true, Bool.and_eq_true, beq_iff_eq, bne_iff_ne, ne_eq, and_assoc]

/-- A peer without traffic keeps its path table. -/
theorem execPathTableUpdate_idle (h : ∀ u ∈ s.fabric.ue, ¬(u.part = part ∧ u.k ≠ 64 ∧ uePeerIdx u.words = k)) :
    exec (.pathTableUpdate part k) s = .next s := by
  rw [exec_pathTableUpdate, execPathTableUpdate]
  refine event_of (if_neg fun hany => ?_)
  obtain ⟨u, hu, hpeer⟩ := ue_any_iff.mp hany
  exact h u hu hpeer

/-- The write of one entry of a peer's path table, its RTT and mark fraction drawn. -/
def State.pathEntry (part peer base : Nat) (t : State) (e : Nat) : State :=
  let x := t.draw.1.toNat
  let v := t.draw.2
  let rtt := if v.excludedNow part peer e then 2 ^ 32 - 1 else x % 2 ^ 32
  (v.vwrite part (base + 16 * e) 8 (rtt + x / 2 ^ 32 % 2 ^ 16 * 2 ^ 32)).vwrite part (base + 16 * e + 8) 8 (v.ueFlying part peer e)

theorem execPathTableUpdate_of {u : UeEntry} (hu : u ∈ s.fabric.ue) (hpeer : u.part = part ∧ u.k ≠ 64 ∧ uePeerIdx u.words = k) :
    exec (.pathTableUpdate part k) s = .next ((List.range 256).foldl
      (State.pathEntry part k (bitsOf (mapGet 0 (s.part part).fab 5) 56 0 + 4096 * k)) s) := by
  rw [exec_pathTableUpdate, execPathTableUpdate]
  exact event_of (if_pos (ue_any_iff.mpr ⟨u, hu, hpeer⟩))

/-- The exclusions that have run out are gone. -/
theorem execEntropyExclusionExpiry_of (i : Nat) : exec (.entropyExclusionExpiry part k i) s = .next (s.onFab fun f =>
    { f with excluded := f.excluded.filter fun x => !(x.1 == part && x.2.1 == k && x.2.2.1 == i && decide (x.2.2.2 ≤ s.clock.toNat)) }) := by
  rw [exec_entropyExclusionExpiry, execEntropyExclusionExpiry]
  exact event_of rfl

end

/-! ## Packets that arrive -/

/-- Does a packet's body ask this device for something? -/
def uetAsks : UetBody → Bool
  | .write .. | .read .. | .fetchAdd .. | .compareSwap .. | .node .. | .root .. => true
  | _ => false

section
variable {s : State} {p : UetPkt} {part : Nat}

section
variable {u : UeEntry} (hu : s.ueEntry? p.part p.k p.idx = some u)
include hu

theorem execUetPacketArrival_acked (hb : p.body = .acked) : exec (.uetPacketArrival p) s = .next ((s.onFab fun f =>
    { f with ue := f.ue.map fun x => if x = u then { x with acked := true, early := none } else x }).noteLoss u.part u.peer
      u.pkt.entropy false) := by
  rw [exec_uetPacketArrival, execUetPacketArrival]
  refine event_of ?_
  simp only [hb, hu, State.uetAnswer]

/-- A packet that was lost or trimmed on its way goes again. -/
theorem execUetPacketArrival_lostAgain (hb : p.body = .nak ∨ p.body = .trim) : exec (.uetPacketArrival p) s = .next (s.ueAgain u) := by
  rw [exec_uetPacketArrival, execUetPacketArrival]
  refine event_of ?_
  obtain hb | hb := hb <;> simp only [hb, hu, State.uetAnswer]

theorem execUetPacketArrival_authFailed (hb : p.body = .authFailed) : exec (.uetPacketArrival p) s = .next (s.ueFail u 5) := by
  rw [exec_uetPacketArrival, execUetPacketArrival]
  refine event_of ?_
  simp only [hb, hu, State.uetAnswer]

theorem execUetPacketArrival_notReady (hb : p.body = .notReady) (hk : u.k = 64) : exec (.uetPacketArrival p) s = .next (s.onFab fun f =>
    { f with ue := f.ue.map fun x => if x = u then
        { x with early := some ((x.early.elim s.clock.toNat fun t => t.1), s.clock.toNat) } else x }) := by
  rw [exec_uetPacketArrival, execUetPacketArrival]
  refine event_of ?_
  simp only [hb, hu, State.uetAnswer, hk, if_true]

theorem execUetPacketArrival_stale (hb : p.body = .stale) (hk : u.k = 64) : exec (.uetPacketArrival p) s = .next (s.ueStale u) := by
  rw [exec_uetPacketArrival, execUetPacketArrival]
  refine event_of ?_
  simp only [hb, hu, State.uetAnswer, hk, if_true]

end

theorem execUetPacketArrival_lost {m peer e : Nat} (hb : p.body = .lost m peer e) :
    exec (.uetPacketArrival p) s = .next (s.noteLoss m peer e true) := by
  rw [exec_uetPacketArrival, execUetPacketArrival]
  refine event_of ?_
  simp only [hb]

/-- A request goes to the partition of its JobID. -/
theorem execUetPacketArrival_asks (hasks : uetAsks p.body = true) (hudp : p.udp = 4793) : exec (.uetPacketArrival p) s =
    .next (match s.partOfJob p.job with | some part => s.uetAsk p part | none => s.uetReply p .authFailed) := by
  rw [exec_uetPacketArrival, execUetPacketArrival]
  refine event_of ?_
  cases hb : p.body with
  | write | read | fetchAdd | compareSwap | node | root => exact if_neg (not_not.mpr hudp)
  | _ => rw [hb] at hasks; exact absurd hasks Bool.false_ne_true

/-- A request of a JobID that a partition has. -/
theorem execUetPacketArrival_part (hudp : p.udp = 4793) (hjob : s.partOfJob p.job = some part) (hasks : uetAsks p.body = true) {t : State}
    (ht : s.uetAsk p part = t) : exec (.uetPacketArrival p) s = .next t := by
  rw [execUetPacketArrival_asks hasks hudp, hjob]
  exact congrArg _ ht

/-! ## Entries performed once -/

/-- What performing an entry leaves: the state, the answer kept where its queue needs it, and the answer on its way. -/
def State.uetOnce (p : UetPkt) (t : State) (b : UetBody) : State :=
  (if p.mode = 1 then t else t.onFab fun x =>
    { x with uetSeen := (x.uetSeen.filter fun e => !(e.1 == rodKey p && e.2.1 != p.session)) ++ [(rodKey p, p.session, p.idx, b)]
             rodDone := if p.mode = 2 then mapIns (rodKey p) (p.session, p.order) x.rodDone else x.rodDone }).uetReply p b

/-- An entry that has not been performed, nor a younger one where that matters, is performed. -/
theorem State.uetOrdered_fresh (h : p.mode = 1 ∨ (s.uetDone p = none ∧ s.uetLate p = false)) {f : State → State × UetBody} {t : State}
    {b : UetBody} (hf : f s = (t, b)) : s.uetOrdered p f = State.uetOnce p t b := by
  rw [State.uetOrdered, State.uetOnce, hf]
  by_cases hm : p.mode = 1
  · rw [if_pos hm, if_pos hm]
  · obtain ⟨hdone, hlate⟩ := h.resolve_left hm
    rw [if_neg hm, if_neg hm]
    simp only [hdone, hlate, Bool.false_eq_true, if_false]

/-- An entry performed before is answered as then. -/
theorem State.uetOrdered_done (hm : p.mode ≠ 1) {b : UetBody} (hdone : s.uetDone p = some b) (f : State → State × UetBody) :
    s.uetOrdered p f = s.uetReply p b := by
  rw [State.uetOrdered, if_neg hm, hdone]

theorem State.uetOrdered_late (hm : p.mode ≠ 1) (hdone : s.uetDone p = none) (hlate : s.uetLate p = true) (f : State → State × UetBody) :
    s.uetOrdered p f = s.uetReply p .acked := by
  rw [State.uetOrdered, if_neg hm, hdone]
  exact if_pos hlate

/-! ## What a request asks -/

theorem State.uetAsk_write {a : VAddr} {data : List Byte} (hb : p.body = .write a data)
    (hok : s.runOk part .write a.toNat data.length = true) :
    s.uetAsk p part = s.uetOrdered p fun s => (s.vwriteBytes part a.toNat data, .acked) := by
  simp only [State.uetAsk, hb, State.uetAt, hok, if_true]

theorem State.uetAsk_read {a : VAddr} {n : Nat} (hb : p.body = .read a n) (hok : s.runOk part .read a.toNat n = true) :
    s.uetAsk p part = s.uetOrdered p fun s =>
      (s.seen part a.toNat n, .reply ((s.seen part a.toNat n).vreadBytes part a.toNat n)) := by
  simp only [State.uetAsk, hb, State.uetAt, hok, if_true]

theorem State.uetAsk_fetchAdd {a : VAddr} {x : DWord} (hb : p.body = .fetchAdd a x) (hok : s.runOk part .write a.toNat 8 = true) :
    s.uetAsk p part = s.uetOrdered p fun s =>
      let s := s.seen part a.toNat 8
      let old := s.vread part a.toNat 8
      (s.vwrite part a.toNat 8 ((old + x.toNat) % 2 ^ 64), .reply (bytesOf 8 old)) := by
  simp only [State.uetAsk, hb, State.uetAt, hok, if_true]

theorem State.uetAsk_compareSwap {a : VAddr} {x y : DWord} (hb : p.body = .compareSwap a x y)
    (hok : s.runOk part .write a.toNat 8 = true) : s.uetAsk p part = s.uetOrdered p fun s =>
      let s := s.seen part a.toNat 8
      let old := s.vread part a.toNat 8
      (if old = x.toNat then s.vwrite part a.toNat 8 y.toNat else s, .reply (bytesOf 8 old)) := by
  simp only [State.uetAsk, hb, State.uetAt, hok, if_true]

/-- A node or root is judged. -/
theorem State.uetReduce_of (h : Word) (e : Nat) (act : State → Dom → State) :
    (∀ d, s.judge part h = .accepted d → e < d.elems → s.uetReduce p part h e act = act s d) ∧
    (s.judge part h = .early → s.uetReduce p part h e act = s.uetReply p .notReady) ∧
    (s.judge part h = .over → s.uetReduce p part h e act = s.uetReply p .stale) := by
  refine ⟨fun d hj he => ?_, fun hj => ?_, fun hj => ?_⟩ <;> simp only [State.uetReduce, hj]
  exact if_neg (Nat.not_le.mpr he)

end

/-- Settles O57. -/
theorem endpointResults : Obligations.EndpointResults := by
  unfold Obligations.EndpointResults
  refine ⟨?_, ?_⟩
  · intro s part k i w data r v words sent refusal next
    refine ⟨?_, fun hnext hbad hheld => ?_, fun hnext hbad => ?_, fun u hu => ⟨fun hk hacked => execUeEntryComplete_write hu hk hacked data,
      fun hk hop hlen => execUeEntryComplete_data hu hk hop hlen, execUeRetransmitTimeout_of hu⟩, execPathTableUpdate_idle,
      fun u hu hpart hk hpeer => execPathTableUpdate_of hu ⟨hpart, hk, hpeer⟩, _, execEntropyExclusionExpiry_of i, fun e => ?_⟩
    · rw [exec_ueNotifyWrite, execUeNotifyWrite]
      exact event_of rfl
    · have htake (op : Nat) (hop : ueOp words = op) : s.ueTake part k op = sent op :=
        State.ueTake_sent rfl hnext rfl rfl hbad hheld hop rfl rfl rfl rfl
      refine ⟨fun hop => ?_, fun hop => ?_, fun hop => ?_, fun hop => ?_⟩
      · rw [exec_ueWrite, execUeWrite]
        exact event_of (htake 1 hop)
      · rw [exec_ueRead, execUeRead]
        exact event_of (htake 2 hop)
      · rw [exec_ueFetchAndAdd, execUeFetchAndAdd]
        exact event_of (htake 3 hop)
      · rw [exec_ueCompareAndSwap, execUeCompareAndSwap]
        exact event_of (htake 4 hop)
    · have htake (op : Nat) : s.ueTake part k op = refusal := State.ueTake_refused rfl hnext rfl rfl hbad
      clear_value refusal
      simp only [List.forall_mem_cons, exec_ueWrite, exec_ueRead, exec_ueFetchAndAdd, exec_ueCompareAndSwap, execUeWrite, execUeRead,
        execUeFetchAndAdd, execUeCompareAndSwap]
      exact ⟨event_of (htake 1), event_of (htake 2), event_of (htake 3), event_of (htake 4), fun _ h => absurd h List.not_mem_nil⟩
    · simp only [State.onFab, List.mem_filter, Bool.not_eq_true', Bool.and_eq_false_iff, beq_eq_false_iff_ne, decide_eq_false_iff_not]
      tauto
  · intro s p part goes asks
    have hasks : asks = uetAsks p.body := rfl
    refine ⟨fun u hu => ⟨execUetPacketArrival_acked hu, execUetPacketArrival_lostAgain hu, execUetPacketArrival_authFailed hu,
      execUetPacketArrival_notReady hu, execUetPacketArrival_stale hu⟩, fun m peer e => execUetPacketArrival_lost,
      fun ha hudp hjob => ?_, fun hudp hjob => ?_⟩
    · exact (execUetPacketArrival_asks (hasks.symm.trans ha) hudp).trans (by rw [hjob])
    · intro fresh once acks
      have harrives {b : UetBody} (hb : p.body = b) (hasks : uetAsks b = true) {t : State} (ht : s.uetAsk p part = t) : goes t :=
        execUetPacketArrival_part hudp hjob (hb ▸ hasks) ht
      have hanswered (b : UetBody) (h : ∀ f, s.uetOrdered p f = s.uetReply p b) : acks b :=
        ⟨fun a data hb hok => harrives hb rfl ((State.uetAsk_write hb hok).trans (h _)),
          fun a n hb hok => harrives hb rfl ((State.uetAsk_read hb hok).trans (h _)),
          fun a x hb hok => harrives hb rfl ((State.uetAsk_fetchAdd hb hok).trans (h _)),
          fun a x y hb hok => harrives hb rfl ((State.uetAsk_compareSwap hb hok).trans (h _))⟩
      refine ⟨fun hfresh => ⟨fun a data hb hok => ?_, fun a n hb hok => ?_, fun a x hb hok => ?_, fun a x y hb hok => ?_⟩,
        fun hm => ⟨fun b hdone => hanswered b (State.uetOrdered_done hm hdone),
          fun hdone hlate => hanswered .acked (State.uetOrdered_late hm hdone hlate)⟩, fun h e label v absent fl hb => ?_,
        fun h e v absent fl hb => ?_⟩
      · exact harrives hb rfl ((State.uetAsk_write hb hok).trans (State.uetOrdered_fresh hfresh rfl))
      · exact harrives hb rfl ((State.uetAsk_read hb hok).trans (State.uetOrdered_fresh hfresh rfl))
      · exact harrives hb rfl ((State.uetAsk_fetchAdd hb hok).trans (State.uetOrdered_fresh hfresh rfl))
      · exact harrives hb rfl ((State.uetAsk_compareSwap hb hok).trans (State.uetOrdered_fresh hfresh rfl))
      · have hask {t : State} := harrives hb rfl (t := t)
        simp only [State.uetAsk, hb] at hask
        obtain ⟨hacc, hearly, hover⟩ := s.uetReduce_of (p := p) (part := part) h e.toNat _
        exact ⟨fun d hj he hfresh => hask ((hacc d hj he).trans (State.uetOrdered_fresh hfresh rfl)), fun hj => hask (hearly hj),
          fun hj => hask (hover hj)⟩
      · have hask {t : State} := harrives hb rfl (t := t)
        simp only [State.uetAsk, hb] at hask
        obtain ⟨hacc, hearly, hover⟩ := s.uetReduce_of (p := p) (part := part) h e.toNat _
        refine ⟨fun d hj he => ?_, fun hj => hask (hearly hj), fun hj => hask (hover hj)⟩
        intro r
        refine ⟨fun hw => hask ((hacc d hj he).trans (if_pos hw)), fun hw hstuck hfault => hask ((hacc d hj he).trans ?_)⟩
        refine (if_neg (ne_true_of_eq_false hw)).trans ((if_neg ?_).trans ?_)
        · rw [hstuck]
          exact Bool.false_ne_true
        · simp only [r] at hfault
          rw [hfault]

end Sys2Proof.Machine
end

section
/-! PROOFS. Events of device management (R335, R336, R342 to R348, R388, R389). -/

namespace Sys2Proof.Machine

open Sys2Proof

section
variable {s : State}

/-! ## The host's windows -/

theorem execHostAccess_write {r : HostReq} {x : DWord} (h : r.data = some x) :
    exec (.hostAccess r) s = .next (s.hostWrite r.addr r.size (x.toNat % 2 ^ (8 * r.size))) := by
  rw [exec_hostAccess, execHostAccess]
  refine event_of ?_
  simp only [h]

theorem execHostAccess_read {r : HostReq} (h : r.data = none) : exec (.hostAccess r) s = .next
    ((s.hostRead r.addr r.size).2.onFab fun f => { f with hostData := some (.ofNat 64 (s.hostRead r.addr r.size).1) }) := by
  rw [exec_hostAccess, execHostAccess]
  refine event_of ?_
  simp only [h]

/-- What a host access reaches: main memory, a doorbell page, or nothing. -/
theorem State.hostAccess_reaches (a n v : Nat) :
    (a + n ≤ mainBytes → s.hostWrite a n v = s.wr .flostra a n v ∧ s.hostRead a n = s.rd .flostra a n) ∧
    (mainBytes < a + n →
      (∀ p, s.bellOf a = some p → s.hostWrite a n v = s.bellWrite p (a - (s.part p).doorbell) n v ∧
        s.hostRead a n = (s.bellRead p (a - (s.part p).doorbell) n, s)) ∧
      (s.bellOf a = none → s.hostRead a n = (2 ^ (8 * n) - 1, s) ∧ s.hostWrite a n v =
        if (s.hostPlace 0).1 = .host then s.onFab fun f => { f with dropped := f.dropped + 1 } else s)) := by
  refine ⟨fun h => ⟨if_pos h, if_pos h⟩, fun h => ⟨fun p hp => ?_, fun hp => ?_⟩⟩
  all_goals
    rw [State.hostWrite, State.hostRead, if_neg (Nat.not_le.mpr h), if_neg (Nat.not_le.mpr h), hp]
    exact ⟨rfl, rfl⟩

/-! ## Reset and firmware -/

/-- A fault of firmware resets the device once an image is accepted. -/
theorem execFirmwareFault_eq (flash staging : Image) : exec (.firmwareFault flash staging) s =
    .next (if 2 ≤ s.boot.stage then s.restart flash staging else s) := by
  rw [exec_firmwareFault, execFirmwareFault]
  exact event_of rfl

theorem execManagementWrite_of (h : 2 ≤ s.boot.stage) (csr : Nat) (v : DWord) :
    exec (.managementWrite csr v) s = .next (s.mgmtWrite csr v) := by
  rw [exec_managementWrite, execManagementWrite]
  exact event_of (if_pos h)

/-! ## Cores -/

section
variable {part core : Nat}

/-- A core leaves once no workgroup of the partition is resident there. -/
theorem execCoreLeavesPartition_of (hleaving : (s.part part).leaving.contains core = true)
    (hgone : ∀ e ∈ s.wgs, e.2.part = part → e.2.resident = true → ∀ k ∈ e.2.slots, coreOf k ≠ core) :
    exec (.coreLeavesPartition part core) s =
      .next ((s.onPart part fun p => { p with leaving := p.leaving.erase core }).restage) := by
  have hhere : (s.wgs.any fun e => e.2.part == part && e.2.resident && e.2.slots.any fun k => decide (coreOf k = core)) = false := by
    simp only [List.any_eq_false, Bool.and_eq_true, beq_iff_eq, List.any_eq_true, decide_eq_true_eq]
    rintro e he ⟨⟨hpart, hres⟩, k, hk, hcore⟩
    exact hgone e he hpart hres k hk hcore
  rw [exec_coreLeavesPartition, execCoreLeavesPartition]
  refine event_of (if_neg ?_)
  rw [hhere, hleaving]
  exact not_or.mpr ⟨Bool.false_ne_true, Bool.true_eq_false.mp⟩

/-- A core cleared takes work of its partition again. -/
theorem execScratchClearComplete_of (hclear : (s.core core).clearing = true) {u : State} (hu : u = ({ s with
      spad := clearRun s.spad (core * Config.spadBytes) Config.spadBytes
      vault := clearRun s.vault (core * Config.vaultBytes) Config.vaultBytes } : State).onCore core
        fun c => { c with clearing := false }) :
    exec (.scratchClearComplete core) s = .next (match u.partOfCore core with | some p => u.roomFreed p [core] | none => u) := by
  subst hu
  rw [exec_scratchClearComplete, execScratchClearComplete]
  exact event_of (if_neg (ne_false_of_eq_true hclear))

/-- A run cleared reads 0. -/
theorem readByte_clearRun_inside {m : List Host.Cell} (hm : Memory.wf m = true) {a n k : Nat} (hk : k < n) :
    readByte (clearRun m a n) (a + k) = 0 := by
  rw [readByte_clearRun hm, if_pos ⟨Nat.le_add_right a k, Nat.add_lt_add_left hk a⟩]

end

/-! ## Attestation -/

theorem execAttreqWrite_idle (h : s.boot.attBusy = false) (part : Nat) (v : DWord) : exec (.attreqWrite part v) s = .next { s with boot :=
    { s.boot with attBusy := true, attErr := false, attAddr := v &&& bitMask 56 6, attPart := part } } := by
  rw [exec_attreqWrite, execAttreqWrite]
  exact event_of (if_neg (ne_true_of_eq_false h))

section
variable (h : s.boot.attBusy = true)
include h

/-- A report in the making is not asked for again. -/
theorem execAttreqWrite_busy (part : Nat) (v : DWord) : exec (.attreqWrite part v) s = .next s := by
  rw [exec_attreqWrite, execAttreqWrite]
  exact event_of (if_pos h)

/-- The end of a report: the self-test's failure, a buffer that takes no write, or the report with its signatures. -/
theorem execAttestationReport_of {fin : State → Bool → State}
    (hfin : fin = fun u err => { u with boot := { u.boot with attBusy := false, attErr := err } }) {p a : Nat} (hp : p = s.boot.attPart)
    (ha : a = bitsOf s.boot.attAddr 56 6 * 64) {head : List Byte} (hhead : head = s.reportHead (s.vreadBytes p (a + 136) 32))
    (selfTest : Bool) : exec (.attestationReport selfTest) s = .next (
      if selfTest = false then (fin s true).postRec p (plainRec 0x09 0x01 0)
      else if s.bufferOk p a 16896 = false then fin s true
      else fin (s.vwriteBytes p a (head ++ padTo 384 (Config.rsaSign head) ++ padTo 16224 (Config.slhSign head))) false) := by
  rw [exec_attestationReport, execAttestationReport]
  refine event_of ((if_neg (ne_false_of_eq_true h)).trans ?_)
  simp only [← hp, ← ha, ← hhead, hfin, Bool.not_eq_true']

end

/-! ## Power -/

theorem execCapWrite_of (m : Half) : exec (.capWrite m) s = .next (s.setCap m) := by
  rw [exec_capWrite, execCapWrite]
  exact event_of rfl

/-- The power cap lies between 1000 and 2800 W. -/
theorem State.setCap_cap (m : Half) : (s.setCap m).boot.cap.toNat = min 2800 (max 1000 m.toNat) := by
  rw [State.setCap, BitVec.toNat_ofNat]
  exact Nat.mod_eq_of_lt (by omega)

theorem execPowerThrottle_of (m : Half) : exec (.powerThrottle m) s = .next { s with boot :=
    if s.boot.cap.toNat < m.toNat then { s.boot with meas := m, thr := true, freq := .ofNat 8 (max 18 (s.boot.freq.toNat - 1)) }
    else { s.boot with meas := m } } := by
  rw [exec_powerThrottle, execPowerThrottle]
  exact event_of rfl

end

/-- Settles O58. -/
theorem managementEventResults : Obligations.ManagementEventResults := by
  unfold Obligations.ManagementEventResults
  intro s d csr part core flash staging v m
  refine ⟨fun r x => execHostAccess_write, fun r => execHostAccess_read, fun a n => State.hostAccess_reaches a n d.toNat, ?_,
    fun h => ?_, fun h => ⟨?_, execManagementWrite_of h csr v⟩, execCoreLeavesPartition_of, fun hclear => ?_,
    fun h => execAttreqWrite_idle h part v, fun h => ⟨execAttreqWrite_busy h part v, ?_⟩, ⟨_, execCapWrite_of m, ?_⟩,
    ⟨_, execPowerThrottle_of m, ?_⟩⟩
  · rw [exec_deviceReset, execDeviceReset]
    exact event_of rfl
  · rw [execFirmwareFault_eq, if_neg (Nat.not_le.mpr h)]
  · rw [execFirmwareFault_eq, if_pos h]
  · intro u
    have hexec := execScratchClearComplete_of hclear (u := u) rfl
    refine ⟨fun p hp => ?_, fun hp => ?_, fun hs => ?_⟩
    · rw [hexec, hp]
    · rw [hexec, hp]
    · rw [State.memWf_iff] at hs
      exact ⟨fun k hk => readByte_clearRun_inside (hs .spad) hk, fun k hk => readByte_clearRun_inside (hs .vault) hk⟩
  · intro fin p a head
    have hexec := execAttestationReport_of h (fin := fin) rfl (p := p) rfl (a := a) rfl (head := head) rfl
    refine ⟨?_, fun hok => ?_, fun hok => ?_⟩
    · rw [hexec, if_pos rfl]
    · rw [hexec, if_neg Bool.true_eq_false.mp, if_pos hok]
    · rw [hexec, if_neg Bool.true_eq_false.mp, if_neg (ne_false_of_eq_true hok)]
  · have hcap := s.setCap_cap m
    exact ⟨by omega, by omega, fun hlo hhi => BitVec.eq_of_toNat_eq (by omega)⟩
  · refine ⟨?_, fun h => ?_, fun h => ?_⟩
    · dsimp only
      split <;> rfl
    · rw [if_neg (Nat.not_lt.mpr h)]
    · rw [if_pos h]
      have hfreq := s.boot.freq.isLt
      exact ⟨rfl, (BitVec.toNat_ofNat ..).trans (Nat.mod_eq_of_lt (by omega))⟩

end Sys2Proof.Machine
end

section
/-! PROOFS. Events of the fault ring, the scrub, saves, restores and the watchdog (R368, R369, R375, R422, R423, R436, R440, R445). -/

namespace Sys2Proof.Machine

open Sys2Proof

section
variable {s : State} {part wg key : Nat}

/-! ## The ring -/

/-- The first group that fits, or whose producer cannot wait, is written whole or dropped. -/
theorem execFaultGroupWrite_of {x : Group} (hx : groupNow (s.ringRoom part) (s.part part).groups = some x) {u : State}
    (hu : u = s.onPart part fun p => { p with groups := p.groups.erase x }) {after : State → State}
    (ha : after = fun t => match x.pkt with | some (q, idx) => t.releasePkt part q idx | none => t) :
    exec (.faultGroupWrite part) s =
      .next (after (if x.recs.length ≤ s.ringRoom part then u.writeGroup part x else u.dropGroup part x)) := by
  subst ha
  rw [exec_faultGroupWrite, execFaultGroupWrite]
  refine event_of ?_
  simp only [hx, ← hu] <;> rfl

/-- A write of FRREAD counts where it leaves no more than the ring holds. -/
theorem execFrreadWrite_eq (w : Word) : exec (.frreadWrite part w) s = .next
    (if (BitVec.ofNat 32 (s.vread part ((s.part part).vbase 13 + 8) 4) - w).toNat ≤ 2 ^ (s.part part).ringLog
      then s.onPart part fun p => { p with frread := w } else s) := by
  rw [exec_frreadWrite, execFrreadWrite]
  refine event_of ?_
  rw [State.frread]
  by_cases h : (BitVec.ofNat 32 (s.vread part ((s.part part).vbase 13 + 8) 4) - w).toNat ≤ 2 ^ (s.part part).ringLog
  · rw [if_pos h, if_neg (Nat.not_lt.mpr h)]
  · rw [if_neg h, if_pos (Nat.not_le.mp h)]

/-! ## The scrub -/

/-- An upset word that the scrub finds is treated, and a loss routed. -/
theorem execPatrolScrub_of {addr : Nat} {u : Upset} {space : Space} {p : Place}
    (hp : (space, p) ∈ [(Space.global, Place.flostra), (.vault, .vault)]) (hu : s.upsetAt p addr 1 = some u)
    (hown : s.ownerOf p addr = some part) : exec (.patrolScrub space addr) s = .next (s.lossAlone part u) := by
  rw [exec_patrolScrub]
  unfold execPatrolScrub
  refine event_of ?_
  simp only [List.mem_cons, Prod.mk.injEq, List.not_mem_nil, or_false] at hp
  obtain ⟨rfl, rfl⟩ | ⟨rfl, rfl⟩ := hp <;> simp only [hu, hown] <;> exact if_neg nofun

/-! ## Saves and restores -/

section
variable {g : Wg} (hg : s.wg? wg = some g)
include hg

/-- A save that has not ended in time is abandoned. -/
theorem execSaveTimeout_of (hphase : g.phase = .saving)
    (hlate : g.saveLimit < s.clock.toNat ∨ (g.saveLimit = s.clock.toNat ∧ s.saveReady wg g = false)) {u : State}
    (hu : u = ((s.freePool g).settleVerdict wg 0).onWg wg fun x => { x with phase := .running, pool := (0, 0), quarantine := false }) :
    exec (.saveTimeout wg) s = .next (if g.quarantine then u.killWg wg else u) := by
  have hover : ¬(s.clock.toNat < g.saveLimit ∨ (s.clock.toNat = g.saveLimit ∧ s.saveReady wg g = true)) := by
    rintro (h | ⟨h, hready⟩) <;> obtain hlt | ⟨heq, hbusy⟩ := hlate
    · exact Nat.lt_asymm h hlt
    · exact Nat.ne_of_gt h heq
    · exact Nat.ne_of_gt hlt h
    · exact ne_false_of_eq_true hready hbusy
  rw [exec_saveTimeout, execSaveTimeout]
  refine event_of ?_
  simp only [hg]
  refine (if_neg hover).trans ?_
  rw [State.abandonSave]
  simp only [hg]
  rw [if_neg (not_not.mpr hphase), ← hu]

end

/-! ## The watchdog -/

/-- A strand that has waited 2^32 cycles is reported once. -/
theorem execHangWatchdog_of {st : Strand} {g : Wg} (hst : s.strand? key = some st) (hg : s.wg? st.wg = some g) (hoff : st.watchOff = false)
    (hphase : g.phase = .running) (hwatch : 2 ^ 32 ≤ st.watch) {slot : Nat}
    (hslot : slot = ((List.range 4).find? fun i => (st.split i).st != .free).getD 0) :
    exec (.hangWatchdog key) s = .next ((s.onStrand key fun x => { x with watchOff := true }).route
      { part := st.part, wg := some st.wg, split := some (key, slot), op := none, core := coreOf key
        fault := s.hangRec key st g slot }) := by
  rw [exec_hangWatchdog, execHangWatchdog]
  refine event_of ?_
  simp only [hst, Option.bind_some, hg, Option.map_some, ← hslot]
  refine if_neg ?_
  rw [hoff, hphase, decide_eq_false (Nat.not_lt.mpr hwatch)]
  exact Bool.false_ne_true

end

/-- Settles O59. -/
theorem faultEventResults : Obligations.FaultEventResults := by
  unfold Obligations.FaultEventResults
  intro s part wg key w st g
  refine ⟨fun x hx => ?_, execFrreadWrite_eq w, ?_, fun addr u space p hp hu hown => ?_, fun hg => ⟨fun hphase hready => ?_, fun hphase hlate => ?_,
    fun hphase hfit => ?_⟩, fun hst hg hoff hphase hwatch => ⟨_, _, execHangWatchdog_of hst hg hoff hphase hwatch rfl, rfl, rfl⟩⟩
  · intro u after
    have hexec := execFaultGroupWrite_of hx (u := u) rfl (after := after) rfl
    refine ⟨fun hroom => ?_, fun hroom => ?_⟩
    · rw [hexec, if_pos hroom]
    · rw [hexec, if_neg (Nat.not_le.mpr hroom)]
  · rw [exec_frresumeWrite, execFrresumeWrite]
    exact event_of rfl
  · have hexec := execPatrolScrub_of hp hu hown
    rw [State.lossAlone] at hexec
    refine ⟨fun h => hexec.trans ?_, fun h => hexec.trans ?_⟩
    · exact congrArg _ (if_pos h)
    · exact congrArg _ (if_neg h)
  · rw [exec_saveComplete, execSaveComplete]
    exact event_of rfl
  · exact execSaveTimeout_of hg hphase hlate rfl
  · rw [exec_restoreComplete, execRestoreComplete]
    exact event_of rfl

end Sys2Proof.Machine
end

section
/-! PROOFS. Debug and trace events (R7, R475 to R490). -/

namespace Sys2Proof.Machine

open Sys2Proof

section
variable {s : State} {key slot q : Nat}

/-! ## Matches and entries into the agent -/

theorem execBreakpointMatch_of {k : Nat} (hk : s.breakpoint key slot = some k) (hp : s.poised key slot = true) :
    exec (.breakpointMatch key slot) s = .next (s.stopAt key slot 2 k 1 0) := by
  rw [exec_breakpointMatch, execBreakpointMatch]
  refine event_of ?_
  simp only [hk, hp]

theorem execWatchpointMatch_of {k : Nat} {m : Mask} (hk : s.watchpoint key slot = some (k, m)) (hp : s.poised key slot = true) :
    exec (.watchpointMatch key slot) s = .next (s.stopAt key slot 3 k 2 m) := by
  rw [exec_watchpointMatch, execWatchpointMatch]
  refine event_of ?_
  simp only [hk, hp]

theorem execAgentEntry_of {e : Entering} (he : s.nextEntry q false = some e) : exec (.agentEntry q) s = .next (s.enterAgent q e) := by
  rw [exec_agentEntry, execAgentEntry]
  refine event_of ?_
  simp only [he]

theorem execStepReentry_of {e : Entering} (he : s.nextEntry q true = some e) : exec (.stepReentry q) s = .next (s.enterAgent q e) := by
  rw [exec_stepReentry, execStepReentry]
  refine event_of ?_
  simp only [he]

/-- A split enters the agent 12 cycles after the stop, one that ENTER named once it is Ready. -/
theorem State.entersNow_of {e : Entering} (hnoted : e.noted = true) (hsince : e.since + 12 ≤ s.clock.toNat)
    (hready : e.reason ≠ 4 ∨ (∀ y, s.strand? e.strand = some y → (y.split e.slot).st = .ready ∨ (y.split e.slot).st = .free)) :
    s.entersNow e = true := by
  rw [State.entersNow, hnoted, decide_eq_true hsince]
  refine (Bool.true_and _).trans (Bool.or_eq_true_iff.mpr (hready.imp (fun h => bne_iff_ne.mpr h) fun h => ?_))
  cases hy : s.strand? e.strand with
  | none => rfl
  | some y => exact Bool.or_eq_true_iff.mpr ((h y hy).imp beq_iff_eq.mpr beq_iff_eq.mpr)

/-- The split that has waited longest is the next to enter. -/
theorem State.nextEntry_head {e : Entering} {rest : List Entering} (hlist : (s.quarter q).entering = e :: rest)
    (hstop : (s.quarter q).stopped = true) (he : s.entersNow e = true) : s.nextEntry q (e.reason == 3) = some e := by
  rw [State.nextEntry, hlist]
  refine (if_pos hstop).trans (List.find?_cons_of_pos ?_)
  rw [he, BEq.rfl]
  rfl

/-! ## Requests to stop and to run -/

/-- A request that stands already changes nothing. -/
theorem State.writeReq_same {req : Bool} (h : (s.quarter q).req = req) (cause : Nat) (exempt : Option (Nat × Nat)) :
    s.writeReq q req cause exempt = s := if_pos (beq_iff_eq.mpr h.symm)

section
variable (h : (s.quarter q).req = false)
include h

theorem State.writeReq_stop (hstop : (s.quarter q).stopped = false) (cause : Nat) (exempt : Option (Nat × Nat)) :
    s.writeReq q true cause exempt = (s.stopQuarter q cause none none 0).onQuarter q fun x => { x with exempt := exempt } := by
  simp only [State.writeReq, h, hstop, beq_false, Bool.not_true, Bool.false_eq_true, if_false, if_true]

theorem State.writeReq_stopped (hstop : (s.quarter q).stopped = true) (cause : Nat) (exempt : Option (Nat × Nat)) :
    s.writeReq q true cause exempt = s.onQuarter q fun x => { x with req := true, resumeAt := none } := by
  simp only [State.writeReq, h, hstop, beq_false, Bool.not_true, Bool.false_eq_true, if_false, if_true]

end

/-- A request withdrawn: the quarter runs at once unless its agent is at work. -/
theorem State.writeReq_resume (h : (s.quarter q).req = true) (cause : Nat) (exempt : Option (Nat × Nat)) {u : State}
    (hu : u = s.onQuarter q fun y => { y with req := false, exempt := none }) : s.writeReq q false cause exempt =
      if (s.quarter q).agent then u else if (s.quarter q).stopped then u.resumeQuarter q else u := by
  simp only [State.writeReq, h, beq_true, Bool.false_eq_true, if_false, hu]

theorem execQstopStop_eq (s : State) (q : Nat) : exec (.qstopStop q) s = .next (s.writeReq q true 4 none) := by
  rw [exec_qstopStop, execQstopStop]
  exact event_of rfl

theorem execQstopResume_eq (s : State) (q : Nat) : exec (.qstopResume q) s = .next (s.writeReq q false 0 none) := by
  rw [exec_qstopResume, execQstopResume]
  exact event_of rfl

/-! ## Replies, dumps and samples -/

theorem execDbgreplyWrite_of {st : Strand} {part : Nat} {v : DWord} (hst : s.strand? key = some st) (hpart : st.part = part)
    (hkey : bitsOf v 7 0 * 128 + bitsOf v 9 8 * 32 + bitsOf v 14 10 = key) : ∃ t, exec (.dbgreplyWrite part v) s = .next t ∧
      t.strand? key = some { st with reply := some (.ofNat 32 (v.toNat / 2 ^ 32)) } := by
  rw [exec_dbgreplyWrite, execDbgreplyWrite]
  refine ⟨_, event_of rfl, ?_⟩
  rw [State.dbgReply, hkey]
  exact (s.strand?_onStrand_same key _).trans (hst ▸ congrArg some (if_pos hpart))

/-- The end of a dump applies the writes that it held. -/
theorem execDumpComplete_of (h : (s.quarter q).dumping = true) : exec (.dumpComplete q) s = .next
    ((s.quarter q).held.foldl (fun t h => t.applyHeld h) (s.onQuarter q fun y => { y with dumping := false, held := [] })) := by
  rw [exec_dumpComplete, execDumpComplete]
  exact event_of (if_neg (ne_false_of_eq_true h))

theorem execTraceSample_of {part : Nat} (hpart : s.partOfCore (q / 4) = some part)
    (htime : s.clock.toNat % 2 ^ (10 + bitsOf (s.part part).trctl 15 11) = 0) :
    ∃ body, exec (.traceSample q) s = .next (s.traceRec part 1 (locOf q) body) := by
  rw [exec_traceSample, execTraceSample]
  simp only [event, hpart]
  rw [if_neg (not_not.mpr htime)]
  exact ⟨_, rfl⟩

end

/-- Settles O60. -/
theorem debugEventResults : Obligations.DebugEventResults := by
  unfold Obligations.DebugEventResults
  intro s key slot q part off v st x
  refine ⟨fun k => execBreakpointMatch_of, fun k m => execWatchpointMatch_of, fun e => execAgentEntry_of, fun e => execStepReentry_of,
    fun e rest hlist hstop hnoted hsince hready => State.nextEntry_head hlist hstop (State.entersNow_of hnoted hsince hready),
    fun hreq hstop => ?_, fun hreq hstop => ?_, fun hreq => ?_, fun hreq => ?_, fun hreq hagent hstop => ?_, fun hreq h => ?_,
    ?_, ?_, ?_, ?_, ?_, execDbgreplyWrite_of, execDumpComplete_of, execTraceSample_of, fun hoff hpage => ?_⟩
  · rw [execQstopStop_eq, State.writeReq_stop hreq hstop]
  · rw [execQstopStop_eq, State.writeReq_stopped hreq hstop]
  · rw [execQstopStop_eq, State.writeReq_same hreq]
  · rw [execQstopResume_eq, State.writeReq_same hreq]
  · rw [execQstopResume_eq, State.writeReq_resume hreq _ _ rfl, hagent, hstop]
    rfl
  · rw [execQstopResume_eq, State.writeReq_resume hreq _ _ rfl]
    obtain h | h := h <;> rw [h]
    · rfl
    · exact congrArg _ (ite_self _)
  · rw [exec_dbgStop, execDbgStop]
    exact event_of rfl
  · rw [exec_dbgDump, execDbgDump]
    exact event_of rfl
  · rw [exec_dbgEnter, execDbgEnter]
    exact event_of rfl
  · rw [exec_dbgUnhalt, execDbgUnhalt]
    exact event_of rfl
  · rw [exec_dbgResume, execDbgResume]
    exact event_of rfl
  · rw [exec_mmioRegisterWrite, execMmioRegisterWrite]
    exact event_of (if_pos ⟨hoff, hpage⟩)

end Sys2Proof.Machine
end

section
/-! PROOFS. A step runs what it has fetched (R138, R140). -/

namespace Sys2Proof.Machine

open Sys2Proof

/-! ## Items of the agenda -/

theorem step_of_agenda {s : State} {t : Todo} {rest : List Todo} (h : s.agenda = t :: rest) :
    step s = runTodo t { s with agenda := rest } := by
  rw [step, h]

section
variable {u : State} {key slot : Nat}

/-- A split that the gate lets through has its next instruction chosen. -/
theorem State.chooseSplit_of {st : Strand} {i : Instr} {n : Nat} {v : State} (hmay : u.mayIssue key slot = true)
    (hst : u.strand? key = some st) (hdec : decodeWords (st.split slot).words = some (i, n)) (hgate : u.gate key slot i = .pass v) :
    u.chooseSplit key slot = ({ v.useFor key i with cur := some (key, slot) }, some i) := by
  have hfetched : u.fetched key slot = some i := by
    rw [State.fetched, hst, Option.bind_some, hdec]
    rfl
  rw [State.chooseSplit, if_pos hmay, hfetched]
  simp only [hgate]

/-- The instruction chosen is run, its unit's beats counted and the slots that it takes woken. -/
theorem attempt_of {w : State} {i : Instr} (h : u.chooseSplit key slot = (w, some i)) : attempt key slot u =
    match exec i w with
    | .next t => .next (u.settled (w.withPipe key slot i (w.withSlots key slot t)))
    | r => r := by
  simp only [attempt, h] <;> rfl

/-- With no match a split in its turn makes its attempt. -/
theorem issueStep_of (hturn : u.outOfTurn key slot = false) (hmatch : u.matched key slot = none) :
    issueStep key slot u = attempt key slot u := by
  rw [issueStep, if_neg (ne_true_of_eq_false hturn), tryIssue, hmatch]

end

/-- The word of a policy engine does what it decodes to: its fields' limits only restrict the words. -/
theorem execHgWord_of_decodeHg {w : Nat} {i : Instr} (h : decodeHg w = some i) (s : State) : execHgWord w s = exec i s := by
  unfold decodeHg at h
  rw [execHgWord]
  generalize w % 256 = k at h ⊢
  split at h
  all_goals simp only [Option.ite_none_right_eq_some, Option.some.injEq, reduceCtorEq] at h
  all_goals
    repeat obtain ⟨-, h⟩ := h
    rfl

/-- What a policy engine's word decodes to is run. -/
theorem policyStep_of {u : State} {die w : Nat} {i : Instr} (hw : u.policyWord die = some w) (hi : decodeHg w = some i) :
    policyStep die u = exec i { u with die := die } := by
  rw [policyStep, hw]
  exact execHgWord_of_decodeHg hi _

/-! ## What a fetch brings -/

theorem lenOf_eq_lengthOf (w : Nat) : lenOf w = lengthOf w := by
  have h := Nat.mod_lt w (by decide : 0 < 4)
  rw [lenOf, lengthOf]
  generalize w % 4 = m at h
  interval_cases m <;> rfl

section
variable {s : State} {core part : Nat}

/-- A word that is fetched is memory's, or the instruction cache's. -/
theorem State.wordAt_or (va : VAddr) (k now : Nat) :
    s.wordAt core part va k now = now ∨ s.cached core part va = some (s.wordAt core part va k now) := by
  rw [State.wordAt]
  cases h : s.cached core part va with
  | none => exact .inl rfl
  | some old =>
    dsimp only
    split
    · exact .inl rfl
    · split
      · exact .inr rfl
      · exact .inl rfl

/-- One more word. -/
theorem State.fetchWords_succ {pc : VAddr} {k n : Nat} {l : List Nat} {accs : List Acc}
    (h : s.fetchWords core part pc k (n + 1) = .words l accs) :
    ∃ t, (s.translate core part .fetch pc.toNat).plain 4 = .ok t ∧ ∃ l' accs', s.fetchWords core part (pc + 4) (k + 1) n = .words l' accs' ∧
      l = s.wordAt core part pc k (s.rd t.place t.pa 4).1 :: l' ∧
      accs = { lane := 0, place := t.place, pa := t.pa, va := pc.setWidth 64 } :: accs' := by
  rw [State.fetchWords] at h
  split at h
  · cases h
  · cases h
  next t ht =>
    dsimp only at h
    split at h
    next l' accs' hrest =>
      cases h
      exact ⟨t, ht, l', accs', hrest, rfl, rfl⟩
    · next hno => exact absurd h (hno l accs)

/-- As many words as asked, each of memory at its address or of the instruction cache. -/
theorem State.fetchWords_spec (n : Nat) {pc : VAddr} {k : Nat} {l : List Nat} {accs : List Acc}
    (h : s.fetchWords core part pc k n = .words l accs) : l.length = n ∧ accs.length = n ∧
      ∀ j v a, l[j]? = some v → accs[j]? = some a → a.va = (pc + .ofNat 57 (4 * j)).setWidth 64 ∧
        (v = (s.rd a.place a.pa 4).1 ∨ s.cached core part (pc + .ofNat 57 (4 * j)) = some v) := by
  induction n generalizing pc k l accs with
  | zero =>
    rw [State.fetchWords] at h
    cases h
    exact ⟨rfl, rfl, nofun⟩
  | succ n ih =>
    obtain ⟨t, -, l, accs, hrest, rfl, rfl⟩ := State.fetchWords_succ h
    obtain ⟨hl, haccs, hwords⟩ := ih hrest
    refine ⟨congrArg (· + 1) hl, congrArg (· + 1) haccs, fun j v a hv ha => ?_⟩
    cases j with
    | zero =>
      rw [List.getElem?_cons_zero, Option.some_inj] at hv ha
      subst hv ha
      rw [show pc + BitVec.ofNat 57 (4 * 0) = pc from BitVec.add_zero pc]
      exact ⟨rfl, State.wordAt_or pc k _⟩
    | succ j =>
      have hpc : pc + .ofNat 57 (4 * (j + 1)) = pc + 4 + .ofNat 57 (4 * j) := by
        rw [Nat.mul_succ, Nat.add_comm, BitVec.ofNat_add, BitVec.add_assoc]
        rfl
      rw [List.getElem?_cons_succ] at hv ha
      rw [hpc]
      exact hwords j v a hv ha

/-- The fetch of an instruction in this device's memory brings as many words as the first says. -/
theorem State.fetch_words {pc : VAddr} {w : Nat} {l : List Nat} {accs : List Acc} (h : s.fetch core part pc = .words (w :: l) accs)
    (hfar : s.farWords accs = false) : s.fetchWords core part pc 0 (lengthOf w) = .words (w :: l) accs := by
  rw [State.fetch] at h
  split at h
  next w' accs' hfirst =>
    split at h
    next hwait =>
      cases h
      exact absurd hwait (ne_true_of_eq_false hfar)
    · obtain ⟨t, ht, _, _, -, hw', -⟩ := State.fetchWords_succ hfirst
      obtain ⟨m, hm⟩ : ∃ m, lenOf w' = m + 1 := Nat.exists_eq_add_one.mpr (by rw [lenOf]; split <;> decide)
      rw [hm] at h
      obtain ⟨t', ht', _, _, -, hw, -⟩ := State.fetchWords_succ h
      rw [ht] at ht'
      cases ht'
      obtain rfl : w = w' := (List.cons.inj hw).1.trans (List.cons.inj hw').1.symm
      rw [← lenOf_eq_lengthOf, hm]
      exact h
  next hno =>
    exfalso
    have hlen := (State.fetchWords_spec 1 h).1
    rw [List.length_cons, Nat.add_eq_right, List.length_eq_zero_iff] at hlen
    subst hlen
    exact hno w accs h

end

/-- Settles O5. -/
theorem stepRunsDecoded : Obligations.StepRunsDecoded := by
  unfold Obligations.StepRunsDecoded
  intro s rest u
  refine ⟨fun key slot st i n v hagenda hmay hturn hst hdec hmatch hgate => ?_, fun n hagenda => step_of_agenda hagenda,
    fun die w i hagenda hw hi => ?_, fun i hagenda => ?_, fun core part pc w l accs hfetch hfar => ?_⟩
  · intro w
    have hstep : step s = after u (match exec i w with
        | .next t => .next (u.settled (w.withPipe key slot i (w.withSlots key slot t)))
        | r => r) := by
      rw [step_of_agenda hagenda, runTodo, issueStep_of hturn hmatch, attempt_of (State.chooseSplit_of hmay hst hdec hgate)]
    refine ⟨fun t ht => ?_, fun f hf => ?_, fun r hr => ?_⟩
    · rw [hstep, ht]
      rfl
    · rw [hstep, hf]
      rfl
    · rw [hstep, hr]
      rfl
  · intro v
    have hstep : step s = after u (exec i v) := by
      rw [step_of_agenda hagenda, runTodo, policyStep_of hw hi]
    refine ⟨fun t ht => ?_, fun f hf => ?_, fun r hr => ?_⟩
    · rw [hstep, ht]
      rfl
    · rw [hstep, hf]
      rfl
    · rw [hstep, hr]
      rfl
  · intro v
    have hstep : step s = after u (heldEvent i v) := by
      rw [step_of_agenda hagenda, runTodo]
    rw [heldEvent] at hstep
    refine ⟨fun t ht => ⟨fun hask => ?_, fun hask => ?_⟩, fun f hf => ?_, fun r hr => ?_⟩
    · rw [hstep, ht]
      dsimp only
      rw [if_pos (List.isEmpty_iff.mpr hask)]
      rfl
    · rw [hstep, ht]
      dsimp only
      rw [if_neg (mt List.isEmpty_iff.mp hask)]
      rfl
    · rw [hstep, hf]
      rfl
    · rw [hstep, hr]
      rfl
  · obtain ⟨hl, haccs, hwords⟩ := State.fetchWords_spec _ (State.fetch_words hfetch hfar)
    exact ⟨hl, haccs, hwords⟩

end Sys2Proof.Machine
end

section
/-! PROOFS. Taking a precise trap (R371, R373), and what every end of an issue leaves as it was. -/

namespace Sys2Proof.Machine

open Sys2Proof

/-! ## What works on one strand -/

/-- Nothing changes but a strand, the quarters and the dies. -/
def State.onlyStrand (s t : State) (key : Nat) : Prop := s.sameRest t ∧ s.sameStrands t key

section
variable {s t u : State} {key : Nat}

theorem State.onlyStrand_refl (s : State) (key : Nat) : s.onlyStrand s key := ⟨rfl, fun _ _ => rfl⟩

theorem State.onlyStrand.trans (h : s.onlyStrand t key) (h' : t.onlyStrand u key) : s.onlyStrand u key := by
  obtain ⟨hrest, hothers⟩ := h
  obtain ⟨hrest', hothers'⟩ := h'
  refine ⟨?_, fun k hk => (hothers' k hk).trans (hothers k hk)⟩
  unfold State.sameRest at hrest hrest' ⊢
  exact (congrArg (fun x : State => { x with strands := s.strands, quarters := s.quarters, dieW := s.dieW, dieE := s.dieE }) hrest').trans hrest

/-- All memory is outside it. -/
theorem State.onlyStrand.sameMem (h : s.onlyStrand t key) : s.sameMem t := fun p a => by
  have hcells : ∀ q, t.cells q = s.cells q := fun q => by
    refine Eq.trans ?_ (congrArg (fun x : State => x.cells q) h.1)
    cases q <;> rfl
  rw [hcells]

theorem State.onlyStrand_onStrand (s : State) (key : Nat) (f : Strand → Strand) : s.onlyStrand (s.onStrand key f) key :=
  ⟨rfl, fun k hk => s.strand?_onStrand_other key k f hk⟩

theorem State.onlyStrand_setStrand (s : State) (key : Nat) (st : Strand) : s.onlyStrand (s.setStrand key st) key :=
  ⟨rfl, fun k hk => s.strand?_setStrand_other key k st hk⟩

theorem State.onlyStrand_route (s : State) (key : Nat) (e : FaultEv) : s.onlyStrand (s.route e) key := by
  unfold State.route State.onDie State.setDie
  split <;> exact ⟨rfl, fun _ _ => rfl⟩

theorem State.onlyStrand_noteIssue (s : State) (key slot : Nat) : s.onlyStrand (s.noteIssue key slot) key :=
  (s.onlyStrand_onStrand key fun st => st.noted slot s.clock.toNat).trans ⟨rfl, fun _ _ => rfl⟩

/-- What a fault is routed to. -/
theorem State.route_dieSt (s : State) (e : FaultEv) :
    ((s.route e).dieSt (dieOf e.core)).faults = (s.dieSt (dieOf e.core)).faults ++ [e] := by
  unfold State.route State.onDie State.setDie dieOf
  split
  · rfl
  · rfl

theorem State.route_strand? (s : State) (e : FaultEv) (k : Nat) : (s.route e).strand? k = s.strand? k := by
  unfold State.route State.onDie State.setDie
  split <;> rfl

theorem State.route_clock (s : State) (e : FaultEv) : (s.route e).clock = s.clock := by
  unfold State.route State.onDie State.setDie
  split <;> rfl

end

/-! ## Splits of a strand -/

section
variable {st : Strand} {i k : Nat}

/-- A slot that is not free is in the table. -/
theorem Strand.slot_lt (h : (st.split i).st ≠ .free) : i < st.ctx.splits.length := by
  by_contra hlen
  refine h ?_
  rw [Strand.split, List.getD_eq_default _ _ (Nat.not_lt.mp hlen)]
  rfl

theorem Strand.split_setSplit_other (p : Split) (h : k ≠ i) : (st.setSplit i p).split k = st.split k := by
  rw [Strand.split, Strand.setSplit, Strand.split, List.getD_eq_getElem?_getD, List.getD_eq_getElem?_getD, List.getElem?_set_ne h.symm]

end

/-! ## Traps -/

/-- A strand whose split has entered its handler. -/
def Strand.entered (st : Strand) (slot : Nat) (t : Trap) (tpc : VAddr) : Strand :=
  let ctx := st.ctx.trapRegs t slot tpc
  let sp := st.split slot
  { ({ st with ctx := ctx } : Strand).setSplit slot
      { sp with st := .trapped, pc := ctx.handler, stall := .none, words := [], pass := none, redo := none } with
    hold := some slot
    atEntry := some (st.snap { ctx with splits := ctx.splits.set slot { sp with st := .trapped, pc := tpc, words := [] } }) }

/-- A strand whose split has parked at a trap. -/
def Strand.parkedAt (st : Strand) (slot : Nat) (t : Trap) (tpc : VAddr) : Strand :=
  let sp := st.split slot
  ({ st with ctx := st.ctx.trapRegs t slot tpc } : Strand).setSplit slot
    { sp with st := .parked, pc := tpc, stall := .trap, words := [], priv := sp.privileged, park := some parkByTrap, pass := none, redo := none }

/-- The fault that a parked split's trap is for the policy (R373). -/
def State.trapFault (s : State) (key slot : Nat) (st : Strand) (t : Trap) (pc : VAddr) : FaultEv :=
  let inner := (st.split slot).privileged
  { part := st.part, wg := some st.wg, split := some (key, slot), op := none, core := coreOf key
    fault := { s.strandRec key st (if inner then 0x02 else t.cls) (if inner then 0x0B else t.sub) pc
        (if inner then .ofNat 64 (t.cls + 256 * t.sub) else 0) t.lanes with
      precise := true, op := if t.async then some t.oprec else none } }

section
variable {s : State} {key slot : Nat} {st : Strand} (hst : s.strand? key = some st) (t : Trap) (pc tpc : VAddr)
include hst

theorem State.takeTrap_enters (hen : st.ctx.hasHandler = true) (hp : (st.split slot).privileged = false) :
    s.takeTrap key slot t pc tpc = s.setStrand key (st.entered slot t tpc) := by
  rw [State.takeTrap, hst]
  refine if_pos ?_
  rw [hp]
  exact (Bool.and_true _).trans hen

theorem State.takeTrap_parks (h : st.ctx.hasHandler = false ∨ (st.split slot).privileged = true) : s.takeTrap key slot t pc tpc =
    (s.setStrand key (st.parkedAt slot t tpc)).route ((s.setStrand key (st.parkedAt slot t tpc)).trapFault key slot st t pc) := by
  rw [State.takeTrap, hst]
  refine if_neg ?_
  obtain h | h := h
  · exact ne_true_of_eq_false (Bool.and_eq_false_iff.mpr (.inl h))
  · rw [h]
    exact ne_true_of_eq_false (Bool.and_false _)

end

/-- The two ways of a trap. -/
theorem Strand.handler_or (st : Strand) (slot : Nat) : (st.ctx.hasHandler = true ∧ (st.split slot).privileged = false) ∨
    (st.ctx.hasHandler = false ∨ (st.split slot).privileged = true) := by
  cases st.ctx.hasHandler <;> cases (st.split slot).privileged <;> simp

section
variable {s : State} {c : Ic} (hi : s.issuer = some c) (len : Nat) (t : Trap)
include hi

/-- The address where TRET resumes after a trap. -/
def Ic.trapPc (c : Ic) (len : Nat) (t : Trap) : VAddr := if t.restart then c.sp.pc else c.sp.pc + .ofNat 57 (4 * len)

omit hi in
theorem State.conclude_trap : s.conclude c len (.trap t) = (s.takeTrap c.key c.slot t c.sp.pc (c.trapPc len t)).noteIssue c.key c.slot := rfl

/-- The trap of an issuing split that enters its handler. -/
theorem State.conclude_trap_enters (hen : c.st.ctx.hasHandler = true) (hp : c.sp.privileged = false) : s.conclude c len (.trap t) =
    (s.setStrand c.key (c.st.entered c.slot t (c.trapPc len t))).noteIssue c.key c.slot := by
  obtain ⟨-, hst, hsp, -⟩ := s.issuer_spec c hi
  rw [State.conclude_trap, State.takeTrap_enters hst t _ _ hen (hsp ▸ hp)]

/-- The trap of an issuing split that parks. -/
theorem State.conclude_trap_parks (h : c.st.ctx.hasHandler = false ∨ c.sp.privileged = true) : s.conclude c len (.trap t) =
    ((s.setStrand c.key (c.st.parkedAt c.slot t (c.trapPc len t))).route
      ((s.setStrand c.key (c.st.parkedAt c.slot t (c.trapPc len t))).trapFault c.key c.slot c.st t c.sp.pc)).noteIssue c.key c.slot := by
  obtain ⟨-, hst, hsp, -⟩ := s.issuer_spec c hi
  rw [State.conclude_trap, State.takeTrap_parks hst t _ _ (hsp ▸ h)]

/-- A trap changes the issuing strand, its quarter and the way to the policy. -/
theorem State.conclude_trap_onlyStrand : s.onlyStrand (s.conclude c len (.trap t)) c.key := by
  obtain ⟨-, hst, hsp, -⟩ := s.issuer_spec c hi
  refine State.onlyStrand.trans ?_ (State.onlyStrand_noteIssue _ c.key c.slot)
  obtain ⟨hen, hp⟩ | h := c.st.handler_or c.slot
  · rw [State.takeTrap_enters hst t _ _ hen hp]
    exact s.onlyStrand_setStrand c.key _
  · rw [State.takeTrap_parks hst t _ _ h]
    exact (s.onlyStrand_setStrand c.key _).trans (State.onlyStrand_route _ c.key _)

end

/-- An issuing split's slot is in the table. -/
theorem State.issuer_slot_lt {s : State} {c : Ic} (hi : s.issuer = some c) : c.slot < c.st.ctx.splits.length := by
  obtain ⟨-, -, hsp, hrun⟩ := s.issuer_spec c hi
  refine Strand.slot_lt ?_
  rw [← hsp]
  obtain h | h := hrun <;> rw [h] <;> decide

/-- The trap handler's address (R370). -/
theorem Ctx.handler_toNat (x : Ctx) : x.handler.toNat = x.tvec.toNat / 4 * 4 % 2 ^ 57 := BitVec.toNat_ofNat ..

/-- Settles O11. -/
theorem trapEntry : Obligations.TrapEntry := by
  unfold Obligations.TrapEntry
  intro s c len t hi u tpc die
  obtain ⟨-, hst, hsp, -⟩ := s.issuer_spec c hi
  have hslot := State.issuer_slot_lt hi
  have honly : s.onlyStrand u c.key := s.conclude_trap_onlyStrand hi len t
  have hother {st : Strand} {p : Split} (hs : st.ctx.splits = c.st.ctx.splits) (k : Nat) (hk : k ≠ c.slot) :
      (st.setSplit c.slot p).split k = c.st.split k :=
    (st.split_setSplit_other p hk).trans (congrArg (fun l => l.getD k Split.empty) hs)
  have hsame {st : Strand} {p : Split} (hs : st.ctx.splits = c.st.ctx.splits) : (st.setSplit c.slot p).split c.slot = p :=
    st.split_setSplit_same p (hs ▸ hslot)
  obtain ⟨hen, hp⟩ | hpark := hsp ▸ c.st.handler_or c.slot
  · have hu : u = (s.setStrand c.key (c.st.entered c.slot t tpc)).noteIssue c.key c.slot := s.conclude_trap_enters hi len t hen hp
    have hown : (c.st.entered c.slot t tpc).split c.slot = _ := hsame (st := { c.st with ctx := c.st.ctx.trapRegs t c.slot tpc }) rfl
    refine ⟨(c.st.entered c.slot t tpc).noted c.slot s.clock.toNat, ?_, honly.sameMem, honly.2, rfl, rfl, rfl, rfl, rfl, rfl, rfl, rfl, rfl, rfl,
      fun k hk => hother (st := { c.st with ctx := c.st.ctx.trapRegs t c.slot tpc }) rfl k hk, ?_, fun _ _ => ⟨?_, ?_, rfl, ?_⟩, fun h => ?_⟩
    · rw [hu, State.noteIssue_strand?, State.strand?_setStrand_same]
      rfl
    · rw [hsp]
      exact (congrArg Split.mask hown).trans rfl
    · exact congrArg Split.st hown
    · exact (congrArg (fun p => p.pc.toNat) hown).trans (Ctx.handler_toNat _)
    · rw [hu]
      rfl
    · obtain h | h := h
      · exact absurd hen (ne_true_of_eq_false h)
      · exact absurd h (ne_true_of_eq_false hp)
  · have hu : u = ((s.setStrand c.key (c.st.parkedAt c.slot t tpc)).route
        ((s.setStrand c.key (c.st.parkedAt c.slot t tpc)).trapFault c.key c.slot c.st t c.sp.pc)).noteIssue c.key c.slot :=
      s.conclude_trap_parks hi len t hpark
    have hown : (c.st.parkedAt c.slot t tpc).split c.slot = _ := hsame (st := { c.st with ctx := c.st.ctx.trapRegs t c.slot tpc }) rfl
    refine ⟨(c.st.parkedAt c.slot t tpc).noted c.slot s.clock.toNat, ?_, honly.sameMem, honly.2, rfl, rfl, rfl, rfl, rfl, rfl, rfl, rfl, rfl, rfl,
      fun k hk => hother (st := { c.st with ctx := c.st.ctx.trapRegs t c.slot tpc }) rfl k hk, ?_, fun hen hp => ?_,
      fun _ => ⟨?_, ?_, rfl, (s.setStrand c.key (c.st.parkedAt c.slot t tpc)).trapFault c.key c.slot c.st t c.sp.pc, ?_, rfl, rfl, rfl, rfl, rfl,
        fun hp => ?_, fun hp => ?_⟩⟩
    · rw [hu, State.noteIssue_strand?, State.route_strand?, State.strand?_setStrand_same, State.route_clock]
      rfl
    · rw [hsp]
      exact (congrArg Split.mask hown).trans rfl
    · obtain h | h := hpark
      · exact absurd hen (ne_true_of_eq_false h)
      · exact absurd h (ne_true_of_eq_false hp)
    · exact congrArg Split.st hown
    · exact congrArg Split.pc hown
    · rw [hu]
      exact State.route_dieSt (s.setStrand c.key (c.st.parkedAt c.slot t tpc))
        ((s.setStrand c.key (c.st.parkedAt c.slot t tpc)).trapFault c.key c.slot c.st t c.sp.pc)
    · rw [hsp] at hp
      simp only [State.trapFault, hp]
      exact ⟨rfl, rfl⟩
    · rw [hsp] at hp
      simp only [State.trapFault, hp]
      exact ⟨rfl, rfl, rfl⟩

end Sys2Proof.Machine
end

section
/-! PROOFS. The frames of the instructions on registers: what an issue that writes only some registers leaves as it was. -/

namespace Sys2Proof.Machine

open Sys2Proof

/-! ## Register files -/

section
variable {r q : Regs} {ds es : List Opnd}

theorem Regs.sameBut.mono (h : r.sameBut q ds) (hds : ∀ o ∈ ds, o ∈ es) : r.sameBut q es := by
  obtain ⟨hv, hs, hp, hq, ht⟩ := h
  exact ⟨fun n hn => hv n fun h => hn (hds _ h), fun n hn => hs n fun h => hn (hds _ h), fun n hn => hp n fun h => hn (hds _ h),
    fun n hn => hq n fun h => hn (hds _ h), fun n hn => ht n fun h => hn (hds _ h)⟩

variable (hr : r.wf = true)
include hr

theorem Regs.sameBut_pendS (n : Nat) (f : Form) : r.sameBut (r.pendS n f) [.s n] := by
  obtain ⟨-, hs, -⟩ := r.wf_iff.mp hr
  refine ⟨fun _ _ => rfl, fun k hk => ?_, fun _ _ => rfl, fun _ _ => rfl, fun _ _ => rfl⟩
  exact mapGet_mapPut_other (SReg.val 0) r.s n k (.pend f) hs fun he => hk (by simp [he])

theorem Regs.wf_pendS (n : Nat) (f : Form) : (r.pendS n f).wf = true := by
  obtain ⟨hv, hs, hp, hq, ht⟩ := r.wf_iff.mp hr
  exact (Regs.wf_iff (r.pendS n f)).mpr ⟨hv, mapSorted_mapPut (SReg.val 0) r.s n (.pend f) hs, hp, hq, ht⟩

/-- A pendant form is written into the register or pair of its width. -/
theorem Regs.writeP_spec (n : Nat) (f : Form) : r.sameBut (r.writeP n f) (vdest n f.wide) ∧ (r.writeP n f).wf = true := by
  have hnote : (r.note n f).wf = true := hr
  have hsame : r.sameBut (r.note n f) (vdest n f.wide) := Regs.sameBut_refl r _
  cases hw : f.wide with
  | false =>
    rw [hw] at hsame
    simp only [Regs.writeP, hw, Bool.false_eq_true, if_false]
    have hun := Regs.wf_unpair hnote n
    exact ⟨hsame.trans ((Regs.sameBut_unpair hnote n _).trans (Regs.sameBut_setV hun (by simp [vdest]) _ _)), Regs.wf_setV hun _ _ _⟩
  | true =>
    rw [hw] at hsame
    simp only [Regs.writeP, hw, if_true]
    have hlo := Regs.wf_setV hnote n (.p ((r.note n f).slotFor n) f) false
    exact ⟨hsame.trans ((Regs.sameBut_setV hnote (by simp [vdest]) _ _).trans (Regs.sameBut_setV hlo (by simp [vdest]) _ _)),
      Regs.wf_setV hlo _ _ _⟩

end

/-! ## Strands -/

/-- The bits of MODE beside FLAGS. -/
def modeRest (m : DWord) : DWord := m &&& 0xFFFFFFFF0000FFFF

theorem orMode_zero (m : DWord) : orMode m 0 = m := BitVec.or_zero

/-- Flags raised change FLAGS alone (R70). -/
theorem modeRest_orMode (m : DWord) (fl : Half) : modeRest (orMode m fl) = modeRest m := by
  have hmask : (0xFFFFFFFF0000FFFF : DWord) = ~~~((BitVec.allOnes 16).setWidth 64 <<< 16) := by decide
  have hflags : (fl.setWidth 64 <<< 16) &&& (0xFFFFFFFF0000FFFF : DWord) = 0#64 := by
    rw [hmask]
    refine BitVec.eq_of_getLsbD_eq fun i hi => ?_
    rw [BitVec.getLsbD_and, BitVec.getLsbD_not, BitVec.getLsbD_shiftLeft, BitVec.getLsbD_shiftLeft, BitVec.getLsbD_setWidth,
      BitVec.getLsbD_setWidth, BitVec.getLsbD_allOnes, BitVec.getLsbD_zero]
    by_cases h : i - 16 < 16
    · rw [decide_eq_true h]
      have h64 : i - 16 < 64 := by omega
      cases decide (i < 16) <;> simp [hi, h64]
    · rw [BitVec.getLsbD_of_ge fl (i - 16) (Nat.not_lt.mp h)]
      simp
  rw [modeRest, modeRest, orMode, BitVec.and_or_distrib_right, hflags, BitVec.or_zero]

/-- The issuing strand with other registers and another MODE. -/
def Ic.strandWith (c : Ic) (r : Regs) (m : DWord) : Strand := { c.st with ctx := { c.st.ctx with regs := r, mode := m } }

/-- A strand that keeps what a frame keeps of its own. -/
def Ic.keeps (c : Ic) (st : Strand) (ds : List Opnd) (flags : Bool) : Prop :=
  c.regs.sameBut st.ctx.regs ds ∧ st.ctx.regs.wf = true ∧
    (flags = false → st.ctx.mode = c.st.ctx.mode) ∧
    (st.ctx.mode &&& 0xFFFFFFFF0000FFFF) = (c.st.ctx.mode &&& 0xFFFFFFFF0000FFFF) ∧
    st.ctx.stack = c.st.ctx.stack ∧ st.ctx.gang = c.st.ctx.gang ∧ st.ctx.tvec = c.st.ctx.tvec ∧
    st.ctx.spillp = c.st.ctx.spillp ∧ st.ctx.dbgmb = c.st.ctx.dbgmb ∧ st.savep = c.st.savep ∧
    st.ops = c.st.ops ∧ st.syms = c.st.syms ∧ st.tiles = c.st.tiles ∧
    (∀ k, k ≠ c.slot → st.split k = c.st.split k) ∧
    ((st.split c.slot).st = c.sp.st → st.ctx.tcause = c.st.ctx.tcause ∧ st.ctx.tpc = c.st.ctx.tpc ∧
      st.ctx.tinfo = c.st.ctx.tinfo ∧ st.ctx.tmask = c.st.ctx.tmask)

section
variable {s t u : State} {c : Ic} {st : Strand} {ds es : List Opnd} {flags : Bool} {r : Regs} {m : DWord}

theorem Ic.frame_of (h : s.onlyStrand t c.key) (hst : t.strand? c.key = some st) (hkeeps : c.keeps st ds flags) : c.frame s t ds flags :=
  ⟨h.sameMem, h.1, h.2, st, hst, hkeeps⟩

/-- The issuing split after a change of registers and MODE. -/
theorem Ic.keeps_split (hregs : c.regs.sameBut r ds) (hwf : r.wf = true) (hmode : flags = false → m = c.st.ctx.mode)
    (hrest : modeRest m = modeRest c.st.ctx.mode) (p : Split) : c.keeps ((c.strandWith r m).setSplit c.slot p) ds flags :=
  ⟨hregs, hwf, hmode, hrest, rfl, rfl, rfl, rfl, rfl, rfl, rfl, rfl, rfl,
    fun _ hk => Strand.split_setSplit_other (st := c.strandWith r m) p hk, fun _ => ⟨rfl, rfl, rfl, rfl⟩⟩

/-! ## Effects that write registers -/

/-- Of the issuing strand only registers `ds` change, and FLAGS where flags may be raised; nothing else does. -/
def Ic.writesOnly (c : Ic) (s u : State) (ds : List Opnd) (flags : Bool) : Prop :=
  s.onlyStrand u c.key ∧ ∃ r m, u.strand? c.key = some (c.strandWith r m) ∧ c.regs.sameBut r ds ∧ r.wf = true ∧
    (flags = false → m = c.st.ctx.mode) ∧ modeRest m = modeRest c.st.ctx.mode

/-- What an instruction that writes only registers comes to. -/
def Ic.framed (c : Ic) (s : State) (ds : List Opnd) (flags : Bool) : Act → Prop
  | .done u => c.writesOnly s u ds flags
  | .wait u _ | .waitSym u _ => u = s
  | .trap _ => True
  | .jump .. | .stay _ => False

theorem Ic.writesOnly.mono (h : c.writesOnly s u ds flags) (hds : ∀ o ∈ ds, o ∈ es) : c.writesOnly s u es flags := by
  obtain ⟨honly, r, m, hu, hregs, hrest⟩ := h
  exact ⟨honly, r, m, hu, hregs.mono hds, hrest⟩

/-- Flags raised after a write. -/
theorem Ic.writesOnly.raise (h : c.writesOnly s u ds flags) {fl : Half} (hfl : flags = false → fl = 0) :
    c.writesOnly s (u.raise c.key fl) ds flags := by
  obtain ⟨honly, r, m, hu, hregs, hwf, hmode, hrest⟩ := h
  refine ⟨honly.trans (u.onlyStrand_onStrand c.key _), r, orMode m fl, ?_, hregs, hwf, fun hf => ?_, (modeRest_orMode m fl).trans hrest⟩
  · rw [State.raise, State.strand?_onStrand_same, hu]
    rfl
  · rw [hfl hf, orMode_zero, hmode hf]

/-- A predicate written after another register. -/
theorem Ic.writesOnly.setP (h : c.writesOnly s u ds flags) {n : Nat} (hn : Opnd.p n ∈ ds) (q : Mask) :
    c.writesOnly s (u.onStrand c.key fun st => { st with ctx := { st.ctx with regs := st.ctx.regs.setP n q } }) ds flags := by
  obtain ⟨honly, r, m, hu, hregs, hwf, hrest⟩ := h
  refine ⟨honly.trans (u.onlyStrand_onStrand c.key _), r.setP n q, m, ?_,
    hregs.trans ((Regs.sameBut_setP hwf n q).mono (by simpa using hn)), Regs.wf_setP hwf n q, hrest⟩
  rw [State.strand?_onStrand_same, hu]
  rfl

section
variable (hst : s.strand? c.key = some c.st)
include hst

theorem Ic.writesOnly_putRegs (hregs : c.regs.sameBut r ds) (hr : r.wf = true) : c.writesOnly s (s.putRegs c r) ds flags := by
  refine ⟨s.onlyStrand_onStrand c.key _, r, c.st.ctx.mode, ?_, hregs, hr, fun _ => rfl, rfl⟩
  rw [State.putRegs, State.strand?_onStrand_same, hst]
  rfl

variable (hwf : c.regs.wf = true)
include hwf

theorem Ic.writesOnly_self : c.writesOnly s s ds flags :=
  ⟨s.onlyStrand_refl c.key, c.regs, c.st.ctx.mode, hst, Regs.sameBut_refl _ _, hwf, fun _ => rfl, rfl⟩

end

/-! ## The end of an issue that writes only registers -/

/-- A trap moves the issuing split to another state and sets the trap registers. -/
theorem Ic.keeps_moved (hi : s.issuer = some c) (hwf : c.regs.wf = true) {p : Split} {cause pc info : DWord} {lanes : Mask}
    (hctx : st.ctx = { c.st.ctx with tcause := cause, tpc := pc, tinfo := info, tmask := lanes
                                     splits := c.st.ctx.splits.set c.slot p })
    (hown : st.savep = c.st.savep ∧ st.ops = c.st.ops ∧ st.syms = c.st.syms ∧ st.tiles = c.st.tiles) (hp : p.st ≠ c.sp.st) :
    c.keeps st ds flags := by
  have hslot := State.issuer_slot_lt hi
  have hsplit (k : Nat) : st.split k = (c.st.setSplit c.slot p).split k := by
    rw [Strand.split, hctx]
    rfl
  have hsame : (st.split c.slot).st ≠ c.sp.st := by
    rw [hsplit, Strand.split_setSplit_same _ _ hslot]
    exact hp
  obtain ⟨hsavep, hops, hsyms, htiles⟩ := hown
  rw [Ic.keeps, hctx]
  exact ⟨Regs.sameBut_refl _ _, hwf, fun _ => rfl, rfl, rfl, rfl, rfl, rfl, rfl, hsavep, hops, hsyms, htiles,
    fun k hk => (hsplit k).trans (Strand.split_setSplit_other p hk), fun h => absurd h hsame⟩

/-- What a trap leaves of its strand. -/
theorem Ic.frame_trap (hi : s.issuer = some c) (hwf : c.regs.wf = true) (len : Nat) (t : Trap) :
    c.frame s (s.conclude c len (.trap t)) ds flags := by
  obtain ⟨-, hst, hsp, hrun⟩ := s.issuer_spec c hi
  have honly := s.conclude_trap_onlyStrand hi len t
  obtain ⟨hen, hp⟩ | hpark := hsp ▸ c.st.handler_or c.slot
  · refine Ic.frame_of honly (st := (c.st.entered c.slot t (c.trapPc len t)).noted c.slot s.clock.toNat) ?_
      (Ic.keeps_moved hi hwf rfl ⟨rfl, rfl, rfl, rfl⟩ fun h => ?_)
    · rw [s.conclude_trap_enters hi len t hen hp, State.noteIssue_strand?, State.strand?_setStrand_same]
      rfl
    · rw [Split.privileged, ← h] at hp
      exact absurd hp (by simp)
  · refine Ic.frame_of honly (st := (c.st.parkedAt c.slot t (c.trapPc len t)).noted c.slot s.clock.toNat) ?_
      (Ic.keeps_moved hi hwf rfl ⟨rfl, rfl, rfl, rfl⟩ fun h => ?_)
    · rw [s.conclude_trap_parks hi len t hpark, State.noteIssue_strand?, State.route_strand?, State.strand?_setStrand_same,
        State.route_clock]
      rfl
    · obtain hr | hr := hrun <;> rw [hr] at h <;> cases h

/-- A strand whose split has parked at the delivery point of a suspended operation. -/
def Strand.parkedFor (st : Strand) (slot : Nat) (o : Op) : Strand :=
  let sp := st.split slot
  let why := o.susp.getD (0x03, 0x01)
  let t : Trap := { cls := why.1, sub := why.2, code := 0, lanes := o.lanesLeft st.syms, restart := true, async := true,
                    oprec := .ofNat 16 o.recNo }
  let ctx := { st.ctx.trapRegs t slot sp.pc with tinfo := tinfoOf t (match o.group with | some w => w.toNat | none => 0) }
  let sp' := { sp with st := .parked, stall := .trap, words := [], priv := sp.st == .trapped,
                       park := some { group := o.group, byTrap := false, op := some o.id, redo := none, resume := false } }
  { st with ctx := { ctx with splits := ctx.splits.set slot sp' } }

theorem State.parkAsync_eq (s : State) (key slot : Nat) (o : Op) : s.parkAsync key slot o = s.onStrand key fun st => st.parkedFor slot o := by
  unfold State.parkAsync Strand.parkedFor
  refine congrArg (s.onStrand key) (funext fun st => ?_)
  generalize o.susp.getD (0x03, 0x01) = why
  obtain ⟨cls, sub⟩ := why
  rfl

/-- Of the strand's context the trap registers and the split's slot change. -/
theorem Strand.parkedFor_ctx (st : Strand) (slot : Nat) (o : Op) : ∃ cause pc info lanes p, p.st = .parked ∧
    (st.parkedFor slot o).ctx = { st.ctx with tcause := cause, tpc := pc, tinfo := info, tmask := lanes
                                              splits := st.ctx.splits.set slot p } := by
  unfold Strand.parkedFor Ctx.trapRegs
  exact ⟨_, _, _, _, _, rfl, rfl⟩

theorem Strand.parkedFor_own (st : Strand) (slot : Nat) (o : Op) : (st.parkedFor slot o).savep = st.savep ∧
    (st.parkedFor slot o).ops = st.ops ∧ (st.parkedFor slot o).syms = st.syms ∧ (st.parkedFor slot o).tiles = st.tiles := by
  unfold Strand.parkedFor
  exact ⟨rfl, rfl, rfl, rfl⟩

/-- An act that writes only registers leaves the frame. -/
theorem Ic.frame_of_framed (hi : s.issuer = some c) (hwf : c.regs.wf = true) (len : Nat) {a : Act} (ha : c.framed s ds flags a) :
    c.frame s (s.conclude c len a) ds flags := by
  obtain ⟨-, hst, -, hrun⟩ := s.issuer_spec c hi
  have hstall (p : Split) : c.keeps (c.st.setSplit c.slot p) ds flags :=
    Ic.keeps_split (r := c.regs) (m := c.st.ctx.mode) (Regs.sameBut_refl _ _) hwf (fun _ => rfl) rfl p
  cases a with
  | done u =>
    obtain ⟨honly, r, m, hu, hregs, hr, hmode, hrest⟩ := ha
    refine Ic.frame_of (honly.trans ((u.onlyStrand_onStrand c.key _).trans (State.onlyStrand_noteIssue _ c.key c.slot)))
      (st := ((c.strandWith r m).onSplit c.slot fun sp => sp.advance (c.nextPc len)).noted c.slot u.clock.toNat) ?_
      (Ic.keeps_split hregs hr hmode hrest _)
    rw [State.conclude, State.noteIssue_strand?, State.strand?_onStrand_same, hu]
    rfl
  | trap t => exact Ic.frame_trap hi hwf len t
  | wait u why =>
    obtain rfl : u = s := ha
    refine Ic.frame_of (u.onlyStrand_onStrand c.key _) (st := c.st.onSplit c.slot fun sp => { sp with stall := why }) ?_ (hstall _)
    rw [State.conclude, State.strand?_onStrand_same, hst]
    rfl
  | waitSym u syms =>
    obtain rfl : u = s := ha
    rw [State.conclude]
    split
    next o _ =>
      obtain ⟨_, _, _, _, p, hp, hctx⟩ := c.st.parkedFor_ctx c.slot o
      refine Ic.frame_of (u.onlyStrand_onStrand c.key _) (st := c.st.parkedFor c.slot o) ?_
        (Ic.keeps_moved hi hwf hctx (c.st.parkedFor_own c.slot o) fun h => ?_)
      · rw [State.parkAsync_eq, State.strand?_onStrand_same, hst]
        rfl
      · rw [hp] at h
        obtain hr | hr := hrun <;> rw [hr] at h <;> cases h
    · refine Ic.frame_of (u.onlyStrand_onStrand c.key _) (st := c.st.onSplit c.slot fun sp => { sp with stall := .pendant }) ?_ (hstall _)
      rw [State.strand?_onStrand_same, hst]
      rfl
  | jump => exact ha.elim
  | stay => exact ha.elim

end

end Sys2Proof.Machine
end

section
/-! PROOFS. The frames of the scalar, predicate and vector instructions (R143, R163, R179, R182, R186 to R204). -/

namespace Sys2Proof.Machine

open Sys2Proof

/-! ## What the shared operations of an issue write -/

/-- A computation whose lanes raise no flags raises none. -/
theorem VecOp.result_flags_zero {o : VecOp} (h : ∀ l vs, (o.f l vs).2 = 0) (act : Mask) (old : Off) (srcs : List Off) :
    (o.result act old srcs).2 = 0 := by
  have hlanes (ls : List Nat) : (ls.map fun l => if laneIn act l then o.f l (srcs.map fun k => k.at l) else (old.at l, 0)).foldl
      (fun a x => a ||| x.2) (0 : Half) = 0 := by
    induction ls with
    | nil => rfl
    | cons l ls ih =>
      rw [List.map_cons, List.foldl_cons]
      have hl : (if laneIn act l then o.f l (srcs.map fun k => k.at l) else (old.at l, 0)).2 = 0 := by
        split
        · exact h l _
        · rfl
      rw [hl]
      exact ih
  unfold VecOp.result
  by_cases hfull : (decide (act = fullMask) && !o.perLane) = true
  · simp only [hfull, if_true]
    by_cases hu : srcs.all Off.isU = true
    · simp only [hu, if_true]
      exact h 0 _
    · rw [if_neg hu]
      cases o.aff srcs with
      | some r => rfl
      | none =>
        generalize lanes256 = ls
        exact hlanes ls
  · simp only [hfull]
    generalize lanes256 = ls
    exact hlanes ls

/-- No element raises a flag, so no lane does. -/
theorem perElem_flags_zero {t : Ty} {g : Nat → List Nat → Nat × Half} (hg : ∀ k xs, (g k xs).2 = 0) (l : Nat) (xs : List DWord) :
    (perElem t l xs g).2 = 0 := by
  rw [perElem]
  split
  · exact (congrArg₂ (· ||| ·) (hg l _) (hg (l + 256) _)).trans BitVec.or_zero
  · exact hg l _

section
variable {s : State} {c : Ic} {ds : List Opnd} {flags : Bool} {x : Opnds} {n : Nat}

theorem Ic.framed_ite {p : Prop} [Decidable p] {a b : Act} (ha : c.framed s ds flags a) (hb : c.framed s ds flags b) :
    c.framed s ds flags (if p then a else b) := by
  split
  · exact ha
  · exact hb

theorem Ic.framed_known {ops : List (Opnd × Bool)} {k : List Off → Act} (h : ∀ offs, c.framed s ds flags (k offs)) :
    c.framed s ds flags (c.known s x ops k) := by
  refine Ic.framed_ite rfl ?_
  dsimp only
  split
  · rfl
  · exact h _

theorem Ic.framed_seedReady {k : Act} (h : c.framed s ds flags k) : c.framed s ds flags (c.seedReady x s k) :=
  Ic.framed_ite (Ic.framed_ite rfl (Ic.framed_ite rfl h)) h

theorem Ic.framed_also {a : Act} {f : State → State} (ha : c.framed s ds flags a)
    (hf : ∀ u, c.writesOnly s u ds flags → c.writesOnly s (f u) ds flags) : c.framed s ds flags (a.also f) := by
  cases a with
  | done u => exact hf u ha
  | _ => exact ha

theorem Ic.framed_reduce {dups : Bool} {k : Mask → Off → Off → Act} (h : ∀ act a b, c.framed s ds flags (k act a b)) :
    c.framed s ds flags (c.reduce s x dups k) :=
  Ic.framed_known fun _ => Ic.framed_ite trivial (Ic.framed_ite trivial (h _ _ _))

variable (hst : s.strand? c.key = some c.st) (hwf : c.regs.wf = true)
include hst hwf

theorem Ic.framed_done : c.framed s ds flags (.done s) := Ic.writesOnly_self hst hwf

theorem Ic.framed_toS (hn : Opnd.s n ∈ ds) (v : DWord) : c.framed s ds flags (c.toS s n v) :=
  Ic.framed_ite rfl (Ic.writesOnly_putRegs hst ((Regs.sameBut_setS hwf n v).mono (by simpa using hn)) (Regs.wf_setS hwf n v))

theorem Ic.framed_toQ (hn : Opnd.q n ∈ ds) (b : Bool) : c.framed s ds flags (c.toQ s n b) :=
  Ic.writesOnly_putRegs hst ((Regs.sameBut_setQ hwf n b).mono (by simpa using hn)) (Regs.wf_setQ hwf n b)

theorem Ic.framed_toP (hn : Opnd.p n ∈ ds) (act m : Mask) : c.framed s ds flags (c.toP s act n m) :=
  Ic.writesOnly_putRegs hst ((Regs.sameBut_setP hwf n _).mono (by simpa using hn)) (Regs.wf_setP hwf n _)

theorem Ic.framed_writeFormS (hn : Opnd.s n ∈ ds) (f : Form) : c.framed s ds flags (c.writeFormS s n f) :=
  Ic.framed_ite rfl (Ic.framed_ite rfl
    (Ic.writesOnly_putRegs hst ((Regs.sameBut_pendS hwf n f).mono (by simpa using hn)) (Regs.wf_pendS hwf n f)))

theorem Ic.framed_writeForm {f : Form} (hds : ∀ o ∈ vdest n f.wide, o ∈ ds) (copies : List Nat) :
    c.framed s ds flags (c.writeForm s n f copies) := by
  obtain ⟨hsame, hr⟩ := Regs.writeP_spec hwf n f
  exact Ic.framed_ite (Ic.framed_ite trivial rfl) (Ic.framed_ite rfl (Ic.writesOnly_putRegs hst (hsame.mono hds) hr))

/-- A vector value written where it fits. -/
theorem Ic.framed_writeV {w : Bool} (hds : ∀ o ∈ vdest n w, o ∈ ds) (v : Off) :
    c.writesOnly s (s.putRegs c (c.regs.writeV n w v)) ds flags :=
  Ic.writesOnly_putRegs hst ((Regs.sameBut_writeV hwf n w v).mono hds) (Regs.wf_writeV hwf n w v)

/-- A per-lane instruction writes its destination; a form that it records is as wide as its destination. -/
theorem Ic.framed_vec {w : Bool} {ops : List (Opnd × Bool)} {o : VecOp} (hds : ∀ y ∈ vdest n w, y ∈ ds)
    (hflags : flags = false → ∀ l vs, (o.f l vs).2 = 0) (hpnd : ∀ r k srcs f copies, o.pnd r k srcs = some (f, copies) → f.wide = w) :
    c.framed s ds flags (c.vec s x n w ops o) := by
  refine Ic.framed_ite rfl ?_
  dsimp only
  split
  · refine Ic.framed_ite ?_ rfl
    split
    next f copies hf => exact Ic.framed_writeForm hst hwf (by rw [hpnd _ _ _ _ _ hf]; exact hds) copies
    · rfl
  · exact Ic.framed_ite rfl (Ic.framed_ite trivial
      ((Ic.framed_writeV hst hwf hds _).raise fun hf => VecOp.result_flags_zero (hflags hf) _ _ _))

/-- A per-lane instruction that records no form. -/
theorem Ic.framed_vec_plain {w : Bool} {ops : List (Opnd × Bool)} {f : Nat → List DWord → DWord × Half} {aff : List Off → Option Off}
    {perLane : Bool} (hds : ∀ y ∈ vdest n w, y ∈ ds) (hflags : flags = false → ∀ l vs, (f l vs).2 = 0) :
    c.framed s ds flags (c.vec s x n w ops { f := f, aff := aff, perLane := perLane }) :=
  Ic.framed_vec hst hwf hds hflags nofun

theorem Ic.framed_exchange {ops : List (Opnd × Bool)} {g : List Off → Nat → DWord} (hds : ∀ y ∈ vdest x.d.vnum x.t.is64, y ∈ ds) :
    c.framed s ds flags (c.exchange s x ops g) :=
  Ic.framed_known fun _ => Ic.framed_vec_plain hst hwf hds fun _ _ _ => rfl

end

/-! ## The frame of an outcome -/

/-- Whatever comes of an issue, only registers `ds` change, and FLAGS where flags may be raised. -/
def FramedBy (s : State) (ds : List Opnd) (flags : Bool) (o : Host.Outcome State Fault Refusal) : Prop :=
  ∀ c t, s.issuer = some c → c.regs.wf = true → o = .next t → c.frame s t ds flags

section
variable {s : State} {ds : List Opnd} {flags : Bool} {len : Nat} {x : Opnds} {t : Ty}

theorem framedBy_issue {f : Ic → Act} (h : ∀ c : Ic, s.strand? c.key = some c.st → c.regs.wf = true → c.framed s ds flags (f c)) :
    FramedBy s ds flags (issue s len f) := by
  intro c u hi hwf hu
  obtain ⟨-, hst, -⟩ := s.issuer_spec c hi
  rw [issue_some s len f c hi] at hu
  cases hu
  exact Ic.frame_of_framed hi hwf len (h c hst hwf)

/-! ## Scalars and predicates -/

theorem framedBy_sintOp {ops : List Opnd} {g : List DWord → DWord} : FramedBy s [.s x.d.snum] flags (sintOp s len x ops g) :=
  framedBy_issue fun _ hst hwf => Ic.framed_known fun _ => Ic.framed_toS hst hwf (List.mem_singleton_self _) _

theorem framedBy_sint2 {g : Int → Int → Int} : FramedBy s [.s x.d.snum] flags (sint2 s len x t g) := framedBy_sintOp

theorem framedBy_sshiftOp {g : Ty → Int → Nat → Int} : FramedBy s [.s x.d.snum] flags (sshiftOp s len x t g) := framedBy_sintOp

theorem framedBy_smovOp : FramedBy s [.s x.d.snum] flags (smovOp s len x t) := framedBy_sintOp

/-- SADD and SMUL write a value or a form. -/
theorem framedBy_sintPnd {g : Int → Int → Int} {h : Form → Off → Form} : FramedBy s [.s x.d.snum] flags (sintPnd s len x t g h) := by
  refine framedBy_issue fun c hst hwf => Ic.framed_ite rfl ?_
  split
  · exact Ic.framed_ite (Ic.framed_writeFormS hst hwf (List.mem_singleton_self _) _) rfl
  · exact Ic.framed_ite (Ic.framed_writeFormS hst hwf (List.mem_singleton_self _) _) rfl
  · exact Ic.framed_toS hst hwf (List.mem_singleton_self _) _
  · rfl

theorem framedBy_saddOp : FramedBy s [.s x.d.snum] flags (saddOp s len x t) := framedBy_sintPnd

theorem framedBy_smulOp : FramedBy s [.s x.d.snum] flags (smulOp s len x t) := framedBy_sintPnd

theorem framedBy_qsetOp {sel : Nat} : FramedBy s [.q x.d.qnum] flags (qsetOp s len x t sel) :=
  framedBy_issue fun _ hst hwf => Ic.framed_known fun _ => Ic.framed_toQ hst hwf (List.mem_singleton_self _) _

/-- An instruction that writes a scalar at once. -/
theorem framedBy_toS {v : Ic → DWord} : FramedBy s [.s x.d.snum] flags (issueX s x fun c => c.toS s x.d.snum (v c)) :=
  framedBy_issue fun _ hst hwf => Ic.framed_toS hst hwf (List.mem_singleton_self _) _

theorem framedBy_nop : FramedBy s ds flags (issue s len fun _ => .done s) := framedBy_issue fun _ hst hwf => Ic.framed_done hst hwf

theorem framedBy_execVote : FramedBy s [.q x.d.qnum] flags (execVote x s) := by
  refine framedBy_issue fun c hst hwf => ?_
  dsimp only
  split
  · exact Ic.framed_toQ hst hwf (List.mem_singleton_self _) _
  · exact Ic.framed_toQ hst hwf (List.mem_singleton_self _) _
  · exact Ic.framed_known fun _ => Ic.framed_toQ hst hwf (List.mem_singleton_self _) _

theorem framedBy_execPndwait : FramedBy s ds flags (execPndwait x s) := by
  refine framedBy_issue fun c hst hwf => ?_
  split
  · split
    · rfl
    · exact Ic.framed_done hst hwf
  · exact Ic.framed_ite rfl (Ic.framed_done hst hwf)
  · exact Ic.framed_ite (Ic.framed_done hst hwf) rfl

theorem framedBy_execPset : FramedBy s [.p x.d.pnum] flags (execPset x s) :=
  framedBy_issue fun _ hst hwf => Ic.framed_known fun _ => Ic.framed_toP hst hwf (List.mem_singleton_self _) _ _

theorem framedBy_execPlog : FramedBy s [.p x.d.pnum] flags (execPlog x s) :=
  framedBy_issue fun _ hst hwf => Ic.framed_toP hst hwf (List.mem_singleton_self _) _ _

theorem framedBy_execSsel : FramedBy s [.s x.d.snum] flags (execSsel x s) :=
  framedBy_issue fun _ hst hwf => Ic.framed_known fun _ => Ic.framed_toS hst hwf (List.mem_singleton_self _) _

end

/-- An instruction that writes a scalar predicate at once. -/
theorem framedBy_toQ {s : State} {flags : Bool} {x : Opnds} {b : Ic → Bool} :
    FramedBy s [.q x.d.qnum] flags (issueX s x fun c => c.toQ s x.d.qnum (b c)) :=
  framedBy_issue fun _ hst hwf => Ic.framed_toQ hst hwf (List.mem_singleton_self _) _

/-- The scalar and predicate instructions, in the order in which `scalarDests` lists them. -/
theorem framedBy_scalar {i : Instr} {ds : List Opnd} (h : i.scalarDests = some ds) (s : State) : FramedBy s ds false (exec i s) := by
  unfold Instr.scalarDests at h
  split at h <;> cases h
  all_goals simp only [exec_smov, exec_sclz, exec_spopc, exec_sadd, exec_ssub, exec_smul, exec_smulh, exec_sdiv, exec_srem, exec_sand,
      exec_sor, exec_sxor, exec_sshl, exec_sshr, exec_ssar, exec_smin, exec_smax, exec_ssel, exec_smad, exec_sbfe, exec_sbfi,
      exec_pcnt, exec_pfirst, exec_clock, exec_pndq, exec_vshq, exec_saddBase, exec_saddImmBase, exec_saddLit, exec_ssubBase,
      exec_smulBase, exec_sandBase, exec_sorBase, exec_sxorBase, exec_sshlBase, exec_sshrBase, exec_smovBase,
      exec_smovImmBase, exec_smovLit, exec_qsetLtBase, exec_qsetEqBase, exec_qset, exec_qlog, exec_vote, exec_pset, exec_plog,
      exec_nop, exec_nopBase, exec_pndwait, execSmov, execSclz, execSpopc, execSadd, execSsub, execSmul, execSmulh, execSdiv,
      execSrem, execSand, execSor, execSxor, execSshl, execSshr, execSsar, execSmin, execSmax, execSmad, execSbfe, execSbfi,
      execPcnt, execPfirst, execClock, execPndq, execVshq, execSaddBase, execSaddImmBase, execSaddLit, execSsubBase,
      execSmulBase, execSandBase, execSorBase, execSxorBase, execSshlBase, execSshrBase, execSmovBase, execSmovImmBase,
      execSmovLit, execQsetLtBase, execQsetEqBase, execQset, execQlog, execNop, execNopBase]
  · exact framedBy_smovOp
  iterate 2 exact framedBy_sintOp
  · exact framedBy_saddOp
  · exact framedBy_sint2
  · exact framedBy_smulOp
  iterate 6 exact framedBy_sint2
  iterate 3 exact framedBy_sshiftOp
  iterate 2 exact framedBy_sint2
  · exact framedBy_execSsel
  iterate 3 exact framedBy_sintOp
  iterate 5 exact framedBy_toS
  iterate 3 exact framedBy_saddOp
  · exact framedBy_sint2
  · exact framedBy_smulOp
  iterate 3 exact framedBy_sint2
  iterate 2 exact framedBy_sshiftOp
  iterate 3 exact framedBy_smovOp
  iterate 3 exact framedBy_qsetOp
  · exact framedBy_toQ
  · exact framedBy_execVote
  · exact framedBy_execPset
  · exact framedBy_execPlog
  iterate 2 exact framedBy_nop
  · exact framedBy_execPndwait

/-- Settles O12. -/
theorem scalarFrame : Obligations.ScalarFrame :=
  fun s t c _ _ hi hwf hds hexec => framedBy_scalar hds s c t hi hwf hexec

end Sys2Proof.Machine
end

section
/-! PROOFS. The frames of the vector instructions (R70, R163, R186 to R204). -/

namespace Sys2Proof.Machine

open Sys2Proof

section
variable {s : State} {ds : List Opnd} {flags : Bool} {len : Nat} {x : Opnds} {t : Ty} {w : Bool}

/-! ## Integers -/

/-- A per-lane instruction that records no form. -/
theorem framedBy_vecOp {ops : List (Opnd × Bool)} {f : Nat → List DWord → DWord × Half} {aff : List Off → Option Off} {perLane : Bool}
    (hflags : ∀ l vs, (f l vs).2 = 0) :
    FramedBy s (vdest x.d.vnum w) flags (vecOp s len x w ops { f := f, aff := aff, perLane := perLane }) :=
  framedBy_issue fun _ hst hwf => Ic.framed_vec_plain hst hwf (fun _ h => h) fun _ => hflags

theorem framedBy_vint2 {g : Int → Int → Int} : FramedBy s (vdest x.d.vnum t.is64) flags (vint2 s len x t g) :=
  framedBy_vecOp fun _ _ => rfl

theorem framedBy_vint1 {g : Int → Int} : FramedBy s (vdest x.d.vnum t.is64) flags (vint1 s len x t g) :=
  framedBy_vecOp fun _ _ => rfl

theorem framedBy_vshrOp : FramedBy s (vdest x.d.vnum t.is64) flags (vshrOp s len x t) := framedBy_vecOp fun _ _ => rfl

theorem framedBy_vlaneOp : FramedBy s (vdest x.d.vnum false) flags (vlaneOp s len x) := framedBy_vecOp fun _ _ => rfl

theorem Form.wide_of_intOk {f : Form} (h : f.intOk w = true) : f.wide = w := beq_iff_eq.mp (Bool.and_eq_true_iff.mp h).2

/-- A per-lane integer instruction whose steps keep the width of a form that its width allows. -/
theorem framedBy_intForm {ops : List (Opnd × Bool)} {f : Nat → List DWord → DWord × Half} {aff : List Off → Option Off}
    {pnd : Regs → Nat → List Src → Option (Form × List Nat)} (hflags : ∀ l vs, (f l vs).2 = 0)
    (hpnd : ∀ r k srcs f copies, pnd r k srcs = some (f, copies) → f.wide = w) :
    FramedBy s (vdest x.d.vnum w) flags (vecOp s len x w ops { f := f, aff := aff, pnd := pnd }) :=
  framedBy_issue fun _ hst hwf => Ic.framed_vec hst hwf (fun _ h => h) (fun _ => hflags) hpnd

theorem framedBy_vaddOp : FramedBy s (vdest x.d.vnum t.is64) flags (vaddOp s len x t) := by
  refine framedBy_intForm (fun _ _ => rfl) fun r k srcs f copies h => ?_
  split at h
  iterate 2
    obtain ⟨hok, h⟩ := Option.ite_none_right_eq_some.mp h
    cases h
    exact Form.wide_of_intOk hok
  · cases h

theorem framedBy_vsubOp : FramedBy s (vdest x.d.vnum t.is64) flags (vsubOp s len x t) := by
  refine framedBy_intForm (fun _ _ => rfl) fun r k srcs f copies h => ?_
  split at h
  iterate 2
    obtain ⟨hok, h⟩ := Option.ite_none_right_eq_some.mp h
    cases h
    exact Form.wide_of_intOk hok
  · cases h

theorem framedBy_vmulOp : FramedBy s (vdest x.d.vnum t.is64) flags (vmulOp s len x t) := by
  refine framedBy_intForm (fun _ _ => rfl) fun r k srcs f copies h => ?_
  split at h
  iterate 2
    obtain ⟨hok, h⟩ := Option.ite_none_right_eq_some.mp h
    cases h
    exact Form.wide_of_intOk hok
  · cases h

theorem framedBy_vshlOp : FramedBy s (vdest x.d.vnum t.is64) flags (vshlOp s len x t) := by
  refine framedBy_intForm (fun _ _ => rfl) fun r k srcs f copies h => ?_
  split at h
  · obtain ⟨hok, h⟩ := Option.ite_none_right_eq_some.mp h
    cases h
    exact Form.wide_of_intOk hok
  · cases h

theorem framedBy_vmovOp : FramedBy s (vdest x.d.vnum t.is64) flags (vmovOp s len x t) := by
  refine framedBy_intForm (fun _ _ => rfl) fun r k srcs f copies h => ?_
  split at h
  · obtain ⟨hok, h⟩ := Option.ite_none_right_eq_some.mp h
    cases h
    exact beq_iff_eq.mp hok
  · cases h

theorem framedBy_execVsel : FramedBy s (vdest x.d.vnum x.t.is64) flags (execVsel x s) :=
  framedBy_issue fun _ hst hwf => Ic.framed_vec_plain hst hwf (fun _ h => h) fun _ _ _ => rfl

/-- VADDC writes the sums, and the carries to its predicate. -/
theorem framedBy_execVaddc : FramedBy s [.v x.d.vnum, .p x.c.pnum] flags (execVaddc x s) := by
  refine framedBy_issue fun c hst hwf => ?_
  have hsum : ∀ y ∈ vdest x.d.vnum false, y ∈ [Opnd.v x.d.vnum, .p x.c.pnum] := fun y hy => List.mem_cons.mpr (.inl (List.mem_singleton.mp hy))
  dsimp only
  split
  · exact Ic.framed_also (Ic.framed_vec_plain hst hwf hsum fun _ _ _ => rfl) fun u hu => hu.setP (by simp) _
  · exact Ic.framed_vec_plain hst hwf hsum fun _ _ _ => rfl

/-! ## Exchanges, shapes and predicates -/

theorem framedBy_exchange {ops : List (Opnd × Bool)} {g : List Off → Nat → DWord} :
    FramedBy s (vdest x.d.vnum x.t.is64) flags (issueX s x fun c => c.exchange s x ops g) :=
  framedBy_issue fun _ hst hwf => Ic.framed_exchange hst hwf fun _ h => h

theorem framedBy_execLcmp : FramedBy s (vdest x.d.vnum x.t.is64) flags (execLcmp x s) :=
  framedBy_issue fun _ hst hwf => Ic.framed_known fun _ => Ic.framed_ite rfl (Ic.framed_ite rfl (Ic.framed_ite trivial
    (Ic.framed_writeV hst hwf (fun _ h => h) _)))

theorem framedBy_execVshape : FramedBy s (vdest x.d.vnum x.t.is64) flags (execVshape x s) :=
  framedBy_issue fun _ hst hwf => Ic.framed_known fun _ => Ic.framed_ite rfl (Ic.framed_ite rfl (Ic.framed_ite trivial
    (Ic.framed_writeV hst hwf (fun _ h => h) _)))

theorem framedBy_execPmov (hp : ∀ n, x.d = .p n → .p n ∈ ds) (hv : ∀ n, x.d = .v n → .v n ∈ ds)
    (hs : ∀ n, x.d = .s n → .s n ∈ ds) : FramedBy s ds flags (execPmov x s) := by
  refine framedBy_issue fun c hst hwf => ?_
  dsimp only
  split
  next hd _ => exact Ic.framed_toP hst hwf (hp _ hd) _ _
  next hd _ => exact Ic.framed_known fun _ => Ic.framed_toP hst hwf (hp _ hd) _ _
  next hd _ => exact Ic.framed_vec_plain hst hwf (fun _ ho => List.mem_singleton.mp ho ▸ hv _ hd) fun _ _ _ => rfl
  next hd _ => exact Ic.framed_toS hst hwf (hs _ hd) _
  next hd _ => exact Ic.framed_known fun _ => Ic.framed_toP hst hwf (hp _ hd) _ _
  · exact Ic.framed_done hst hwf

theorem framedBy_execPfset : FramedBy s [.p x.d.pnum] true (execPfset x s) :=
  framedBy_issue fun _ hst hwf => Ic.framed_known fun _ =>
    Ic.framed_also (Ic.framed_toP hst hwf (List.mem_singleton_self _) _ _) fun _ hu => hu.raise nofun

/-! ## Floating point -/

/-- An instruction that computes with MODE's rounding, lane by lane. -/
theorem framedBy_seeded {ops : List (Opnd × Bool)} {f : Ic → Nat → List DWord → DWord × Half} {perLane : Ic → Bool} :
    FramedBy s (vdest x.d.vnum w) true (issueX s x fun c => c.seedReady x s
      (c.vec s x x.d.vnum w ops { f := f c, perLane := perLane c })) :=
  framedBy_issue fun _ hst hwf => Ic.framed_seedReady (Ic.framed_vec_plain hst hwf (fun _ h => h) nofun)

theorem framedBy_vfpRound {ops : List Opnd} {g : FpEnv → Nat → List Nat → Nat × Half}
    {pnd : FpEnv → Regs → Nat → List Src → Option (Form × List Nat)}
    (hpnd : ∀ e r k srcs f copies, pnd e r k srcs = some (f, copies) → f.wide = t.is64) :
    FramedBy s (vdest x.d.vnum t.is64) true (vfpRound s len x t ops g pnd) :=
  framedBy_issue fun _ hst hwf => Ic.framed_seedReady (Ic.framed_vec hst hwf (fun _ h => h) nofun (hpnd _))

theorem framedBy_vfpPlain {ops : List Opnd} {g : FpEnv → List Nat → Nat × Half} (hflags : flags = false → ∀ e xs, (g e xs).2 = 0) :
    FramedBy s (vdest x.d.vnum t.is64) flags (vfpPlain s len x t ops g) :=
  framedBy_issue fun _ hst hwf => Ic.framed_vec_plain hst hwf (fun _ h => h) fun hf _ _ => perElem_flags_zero (fun _ _ => hflags hf _ _) _ _

theorem Form.wide_of_fltOk {f : Form} (h : f.fltOk w = true) : f.wide = w :=
  beq_iff_eq.mp (Bool.and_eq_true_iff.mp (Bool.and_eq_true_iff.mp h).1).1

/-- A step on a form keeps its width, which is the instruction's. -/
theorem fltPnd2_wide {k1 k2 : Nat} (e : FpEnv) (r : Regs) (k : Nat) (srcs : List Src) (f : Form) (copies : List Nat)
    (h : fltPnd2 t k1 k2 e r k srcs = some (f, copies)) : f.wide = t.is64 := by
  unfold fltPnd2 at h
  split at h
  iterate 2
    obtain ⟨hok, h⟩ := Option.ite_none_right_eq_some.mp h
    cases h
    have hwide := Form.wide_of_fltOk (Bool.and_eq_true_iff.mp hok).2
    exact hwide
  · cases h

theorem fltPnd3_wide (e : FpEnv) (r : Regs) (k : Nat) (srcs : List Src) (f : Form) (copies : List Nat)
    (h : fltPnd3 t e r k srcs = some (f, copies)) : f.wide = t.is64 := by
  unfold fltPnd3 at h
  split at h
  iterate 2
    obtain ⟨hok, h⟩ := Option.ite_none_right_eq_some.mp h
    cases h
    have hwide := Form.wide_of_fltOk (Bool.and_eq_true_iff.mp hok).2
    exact hwide
  · cases h

theorem framedBy_faddOp : FramedBy s (vdest x.d.vnum t.is64) true (faddOp s len x t) := framedBy_vfpRound fltPnd2_wide

theorem framedBy_fsubOp : FramedBy s (vdest x.d.vnum t.is64) true (fsubOp s len x t) := framedBy_vfpRound fltPnd2_wide

theorem framedBy_fmulOp : FramedBy s (vdest x.d.vnum t.is64) true (fmulOp s len x t) := framedBy_vfpRound fltPnd2_wide

theorem framedBy_ffmaOp : FramedBy s (vdest x.d.vnum t.is64) true (ffmaOp s len x t) := framedBy_vfpRound fltPnd3_wide

theorem framedBy_fminmaxOp {isMax prop : Bool} : FramedBy s (vdest x.d.vnum t.is64) true (fminmaxOp s len x t isMax prop) :=
  framedBy_vfpPlain nofun

theorem framedBy_ffunOp {g : Fv → Fv × Half} : FramedBy s (vdest x.d.vnum t.is64) true (ffunOp s len x t g) := framedBy_vfpRound nofun

/-- The destination of 32 bits lies in the one that an instruction's type names. -/
theorem vdest_narrow_subset (n : Nat) (w : Bool) : ∀ o ∈ vdest n false, o ∈ vdest n w := by
  cases w <;> simp [vdest]

/-- The functions on f32, whatever type the instruction names. -/
theorem framedBy_ffunOp32 {g : Fv → Fv × Half} : FramedBy s (vdest x.d.vnum w) true (ffunOp s len x .f32 g) :=
  framedBy_issue fun _ hst hwf => Ic.framed_seedReady (Ic.framed_vec hst hwf (vdest_narrow_subset _ w) nofun nofun)

theorem framedBy_execFabs : FramedBy s (vdest x.d.vnum x.t.is64) flags (execFabs x s) := framedBy_vfpPlain fun _ _ _ => rfl

theorem framedBy_execFneg : FramedBy s (vdest x.d.vnum x.t.is64) flags (execFneg x s) := framedBy_vfpPlain fun _ _ _ => rfl

theorem framedBy_execFclass : FramedBy s (vdest x.d.vnum x.t.is64) flags (execFclass x s) := framedBy_vfpPlain fun _ _ _ => rfl

/-! ## Conversions and reductions -/

theorem framedBy_execFpack : FramedBy s [.v x.d.vnum] true (execFpack x s) :=
  framedBy_issue fun _ hst hwf => Ic.framed_seedReady (Ic.framed_known fun _ => Ic.framed_ite rfl (Ic.framed_ite rfl
    (Ic.framed_ite trivial (Ic.framed_vec_plain hst hwf (w := false) (fun _ h => h) nofun))))

theorem framedBy_execFunpk : FramedBy s [.v x.d.vnum] true (execFunpk x s) :=
  framedBy_issue fun _ hst hwf => Ic.framed_known fun _ => Ic.framed_ite trivial
    (Ic.framed_vec_plain hst hwf (w := false) (fun _ h => h) nofun)

theorem framedBy_execSclq : FramedBy s [.v x.d.vnum] true (execSclq x s) :=
  framedBy_issue fun _ hst hwf => Ic.framed_known fun _ => Ic.framed_vec_plain hst hwf (w := false) (fun _ h => h) nofun

theorem framedBy_execVred (hs : ∀ n, x.d = .s n → .s n ∈ ds)
    (hv : ∀ n, x.d = .v n → ∀ o ∈ vdest n x.t.is64, o ∈ ds) : FramedBy s ds true (execVred x s) := by
  refine framedBy_issue fun c hst hwf => Ic.framed_reduce fun act a b => ?_
  dsimp only
  split
  next hd => exact Ic.framed_also (Ic.framed_toS hst hwf (hs _ hd) _) fun _ hu => hu.raise nofun
  next hd => exact Ic.framed_also (Ic.framed_vec_plain hst hwf (hv _ hd) nofun) fun _ hu => hu.raise nofun
  · exact Ic.framed_done hst hwf

theorem framedBy_execVscan : FramedBy s (vdest x.d.vnum x.t.is64) true (execVscan x s) :=
  framedBy_issue fun _ hst hwf => Ic.framed_reduce fun _ _ _ => Ic.framed_vec_plain hst hwf (fun _ h => h) nofun

end

/-- The vector instructions, in the order in which `vectorDests` lists them. -/
theorem framedBy_vector {i : Instr} {ds : List Opnd} {flags : Bool} (h : i.vectorDests = some (ds, flags)) (s : State) :
    FramedBy s ds flags (exec i s) := by
  unfold Instr.vectorDests at h
  split at h <;> cases h
  all_goals simp only [exec_vadd, exec_vsub, exec_vmul, exec_vmulh, exec_vand, exec_vor, exec_vxor, exec_vnot, exec_vshl, exec_vshr, exec_vsar,
      exec_vmin, exec_vmax, exec_vabs, exec_vneg, exec_vsel, exec_vmov, exec_bfly, exec_shfl, exec_lrot, exec_lbcst,
      exec_lcmp, exec_vshape, exec_iext, exec_fabs, exec_fneg, exec_fclass, exec_vmad, exec_vclz, exec_vpopc, exec_vbfe,
      exec_vbfi, exec_vdot4, exec_vlane, exec_vsadd, exec_vaddc, exec_vaddBase, exec_vsubBase, exec_vmulBase, exec_vandBase,
      exec_vorBase, exec_vxorBase, exec_vshlBase, exec_vshrBase, exec_vaddImmBase, exec_vaddLit, exec_vmovBase,
      exec_vmovScalarBase, exec_vlaneBase, exec_faddBase, exec_fsubBase, exec_fmulBase, exec_ffmaBase, exec_fminBase,
      exec_fmaxBase, exec_frcpBase, exec_fadd, exec_fsub, exec_fmul, exec_ffma, exec_fmin, exec_fmax, exec_frcp, exec_frsq,
      exec_fsqrt, exec_fdiv, exec_fexp2, exec_flog2, exec_fsin, exec_fcos, exec_ftanh, exec_fscale, exec_frnd, exec_ffrac,
      exec_fminp, exec_fmaxp, exec_fcvt, exec_ftoi, exec_itof, exec_vscan, exec_fdot2, exec_fpack, exec_funpk, exec_sclq,
      exec_bqnt, exec_bdq, exec_pfset, exec_pmov, exec_vred, execVadd, execVsub, execVmul, execVmulh, execVand, execVor,
      execVxor, execVnot, execVshl, execVshr, execVsar, execVmin, execVmax, execVabs, execVneg, execVmov, execBfly, execShfl,
      execLrot, execLbcst, execIext, execVmad, execVclz, execVpopc, execVbfe, execVbfi, execVdot4, execVlane, execVsadd,
      execVaddBase, execVsubBase, execVmulBase, execVandBase, execVorBase, execVxorBase, execVshlBase, execVshrBase,
      execVaddImmBase, execVaddLit, execVmovBase, execVmovScalarBase, execVlaneBase, execFaddBase, execFsubBase, execFmulBase,
      execFfmaBase, execFminBase, execFmaxBase, execFrcpBase, execFadd, execFsub, execFmul, execFfma, execFmin, execFmax,
      execFrcp, execFrsq, execFsqrt, execFdiv, execFexp2, execFlog2, execFsin, execFcos, execFtanh, execFscale, execFrnd,
      execFfrac, execFminp, execFmaxp, execFcvt, execFtoi, execItof, execFdot2, execBqnt, execBdq]
  · exact framedBy_vaddOp
  · exact framedBy_vsubOp
  · exact framedBy_vmulOp
  iterate 4 exact framedBy_vint2
  · exact framedBy_vint1
  · exact framedBy_vshlOp
  iterate 2 exact framedBy_vshrOp
  iterate 2 exact framedBy_vint2
  iterate 2 exact framedBy_vint1
  · exact framedBy_execVsel
  · exact framedBy_vmovOp
  iterate 4 exact framedBy_exchange
  · exact framedBy_execLcmp
  · exact framedBy_execVshape
  · exact framedBy_vecOp fun _ _ => rfl
  · exact framedBy_execFabs
  · exact framedBy_execFneg
  · exact framedBy_execFclass
  · exact framedBy_vecOp fun _ _ => rfl
  iterate 2 exact framedBy_vint1
  iterate 3 exact (framedBy_vecOp fun _ _ => rfl)
  · exact framedBy_vlaneOp
  · exact framedBy_vecOp fun _ _ => rfl
  · exact framedBy_execVaddc
  · exact framedBy_vaddOp
  · exact framedBy_vsubOp
  · exact framedBy_vmulOp
  iterate 3 exact framedBy_vint2
  · exact framedBy_vshlOp
  · exact framedBy_vshrOp
  iterate 2 exact framedBy_vaddOp
  iterate 2 exact framedBy_vmovOp
  · exact framedBy_vlaneOp
  · exact framedBy_faddOp
  · exact framedBy_fsubOp
  · exact framedBy_fmulOp
  · exact framedBy_ffmaOp
  iterate 2 exact framedBy_fminmaxOp
  · exact framedBy_ffunOp
  · exact framedBy_faddOp
  · exact framedBy_fsubOp
  · exact framedBy_fmulOp
  · exact framedBy_ffmaOp
  iterate 2 exact framedBy_fminmaxOp
  iterate 3 exact framedBy_ffunOp
  · exact framedBy_vfpRound nofun
  iterate 5 exact framedBy_ffunOp32
  · exact framedBy_seeded
  · exact framedBy_vfpRound nofun
  · exact framedBy_vfpPlain nofun
  iterate 2 exact framedBy_fminmaxOp
  iterate 3 exact framedBy_seeded
  · exact framedBy_execVscan
  · exact framedBy_seeded
  · exact framedBy_execFpack
  · exact framedBy_execFunpk
  · exact framedBy_execSclq
  iterate 2 exact framedBy_seeded
  · exact framedBy_execPfset
  · exact framedBy_execPmov (fun n h => by simp [h]) (fun n h => by simp [h]) fun n h => by simp [h]
  · exact framedBy_execVred (fun n h => by simp [h]) fun n h => by simp [h]

/-- Settles O13. -/
theorem vectorFrame : Obligations.VectorFrame :=
  fun s t c _ _ _ hi hwf hds hexec => framedBy_vector hds s c t hi hwf hexec

end Sys2Proof.Machine
end

section
/-! PROOFS. What issuing leaves of memory: the functions that no byte of memory depends on, and the frame of the memory instructions
at issue (R111, R211, R213). -/

namespace Sys2Proof.Machine

open Sys2Proof

/-! ## Functions that keep all memory -/

section
variable (s : State)

theorem State.sameMem_of_cells {s t : State} (h : t.cells = s.cells) : s.sameMem t := fun p a => by rw [h]

@[simp] theorem State.onStrand_cells (key : Nat) (f : Strand → Strand) : (s.onStrand key f).cells = s.cells := rfl

@[simp] theorem State.setStrand_cells (key : Nat) (st : Strand) : (s.setStrand key st).cells = s.cells := rfl

@[simp] theorem State.onCore_cells (core : Nat) (f : CoreSt → CoreSt) : (s.onCore core f).cells = s.cells := rfl

@[simp] theorem State.onQuarter_cells (q : Nat) (f : QuarterSt → QuarterSt) : (s.onQuarter q f).cells = s.cells := rfl

@[simp] theorem State.onDie_cells (d : Nat) (f : DieSt → DieSt) : (s.onDie d f).cells = s.cells := by
  unfold State.onDie State.setDie
  split <;> rfl

@[simp] theorem State.route_cells (e : FaultEv) : (s.route e).cells = s.cells := s.onDie_cells _ _

@[simp] theorem State.postGroup_cells (p : Nat) (g : Group) : (s.postGroup p g).cells = s.cells := rfl

@[simp] theorem State.noteIssue_cells (key slot : Nat) : (s.noteIssue key slot).cells = s.cells := rfl

@[simp] theorem State.putRegs_cells (c : Ic) (r : Regs) : (s.putRegs c r).cells = s.cells := rfl

@[simp] theorem State.addOp_cells (key : Nat) (o : Op) : (s.addOp key o).cells = s.cells := rfl

@[simp] theorem State.askWalks_cells (core : Nat) (ws : List WalkReq) : (s.askWalks core ws).cells = s.cells := rfl

@[simp] theorem State.dropFails_cells (core part : Nat) : (s.dropFails core part).cells = s.cells := rfl

@[simp] theorem State.parkAsync_cells (key slot : Nat) (o : Op) : (s.parkAsync key slot o).cells = s.cells := rfl

@[simp] theorem State.parkFail_cells (c : Ic) (lanes : Mask) (r : Redo) (recs : List Rec) : (s.parkFail c lanes r recs).cells = s.cells := rfl

@[simp] theorem State.parkLoss_cells (c : Ic) (lanes : Mask) (sub outcome code : Nat) :
    (s.parkLoss c lanes sub outcome code).cells = s.cells := State.route_cells _ _

@[simp] theorem State.takeTrap_cells (key slot : Nat) (t : Trap) (pc tpc : VAddr) : (s.takeTrap key slot t pc tpc).cells = s.cells := by
  unfold State.takeTrap
  split
  · rfl
  · dsimp only
    split
    · rfl
    · exact State.route_cells _ _

end

/-! ## Effects that keep all memory -/

/-- What an issue comes to leaves all memory as in `s`. -/
def Act.keepsCells (s : State) : Act → Prop
  | .done t | .jump t _ | .stay t | .wait t _ | .waitSym t _ => t.cells = s.cells
  | .trap _ => True

/-- The end of an issue keeps all memory. -/
theorem State.conclude_cells {s : State} {a : Act} (c : Ic) (len : Nat) (h : a.keepsCells s) : (s.conclude c len a).cells = s.cells := by
  cases a with
  | trap t => exact State.takeTrap_cells ..
  | waitSym t syms =>
    unfold State.conclude
    dsimp only
    split
    · exact h
    · exact h
  | _ => exact h

theorem sameMem_of_issue {s t : State} {len : Nat} {f : Ic → Act} (ht : issue s len f = .next t)
    (h : ∀ c : Ic, (f c).keepsCells s) : s.sameMem t := by
  unfold issue at ht
  split at ht
  · cases ht
  · cases ht
    exact State.sameMem_of_cells (State.conclude_cells _ len (h _))

section
variable {s : State} {c : Ic}

theorem Act.keepsCells_ite {p : Prop} [Decidable p] {a b : Act} (ha : a.keepsCells s) (hb : b.keepsCells s) :
    (if p then a else b).keepsCells s := by
  split
  · exact ha
  · exact hb

theorem Act.keepsCells_trapLanes (cls code : Nat) (m : Mask) : (Act.trapLanes cls code m).keepsCells s := trivial

theorem Ic.known_keepsCells {x : Opnds} {ops : List (Opnd × Bool)} {k : List Off → Act} (h : ∀ offs, (k offs).keepsCells s) :
    (c.known s x ops k).keepsCells s := by
  refine Act.keepsCells_ite rfl ?_
  dsimp only
  split
  · rfl
  · exact h _

theorem Ic.seedReady_keepsCells {x : Opnds} {k : Act} (h : k.keepsCells s) : (c.seedReady x s k).keepsCells s :=
  Act.keepsCells_ite (Act.keepsCells_ite rfl (Act.keepsCells_ite rfl h)) h

theorem Ic.sectorRoom_keepsCells {l : List ByteRange} {k : Act} (h : k.keepsCells s) : (c.sectorRoom s l k).keepsCells s :=
  Act.keepsCells_ite h rfl

/-! ## Memory operands -/

/-- Checks that keep all memory, if they find anything. -/
def keepsCells? (s : State) (check : Option Act) : Prop := ∀ a, check = some a → a.keepsCells s

theorem Ic.firstIssue_keepsCells {check : Option Act} {k : Act} (hc : keepsCells? s check) (hk : k.keepsCells s) :
    (c.firstIssue check k).keepsCells s := by
  unfold Ic.firstIssue
  split
  · exact hc _ rfl
  · exact hk

theorem Act.keepsCells_whole {a : Act} (h : a.keepsCells s) : (a.whole c).keepsCells s := by
  cases a with
  | trap t => trivial
  | _ => exact h

theorem keepsCells?_none : keepsCells? s none := fun _ h => (Option.some_ne_none _ h.symm).elim

theorem keepsCells?_ite {p : Prop} [Decidable p] {a b : Option Act} (ha : keepsCells? s a) (hb : keepsCells? s b) :
    keepsCells? s (if p then a else b) := by
  split
  · exact ha
  · exact hb

theorem keepsCells?_some {a : Act} (h : a.keepsCells s) : keepsCells? s (some a) := fun _ he => Option.some.inj he ▸ h

theorem Ic.checkAddrs_keepsCells (sp : Space) (a : Opnd) (n : Nat) (ls : List LaneAddr) : keepsCells? s (c.checkAddrs s sp a n ls) := by
  have hmis (m : Mask) : keepsCells? s (if m ≠ 0 then some (Act.trapLanes 0x05 2 m) else none) :=
    keepsCells?_ite (keepsCells?_some trivial) keepsCells?_none
  unfold Ic.checkAddrs
  dsimp only
  split
  · exact keepsCells?_ite (keepsCells?_some trivial) (hmis _)
  iterate 3 exact keepsCells?_ite (keepsCells?_some trivial) (hmis _)

theorem Ic.unformatted_keepsCells (a : Opnd) (acc : Access) (ls : List LaneAddr) : keepsCells? s (c.unformatted s a acc ls) := by
  refine keepsCells?_ite (keepsCells?_some (State.askWalks_cells ..)) (keepsCells?_ite (keepsCells?_some ?_) keepsCells?_none)
  refine Act.keepsCells_ite trivial ?_
  exact State.takeTrap_cells _ c.key c.slot _ _ _

/-- With no upset word a scan finds nothing. -/
theorem State.eccScan_of_sound (h : s.upsets = []) (part n : Nat) (accs : List Acc) : s.eccScan part n accs = (s, [], 0, 0) := by
  unfold State.eccScan
  induction accs with
  | nil => rfl
  | cons a accs ih =>
    rw [List.foldl_cons]
    refine Eq.trans (congrArg (fun x => accs.foldl _ x) ?_) ih
    have hnone (q : Place) (b : Nat) : s.upsetAt q b n = none := by rw [State.upsetAt, h]; rfl
    dsimp only
    rw [hnone]

/-- A read, and a write beside global memory, marks no leaf entry (R111). -/
theorem State.touchAll_of (part : Nat) {acc : Access} {sp : Space} (ok : List (Nat × DWord × Tr)) (h : acc = .read ∨ sp ≠ .global) :
    s.touchAll part acc sp ok = s := by
  refine if_pos ?_
  obtain rfl | h := h
  · cases sp <;> rfl
  · exact Bool.or_eq_true_iff.mpr (.inl (bne_iff_ne.mpr h))

theorem Ic.memIssue_keepsCells {m : MemAct} (hs : s.upsets = []) (hacc : m.acc = .read ∨ m.space ≠ .global)
    (hperform : ∀ ok, (m.perform s ok).cells = s.cells) : (c.memIssue s m).keepsCells s := by
  refine Act.keepsCells_ite rfl (Act.keepsCells_ite (State.askWalks_cells ..) (Act.keepsCells_ite rfl (Ic.sectorRoom_keepsCells ?_)))
  have hscan (ok : List (Nat × DWord × Tr)) :
      (if m.reads then s.eccScan c.st.part m.bytes (m.scan ok) else (s, [], 0, 0)) = (s, [], 0, 0) := by
    rw [State.eccScan_of_sound hs, ite_self]
  dsimp only
  rw [hscan, State.touchAll_of c.st.part _ hacc]
  have hdone (p : Prop) [Decidable p] (ok : List (Nat × DWord × Tr)) : (if p then m.perform s ok else s).cells = s.cells := by
    split
    · exact hperform ok
    · rfl
  exact Act.keepsCells_ite (State.parkLoss_cells ..)
    (Act.keepsCells_ite (hdone ..) ((State.parkFail_cells ..).trans (hdone ..)))

theorem Ic.loadDest_keepsCells {dst : Dst} {full : Bool} {k : Regs → Act} (h : ∀ r, (k r).keepsCells s) :
    (c.loadDest s dst full k).keepsCells s := by
  unfold Ic.loadDest
  split
  · exact h _
  · exact Act.keepsCells_ite rfl (h _)
  · exact Act.keepsCells_ite rfl (Act.keepsCells_ite rfl (Act.keepsCells_ite trivial (h _)))

theorem Ic.lateIssue_keepsCells (m : LoadAct) (num : Nat) : (c.lateIssue s m num).keepsCells s := by
  have hput (q : Prop) [Decidable q] (r : Regs) (f : Strand → Strand) (o : Op) (g : Group) : Act.keepsCells s
      (if q then .done (((s.putRegs c r).onStrand c.key f).addOp c.key o)
      else .done (((((s.putRegs c r).onStrand c.key f).addOp c.key o).dropFails (coreOf c.key) c.st.part).postGroup c.st.part g)) := by
    refine Act.keepsCells_ite ?_ ?_ <;> simp only [Act.keepsCells, State.postGroup_cells, State.dropFails_cells, State.addOp_cells,
      State.onStrand_cells, State.putRegs_cells]
  refine Act.keepsCells_ite rfl (Act.keepsCells_ite (State.askWalks_cells ..) (Ic.sectorRoom_keepsCells ?_))
  dsimp only
  split
  · rfl
  · exact Act.keepsCells_ite rfl (hput ..)
  · exact Act.keepsCells_ite rfl (Act.keepsCells_ite rfl (Act.keepsCells_ite trivial (hput ..)))

theorem Ic.loadIssue_keepsCells (hs : s.upsets = []) (late : Bool) (m : LoadAct) : (c.loadIssue s late m).keepsCells s := by
  have hplain := Ic.loadDest_keepsCells (c := c) (dst := m.dst) (full := m.whole || decide (m.act = fullMask)) fun regs =>
    Ic.memIssue_keepsCells (c := c) (m :=
      { space := m.space, a := m.a, acc := .read, bytes := m.bytes, reads := true, cls := .ld, whole := m.whole,
        lanes := m.lanes, expand := m.expand, data := m.data, scan := m.scan, judge := m.judge, ranges := fun ok => (m.body ok).ranges
        perform := fun s ok => (s.putRegs c regs).addOp c.key (c.newOp .ld (m.body ok) m.ord (reachScope ok m.scope)) })
      hs (.inl rfl) fun _ => rfl
  refine Act.keepsCells_ite ?_ hplain
  split
  · exact Ic.lateIssue_keepsCells m _
  · exact hplain

end

/-! ## The memory instructions -/

section
variable {s t : State} {len : Nat} {x : Opnds} {sp : Space}

theorem ldOp_sameMem (hs : s.upsets = []) (h : ldOp s len x sp = .next t) : s.sameMem t :=
  sameMem_of_issue h fun c => Ic.known_keepsCells fun offs => by
    refine Ic.firstIssue_keepsCells (keepsCells?_ite (keepsCells?_some trivial) ?_) (Ic.loadIssue_keepsCells hs _ _)
    split
    next hcheck =>
      refine keepsCells?_some (Act.keepsCells_ite (Act.keepsCells_whole ?_) ?_)
      · exact Ic.checkAddrs_keepsCells _ _ _ _ _ hcheck
      · exact Ic.checkAddrs_keepsCells _ _ _ _ _ hcheck
    · exact keepsCells?_none

theorem stOp_sameMem (hs : s.upsets = []) (hsp : sp ≠ .global) (h : stOp s len x sp = .next t) : s.sameMem t :=
  sameMem_of_issue h fun _ => Ic.known_keepsCells fun _ =>
    Ic.firstIssue_keepsCells (Ic.checkAddrs_keepsCells _ _ _ _) (Ic.memIssue_keepsCells hs (.inr hsp) fun _ => rfl)

theorem execLdt_sameMem (hs : s.upsets = []) (h : execLdt x s = .next t) : s.sameMem t :=
  sameMem_of_issue h fun _ => Ic.known_keepsCells fun _ => Ic.firstIssue_keepsCells
    (keepsCells?_ite (keepsCells?_some trivial) (keepsCells?_ite (keepsCells?_some trivial)
      (keepsCells?_ite (keepsCells?_some trivial) keepsCells?_none)))
    (Ic.loadIssue_keepsCells hs _ _)

theorem execLdf_sameMem (hs : s.upsets = []) (h : execLdf x s = .next t) : s.sameMem t :=
  sameMem_of_issue h fun c => Ic.seedReady_keepsCells (Ic.known_keepsCells fun _ => by
    refine Ic.firstIssue_keepsCells ?_ (Ic.loadIssue_keepsCells hs _ _)
    split
    next hcheck => exact keepsCells?_some (Ic.checkAddrs_keepsCells _ _ _ _ _ hcheck)
    · exact Ic.unformatted_keepsCells _ _ _)

theorem execLdc_sameMem (h : execLdc x s = .next t) : s.sameMem t :=
  sameMem_of_issue h fun _ => Ic.known_keepsCells fun _ => Act.keepsCells_ite rfl (Act.keepsCells_ite trivial
    (Act.keepsCells_ite trivial (Act.keepsCells_ite trivial (Ic.loadDest_keepsCells fun _ => rfl))))

theorem execPref_sameMem (h : execPref x s = .next t) : s.sameMem t :=
  sameMem_of_issue h fun _ => Ic.known_keepsCells fun _ => Ic.sectorRoom_keepsCells rfl

end

/-- Settles O14. -/
theorem memoryIssueFrame : Obligations.MemoryIssueFrame := by
  refine fun s t x d a b imm hs => ⟨fun i hi h => ?_, fun hwf ent acc => State.sameMemBut_store hwf .flostra ent 8 _⟩
  simp only [List.mem_cons, List.not_mem_nil, or_false] at hi
  obtain rfl | rfl | rfl | rfl | rfl | rfl | rfl | rfl | rfl | rfl | rfl := hi
  · exact ldOp_sameMem hs h
  · exact ldOp_sameMem hs h
  · exact ldOp_sameMem hs h
  · exact execLdf_sameMem hs h
  · exact execLdt_sameMem hs h
  · exact execLdc_sameMem h
  · exact execPref_sameMem h
  · exact stOp_sameMem hs (by decide) h
  · exact stOp_sameMem hs (by decide) h
  · exact ldOp_sameMem hs h
  · exact ldOp_sameMem hs h

end Sys2Proof.Machine
end

section
/-! PROOFS. Encoding and decoding of strand instructions are inverse (R138, R141 to R145, R395). -/

namespace Sys2Proof

/-! ## The fields of a base word (R141) -/

section
variable {op d a b : Nat} (hop : op < 2 ^ 6) (hd : d < 2 ^ 8) (ha : a < 2 ^ 8) (hb : b < 2 ^ 8)

theorem baseWord_mod_four : baseWord op d a b % 4 = 0 := by unfold baseWord; omega

include hop

theorem op_baseWord : bitsN (baseWord op d a b) 2 6 = op := by unfold bitsN baseWord; omega

include hd

theorem d_baseWord : bitsN (baseWord op d a b) 8 8 = d := by unfold bitsN baseWord; omega

include ha

theorem a_baseWord : bitsN (baseWord op d a b) 16 8 = a := by unfold bitsN baseWord; omega

include hb

theorem b_baseWord : bitsN (baseWord op d a b) 24 8 = b := by unfold bitsN baseWord; omega

theorem baseWord_lt : baseWord op d a b < 2 ^ 32 := by unfold baseWord; omega

end

section
variable {op d a : Nat} (hop : op < 2 ^ 6) (hd : d < 2 ^ 8) (ha : a < 2 ^ 8)

theorem baseLitWord_mod_four : (baseWord op d a 0 + 2) % 4 = 2 := by unfold baseWord; omega

include hop

theorem op_baseLitWord : bitsN (baseWord op d a 0 + 2) 2 6 = op := by unfold bitsN baseWord; omega

include hd

theorem d_baseLitWord : bitsN (baseWord op d a 0 + 2) 8 8 = d := by unfold bitsN baseWord; omega

include ha

theorem a_baseLitWord : bitsN (baseWord op d a 0 + 2) 16 8 = a := by unfold bitsN baseWord; omega

theorem b_baseLitWord : bitsN (baseWord op d a 0 + 2) 24 8 = 0 := by unfold bitsN baseWord; omega

theorem baseLitWord_lt : baseWord op d a 0 + 2 < 2 ^ 32 := by unfold baseWord; omega

end

theorem baseWord_fields {w : Nat} (hw : w < 2 ^ 32) (hL : w % 4 = 0) :
    baseWord (bitsN w 2 6) (bitsN w 8 8) (bitsN w 16 8) (bitsN w 24 8) = w := by
  unfold baseWord bitsN; omega

theorem baseLitWord_fields {w : Nat} (hL : w % 4 = 2) (hw : w < 2 ^ 32) (hb : bitsN w 24 8 = 0) :
    baseWord (bitsN w 2 6) (bitsN w 8 8) (bitsN w 16 8) 0 + 2 = w := by
  unfold bitsN at *; unfold baseWord; omega

/-! ## The words of a literal (R138) -/

theorem litWords_lt (v : DWord) : ∀ w ∈ litWords v, w < 2 ^ 32 := by
  have hv := v.isLt
  simp only [litWords, List.forall_mem_cons]
  exact ⟨by omega, by omega, fun _ h => absurd h List.not_mem_nil⟩

theorem litWords_litOf {lo hi : Nat} (hlo : lo < 2 ^ 32) (hhi : hi < 2 ^ 32) : litWords (litOf lo hi) = [lo, hi] := by
  simp only [litWords, litOf, BitVec.toNat_ofNat, List.cons.injEq, and_true]
  omega

/-! ## Base instructions -/

/-- An instruction in one base word, or in a base word and a literal. -/
theorem encodeBase_cases {i : Instr} {ws : List Nat} (hwf : baseWf i = true) (h : encodeBase i = some ws) :
    (∃ w < 2 ^ 32, w % 4 = 0 ∧ ws = [w] ∧ decodeBase w = .ok i) ∨
    (∃ w < 2 ^ 32, ∃ v, w % 4 = 2 ∧ ws = w :: litWords v ∧ decodeBaseLit w v = .ok i) := by
  cases i
  all_goals cases h
  all_goals
    unfold baseWf at hwf
    dsimp only at hwf
    simp only [isV8, isS7, isT4, isQ3, Bool.and_eq_true, decide_eq_true_eq] at hwf
  case saddLit | smovLit | vaddLit =>
    refine .inr ⟨_, baseLitWord_lt (by decide) (by omega) (by omega), _, baseLitWord_mod_four, rfl, ?_⟩
    simp (disch := omega) [decodeBaseLit, op_baseLitWord, d_baseLitWord, a_baseLitWord, b_baseLitWord, need, isS7, hwf]
  case braBase o =>
    have ho : BitVec.ofNat 24 (o.toNat / 2 ^ 16 * 2 ^ 16 + o.toNat / 2 ^ 8 % 2 ^ 8 * 2 ^ 8 + o.toNat % 2 ^ 8) = o :=
      BitVec.eq_of_toNat_eq (by rw [BitVec.toNat_ofNat]; omega)
    refine .inl ⟨_, baseWord_lt (by decide) (by omega) (by omega) (by omega), baseWord_mod_four, rfl, ?_⟩
    simp (disch := omega) only [decodeBase, op_baseWord, d_baseWord, a_baseWord, b_baseWord, ho]
  case braqBase q n o =>
    have hq : q + n.toNat * 128 < 2 ^ 8 := by have := n.toNat_lt; omega
    have hmid : (q + n.toNat * 128) / 8 % 16 = 0 := by omega
    have hlow : (q + n.toNat * 128) % 8 = q := by omega
    have hneg : ((q + n.toNat * 128) / 128 == 1) = n := by
      rw [Nat.add_mul_div_right _ _ (by decide), Nat.div_eq_of_lt (by omega), Nat.zero_add]
      cases n <;> rfl
    have ho : BitVec.ofNat 16 (o.toNat / 2 ^ 8 * 2 ^ 8 + o.toNat % 2 ^ 8) = o :=
      BitVec.eq_of_toNat_eq (by rw [BitVec.toNat_ofNat]; omega)
    refine .inl ⟨_, baseWord_lt (by decide) hq (by omega) (by omega), baseWord_mod_four, rfl, ?_⟩
    simp (disch := omega) only [decodeBase, op_baseWord, d_baseWord, a_baseWord, b_baseWord, hmid, hlow, hneg, ho, need]
    rfl
  all_goals
    refine .inl ⟨_, baseWord_lt (by decide) (by omega) (by omega) (by omega), baseWord_mod_four, rfl, ?_⟩
    simp (disch := omega) [decodeBase, op_baseWord, d_baseWord, a_baseWord, b_baseWord, need, isS7, isT4, isQ3, hwf]

/-- What holds of a reading that a check guards holds where the check passes. -/
theorem forall_need_eq_ok {P : Instr → Prop} {ok : Bool} {code : Nat} {k : Except Nat Instr} :
    (∀ i, need ok code k = .ok i → P i) ↔ (ok = true → ∀ i, k = .ok i → P i) := by
  cases ok <;> simp [need]

/-! ## What is well formed -/

/-- A base form is no extended form. -/
theorem ext?_and_baseWf (i : Instr) : (i.ext?.isSome && baseWf i) = false := by
  cases i <;> rfl

/-- Only instructions of the policy engine pass the checks of R303's fields. -/
theorem not_policy_and_hgWf (i : Instr) : (!i.policy && hgWf i) = false := by
  cases i <;> rfl

/-- A well-formed base form has words. -/
theorem encodeBase_isNone_and_baseWf (i : Instr) : ((encodeBase i).isNone && baseWf i) = false := by
  cases i <;> rfl

section
variable {i : Instr}

theorem ext?_of_baseWf (h : baseWf i = true) : i.ext? = none := by
  have hnone := ext?_and_baseWf i
  rw [h, Bool.and_true] at hnone
  exact Option.isNone_iff_eq_none.mp (by rw [← Option.not_isSome, hnone]; rfl)

theorem wellFormed_of_baseWf (h : baseWf i = true) : WellFormed i = true := by
  unfold WellFormed
  rw [ext?_of_baseWf h]
  dsimp only
  split
  · cases h
  · rw [h, Bool.true_or]

theorem baseWf_of_wellFormed (hwf : WellFormed i = true) (hext : i.ext? = none) (hp : i.policy = false)
    (hres : ∀ c n, i ≠ .reservedEncoding c n) : baseWf i = true := by
  unfold WellFormed at hwf
  rw [hext] at hwf
  dsimp only at hwf
  split at hwf
  · exact absurd rfl (hres _ _)
  · have hhg := not_policy_and_hgWf i
    rw [hp, Bool.not_false, Bool.true_and] at hhg
    rw [hhg, Bool.or_false] at hwf
    exact hwf

theorem exists_encodeBase (h : baseWf i = true) : ∃ ws, encodeBase i = some ws := by
  have hnone := encodeBase_isNone_and_baseWf i
  rw [h, Bool.and_true] at hnone
  exact Option.isSome_iff_exists.mp (by rw [← Option.not_isNone, hnone]; rfl)

end

/-- The instruction that a base word reads is well formed and spells the word's own fields. -/
theorem encodeBase_of_decodeBase (w : Nat) : ∀ i, decodeBase w = .ok i →
    baseWf i = true ∧ encodeBase i = some [baseWord (bitsN w 2 6) (bitsN w 8 8) (bitsN w 16 8) (bitsN w 24 8)] := by
  have hd : bitsN w 8 8 < 256 := Nat.mod_lt _ (by decide)
  have ha : bitsN w 16 8 < 256 := Nat.mod_lt _ (by decide)
  have hb : bitsN w 24 8 < 256 := Nat.mod_lt _ (by decide)
  unfold decodeBase
  generalize bitsN w 8 8 = d at *
  generalize bitsN w 16 8 = a at *
  generalize bitsN w 24 8 = b at *
  dsimp only
  split
  pick_goal -1 -- an opcode with no row
  · simp
  case h_15 hop => -- the branch offset fills the three fields
    simp only [Except.ok.injEq, forall_eq', hop]
    have hlow : (d * 2 ^ 16 + a * 2 ^ 8 + b) % 2 ^ 8 = b := by omega
    have hmid : (d * 2 ^ 16 + a * 2 ^ 8 + b) / 2 ^ 8 % 2 ^ 8 = a := by omega
    have hhigh : (d * 2 ^ 16 + a * 2 ^ 8 + b) / 2 ^ 16 = d := by omega
    refine ⟨rfl, ?_⟩
    unfold encodeBase
    simp only [BitVec.toNat_ofNat]
    rw [Nat.mod_eq_of_lt (by omega), hlow, hmid, hhigh]
  case h_16 hop => -- the negation is bit 7 of D
    simp only [forall_need_eq_ok, Except.ok.injEq, forall_eq', beq_iff_eq, hop]
    intro hmid
    have hneg : (d / 128 == 1).toNat = d / 128 := by
      obtain h | h : d / 128 = 0 ∨ d / 128 = 1 := by omega
      all_goals rw [h]; rfl
    have hfield : d % 8 + d / 128 * 128 = d := by omega
    have hlow : (a * 2 ^ 8 + b) % 2 ^ 8 = b := by omega
    have hhigh : (a * 2 ^ 8 + b) / 2 ^ 8 = a := by omega
    refine ⟨decide_eq_true (Nat.mod_lt _ (by decide)), ?_⟩
    unfold encodeBase
    simp only [BitVec.toNat_ofNat]
    rw [Nat.mod_eq_of_lt (show a * 2 ^ 8 + b < 2 ^ 16 by omega), hneg, hfield, hlow, hhigh]
  all_goals
    simp only [forall_need_eq_ok, Except.ok.injEq, forall_eq', beq_iff_eq]
    intros
    refine ⟨?_, ?_⟩
    · unfold baseWf
      simp [isV8, *]
    · unfold encodeBase
      simp [*, Nat.mod_eq_of_lt]

/-- The instruction that a base word with a literal reads is well formed and spells the word's own fields and the literal. -/
theorem encodeBase_of_decodeBaseLit (w : Nat) (v : DWord) : ∀ i, decodeBaseLit w v = .ok i →
    bitsN w 24 8 = 0 ∧ baseWf i = true ∧
      encodeBase i = some ((baseWord (bitsN w 2 6) (bitsN w 8 8) (bitsN w 16 8) 0 + 2) :: litWords v) := by
  have hd : bitsN w 8 8 < 256 := Nat.mod_lt _ (by decide)
  have ha : bitsN w 16 8 < 256 := Nat.mod_lt _ (by decide)
  unfold decodeBaseLit
  generalize bitsN w 8 8 = d at *
  generalize bitsN w 16 8 = a at *
  dsimp only
  split
  · simp
  next hb =>
    split
    pick_goal -1 -- an opcode with no row
    · simp
    all_goals
      simp only [forall_need_eq_ok, Except.ok.injEq, forall_eq', beq_iff_eq]
      intros
      refine ⟨not_not.mp hb, ?_, ?_⟩
      · unfold baseWf
        simp [isV8, *]
      · unfold encodeBase
        simp [*]

/-! ## The fields of an extended word (R145) -/

theorem toNat_bit (w lo : Nat) : (bitsN w lo 1 == 1).toNat = bitsN w lo 1 := by
  obtain h | h : bitsN w lo 1 = 0 ∨ bitsN w lo 1 = 1 := by unfold bitsN; omega
  all_goals rw [h]; rfl

theorem bit_toNat (b : Bool) : (b.toNat == 1) = b := by cases b <;> rfl

/-- The L field of an extended word (R138). -/
def Raw.lField (r : Raw) : Nat := if r.lit.isSome then 3 else 1

section
variable {r : Raw} {maj min : Nat}

theorem Raw.fits_iff : r.fits = true ↔ r.ty < 32 ∧ r.rnd < 8 ∧ r.pr < 16 ∧ r.cache < 8 ∧ r.ord < 4 ∧ r.scope < 8 ∧ r.xs < 4 ∧ r.cls < 8 ∧
    r.sel < 32 ∧ r.d < 2048 ∧ r.a < 2048 ∧ r.b < 2048 ∧ r.c < 2048 := by
  simp only [Raw.fits, Bool.and_eq_true, decide_eq_true_eq, and_assoc]

theorem Raw.word0_eq : r.word0 maj min = r.lField + maj * 2 ^ 2 + min * 2 ^ 8 + r.ty * 2 ^ 16 + r.rnd * 2 ^ 21 + r.pe.toNat * 2 ^ 24
    + r.pr * 2 ^ 25 + r.pn.toNat * 2 ^ 29 + r.sat.toNat * 2 ^ 30 := rfl

theorem Raw.lField_le : r.lField ≤ 3 := by unfold Raw.lField; split <;> omega

variable (hfits : r.fits = true) (hmaj : maj < 64) (hmin : min < 256)
include hfits hmaj hmin

/-- Each field of word 0 stands in its place. -/
theorem Raw.word0_fields : r.word0 maj min < 2 ^ 31 ∧ r.word0 maj min % 4 = r.lField ∧ bitsN (r.word0 maj min) 2 6 = maj ∧
    bitsN (r.word0 maj min) 8 8 = min ∧ bitsN (r.word0 maj min) 16 5 = r.ty ∧ bitsN (r.word0 maj min) 21 3 = r.rnd ∧
    bitsN (r.word0 maj min) 24 1 = r.pe.toNat ∧ bitsN (r.word0 maj min) 25 4 = r.pr ∧
    bitsN (r.word0 maj min) 29 1 = r.pn.toNat ∧ bitsN (r.word0 maj min) 30 1 = r.sat.toNat := by
  obtain ⟨hty, hrnd, hpr, -⟩ := Raw.fits_iff.mp hfits
  have hl := r.lField_le
  have hpe := r.pe.toNat_lt
  have hpn := r.pn.toNat_lt
  have hsat := r.sat.toNat_lt
  rw [Raw.word0_eq]
  generalize r.lField = l, r.ty = ty, r.rnd = rnd, r.pr = pr, r.pe.toNat = pe, r.pn.toNat = pn, r.sat.toNat = sat at *
  unfold bitsN
  omega

omit hmaj hmin

/-- Each field of word 1 stands in its place. -/
theorem Raw.word1_fields : r.word1 < 2 ^ 32 ∧ bitsN r.word1 0 11 = r.d ∧ bitsN r.word1 11 11 = r.a ∧ bitsN r.word1 22 3 = r.scope ∧
    bitsN r.word1 25 2 = r.ord ∧ bitsN r.word1 27 1 = r.late.toNat ∧ bitsN r.word1 28 1 = r.g.toNat ∧ bitsN r.word1 29 3 = r.cache := by
  obtain ⟨-, -, -, hcache, hord, hscope, -, -, -, hd, ha, -⟩ := Raw.fits_iff.mp hfits
  have hlate := r.late.toNat_lt
  have hg := r.g.toNat_lt
  unfold Raw.word1 bitsN
  generalize r.late.toNat = late, r.g.toNat = g at *
  omega

/-- Each field of word 2 stands in its place. -/
theorem Raw.word2_fields : r.word2 < 2 ^ 32 ∧ bitsN r.word2 0 11 = r.b ∧ bitsN r.word2 11 11 = r.c ∧ bitsN r.word2 22 5 = r.sel ∧
    bitsN r.word2 27 3 = r.cls ∧ bitsN r.word2 30 2 = r.xs := by
  obtain ⟨-, -, -, -, -, -, hxs, hcls, hsel, -, -, hb, hc⟩ := Raw.fits_iff.mp hfits
  unfold Raw.word2 bitsN
  omega

include hmaj hmin

/-- The words of fields that fit hold those fields. -/
theorem Raw.ofWords_words : Raw.ofWords (r.word0 maj min) r.word1 r.word2 r.lit = r := by
  obtain ⟨-, -, -, -, hty, hrnd, hpe, hpr, hpn, hsat⟩ := Raw.word0_fields hfits hmaj hmin
  obtain ⟨-, hd, ha, hscope, hord, hlate, hg, hcache⟩ := Raw.word1_fields hfits
  obtain ⟨-, hb, hc, hsel, hcls, hxs⟩ := Raw.word2_fields hfits
  unfold Raw.ofWords
  rw [hty, hrnd, hpe, hpr, hpn, hsat, hd, ha, hscope, hord, hlate, hg, hcache, hb, hc, hsel, hcls, hxs]
  simp only [bit_toNat]

end

section
variable {w0 w1 w2 : Nat} {lit : Option DWord}

theorem Raw.fits_ofWords : (Raw.ofWords w0 w1 w2 lit).fits = true := by
  have hlt (w lo n : Nat) : bitsN w lo n < 2 ^ n := Nat.mod_lt _ (Nat.two_pow_pos n)
  exact Raw.fits_iff.mpr ⟨hlt _ _ 5, hlt _ _ 3, hlt _ _ 4, hlt _ _ 3, hlt _ _ 2, hlt _ _ 3, hlt _ _ 2, hlt _ _ 3, hlt _ _ 5,
    hlt _ _ 11, hlt _ _ 11, hlt _ _ 11, hlt _ _ 11⟩

theorem Raw.word0_ofWords (hw : w0 < 2 ^ 32) (h31 : bitsN w0 31 1 ≠ 1) (hL : (Raw.ofWords w0 w1 w2 lit).lField = w0 % 4) :
    (Raw.ofWords w0 w1 w2 lit).word0 (bitsN w0 2 6) (bitsN w0 8 8) = w0 := by
  rw [Raw.word0_eq, hL]
  simp only [Raw.ofWords, toNat_bit]
  unfold bitsN at *
  omega

theorem Raw.word1_ofWords (hw : w1 < 2 ^ 32) : (Raw.ofWords w0 w1 w2 lit).word1 = w1 := by
  simp only [Raw.word1, Raw.ofWords, toNat_bit]
  unfold bitsN
  omega

theorem Raw.word2_ofWords (hw : w2 < 2 ^ 32) : (Raw.ofWords w0 w1 w2 lit).word2 = w2 := by
  simp only [Raw.word2, Raw.ofWords]
  unfold bitsN
  omega

end

/-! ## Reading a row gives back the fields (R148 to R152) -/

theorem Ty.code_of_ofCode {c : Nat} {t : Ty} (h : Ty.ofCode c = some t) : t.code = c := by
  unfold Ty.ofCode at h
  split at h <;> cases h <;> rfl

theorem Rnd.code_of_ofCode {c : Nat} {r : Rnd} (h : Rnd.ofCode c = some r) : r.code = c := by
  unfold Rnd.ofCode at h
  split at h <;> cases h <;> rfl

theorem Opnd.code_of_ofCode {c : Nat} {o : Opnd} (h : Opnd.ofCode c = some o) : o.code = c := by
  unfold Opnd.ofCode at h
  repeat' split at h
  all_goals cases h
  all_goals simp only [Opnd.code]
  all_goals omega

theorem Cls.code_of_read {k : Cls} {hasLit : Bool} {c : Nat} {o : Opnd} (h : k.read hasLit c = some o) : o.code = c := by
  unfold Cls.read at h
  split at h
  iterate 3
    obtain ⟨-, h⟩ := Option.ite_none_right_eq_some.mp h
    cases h
    rfl
  · split at h
    next hc =>
      obtain ⟨-, h⟩ := Option.ite_none_right_eq_some.mp h
      cases h
      exact Opnd.code_of_ofCode hc
    · cases h

theorem Row.code_of_readTy {w : Row} {r : Raw} {ty : Option Ty} (h : w.readTy r = some ty) : ty.elim 0 Ty.code = r.ty := by
  unfold Row.readTy at h
  split at h
  · cases h
  · obtain ⟨hty, h⟩ := Option.ite_none_right_eq_some.mp h
    cases h
    exact (beq_iff_eq.mp hty).symm
  · split at h
    next hc =>
      obtain ⟨-, h⟩ := Option.ite_none_right_eq_some.mp h
      cases h
      exact Ty.code_of_ofCode hc
    · cases h

/-- The predicate that the fields PE, PR and PN name (R146). -/
def Raw.predicate (r : Raw) : Option (Nat × Bool) := if r.pe then some (r.pr, r.pn) else none

/-- A predicate that a row accepts holds the numbers of its fields. -/
theorem Row.predicate_of_predOk {w : Row} {r : Raw} (h : w.predOk r = true) : r.predicate.isSome = r.pe ∧
    r.predicate.elim 0 Prod.fst = r.pr ∧ r.predicate.elim false Prod.snd = r.pn := by
  unfold Row.predOk at h
  unfold Raw.predicate
  cases hpe : r.pe with
  | true => exact ⟨rfl, rfl, rfl⟩
  | false =>
    rw [hpe, if_neg Bool.false_ne_true, Bool.and_eq_true, beq_iff_eq, Bool.not_eq_true'] at h
    exact ⟨rfl, h.1.symm, h.2.symm⟩

/-- The numbers of an instruction's fields, one by one. -/
theorem Opnds.raw_eq (x : Opnds) : x.raw =
    { lit := x.lit, ty := x.ty.elim 0 Ty.code, rnd := x.rnd.code, sat := x.sat, pe := x.pred.isSome, pr := x.pred.elim 0 Prod.fst
      pn := x.pred.elim false Prod.snd, cache := x.cache, g := x.g, late := x.late, ord := x.ord, scope := x.scope, xs := x.xs
      cls := x.cls, sel := x.sel, d := x.d.code, a := x.a.code, b := x.b.code, c := x.c.code } := by
  unfold Opnds.raw
  cases x.ty <;> cases x.pred <;> rfl

/-- The operands that a row reads hold the numbers of the fields. -/
theorem Row.raw_of_read {w : Row} {r : Raw} {x : Opnds} (h : w.read r = .ok x) : x.raw = r := by
  unfold Row.read at h
  rw [show (if r.pe = true then some (r.pr, r.pn) else none) = r.predicate from rfl] at h
  dsimp only at h
  repeat' split at h
  all_goals cases h
  next ty rnd hty hrnd _ _ hpred _ _ _ _ _ _ d a b c hd ha hb hc =>
    obtain ⟨hpe, hpr, hpn⟩ := Row.predicate_of_predOk (by simpa using hpred)
    rw [Opnds.raw_eq]
    dsimp only
    rw [Row.code_of_readTy hty, Rnd.code_of_ofCode hrnd, hpe, hpr, hpn, Cls.code_of_read hd, Cls.code_of_read ha, Cls.code_of_read hb,
      Cls.code_of_read hc]

/-! ## Extended instructions -/

/-- Every row's numbers fit their fields (R153). -/
theorem rowsOf_fits {maj : Nat} {w : Row} (h : w ∈ rowsOf maj) : maj < 64 ∧ w.min < 256 := by
  have hmin : ∀ m < 17, ∀ n ∈ (rowsOf m).map Row.min, n < 256 := by decide
  have hmaj : maj < 17 := by
    by_contra hge
    have hnone : rowsOf maj = [] := by
      unfold rowsOf
      split
      pick_goal -1
      · rfl
      all_goals omega
    rw [hnone] at h
    exact absurd h List.not_mem_nil
  exact ⟨by omega, hmin maj hmaj _ (List.mem_map_of_mem h)⟩

theorem min_of_findRow {maj min : Nat} {r : Raw} {w : Row} (h : findRow maj min r = some w) : w.min = min := by
  unfold findRow at h
  split at h
  · cases h
  next v vs hf =>
    have hmem : w ∈ v :: vs := by
      cases hpick : (v :: vs).find? (fun w => w.pick r) with
      | none =>
        rw [hpick] at h
        exact Option.some.inj h ▸ List.mem_cons_self
      | some u =>
        rw [hpick] at h
        exact Option.some.inj h ▸ List.mem_of_find?_eq_some hpick
    have hfilter : w ∈ (rowsOf maj).filter fun w => w.min == min := hf ▸ hmem
    exact beq_iff_eq.mp (List.mem_filter.mp hfilter).2

/-- The two ways of being well formed. -/
theorem extWf_iff {i : Instr} {maj min : Nat} {x : Opnds} : extWf i maj min x = true ↔
    ∃ w, findRow maj min x.raw = some w ∧ x.raw.fits = true ∧ w.read x.raw = .ok x ∧ w.build x = i := by
  unfold extWf
  cases findRow maj min x.raw with
  | none => simp
  | some w => cases hr : w.read x.raw <;> simp [hr, and_assoc]

theorem wellFormed_of_ext {i : Instr} {maj min : Nat} {x : Opnds} (h : i.ext? = some (maj, min, x)) : WellFormed i = extWf i maj min x := by
  unfold WellFormed
  rw [h]

theorem encode_of_ext {i : Instr} {maj min : Nat} {x : Opnds} (h : i.ext? = some (maj, min, x)) : encode i = some (encodeExt maj min x) := by
  unfold encode
  rw [h]

theorem encode_of_baseWf {i : Instr} (h : baseWf i = true) : encode i = encodeBase i := by
  unfold encode
  rw [ext?_of_baseWf h]

/-- The words of a well-formed extended instruction decode to it. -/
theorem decodeExt_words {i : Instr} {maj min : Nat} {x : Opnds} (hwf : extWf i maj min x = true) :
    decodeExt (x.raw.word0 maj min) x.raw.word1 x.raw.word2 x.lit = .ok i ∧ x.raw.word0 maj min % 4 = x.raw.lField ∧
      x.raw.word0 maj min < 2 ^ 32 ∧ x.raw.word1 < 2 ^ 32 ∧ x.raw.word2 < 2 ^ 32 := by
  obtain ⟨w, hrow, hfits, hread, hbuild⟩ := extWf_iff.mp hwf
  obtain ⟨hmaj, hmin⟩ := rowsOf_fits (mem_rowsOf_of_findRow hrow)
  rw [min_of_findRow hrow] at hmin
  obtain ⟨hlt, hL, hfmaj, hfmin, -⟩ := Raw.word0_fields hfits hmaj hmin
  refine ⟨?_, hL, by omega, (Raw.word1_fields hfits).1, (Raw.word2_fields hfits).1⟩
  have h31 : bitsN (x.raw.word0 maj min) 31 1 ≠ 1 := by unfold bitsN; omega
  have hraw : Raw.ofWords (x.raw.word0 maj min) x.raw.word1 x.raw.word2 x.lit = x.raw := Raw.ofWords_words hfits hmaj hmin
  unfold decodeExt
  rw [if_neg h31, hraw, hfmaj, hfmin]
  simp only [hrow, hread, hbuild]

/-- What extended words decode to is well formed and spells those words. -/
theorem encodeExt_of_decodeExt {w0 w1 w2 : Nat} {lit : Option DWord} {i : Instr} (h0 : w0 < 2 ^ 32) (h1 : w1 < 2 ^ 32)
    (h2 : w2 < 2 ^ 32) (hL : (if lit.isSome then 3 else 1) = w0 % 4) (h : decodeExt w0 w1 w2 lit = .ok i) :
    WellFormed i = true ∧ encode i = some ([w0, w1, w2] ++ lit.elim [] litWords) := by
  unfold decodeExt at h
  split at h
  · cases h
  next h31 =>
    dsimp only at h
    split at h
    · cases h
    next w hrow =>
      split at h
      next x hread =>
        cases h
        have hraw := Row.raw_of_read hread
        have hext : (w.build x).ext? = some (bitsN w0 2 6, bitsN w0 8 8, x) := by
          rw [ext?_build (mem_rowsOf_of_findRow hrow), min_of_findRow hrow]
        refine ⟨?_, ?_⟩
        · rw [wellFormed_of_ext hext]
          exact extWf_iff.mpr ⟨w, hraw ▸ hrow, hraw ▸ Raw.fits_ofWords, hraw.symm ▸ hread, rfl⟩
        · rw [encode_of_ext hext, encodeExt, hraw, Raw.word0_ofWords h0 h31 hL, Raw.word1_ofWords h1, Raw.word2_ofWords h2,
            Row.lit_of_read hread]
          cases lit <;> rfl
      · cases h

/-- Decoding the words of a well-formed instruction of a strand. -/
theorem decodeWords_encode {i : Instr} (hwf : WellFormed i = true) (hp : i.policy = false) (hres : ∀ c n, i ≠ .reservedEncoding c n)
    (rest : List Nat) : ∃ ws, encode i = some ws ∧ decodeWords (ws ++ rest) = some (i, ws.length) ∧ ∀ w ∈ ws, w < 2 ^ 32 := by
  cases hext : i.ext? with
  | none =>
    have hbase := baseWf_of_wellFormed hwf hext hp hres
    obtain ⟨ws, henc⟩ := exists_encodeBase hbase
    refine ⟨ws, (encode_of_baseWf hbase).trans henc, ?_⟩
    obtain ⟨w, hw, hL, rfl, hdec⟩ | ⟨w, hw, v, hL, rfl, hdec⟩ := encodeBase_cases hbase henc
    · rw [List.singleton_append, decodeWords_of_base hL, hdec]
      exact ⟨rfl, List.forall_mem_singleton.mpr hw⟩
    · refine ⟨?_, List.forall_mem_cons.mpr ⟨hw, litWords_lt v⟩⟩
      rw [litWords, List.cons_append, List.cons_append, List.cons_append, decodeWords_of_baseLit hL, litOf_halves, hdec]
      rfl
  | some e =>
    obtain ⟨maj, min, x⟩ := e
    rw [wellFormed_of_ext hext] at hwf
    obtain ⟨hdec, hL, h0, h1, h2⟩ := decodeExt_words hwf
    have hlt : ∀ w ∈ [x.raw.word0 maj min, x.raw.word1, x.raw.word2], w < 2 ^ 32 := by
      simp only [List.forall_mem_cons]
      exact ⟨h0, h1, h2, fun _ h => absurd h List.not_mem_nil⟩
    refine ⟨_, encode_of_ext hext, ?_⟩
    unfold encodeExt
    have hlit : x.raw.lit = x.lit := congrArg Raw.lit x.raw_eq
    cases hx : x.lit with
    | none =>
      rw [hx] at hdec
      rw [Raw.lField, hlit, hx] at hL
      refine ⟨?_, by simpa using hlt⟩
      refine (decodeWords_of_ext hL _ _ _).trans ?_
      rw [hdec]
      rfl
    | some v =>
      rw [hx] at hdec
      rw [Raw.lField, hlit, hx] at hL
      refine ⟨?_, List.forall_mem_append.mpr ⟨hlt, litWords_lt v⟩⟩
      refine (decodeWords_of_extLit hL _ _ _ _ _).trans ?_
      rw [litOf_halves, hdec]
      rfl

/-- A decoding without a CODE is a reading that succeeded. -/
theorem eq_ok_of_decodedInstr {n : Nat} {e : Except Nat Instr} {i : Instr} (h : decodedInstr n e = i) (hres : ∀ c m, i ≠ .reservedEncoding c m) :
    e = .ok i := by
  cases e with
  | ok j => exact congrArg _ h
  | error c => exact absurd h.symm (hres _ _)

/-- Settles O7: each table row spells its fields in their places and reads them back. -/
theorem decodeEncode : Obligations.DecodeEncode := by
  refine ⟨fun i hwf hp hres rest => decodeWords_encode hwf hp hres rest, fun ws i n hlt hdec hres => ?_⟩
  match ws with
  | [] => cases hdec
  | w0 :: rest =>
    obtain ⟨h0, hrest⟩ := List.forall_mem_cons.mp hlt
    obtain ⟨rfl, -⟩ := decodeWords_eq_some hdec
    have hlong : ¬ rest.length + 1 < lengthOf w0 := fun h => by
      rw [decodeWords_eq_none_of_short h] at hdec
      cases hdec
    obtain hL | hL | hL | hL := lField_cases w0
    · rw [decodeWords_of_base hL] at hdec
      obtain ⟨hbase, henc⟩ := encodeBase_of_decodeBase w0 i (eq_ok_of_decodedInstr (Prod.mk.inj (Option.some.inj hdec)).1 hres)
      rw [baseWord_fields h0 hL] at henc
      refine ⟨wellFormed_of_baseWf hbase, (encode_of_baseWf hbase).trans (henc.trans ?_)⟩
      simp [lengthOf, hL]
    · match rest, hlong with
      | w1 :: w2 :: rest, _ =>
        obtain ⟨h1, hrest⟩ := List.forall_mem_cons.mp hrest
        obtain ⟨h2, -⟩ := List.forall_mem_cons.mp hrest
        rw [decodeWords_of_ext hL] at hdec
        obtain ⟨hwf, henc⟩ := encodeExt_of_decodeExt (lit := none) h0 h1 h2 hL.symm
          (eq_ok_of_decodedInstr (Prod.mk.inj (Option.some.inj hdec)).1 hres)
        exact ⟨hwf, henc.trans (by simp [lengthOf, hL])⟩
      | [], h | [_], h => exact absurd (by simp [lengthOf, hL]) h
    · match rest, hlong with
      | lo :: hi :: rest, _ =>
        obtain ⟨hlo, hrest⟩ := List.forall_mem_cons.mp hrest
        obtain ⟨hhi, -⟩ := List.forall_mem_cons.mp hrest
        rw [decodeWords_of_baseLit hL] at hdec
        obtain ⟨hb, hbase, henc⟩ := encodeBase_of_decodeBaseLit w0 _ i
          (eq_ok_of_decodedInstr (Prod.mk.inj (Option.some.inj hdec)).1 hres)
        rw [baseLitWord_fields hL h0 hb, litWords_litOf hlo hhi] at henc
        exact ⟨wellFormed_of_baseWf hbase, (encode_of_baseWf hbase).trans (henc.trans (by simp [lengthOf, hL]))⟩
      | [], h | [_], h => exact absurd (by simp [lengthOf, hL]) h
    · match rest, hlong with
      | w1 :: w2 :: lo :: hi :: rest, _ =>
        obtain ⟨h1, hrest⟩ := List.forall_mem_cons.mp hrest
        obtain ⟨h2, hrest⟩ := List.forall_mem_cons.mp hrest
        obtain ⟨hlo, hrest⟩ := List.forall_mem_cons.mp hrest
        obtain ⟨hhi, -⟩ := List.forall_mem_cons.mp hrest
        rw [decodeWords_of_extLit hL] at hdec
        obtain ⟨hwf, henc⟩ := encodeExt_of_decodeExt (lit := some (litOf lo hi)) h0 h1 h2 hL.symm
          (eq_ok_of_decodedInstr (Prod.mk.inj (Option.some.inj hdec)).1 hres)
        rw [Option.elim_some, litWords_litOf hlo hhi] at henc
        exact ⟨hwf, henc.trans (by simp [lengthOf, hL])⟩
      | [], h | [_], h | [_, _], h | [_, _, _], h => exact absurd (by simp [lengthOf, hL]) h

end Sys2Proof
end

section
/-! PROOFS. The canonical form of memory (R3): what it means that a result holds it, and the stores that keep it. -/

namespace Sys2Proof.Machine

open Sys2Proof

/-! ## What keeps the canonical form -/

/-- The states of an issue's end keep every memory canonical. -/
def Act.memWf : Act → Prop
  | .done t | .jump t _ | .stay t | .wait t _ | .waitSym t _ => t.memWf = true
  | .trap _ => True

/-- The next state, if there is one, keeps every memory canonical. -/
inductive nextWf : Host.Outcome State Fault Refusal → Prop
  | next {t : State} (h : t.memWf = true) : nextWf (.next t)
  | fault {f : Fault} : nextWf (.fault f)
  | refused {r : Refusal} : nextWf (.refused r)

/-- What stops an issue keeps every memory canonical. -/
def Gate.memWf : Gate → Prop
  | .pass t | .held t => t.memWf = true

/-- What performs for a memory instruction keeps every memory canonical. -/
def MemAct.memWf (m : MemAct) : Prop := ∀ s ok, s.memWf = true → (m.perform s ok).memWf = true

section
variable {s t : State}

/-- A state whose memories are those of another. -/
theorem State.memWf_same (hs : s.memWf = true)
    {clock agenda cur die free strands cores quarters wgs wgNext sources srcNext pipes pkts parts dieW dieE doms toSlice
    slices latches joints jointNext cbars fabric boot upsets checks retired disabled far} :
    (State.mk clock agenda cur die free s.flostra s.spad s.vault s.hostMem strands cores quarters wgs wgNext sources srcNext
      pipes pkts parts dieW dieE doms toSlice slices latches joints jointNext cbars fabric boot upsets checks retired
      disabled far).memWf = true := hs

theorem State.memWf_ite {p : Prop} [Decidable p] (hs : s.memWf = true) (ht : t.memWf = true) : (if p then s else t).memWf = true := by
  split
  · exact hs
  · exact ht

theorem Act.memWf_ite {p : Prop} [Decidable p] {a b : Act} (ha : a.memWf) (hb : b.memWf) : (if p then a else b).memWf := by
  split
  · exact ha
  · exact hb

theorem memWf_of_eq_next {o : Host.Outcome State Fault Refusal} (h : o = .next t) (ho : nextWf o) : t.memWf = true := by
  cases ho with
  | next ht => exact Host.Outcome.next.inj h ▸ ht
  | fault => exact nomatch h
  | refused => exact nomatch h

/-- What holds at first and is kept by each element holds after all of them. -/
theorem foldl_keep {σ α : Type} {P : σ → Prop} {f : σ → α → σ} {l : List α} {i : σ} (hi : P i) (hf : ∀ s a, P s → P (f s a)) :
    P (l.foldl f i) := by
  induction l generalizing i with
  | nil => exact hi
  | cons a l ih => exact ih (hf i a hi)

theorem State.memWf_foldl {α : Type} {f : State → α → State} {l : List α} (hs : s.memWf = true)
    (hf : ∀ s a, s.memWf = true → (f s a).memWf = true) : (l.foldl f s).memWf = true :=
  foldl_keep (P := fun s : State => s.memWf = true) hs hf

/-- What a pair holds, its parts hold. -/
theorem memWf_of_eq_fst {α : Type} {p : State × α} {a : α} (h : p = (t, a)) (hp : p.1.memWf = true) : t.memWf = true := by
  rw [h] at hp
  exact hp

theorem memWf_of_eq_snd {α : Type} {p : α × State} {a : α} (h : p = (a, t)) (hp : p.2.memWf = true) : t.memWf = true := by
  rw [h] at hp
  exact hp

theorem memWf_of_eq_snd_snd {α β : Type} {p : α × β × State} {a : α} {b : β} (h : p = (a, b, t)) (hp : p.2.2.memWf = true) :
    t.memWf = true := by
  rw [h] at hp
  exact hp

theorem eng_memWf_of_eq_snd {α : Type} {p : α × Eng} {a : α} {e : Eng} (h : p = (a, e)) (hp : p.2.s.memWf = true) :
    e.s.memWf = true := by
  rw [h] at hp
  exact hp

theorem eng_memWf_of_eq_snd_snd {α β : Type} {p : α × β × Eng} {a : α} {b : β} {e : Eng} (h : p = (a, b, e))
    (hp : p.2.2.s.memWf = true) : e.s.memWf = true := by
  rw [h] at hp
  exact hp

theorem Act.memWf_of_eq {a b : Act} (h : a = b) (ha : a.memWf) : b.memWf := h ▸ ha

theorem Gate.memWf_of_eq {a b : Gate} (h : a = b) (ha : a.memWf) : b.memWf := h ▸ ha

/-- The first of a pair. -/
theorem memWf_fst_ite {α : Type} {p : Prop} [Decidable p] {a b : State × α} (ha : a.1.memWf = true) (hb : b.1.memWf = true) :
    (if p then a else b).1.memWf = true := by
  split
  · exact ha
  · exact hb

theorem forall_eq_none {α : Type} {P : α → Prop} : ∀ x, none = some x → P x := nofun

theorem forall_eq_some {α : Type} {P : α → Prop} {y : α} (h : P y) : ∀ x, some y = some x → P x := fun _ he => Option.some.inj he ▸ h

theorem forall_map_eq_some {α β : Type} {P : β → Prop} {f : α → β} {o : Option α} (h : ∀ a, o = some a → P (f a)) :
    ∀ x, o.map f = some x → P x := fun x hx => by
  obtain ⟨a, ha, rfl⟩ := Option.map_eq_some_iff.mp hx
  exact h a ha

theorem forall_bind_eq_some {α β : Type} {P : β → Prop} {f : α → Option β} {o : Option α}
    (h : ∀ a, o = some a → ∀ x, f a = some x → P x) : ∀ x, o.bind f = some x → P x := fun x hx => by
  obtain ⟨a, ha, hf⟩ := Option.bind_eq_some_iff.mp hx
  exact h a ha x hf

theorem forall_findSome_eq_some {α β : Type} {P : β → Prop} {f : α → Option β} {l : List α} (h : ∀ a x, f a = some x → P x) :
    ∀ x, l.findSome? f = some x → P x := fun x hx => by
  obtain ⟨a, _, ha⟩ := List.exists_of_findSome?_eq_some hx
  exact h a x ha

end

/-! ## Lists of things that may come next -/

/-- Every meaning of the list keeps every memory canonical. -/
def triesKeep (l : List Meaning) : Prop := ∀ f ∈ l, ∀ s, s.memWf = true → nextWf (f s)

section
variable {f : Meaning} {l m : List Meaning}

theorem triesKeep_nil : triesKeep [] := fun _ hf => absurd hf List.not_mem_nil

theorem triesKeep_cons (hf : ∀ s, s.memWf = true → nextWf (f s)) (hl : triesKeep l) : triesKeep (f :: l) :=
  List.forall_mem_cons.mpr ⟨hf, hl⟩

theorem triesKeep_append (hl : triesKeep l) (hm : triesKeep m) : triesKeep (l ++ m) := List.forall_mem_append.mpr ⟨hl, hm⟩

theorem triesKeep_map {α : Type} {g : α → Meaning} {l : List α} (hg : ∀ a s, s.memWf = true → nextWf (g a s)) :
    triesKeep (l.map g) := List.forall_mem_map.mpr fun a _ => hg a

theorem triesKeep_flatMap {α : Type} {g : α → List Meaning} {l : List α} (hg : ∀ a, triesKeep (g a)) :
    triesKeep (l.flatMap g) := fun f hf => by
  obtain ⟨a, _, ha⟩ := List.mem_flatMap.mp hf
  exact hg a f ha

end

/-! ## Stores -/

section
variable {s : State} (hs : s.memWf = true)
include hs

theorem State.setCells_memWf {p : Place} {m : List Host.Cell} (hm : Memory.wf m = true) : (s.setCells p m).memWf = true :=
  State.memWf_setCells s p m hs hm

theorem State.store_memWf {p : Place} {a n v : Nat} : (s.store p a n v).memWf = true := State.memWf_store s p a n v hs

theorem State.memWf_foresee : s.foresee.memWf = true := hs

theorem State.cells_wf (p : Place) : Memory.wf (s.cells p) = true := (State.memWf_iff s).mp hs p

theorem State.flostra_wf : Memory.wf s.flostra = true := State.cells_wf hs .flostra

theorem State.spad_wf : Memory.wf s.spad = true := State.cells_wf hs .spad

theorem State.vault_wf : Memory.wf s.vault = true := State.cells_wf hs .vault

theorem State.hostMem_wf : Memory.wf s.hostMem = true := State.cells_wf hs .host

end

/-- The canonical form, memory by memory. -/
theorem State.memWf_of
    {clock agenda cur die free flostra spad vault hostMem strands cores quarters wgs wgNext sources srcNext pipes pkts parts
    dieW dieE doms toSlice slices latches joints jointNext cbars fabric boot upsets checks retired disabled far}
    (hf : Memory.wf flostra = true) (hs : Memory.wf spad = true) (hv : Memory.wf vault = true) (hh : Memory.wf hostMem = true) :
    (State.mk clock agenda cur die free flostra spad vault hostMem strands cores quarters wgs wgNext sources srcNext pipes
      pkts parts dieW dieE doms toSlice slices latches joints jointNext cbars fabric boot upsets checks retired disabled
      far).memWf = true := by
  rw [State.memWf, hf, hs, hv, hh]
  rfl

theorem Memory.wf_clearRun {m : List Host.Cell} (h : Memory.wf m = true) {a n : Nat} : Memory.wf (clearRun m a n) = true :=
  Memory.wf_filter _ m h

end Sys2Proof.Machine
end

section
/-! PROOFS. Every function of the model keeps the canonical form of memory (R3): the named operations over the state,
operands, translation, memory operands and the instructions that compute. -/

namespace Sys2Proof.Machine

open Sys2Proof

section
variable {s : State} {c : Ic} {e : Eng}

/-! ## The state at reset -/

theorem State.reset_memWf : State.reset.memWf = true := rfl

/-! ## Named operations over the state -/

theorem State.setStrand_memWf {key st} (hs : s.memWf = true) : (s.setStrand key st).memWf = true := hs

theorem State.onStrand_memWf {key} {f : Strand → Strand} (hs : s.memWf = true) : (s.onStrand key f).memWf = true := hs

theorem State.setPart_memWf {p x} (hs : s.memWf = true) : (s.setPart p x).memWf = true := hs

theorem State.onPart_memWf {p} {f : Part → Part} (hs : s.memWf = true) : (s.onPart p f).memWf = true := hs

theorem State.setCore_memWf {c x} (hs : s.memWf = true) : (s.setCore c x).memWf = true := hs

theorem State.onCore_memWf {c} {f : CoreSt → CoreSt} (hs : s.memWf = true) : (s.onCore c f).memWf = true := hs

theorem State.setQuarter_memWf {q x} (hs : s.memWf = true) : (s.setQuarter q x).memWf = true := hs

theorem State.onQuarter_memWf {q} {f : QuarterSt → QuarterSt} (hs : s.memWf = true) : (s.onQuarter q f).memWf = true := hs

theorem State.onWg_memWf {k} {f : Wg → Wg} (hs : s.memWf = true) : (s.onWg k f).memWf = true := hs

theorem State.onSource_memWf {k} {f : Source → Source} (hs : s.memWf = true) : (s.onSource k f).memWf = true := hs

theorem State.setDie_memWf {d x} (hs : s.memWf = true) : (s.setDie d x).memWf = true :=
  State.memWf_ite (State.memWf_same hs) (State.memWf_same hs)

theorem State.onDie_memWf {d} {f : DieSt → DieSt} (hs : s.memWf = true) : (s.onDie d f).memWf = true := State.setDie_memWf hs

theorem State.draw_memWf (hs : s.memWf = true) : s.draw.2.memWf = true := hs

theorem State.postGroup_memWf {p g} (hs : s.memWf = true) : (s.postGroup p g).memWf = true := hs

theorem State.postRec_memWf {p r} (hs : s.memWf = true) : (s.postRec p r).memWf = true := hs

theorem State.route_memWf {e} (hs : s.memWf = true) : (s.route e).memWf = true := State.onDie_memWf hs

theorem State.interrupt_memWf {p cause} (hs : s.memWf = true) : (s.interrupt p cause).memWf = true := by
  unfold State.interrupt
  dsimp only
  split
  · exact State.memWf_same (State.onPart_memWf hs)
  · exact State.store_memWf (State.onPart_memWf hs)

theorem State.takeTrap_memWf {key slot t pc tpc} (hs : s.memWf = true) : (s.takeTrap key slot t pc tpc).memWf = true := by
  unfold State.takeTrap
  dsimp only
  split
  · exact hs
  · exact State.memWf_ite (State.setStrand_memWf hs) (State.route_memWf (State.setStrand_memWf hs))

theorem Ic.trapWhole_memWf {sub code} : (c.trapWhole sub code).memWf := trivial

theorem Act.trapLanes_memWf {sub code lanes} : (Act.trapLanes sub code lanes).memWf := trivial

theorem State.noteIssue_memWf {key slot} (hs : s.memWf = true) : (s.noteIssue key slot).memWf = true := hs

theorem State.useSlots_memWf {key slots} (hs : s.memWf = true) : (s.useSlots key slots).memWf = true :=
  State.memWf_ite hs (State.onStrand_memWf (State.onQuarter_memWf hs))

theorem State.parkAsync_memWf {key slot o} (hs : s.memWf = true) : (s.parkAsync key slot o).memWf = true := hs

theorem State.conclude_memWf {c len} {a : Act} (hs : s.memWf = true) (ha : a.memWf) : (s.conclude c len a).memWf = true := by
  unfold State.conclude
  split
  · exact State.noteIssue_memWf (State.onStrand_memWf ha)
  · exact State.noteIssue_memWf (State.onStrand_memWf ha)
  · exact State.noteIssue_memWf ha
  · exact State.noteIssue_memWf (State.takeTrap_memWf hs)
  · exact State.onStrand_memWf ha
  · split
    · exact State.parkAsync_memWf ha
    · exact State.onStrand_memWf ha

theorem issue_memWf {len} {f : Ic → Act} (hs : s.memWf = true) (hf : ∀ (c : Ic), (f c).memWf) : nextWf (issue s len f) := by
  unfold issue
  split
  · exact nextWf.fault
  · exact nextWf.next (State.conclude_memWf hs (hf _))

theorem issueX_memWf {x} {f : Ic → Act} (hs : s.memWf = true) (hf : ∀ (c : Ic), (f c).memWf) : nextWf (issueX s x f) :=
  issue_memWf hs hf

theorem Ic.privileged_memWf {k : Act} (hk : k.memWf) : (c.privileged k).memWf := Act.memWf_ite hk Ic.trapWhole_memWf

theorem Ic.wholeStrand_memWf {k : Act} (hk : k.memWf) : (c.wholeStrand k).memWf := Act.memWf_ite hk Ic.trapWhole_memWf

theorem event_memWf {f : State → State} (hs : s.memWf = true) (hf : ∀ (t : State), t.memWf = true → (f t).memWf = true) :
    nextWf (event s f) := nextWf.next (hf _ hs)

theorem policyOp_memWf {f : Decision → Decision} (hs : s.memWf = true) : nextWf (policyOp s f) := by
  unfold policyOp
  split
  · exact nextWf.fault
  · exact nextWf.next (State.onDie_memWf hs)

/-! ## Reading operands -/

theorem State.putRegs_memWf {c r} (hs : s.memWf = true) : (s.putRegs c r).memWf = true := hs

theorem State.raise_memWf {key fl} (hs : s.memWf = true) : (s.raise key fl).memWf = true := hs

theorem Ic.writeForm_memWf {n f copies} (hs : s.memWf = true) : (c.writeForm s n f copies).memWf :=
  Act.memWf_ite (Act.memWf_ite Ic.trapWhole_memWf hs) (Act.memWf_ite hs (State.putRegs_memWf hs))

theorem Ic.vec_memWf {x n dWide ops o} (hs : s.memWf = true) : (c.vec s x n dWide ops o).memWf := by
  unfold Ic.vec
  refine Act.memWf_ite hs ?_
  dsimp only
  split
  · refine Act.memWf_ite ?_ hs
    split
    · exact Ic.writeForm_memWf hs
    · exact hs
  · exact Act.memWf_ite hs (Act.memWf_ite Ic.trapWhole_memWf (State.raise_memWf (State.putRegs_memWf hs)))

theorem Ic.known_memWf {x ops} {k : List Off → Act} (hs : s.memWf = true) (hk : ∀ (x : List Off), (k x).memWf) :
    (c.known s x ops k).memWf := by
  unfold Ic.known
  refine Act.memWf_ite hs ?_
  dsimp only
  split
  · exact hs
  · exact hk _

theorem Ic.toS_memWf {n v} (hs : s.memWf = true) : (c.toS s n v).memWf := Act.memWf_ite hs (State.putRegs_memWf hs)

/-! ## The MODE register's fields -/

theorem Ic.seedReady_memWf {x} {k : Act} (hs : s.memWf = true) (hk : k.memWf) : (c.seedReady x s k).memWf :=
  Act.memWf_ite (Act.memWf_ite hs (Act.memWf_ite hs hk)) hk

/-! ## Page tables, the TLB, translation registers and the spaces -/

theorem State.touch_memWf {ent acc} (hs : s.memWf = true) : (s.touch ent acc).memWf = true := State.store_memWf hs

theorem State.askWalks_memWf {core ws} (hs : s.memWf = true) : (s.askWalks core ws).memWf = true := hs

theorem State.endWalk_memWf {w} (hs : s.memWf = true) : (s.endWalk w).memWf = true := by
  unfold State.endWalk
  dsimp only
  split
  · exact State.touch_memWf (State.onCore_memWf (State.onCore_memWf hs))
  · exact State.onCore_memWf (State.onCore_memWf hs)

theorem State.dropFails_memWf {core part} (hs : s.memWf = true) : (s.dropFails core part).memWf = true := hs

theorem State.trNow_memWf {core part acc va} (hs : s.memWf = true) : (s.trNow core part acc va).2.memWf = true := by
  unfold State.trNow
  split
  · exact hs
  · split
    · exact State.touch_memWf hs
    · split
      · exact State.touch_memWf (State.onCore_memWf hs)
      · exact hs

theorem State.farAsk_memWf {r} (hs : s.memWf = true) : (s.farAsk r).memWf = true := State.memWf_ite hs (State.memWf_same hs)

theorem State.farRead_memWf {a n} (hs : s.memWf = true) : (s.farRead a n).2.memWf = true := by
  unfold State.farRead
  refine foldl_keep (P := fun x : List Byte × State => x.2.memWf = true) hs fun _ _ h3 => ?_
  dsimp only
  split
  · exact h3
  · exact State.farAsk_memWf (State.memWf_same h3)

theorem State.farWrite_memWf {a l b32} (hs : s.memWf = true) : (s.farWrite a l b32).memWf = true :=
  State.memWf_foldl hs fun _ _ h3 => State.farAsk_memWf h3

theorem State.farPost_memWf {part l} (hs : s.memWf = true) : (s.farPost part l).memWf = true := hs

theorem State.wrote_memWf {p a n} (hs : s.memWf = true) : (s.wrote p a n).memWf = true := hs

theorem State.rd_memWf {p a n} (hs : s.memWf = true) : (s.rd p a n).2.memWf = true := by
  unfold State.rd
  split
  · split
    · refine foldl_keep (P := fun x : List Byte × State => x.2.memWf = true) hs fun _ _ h3 => ?_
      dsimp only
      split
      · exact h3
      · exact State.farAsk_memWf (State.memWf_same h3)
    · exact hs

theorem State.wr_memWf {p a n v b32} (hs : s.memWf = true) : (s.wr p a n v b32).memWf = true := by
  unfold State.wr
  split
  · exact State.memWf_ite (State.farWrite_memWf hs) (State.wrote_memWf (State.store_memWf hs))

theorem State.vwrite_memWf {part va n v} (hs : s.memWf = true) : (s.vwrite part va n v).memWf = true := by
  unfold State.vwrite
  split
  · split
    · exact State.touch_memWf (State.memWf_ite (State.farPost_memWf hs) (State.wrote_memWf (State.store_memWf hs)))
  · exact hs

theorem State.farSeen_memWf {part l} (hs : s.memWf = true) : (s.farSeen part l).memWf = true :=
  State.memWf_foldl hs fun _ _ h3 => State.memWf_ite (State.memWf_same h3) (State.memWf_same h3)

theorem State.seen_memWf {part va n} (hs : s.memWf = true) : (s.seen part va n).memWf = true := by
  unfold State.seen
  refine State.memWf_foldl hs fun _ _ h3 => ?_
  dsimp only
  split
  · exact State.memWf_ite (State.farSeen_memWf (State.touch_memWf h3)) (State.touch_memWf h3)
  · exact h3

theorem State.vwriteBytes_memWf {part va l} (hs : s.memWf = true) : (s.vwriteBytes part va l).memWf = true :=
  State.memWf_foldl hs fun _ _ h3 => State.vwrite_memWf h3

/-! ## Memory operands -/

theorem Ic.checkAddrs_memWf {sp a n ls} (_ : s.memWf = true) : ∀ (x : Act), c.checkAddrs s sp a n ls = some x → x.memWf := by
  unfold Ic.checkAddrs
  dsimp only
  split
  · split
    · exact forall_eq_some Ic.trapWhole_memWf
    · split
      · exact forall_eq_some Act.trapLanes_memWf
      · exact forall_eq_none
  · split
    · exact forall_eq_some Act.trapLanes_memWf
    · split
      · exact forall_eq_some Act.trapLanes_memWf
      · exact forall_eq_none
  · split
    · exact forall_eq_some Act.trapLanes_memWf
    · split
      · exact forall_eq_some Act.trapLanes_memWf
      · exact forall_eq_none
  · split
    · exact forall_eq_some Act.trapLanes_memWf
    · split
      · exact forall_eq_some Act.trapLanes_memWf
      · exact forall_eq_none

theorem State.parkFail_memWf {c lanes r recs} (hs : s.memWf = true) : (s.parkFail c lanes r recs).memWf = true := hs

theorem State.addOp_memWf {key o} (hs : s.memWf = true) : (s.addOp key o).memWf = true := hs

theorem State.acquired_memWf {c scope} (hs : s.memWf = true) : (s.acquired c scope).memWf = true := hs

theorem Act.acquired_memWf {c scope} {a : Act} (ha : a.memWf) : (Act.acquired c scope a).memWf := by
  unfold Act.acquired
  split
  · exact State.acquired_memWf ha
  · exact ha

theorem State.addRecOp_memWf {key o} (hs : s.memWf = true) : (s.addRecOp key o).memWf = true := hs

theorem Ic.sectorRoom_memWf {l} {k : Act} (hs : s.memWf = true) (hk : k.memWf) : (c.sectorRoom s l k).memWf :=
  Act.memWf_ite hk hs

theorem Ic.follows_memWf {o why} {k : Act} (hs : s.memWf = true) (hk : k.memWf) : (c.follows s o why k).memWf :=
  Act.memWf_ite hk hs

theorem Ic.released_memWf {why} {k : Act} (hs : s.memWf = true) (hk : k.memWf) : (c.released s why k).memWf :=
  Ic.follows_memWf hs hk

theorem Ic.acquired_memWf {k : Act} (hs : s.memWf = true) (hk : k.memWf) : (c.acquired s k).memWf := Ic.follows_memWf hs hk

theorem State.disableRow_memWf {part p a} (hs : s.memWf = true) : (s.disableRow part p a).memWf = true :=
  State.memWf_ite hs (State.postRec_memWf (State.memWf_same hs))

theorem State.treatUpset_memWf {part u} (hs : s.memWf = true) : (s.treatUpset part u).1.memWf = true := by
  unfold State.treatUpset
  dsimp only
  split
  · exact State.postRec_memWf (State.memWf_same hs)
  · split
    · exact State.store_memWf (State.memWf_same hs)
    · split
      · split
        · exact hs
        · exact State.postRec_memWf (State.memWf_same hs)
      · exact State.disableRow_memWf hs
      · exact State.disableRow_memWf hs
      · exact State.onCore_memWf hs
      · exact hs

theorem State.lossAlone_memWf {part u} (hs : s.memWf = true) : (s.lossAlone part u).memWf = true := by
  unfold State.lossAlone
  dsimp only
  split
  · exact State.treatUpset_memWf hs
  · exact State.route_memWf (State.treatUpset_memWf hs)

theorem State.eccScan_memWf {part n accs} (hs : s.memWf = true) : (s.eccScan part n accs).1.memWf = true := by
  unfold State.eccScan
  refine foldl_keep (P := fun x : State × List Nat × Nat × Nat => x.1.memWf = true) hs fun _ _ h3 => ?_
  split
  · split
    · exact h3
    · split
      next e4 =>
        have h5 := memWf_of_eq_fst e4 (State.treatUpset_memWf h3)
        split <;> exact h5

theorem State.parkRouted_memWf {c t r} (hs : s.memWf = true) : (s.parkRouted c t r).memWf = true :=
  State.route_memWf (State.onStrand_memWf (State.dropFails_memWf hs))

theorem State.parkLoss_memWf {c lanes sub outcome code} (hs : s.memWf = true) :
    (s.parkLoss c lanes sub outcome code).memWf = true := State.parkRouted_memWf hs

theorem State.syncAt_memWf {p pa u} (hs : s.memWf = true) : (s.syncAt p pa u).memWf = true := by
  unfold State.syncAt
  split
  · exact State.memWf_ite (State.farAsk_memWf hs) (State.wrote_memWf (State.store_memWf hs))

theorem State.syncPlace_memWf {core part wg sp a} (hs : s.memWf = true) : (s.syncPlace core part wg sp a).2.memWf = true := by
  unfold State.syncPlace
  split
  · exact hs
  · split <;> exact hs
  · split
    next e1 => exact memWf_of_eq_snd e1 (State.trNow_memWf hs)
    next e3 => exact memWf_of_eq_snd e3 (State.trNow_memWf hs)

theorem State.vsync_memWf {part va u} (hs : s.memWf = true) : (s.vsync part va u).memWf = true := by
  unfold State.vsync
  split
  · split
    · exact State.touch_memWf (State.memWf_ite (State.farPost_memWf hs) (State.syncAt_memWf hs))
  · exact hs

theorem State.touchAll_memWf {part acc sp ok} (hs : s.memWf = true) : (s.touchAll part acc sp ok).memWf = true := by
  unfold State.touchAll
  refine State.memWf_ite hs ?_
  refine State.memWf_foldl hs fun _ _ h3 => ?_
  split
  · exact State.touch_memWf h3
  · exact h3

theorem Ic.memIssue_memWf {m : MemAct} (hs : s.memWf = true) (hm : m.memWf) : (c.memIssue s m).memWf := by
  unfold Ic.memIssue
  extract_lets r late
  refine Act.memWf_ite hs (Act.memWf_ite (State.askWalks_memWf hs) (Act.memWf_ite hs (Ic.sectorRoom_memWf hs ?_)))
  split
  next s1 _ _ _ e1 =>
    have h1 : s1.memWf = true := by
      split at e1
      · exact memWf_of_eq_fst e1 (State.eccScan_memWf hs)
      · exact memWf_of_eq_fst e1 hs
    refine Act.memWf_ite (State.parkLoss_memWf h1) ?_
    have h2 := State.memWf_ite (p := (m.lanes.isEmpty || !r.ok.isEmpty) = true)
      (hm _ r.ok (State.touchAll_memWf (part := c.st.part) (acc := m.acc) (sp := m.space) (ok := r.ok) h1)) h1
    exact Act.memWf_ite h2 (State.parkFail_memWf h2)

theorem Ic.firstIssue_memWf {check : Option Act} {k : Act} (hcheck : ∀ (x : Act), check = some x → x.memWf) (hk : k.memWf) :
    (c.firstIssue check k).memWf := by
  unfold Ic.firstIssue
  split
  · exact hcheck _ rfl
  · exact hk

/-! ## Scalar integer instructions -/

theorem sintOp_memWf {len x ops} {g : List DWord → DWord} (hs : s.memWf = true) : nextWf (sintOp s len x ops g) :=
  issue_memWf hs fun _ => Ic.known_memWf hs fun _ => Ic.toS_memWf hs

theorem sint2_memWf {len x t} {g : Int → Int → Int} (hs : s.memWf = true) : nextWf (sint2 s len x t g) := sintOp_memWf hs

theorem Ic.writeFormS_memWf {n f} (hs : s.memWf = true) : (c.writeFormS s n f).memWf :=
  Act.memWf_ite hs (Act.memWf_ite hs (State.putRegs_memWf hs))

theorem sintPnd_memWf {len x t} {g : Int → Int → Int} {h : Form → Off → Form} (hs : s.memWf = true) :
    nextWf (sintPnd s len x t g h) := by
  unfold sintPnd
  refine issue_memWf hs fun _ => ?_
  refine Act.memWf_ite hs ?_
  split
  · exact Act.memWf_ite (Ic.writeFormS_memWf hs) hs
  · exact Act.memWf_ite (Ic.writeFormS_memWf hs) hs
  · exact Ic.toS_memWf hs
  · exact hs

theorem saddOp_memWf {len x t} (hs : s.memWf = true) : nextWf (saddOp s len x t) := sintPnd_memWf hs

theorem smulOp_memWf {len x t} (hs : s.memWf = true) : nextWf (smulOp s len x t) := sintPnd_memWf hs

theorem sshiftOp_memWf {len x t} {g : Ty → Int → Nat → Int} (hs : s.memWf = true) : nextWf (sshiftOp s len x t g) :=
  sintOp_memWf hs

theorem smovOp_memWf {len x t} (hs : s.memWf = true) : nextWf (smovOp s len x t) := sintOp_memWf hs

theorem execSadd_memWf {x} (hs : s.memWf = true) : nextWf (execSadd x s) := saddOp_memWf hs

theorem execSsub_memWf {x} (hs : s.memWf = true) : nextWf (execSsub x s) := sint2_memWf hs

theorem execSmul_memWf {x} (hs : s.memWf = true) : nextWf (execSmul x s) := smulOp_memWf hs

theorem execSmad_memWf {x} (hs : s.memWf = true) : nextWf (execSmad x s) := sintOp_memWf hs

theorem execSmulh_memWf {x} (hs : s.memWf = true) : nextWf (execSmulh x s) := sint2_memWf hs

theorem execSdiv_memWf {x} (hs : s.memWf = true) : nextWf (execSdiv x s) := sint2_memWf hs

theorem execSrem_memWf {x} (hs : s.memWf = true) : nextWf (execSrem x s) := sint2_memWf hs

theorem execSand_memWf {x} (hs : s.memWf = true) : nextWf (execSand x s) := sint2_memWf hs

theorem execSor_memWf {x} (hs : s.memWf = true) : nextWf (execSor x s) := sint2_memWf hs

theorem execSxor_memWf {x} (hs : s.memWf = true) : nextWf (execSxor x s) := sint2_memWf hs

theorem execSshl_memWf {x} (hs : s.memWf = true) : nextWf (execSshl x s) := sshiftOp_memWf hs

theorem execSshr_memWf {x} (hs : s.memWf = true) : nextWf (execSshr x s) := sshiftOp_memWf hs

theorem execSsar_memWf {x} (hs : s.memWf = true) : nextWf (execSsar x s) := sshiftOp_memWf hs

theorem execSmin_memWf {x} (hs : s.memWf = true) : nextWf (execSmin x s) := sint2_memWf hs

theorem execSmax_memWf {x} (hs : s.memWf = true) : nextWf (execSmax x s) := sint2_memWf hs

theorem execSmov_memWf {x} (hs : s.memWf = true) : nextWf (execSmov x s) := smovOp_memWf hs

theorem execSsel_memWf {x} (hs : s.memWf = true) : nextWf (execSsel x s) :=
  issueX_memWf hs fun _ => Ic.known_memWf hs fun _ => Ic.toS_memWf hs

theorem execSclz_memWf {x} (hs : s.memWf = true) : nextWf (execSclz x s) := sintOp_memWf hs

theorem execSpopc_memWf {x} (hs : s.memWf = true) : nextWf (execSpopc x s) := sintOp_memWf hs

theorem execSbfe_memWf {x} (hs : s.memWf = true) : nextWf (execSbfe x s) := sintOp_memWf hs

theorem execSbfi_memWf {x} (hs : s.memWf = true) : nextWf (execSbfi x s) := sintOp_memWf hs

/-! ## Vector integer instructions -/

theorem vecOp_memWf {len x dWide ops o} (hs : s.memWf = true) : nextWf (vecOp s len x dWide ops o) :=
  issue_memWf hs fun _ => Ic.vec_memWf hs

theorem vint2_memWf {len x t} {g : Int → Int → Int} (hs : s.memWf = true) : nextWf (vint2 s len x t g) := vecOp_memWf hs

theorem vint1_memWf {len x t} {g : Int → Int} (hs : s.memWf = true) : nextWf (vint1 s len x t g) := vecOp_memWf hs

theorem vaddOp_memWf {len x t} (hs : s.memWf = true) : nextWf (vaddOp s len x t) := vecOp_memWf hs

theorem vsubOp_memWf {len x t} (hs : s.memWf = true) : nextWf (vsubOp s len x t) := vecOp_memWf hs

theorem vmulOp_memWf {len x t} (hs : s.memWf = true) : nextWf (vmulOp s len x t) := vecOp_memWf hs

theorem vshlOp_memWf {len x t} (hs : s.memWf = true) : nextWf (vshlOp s len x t) := vecOp_memWf hs

theorem vshrOp_memWf {len x t} (hs : s.memWf = true) : nextWf (vshrOp s len x t) := vecOp_memWf hs

theorem vmovOp_memWf {len x t} (hs : s.memWf = true) : nextWf (vmovOp s len x t) := vecOp_memWf hs

theorem vlaneOp_memWf {len x} (hs : s.memWf = true) : nextWf (vlaneOp s len x) := vecOp_memWf hs

theorem Act.also_memWf {a : Act} {f : State → State} (ha : a.memWf) (hf : ∀ (t : State), t.memWf = true → (f t).memWf = true) :
    (a.also f).memWf := by
  unfold Act.also
  split
  · exact hf _ ha
  · exact ha

theorem execVadd_memWf {x} (hs : s.memWf = true) : nextWf (execVadd x s) := vaddOp_memWf hs

theorem execVsub_memWf {x} (hs : s.memWf = true) : nextWf (execVsub x s) := vsubOp_memWf hs

theorem execVmul_memWf {x} (hs : s.memWf = true) : nextWf (execVmul x s) := vmulOp_memWf hs

theorem execVmad_memWf {x} (hs : s.memWf = true) : nextWf (execVmad x s) := vecOp_memWf hs

theorem execVmulh_memWf {x} (hs : s.memWf = true) : nextWf (execVmulh x s) := vint2_memWf hs

theorem execVand_memWf {x} (hs : s.memWf = true) : nextWf (execVand x s) := vint2_memWf hs

theorem execVor_memWf {x} (hs : s.memWf = true) : nextWf (execVor x s) := vint2_memWf hs

theorem execVxor_memWf {x} (hs : s.memWf = true) : nextWf (execVxor x s) := vint2_memWf hs

theorem execVnot_memWf {x} (hs : s.memWf = true) : nextWf (execVnot x s) := vint1_memWf hs

theorem execVshl_memWf {x} (hs : s.memWf = true) : nextWf (execVshl x s) := vshlOp_memWf hs

theorem execVshr_memWf {x} (hs : s.memWf = true) : nextWf (execVshr x s) := vshrOp_memWf hs

theorem execVsar_memWf {x} (hs : s.memWf = true) : nextWf (execVsar x s) := vshrOp_memWf hs

theorem execVmin_memWf {x} (hs : s.memWf = true) : nextWf (execVmin x s) := vint2_memWf hs

theorem execVmax_memWf {x} (hs : s.memWf = true) : nextWf (execVmax x s) := vint2_memWf hs

theorem execVabs_memWf {x} (hs : s.memWf = true) : nextWf (execVabs x s) := vint1_memWf hs

theorem execVneg_memWf {x} (hs : s.memWf = true) : nextWf (execVneg x s) := vint1_memWf hs

theorem execVsel_memWf {x} (hs : s.memWf = true) : nextWf (execVsel x s) := issueX_memWf hs fun _ => Ic.vec_memWf hs

theorem execVclz_memWf {x} (hs : s.memWf = true) : nextWf (execVclz x s) := vint1_memWf hs

theorem execVpopc_memWf {x} (hs : s.memWf = true) : nextWf (execVpopc x s) := vint1_memWf hs

theorem execVbfe_memWf {x} (hs : s.memWf = true) : nextWf (execVbfe x s) := vecOp_memWf hs

theorem execVbfi_memWf {x} (hs : s.memWf = true) : nextWf (execVbfi x s) := vecOp_memWf hs

theorem execVdot4_memWf {x} (hs : s.memWf = true) : nextWf (execVdot4 x s) := vecOp_memWf hs

theorem execVmov_memWf {x} (hs : s.memWf = true) : nextWf (execVmov x s) := vmovOp_memWf hs

theorem execVlane_memWf {x} (hs : s.memWf = true) : nextWf (execVlane x s) := vlaneOp_memWf hs

theorem execVaddc_memWf {x} (hs : s.memWf = true) : nextWf (execVaddc x s) := by
  unfold execVaddc
  refine issueX_memWf hs fun _ => ?_
  dsimp only
  split
  · exact Act.also_memWf (Ic.vec_memWf hs) fun _ h3 => State.onStrand_memWf h3
  · exact Ic.vec_memWf hs

theorem execVsadd_memWf {x} (hs : s.memWf = true) : nextWf (execVsadd x s) := vecOp_memWf hs

/-! ## Vector floating-point instructions -/

theorem vfpRound_memWf {len x t ops} {g : FpEnv → Nat → List Nat → Nat × Half}
    {pnd : FpEnv → Regs → Nat → List Src → Option (Form × List Nat)} (hs : s.memWf = true) :
    nextWf (vfpRound s len x t ops g pnd) := issue_memWf hs fun _ => Ic.seedReady_memWf hs (Ic.vec_memWf hs)

theorem vfpPlain_memWf {len x t ops} {g : FpEnv → List Nat → Nat × Half} (hs : s.memWf = true) :
    nextWf (vfpPlain s len x t ops g) := issue_memWf hs fun _ => Ic.vec_memWf hs

theorem faddOp_memWf {len x t} (hs : s.memWf = true) : nextWf (faddOp s len x t) := vfpRound_memWf hs

theorem fsubOp_memWf {len x t} (hs : s.memWf = true) : nextWf (fsubOp s len x t) := vfpRound_memWf hs

theorem fmulOp_memWf {len x t} (hs : s.memWf = true) : nextWf (fmulOp s len x t) := vfpRound_memWf hs

theorem ffmaOp_memWf {len x t} (hs : s.memWf = true) : nextWf (ffmaOp s len x t) := vfpRound_memWf hs

theorem fminmaxOp_memWf {len x t isMax prop} (hs : s.memWf = true) : nextWf (fminmaxOp s len x t isMax prop) :=
  vfpPlain_memWf hs

theorem ffunOp_memWf {len x t} {g : Fv → Fv × Half} (hs : s.memWf = true) : nextWf (ffunOp s len x t g) := vfpRound_memWf hs

theorem execFadd_memWf {x} (hs : s.memWf = true) : nextWf (execFadd x s) := faddOp_memWf hs

theorem execFsub_memWf {x} (hs : s.memWf = true) : nextWf (execFsub x s) := fsubOp_memWf hs

theorem execFmul_memWf {x} (hs : s.memWf = true) : nextWf (execFmul x s) := fmulOp_memWf hs

theorem execFfma_memWf {x} (hs : s.memWf = true) : nextWf (execFfma x s) := ffmaOp_memWf hs

theorem execFmin_memWf {x} (hs : s.memWf = true) : nextWf (execFmin x s) := fminmaxOp_memWf hs

theorem execFmax_memWf {x} (hs : s.memWf = true) : nextWf (execFmax x s) := fminmaxOp_memWf hs

theorem execFminp_memWf {x} (hs : s.memWf = true) : nextWf (execFminp x s) := fminmaxOp_memWf hs

theorem execFmaxp_memWf {x} (hs : s.memWf = true) : nextWf (execFmaxp x s) := fminmaxOp_memWf hs

theorem execFabs_memWf {x} (hs : s.memWf = true) : nextWf (execFabs x s) := vfpPlain_memWf hs

theorem execFneg_memWf {x} (hs : s.memWf = true) : nextWf (execFneg x s) := vfpPlain_memWf hs

theorem execFrcp_memWf {x} (hs : s.memWf = true) : nextWf (execFrcp x s) := ffunOp_memWf hs

theorem execFrsq_memWf {x} (hs : s.memWf = true) : nextWf (execFrsq x s) := ffunOp_memWf hs

theorem execFsqrt_memWf {x} (hs : s.memWf = true) : nextWf (execFsqrt x s) := ffunOp_memWf hs

theorem execFdiv_memWf {x} (hs : s.memWf = true) : nextWf (execFdiv x s) := vfpRound_memWf hs

theorem execFexp2_memWf {x} (hs : s.memWf = true) : nextWf (execFexp2 x s) := ffunOp_memWf hs

theorem execFlog2_memWf {x} (hs : s.memWf = true) : nextWf (execFlog2 x s) := ffunOp_memWf hs

theorem execFsin_memWf {x} (hs : s.memWf = true) : nextWf (execFsin x s) := ffunOp_memWf hs

theorem execFcos_memWf {x} (hs : s.memWf = true) : nextWf (execFcos x s) := ffunOp_memWf hs

theorem execFtanh_memWf {x} (hs : s.memWf = true) : nextWf (execFtanh x s) := ffunOp_memWf hs

theorem execFclass_memWf {x} (hs : s.memWf = true) : nextWf (execFclass x s) := vfpPlain_memWf hs

theorem execFscale_memWf {x} (hs : s.memWf = true) : nextWf (execFscale x s) :=
  issueX_memWf hs fun _ => Ic.seedReady_memWf hs (Ic.vec_memWf hs)

theorem execFrnd_memWf {x} (hs : s.memWf = true) : nextWf (execFrnd x s) := by
  unfold execFrnd
  exact vfpRound_memWf hs

theorem execFfrac_memWf {x} (hs : s.memWf = true) : nextWf (execFfrac x s) := by
  unfold execFfrac
  exact vfpPlain_memWf hs

theorem execFdot2_memWf {x} (hs : s.memWf = true) : nextWf (execFdot2 x s) :=
  issueX_memWf hs fun _ => Ic.seedReady_memWf hs (Ic.vec_memWf hs)

/-! ## Conversion instructions -/

theorem execFcvt_memWf {x} (hs : s.memWf = true) : nextWf (execFcvt x s) :=
  issueX_memWf hs fun _ => Ic.seedReady_memWf hs (Ic.vec_memWf hs)

theorem execFtoi_memWf {x} (hs : s.memWf = true) : nextWf (execFtoi x s) :=
  issueX_memWf hs fun _ => Ic.seedReady_memWf hs (Ic.vec_memWf hs)

theorem execItof_memWf {x} (hs : s.memWf = true) : nextWf (execItof x s) :=
  issueX_memWf hs fun _ => Ic.seedReady_memWf hs (Ic.vec_memWf hs)

theorem execIext_memWf {x} (hs : s.memWf = true) : nextWf (execIext x s) := vecOp_memWf hs

theorem execFpack_memWf {x} (hs : s.memWf = true) : nextWf (execFpack x s) :=
  issueX_memWf hs fun _ => Ic.seedReady_memWf hs (Ic.known_memWf hs fun _ => Act.memWf_ite hs
    (Act.memWf_ite hs (Act.memWf_ite Ic.trapWhole_memWf (Ic.vec_memWf hs))))

theorem execFunpk_memWf {x} (hs : s.memWf = true) : nextWf (execFunpk x s) :=
  issueX_memWf hs fun _ => Ic.known_memWf hs fun _ => Act.memWf_ite Ic.trapWhole_memWf (Ic.vec_memWf hs)

theorem execSclq_memWf {x} (hs : s.memWf = true) : nextWf (execSclq x s) :=
  issueX_memWf hs fun _ => Ic.known_memWf hs fun _ => Ic.vec_memWf hs

theorem execBqnt_memWf {x} (hs : s.memWf = true) : nextWf (execBqnt x s) :=
  issueX_memWf hs fun _ => Ic.seedReady_memWf hs (Ic.vec_memWf hs)

theorem execBdq_memWf {x} (hs : s.memWf = true) : nextWf (execBdq x s) :=
  issueX_memWf hs fun _ => Ic.seedReady_memWf hs (Ic.vec_memWf hs)

end

end Sys2Proof.Machine
end

section
/-! PROOFS. Every function of the model keeps the canonical form of memory (R3): memory instructions, debug, the fabric's
sending side, control flow, synchronisation, base forms and domains. -/

namespace Sys2Proof.Machine

open Sys2Proof

section
variable {s : State} {c : Ic} {e : Eng}

/-! ## MEM -/

theorem Ic.loadDest_memWf {dst full} {k : Regs → Act} (hs : s.memWf = true) (hk : ∀ (x : Regs), (k x).memWf) :
    (c.loadDest s dst full k).memWf := by
  unfold Ic.loadDest
  dsimp only
  split
  · exact hk _
  · exact Act.memWf_ite hs (hk _)
  · exact Act.memWf_ite hs (Act.memWf_ite hs (Act.memWf_ite Ic.trapWhole_memWf (hk _)))

theorem Ic.lateIssue_memWf {m num} (hs : s.memWf = true) : (c.lateIssue s m num).memWf := by
  unfold Ic.lateIssue
  refine Act.memWf_ite hs ?_
  refine Act.memWf_ite (State.askWalks_memWf hs) ?_
  refine Ic.sectorRoom_memWf hs ?_
  extract_lets +onlyGivenNames full x1
  extract_lets +onlyGivenNames x2
  extract_lets +onlyGivenNames x3
  extract_lets +onlyGivenNames x4
  extract_lets +onlyGivenNames x5
  have h6 : ∀ (old : List DWord) (regs : Regs), (x5 old regs).memWf := by
    unfold x5
    intro _ _
    extract_lets +onlyGivenNames y s9 s10
    have h11 : s9.memWf = true := State.onStrand_memWf (State.putRegs_memWf hs)
    have h12 : s10.memWf = true := State.addOp_memWf h11
    exact Act.memWf_ite h12 (State.postGroup_memWf (State.dropFails_memWf h12))
  dsimp only
  split
  · exact hs
  · exact Act.memWf_ite hs (Act.memWf_ite (State.addOp_memWf (State.onStrand_memWf (State.putRegs_memWf hs)))
      (State.postGroup_memWf (State.dropFails_memWf (State.addOp_memWf (State.onStrand_memWf (State.putRegs_memWf hs))))))
  · exact Act.memWf_ite hs (Act.memWf_ite hs (Act.memWf_ite Ic.trapWhole_memWf
      (Act.memWf_ite (State.addOp_memWf (State.onStrand_memWf (State.putRegs_memWf hs)))
      (State.postGroup_memWf (State.dropFails_memWf (State.addOp_memWf (State.onStrand_memWf (State.putRegs_memWf hs))))))))

theorem Ic.loadIssue_memWf {late m} (hs : s.memWf = true) : (c.loadIssue s late m).memWf := by
  unfold Ic.loadIssue
  extract_lets +onlyGivenNames x1
  have h2 : x1.memWf := Ic.loadDest_memWf hs fun _ => Ic.memIssue_memWf hs fun _ _ h6 => State.addOp_memWf
    (State.putRegs_memWf h6)
  refine Act.memWf_ite ?_ h2
  split
  · exact Ic.lateIssue_memWf hs
  · exact h2

theorem Act.whole_memWf {c} {a : Act} (ha : a.memWf) : (Act.whole c a).memWf := by
  unfold Act.whole
  split
  · exact trivial
  · exact ha

theorem ldOp_memWf {len x sp} (hs : s.memWf = true) : nextWf (ldOp s len x sp) := by
  unfold ldOp
  refine issue_memWf hs fun _ => ?_
  refine Ic.known_memWf hs fun _ => ?_
  extract_lets +onlyGivenNames ka kb whole act fresh x3
  have h4 : ∀ (x : Act), x3 = some x → x.memWf := by
    unfold x3
    split
    · exact forall_eq_some Ic.trapWhole_memWf
    · split
      next e5 =>
        have h6 := (Ic.checkAddrs_memWf hs) _ e5
        exact forall_eq_some (Act.memWf_ite (Act.whole_memWf h6) h6)
      · exact forall_eq_none
  exact Ic.firstIssue_memWf h4 (Ic.loadIssue_memWf hs)

theorem stOp_memWf {len x sp} (hs : s.memWf = true) : nextWf (stOp s len x sp) :=
  issue_memWf hs fun _ => Ic.known_memWf hs fun _ => Ic.firstIssue_memWf (Ic.checkAddrs_memWf hs)
    (Ic.memIssue_memWf hs fun _ _ h5 => State.addOp_memWf h5)

theorem execLd_memWf {x} (hs : s.memWf = true) : nextWf (execLd x s) := ldOp_memWf hs

theorem execSt_memWf {x} (hs : s.memWf = true) : nextWf (execSt x s) := stOp_memWf hs

theorem execLds_memWf {x} (hs : s.memWf = true) : nextWf (execLds x s) := ldOp_memWf hs

theorem execSts_memWf {x} (hs : s.memWf = true) : nextWf (execSts x s) := stOp_memWf hs

theorem execLdv_memWf {x} (hs : s.memWf = true) : nextWf (execLdv x s) := ldOp_memWf hs

theorem execStv_memWf {x} (hs : s.memWf = true) : nextWf (execStv x s) := stOp_memWf hs

theorem execLdt_memWf {x} (hs : s.memWf = true) : nextWf (execLdt x s) := by
  unfold execLdt
  refine issueX_memWf hs fun _ => ?_
  refine Ic.known_memWf hs fun _ => ?_
  extract_lets +onlyGivenNames ka kb act data stride base fresh valid far x3
  have h4 : ∀ (x : Act), x3 = some x → x.memWf := by
    unfold x3
    split
    · exact forall_eq_some Ic.trapWhole_memWf
    · split
      · exact forall_eq_some Ic.trapWhole_memWf
      · split
        · exact forall_eq_some Ic.trapWhole_memWf
        · exact forall_eq_none
  exact Ic.firstIssue_memWf h4 (Ic.loadIssue_memWf hs)

theorem Ic.unformatted_memWf {a acc lanes} (hs : s.memWf = true) :
    ∀ (x : Act), c.unformatted s a acc lanes = some x → x.memWf := by
  unfold Ic.unformatted
  dsimp only
  split
  · exact forall_eq_some (State.askWalks_memWf hs)
  · split
    · exact forall_eq_some (Act.memWf_ite trivial (State.takeTrap_memWf (State.dropFails_memWf hs)))
    · exact forall_eq_none

theorem execLdf_memWf {x} (hs : s.memWf = true) : nextWf (execLdf x s) := by
  unfold execLdf
  refine issueX_memWf hs fun _ => ?_
  refine Ic.seedReady_memWf hs ?_
  refine Ic.known_memWf hs fun _ => ?_
  extract_lets +onlyGivenNames act fresh e x3
  have h4 : ∀ (x : Act), x3 = some x → x.memWf := by
    unfold x3
    split
    next e5 =>
      have h6 := (Ic.checkAddrs_memWf hs) _ e5
      exact forall_eq_some h6
    · exact Ic.unformatted_memWf hs
  exact Ic.firstIssue_memWf h4 (Ic.loadIssue_memWf hs)

theorem execStf_memWf {x} (hs : s.memWf = true) : nextWf (execStf x s) := by
  unfold execStf
  refine issueX_memWf hs fun _ => Ic.seedReady_memWf hs (Ic.known_memWf hs fun _ => ?_)
  extract_lets +onlyGivenNames act fresh data e part' check
  refine Ic.firstIssue_memWf ?_ (Ic.memIssue_memWf hs fun _ _ h1 => State.addOp_memWf h1)
  unfold check
  split
  next e2 => exact forall_eq_some ((Ic.checkAddrs_memWf hs) _ e2)
  · split
    next e3 => exact forall_eq_some ((Ic.unformatted_memWf hs) _ e3)
    · unfold part'
      dsimp only
      split
      · exact forall_eq_some Act.trapLanes_memWf
      · exact forall_eq_none

theorem execTrx_memWf {x} (hs : s.memWf = true) : nextWf (execTrx x s) := by
  unfold execTrx
  refine issueX_memWf hs fun _ => ?_
  refine Ic.known_memWf hs fun _ => ?_
  refine Act.memWf_ite Ic.trapWhole_memWf ?_
  dsimp only
  split
  · exact State.touch_memWf (State.putRegs_memWf hs)
  · split
    · exact State.parkFail_memWf (State.putRegs_memWf hs)
    · exact State.askWalks_memWf hs
    · exact hs

theorem execPref_memWf {x} (hs : s.memWf = true) : nextWf (execPref x s) :=
  issueX_memWf hs fun _ => Ic.known_memWf hs fun _ => Ic.sectorRoom_memWf hs hs

theorem execLdc_memWf {x} (hs : s.memWf = true) : nextWf (execLdc x s) :=
  issueX_memWf hs fun _ => Ic.known_memWf hs fun _ => Act.memWf_ite hs
    (Act.memWf_ite Ic.trapWhole_memWf (Act.memWf_ite Act.trapLanes_memWf
    (Act.memWf_ite Act.trapLanes_memWf (Ic.loadDest_memWf hs fun _ => State.addOp_memWf (State.putRegs_memWf hs)))))

/-! ## ATM -/

theorem atmOp_memWf {x op} (hs : s.memWf = true) : nextWf (atmOp s x op) := by
  unfold atmOp
  refine issueX_memWf hs fun _ => ?_
  refine Ic.known_memWf hs fun _ => ?_
  extract_lets +onlyGivenNames sp act fresh data exp n x3
  have h4 : ∀ (regs : Regs), (x3 regs).memWf := fun _ => Ic.memIssue_memWf hs fun _ _ h8 => State.addOp_memWf
    (State.putRegs_memWf h8)
  exact Ic.firstIssue_memWf (Ic.checkAddrs_memWf hs) (Act.memWf_ite
    (Ic.memIssue_memWf hs fun _ _ h11 => State.addOp_memWf (State.putRegs_memWf h11)) (Ic.loadDest_memWf hs h4))

theorem execAadd_memWf {x} (hs : s.memWf = true) : nextWf (execAadd x s) := atmOp_memWf hs

theorem execAand_memWf {x} (hs : s.memWf = true) : nextWf (execAand x s) := atmOp_memWf hs

theorem execAor_memWf {x} (hs : s.memWf = true) : nextWf (execAor x s) := atmOp_memWf hs

theorem execAxor_memWf {x} (hs : s.memWf = true) : nextWf (execAxor x s) := atmOp_memWf hs

theorem execAmin_memWf {x} (hs : s.memWf = true) : nextWf (execAmin x s) := atmOp_memWf hs

theorem execAmax_memWf {x} (hs : s.memWf = true) : nextWf (execAmax x s) := atmOp_memWf hs

theorem execAxch_memWf {x} (hs : s.memWf = true) : nextWf (execAxch x s) := atmOp_memWf hs

theorem execAcas_memWf {x} (hs : s.memWf = true) : nextWf (execAcas x s) := atmOp_memWf hs

theorem execAinc_memWf {x} (hs : s.memWf = true) : nextWf (execAinc x s) := atmOp_memWf hs

/-! ## Quarters under debug -/

theorem State.traceRec_memWf {part kind loc body} (hs : s.memWf = true) : (s.traceRec part kind loc body).memWf = true :=
  State.memWf_ite hs (State.onPart_memWf (State.vwrite_memWf (State.vwrite_memWf (State.vwrite_memWf (State.vwrite_memWf hs)))))

theorem State.traceQuarter_memWf {q kind body} (hs : s.memWf = true) : (s.traceQuarter q kind body).memWf = true := by
  unfold State.traceQuarter
  split
  · exact State.traceRec_memWf hs
  · exact hs

theorem State.stopQuarter_memWf {q cause slot comp pc} (hs : s.memWf = true) :
    (s.stopQuarter q cause slot comp pc).memWf = true := State.traceQuarter_memWf (State.onQuarter_memWf hs)

theorem State.resumeQuarter_memWf {q} (hs : s.memWf = true) : (s.resumeQuarter q).memWf = true :=
  State.traceQuarter_memWf (State.onQuarter_memWf hs)

theorem State.writeReq_memWf {q req cause exempt} (hs : s.memWf = true) : (s.writeReq q req cause exempt).memWf = true :=
  State.memWf_ite hs (State.memWf_ite (State.memWf_ite (State.onQuarter_memWf hs)
    (State.onQuarter_memWf (State.stopQuarter_memWf hs))) (State.memWf_ite (State.onQuarter_memWf hs)
    (State.memWf_ite (State.resumeQuarter_memWf (State.onQuarter_memWf hs)) (State.onQuarter_memWf hs))))

theorem State.enterAgent_memWf {q e} (hs : s.memWf = true) : (s.enterAgent q e).memWf = true := by
  unfold State.enterAgent
  dsimp only
  split
  · exact State.onQuarter_memWf hs
  · exact State.memWf_ite (State.seen_memWf (State.onQuarter_memWf hs))
      (State.onQuarter_memWf (State.setStrand_memWf (State.seen_memWf (State.onQuarter_memWf hs))))

theorem State.agentLeft_memWf {q key} (hs : s.memWf = true) : (s.agentLeft q key).memWf = true :=
  State.memWf_ite hs (State.memWf_ite (State.resumeQuarter_memWf (State.onQuarter_memWf hs)) (State.onQuarter_memWf hs))

theorem State.agentOver_memWf {key slot step} (hs : s.memWf = true) : (s.agentOver key slot step).memWf = true := hs

theorem State.agentTret_memWf {key slot} (hs : s.memWf = true) : (s.agentTret key slot).memWf = true := by
  unfold State.agentTret
  dsimp only
  split
  · exact hs
  · exact State.agentOver_memWf (State.setStrand_memWf hs)

theorem State.stepStop_memWf {q e} (hs : s.memWf = true) : (s.stepStop q e).memWf = true :=
  State.onQuarter_memWf (State.stopQuarter_memWf hs)

theorem State.debugTick_memWf (hs : s.memWf = true) : s.debugTick.memWf = true := by
  unfold State.debugTick
  refine State.memWf_foldl hs fun s e h1 => ?_
  extract_lets s2
  have h2 : s2.memWf = true := by
    unfold s2
    split
    · exact State.stepStop_memWf h1
    · exact h1
  split
  · exact State.memWf_ite (State.resumeQuarter_memWf h2) h2
  · exact h2

theorem State.countQuarter_memWf {t : State} {s : State} {q n} (ht : t.memWf = true) (_ : s.memWf = true) :
    (t.countQuarter s q n).memWf = true := State.onQuarter_memWf ht

theorem State.tick_memWf {t : State} {s : State} {n} (ht : t.memWf = true) (hs : s.memWf = true) :
    (t.tick s n).memWf = true := by
  unfold State.tick
  extract_lets +onlyGivenNames s1 qs s2
  have h3 : s1.memWf = true := State.memWf_ite hs ht
  have h4 : s2.memWf = true := State.memWf_foldl ht fun _ _ h7 => State.countQuarter_memWf h7 h3
  exact State.memWf_same h4

theorem State.setCount_memWf {q i stall v} (hs : s.memWf = true) : (s.setCount q i stall v).memWf = true := hs

/-! ## Sending on the Chaelo fabric -/

theorem State.onFab_memWf {f : Fabric → Fabric} (hs : s.memWf = true) : (s.onFab f).memWf = true := hs

theorem State.onPort_memWf {k} {f : Port → Port} (hs : s.memWf = true) : (s.onPort k f).memWf = true := hs

theorem State.onFlow_memWf {dev plane} {f : Flow → Flow} (hs : s.memWf = true) : (s.onFlow dev plane f).memWf = true := hs

theorem State.onPeer_memWf {dev} {f : Peer → Peer} (hs : s.memWf = true) : (s.onPeer dev f).memWf = true := hs

theorem State.tracePkt_memWf {p} (hs : s.memWf = true) : (s.tracePkt p).memWf = true := by
  unfold State.tracePkt
  dsimp only
  split
  · exact hs
  · exact State.memWf_ite (State.traceRec_memWf hs) hs

theorem State.emit_memWf {p} (hs : s.memWf = true) : (s.emit p).memWf = true :=
  State.tracePkt_memWf (State.onFab_memWf (State.onPort_memWf hs))

theorem State.sendOn_memWf {flow p} (hs : s.memWf = true) : (s.sendOn flow p).memWf = true :=
  State.memWf_ite (State.onFlow_memWf hs) (State.emit_memWf (State.onFlow_memWf hs))

theorem State.send_memWf {p} (hs : s.memWf = true) : (s.send p).memWf = true := State.sendOn_memWf hs

theorem State.sendLanes_memWf {part key op r lanes} (hs : s.memWf = true) : (s.sendLanes part key op r lanes).memWf = true := by
  unfold State.sendLanes
  refine State.memWf_foldl hs fun _ _ h3 => ?_
  dsimp only
  exact State.onStrand_memWf (State.send_memWf h3)

theorem State.pump_memWf {key} (hs : s.memWf = true) : (s.pump key).memWf = true := by
  unfold State.pump
  split
  · exact hs
  · refine State.memWf_foldl hs fun _ _ h3 => ?_
    split
    · exact State.memWf_ite (State.sendLanes_memWf (State.onStrand_memWf h3)) h3
    · exact h3

theorem State.farSend_memWf {part key r} (hs : s.memWf = true) : (s.farSend part key r).memWf = true := by
  unfold State.farSend
  dsimp only
  exact State.memWf_same (State.send_memWf hs)

theorem State.farDo_memWf {part k} {f : State → State} (hs : s.memWf = true)
    (hf : ∀ (t : State), t.memWf = true → (f t).memWf = true) :
    (s.farDo part k f).memWf = true := by
  unfold State.farDo
  refine State.memWf_ite (hf _ hs) ?_
  refine State.memWf_ite hs ?_
  dsimp only
  split
  · exact State.memWf_same (hf _ (State.memWf_same hs))
  · exact State.memWf_foldl hs fun _ _ h3 => State.farSend_memWf h3

theorem State.farFor_memWf {key op} {f : State → State} (hs : s.memWf = true)
    (hf : ∀ (t : State), t.memWf = true → (f t).memWf = true) :
    (s.farFor key op f).memWf = true := State.farDo_memWf hs hf

theorem State.settled_memWf {t : State} (hs : s.memWf = true) (ht : t.memWf = true) : (s.settled t).memWf = true := by
  unfold State.settled
  dsimp only
  split
  · exact State.memWf_ite ht (State.memWf_same ht)
  · exact State.memWf_foldl hs fun _ _ h3 => State.farSend_memWf h3

theorem Ic.deviceReads_memWf {a n} {k : State → Act} (hs : s.memWf = true) (hk : ∀ (t : State), t.memWf = true → (k t).memWf) :
    (c.deviceReads s a n k).memWf := Act.memWf_ite (hk _ (State.seen_memWf hs)) (State.settled_memWf hs (State.seen_memWf hs))

theorem State.seenAll_memWf {part l n} (hs : s.memWf = true) : (s.seenAll part l n).memWf = true :=
  State.memWf_foldl hs fun _ _ h3 => State.seen_memWf h3

theorem Ic.deviceReadsAll_memWf {l n} {k : State → Act} (hs : s.memWf = true) (hk : ∀ (t : State), t.memWf = true → (k t).memWf)
    :
    (c.deviceReadsAll s l n k).memWf := by
  unfold Ic.deviceReadsAll
  dsimp only
  split
  · exact hk _ hs
  · exact Act.memWf_ite (hk _ (State.seenAll_memWf hs)) (State.settled_memWf hs (State.seenAll_memWf hs))

theorem State.flushFar_memWf (hs : s.memWf = true) : s.flushFar.memWf = true := by
  unfold State.flushFar
  extract_lets +onlyGivenNames s1
  have h2 : s1.memWf = true := State.memWf_foldl hs fun _ _ h5 => State.farSend_memWf h5
  exact State.memWf_same h2

theorem State.finishOp_memWf {key op} (hs : s.memWf = true) : (s.finishOp key op).memWf = true :=
  State.pump_memWf (State.onStrand_memWf hs)

/-! ## Predicate instructions -/

theorem Ic.toP_memWf {act n m} (hs : s.memWf = true) : (c.toP s act n m).memWf := hs

theorem Ic.toQ_memWf {n b} (hs : s.memWf = true) : (c.toQ s n b).memWf := hs

theorem execPset_memWf {x} (hs : s.memWf = true) : nextWf (execPset x s) :=
  issueX_memWf hs fun _ => Ic.known_memWf hs fun _ => Ic.toP_memWf hs

theorem execPfset_memWf {x} (hs : s.memWf = true) : nextWf (execPfset x s) :=
  issueX_memWf hs fun _ => Ic.known_memWf hs fun _ => Act.also_memWf (Ic.toP_memWf hs) fun _ h4 => State.raise_memWf h4

theorem execPlog_memWf {x} (hs : s.memWf = true) : nextWf (execPlog x s) := issueX_memWf hs fun _ => Ic.toP_memWf hs

theorem execPmov_memWf {x} (hs : s.memWf = true) : nextWf (execPmov x s) := by
  unfold execPmov
  refine issueX_memWf hs fun _ => ?_
  dsimp only
  split
  · exact Ic.toP_memWf hs
  · exact Ic.known_memWf hs fun _ => Ic.toP_memWf hs
  · exact Ic.vec_memWf hs
  · exact Ic.toS_memWf hs
  · exact Ic.known_memWf hs fun _ => Ic.toP_memWf hs
  · exact hs

theorem execVote_memWf {x} (hs : s.memWf = true) : nextWf (execVote x s) := by
  unfold execVote
  refine issueX_memWf hs fun _ => ?_
  dsimp only
  split
  · exact Ic.toQ_memWf hs
  · exact Ic.toQ_memWf hs
  · exact Ic.known_memWf hs fun _ => Ic.toQ_memWf hs

theorem execPcnt_memWf {x} (hs : s.memWf = true) : nextWf (execPcnt x s) := issueX_memWf hs fun _ => Ic.toS_memWf hs

theorem execPfirst_memWf {x} (hs : s.memWf = true) : nextWf (execPfirst x s) := issueX_memWf hs fun _ => Ic.toS_memWf hs

theorem qsetOp_memWf {len x t sel} (hs : s.memWf = true) : nextWf (qsetOp s len x t sel) :=
  issue_memWf hs fun _ => Ic.known_memWf hs fun _ => Ic.toQ_memWf hs

theorem execQset_memWf {x} (hs : s.memWf = true) : nextWf (execQset x s) := qsetOp_memWf hs

theorem execQlog_memWf {x} (hs : s.memWf = true) : nextWf (execQlog x s) := issueX_memWf hs fun _ => Ic.toQ_memWf hs

/-! ## Splits and the reconvergence stack -/

theorem State.vfields_memWf {part a l} (hs : s.memWf = true) : (s.vfields part a l).memWf = true :=
  State.memWf_foldl hs fun _ _ h3 => State.vwrite_memWf h3

theorem State.putSpilled_memWf {part x was now} (hs : s.memWf = true) : (s.putSpilled part x was now).memWf = true :=
  State.memWf_foldl hs fun _ _ h3 => State.memWf_ite h3 (State.vfields_memWf h3)

theorem State.putCtx_memWf {c x} (hs : s.memWf = true) : (s.putCtx c x).memWf = true := hs

theorem State.settleWith_memWf {c x was mem joiner} (hs : s.memWf = true) : (s.settleWith c x was mem joiner).memWf = true :=
  State.putCtx_memWf (State.putSpilled_memWf hs)

theorem State.settleCtx_memWf {c x joiner} (hs : s.memWf = true) : (s.settleCtx c x joiner).memWf = true :=
  State.settleWith_memWf hs

theorem State.onStrands_memWf {keys} {f : Strand → Strand} (hs : s.memWf = true) : (s.onStrands keys f).memWf = true :=
  State.memWf_foldl hs fun _ _ h3 => State.onStrand_memWf h3

theorem State.tryBar_memWf {wg k} (hs : s.memWf = true) : (s.tryBar wg k).memWf = true := by
  unfold State.tryBar
  dsimp only
  split
  · exact hs
  · exact State.memWf_ite (State.onStrands_memWf hs) hs

theorem State.tryBars_memWf {wg} (hs : s.memWf = true) : (s.tryBars wg).memWf = true :=
  State.memWf_foldl hs fun _ _ h3 => State.tryBar_memWf h3

theorem State.cbarArrive_memWf {key k} (hs : s.memWf = true) : (s.cbarArrive key k).memWf = true := by
  unfold State.cbarArrive
  dsimp only
  split
  · exact hs
  · exact State.memWf_ite (State.memWf_ite (State.memWf_same (State.onStrands_memWf hs)) (State.memWf_same hs)) hs

theorem State.exitLanes_memWf {c b pc} (hs : s.memWf = true) : (s.exitLanes c b pc).memWf = true :=
  State.memWf_foldl (State.tryBars_memWf (State.onStrand_memWf (State.settleWith_memWf hs))) fun _ _ h3 =>
    State.cbarArrive_memWf h3

/-! ## Control flow -/

theorem Ic.branch_memWf {off} (hs : s.memWf = true) : (c.branch s off).memWf := Act.memWf_ite Ic.trapWhole_memWf hs

theorem Ic.branchTo_memWf {a} (hs : s.memWf = true) : (c.branchTo s a).memWf :=
  Act.memWf_ite Ic.trapWhole_memWf (Act.memWf_ite Ic.trapWhole_memWf hs)

theorem Act.onJump_memWf {a : Act} {f : State → State} (ha : a.memWf) (hf : ∀ (t : State), t.memWf = true → (f t).memWf = true)
    :
    (a.onJump f).memWf := by
  unfold Act.onJump
  split
  · exact hf _ ha
  · exact ha

theorem braOp_memWf {len off} (hs : s.memWf = true) : nextWf (braOp s len off) := issue_memWf hs fun _ => Ic.branch_memWf hs

theorem braqOp_memWf {len q neg off} (hs : s.memWf = true) : nextWf (braqOp s len q neg off) :=
  issue_memWf hs fun _ => Act.memWf_ite (Ic.branch_memWf hs) hs

theorem exitOp_memWf {len x} (hs : s.memWf = true) : nextWf (exitOp s len x) :=
  issue_memWf hs fun _ => Ic.deviceReadsAll_memWf hs fun _ h3 => State.exitLanes_memWf h3

theorem execBra_memWf {x} (hs : s.memWf = true) : nextWf (execBra x s) := braOp_memWf hs

theorem execBraq_memWf {x} (hs : s.memWf = true) : nextWf (execBraq x s) := braqOp_memWf hs

theorem execExit_memWf {x} (hs : s.memWf = true) : nextWf (execExit x s) := exitOp_memWf hs

theorem execBrd_memWf {x} (hs : s.memWf = true) : nextWf (execBrd x s) := by
  unfold execBrd
  refine issueX_memWf hs fun _ => ?_
  refine Act.memWf_ite Ic.trapWhole_memWf ?_
  refine Act.memWf_ite Ic.trapWhole_memWf ?_
  refine Act.memWf_ite (State.putCtx_memWf hs) ?_
  refine Act.memWf_ite (State.putCtx_memWf hs) ?_
  dsimp only
  split <;> exact State.putCtx_memWf hs

theorem execJoin_memWf {x} (hs : s.memWf = true) : nextWf (execJoin x s) := by
  unfold execJoin
  refine issueX_memWf hs fun _ => ?_
  dsimp only
  split
  · exact Act.memWf_ite Ic.trapWhole_memWf Ic.trapWhole_memWf
  · split
    · exact Ic.trapWhole_memWf
    · refine Act.memWf_ite Ic.trapWhole_memWf ?_
      split
      · exact State.putCtx_memWf hs
      · exact Ic.deviceReadsAll_memWf hs fun _ h3 => State.settleCtx_memWf h3

theorem execBrk_memWf {x} (hs : s.memWf = true) : nextWf (execBrk x s) := by
  unfold execBrk
  refine issueX_memWf hs fun _ => ?_
  refine Act.memWf_ite hs ?_
  refine Act.memWf_ite (Act.memWf_ite Ic.trapWhole_memWf Ic.trapWhole_memWf) ?_
  refine Act.memWf_ite Ic.trapWhole_memWf ?_
  refine Act.memWf_ite Ic.trapWhole_memWf ?_
  refine Ic.deviceReadsAll_memWf hs fun _ h3 => ?_
  refine Act.memWf_ite (State.settleCtx_memWf h3) ?_
  dsimp only
  split
  · exact State.settleCtx_memWf h3
  · split
    · split
      · exact Act.memWf_ite h3 (State.settleCtx_memWf h3)
      · exact h3
    · exact h3

theorem execCall_memWf {x} (hs : s.memWf = true) : nextWf (execCall x s) :=
  issueX_memWf hs fun _ => Act.memWf_ite hs (Act.onJump_memWf (Ic.branch_memWf hs) fun _ h3 => State.putRegs_memWf h3)

theorem execRet_memWf {x} (hs : s.memWf = true) : nextWf (execRet x s) :=
  issueX_memWf hs fun _ => Ic.known_memWf hs fun _ => Ic.branchTo_memWf hs

theorem execJmpi_memWf {x} (hs : s.memWf = true) : nextWf (execJmpi x s) :=
  issueX_memWf hs fun _ => Ic.known_memWf hs fun _ => Ic.branchTo_memWf hs

theorem execCalli_memWf {x} (hs : s.memWf = true) : nextWf (execCalli x s) :=
  issueX_memWf hs fun _ => Ic.known_memWf hs fun _ => Act.memWf_ite hs
    (Act.onJump_memWf (Ic.branchTo_memWf hs) fun _ h4 => State.putRegs_memWf h4)

theorem execLoop_memWf {x} (hs : s.memWf = true) : nextWf (execLoop x s) :=
  issueX_memWf hs fun _ => Ic.known_memWf hs fun _ => Act.memWf_ite (State.putRegs_memWf hs)
    (Act.onJump_memWf (Ic.branch_memWf hs) fun _ h4 => State.putRegs_memWf h4)

/-! ## SYN -/

theorem State.deliverDue_memWf {c d} (hs : s.memWf = true) : (s.deliverDue c d).memWf = true :=
  State.takeTrap_memWf (State.onStrand_memWf hs)

theorem Ic.waitOps_memWf {classes left why} {k : Act} (hs : s.memWf = true) (hk : k.memWf) :
    (c.waitOps s classes left why k).memWf := by
  unfold Ic.waitOps
  split
  · exact State.deliverDue_memWf hs
  · refine Act.memWf_ite hk ?_
    split
    · exact State.parkAsync_memWf hs
    · exact hs

theorem waitOp_memWf {len counts} (hs : s.memWf = true) : nextWf (waitOp s len counts) :=
  issue_memWf hs fun _ => Ic.waitOps_memWf hs hs

theorem execWait_memWf {x} (hs : s.memWf = true) : nextWf (execWait x s) := waitOp_memWf hs

theorem execFence_memWf {x} (hs : s.memWf = true) : nextWf (execFence x s) := issueX_memWf hs fun _ => Ic.waitOps_memWf hs hs

theorem execBatch_memWf {x} (hs : s.memWf = true) : nextWf (execBatch x s) :=
  issueX_memWf hs fun _ => Act.memWf_ite hs (Act.memWf_ite hs (State.putRegs_memWf (State.onStrand_memWf hs)))

theorem execWaitb_memWf {x} (hs : s.memWf = true) : nextWf (execWaitb x s) :=
  issueX_memWf hs fun _ => Ic.known_memWf hs fun _ => Ic.waitOps_memWf hs hs

theorem State.toBarrier_memWf {c len b} (hs : s.memWf = true) : (s.toBarrier c len b).memWf = true := hs

theorem execBar_memWf {x} (hs : s.memWf = true) : nextWf (execBar x s) :=
  issueX_memWf hs fun _ => Ic.known_memWf hs fun _ => Act.memWf_ite Ic.trapWhole_memWf
    (Act.memWf_ite hs (State.tryBar_memWf (State.toBarrier_memWf hs)))

theorem execCbar_memWf {x} (hs : s.memWf = true) : nextWf (execCbar x s) :=
  issueX_memWf hs fun _ => Ic.known_memWf hs fun _ => Act.memWf_ite Ic.trapWhole_memWf
    (Act.memWf_ite Ic.trapWhole_memWf (Act.memWf_ite hs (State.cbarArrive_memWf (State.toBarrier_memWf (State.memWf_same hs)))))

theorem Ic.msAddr_memWf {x ka kb} (hs : s.memWf = true) : ∀ (a : Act), (c.msAddr s x ka kb).2 = some a → a.memWf :=
  forall_map_eq_some fun _ h1 => Act.whole_memWf ((Ic.checkAddrs_memWf hs) _ h1)

theorem msUpdate_memWf {x ops} {u : DWord → DWord → SyncUpd} (hs : s.memWf = true) : nextWf (msUpdate s x ops u) := by
  unfold msUpdate
  refine issueX_memWf hs fun _ => ?_
  refine Ic.known_memWf hs fun _ => ?_
  refine Ic.firstIssue_memWf (forall_map_eq_some fun _ e4 => Act.whole_memWf ((Ic.checkAddrs_memWf hs) _ e4)) ?_
  refine Ic.memIssue_memWf hs fun _ _ h8 => ?_
  dsimp only
  split
  · exact h8
  · exact State.addOp_memWf h8

theorem Ic.peek_memWf {p a n} {k : State → Nat → Act} (hs : s.memWf = true)
    (hk : ∀ (t : State), t.memWf = true → ∀ (x : Nat), (k t x).memWf) :
    (c.peek s p a n k).memWf := by
  unfold Ic.peek
  dsimp only
  split
  · exact hk _ (State.memWf_same (State.rd_memWf (State.memWf_same hs))) _
  · exact State.memWf_ite hs (State.memWf_foldl hs fun _ _ h3 => State.farSend_memWf h3)

theorem msRead_memWf {x ops} {k : Ic → State → DWord → List DWord → Act} (hs : s.memWf = true)
    (hk : ∀ (c : Ic) (t : State), t.memWf = true → ∀ (x : DWord) (x_1 : List DWord), (k c t x x_1).memWf) :
    nextWf (msRead s x ops k) := by
  unfold msRead
  refine issueX_memWf hs fun _ => ?_
  refine Ic.known_memWf hs fun _ => ?_
  refine Ic.firstIssue_memWf (forall_map_eq_some fun _ e4 => Act.whole_memWf ((Ic.checkAddrs_memWf hs) _ e4)) ?_
  refine Act.memWf_ite hs ?_
  refine Act.memWf_ite (State.askWalks_memWf hs) ?_
  dsimp only
  split
  · exact State.parkFail_memWf hs
  · exact Ic.sectorRoom_memWf hs (Ic.follows_memWf hs (Act.memWf_ite (State.parkLoss_memWf (State.eccScan_memWf hs))
      (Ic.peek_memWf (State.eccScan_memWf hs) fun _ h7 _ => Act.acquired_memWf (hk _ _ h7 _ _))))

theorem execSyarm_memWf {x} (hs : s.memWf = true) : nextWf (execSyarm x s) := msUpdate_memWf hs

theorem execSyarv_memWf {x} (hs : s.memWf = true) : nextWf (execSyarv x s) := msUpdate_memWf hs

theorem execSyflg_memWf {x} (hs : s.memWf = true) : nextWf (execSyflg x s) := msUpdate_memWf hs

theorem execSignal_memWf {x} (hs : s.memWf = true) : nextWf (execSignal x s) := msUpdate_memWf hs

theorem execSytst_memWf {x} (hs : s.memWf = true) : nextWf (execSytst x s) :=
  msRead_memWf hs fun _ _ h3 _ _ => State.putRegs_memWf h3

theorem execSywait_memWf {x} (hs : s.memWf = true) : nextWf (execSywait x s) :=
  msRead_memWf hs fun _ _ h3 _ _ => Act.memWf_ite (State.putRegs_memWf h3) h3

theorem execWaitc_memWf {x} (hs : s.memWf = true) : nextWf (execWaitc x s) :=
  msRead_memWf hs fun _ _ h3 _ _ => Act.memWf_ite (State.putRegs_memWf h3) h3

/-! ## The base forms -/

theorem execNopBase_memWf {n n' n''} (hs : s.memWf = true) : nextWf (execNopBase n n' n'' s) := issue_memWf hs fun _ => hs

theorem execSaddBase_memWf {d a b} (hs : s.memWf = true) : nextWf (execSaddBase d a b s) := saddOp_memWf hs

theorem execSaddImmBase_memWf {d a imm} (hs : s.memWf = true) : nextWf (execSaddImmBase d a imm s) := saddOp_memWf hs

theorem execSaddLit_memWf {d a lit} (hs : s.memWf = true) : nextWf (execSaddLit d a lit s) := saddOp_memWf hs

theorem execSsubBase_memWf {d a b} (hs : s.memWf = true) : nextWf (execSsubBase d a b s) := sint2_memWf hs

theorem execSmulBase_memWf {d a b} (hs : s.memWf = true) : nextWf (execSmulBase d a b s) := smulOp_memWf hs

theorem execSandBase_memWf {d a b} (hs : s.memWf = true) : nextWf (execSandBase d a b s) := sint2_memWf hs

theorem execSorBase_memWf {d a b} (hs : s.memWf = true) : nextWf (execSorBase d a b s) := sint2_memWf hs

theorem execSxorBase_memWf {d a b} (hs : s.memWf = true) : nextWf (execSxorBase d a b s) := sint2_memWf hs

theorem execSshlBase_memWf {d a n} (hs : s.memWf = true) : nextWf (execSshlBase d a n s) := sshiftOp_memWf hs

theorem execSshrBase_memWf {d a n} (hs : s.memWf = true) : nextWf (execSshrBase d a n s) := sshiftOp_memWf hs

theorem execSmovBase_memWf {d a} (hs : s.memWf = true) : nextWf (execSmovBase d a s) := smovOp_memWf hs

theorem execSmovImmBase_memWf {d imm} (hs : s.memWf = true) : nextWf (execSmovImmBase d imm s) := smovOp_memWf hs

theorem execSmovLit_memWf {d lit} (hs : s.memWf = true) : nextWf (execSmovLit d lit s) := smovOp_memWf hs

theorem execQsetLtBase_memWf {d a b} (hs : s.memWf = true) : nextWf (execQsetLtBase d a b s) := qsetOp_memWf hs

theorem execQsetEqBase_memWf {d a b} (hs : s.memWf = true) : nextWf (execQsetEqBase d a b s) := qsetOp_memWf hs

theorem execBraBase_memWf {off} (hs : s.memWf = true) : nextWf (execBraBase off s) := braOp_memWf hs

theorem execBraqBase_memWf {q neg off} (hs : s.memWf = true) : nextWf (execBraqBase q neg off s) := braqOp_memWf hs

theorem execVaddBase_memWf {d a b} (hs : s.memWf = true) : nextWf (execVaddBase d a b s) := vaddOp_memWf hs

theorem execVsubBase_memWf {d a b} (hs : s.memWf = true) : nextWf (execVsubBase d a b s) := vsubOp_memWf hs

theorem execVmulBase_memWf {d a b} (hs : s.memWf = true) : nextWf (execVmulBase d a b s) := vmulOp_memWf hs

theorem execVandBase_memWf {d a b} (hs : s.memWf = true) : nextWf (execVandBase d a b s) := vint2_memWf hs

theorem execVorBase_memWf {d a b} (hs : s.memWf = true) : nextWf (execVorBase d a b s) := vint2_memWf hs

theorem execVxorBase_memWf {d a b} (hs : s.memWf = true) : nextWf (execVxorBase d a b s) := vint2_memWf hs

theorem execVshlBase_memWf {d a n} (hs : s.memWf = true) : nextWf (execVshlBase d a n s) := vshlOp_memWf hs

theorem execVshrBase_memWf {d a n} (hs : s.memWf = true) : nextWf (execVshrBase d a n s) := vshrOp_memWf hs

theorem execVaddImmBase_memWf {d a imm} (hs : s.memWf = true) : nextWf (execVaddImmBase d a imm s) := vaddOp_memWf hs

theorem execVaddLit_memWf {d a lit} (hs : s.memWf = true) : nextWf (execVaddLit d a lit s) := vaddOp_memWf hs

theorem execVmovBase_memWf {d a} (hs : s.memWf = true) : nextWf (execVmovBase d a s) := vmovOp_memWf hs

theorem execVmovScalarBase_memWf {d a} (hs : s.memWf = true) : nextWf (execVmovScalarBase d a s) := vmovOp_memWf hs

theorem execVlaneBase_memWf {d} (hs : s.memWf = true) : nextWf (execVlaneBase d s) := vlaneOp_memWf hs

theorem execFaddBase_memWf {d a b} (hs : s.memWf = true) : nextWf (execFaddBase d a b s) := faddOp_memWf hs

theorem execFsubBase_memWf {d a b} (hs : s.memWf = true) : nextWf (execFsubBase d a b s) := fsubOp_memWf hs

theorem execFmulBase_memWf {d a b} (hs : s.memWf = true) : nextWf (execFmulBase d a b s) := fmulOp_memWf hs

theorem execFfmaBase_memWf {d a b} (hs : s.memWf = true) : nextWf (execFfmaBase d a b s) := ffmaOp_memWf hs

theorem execFminBase_memWf {d a b} (hs : s.memWf = true) : nextWf (execFminBase d a b s) := fminmaxOp_memWf hs

theorem execFmaxBase_memWf {d a b} (hs : s.memWf = true) : nextWf (execFmaxBase d a b s) := fminmaxOp_memWf hs

theorem execFrcpBase_memWf {d a} (hs : s.memWf = true) : nextWf (execFrcpBase d a s) := ffunOp_memWf hs

theorem execLdBase_memWf {d a b} (hs : s.memWf = true) : nextWf (execLdBase d a b s) := ldOp_memWf hs

theorem execStBase_memWf {d a b} (hs : s.memWf = true) : nextWf (execStBase d a b s) := stOp_memWf hs

theorem execLdsBase_memWf {d a imm} (hs : s.memWf = true) : nextWf (execLdsBase d a imm s) := ldOp_memWf hs

theorem execWaitBase_memWf {ld st} (hs : s.memWf = true) : nextWf (execWaitBase ld st s) := waitOp_memWf hs

theorem execExitBase_memWf (hs : s.memWf = true) : nextWf (execExitBase s) := exitOp_memWf hs

/-! ## How values reach registers -/

theorem State.rdCodes_memWf {p frame fmt geom i} (hs : s.memWf = true) : (s.rdCodes p frame fmt geom i).2.memWf = true := by
  unfold State.rdCodes
  split
  next e1 =>
    have h1 := memWf_of_eq_snd e1 (State.rd_memWf hs)
    split
    next e2 =>
      have h2 := memWf_of_eq_snd e2 (State.rd_memWf h1)
      split
      next e3 =>
        refine memWf_of_eq_snd e3 ?_
        split
        · exact State.rd_memWf h2
        · exact h2

theorem State.rdElem_memWf {p frame fmt geom i} (hs : s.memWf = true) : (s.rdElem p frame fmt geom i).2.memWf = true := by
  unfold State.rdElem
  split
  next e1 => exact memWf_of_eq_snd e1 (State.rdCodes_memWf hs)

theorem State.rdElems_memWf {els t e} (hs : s.memWf = true) : (s.rdElems els t e).2.2.memWf = true :=
  foldl_keep (P := fun x : LaneVals × Half × State => x.2.2.memWf = true) hs fun _ _ h1 => State.rdElem_memWf h1

theorem State.loseOp_memWf {key op} (hs : s.memWf = true) : (s.loseOp key op).memWf = true := by
  unfold State.loseOp
  dsimp only
  split
  · exact hs
  · refine State.memWf_ite hs ?_
    split <;> exact State.onStrand_memWf hs

/-! ## Reduction domains -/

theorem State.setDomGenState_memWf {part slot gen st} (hs : s.memWf = true) :
    (s.setDomGenState part slot gen st).memWf = true := State.vwrite_memWf hs

theorem State.setDom_memWf {x} (hs : s.memWf = true) : (s.setDom x).memWf = true := hs

theorem State.credit_memWf {src} (hs : s.memWf = true) : (s.credit src).memWf = true := by
  unfold State.credit
  dsimp only
  split
  · exact hs
  · exact State.onStrand_memWf hs

theorem State.toHome_memWf {d n} (hs : s.memWf = true) : (s.toHome d n).memWf = true := hs

theorem State.forward_memWf {core n} (hs : s.memWf = true) : (s.forward core n).memWf = true := by
  unfold State.forward
  split
  · exact State.toHome_memWf hs
  · exact hs

theorem State.claspCore_memWf {core d} {fuel : Nat} {n : Node} (hs : s.memWf = true) :
    (s.claspCore core d fuel n).memWf = true := by
  induction fuel generalizing s n with
  | zero => exact State.toHome_memWf hs
  | succ fuel ih =>
    unfold State.claspCore
    refine State.memWf_ite (State.toHome_memWf hs) (State.memWf_ite (ih hs) ?_)
    dsimp only
    split
    · exact ih (State.credit_memWf (State.onCore_memWf hs))
    · refine State.memWf_ite (State.toHome_memWf hs) (State.memWf_foldl ?_ fun _ _ h1 => State.forward_memWf h1)
      exact State.onCore_memWf (State.credit_memWf hs)

theorem State.contribute_memWf {core d ns} (hs : s.memWf = true) : (s.contribute core d ns).memWf = true :=
  State.memWf_foldl hs fun _ _ h3 => State.claspCore_memWf h3

theorem State.arm_memWf {part slot} (hs : s.memWf = true) :
    ∀ (x : State × Word), s.arm part slot = some x → x.1.memWf = true := by
  unfold State.arm
  dsimp only
  split
  · exact forall_eq_none
  · exact forall_eq_some (State.memWf_same (State.setDomGenState_memWf
      (State.vwrite_memWf (State.memWf_ite hs (State.seen_memWf hs)))))

theorem State.checkFrozen_memWf {d} (hs : s.memWf = true) : (s.checkFrozen d).memWf = true :=
  State.memWf_ite hs (State.postRec_memWf hs)

theorem State.clearSpill_memWf {d} (hs : s.memWf = true) : (s.clearSpill d).memWf = true :=
  State.memWf_foldl hs fun _ _ h3 => State.vwrite_memWf h3

theorem State.stick_memWf {d sl addr sub} (hs : s.memWf = true) : (s.stick d sl addr sub).memWf = true := hs

theorem State.discardNodes_memWf {d} (hs : s.memWf = true) : (s.discardNodes d).memWf = true :=
  State.memWf_foldl (State.clearSpill_memWf (State.memWf_same (State.memWf_same hs))) fun _ _ h3 => State.credit_memWf h3

theorem State.domEnds_memWf {d} (hs : s.memWf = true) : (s.domEnds d).memWf = true := by
  unfold State.domEnds
  extract_lets +onlyGivenNames s1
  have h2 : s1.memWf = true := by
    unfold s1
    refine State.memWf_foldl hs fun _ _ h5 => ?_
    split
    · exact h5
    · exact State.postRec_memWf h5
  exact State.memWf_foldl h2 fun _ _ h8 => State.postRec_memWf h8

theorem State.closeDom_memWf {d r} (hs : s.memWf = true) : (s.closeDom d r).memWf = true := by
  unfold State.closeDom
  extract_lets +onlyGivenNames s1 s2
  have h3 : s1.memWf = true := State.postRec_memWf (State.checkFrozen_memWf (State.discardNodes_memWf (State.domEnds_memWf hs)))
  have h4 : s2.memWf = true := State.setDomGenState_memWf h3
  exact State.memWf_same h4

end

end Sys2Proof.Machine
end

section
/-! PROOFS. Every function of the model keeps the canonical form of memory (R3): contributions, tiles, copies, resources,
queues, contexts, remote accesses and late loads. -/

namespace Sys2Proof.Machine

open Sys2Proof

section
variable {s : State} {c : Ic} {e : Eng}

/-! ## RED -/

theorem ctbOp_memWf {x absent} (hs : s.memWf = true) : nextWf (ctbOp s x absent) := by
  unfold ctbOp
  refine issueX_memWf hs fun _ => ?_
  refine Ic.known_memWf hs fun _ => ?_
  refine Act.memWf_ite hs ?_
  dsimp only
  split
  · exact Ic.trapWhole_memWf
  · exact Act.memWf_ite Ic.trapWhole_memWf (Act.memWf_ite Act.trapLanes_memWf
      (Act.memWf_ite Act.trapLanes_memWf (Ic.acquired_memWf hs
      (State.contribute_memWf (State.memWf_ite (State.onStrand_memWf (State.addRecOp_memWf hs)) (State.addRecOp_memWf hs))))))

theorem execCtb_memWf {x} (hs : s.memWf = true) : nextWf (execCtb x s) := ctbOp_memWf hs

theorem execCtbn_memWf {x} (hs : s.memWf = true) : nextWf (execCtbn x s) := ctbOp_memWf hs

theorem Ic.withDom_memWf {slot acc} {k : State → Act} (hs : s.memWf = true) (hk : ∀ (t : State), t.memWf = true → (k t).memWf) :
    (c.withDom s slot acc k).memWf := by
  unfold Ic.withDom
  dsimp only
  split
  · exact Ic.deviceReads_memWf hs hk
  · exact State.askWalks_memWf hs
  · exact State.parkFail_memWf hs

theorem execDomarm_memWf {x} (hs : s.memWf = true) : nextWf (execDomarm x s) := by
  unfold execDomarm
  refine issueX_memWf hs fun _ => ?_
  refine Ic.known_memWf hs fun _ => ?_
  refine Act.memWf_ite hs ?_
  refine Ic.withDom_memWf hs fun _ h4 => ?_
  refine Act.memWf_ite h4 ?_
  refine Ic.acquired_memWf h4 ?_
  split
  · exact Ic.trapWhole_memWf
  next e5 =>
    have h6 := (State.arm_memWf h4) _ e5
    exact Act.acquired_memWf (State.putRegs_memWf h6)

theorem execDomclose_memWf {x} (hs : s.memWf = true) : nextWf (execDomclose x s) := by
  unfold execDomclose
  refine issueX_memWf hs fun _ => ?_
  refine Ic.known_memWf hs fun _ => ?_
  refine Act.memWf_ite hs ?_
  refine Ic.withDom_memWf hs fun _ h4 => ?_
  refine Ic.acquired_memWf h4 ?_
  refine Act.memWf_ite h4 ?_
  dsimp only
  split
  · refine Act.memWf_ite (State.memWf_same (State.setDomGenState_memWf h4)) ?_
    split
    · exact State.memWf_ite h4 (State.stick_memWf h4)
    · exact State.closeDom_memWf h4
  · exact State.memWf_ite (State.setDomGenState_memWf h4) h4

theorem execDomq_memWf {x} (hs : s.memWf = true) : nextWf (execDomq x s) :=
  issueX_memWf hs fun _ => Ic.known_memWf hs fun _ => Ic.withDom_memWf hs fun _ h4 => Ic.acquired_memWf h4 (Ic.toS_memWf h4)

theorem execDomqWait_memWf {x} (hs : s.memWf = true) : nextWf (execDomqWait x s) :=
  issueX_memWf hs fun _ => Ic.known_memWf hs fun _ => Ic.withDom_memWf hs fun _ h4 => Ic.acquired_memWf h4
    (Act.memWf_ite h4 (Act.acquired_memWf (Ic.toS_memWf h4)))

/-! ## MTX and CTBM -/

theorem State.onJoint_memWf {n} {f : Joint → Joint} (hs : s.memWf = true) : (s.onJoint n f).memWf = true := hs

theorem State.unqueue_memWf {key op} (hs : s.memWf = true) : (s.unqueue key op).memWf = true := hs

theorem Ic.tileDeliver_memWf {h} {k : Act} (hs : s.memWf = true) (hk : k.memWf) : (c.tileDeliver s h k).memWf := by
  unfold Ic.tileDeliver
  split
  · exact State.parkAsync_memWf hs
  · exact hk

theorem Ic.withTile_memWf {h code} {k : Tile → Act} (_ : s.memWf = true) (hk : ∀ (x : Tile), (k x).memWf) :
    (c.withTile s h code k).memWf := by
  unfold Ic.withTile
  refine Act.memWf_ite Ic.trapWhole_memWf ?_
  split
  · exact Ic.trapWhole_memWf
  · exact Act.memWf_ite Ic.trapWhole_memWf (hk _)

theorem Ic.withRec_memWf {h acc} {k : State → Nat → Act} (hs : s.memWf = true)
    (hk : ∀ (t : State), t.memWf = true → ∀ (x : Nat), (k t x).memWf) :
    (c.withRec s h acc k).memWf := by
  unfold Ic.withRec
  dsimp only
  split
  · exact Ic.deviceReads_memWf hs fun _ h2 => hk _ h2 _
  · exact State.askWalks_memWf hs
  · exact State.parkFail_memWf hs

theorem Ic.syncCheck_memWf {r code} (_ : s.memWf = true) : ∀ (x : Act), c.syncCheck s r code = some x → x.memWf := by
  unfold Ic.syncCheck
  split
  · exact forall_eq_none
  · dsimp only
    split
    · split
      · exact forall_eq_some Ic.trapWhole_memWf
      · split
        · exact forall_eq_some Ic.trapWhole_memWf
        · exact forall_eq_none
    · split
      · exact forall_eq_some Ic.trapWhole_memWf
      · split
        · exact forall_eq_some Ic.trapWhole_memWf
        · exact forall_eq_none
    · split
      · exact forall_eq_some Ic.trapWhole_memWf
      · split
        · exact forall_eq_some Ic.trapWhole_memWf
        · exact forall_eq_none

theorem Ic.mxIssue_memWf {cls k h sync} {upd : Tile → Tile} (hs : s.memWf = true) : (c.mxIssue s cls k h sync upd).memWf :=
  Act.memWf_ite hs (Act.memWf_ite hs (State.onStrand_memWf (State.onCore_memWf (State.addRecOp_memWf hs))))

theorem execMxalloc_memWf {x} (hs : s.memWf = true) : nextWf (execMxalloc x s) :=
  issueX_memWf hs fun _ => Ic.wholeStrand_memWf (Ic.known_memWf hs fun _ => Act.memWf_ite Ic.trapWhole_memWf
    (Act.memWf_ite Ic.trapWhole_memWf (Act.memWf_ite Ic.trapWhole_memWf
    (Act.memWf_ite Ic.trapWhole_memWf (Act.memWf_ite Ic.trapWhole_memWf
    (Act.memWf_ite Ic.trapWhole_memWf (Act.memWf_ite hs (Act.memWf_ite hs (State.onStrand_memWf hs)))))))))

theorem execMxfree_memWf {x} (hs : s.memWf = true) : nextWf (execMxfree x s) :=
  issueX_memWf hs fun _ => Ic.wholeStrand_memWf (Ic.withTile_memWf hs fun _ => Ic.mxIssue_memWf hs)

theorem mxzeroOp_memWf {x abs} (hs : s.memWf = true) : nextWf (mxzeroOp s x abs) :=
  issueX_memWf hs fun _ => Ic.wholeStrand_memWf (Ic.withTile_memWf hs fun _ => Ic.mxIssue_memWf hs)

theorem execMxzero_memWf {x} (hs : s.memWf = true) : nextWf (execMxzero x s) := mxzeroOp_memWf hs

theorem execMxzeroAbs_memWf {x} (hs : s.memWf = true) : nextWf (execMxzeroAbs x s) := mxzeroOp_memWf hs

theorem execMxld_memWf {x} (hs : s.memWf = true) : nextWf (execMxld x s) := by
  unfold execMxld
  refine issueX_memWf hs fun _ => ?_
  refine Ic.wholeStrand_memWf ?_
  refine Ic.known_memWf hs fun _ => ?_
  refine Ic.withTile_memWf hs fun _ => ?_
  dsimp only
  split
  · exact Ic.trapWhole_memWf
  · refine Act.memWf_ite Ic.trapWhole_memWf ?_
    refine Act.memWf_ite Ic.trapWhole_memWf ?_
    refine Act.memWf_ite Ic.trapWhole_memWf ?_
    refine Act.memWf_ite Ic.trapWhole_memWf ?_
    split
    next e4 => exact (Ic.syncCheck_memWf hs) _ e4
    · exact Ic.mxIssue_memWf hs

theorem Ic.toLatch_memWf {k h sync} {upd : Tile → Tile} (hs : s.memWf = true) : (c.toLatch s k h sync upd).memWf := by
  unfold Ic.toLatch
  extract_lets +onlyGivenNames cl g ents mine o x1
  extract_lets +onlyGivenNames x2
  have h3 : ∀ (s : State), s.memWf = true → ∀ (l : List LatchEnt), (x2 s l).memWf := by
    unfold x2
    intro _ h5 _
    extract_lets +onlyGivenNames s7
    have h8 : s7.memWf = true := State.onStrand_memWf (State.addRecOp_memWf h5)
    exact State.memWf_same h8
  exact Act.memWf_ite hs (Act.memWf_ite (State.memWf_same (State.onStrand_memWf (State.addRecOp_memWf hs)))
    (Act.memWf_ite hs (State.memWf_same (State.onStrand_memWf (State.addRecOp_memWf hs)))))

theorem Ic.recRead_memWf {lo viaRec} {k : State → Act} (hs : s.memWf = true) (hk : ∀ (t : State), t.memWf = true → (k t).memWf)
    :
    (c.recRead s lo viaRec k).memWf := Act.memWf_ite (Ic.deviceReads_memWf hs hk) (hk _ hs)

theorem Ic.recFail_memWf {a e} (hs : s.memWf = true) : (c.recFail s a e).memWf := hs

theorem execMxmma_memWf {x} (hs : s.memWf = true) : nextWf (execMxmma x s) := by
  unfold execMxmma
  refine issueX_memWf hs fun _ => ?_
  refine Ic.wholeStrand_memWf ?_
  refine Ic.known_memWf hs fun _ => ?_
  refine Ic.recRead_memWf hs fun _ h4 => ?_
  refine Ic.recRead_memWf h4 fun _ h6 => ?_
  refine Act.memWf_ite (State.askWalks_memWf h6) ?_
  refine Act.memWf_ite Ic.trapWhole_memWf ?_
  refine Act.memWf_ite Ic.trapWhole_memWf ?_
  refine Act.memWf_ite Ic.trapWhole_memWf ?_
  refine Act.memWf_ite Ic.trapWhole_memWf ?_
  refine Ic.withTile_memWf h6 fun _ => ?_
  refine Act.memWf_ite Ic.trapWhole_memWf ?_
  refine Act.memWf_ite Ic.trapWhole_memWf ?_
  refine Act.memWf_ite Ic.trapWhole_memWf ?_
  refine Act.memWf_ite Ic.trapWhole_memWf ?_
  refine Act.memWf_ite Ic.trapWhole_memWf ?_
  refine Act.memWf_ite Ic.trapWhole_memWf ?_
  refine Act.memWf_ite Ic.trapWhole_memWf ?_
  dsimp only
  split
  next e8 => exact (Ic.syncCheck_memWf h6) _ e8
  · exact Ic.recFail_memWf h6
  · exact Ic.recFail_memWf h6
  · exact Act.memWf_ite (Ic.toLatch_memWf h6) (Ic.mxIssue_memWf h6)
  · exact Ic.trapWhole_memWf

theorem execMxfin_memWf {x} (hs : s.memWf = true) : nextWf (execMxfin x s) := by
  unfold execMxfin
  refine issueX_memWf hs fun _ => ?_
  refine Ic.wholeStrand_memWf ?_
  refine Ic.known_memWf hs fun _ => ?_
  refine Ic.withTile_memWf hs fun _ => ?_
  split
  next e4 => exact (Ic.syncCheck_memWf hs) _ e4
  · exact Ic.mxIssue_memWf hs

theorem execMxst_memWf {x} (hs : s.memWf = true) : nextWf (execMxst x s) := by
  unfold execMxst
  refine issueX_memWf hs fun _ => ?_
  refine Ic.wholeStrand_memWf ?_
  refine Ic.seedReady_memWf hs ?_
  refine Ic.known_memWf hs fun _ => ?_
  refine Ic.withTile_memWf hs fun _ => ?_
  refine Ic.tileDeliver_memWf hs ?_
  dsimp only
  split
  · exact Ic.trapWhole_memWf
  · refine Act.memWf_ite Ic.trapWhole_memWf ?_
    refine Act.memWf_ite Ic.trapWhole_memWf ?_
    refine Act.memWf_ite Ic.trapWhole_memWf ?_
    refine Act.memWf_ite Ic.trapWhole_memWf ?_
    refine Act.memWf_ite Ic.trapWhole_memWf ?_
    split
    next e4 => exact (Ic.syncCheck_memWf hs) _ e4
    · exact Ic.mxIssue_memWf hs

theorem execCtbm_memWf {x} (hs : s.memWf = true) : nextWf (execCtbm x s) := by
  unfold execCtbm
  refine issueX_memWf hs fun _ => ?_
  refine Ic.wholeStrand_memWf ?_
  refine Ic.known_memWf hs fun _ => ?_
  dsimp only
  split
  · exact Ic.trapWhole_memWf
  · exact Ic.withTile_memWf hs fun _ => Ic.tileDeliver_memWf hs
      (Act.memWf_ite Ic.trapWhole_memWf (Act.memWf_ite Ic.trapWhole_memWf
      (Act.memWf_ite Ic.trapWhole_memWf (Act.memWf_ite Ic.trapWhole_memWf (Ic.mxIssue_memWf hs)))))

theorem execMxgang_memWf {x} (hs : s.memWf = true) : nextWf (execMxgang x s) :=
  issueX_memWf hs fun _ => Ic.wholeStrand_memWf (Ic.known_memWf hs fun _ => Act.memWf_ite hs (State.onStrand_memWf hs))

theorem Ic.rowWord_memWf {t h} (hs : s.memWf = true) : (c.rowWord s t h).2.memWf = true := by
  unfold Ic.rowWord
  dsimp only
  split
  · exact hs
  · split
    · exact hs
    · exact State.draw_memWf hs

theorem execMxrow_memWf {x} (hs : s.memWf = true) : nextWf (execMxrow x s) := by
  unfold execMxrow
  refine issueX_memWf hs fun _ => ?_
  refine Ic.wholeStrand_memWf ?_
  refine Ic.withTile_memWf hs fun _ => ?_
  split
  next e3 =>
    have h4 := memWf_of_eq_snd e3 (Ic.rowWord_memWf hs)
    exact Ic.toS_memWf h4

theorem execMxrowFlags_memWf {x} (hs : s.memWf = true) : nextWf (execMxrowFlags x s) :=
  issueX_memWf hs fun _ => Ic.wholeStrand_memWf (Ic.withTile_memWf hs fun _ => Ic.tileDeliver_memWf hs
    (Act.memWf_ite hs (Ic.toS_memWf hs)))

theorem execMxshpQ_memWf {x} (hs : s.memWf = true) : nextWf (execMxshpQ x s) :=
  issueX_memWf hs fun _ => Ic.wholeStrand_memWf (Ic.known_memWf hs fun _ => Ic.withRec_memWf hs fun _ h4 _ => Act.memWf_ite
    Ic.trapWhole_memWf (Ic.toS_memWf h4))

theorem execMxshpGen_memWf {x} (hs : s.memWf = true) : nextWf (execMxshpGen x s) :=
  issueX_memWf hs fun _ => Ic.wholeStrand_memWf (Ic.known_memWf hs fun _ => Ic.withRec_memWf hs fun _ h4 _ => Act.memWf_ite h4
    (State.putRegs_memWf (State.vwrite_memWf h4)))

/-! ## CPY -/

theorem Ic.cpIssue_memWf {b} (hs : s.memWf = true) : (c.cpIssue s b).memWf := Act.memWf_ite hs (State.addRecOp_memWf hs)

theorem execCpy_memWf {x} (hs : s.memWf = true) : nextWf (execCpy x s) :=
  issueX_memWf hs fun _ => Ic.wholeStrand_memWf (Ic.known_memWf hs fun _ => Act.memWf_ite Ic.trapWhole_memWf
    (Act.memWf_ite Ic.trapWhole_memWf (Act.memWf_ite Ic.trapWhole_memWf (Ic.cpIssue_memWf hs))))

theorem execCpy2d_memWf {x} (hs : s.memWf = true) : nextWf (execCpy2d x s) :=
  issueX_memWf hs fun _ => Ic.wholeStrand_memWf (Ic.known_memWf hs fun _ => Act.memWf_ite Ic.trapWhole_memWf
    (Act.memWf_ite Ic.trapWhole_memWf (Act.memWf_ite Ic.trapWhole_memWf
    (Act.memWf_ite Ic.trapWhole_memWf (Ic.cpIssue_memWf hs)))))

theorem execCpym_memWf {x} (hs : s.memWf = true) : nextWf (execCpym x s) :=
  issueX_memWf hs fun _ => Ic.wholeStrand_memWf (Ic.known_memWf hs fun _ => Act.memWf_ite Ic.trapWhole_memWf
    (Act.memWf_ite Ic.trapWhole_memWf (Act.memWf_ite Ic.trapWhole_memWf
    (Act.memWf_ite Ic.trapWhole_memWf (Ic.cpIssue_memWf hs)))))

theorem State.clearDirect_memWf {part lo hi} (hs : s.memWf = true) : (s.clearDirect part lo hi).memWf = true := hs

theorem execSwapf_memWf {x} (hs : s.memWf = true) : nextWf (execSwapf x s) := by
  unfold execSwapf
  refine issueX_memWf hs fun _ => ?_
  refine Ic.privileged_memWf ?_
  refine Ic.wholeStrand_memWf ?_
  refine Ic.known_memWf hs fun _ => ?_
  refine Act.memWf_ite Ic.trapWhole_memWf ?_
  dsimp only
  split
  · exact Act.memWf_ite Ic.trapWhole_memWf (Act.memWf_ite Ic.trapWhole_memWf
      (Act.memWf_ite hs (Act.memWf_ite hs (State.onDie_memWf (State.addRecOp_memWf
      (State.clearDirect_memWf (State.clearDirect_memWf (State.store_memWf (State.store_memWf hs)))))))))
  · exact Ic.trapWhole_memWf

/-! ## Resources of a workgroup -/

theorem State.grantStrand_memWf {core part wg idx logG ctx} (hs : s.memWf = true) :
    ∀ (x : State × Nat), s.grantStrand core part wg idx logG ctx = some x → x.1.memWf = true := by
  unfold State.grantStrand
  split
  · exact forall_eq_none
  · split
    · exact forall_eq_some (State.setStrand_memWf (State.onQuarter_memWf hs))
    · exact forall_eq_none

theorem State.seatMany_memWf {core part wg logG ctx} {l : List Nat} (hs : s.memWf = true) :
    (s.seatMany core part wg logG ctx l).1.memWf = true := by
  induction l generalizing s with
  | nil => exact hs
  | cons i t ih =>
    unfold State.seatMany
    split
    · exact hs
    next e1 => exact ih ((State.grantStrand_memWf hs) _ e1)

theorem State.seatRest_memWf {part wg logG ctx} {cs left : List Nat} (hs : s.memWf = true) :
    (s.seatRest part wg logG ctx cs left).1.memWf = true := by
  induction cs generalizing s left with
  | nil =>
    cases left with
    | nil => exact hs
    | cons _ _ => exact hs
  | cons c cs ih =>
    cases left with
    | nil => exact hs
    | cons _ _ => exact ih (State.seatMany_memWf hs)

theorem State.seeNode_memWf {part n} (hs : s.memWf = true) : (s.seeNode part n).memWf = true := by
  unfold State.seeNode
  dsimp only
  split
  · exact State.onPart_memWf (State.vwrite_memWf hs)
  · exact State.onPart_memWf hs
  · exact hs

theorem State.writeUse_memWf {part n} (hs : s.memWf = true) : (s.writeUse part n).memWf = true :=
  State.memWf_foldl hs fun _ _ h3 => State.vwrite_memWf (State.vwrite_memWf
    (State.vwrite_memWf (State.vwrite_memWf (State.seeNode_memWf h3))))

theorem State.chargeNodes_memWf {part n c} (hs : s.memWf = true) : (s.chargeNodes part n c).memWf = true :=
  State.memWf_foldl hs fun _ _ h3 => State.vwrite_memWf (State.vwrite_memWf (State.seeNode_memWf h3))

theorem State.seatAt_memWf {x home spread} (hs : s.memWf = true) :
    ∀ (x_1 : State × List Nat × Nat × Nat), s.seatAt x home spread = some x_1 → x_1.1.memWf = true := by
  unfold State.seatAt
  dsimp only
  split
  · split
    · exact forall_eq_none
    · split
      · split
        · exact forall_eq_some (State.seatMany_memWf hs)
        · split
          · exact forall_eq_none
          · split
            · exact forall_eq_some (State.seatRest_memWf (State.seatMany_memWf hs))
            · exact forall_eq_none
      · exact forall_eq_none
  · split
    · exact forall_eq_none
    · split
      · split
        · exact forall_eq_some (State.seatMany_memWf hs)
        · split
          · exact forall_eq_none
          · split
            · exact forall_eq_some (State.seatRest_memWf (State.seatMany_memWf hs))
            · exact forall_eq_none
      · exact forall_eq_none

theorem State.seat_memWf {x home} (hs : s.memWf = true) :
    ∀ (x_1 : State × List Nat × Nat × Nat), s.seat x home = some x_1 → x_1.1.memWf = true := by
  unfold State.seat
  split
  next e1 =>
    have h2 := (State.seatAt_memWf hs) _ e1
    exact forall_eq_some h2
  · split
    · exact forall_eq_none
    · exact State.seatAt_memWf hs

/-! ## User queues and their notify registers -/

theorem State.setQf_memWf {part q off n v} (hs : s.memWf = true) : (s.setQf part q off n v).memWf = true :=
  State.vwrite_memWf hs

theorem State.setDeficit_memWf {part q d} (hs : s.memWf = true) : (s.setDeficit part q d).memWf = true := State.setQf_memWf hs

theorem State.notify_memWf {part q w} (hs : s.memWf = true) : (s.notify part q w).memWf = true :=
  State.memWf_ite (State.postRec_memWf hs) (State.memWf_ite (State.postRec_memWf (State.seen_memWf hs))
    (State.memWf_ite (State.seen_memWf hs) (State.memWf_ite (State.setQf_memWf (State.seen_memWf hs))
    (State.postRec_memWf (State.seen_memWf hs)))))

theorem State.wakeTakes_memWf {part} {f : Nat → Strand → Bool} (hs : s.memWf = true) : (s.wakeTakes part f).memWf = true := hs

/-! ## The context of a strand as bytes -/

theorem State.poolWrite_memWf {a n l} (hs : s.memWf = true) : (s.poolWrite a n l).memWf = true :=
  State.memWf_of
    (foldl_keep (P := fun m => Memory.wf m = true) (Memory.wf_clearRun (State.flostra_wf hs)) fun m e h1 =>
      Memory.wf_writeN e.2.1 m (a + e.1) e.2.2 h1)
    (State.spad_wf hs) (State.vault_wf hs) (State.hostMem_wf hs)

theorem State.vimage_memWf {part a n l} (hs : s.memWf = true) : (s.vimage part a n l).memWf = true := by
  unfold State.vimage
  refine State.memWf_foldl (State.memWf_foldl hs fun s i h1 => ?_) fun _ _ h1 => State.vwrite_memWf h1
  split
  · exact State.setCells_memWf h1 (Memory.wf_clearRun (State.cells_wf h1 _))
  · exact h1

/-! ## RMT -/

theorem Ic.rmtCheck_memWf {m n} : ∀ (x : Act), c.rmtCheck m n = some x → x.memWf := by
  unfold Ic.rmtCheck
  dsimp only
  split
  · exact forall_eq_some Act.trapLanes_memWf
  · split
    · exact forall_eq_some Act.trapLanes_memWf
    · split
      · exact forall_eq_some Act.trapLanes_memWf
      · exact forall_eq_none

theorem Ic.rmtIssue_memWf {m} (hs : s.memWf = true) : (c.rmtIssue s m).memWf := by
  unfold Ic.rmtIssue
  refine Act.memWf_ite hs ?_
  refine Ic.sectorRoom_memWf hs ?_
  refine Act.memWf_ite hs ?_
  extract_lets +onlyGivenNames lanesFor body x1 x2
  have h3 : ∀ (s : State), s.memWf = true → ∀ (syms : List Nat), (x1 s syms).memWf = true := fun _ h5 _ => State.memWf_foldl h5
    fun _ _ h9 => State.addRecOp_memWf h9
  have h10 : x2.memWf := Ic.loadDest_memWf hs fun _ => State.pump_memWf
    (State.memWf_foldl (State.putRegs_memWf hs) fun _ _ h14 => State.addRecOp_memWf h14)
  dsimp only
  split
  · exact Act.memWf_ite (Act.memWf_ite hs (Act.memWf_ite hs (Act.memWf_ite Ic.trapWhole_memWf
      (State.pump_memWf (State.memWf_foldl (State.onStrand_memWf (State.putRegs_memWf hs)) fun _ _ h17 => State.addRecOp_memWf
      h17))))) h10
  · exact h10

theorem execRld_memWf {x} (hs : s.memWf = true) : nextWf (execRld x s) := by
  unfold execRld
  refine issueX_memWf hs fun _ => ?_
  refine Ic.known_memWf hs fun _ => ?_
  dsimp only
  split
  next e3 => exact Ic.rmtCheck_memWf _ e3
  · exact Ic.rmtIssue_memWf hs

theorem execRst_memWf {x} (hs : s.memWf = true) : nextWf (execRst x s) := by
  unfold execRst
  refine issueX_memWf hs fun _ => ?_
  refine Ic.known_memWf hs fun _ => ?_
  dsimp only
  split
  next e3 => exact Ic.rmtCheck_memWf _ e3
  · exact Ic.rmtIssue_memWf hs

theorem execRatm_memWf {x} (hs : s.memWf = true) : nextWf (execRatm x s) := by
  unfold execRatm
  refine issueX_memWf hs fun _ => ?_
  refine Ic.known_memWf hs fun _ => ?_
  dsimp only
  split
  next e3 => exact Ic.rmtCheck_memWf _ e3
  · exact Ic.rmtIssue_memWf hs

theorem rsigOp_memWf {x kind} (hs : s.memWf = true) : nextWf (rsigOp s x kind) := by
  unfold rsigOp
  refine issueX_memWf hs fun _ => ?_
  refine Ic.known_memWf hs fun _ => ?_
  dsimp only
  split
  next e3 => exact Ic.rmtCheck_memWf _ e3
  · exact Ic.rmtIssue_memWf hs

theorem execRsigCtr_memWf {x} (hs : s.memWf = true) : nextWf (execRsigCtr x s) := rsigOp_memWf hs

theorem execRsigSync_memWf {x} (hs : s.memWf = true) : nextWf (execRsigSync x s) := rsigOp_memWf hs

/-! ## .late loads issued again -/

theorem State.engTr_memWf {core part wg sp acc a} (hs : s.memWf = true) : (s.engTr core part wg sp acc a).2.memWf = true := by
  unfold State.engTr
  dsimp only
  split
  · exact hs
  · exact hs
  · split
    next e1 => exact memWf_of_eq_snd e1 (State.trNow_memWf hs)
    next e3 => exact memWf_of_eq_snd e3 (State.trNow_memWf hs)

theorem State.lateTr_memWf {core part wg sp a} (hs : s.memWf = true) : (s.lateTr core part wg sp a).2.memWf = true :=
  State.engTr_memWf hs

theorem State.lateLanes_memWf {core part wg sp} {judge : TrRes → TrRes} {l : List LaneAddr} (hs : s.memWf = true) :
    (s.lateLanes core part wg sp judge l).2.2.memWf = true := by
  induction l generalizing s with
  | nil => exact hs
  | cons x t ih =>
    unfold State.lateLanes
    have h1 := ih (State.lateTr_memWf (core := core) (part := part) (wg := wg) (sp := sp) (a := x.2) hs)
    dsimp only
    split
    · exact h1
    · exact h1
    · exact h1

theorem State.reissueLate_memWf {key op} (hs : s.memWf = true) : (s.reissueLate key op).memWf = true := by
  unfold State.reissueLate
  dsimp only
  split
  · exact hs
  · split
    · exact hs
    · split
      · exact hs
      · exact State.pump_memWf (State.onStrand_memWf hs)
      · exact State.memWf_ite (State.onStrand_memWf (State.lateLanes_memWf hs))
          (State.postGroup_memWf (State.onStrand_memWf (State.lateLanes_memWf hs)))

theorem State.issueSyms_memWf {key c} {l : List Sym} (hs : s.memWf = true) : (s.issueSyms key c l).memWf = true := by
  induction l generalizing s with
  | nil => exact hs
  | cons y t ih =>
    unfold State.issueSyms
    split
    · exact hs
    · split
      · exact ih hs
      · refine ih (State.reissueLate_memWf ?_)
        split
        · exact State.onStrand_memWf (State.onCore_memWf (State.onStrand_memWf hs))
        · exact State.onStrand_memWf hs

end

end Sys2Proof.Machine
end

section
/-! PROOFS. Every function of the model keeps the canonical form of memory (R3): workgroups, saves and restores, decisions,
the management set, doorbell pages and Horgedo. -/

namespace Sys2Proof.Machine

open Sys2Proof

section
variable {s : State} {c : Ic} {e : Eng}

/-! ## Workgroups and their sources -/

theorem State.markAlone_memWf {keys} (hs : s.memWf = true) : (s.markAlone keys).memWf = true := by
  unfold State.markAlone
  split
  · exact State.onStrand_memWf hs
  · exact hs

theorem State.startNew_memWf {src home free freed} (hs : s.memWf = true) :
    ∀ (x : State), s.startNew src home free freed = some x → x.memWf = true := by
  unfold State.startNew
  split
  · exact forall_eq_none
  · split
    · exact forall_eq_none
    next e1 =>
      have h2 := (State.seat_memWf hs) _ e1
      dsimp only
      split
      · split
        · split
          · exact forall_eq_some (State.writeUse_memWf (State.onSource_memWf (State.memWf_same (State.markAlone_memWf h2))))
          · exact forall_eq_none
        · split
          · exact forall_eq_some (State.writeUse_memWf (State.onSource_memWf (State.memWf_same (State.markAlone_memWf h2))))
          · exact forall_eq_none
      · split
        · split
          · exact forall_eq_some (State.writeUse_memWf (State.onSource_memWf (State.memWf_same (State.markAlone_memWf h2))))
          · exact forall_eq_none
        · split
          · exact forall_eq_some (State.writeUse_memWf (State.onSource_memWf (State.memWf_same (State.markAlone_memWf h2))))
          · exact forall_eq_none

theorem State.rekey_memWf {wg m} (hs : s.memWf = true) : (s.rekey wg m).memWf = true := hs

theorem State.startSaved_memWf {wg home free freed} (hs : s.memWf = true) :
    ∀ (x : State), s.startSaved wg home free freed = some x → x.memWf = true := by
  unfold State.startSaved
  split
  · exact forall_eq_none
  · dsimp only
    split
    · exact forall_eq_none
    next e1 =>
      have h2 := (State.seat_memWf hs) _ e1
      split
      · refine forall_eq_some ?_
        refine State.writeUse_memWf ?_
        refine State.onSource_memWf ?_
        refine State.onWg_memWf ?_
        refine State.rekey_memWf ?_
        refine State.memWf_foldl h2 fun _ _ h5 => ?_
        split
        · exact State.memWf_same h5
        · exact h5
      · exact forall_eq_none

theorem State.startMany_memWf {src free freed} {fuel : Nat} {home : Option Nat} (hs : s.memWf = true) :
    ∀ (x : State), s.startMany src free freed fuel home = some x → x.memWf = true := by
  induction fuel generalizing s home with
  | zero => exact forall_eq_none
  | succ fuel ih =>
    unfold State.startMany
    split
    · exact forall_eq_none
    · split
      · exact forall_eq_some hs
      · refine forall_bind_eq_some fun s' e1 => ih ?_
        split at e1
        · exact (State.startNew_memWf hs) _ e1
        · exact forall_findSome_eq_some (fun _ => State.startNew_memWf hs) _ e1

theorem State.startAt_memWf {src home free freed} (hs : s.memWf = true) :
    ∀ (x : State), s.startAt src home free freed = some x → x.memWf = true := by
  unfold State.startAt
  split
  · exact forall_eq_none
  · split
    · exact State.startSaved_memWf hs
    · split
      · exact forall_eq_none
      · split
        · exact State.startMany_memWf hs
        · exact State.startNew_memWf hs

theorem State.raiseDispatch_memWf {die part core source} (hs : s.memWf = true) :
    (s.raiseDispatch die part core source).memWf = true := State.onDie_memWf hs

theorem State.askCompaction_memWf {die src} (hs : s.memWf = true) : (s.askCompaction die src).memWf = true := by
  unfold State.askCompaction
  dsimp only
  split
  · exact hs
  · split
    · exact hs
    · exact State.onQuarter_memWf hs

theorem State.reclaim_memWf {part kept} (hs : s.memWf = true) : (s.reclaim part kept).memWf = true := by
  unfold State.reclaim
  refine State.memWf_foldl hs fun _ _ h3 => ?_
  refine State.memWf_ite h3 ?_
  dsimp only
  split
  · exact h3
  · exact State.wakeTakes_memWf (State.memWf_foldl h3 fun _ _ h6 => State.onWg_memWf h6)

theorem State.judgeSource_memWf {k} (hs : s.memWf = true) : (s.judgeSource k).memWf = true := by
  unfold State.judgeSource
  dsimp only
  split
  · exact hs
  · exact State.memWf_foldl (State.memWf_foldl (State.memWf_foldl (State.onSource_memWf hs) fun _ _ h3 =>
      State.raiseDispatch_memWf h3) fun _ _ h6 => State.memWf_ite (State.onDie_memWf h6) h6) fun _ _ h9 =>
      State.askCompaction_memWf h9

theorem State.refresh_memWf {part} (hs : s.memWf = true) : (s.refresh part).memWf = true := by
  unfold State.refresh
  extract_lets +onlyGivenNames mine s1 now gone s2
  have h3 : s1.memWf = true := State.memWf_foldl hs fun _ _ h6 => State.judgeSource_memWf h6
  have h7 : s2.memWf = true := State.memWf_foldl h3 fun _ _ h10 => State.setDeficit_memWf h10
  exact State.reclaim_memWf (State.onPart_memWf h7)

theorem State.roomFreed_memWf {part cores} (hs : s.memWf = true) : (s.roomFreed part cores).memWf = true :=
  State.refresh_memWf (State.memWf_foldl hs fun _ _ h3 => State.raiseDispatch_memWf h3)

theorem State.onPkt_memWf {part q idx} {f : QPkt → QPkt} (hs : s.memWf = true) : (s.onPkt part q idx f).memWf = true := hs

theorem State.dropWork_memWf {part q idx} (hs : s.memWf = true) : (s.dropWork part q idx).memWf = true := hs

theorem State.releasePkt_memWf {part q idx} (hs : s.memWf = true) : (s.releasePkt part q idx).memWf = true :=
  State.refresh_memWf (State.memWf_same (State.dropWork_memWf (State.setQf_memWf hs)))

theorem State.endPkt_memWf {part q idx} (hs : s.memWf = true) : (s.endPkt part q idx).memWf = true := by
  unfold State.endPkt
  dsimp only
  split
  · exact hs
  · split
    · exact State.releasePkt_memWf (State.memWf_ite hs (State.vsync_memWf hs))
    · exact State.refresh_memWf (State.postGroup_memWf (State.onPkt_memWf (State.dropWork_memWf hs)))

theorem State.checkWork_memWf {part q idx} (hs : s.memWf = true) : (s.checkWork part q idx).memWf = true :=
  State.memWf_ite (State.endPkt_memWf hs) hs

theorem State.publish_memWf {w} (hs : s.memWf = true) : (s.publish w).memWf = true := by
  unfold State.publish
  dsimp only
  split
  · exact hs
  · split
    · exact State.vsync_memWf hs
    · exact State.vwrite_memWf hs
    · exact State.vsync_memWf hs
    · exact hs

theorem State.endWg_memWf {wg} (hs : s.memWf = true) : (s.endWg wg).memWf = true := by
  unfold State.endWg
  dsimp only
  split
  · exact hs
  · exact State.roomFreed_memWf (State.checkWork_memWf (State.memWf_ite
      (State.onPkt_memWf (State.onSource_memWf (State.memWf_ite
      (State.memWf_ite (State.setDeficit_memWf (State.chargeNodes_memWf (State.writeUse_memWf (State.memWf_same hs))))
      (State.postRec_memWf (State.setDeficit_memWf (State.chargeNodes_memWf (State.writeUse_memWf (State.memWf_same hs))))))
      (State.publish_memWf (State.setDeficit_memWf (State.chargeNodes_memWf (State.writeUse_memWf (State.memWf_same hs))))))))
      (State.onSource_memWf (State.memWf_ite (State.memWf_ite
      (State.setDeficit_memWf (State.chargeNodes_memWf (State.writeUse_memWf (State.memWf_same hs))))
      (State.postRec_memWf (State.setDeficit_memWf (State.chargeNodes_memWf (State.writeUse_memWf (State.memWf_same hs))))))
      (State.publish_memWf (State.setDeficit_memWf (State.chargeNodes_memWf (State.writeUse_memWf (State.memWf_same hs)))))))))

theorem State.unlatch_memWf {keys} (hs : s.memWf = true) : (s.unlatch keys).memWf = true := hs

theorem State.dequeue_memWf {keys} {keep : Nat × Nat → Bool} (hs : s.memWf = true) : (s.dequeue keys keep).memWf = true := hs

theorem State.freePool_memWf {w} (hs : s.memWf = true) : (s.freePool w).memWf = true := hs

theorem State.evacDone_memWf {wg} (hs : s.memWf = true) : (s.evacDone wg).memWf = true := by
  unfold State.evacDone
  refine State.memWf_foldl hs fun _ _ h3 => ?_
  refine State.memWf_ite ?_ (State.onCore_memWf h3)
  split
  · exact State.postRec_memWf (State.onCore_memWf h3)
  · exact State.onCore_memWf h3

theorem State.traceDecision_memWf {die part kind version cycles v} (hs : s.memWf = true) :
    (s.traceDecision die part kind version cycles v).memWf = true := State.traceRec_memWf hs

theorem State.settleVerdict_memWf {wg code} (hs : s.memWf = true) : (s.settleVerdict wg code).memWf = true := by
  unfold State.settleVerdict
  split
  · exact hs
  · exact State.onWg_memWf (State.traceDecision_memWf hs)

theorem State.killOne_memWf {wg job} (hs : s.memWf = true) : (s.killOne wg job).memWf = true := by
  unfold State.killOne
  dsimp only
  split
  · exact hs
  · exact State.memWf_ite hs (State.memWf_ite (State.endWg_memWf
      (State.memWf_same (State.evacDone_memWf (State.onWg_memWf
      (State.settleVerdict_memWf (State.memWf_ite hs (State.freePool_memWf hs)))))))
      (State.evacDone_memWf (State.onWg_memWf (State.dequeue_memWf
      (State.memWf_same (State.memWf_foldl (State.unlatch_memWf
      (State.memWf_same (State.onWg_memWf (State.settleVerdict_memWf (State.memWf_ite hs (State.freePool_memWf hs)))))) fun _ _
      h3 => State.onStrand_memWf h3))))))

theorem State.killWg_memWf {wg} (hs : s.memWf = true) : (s.killWg wg).memWf = true :=
  State.memWf_foldl hs fun _ _ h3 => State.killOne_memWf h3

theorem State.removeSource_memWf {k detail} (hs : s.memWf = true) : (s.removeSource k detail).memWf = true := by
  unfold State.removeSource
  dsimp only
  split
  · exact hs
  · exact State.refresh_memWf (State.checkWork_memWf (State.memWf_foldl (State.onPkt_memWf (State.onSource_memWf hs)) fun _ _
      h3 => State.killWg_memWf h3))

theorem State.killJob_memWf {part domain} (hs : s.memWf = true) : (s.killJob part domain).memWf = true := by
  unfold State.killJob
  extract_lets +onlyGivenNames ws s1 srcs s2 more s3
  have h4 : s1.memWf = true := State.memWf_ite hs (State.postGroup_memWf hs)
  have h5 : s2.memWf = true := State.memWf_foldl h4 fun _ _ h8 => State.killOne_memWf h8
  have h9 : s3.memWf = true := State.memWf_foldl h5 fun _ _ h12 => State.killOne_memWf h12
  exact State.memWf_foldl h9 fun _ _ h15 => State.removeSource_memWf h15

theorem State.emptied_memWf (hs : s.memWf = true) : s.emptied.memWf = true := hs

theorem State.coresLost_memWf {part} (hs : s.memWf = true) : (s.coresLost part).memWf = true :=
  State.memWf_foldl hs fun _ _ h3 => State.memWf_ite h3 (State.removeSource_memWf h3)

/-! ## Taking workgroups off their cores and back -/

theorem State.writeRecord_memWf {w} (hs : s.memWf = true) : (s.writeRecord w).memWf = true := State.poolWrite_memWf hs

theorem State.beginSave_memWf {wg quarantine} (hs : s.memWf = true) :
    ∀ (x : State), s.beginSave wg quarantine = some x → x.memWf = true := by
  unfold State.beginSave
  split
  · exact forall_eq_none
  · split
    · exact forall_eq_none
    · split
      · exact forall_eq_none
      · exact forall_eq_some (State.onWg_memWf (State.onPart_memWf hs))

theorem State.drain_memWf {key st left} (hs : s.memWf = true) : (s.drain key st left).memWf = true :=
  State.onQuarter_memWf (State.agentLeft_memWf (State.dropFails_memWf hs))

theorem State.rehome_memWf {wg} (hs : s.memWf = true) : (s.rehome wg).memWf = true := by
  unfold State.rehome
  dsimp only
  split
  · exact State.evacDone_memWf hs
  · split
    next e2 => exact (forall_findSome_eq_some fun _ => State.startSaved_memWf hs) _ e2
    · exact State.route_memWf (State.evacDone_memWf hs)

theorem State.completeSave_memWf {wg} (hs : s.memWf = true) : (s.completeSave wg).memWf = true := by
  unfold State.completeSave
  dsimp only
  split
  · exact hs
  · exact State.memWf_ite hs (State.memWf_ite (State.rehome_memWf
      (State.roomFreed_memWf (State.writeUse_memWf (State.onSource_memWf
      (State.onWg_memWf (State.rekey_memWf (State.memWf_foldl
      (State.dequeue_memWf (State.unlatch_memWf (State.settleVerdict_memWf (State.writeRecord_memWf hs)))) fun _ _ h3 =>
      State.onStrand_memWf (State.drain_memWf h3)))))))) (State.roomFreed_memWf
      (State.writeUse_memWf (State.onSource_memWf (State.onWg_memWf
      (State.rekey_memWf (State.memWf_foldl (State.dequeue_memWf
      (State.unlatch_memWf (State.settleVerdict_memWf (State.writeRecord_memWf hs)))) fun _ _ h6 => State.onStrand_memWf
      (State.drain_memWf h6))))))))

theorem State.abandonSave_memWf {wg} (hs : s.memWf = true) : (s.abandonSave wg).memWf = true := by
  unfold State.abandonSave
  dsimp only
  split
  · exact hs
  · exact State.memWf_ite hs (State.memWf_ite (State.killWg_memWf
      (State.onWg_memWf (State.settleVerdict_memWf (State.freePool_memWf hs))))
      (State.onWg_memWf (State.settleVerdict_memWf (State.freePool_memWf hs))))

theorem State.relatch_memWf {key id} (hs : s.memWf = true) : (s.relatch key id).memWf = true := by
  unfold State.relatch
  dsimp only
  split
  · exact hs
  · exact State.memWf_same hs

theorem State.reenter_memWf {key o} (hs : s.memWf = true) : (s.reenter key o).memWf = true := by
  unfold State.reenter
  split
  · exact State.memWf_ite hs (State.memWf_ite (State.relatch_memWf hs) (State.onCore_memWf hs))
  · exact State.memWf_ite (State.reissueLate_memWf hs) hs

theorem State.renumSyms_memWf {key} (hs : s.memWf = true) : (s.renumSyms key).memWf = true := by
  unfold State.renumSyms
  dsimp only
  split
  · exact hs
  · exact State.onStrand_memWf hs

theorem State.rereadCtx_memWf {key at'} (hs : s.memWf = true) : (s.rereadCtx key at').memWf = true := by
  unfold State.rereadCtx
  dsimp only
  split
  · exact hs
  · exact State.issueSyms_memWf (State.onStrand_memWf hs)

theorem State.rereadTiles_memWf {at'} {changed : Nat → Nat → Bool} {ms} (hs : s.memWf = true) :
    (s.rereadTiles at' changed ms).memWf = true :=
  foldl_keep (P := fun x : Nat × State => x.2.memWf = true) hs fun _ _ h3 => State.memWf_ite (State.onStrand_memWf h3) h3

theorem State.takeRecord_memWf {w} (hs : s.memWf = true) : (s.takeRecord w).memWf = true := by
  unfold State.takeRecord
  refine State.memWf_foldl (State.rereadTiles_memWf ?_) fun _ _ h1 => State.memWf_ite (State.rereadCtx_memWf h1) h1
  exact State.memWf_of (State.flostra_wf hs) (Memory.wf_writeBytes _ _ _ (State.spad_wf hs)) (State.vault_wf hs)
    (State.hostMem_wf hs)

theorem State.completeRestore_memWf {wg} (hs : s.memWf = true) : (s.completeRestore wg).memWf = true := by
  unfold State.completeRestore
  dsimp only
  split
  · exact hs
  · refine State.memWf_ite hs ?_
    refine State.memWf_ite ?_ (State.refresh_memWf (State.evacDone_memWf
      (State.memWf_foldl (State.memWf_foldl (State.onWg_memWf
      (State.freePool_memWf (State.takeRecord_memWf (State.memWf_foldl hs fun _ _ h23 => State.renumSyms_memWf
      (State.onStrand_memWf h23))))) fun _ _ h26 => State.memWf_ite (State.reenter_memWf h26) h26) fun _ _ h29 =>
      State.pump_memWf h29)))
    split
    next e10 =>
      exact (State.beginSave_memWf (State.evacDone_memWf (State.memWf_foldl
        (State.memWf_foldl (State.onWg_memWf (State.freePool_memWf
        (State.takeRecord_memWf (State.memWf_foldl hs fun _ _ h3 => State.renumSyms_memWf (State.onStrand_memWf h3))))) fun _ _
        h6 => State.memWf_ite (State.reenter_memWf h6) h6) fun _ _ h9 => State.pump_memWf h9))) _ e10
    · exact State.killWg_memWf (State.evacDone_memWf (State.memWf_foldl
        (State.memWf_foldl (State.onWg_memWf (State.freePool_memWf
        (State.takeRecord_memWf (State.memWf_foldl hs fun _ _ h14 => State.renumSyms_memWf (State.onStrand_memWf h14))))) fun _
        _ h17 => State.memWf_ite (State.reenter_memWf h17) h17) fun _ _ h20 => State.pump_memWf h20))

theorem State.quarantine_memWf {core} (hs : s.memWf = true) : (s.quarantine core).memWf = true := by
  unfold State.quarantine
  refine State.memWf_ite hs ?_
  extract_lets +onlyGivenNames ws s1 s2
  have h3 : s1.memWf = true := State.onCore_memWf hs
  have h4 : s2.memWf = true := by
    unfold s2
    refine State.memWf_foldl h3 fun _ _ h7 => ?_
    split
    · split
      next e8 => exact (State.beginSave_memWf h7) _ e8
      · exact State.killWg_memWf h7
    · exact State.onWg_memWf h7
  split
  · exact h4
  · exact State.coresLost_memWf (State.memWf_ite (State.postRec_memWf h4) h4)

theorem State.quarantineFailing_memWf (hs : s.memWf = true) : s.quarantineFailing.memWf = true :=
  State.memWf_foldl hs fun _ _ h3 => State.quarantine_memWf h3

theorem State.endCompaction_memWf {q} (hs : s.memWf = true) : (s.endCompaction q).memWf = true := by
  unfold State.endCompaction
  dsimp only
  split
  · exact State.onQuarter_memWf hs
  · split
    · exact State.onQuarter_memWf hs
    · refine State.memWf_ite (State.onQuarter_memWf hs) ?_
      split
      next e1 =>
        have h2 := (State.startAt_memWf (State.onQuarter_memWf hs)) _ e1
        exact State.refresh_memWf h2
      · exact State.refresh_memWf (State.onQuarter_memWf hs)

theorem State.moveBlock_memWf {q} (hs : s.memWf = true) : (s.moveBlock q).memWf = true := by
  unfold State.moveBlock
  dsimp only
  split
  · exact hs
  · split
    · exact State.memWf_ite (State.endCompaction_memWf (State.onQuarter_memWf hs)) (State.onQuarter_memWf hs)
    · exact State.memWf_ite (State.memWf_ite (State.endCompaction_memWf (State.onQuarter_memWf hs)) (State.onQuarter_memWf hs))
        (State.memWf_ite hs (State.memWf_ite (State.endCompaction_memWf
        (State.onQuarter_memWf (State.onStrand_memWf (State.useSlots_memWf hs))))
        (State.onQuarter_memWf (State.onStrand_memWf (State.useSlots_memWf hs)))))

theorem State.moveSpad_memWf {core wg rest} (hs : s.memWf = true) : (s.moveSpad core wg rest).memWf = true := by
  unfold State.moveSpad
  extract_lets pass
  have hp : ∀ {s : State} {part}, s.memWf = true → (pass s part).memWf = true := fun h1 =>
    State.memWf_ite (State.refresh_memWf (State.onCore_memWf h1)) (State.onCore_memWf h1)
  clear_value pass
  split
  · exact State.onCore_memWf hs
  · refine State.memWf_ite (hp hs) (State.memWf_ite hs ?_)
    split
    · refine State.memWf_ite (hp hs) (hp (State.onWg_memWf ?_))
      exact State.memWf_of (State.flostra_wf hs) (Memory.wf_writeBytes _ _ _ (State.spad_wf hs)) (State.vault_wf hs)
        (State.hostMem_wf hs)
    · exact hp hs

theorem State.compactSpad_memWf {core} (hs : s.memWf = true) : (s.compactSpad core).memWf = true := by
  unfold State.compactSpad
  split
  · split
    · exact hs
    · exact State.onCore_memWf hs
  · exact State.moveSpad_memWf hs

/-! ## Replay of suspended operations and parked splits -/

theorem State.replayOp_memWf {key op} (hs : s.memWf = true) : (s.replayOp key op).memWf = true := by
  unfold State.replayOp
  dsimp only
  split
  · exact hs
  · split
    · exact hs
    · split
      · refine State.sendLanes_memWf ?_
        refine State.onStrand_memWf ?_
        refine State.onStrand_memWf ?_
        split
        · exact State.onJoint_memWf hs
        · exact hs
      · refine State.onStrand_memWf ?_
        split
        · exact State.onJoint_memWf hs
        · exact hs
      · exact State.memWf_ite hs (State.reissueLate_memWf hs)

theorem State.unparkSplit_memWf {key slot} (hs : s.memWf = true) : (s.unparkSplit key slot).memWf = true := by
  unfold State.unparkSplit
  split
  · exact hs
  · exact State.onStrand_memWf hs

theorem State.frresume_memWf {part seq} (hs : s.memWf = true) : (s.frresume part seq).memWf = true := by
  unfold State.frresume
  refine State.memWf_foldl (State.memWf_same (State.onPart_memWf hs)) fun _ _ h3 => ?_
  refine State.memWf_foldl (State.memWf_foldl h3 fun _ _ h6 => State.replayOp_memWf h6) fun _ _ h9 => ?_
  split
  · exact State.memWf_ite (State.unparkSplit_memWf h9) h9
  · exact h9

theorem State.frread_memWf {part w} (hs : s.memWf = true) : (s.frread part w).memWf = true :=
  State.memWf_ite hs (State.onPart_memWf hs)

/-! ## Decisions -/

theorem State.onPol_memWf {part die} {f : PolDie → PolDie} (hs : s.memWf = true) : (s.onPol part die f).memWf = true := hs

theorem State.drr_memWf {part die} (hs : s.memWf = true) : ∀ (x : Nat × State), s.drr part die = some x → x.2.memWf = true := by
  unfold State.drr
  dsimp only
  split
  · exact forall_eq_none
  · exact forall_map_eq_some fun _ _ => State.onPol_memWf (State.memWf_foldl hs fun _ _ h5 => State.setDeficit_memWf h5)

theorem State.swapPolicy_memWf {part die} (hs : s.memWf = true) : (s.swapPolicy part die).memWf = true := by
  unfold State.swapPolicy
  refine State.memWf_ite hs ?_
  dsimp only
  split
  · exact hs
  · exact State.memWf_ite (State.onPart_memWf (State.onPol_memWf hs)) (State.onPol_memWf hs)

theorem State.swapAll_memWf {die} (hs : s.memWf = true) : (s.swapAll die).memWf = true :=
  State.memWf_foldl hs fun _ _ h3 => State.swapPolicy_memWf h3

theorem State.countInvalid_memWf {part} (hs : s.memWf = true) : (s.countInvalid part).memWf = true := hs

theorem State.idleDie_memWf {die cycles} (hs : s.memWf = true) : (s.idleDie die cycles).memWf = true :=
  State.swapAll_memWf (State.onDie_memWf hs)

theorem State.closeDecision_memWf {die part kind version cycles v} (hs : s.memWf = true) :
    (s.closeDecision die part kind version cycles v).memWf = true := State.idleDie_memWf (State.traceDecision_memWf hs)

theorem State.keepScratch_memWf {die part d} (hs : s.memWf = true) : (s.keepScratch die part d).memWf = true := by
  unfold State.keepScratch
  dsimp only
  split
  · exact State.onPol_memWf hs
  · exact hs

theorem State.dispatchTo_memWf {die part src home freed} (hs : s.memWf = true) :
    ∀ (x : State), s.dispatchTo die part src home freed = some x → x.memWf = true :=
  forall_map_eq_some fun _ e2 => State.memWf_ite (State.refresh_memWf ((State.startAt_memWf hs) _ e2))
    (State.raiseDispatch_memWf (State.refresh_memWf ((State.startAt_memWf hs) _ e2)))

theorem State.fallbackDispatch_memWf {die part core} (hs : s.memWf = true) :
    (s.fallbackDispatch die part core).1.memWf = true := by
  unfold State.fallbackDispatch
  dsimp only
  split
  next e1 =>
    have h1 := (State.drr_memWf hs) _ e1
    split
    next e2 =>
      refine forall_bind_eq_some (P := fun x : State × Nat => x.1.memWf = true) (fun _ _ => ?_) _ e2
      exact forall_map_eq_some fun _ e3 => (State.dispatchTo_memWf h1) _ e3
    · exact h1
  · exact hs

theorem State.applyDispatch_memWf {die part d core chosen} (hs : s.memWf = true) :
    (s.applyDispatch die part d core chosen).memWf = true := by
  unfold State.applyDispatch
  extract_lets version cycles close fallback
  have hc : ∀ {s : State} {v ver}, s.memWf = true → (close s v ver).memWf = true := fun h1 =>
    State.closeDecision_memWf (State.reclaim_memWf h1)
  have hf : ∀ {s : State}, s.memWf = true → (fallback s).memWf = true := fun h1 => hc (State.fallbackDispatch_memWf h1)
  clear_value close fallback
  split
  · refine State.memWf_ite (hc (State.keepScratch_memWf hs)) ?_
    dsimp only
    split
    next e1 =>
      refine hc (State.keepScratch_memWf ((?_ : ∀ x : State × Verdict, _ = some x → x.1.memWf = true) _ e1))
      split
      · exact forall_eq_none
      · exact forall_bind_eq_some fun _ _ => forall_map_eq_some fun _ e2 => (State.dispatchTo_memWf hs) _ e2
    · exact hf (State.countInvalid_memWf hs)
  · exact hf hs

theorem State.applyPreempt_memWf {die part d chosen} (hs : s.memWf = true) :
    (s.applyPreempt die part d chosen).memWf = true := by
  unfold State.applyPreempt
  extract_lets +onlyGivenNames version cycles x1
  have h2 : ∀ (s : State), s.memWf = true → ∀ (v : Half) (q h : Nat), (x1 s v q h).memWf = true := fun _ h4 _ _ _ =>
    State.closeDecision_memWf h4
  dsimp only
  split
  · exact State.closeDecision_memWf hs
  · refine State.memWf_ite (State.closeDecision_memWf (State.keepScratch_memWf hs)) ?_
    split
    · exact State.closeDecision_memWf (State.countInvalid_memWf hs)
    · split
      next e8 =>
        have h9 := (State.beginSave_memWf (State.keepScratch_memWf hs)) _ e8
        exact State.idleDie_memWf (State.onWg_memWf h9)
      · exact State.closeDecision_memWf (State.keepScratch_memWf hs)

theorem State.giveUp_memWf {key op r} (hs : s.memWf = true) : (s.giveUp key op r).memWf = true :=
  State.pump_memWf (State.onStrand_memWf (State.unqueue_memWf (State.loseOp_memWf hs)))

theorem State.dropJoint_memWf {key op} (hs : s.memWf = true) : (s.dropJoint key op).memWf = true := by
  unfold State.dropJoint
  split
  · exact State.memWf_same hs
  · exact hs

theorem State.retryFault_memWf {f} (hs : s.memWf = true) : (s.retryFault f).memWf = true := by
  unfold State.retryFault
  split
  · exact State.memWf_ite (State.onStrand_memWf hs) (State.unparkSplit_memWf hs)
  · exact State.memWf_ite (State.route_memWf hs) (State.memWf_foldl hs fun _ _ h3 => State.replayOp_memWf h3)
  · split
    · exact State.rehome_memWf hs
    · exact hs

theorem State.leaveFault_memWf {f} (hs : s.memWf = true) : (s.leaveFault f).memWf = true := by
  unfold State.leaveFault
  split
  · exact State.memWf_ite (State.onStrand_memWf hs) hs
  · exact State.memWf_foldl (State.memWf_ite (State.dropJoint_memWf hs) hs) fun _ _ h3 => State.giveUp_memWf h3
  · split
    · exact State.onStrand_memWf hs
    · exact hs

theorem State.applyFault_memWf {die f d chosen} (hs : s.memWf = true) : (s.applyFault die f d chosen).memWf = true := by
  unfold State.applyFault
  extract_lets part version cycles stale chosen s1 s2 nobody asked retries spent n s3 node due applied src r post kept s5 s4
  have h1 : s1.memWf = true := State.memWf_ite (State.countInvalid_memWf hs) hs
  have h2 : s2.memWf = true := State.memWf_ite (State.keepScratch_memWf h1) h1
  have h3 : s3.memWf = true := State.memWf_ite (State.countInvalid_memWf h2) h2
  have hp : ∀ {s : State} {k}, s.memWf = true → (post s k).memWf = true := fun h =>
    State.postGroup_memWf h
  have h5 : s5.memWf = true := by
    unfold s5
    split
    · exact State.onWg_memWf h3
    · exact h3
  clear_value post s5
  refine State.closeDecision_memWf ?_
  unfold s4
  generalize n = decision
  generalize node = job
  split
  · exact hp (State.retryFault_memWf h5)
  · split
    · exact State.killWg_memWf (hp h3)
    · exact hp h3
  · split
    · exact State.killJob_memWf (hp h3)
    · exact hp h3
  · exact hp (State.interrupt_memWf (State.leaveFault_memWf h3))
  · exact hp (State.leaveFault_memWf h3)

theorem State.beginDecision_memWf {die part kind core src flt} (hs : s.memWf = true) :
    (s.beginDecision die part kind core src flt).memWf = true := by
  unfold State.beginDecision
  refine State.memWf_ite (State.onDie_memWf hs) ?_
  split
  · exact State.applyDispatch_memWf hs
  · exact State.applyPreempt_memWf hs
  · exact State.applyFault_memWf hs
  · exact hs

theorem State.endDecision_memWf {die d chosen} (hs : s.memWf = true) : (s.endDecision die d chosen).memWf = true := by
  unfold State.endDecision
  dsimp only
  split
  · exact State.applyDispatch_memWf (State.onDie_memWf hs)
  · exact State.applyPreempt_memWf (State.onDie_memWf hs)
  · exact State.applyFault_memWf (State.onDie_memWf hs)
  · exact State.onDie_memWf hs

theorem State.decideEvent_memWf {die kind part} (hs : s.memWf = true) : (s.decideEvent die kind part).memWf = true := by
  unfold State.decideEvent
  dsimp only
  split
  · exact State.memWf_ite (State.endDecision_memWf hs) hs
  · split
    · exact State.beginDecision_memWf (State.onDie_memWf hs)
    · exact State.memWf_ite (State.beginDecision_memWf (State.onDie_memWf hs)) hs
    · exact State.memWf_ite (State.beginDecision_memWf (State.onDie_memWf hs)) hs
    · exact hs

/-! ## The device management set -/

theorem State.revert_memWf {i} (hs : s.memWf = true) : (s.revert i).memWf = true :=
  State.interrupt_memWf (State.swapPolicy_memWf (State.swapPolicy_memWf (State.onPart_memWf hs)))

theorem State.polcmd_memWf {i v} (hs : s.memWf = true) : (s.polcmd i v).memWf = true := by
  unfold State.polcmd
  split
  · exact State.memWf_ite hs (State.onPart_memWf hs)
  · exact State.revert_memWf hs
  · exact hs

theorem State.partCsrWrite_memWf {i n v} (hs : s.memWf = true) : (s.partCsrWrite i n v).memWf = true := by
  unfold State.partCsrWrite
  refine State.memWf_ite ?_ (State.memWf_ite hs (State.memWf_ite (State.memWf_same hs) (State.setPart_memWf hs)))
  split
  · exact State.onPart_memWf hs
  · exact State.polcmd_memWf hs
  · exact hs
  · exact State.onPart_memWf hs

theorem State.attreq_memWf {part v} (hs : s.memWf = true) : (s.attreq part v).memWf = true :=
  State.memWf_ite hs (State.memWf_same hs)

theorem State.setCap_memWf {w} (hs : s.memWf = true) : (s.setCap w).memWf = true := hs

theorem State.moveCores_memWf {i old} (hs : s.memWf = true) : (s.moveCores i old).memWf = true := by
  unfold State.moveCores
  extract_lets +onlyGivenNames new cores here gone added s1 s2 s3 s4
  have h5 : s1.memWf = true := State.onPart_memWf hs
  have h6 : s2.memWf = true := State.memWf_foldl h5 fun _ _ h9 => State.onCore_memWf h9
  have h10 : s3.memWf = true := State.memWf_ite (State.swapPolicy_memWf (State.swapPolicy_memWf (State.onPart_memWf h6))) h6
  have h11 : s4.memWf = true := State.memWf_ite (State.coresLost_memWf h10) h10
  exact State.roomFreed_memWf h11

theorem State.restage_memWf (hs : s.memWf = true) : s.restage.memWf = true := State.memWf_ite hs (State.memWf_same hs)

theorem State.mgmtWrite_memWf {n v} (hs : s.memWf = true) : (s.mgmtWrite n v).memWf = true := by
  unfold State.mgmtWrite
  dsimp only
  split
  · exact State.memWf_ite (State.memWf_same hs) (State.memWf_ite (State.setCap_memWf hs)
      (State.memWf_ite (State.memWf_same hs) (State.memWf_ite (State.memWf_same hs) hs)))
  · exact State.memWf_ite (State.partCsrWrite_memWf hs) (State.memWf_ite (State.memWf_same hs)
      (State.memWf_ite (State.restage_memWf (State.moveCores_memWf (State.setPart_memWf hs))) (State.setPart_memWf hs)))

/-! ## A partition's doorbell page -/

theorem State.ueNotify_memWf {part k w} (hs : s.memWf = true) : (s.ueNotify part k w).memWf = true :=
  State.memWf_ite (State.postRec_memWf hs) (State.memWf_ite (State.postRec_memWf hs)
    (State.memWf_ite hs (State.memWf_ite (State.onFab_memWf hs) (State.postRec_memWf hs))))

theorem State.dump_memWf {part q} (hs : s.memWf = true) : (s.dump part q).memWf = true := by
  unfold State.dump
  refine State.memWf_ite hs ?_
  extract_lets +onlyGivenNames a s1 s2
  have h3 : s1.memWf = true := State.memWf_foldl hs fun _ _ h6 => State.useSlots_memWf h6
  have h7 : s2.memWf = true := State.onQuarter_memWf h3
  exact State.vimage_memWf h7

theorem State.onSelected_memWf {part} {f : State → Nat → State} (hs : s.memWf = true)
    (hf : ∀ (t : State), t.memWf = true → ∀ (x : Nat), (f t x).memWf = true) :
    (s.onSelected part f).memWf = true := by
  unfold State.onSelected
  split
  · exact hf _ hs _
  · exact hs

theorem State.dbgStop_memWf {part} (hs : s.memWf = true) : (s.dbgStop part).memWf = true :=
  State.onSelected_memWf hs fun _ h2 _ => State.writeReq_memWf h2

theorem State.dbgDump_memWf {part} (hs : s.memWf = true) : (s.dbgDump part).memWf = true :=
  State.onSelected_memWf hs fun _ h2 _ => State.dump_memWf h2

theorem State.dbgEnter_memWf {part slot} (hs : s.memWf = true) : (s.dbgEnter part slot).memWf = true := by
  unfold State.dbgEnter
  refine State.onSelected_memWf hs fun _ h2 _ => ?_
  dsimp only
  split
  · exact h2
  · split
    · exact h2
    · exact State.memWf_ite (State.onQuarter_memWf h2) h2

theorem State.dbgUnhalt_memWf {part slot} (hs : s.memWf = true) : (s.dbgUnhalt part slot).memWf = true :=
  State.onSelected_memWf hs fun _ h2 _ => State.onStrand_memWf h2

theorem State.dbgResume_memWf {part} (hs : s.memWf = true) : (s.dbgResume part).memWf = true :=
  State.onSelected_memWf hs fun _ h2 _ => State.writeReq_memWf h2

theorem State.dbgctl_memWf {part v} (hs : s.memWf = true) : (s.dbgctl part v).memWf = true := by
  unfold State.dbgctl
  extract_lets +onlyGivenNames slot s1 s2 s3 s4
  have h5 : s1.memWf = true := State.memWf_ite (State.dbgStop_memWf hs) hs
  have h6 : s2.memWf = true := State.memWf_ite (State.dbgDump_memWf h5) h5
  have h7 : s3.memWf = true := State.memWf_ite (State.dbgEnter_memWf h6) h6
  have h8 : s4.memWf = true := State.memWf_ite (State.dbgUnhalt_memWf h7) h7
  exact State.memWf_ite (State.dbgResume_memWf h8) h8

theorem State.dbgReply_memWf {part v} (hs : s.memWf = true) : (s.dbgReply part v).memWf = true := hs

theorem State.bellSet_memWf {part off v} (hs : s.memWf = true) : (s.bellSet part off v).memWf = true :=
  State.memWf_ite (State.notify_memWf hs) (State.memWf_ite (State.ueNotify_memWf hs)
    (State.memWf_ite (State.onPart_memWf hs) (State.memWf_ite (State.dbgctl_memWf hs)
    (State.memWf_ite (State.onSelected_memWf hs fun _ h2 _ => State.onPart_memWf h2)
    (State.memWf_ite (State.onSelected_memWf hs fun _ h5 _ => State.onQuarter_memWf h5)
    (State.memWf_ite (State.dbgReply_memWf hs) (State.memWf_ite (State.onPart_memWf hs)
    (State.memWf_ite (State.onPart_memWf hs) (State.memWf_ite (State.onPart_memWf hs)
    (State.memWf_ite (State.frread_memWf hs) (State.memWf_ite (State.frresume_memWf hs) hs)))))))))))

theorem State.bellWrite_memWf {part off n v} (hs : s.memWf = true) : (s.bellWrite part off n v).memWf = true :=
  State.memWf_ite hs (State.bellSet_memWf hs)

/-! ## The Horgedo instructions -/

theorem hgTo_memWf {cost} {pc : Decision → Nat} {f : Decision → Decision} (hs : s.memWf = true) : nextWf (hgTo s cost pc f) :=
  policyOp_memWf hs

theorem hg_memWf {cost} {f : Decision → Decision} (hs : s.memWf = true) : nextWf (hg s cost f) := hgTo_memWf hs

theorem hgSet_memWf {cost n} {f : Decision → Word} (hs : s.memWf = true) : nextWf (hgSet s cost n f) := hg_memWf hs

theorem execHgNop_memWf (hs : s.memWf = true) : nextWf (execHgNop s) := hg_memWf hs

theorem execHgLi_memWf {d imm} (hs : s.memWf = true) : nextWf (execHgLi d imm s) := hgSet_memWf hs

theorem execHgLui_memWf {d imm} (hs : s.memWf = true) : nextWf (execHgLui d imm s) := hgSet_memWf hs

theorem execHgMov_memWf {d a} (hs : s.memWf = true) : nextWf (execHgMov d a s) := hgSet_memWf hs

theorem execHgAdd_memWf {d a b} (hs : s.memWf = true) : nextWf (execHgAdd d a b s) := hgSet_memWf hs

theorem execHgAddi_memWf {d a imm} (hs : s.memWf = true) : nextWf (execHgAddi d a imm s) := hgSet_memWf hs

theorem execHgSub_memWf {d a b} (hs : s.memWf = true) : nextWf (execHgSub d a b s) := hgSet_memWf hs

theorem execHgMul_memWf {d a b} (hs : s.memWf = true) : nextWf (execHgMul d a b s) := hgSet_memWf hs

theorem execHgShl_memWf {d a n} (hs : s.memWf = true) : nextWf (execHgShl d a n s) := hgSet_memWf hs

theorem execHgShr_memWf {d a n} (hs : s.memWf = true) : nextWf (execHgShr d a n s) := hgSet_memWf hs

theorem execHgAnd_memWf {d a b} (hs : s.memWf = true) : nextWf (execHgAnd d a b s) := hgSet_memWf hs

theorem execHgOr_memWf {d a b} (hs : s.memWf = true) : nextWf (execHgOr d a b s) := hgSet_memWf hs

theorem execHgMin_memWf {d a b} (hs : s.memWf = true) : nextWf (execHgMin d a b s) := hgSet_memWf hs

theorem execHgMax_memWf {d a b} (hs : s.memWf = true) : nextWf (execHgMax d a b s) := hgSet_memWf hs

theorem execHgSlt_memWf {d a b} (hs : s.memWf = true) : nextWf (execHgSlt d a b s) := hgSet_memWf hs

theorem execHgSlti_memWf {d a imm} (hs : s.memWf = true) : nextWf (execHgSlti d a imm s) := hgSet_memWf hs

theorem execHgSeq_memWf {d a b} (hs : s.memWf = true) : nextWf (execHgSeq d a b s) := hgSet_memWf hs

theorem execHgSeqi_memWf {d a imm} (hs : s.memWf = true) : nextWf (execHgSeqi d a imm s) := hgSet_memWf hs

theorem execHgLdq_memWf {d a f} (hs : s.memWf = true) : nextWf (execHgLdq d a f s) := hgSet_memWf hs

theorem execHgLdk_memWf {d a f} (hs : s.memWf = true) : nextWf (execHgLdk d a f s) := hgSet_memWf hs

theorem execHgLde_memWf {d f} (hs : s.memWf = true) : nextWf (execHgLde d f s) := hgSet_memWf hs

theorem execHgLdw_memWf {d n} (hs : s.memWf = true) : nextWf (execHgLdw d n s) := hgSet_memWf hs

theorem execHgStw_memWf {a n} (hs : s.memWf = true) : nextWf (execHgStw a n s) := hg_memWf hs

theorem execHgNq_memWf {d} (hs : s.memWf = true) : nextWf (execHgNq d s) := hgSet_memWf hs

theorem execHgFit_memWf {d a b} (hs : s.memWf = true) : nextWf (execHgFit d a b s) := hgSet_memWf hs

theorem execHgBz_memWf {a imm} (hs : s.memWf = true) : nextWf (execHgBz a imm s) := hgTo_memWf hs

theorem execHgBnz_memWf {a imm} (hs : s.memWf = true) : nextWf (execHgBnz a imm s) := hgTo_memWf hs

theorem execHgBr_memWf {imm} (hs : s.memWf = true) : nextWf (execHgBr imm s) := hgTo_memWf hs

theorem execHgForq_memWf {d imm} (hs : s.memWf = true) : nextWf (execHgForq d imm s) := hgTo_memWf hs

theorem execHgNextq_memWf {d imm} (hs : s.memWf = true) : nextWf (execHgNextq d imm s) := hgTo_memWf hs

theorem execHgArgmin_memWf {d f1 f2} (hs : s.memWf = true) : nextWf (execHgArgmin d f1 f2 s) := hgSet_memWf hs

theorem execHgArgmax_memWf {d f1 f2} (hs : s.memWf = true) : nextWf (execHgArgmax d f1 f2 s) := hgSet_memWf hs

theorem hgDecide_memWf {kind} {f : Decision → Int × Int} (hs : s.memWf = true) : nextWf (hgDecide s kind f) := hg_memWf hs

theorem execHgDecideD_memWf {a b} (hs : s.memWf = true) : nextWf (execHgDecideD a b s) := hgDecide_memWf hs

theorem execHgDecideP_memWf {n} (hs : s.memWf = true) : nextWf (execHgDecideP n s) := hgDecide_memWf hs

theorem execHgDecideF_memWf {n} (hs : s.memWf = true) : nextWf (execHgDecideF n s) := hgDecide_memWf hs

theorem execHgWord_memWf {w} (hs : s.memWf = true) : nextWf (execHgWord w s) := by
  unfold execHgWord
  dsimp only
  split
  · exact execHgNop_memWf hs
  · exact execHgLi_memWf hs
  · exact execHgLui_memWf hs
  · exact execHgMov_memWf hs
  · exact execHgAdd_memWf hs
  · exact execHgAddi_memWf hs
  · exact execHgSub_memWf hs
  · exact execHgMul_memWf hs
  · exact execHgShl_memWf hs
  · exact execHgShr_memWf hs
  · exact execHgAnd_memWf hs
  · exact execHgOr_memWf hs
  · exact execHgMin_memWf hs
  · exact execHgMax_memWf hs
  · exact execHgSlt_memWf hs
  · exact execHgSlti_memWf hs
  · exact execHgSeq_memWf hs
  · exact execHgSeqi_memWf hs
  · exact execHgLdq_memWf hs
  · exact execHgLdk_memWf hs
  · exact execHgLde_memWf hs
  · exact execHgLdw_memWf hs
  · exact execHgStw_memWf hs
  · exact execHgNq_memWf hs
  · exact execHgFit_memWf hs
  · exact execHgBz_memWf hs
  · exact execHgBnz_memWf hs
  · exact execHgBr_memWf hs
  · exact execHgForq_memWf hs
  · exact execHgNextq_memWf hs
  · exact execHgArgmin_memWf hs
  · exact execHgArgmax_memWf hs
  · exact execHgDecideD_memWf hs
  · exact execHgDecideP_memWf hs
  · exact execHgDecideF_memWf hs
  · exact policyOp_memWf hs

end

end Sys2Proof.Machine
end

section
/-! PROOFS. Every function of the model keeps the canonical form of memory (R3): operations that perform, strands' events, SYS
and the engines. -/

namespace Sys2Proof.Machine

open Sys2Proof

section
variable {s : State} {c : Ic} {e : Eng}

/-! ## Events of device management -/

theorem State.hostRead_memWf {a n} (hs : s.memWf = true) : (s.hostRead a n).2.memWf = true := by
  unfold State.hostRead
  split
  · exact State.rd_memWf hs
  · split <;> exact hs

theorem State.hostWrite_memWf {a n v} (hs : s.memWf = true) : (s.hostWrite a n v).memWf = true := by
  unfold State.hostWrite
  refine State.memWf_ite (State.wr_memWf hs) ?_
  split
  · exact State.bellWrite_memWf hs
  · exact State.memWf_ite (State.onFab_memWf hs) hs

theorem execHostAccess_memWf {a} (hs : s.memWf = true) : nextWf (execHostAccess a s) := by
  unfold execHostAccess
  refine event_memWf hs fun _ h2 => ?_
  split
  · split
    next e3 =>
      have h4 := memWf_of_eq_snd e3 (State.hostRead_memWf h2)
      exact State.onFab_memWf h4
  · exact State.hostWrite_memWf h2

theorem State.restart_memWf {flash staging} (hs : s.memWf = true) : (s.restart flash staging).memWf = true :=
  State.memWf_of rfl rfl rfl (State.hostMem_wf hs)

theorem execDeviceReset_memWf {flash staging} (hs : s.memWf = true) : nextWf (execDeviceReset flash staging s) :=
  event_memWf hs fun _ h2 => State.restart_memWf h2

theorem execFirmwareFault_memWf {flash staging} (hs : s.memWf = true) : nextWf (execFirmwareFault flash staging s) :=
  event_memWf hs fun _ h2 => State.memWf_ite (State.restart_memWf h2) h2

theorem execManagementWrite_memWf {csr v} (hs : s.memWf = true) : nextWf (execManagementWrite csr v s) :=
  event_memWf hs fun _ h2 => State.memWf_ite (State.mgmtWrite_memWf h2) h2

theorem execCoreLeavesPartition_memWf {part core} (hs : s.memWf = true) : nextWf (execCoreLeavesPartition part core s) :=
  event_memWf hs fun _ h2 => State.memWf_ite h2 (State.restage_memWf (State.onPart_memWf h2))

theorem execScratchClearComplete_memWf {core} (hs : s.memWf = true) : nextWf (execScratchClearComplete core s) := by
  unfold execScratchClearComplete
  refine event_memWf hs fun s h1 => State.memWf_ite h1 ?_
  extract_lets s2 s3
  have h2 : s2.memWf = true := State.memWf_of (State.flostra_wf h1) (Memory.wf_clearRun (State.spad_wf h1))
    (Memory.wf_clearRun (State.vault_wf h1)) (State.hostMem_wf h1)
  have h3 : s3.memWf = true := State.onCore_memWf h2
  split
  · exact State.roomFreed_memWf h3
  · exact h3

theorem execAttreqWrite_memWf {part v} (hs : s.memWf = true) : nextWf (execAttreqWrite part v s) :=
  event_memWf hs fun _ h2 => State.attreq_memWf h2

theorem execAttestationReport_memWf {selfTest} (hs : s.memWf = true) : nextWf (execAttestationReport selfTest s) :=
  event_memWf hs fun _ h2 => State.memWf_ite h2 (State.memWf_ite (State.postRec_memWf (State.memWf_same h2))
    (State.memWf_ite (State.memWf_same h2) (State.memWf_same (State.vwriteBytes_memWf h2))))

theorem execCapWrite_memWf {w} (hs : s.memWf = true) : nextWf (execCapWrite w s) :=
  event_memWf hs fun _ h2 => State.setCap_memWf h2

theorem execPowerThrottle_memWf {meas} (hs : s.memWf = true) : nextWf (execPowerThrottle meas s) :=
  event_memWf hs fun _ h2 => State.memWf_same h2

/-! ## How a memory operation performs -/

theorem State.rdAcc_memWf {p a n} (hs : s.memWf = true) : (s.rdAcc p a n).2.memWf = true := by
  unfold State.rdAcc
  split
  · exact hs
  · exact State.rd_memWf hs

theorem State.wrAcc_memWf {p a n v} (hs : s.memWf = true) : (s.wrAcc p a n v).memWf = true :=
  State.memWf_ite (State.bellWrite_memWf hs) (State.wr_memWf hs)

theorem State.wrElem_memWf {p frame fmt i code} (hs : s.memWf = true) : (s.wrElem p frame fmt i code).memWf = true := by
  unfold State.wrElem
  refine State.memWf_ite ?_ (State.wr_memWf hs)
  dsimp only
  exact State.wr_memWf (State.rd_memWf hs)

theorem State.wrBlock_memWf {e els} (hs : s.memWf = true) : (s.wrBlock e els).1.memWf = true := by
  unfold State.wrBlock
  dsimp only
  split
  · exact hs
  · refine foldl_keep (P := fun x : State × Half => x.1.memWf = true) ?_ fun _ _ h3 => State.wrElem_memWf h3
    refine State.wr_memWf ?_
    split
    · exact State.rd_memWf hs
    · exact hs

theorem State.rdLanes_memWf {accs t} (hs : s.memWf = true) : (s.rdLanes accs t).2.memWf = true := by
  unfold State.rdLanes
  refine foldl_keep (P := fun x : LaneVals × State => x.2.memWf = true) hs fun _ _ h3 => ?_
  split
  next e4 => exact memWf_of_eq_snd e4 (State.rdAcc_memWf h3)

theorem State.rdTile_memWf {accs} (hs : s.memWf = true) : (s.rdTile accs).2.memWf = true := by
  unfold State.rdTile
  refine foldl_keep (P := fun x : LaneVals × State => x.2.memWf = true) hs fun _ _ h3 => ?_
  split
  next e4 => exact memWf_of_eq_snd e4 (State.rdAcc_memWf h3)

theorem State.doAtomic_memWf {a op t c e} (hs : s.memWf = true) : (s.doAtomic a op t c e).2.memWf = true := by
  unfold State.doAtomic
  dsimp only
  split
  · exact State.farAsk_memWf hs
  · exact State.wrAcc_memWf (State.rdAcc_memWf hs)

theorem State.doAtomics_memWf {accs op t c e} (hs : s.memWf = true) : (s.doAtomics accs op t c e).2.memWf = true := by
  unfold State.doAtomics
  refine foldl_keep (P := fun x : LaneVals × State => x.2.memWf = true) hs fun _ _ h3 => ?_
  split
  next e4 => exact memWf_of_eq_snd e4 (State.doAtomic_memWf h3)

theorem State.loadVals_memWf {wg b} (hs : s.memWf = true) : (s.loadVals wg b).2.2.memWf = true := by
  unfold State.loadVals
  split
  · refine foldl_keep (P := fun x : LaneVals × State => x.2.memWf = true) hs fun _ _ h3 => ?_
    split
    next e4 => exact memWf_of_eq_snd e4 (State.rdAcc_memWf h3)
  · refine foldl_keep (P := fun x : LaneVals × State => x.2.memWf = true) hs fun _ _ h8 => ?_
    split
    next e9 => exact memWf_of_eq_snd e9 (State.rdAcc_memWf h8)
  · exact State.rdElems_memWf hs
  · exact hs
  · refine foldl_keep (P := fun x : LaneVals × State => x.2.memWf = true) hs fun _ _ h13 => ?_
    split
    next e14 => exact memWf_of_eq_snd e14 (State.doAtomic_memWf h13)
  · exact hs
  · exact hs

theorem State.landLoad_memWf {key op} (hs : s.memWf = true) : (s.landLoad key op).memWf = true := by
  unfold State.landLoad
  split
  · exact hs
  · split
    · exact hs
    · split
      next e1 =>
        have h2 := memWf_of_eq_snd_snd e1 (State.loadVals_memWf hs)
        exact State.finishOp_memWf (State.onStrand_memWf (State.useSlots_memWf h2))

theorem State.wakeDest_memWf {key num} (hs : s.memWf = true) : (s.wakeDest key num).memWf = true := by
  unfold State.wakeDest
  split
  · exact hs
  · exact State.useSlots_memWf hs

theorem State.resolveSym_memWf {key op num} (hs : s.memWf = true) : (s.resolveSym key op num).memWf = true := by
  unfold State.resolveSym
  split
  · exact hs
  · split
    · split
      next e1 =>
        have h2 := memWf_of_eq_snd_snd e1 (State.loadVals_memWf hs)
        exact State.finishOp_memWf (State.onStrand_memWf (State.wakeDest_memWf h2))
    · exact hs

theorem State.holdLate_memWf {key st o} (hs : s.memWf = true) : (s.holdLate key st o).memWf = true := by
  unfold State.holdLate
  split
  next e1 =>
    have h2 := memWf_of_eq_snd_snd e1 (State.loadVals_memWf hs)
    exact State.onStrand_memWf h2

theorem State.doStore_memWf {key b} (hs : s.memWf = true) : (s.doStore key b).memWf = true := by
  unfold State.doStore
  dsimp only
  split
  · exact State.memWf_foldl hs fun _ _ h3 => State.wrAcc_memWf h3
  · exact State.raise_memWf (foldl_keep (P := fun x : State × Half => x.1.memWf = true) hs fun _ _ h6 => State.wrBlock_memWf h6)
  · exact State.doAtomics_memWf hs
  · exact State.syncAt_memWf hs
  · exact hs

/-! ## Events of strands -/

theorem State.holdWrite_memWf {key op resolution} (hs : s.memWf = true) : (s.holdWrite key op resolution).memWf = true := hs

theorem State.lateRead_memWf {key st o} {k : State → State} (hs : s.memWf = true)
    (hk : ∀ (t : State), t.memWf = true → (k t).memWf = true) :
    (s.lateRead key st o k).memWf = true := by
  unfold State.lateRead
  dsimp only
  split
  · exact hk _ (State.eccScan_memWf hs)
  · exact State.route_memWf (State.onStrand_memWf (State.eccScan_memWf hs))

theorem execLoadDataArrival_memWf {strand op} (hs : s.memWf = true) : nextWf (execLoadDataArrival strand op s) := by
  unfold execLoadDataArrival
  refine event_memWf hs fun _ h2 => ?_
  split
  · split
    · exact State.farFor_memWf h2 fun _ h4 => State.lateRead_memWf h4 fun _ h6 => State.holdLate_memWf h6
    · exact h2
  · exact State.memWf_ite h2 (State.memWf_ite (State.holdWrite_memWf h2)
      (State.farFor_memWf h2 fun _ h8 => State.landLoad_memWf h8))

theorem execSymbolResolution_memWf {strand sym} (hs : s.memWf = true) : nextWf (execSymbolResolution strand sym s) := by
  unfold execSymbolResolution
  refine event_memWf hs fun _ h2 => ?_
  split
  · exact h2
  · split
    · exact h2
    · exact State.memWf_ite h2 (State.memWf_ite (State.holdWrite_memWf h2)
        (State.farFor_memWf h2 fun _ h4 => State.lateRead_memWf h4 fun _ h6 => State.resolveSym_memWf h6))

theorem execStorePerformed_memWf {strand op} (hs : s.memWf = true) : nextWf (execStorePerformed strand op s) := by
  unfold execStorePerformed
  refine event_memWf hs fun _ h2 => ?_
  split
  · exact h2
  · exact State.memWf_ite (State.farFor_memWf h2 fun _ h4 => State.finishOp_memWf (State.doStore_memWf h4)) h2

theorem execStrandLeavesExited_memWf {strand} (hs : s.memWf = true) : nextWf (execStrandLeavesExited strand s) := by
  unfold execStrandLeavesExited
  refine event_memWf hs fun _ h2 => ?_
  dsimp only
  split
  · exact h2
  · split
    · exact h2
    · exact State.memWf_ite h2 (State.memWf_ite (State.endWg_memWf (State.onWg_memWf (State.memWf_same (State.drain_memWf h2))))
        (State.writeUse_memWf (State.onWg_memWf (State.memWf_same (State.drain_memWf h2)))))

theorem execDrainingEnd_memWf {quarter start} (hs : s.memWf = true) : nextWf (execDrainingEnd quarter start s) := by
  unfold execDrainingEnd
  refine event_memWf hs fun _ h2 => ?_
  dsimp only
  split
  · exact h2
  · refine State.memWf_ite h2 ?_
    refine State.memWf_ite (State.onQuarter_memWf h2) ?_
    split
    · exact State.roomFreed_memWf (State.onQuarter_memWf h2)
    · exact State.onQuarter_memWf h2

theorem execSlotDrowsy_memWf {strand slot} (hs : s.memWf = true) : nextWf (execSlotDrowsy strand slot s) := by
  unfold execSlotDrowsy
  refine event_memWf hs fun _ h2 => ?_
  split
  · exact h2
  · exact State.memWf_ite h2 (State.onQuarter_memWf h2)

theorem execSleepExpiry_memWf {strand split} (hs : s.memWf = true) : nextWf (execSleepExpiry strand split s) :=
  event_memWf hs fun _ h2 => State.onStrand_memWf h2

theorem execWalkComplete_memWf {w} (hs : s.memWf = true) : nextWf (execWalkComplete w s) :=
  event_memWf hs fun _ h2 => State.memWf_ite (State.endWalk_memWf h2) h2

theorem State.cacheWords_memWf {core part va l} (hs : s.memWf = true) : (s.cacheWords core part va l).memWf = true :=
  State.memWf_foldl hs fun _ _ h3 => State.memWf_ite h3 (State.onCore_memWf h3)

theorem State.dropCode_memWf {part} (hs : s.memWf = true) : (s.dropCode part).memWf = true :=
  State.memWf_foldl hs fun _ _ h3 => State.onCore_memWf h3

theorem State.prefetch_memWf {core part va} (hs : s.memWf = true) : (s.prefetch core part va).memWf = true := by
  unfold State.prefetch
  split
  · exact State.memWf_ite hs (State.cacheWords_memWf hs)
  · exact hs

theorem execInstructionFetchComplete_memWf {strand split} (hs : s.memWf = true) :
    nextWf (execInstructionFetchComplete strand split s) := by
  unfold execInstructionFetchComplete
  refine event_memWf hs fun _ h2 => ?_
  dsimp only
  split
  · exact h2
  · refine State.memWf_ite h2 ?_
    refine State.farDo_memWf h2 fun _ h4 => ?_
    split
    · exact State.askWalks_memWf h4
    · exact State.memWf_ite h4 (State.onStrand_memWf (State.parkFail_memWf h4))
    · exact State.memWf_ite h4 (State.memWf_ite (State.onStrand_memWf
        (State.memWf_same (State.cacheWords_memWf (State.eccScan_memWf (State.memWf_ite (State.rdLanes_memWf h4) h4)))))
        (State.parkLoss_memWf (State.eccScan_memWf (State.memWf_ite (State.rdLanes_memWf h4) h4))))

theorem execCompactionMove_memWf {quarter} (hs : s.memWf = true) : nextWf (execCompactionMove quarter s) :=
  event_memWf hs fun _ h2 => State.moveBlock_memWf h2

theorem execScratchpadCompaction_memWf {core} (hs : s.memWf = true) : nextWf (execScratchpadCompaction core s) :=
  event_memWf hs fun _ h2 => State.compactSpad_memWf h2

/-! ## Events of debug and trace -/

theorem State.stopAt_memWf {key slot cause comp reason lanes} (hs : s.memWf = true) :
    (s.stopAt key slot cause comp reason lanes).memWf = true := by
  unfold State.stopAt
  dsimp only
  split
  · exact hs
  · exact State.onQuarter_memWf (State.stopQuarter_memWf (State.onStrand_memWf hs))

theorem execBreakpointMatch_memWf {strand split} (hs : s.memWf = true) : nextWf (execBreakpointMatch strand split s) := by
  unfold execBreakpointMatch
  refine event_memWf hs fun _ h2 => ?_
  split
  · exact State.stopAt_memWf h2
  · exact h2

theorem execWatchpointMatch_memWf {strand split} (hs : s.memWf = true) : nextWf (execWatchpointMatch strand split s) := by
  unfold execWatchpointMatch
  refine event_memWf hs fun _ h2 => ?_
  split
  · exact State.stopAt_memWf h2
  · exact h2

theorem execAgentEntry_memWf {quarter} (hs : s.memWf = true) : nextWf (execAgentEntry quarter s) := by
  unfold execAgentEntry
  refine event_memWf hs fun _ h2 => ?_
  split
  · exact State.enterAgent_memWf h2
  · exact h2

theorem execStepReentry_memWf {quarter} (hs : s.memWf = true) : nextWf (execStepReentry quarter s) := by
  unfold execStepReentry
  refine event_memWf hs fun _ h2 => ?_
  split
  · exact State.enterAgent_memWf h2
  · exact h2

theorem execQstopStop_memWf {quarter} (hs : s.memWf = true) : nextWf (execQstopStop quarter s) :=
  event_memWf hs fun _ h2 => State.writeReq_memWf h2

theorem execQstopResume_memWf {quarter} (hs : s.memWf = true) : nextWf (execQstopResume quarter s) :=
  event_memWf hs fun _ h2 => State.writeReq_memWf h2

theorem execDbgStop_memWf {part} (hs : s.memWf = true) : nextWf (execDbgStop part s) :=
  event_memWf hs fun _ h2 => State.dbgStop_memWf h2

theorem execDbgDump_memWf {part} (hs : s.memWf = true) : nextWf (execDbgDump part s) :=
  event_memWf hs fun _ h2 => State.dbgDump_memWf h2

theorem execDbgEnter_memWf {part slot} (hs : s.memWf = true) : nextWf (execDbgEnter part slot s) :=
  event_memWf hs fun _ h2 => State.dbgEnter_memWf h2

theorem execDbgUnhalt_memWf {part slot} (hs : s.memWf = true) : nextWf (execDbgUnhalt part slot s) :=
  event_memWf hs fun _ h2 => State.dbgUnhalt_memWf h2

theorem execDbgResume_memWf {part} (hs : s.memWf = true) : nextWf (execDbgResume part s) :=
  event_memWf hs fun _ h2 => State.dbgResume_memWf h2

theorem execDbgreplyWrite_memWf {part v} (hs : s.memWf = true) : nextWf (execDbgreplyWrite part v s) :=
  event_memWf hs fun _ h2 => State.dbgReply_memWf h2

theorem State.applyHeld_memWf {h} (hs : s.memWf = true) : (s.applyHeld h).memWf = true := by
  unfold State.applyHeld
  split
  · exact hs
  · split
    · exact State.lateRead_memWf hs fun _ h2 => State.resolveSym_memWf h2
    · exact State.landLoad_memWf hs

theorem execDumpComplete_memWf {quarter} (hs : s.memWf = true) : nextWf (execDumpComplete quarter s) :=
  event_memWf hs fun _ h2 => State.memWf_ite h2 (State.memWf_foldl (State.onQuarter_memWf h2) fun _ _ h5 =>
    State.applyHeld_memWf h5)

theorem execTraceSample_memWf {quarter} (hs : s.memWf = true) : nextWf (execTraceSample quarter s) := by
  unfold execTraceSample
  refine event_memWf hs fun _ h2 => ?_
  dsimp only
  split
  · exact h2
  · exact State.memWf_ite h2 (State.traceRec_memWf h2)

theorem execMmioRegisterWrite_memWf {part off v} (hs : s.memWf = true) : nextWf (execMmioRegisterWrite part off v s) :=
  event_memWf hs fun _ h2 => State.memWf_ite (State.bellSet_memWf h2) h2

/-! ## SYS -/

theorem State.csrWrite_memWf {c n a} (hs : s.memWf = true) : (s.csrWrite c n a).memWf = true := by
  unfold State.csrWrite
  dsimp only
  split
  · exact State.onStrand_memWf hs
  · exact State.onStrand_memWf hs
  · exact State.onStrand_memWf hs
  · exact State.onStrand_memWf hs
  · exact State.onStrand_memWf hs
  · exact State.onStrand_memWf hs
  · exact State.onStrand_memWf hs
  · exact State.onStrand_memWf hs
  · exact State.onStrand_memWf hs
  · exact State.memWf_ite (State.onStrand_memWf hs) (State.memWf_ite (State.setCount_memWf hs)
      (State.memWf_ite (State.setCount_memWf hs) (State.memWf_ite (State.writeReq_memWf hs)
      (State.memWf_ite (State.attreq_memWf hs) (State.partCsrWrite_memWf hs)))))

theorem Ic.flagsIn_memWf {k : Act} (hs : s.memWf = true) (hk : k.memWf) : (c.flagsIn s k).memWf :=
  Act.memWf_ite hs (Act.memWf_ite hs hk)

theorem execCsrr_memWf {x} (hs : s.memWf = true) : nextWf (execCsrr x s) :=
  issueX_memWf hs fun _ => Act.memWf_ite Ic.trapWhole_memWf (Act.memWf_ite (Ic.flagsIn_memWf hs (Ic.toS_memWf hs))
    (Ic.toS_memWf hs))

theorem execCsrw_memWf {x} (hs : s.memWf = true) : nextWf (execCsrw x s) :=
  issueX_memWf hs fun _ => Act.memWf_ite Ic.trapWhole_memWf (Ic.known_memWf hs fun _ => State.csrWrite_memWf hs)

theorem execMode_memWf {x} (hs : s.memWf = true) : nextWf (execMode x s) := by
  unfold execMode
  refine issueX_memWf hs fun _ => ?_
  refine Ic.known_memWf hs fun _ => ?_
  dsimp only
  split
  · exact Ic.flagsIn_memWf hs (Act.memWf_ite hs (State.putRegs_memWf (State.onStrand_memWf hs)))
  · exact State.onStrand_memWf hs

theorem execNop_memWf {x} (hs : s.memWf = true) : nextWf (execNop x s) := issueX_memWf hs fun _ => hs

theorem execClock_memWf {x} (hs : s.memWf = true) : nextWf (execClock x s) := issueX_memWf hs fun _ => Ic.toS_memWf hs

theorem execSleep_memWf {x} (hs : s.memWf = true) : nextWf (execSleep x s) :=
  issueX_memWf hs fun _ => Ic.known_memWf hs fun _ => State.onStrand_memWf hs

theorem execYield_memWf {x} (hs : s.memWf = true) : nextWf (execYield x s) := by
  unfold execYield
  split
  · exact nextWf.fault
  · exact nextWf.next (State.onQuarter_memWf (State.conclude_memWf hs hs))

theorem execPerfr_memWf {x} (hs : s.memWf = true) : nextWf (execPerfr x s) := by
  unfold execPerfr
  refine issueX_memWf hs fun _ => ?_
  refine Ic.known_memWf hs fun _ => ?_
  dsimp only
  split
  · exact Ic.toS_memWf hs
  · refine Act.memWf_ite Ic.trapWhole_memWf ?_
    refine Act.memWf_ite ?_ (Ic.toS_memWf hs)
    split
    · exact Ic.toS_memWf (State.draw_memWf hs)
    · exact Ic.toS_memWf hs

theorem execIdq_memWf {x} (hs : s.memWf = true) : nextWf (execIdq x s) := by
  unfold execIdq
  refine issueX_memWf hs fun _ => ?_
  split
  · exact Ic.vec_memWf hs
  · exact Ic.toS_memWf hs

theorem execTrap_memWf {x} (hs : s.memWf = true) : nextWf (execTrap x s) :=
  issueX_memWf hs fun _ => Ic.known_memWf hs fun _ => trivial

theorem Ic.tretLoaded_memWf {x syms} (hs : s.memWf = true) : (c.tretLoaded s x syms).memWf :=
  Act.memWf_ite hs (Ic.deviceReadsAll_memWf hs fun _ h2 => State.issueSyms_memWf (State.onStrand_memWf h2))

theorem execTret_memWf {x} (hs : s.memWf = true) : nextWf (execTret x s) := by
  unfold execTret
  refine issueX_memWf hs fun _ => ?_
  refine Ic.privileged_memWf ?_
  refine Act.memWf_ite ?_ ?_
  · split
    · exact State.agentTret_memWf hs
    · split
      next e2 =>
        have h3 := Act.memWf_of_eq e2 (Ic.tretLoaded_memWf hs)
        exact State.memWf_ite (State.agentOver_memWf h3) (State.agentTret_memWf h3)
      · exact Ic.tretLoaded_memWf hs
  · split
    · exact State.onStrand_memWf hs
    · exact Ic.tretLoaded_memWf hs

theorem execHalt_memWf {x} (hs : s.memWf = true) : nextWf (execHalt x s) :=
  issueX_memWf hs fun _ => Ic.privileged_memWf (State.onStrand_memWf hs)

theorem execReservedEncoding_memWf {code words} (hs : s.memWf = true) : nextWf (execReservedEncoding code words s) :=
  issue_memWf hs fun _ => Ic.trapWhole_memWf

theorem Ic.mailbox_memWf {k : Act} (_ : s.memWf = true) (hk : k.memWf) : (c.mailbox s k).memWf :=
  Act.memWf_ite Ic.trapWhole_memWf hk

theorem State.mboxPost_memWf {part a} (hs : s.memWf = true) : (s.mboxPost part a).memWf = true :=
  State.interrupt_memWf (State.onPart_memWf hs)

theorem execMboxPost_memWf {x} (hs : s.memWf = true) : nextWf (execMboxPost x s) :=
  issueX_memWf hs fun _ => Ic.privileged_memWf (Ic.known_memWf hs fun _ => Ic.mailbox_memWf hs
    (Act.memWf_ite hs (State.putRegs_memWf (State.mboxPost_memWf hs))))

theorem execMboxWait_memWf {x} (hs : s.memWf = true) : nextWf (execMboxWait x s) := by
  unfold execMboxWait
  refine issueX_memWf hs fun _ => ?_
  refine Ic.privileged_memWf ?_
  refine Ic.known_memWf hs fun _ => ?_
  refine Ic.mailbox_memWf hs ?_
  refine Act.memWf_ite hs ?_
  extract_lets +onlyGivenNames s3
  have h4 : s3.memWf = true := State.memWf_ite hs (State.onStrand_memWf (State.mboxPost_memWf hs))
  split
  · exact State.putRegs_memWf (State.onStrand_memWf h4)
  · exact h4

theorem State.tlbInv_memWf {part lo hi} (hs : s.memWf = true) : (s.tlbInv part lo hi).memWf = true := hs

theorem execTlbinv_memWf {x} (hs : s.memWf = true) : nextWf (execTlbinv x s) :=
  issueX_memWf hs fun _ => Ic.privileged_memWf (Ic.known_memWf hs fun _ => State.memWf_ite hs (State.tlbInv_memWf hs))

theorem execTlbinvAll_memWf {x} (hs : s.memWf = true) : nextWf (execTlbinvAll x s) :=
  issueX_memWf hs fun _ => Ic.privileged_memWf (State.tlbInv_memWf hs)

theorem Ic.reachOf_memWf {acc} {all l : List Nat} {k : State → Act} (hs : s.memWf = true)
    (hk : ∀ (a : State), a.memWf = true → (k a).memWf) :
    (c.reachOf s acc all l k).memWf := by
  induction l with
  | nil => exact hk s hs
  | cons a t ih =>
    unfold Ic.reachOf
    dsimp only
    split
    · exact ih
    · exact State.askWalks_memWf hs
    · exact State.parkFail_memWf hs

theorem Ic.reach_memWf {acc l} {k : State → Act} (hs : s.memWf = true) (hk : ∀ (t : State), t.memWf = true → (k t).memWf) :
    (c.reach s acc l k).memWf := Ic.reachOf_memWf hs hk

theorem Ic.reachImage_memWf {acc l} {k : State → List Nat → Act} (hs : s.memWf = true)
    (hk : ∀ (t : State), t.memWf = true → ∀ (x : List Nat), (k t x).memWf) :
    (c.reachImage s acc l k).memWf := Ic.reachOf_memWf hs fun _ h2 => hk _ h2 _

theorem Ic.saveArea_memWf {k : Nat → Act} (hk : ∀ (x : Nat), (k x).memWf) : (c.saveArea k).memWf :=
  Act.memWf_ite Ic.trapWhole_memWf (hk _)

theorem execEsaveCtx_memWf {x} (hs : s.memWf = true) : nextWf (execEsaveCtx x s) := by
  unfold execEsaveCtx
  refine issueX_memWf hs fun _ => ?_
  refine Ic.privileged_memWf ?_
  refine Ic.waitOps_memWf hs ?_
  refine Ic.saveArea_memWf fun _ => ?_
  refine Ic.reachImage_memWf hs fun _ h4 _ => ?_
  dsimp only
  split
  · exact h4
  · exact State.vimage_memWf h4

theorem execEloadCtx_memWf {x} (hs : s.memWf = true) : nextWf (execEloadCtx x s) :=
  issueX_memWf hs fun _ => Ic.privileged_memWf (Act.memWf_ite hs
    (Ic.saveArea_memWf fun _ => Ic.reachImage_memWf hs fun _ h4 _ => Ic.deviceReads_memWf h4 fun _ h7 => Act.memWf_ite
    Ic.trapWhole_memWf (State.onStrand_memWf h7)))

theorem execEsaveStack_memWf {x} (hs : s.memWf = true) : nextWf (execEsaveStack x s) :=
  issueX_memWf hs fun _ => Ic.privileged_memWf (Ic.known_memWf hs fun _ => Act.memWf_ite Ic.trapWhole_memWf
    (Ic.reachImage_memWf hs fun _ h4 _ => State.onStrand_memWf (State.memWf_foldl h4 fun _ _ h8 => State.vimage_memWf h8)))

theorem execEloadStack_memWf {x} (hs : s.memWf = true) : nextWf (execEloadStack x s) :=
  issueX_memWf hs fun _ => Ic.privileged_memWf (Ic.known_memWf hs fun _ => Act.memWf_ite Ic.trapWhole_memWf
    (Ic.reachImage_memWf hs fun _ h4 _ => Ic.deviceReadsAll_memWf h4 fun _ h7 => State.onStrand_memWf h7))

/-! ## The engines when an operation performs -/

theorem State.suspendOp_memWf {key st o sub addr} (hs : s.memWf = true) : (s.suspendOp key st o sub addr).memWf = true := hs

theorem State.routeOp_memWf {key st o cls sub outcome addr} (hs : s.memWf = true) :
    (s.routeOp key st o cls sub outcome addr).memWf = true := State.route_memWf (State.onStrand_memWf hs)

theorem State.takeCheck_memWf {f : Check → Bool} (hs : s.memWf = true) :
    ∀ (x : Check × State), s.takeCheck f = some x → x.2.memWf = true := by
  unfold State.takeCheck
  split
  · exact forall_eq_some (State.memWf_same hs)
  · exact forall_eq_none

theorem State.engCheck_memWf {key st o sub} (hs : s.memWf = true) : (s.engCheck key st o sub).1.memWf = true := by
  unfold State.engCheck
  dsimp only
  split
  · exact hs
  next e1 =>
    have h2 := (State.takeCheck_memWf hs) _ e1
    split
    · exact State.postRec_memWf h2
    · exact State.quarantine_memWf (State.routeOp_memWf h2)

theorem State.accCheck_memWf {key st o h} (hs : s.memWf = true) : (s.accCheck key st o h).1.memWf = true := by
  unfold State.accCheck
  dsimp only
  split
  · exact hs
  next e1 =>
    have h2 := (State.takeCheck_memWf hs) _ e1
    split
    · exact State.postRec_memWf h2
    · split
      · exact State.routeOp_memWf (State.onStrand_memWf h2)
      · exact State.quarantine_memWf (State.routeOp_memWf (State.onStrand_memWf h2))

theorem Eng.s_memWf {self : Eng} (hself : self.s.memWf = true) : self.s.memWf = true := hself

theorem Eng.start_memWf {key st} (hs : s.memWf = true) : (Eng.start s key st).s.memWf = true := hs

theorem Eng.fail_memWf {a} (he : e.s.memWf = true) : (e.fail a).s.memWf = true := he

theorem Eng.tr_memWf {sp acc a} {judge : TrRes → TrRes} (he : e.s.memWf = true) : (e.tr sp acc a judge).2.s.memWf = true := by
  unfold Eng.tr
  split
  next e1 =>
    have h2 := memWf_of_eq_snd e1 (State.engTr_memWf he)
    split
    · exact h2
    · exact Eng.fail_memWf h2

theorem Eng.trN_memWf {sp acc a n} (he : e.s.memWf = true) : (e.trN sp acc a n).2.s.memWf = true := by
  unfold Eng.trN
  split
  next e1 => exact eng_memWf_of_eq_snd e1 (Eng.tr_memWf he)
  · split
    next e3 =>
      have h4 := eng_memWf_of_eq_snd e3 (Eng.tr_memWf he)
      exact Eng.fail_memWf h4
    next e5 => exact eng_memWf_of_eq_snd e5 (Eng.tr_memWf he)

theorem Eng.scan_memWf {p pa n} (he : e.s.memWf = true) : (e.scan p pa n).s.memWf = true := by
  unfold Eng.scan
  split
  · split
    · exact he
    · split
      next e1 =>
        have h2 := memWf_of_eq_fst e1 (State.treatUpset_memWf he)
        split <;> exact h2

theorem State.rdWide_memWf {p a n} (hs : s.memWf = true) : (s.rdWide p a n).2.memWf = true := by
  unfold State.rdWide
  split
  · exact hs
  · exact State.rd_memWf hs

theorem State.wrWide_memWf {p a n v} (hs : s.memWf = true) : (s.wrWide p a n v).memWf = true :=
  State.memWf_ite (State.memWf_foldl hs fun _ _ h3 => State.wrAcc_memWf h3) (State.wr_memWf hs)

theorem Eng.read_memWf {sp a n} (he : e.s.memWf = true) : (e.read sp a n).2.s.memWf = true := by
  unfold Eng.read
  refine foldl_keep (P := fun x : Nat × Nat × Eng => x.2.2.s.memWf = true) he fun _ _ h3 => ?_
  dsimp only
  split
  next e4 =>
    have h5 := eng_memWf_of_eq_snd e4 (Eng.trN_memWf h3)
    exact State.rdWide_memWf (Eng.scan_memWf h5)
  next e6 => exact eng_memWf_of_eq_snd e6 (Eng.trN_memWf h3)

theorem Eng.write_memWf {sp a n v} (he : e.s.memWf = true) : (e.write sp a n v).s.memWf = true := by
  unfold Eng.write
  refine foldl_keep (P := fun x : Nat × Eng => x.2.s.memWf = true) he fun _ _ h3 => ?_
  dsimp only
  split
  next e4 =>
    have h5 := eng_memWf_of_eq_snd e4 (Eng.trN_memWf h3)
    exact State.wrWide_memWf h5
  next e6 => exact eng_memWf_of_eq_snd e6 (Eng.trN_memWf h3)

theorem Eng.probe_memWf {sp acc a n} (he : e.s.memWf = true) : (e.probe sp acc a n).s.memWf = true :=
  foldl_keep (P := fun x : Eng => x.s.memWf = true) he fun _ _ h3 => Eng.trN_memWf h3

theorem Eng.elem_memWf {x k} (he : e.s.memWf = true) : (e.elem x k).2.s.memWf = true := by
  unfold Eng.elem
  dsimp only
  split
  · split
    · split
      next e1 =>
        have h2 := eng_memWf_of_eq_snd e1 (Eng.tr_memWf he)
        exact State.rdCodes_memWf (foldl_keep (P := fun x : Eng => x.s.memWf = true) h2 fun _ _ h5 => Eng.scan_memWf h5)
      next e6 => exact eng_memWf_of_eq_snd e6 (Eng.tr_memWf he)
    · split
      next e8 =>
        have h9 := eng_memWf_of_eq_snd e8 (Eng.tr_memWf he)
        exact State.rdCodes_memWf (foldl_keep (P := fun x : Eng => x.s.memWf = true) h9 fun _ _ h12 => Eng.scan_memWf h12)
      next e13 => exact eng_memWf_of_eq_snd e13 (Eng.tr_memWf he)
  · exact Eng.read_memWf he

theorem Eng.operand_memWf {x r c} (he : e.s.memWf = true) : (e.operand x r c).2.s.memWf = true := by
  unfold Eng.operand
  split
  · exact he
  · split
    next e1 => exact eng_memWf_of_eq_snd e1 (Eng.elem_memWf he)

theorem Eng.operands_memWf {x l} (he : e.s.memWf = true) : (e.operands x l).2.s.memWf = true := by
  unfold Eng.operands
  refine foldl_keep (P := fun x : List (Option MCodes) × Eng => x.2.s.memWf = true) he fun _ _ h3 => ?_
  split
  next e4 => exact eng_memWf_of_eq_snd e4 (Eng.operand_memWf h3)

theorem State.suspendParts_memWf {n cls sub} (hs : s.memWf = true) : (s.suspendParts n cls sub).memWf = true :=
  State.onJoint_memWf (State.memWf_foldl hs fun _ _ h3 => State.onStrand_memWf h3)

theorem State.suspendJoint_memWf {n key st o addr} (hs : s.memWf = true) : (s.suspendJoint n key st o addr).memWf = true :=
  State.suspendOp_memWf (State.suspendParts_memWf hs)

theorem State.readB_memWf {key st b joint n k cols} (hs : s.memWf = true) :
    (s.readB key st b joint n k cols).2.s.memWf = true := by
  unfold State.readB
  dsimp only
  split
  · exact foldl_keep (P := fun x : List (List (Option MCodes)) × Eng => x.2.s.memWf = true) (Eng.start_memWf hs) fun _ _ h3 =>
      Eng.operands_memWf h3
  · split
    · exact Eng.start_memWf hs
    · dsimp only
      split
      · exact State.onJoint_memWf (foldl_keep (P := fun x : List (List (Option MCodes)) × Eng => x.2.s.memWf = true)
          (Eng.start_memWf hs) fun _ _ h6 => Eng.operands_memWf h6)
      · exact foldl_keep (P := fun x : List (List (Option MCodes)) × Eng => x.2.s.memWf = true) (Eng.start_memWf hs) fun _ _
          h9 => Eng.operands_memWf h9

theorem State.runBand_memWf {key st o h} (hs : s.memWf = true) : (s.runBand key st o h).memWf = true := by
  unfold State.runBand
  dsimp only
  split
  · split
    · exact hs
    · split
      · exact State.suspendJoint_memWf (State.readB_memWf hs)
      · exact State.routeOp_memWf (State.suspendParts_memWf (State.readB_memWf hs))
      · have h1 : ∀ {s : State}, s.memWf = true → (Eng.start s key st).s.memWf = true := fun h =>
          Eng.start_memWf h
        split
        · refine State.suspendOp_memWf (foldl_keep (P := fun x : List (List (Option MCodes)) × Eng => x.2.s.memWf = true) ?_ ?_)
          · exact h1 (State.readB_memWf hs)
          · exact fun _ _ h2 => Eng.operands_memWf h2
        · refine State.routeOp_memWf (foldl_keep (P := fun x : List (List (Option MCodes)) × Eng => x.2.s.memWf = true) ?_ ?_)
          · exact h1 (State.readB_memWf hs)
          · exact fun _ _ h2 => Eng.operands_memWf h2
        · refine State.onStrand_memWf (foldl_keep (P := fun x : List (List (Option MCodes)) × Eng => x.2.s.memWf = true) ?_ ?_)
          · exact h1 (State.readB_memWf hs)
          · exact fun _ _ h2 => Eng.operands_memWf h2
  · exact hs

theorem State.recount_memWf {m} (hs : s.memWf = true) : (s.recount m).memWf = true := by
  unfold State.recount
  split
  · exact State.onStrand_memWf hs
  · exact hs

theorem Eng.loadTile_memWf {ty x rows cols t} (he : e.s.memWf = true) : (e.loadTile ty x rows cols t).2.2.s.memWf = true :=
  foldl_keep (P := fun x : Tile × Half × Eng => x.2.2.s.memWf = true) he fun _ _ h1 => Eng.read_memWf h1

theorem Eng.storeTile_memWf {ty x rows cols row0 col0 rnd sat seed t} (he : e.s.memWf = true) :
    (e.storeTile ty x rows cols row0 col0 rnd sat seed t).2.s.memWf = true := by
  unfold Eng.storeTile
  dsimp only
  split
  · exact foldl_keep (P := fun x : Eng => x.s.memWf = true) he fun _ _ h3 => Eng.probe_memWf h3
  · exact foldl_keep (P := fun x : Half × Eng => x.2.s.memWf = true)
      (foldl_keep (P := fun x : Eng => x.s.memWf = true) he fun _ _ h6 => Eng.probe_memWf h6) fun _ _ h9 => Eng.write_memWf h9

theorem State.arriveAt_memWf {p pa n fl} (hs : s.memWf = true) : (s.arriveAt p pa n fl).memWf = true :=
  State.memWf_ite (State.syncAt_memWf hs) (State.syncAt_memWf (State.syncAt_memWf hs))

theorem State.arriveOp_memWf {key st o sub r n fl} (hs : s.memWf = true) : (s.arriveOp key st o sub r n fl).memWf = true := by
  unfold State.arriveOp
  split
  · exact State.finishOp_memWf hs
  · split
    next e1 =>
      have h2 := memWf_of_eq_snd e1 (State.syncPlace_memWf hs)
      exact State.finishOp_memWf (State.arriveAt_memWf h2)
    next e3 =>
      have h4 := memWf_of_eq_snd e3 (State.syncPlace_memWf hs)
      exact State.suspendOp_memWf (State.onStrand_memWf h4)

theorem State.endTile_memWf {key o h t rows fl clear} (hs : s.memWf = true) :
    (s.endTile key o h t rows fl clear).memWf = true := hs

theorem State.sendTile_memWf {key st o t handle i0 j0 rows cols e0 stride level index} (hs : s.memWf = true) :
    (s.sendTile key st o t handle i0 j0 rows cols e0 stride level index).memWf = true := by
  unfold State.sendTile
  dsimp only
  split
  · exact State.routeOp_memWf hs
  · exact State.contribute_memWf (State.onStrand_memWf (State.unqueue_memWf hs))

theorem State.runMx_memWf {key st o h t} (hs : s.memWf = true) : (s.runMx key st o h t).memWf = true := by
  unfold State.runMx
  dsimp only
  split
  · split
    · exact State.finishOp_memWf (State.unqueue_memWf hs)
    · exact State.arriveOp_memWf (State.unqueue_memWf (State.endTile_memWf hs))
    · refine State.memWf_ite (State.arriveOp_memWf (State.unqueue_memWf
        (State.endTile_memWf (Eng.loadTile_memWf (Eng.start_memWf hs))))) ?_
      split
      · exact State.suspendOp_memWf (Eng.loadTile_memWf (Eng.start_memWf hs))
      · exact State.routeOp_memWf (Eng.loadTile_memWf (Eng.start_memWf hs))
      · exact Eng.loadTile_memWf (Eng.start_memWf hs)
    · exact State.arriveOp_memWf (State.unqueue_memWf (State.endTile_memWf hs))
    · refine State.memWf_ite (State.arriveOp_memWf (State.unqueue_memWf
        (State.endTile_memWf (Eng.storeTile_memWf (Eng.start_memWf hs))))) ?_
      split
      · exact State.suspendOp_memWf (Eng.storeTile_memWf (Eng.start_memWf hs))
      · exact State.routeOp_memWf (Eng.storeTile_memWf (Eng.start_memWf hs))
      · exact Eng.storeTile_memWf (Eng.start_memWf hs)
    · exact State.sendTile_memWf hs
    · exact hs
  · exact hs

theorem State.endMma_memWf {key st o h k} (hs : s.memWf = true) : (s.endMma key st o h k).memWf = true := by
  unfold State.endMma
  split
  · split
    · exact State.unqueue_memWf (State.endTile_memWf hs)
  · exact hs

theorem Eng.copySectors_memWf {ds ss} {l : List (Nat × Nat × Nat)} (he : e.s.memWf = true) :
    (e.copySectors ds ss l).2.s.memWf = true := by
  induction l generalizing e with
  | nil => exact he
  | cons x t ih =>
    unfold Eng.copySectors
    dsimp only
    split
    · exact Eng.probe_memWf (Eng.read_memWf he)
    · exact ih (Eng.write_memWf (Eng.probe_memWf (Eng.read_memWf he)))

theorem Eng.probeSectors_memWf {ds ss l} (he : e.s.memWf = true) : (e.probeSectors ds ss l).s.memWf = true :=
  foldl_keep (P := fun x : Eng => x.s.memWf = true) he fun _ _ h3 => Eng.probe_memWf (Eng.probe_memWf h3)

theorem State.runCopy_memWf {key st o total} {fuel : Nat} {c : CopyOp} (hs : s.memWf = true) :
    (s.runCopy key st o total fuel c).memWf = true := by
  induction fuel generalizing s c with
  | zero => exact hs
  | succ fuel ih =>
    unfold State.runCopy
    refine State.memWf_ite (State.arriveOp_memWf (State.onStrand_memWf hs)) ?_
    have h1 := Eng.copySectors_memWf (ds := c.dstSpace) (ss := c.srcSpace) (l := c.window)
      (Eng.start_memWf (key := key) (st := st) hs)
    dsimp only
    split
    · exact State.suspendOp_memWf (State.onStrand_memWf (Eng.probeSectors_memWf h1))
    · exact State.routeOp_memWf (State.onStrand_memWf h1)
    · exact ih h1

theorem Eng.readSectors_memWf {sp} {l : List (Nat × Nat × Nat)} (he : e.s.memWf = true) :
    (e.readSectors sp l).2.s.memWf = true := by
  induction l generalizing e with
  | nil => exact he
  | cons x t ih =>
    unfold Eng.readSectors
    dsimp only
    split
    · exact Eng.read_memWf he
    · exact ih (Eng.read_memWf he)

theorem State.castSectors_memWf {c base l} (hs : s.memWf = true) : (s.castSectors c base l).memWf = true :=
  State.memWf_foldl hs fun _ _ h3 => State.wr_memWf h3

theorem State.serve_memWf {key st o c core} (hs : s.memWf = true) : (s.serve key st o c core).memWf = true := by
  unfold State.serve
  dsimp only
  split
  · exact hs
  · refine State.memWf_ite ?_ ?_
    · refine State.memWf_ite ?_ ?_
      · refine State.finishOp_memWf ?_
        refine State.onStrand_memWf ?_
        split
        · exact State.arriveAt_memWf (State.castSectors_memWf (Eng.readSectors_memWf (Eng.start_memWf hs)))
        · exact State.castSectors_memWf (Eng.readSectors_memWf (Eng.start_memWf hs))
      · refine State.onStrand_memWf ?_
        split
        · exact State.arriveAt_memWf (State.castSectors_memWf (Eng.readSectors_memWf (Eng.start_memWf hs)))
        · exact State.castSectors_memWf (Eng.readSectors_memWf (Eng.start_memWf hs))
    · split
      · refine State.suspendOp_memWf ?_
        refine State.onStrand_memWf ?_
        refine State.memWf_foldl ?_ fun _ _ h6 => State.castSectors_memWf h6
        split
        · exact Eng.readSectors_memWf (Eng.start_memWf hs)
        · exact foldl_keep (P := fun x : Eng => x.s.memWf = true) (Eng.readSectors_memWf (Eng.start_memWf hs)) fun _ _ h3 =>
            Eng.probe_memWf h3
      · refine State.routeOp_memWf ?_
        refine State.onStrand_memWf ?_
        refine State.memWf_foldl ?_ fun _ _ h12 => State.castSectors_memWf h12
        split
        · exact Eng.readSectors_memWf (Eng.start_memWf hs)
        · exact foldl_keep (P := fun x : Eng => x.s.memWf = true) (Eng.readSectors_memWf (Eng.start_memWf hs)) fun _ _ h9 =>
            Eng.probe_memWf h9
      · refine State.onStrand_memWf ?_
        refine State.memWf_foldl ?_ fun _ _ h18 => State.castSectors_memWf h18
        split
        · exact Eng.readSectors_memWf (Eng.start_memWf hs)
        · exact foldl_keep (P := fun x : Eng => x.s.memWf = true) (Eng.readSectors_memWf (Eng.start_memWf hs)) fun _ _ h15 =>
            Eng.probe_memWf h15

theorem State.routeSwap_memWf {x cls sub outcome addr} (hs : s.memWf = true) :
    (s.routeSwap x cls sub outcome addr).memWf = true := by
  unfold State.routeSwap
  dsimp only
  split <;> exact State.route_memWf hs

theorem State.swapLoss_memWf {x p a} (hs : s.memWf = true) : (s.swapLoss x p a).memWf = true := by
  unfold State.swapLoss
  refine State.memWf_foldl hs fun _ _ h3 => ?_
  split
  next e4 =>
    have h5 := memWf_of_eq_fst e4 (State.treatUpset_memWf h3)
    exact State.memWf_ite h5 (State.routeSwap_memWf (State.store_memWf h5))

theorem State.putSector_memWf {p a l} (hs : s.memWf = true) : (s.putSector p a l).memWf = true :=
  State.wrote_memWf (State.setCells_memWf hs (Memory.wf_writeBytes _ _ _ (State.cells_wf hs p)))

theorem State.exchange_memWf {x} (hs : s.memWf = true) : (s.exchange x).memWf = true := by
  unfold State.exchange
  dsimp only
  split
  · exact State.farWrite_memWf (State.putSector_memWf (State.farRead_memWf (State.swapLoss_memWf hs)))
  · exact State.putSector_memWf (State.putSector_memWf (State.swapLoss_memWf hs))

theorem State.swapDone_memWf {x} (hs : s.memWf = true) : (s.swapDone x).memWf = true := by
  unfold State.swapDone
  split
  · exact State.arriveOp_memWf hs
  · split
    · exact State.vsync_memWf hs
    · exact State.arriveAt_memWf hs
    · exact hs

theorem State.moveAccs_memWf {f : Place → Nat → Place × Nat} (hs : s.memWf = true) : (s.moveAccs f).memWf = true :=
  State.memWf_foldl hs fun _ _ h3 => State.onStrand_memWf h3

theorem State.freeEntries_memWf {die x} {near : DWord → DWord} {far : DWord → DWord} (hs : s.memWf = true) :
    (s.freeEntries die x near far).memWf = true := by
  unfold State.freeEntries
  extract_lets +onlyGivenNames x1 s2 n s3
  have h4 : ∀ (s : State), s.memWf = true → ∀ (x : Nat) (f : DWord → DWord), (x1 s x f).memWf = true := fun _ h6 _ _ =>
    State.wrote_memWf (State.store_memWf h6)
  have h9 : s2.memWf = true := State.wrote_memWf (State.store_memWf (State.wrote_memWf (State.store_memWf hs)))
  have h10 : s3.memWf = true := State.tlbInv_memWf (State.tlbInv_memWf h9)
  exact State.onDie_memWf h10

theorem State.endSwap_memWf {die x} (hs : s.memWf = true) : (s.endSwap die x).memWf = true :=
  State.swapDone_memWf (State.freeEntries_memWf (State.moveAccs_memWf hs))

theorem State.breakSwap_memWf {die x} (hs : s.memWf = true) : (s.breakSwap die x).memWf = true :=
  State.swapDone_memWf (State.routeSwap_memWf (State.freeEntries_memWf hs))

end

end Sys2Proof.Machine
end

section
/-! PROOFS. Every function of the model keeps the canonical form of memory (R3): the engines' events, reductions, the fabric
as receiver and the Ultra Ethernet endpoint. -/

namespace Sys2Proof.Machine

open Sys2Proof

section
variable {s : State} {c : Ic} {e : Eng}

/-! ## Events of the matrix, copy and swap engines -/

theorem execJointOperationStart_memWf {cluster entry} (hs : s.memWf = true) :
    nextWf (execJointOperationStart cluster entry s) := by
  unfold execJointOperationStart
  refine event_memWf hs fun _ h2 => ?_
  dsimp only
  split
  · exact h2
  · split
    · exact h2
    · refine State.memWf_ite h2 ?_
      split
      · exact State.memWf_foldl (State.memWf_foldl (State.memWf_foldl (State.memWf_same h2) fun _ _ h5 => State.onStrand_memWf
          h5) fun _ _ h8 => State.onCore_memWf h8) fun _ _ h11 => State.recount_memWf h11
      · split
        · exact State.routeOp_memWf (State.memWf_foldl (State.memWf_foldl
            (State.memWf_foldl (State.memWf_same h2) fun _ _ h14 => State.onStrand_memWf h14) fun _ _ h17 =>
            State.onStrand_memWf h17) fun _ _ h20 => State.recount_memWf h20)
        · exact State.memWf_foldl (State.memWf_foldl (State.memWf_foldl (State.memWf_same h2) fun _ _ h23 =>
            State.onStrand_memWf h23) fun _ _ h26 => State.onStrand_memWf h26) fun _ _ h29 => State.recount_memWf h29

theorem execJointOperationComplete_memWf {joint} (hs : s.memWf = true) : nextWf (execJointOperationComplete joint s) := by
  unfold execJointOperationComplete
  refine event_memWf hs fun _ h2 => ?_
  dsimp only
  split
  · exact h2
  · refine State.memWf_ite h2 ?_
    refine State.farFor_memWf (State.memWf_foldl h2 fun _ _ h5 => State.memWf_ite h5 (State.endMma_memWf h5)) fun _ h7 => ?_
    refine State.memWf_foldl (State.memWf_same h7) fun _ _ h10 => ?_
    split
    · exact State.arriveOp_memWf (State.onStrand_memWf h10)
    · exact State.onStrand_memWf h10

theorem execBandComplete_memWf {strand op} (hs : s.memWf = true) : nextWf (execBandComplete strand op s) := by
  unfold execBandComplete
  refine event_memWf hs fun _ h2 => ?_
  split
  · exact h2
  · split
    · exact h2
    · refine State.memWf_ite h2 ?_
      split
      next e3 =>
        have h4 := memWf_of_eq_fst e3 (State.engCheck_memWf h2)
        refine State.memWf_ite h4 ?_
        split
        next e5 =>
          have h6 := memWf_of_eq_fst e5 (State.accCheck_memWf h4)
          exact State.memWf_ite h6 (State.farFor_memWf h6 fun _ h8 => State.runBand_memWf h8)

theorem execMxOperationComplete_memWf {strand op} (hs : s.memWf = true) : nextWf (execMxOperationComplete strand op s) := by
  unfold execMxOperationComplete
  refine event_memWf hs fun _ h2 => ?_
  dsimp only
  split
  · exact h2
  · split
    · refine State.farFor_memWf h2 fun _ h4 => ?_
      refine State.memWf_ite (State.arriveOp_memWf h4) ?_
      refine State.memWf_ite h4 ?_
      split
      · refine State.memWf_ite h4 ?_
        split
        · exact State.arriveOp_memWf (State.endMma_memWf h4)
        · exact State.endMma_memWf h4
      · refine State.memWf_ite ?_ ?_
        · split
          · exact h4
          · exact h4
          · exact h4
          · exact State.accCheck_memWf h4
        · split
          · refine State.runMx_memWf ?_
            split
            · exact h4
            · exact h4
            · exact h4
            · exact State.accCheck_memWf h4
          · refine State.runMx_memWf ?_
            split
            · exact h4
            · exact h4
            · exact h4
            · exact State.accCheck_memWf h4
    · exact h2

theorem execCopyComplete_memWf {strand op} (hs : s.memWf = true) : nextWf (execCopyComplete strand op s) := by
  unfold execCopyComplete
  refine event_memWf hs fun _ h2 => ?_
  dsimp only
  split
  · exact h2
  · split
    · exact State.memWf_ite h2 (State.memWf_ite (State.engCheck_memWf h2)
        (State.farFor_memWf (State.engCheck_memWf h2) fun _ h4 => State.runCopy_memWf h4))
    · exact State.memWf_ite (State.farFor_memWf h2 fun _ h6 => State.arriveOp_memWf h6) h2
    · exact h2

theorem execCpymReceiverArrival_memWf {strand op core} (hs : s.memWf = true) :
    nextWf (execCpymReceiverArrival strand op core s) := by
  unfold execCpymReceiverArrival
  refine event_memWf hs fun _ h2 => ?_
  split
  · exact h2
  · split
    · refine State.memWf_ite h2 ?_
      split
      next e3 =>
        have h4 := memWf_of_eq_fst e3 (State.engCheck_memWf h2)
        exact State.memWf_ite (State.farFor_memWf h4 fun _ h6 => State.serve_memWf h6) h4
    · exact h2

theorem execSwapSector_memWf {die} (hs : s.memWf = true) : nextWf (execSwapSector die s) := by
  unfold execSwapSector
  refine event_memWf hs fun _ h2 => ?_
  dsimp only
  split
  · exact h2
  · exact State.memWf_ite (State.breakSwap_memWf h2) (State.farDo_memWf h2 fun _ h4 => State.memWf_ite
      (State.onDie_memWf (State.memWf_ite (State.exchange_memWf h4) h4))
      (State.endSwap_memWf (State.memWf_ite (State.exchange_memWf h4) h4)))

/-! ## The far side of a reduction -/

theorem State.sendNode_memWf {d n home} (hs : s.memWf = true) : (s.sendNode d n home).memWf = true := State.sendOn_memWf hs

theorem State.sendUet_memWf {d m b} (hs : s.memWf = true) : (s.sendUet d m b).memWf = true := hs

theorem State.sendRootPod_memWf {d e v fl} (hs : s.memWf = true) : (s.sendRootPod d e v fl).memWf = true :=
  State.memWf_foldl hs fun _ _ h3 => State.memWf_ite h3 (State.send_memWf h3)

theorem State.sendRoot_memWf {d e v fl} (hs : s.memWf = true) : (s.sendRoot d e v fl).memWf = true := by
  unfold State.sendRoot
  refine State.memWf_ite (State.sendRootPod_memWf hs) ?_
  refine State.memWf_foldl hs fun _ _ h3 => ?_
  split
  · exact State.memWf_ite (State.sendRootPod_memWf h3) (State.sendUet_memWf h3)
  · exact h3

theorem State.onSlice_memWf {i} {f : Slice → Slice} (hs : s.memWf = true) : (s.onSlice i f).memWf = true := hs

theorem State.countSlice_memWf {i k} (hs : s.memWf = true) : (s.countSlice i k).memWf = true := hs

theorem State.completeDom_memWf {d} (hs : s.memWf = true) : (s.completeDom d).memWf = true := by
  unfold State.completeDom
  extract_lets +onlyGivenNames s1 s2 s3 s4 s5 s6 s7 s8
  have h9 : s1.memWf = true := State.checkFrozen_memWf (State.domEnds_memWf hs)
  have h10 : s2.memWf = true := State.memWf_same h9
  have h11 : s3.memWf = true := State.memWf_same h10
  have h12 : s4.memWf = true := State.clearSpill_memWf h11
  have h13 : s5.memWf = true := State.vwrite_memWf h12
  have h14 : s6.memWf = true := State.setDomGenState_memWf h13
  have h15 : s7.memWf = true := State.memWf_ite h14 (State.vsync_memWf h14)
  have h16 : s8.memWf = true := State.memWf_ite h15 (State.vsync_memWf h15)
  exact State.setDom_memWf h16

theorem State.markWritten_memWf {d e fl} (hs : s.memWf = true) : (s.markWritten d e fl).memWf = true :=
  State.memWf_ite (State.completeDom_memWf (State.setDom_memWf hs)) (State.setDom_memWf hs)

theorem State.noteOverlap_memWf {d sl e label} (hs : s.memWf = true) : (s.noteOverlap d sl e label).memWf = true :=
  State.memWf_ite (State.postRec_memWf hs) (State.memWf_ite (State.markWritten_memWf hs) (State.setDom_memWf hs))

theorem State.finalWrite_memWf {d e root fl} (hs : s.memWf = true) : (s.finalWrite d e root fl).memWf = true := by
  unfold State.finalWrite
  dsimp only
  refine State.markWritten_memWf ?_
  split
  · exact State.vwrite_memWf (State.memWf_ite (State.seen_memWf hs) hs)
  · exact State.memWf_ite (State.seen_memWf hs) hs

theorem State.clearSlot_memWf {d sl a} (hs : s.memWf = true) : (s.clearSlot d sl a).memWf = true :=
  State.setDom_memWf (State.vwrite_memWf hs)

theorem State.putSlot_memWf {d sl a n} (hs : s.memWf = true) : (s.putSlot d sl a n).memWf = true :=
  State.setDom_memWf (State.vwrite_memWf (State.vwrite_memWf (State.vwrite_memWf (State.vwrite_memWf hs))))

theorem State.refuseNode_memWf {n} (hs : s.memWf = true) : (s.refuseNode n).memWf = true := by
  unfold State.refuseNode
  split
  · exact State.memWf_ite hs (State.route_memWf (State.onStrand_memWf hs))
  · exact hs

theorem State.sliceDup_memWf {sl d n} (hs : s.memWf = true) : (s.sliceDup sl d n).1.memWf = true := by
  unfold State.sliceDup
  split
  · exact State.stick_memWf hs
  · exact State.credit_memWf (State.noteOverlap_memWf hs)

theorem State.slicePlace_memWf {sl d n} (hs : s.memWf = true) : (s.slicePlace sl d n).1.memWf = true := by
  unfold State.slicePlace
  dsimp only
  split
  · exact State.credit_memWf (State.countSlice_memWf (State.onSlice_memWf hs))
  · split
    · exact State.credit_memWf (State.sendNode_memWf hs)
    · split
      · exact hs
      · split
        · exact State.stick_memWf hs
        · exact State.credit_memWf (State.countSlice_memWf (State.putSlot_memWf hs))

theorem State.sliceGo_memWf {sl} {fuel : Nat} {n : Node} (hs : s.memWf = true) : (s.sliceGo sl fuel n).1.memWf = true := by
  induction fuel generalizing s n with
  | zero => exact hs
  | succ fuel ih =>
    unfold State.sliceGo
    split
    · exact State.refuseNode_memWf hs
    · refine memWf_fst_ite (State.sliceDup_memWf hs) (memWf_fst_ite ?_ (memWf_fst_ite (ih hs) ?_))
      · split
        · exact State.stick_memWf hs
        · refine State.memWf_ite ?_ (State.sendRoot_memWf ?_)
          · exact State.credit_memWf (State.finalWrite_memWf hs)
          · exact State.credit_memWf (State.finalWrite_memWf hs)
      · refine memWf_fst_ite (State.credit_memWf hs) (memWf_fst_ite (State.sliceDup_memWf hs)
          (memWf_fst_ite (State.sliceDup_memWf hs) ?_))
        dsimp only
        split
        · exact ih (State.credit_memWf (State.countSlice_memWf (State.onSlice_memWf (State.setDom_memWf hs))))
        · split
          · split
            · exact State.stick_memWf (State.setDom_memWf hs)
            · exact ih (State.credit_memWf (State.countSlice_memWf (State.clearSlot_memWf (State.setDom_memWf hs))))
          · exact State.slicePlace_memWf (State.setDom_memWf hs)

theorem State.endEpisode_memWf {sl h part} (hs : s.memWf = true) : (s.endEpisode sl h part).memWf = true := by
  unfold State.endEpisode
  split
  · exact hs
  · split
    · exact hs
    · exact State.memWf_ite hs (State.postRec_memWf (State.setDom_memWf hs))

theorem State.holdBack_memWf {sl n} (hs : s.memWf = true) : (s.holdBack sl n).memWf = true := by
  unfold State.holdBack
  split
  · exact hs
  · refine State.memWf_ite hs ?_
    split
    · exact State.setDom_memWf hs

theorem State.arriveSlice_memWf {idx} (hs : s.memWf = true) : (s.arriveSlice idx).memWf = true := by
  unfold State.arriveSlice
  dsimp only
  split
  · exact hs
  · refine State.memWf_ite hs ?_
    split
    next e1 =>
      have h2 := memWf_of_eq_fst e1 (State.sliceGo_memWf (State.memWf_same hs))
      exact State.endEpisode_memWf h2
    next e3 =>
      have h4 := memWf_of_eq_fst e3 (State.sliceGo_memWf (State.memWf_same hs))
      exact State.memWf_same (State.holdBack_memWf h4)

theorem State.claspHit_memWf {c n} (hs : s.memWf = true) : (s.claspHit c n).memWf = true := by
  unfold State.claspHit
  refine State.memWf_ite (State.postRec_memWf hs) ?_
  extract_lets s1
  have h1 : s1.memWf = true := by
    unfold s1
    split
    · exact State.closeDom_memWf hs
    · exact hs
  exact State.memWf_ite h1 (State.postRec_memWf h1)

theorem State.claspCheck_memWf {sl} (hs : s.memWf = true) : (s.claspCheck sl).memWf = true := by
  unfold State.claspCheck
  dsimp only
  split
  · exact hs
  · split
    · exact State.memWf_same hs
    · exact State.memWf_ite (State.claspHit_memWf (State.memWf_same hs))
        (State.onSlice_memWf (State.claspHit_memWf (State.memWf_same hs)))

theorem State.coreClaspCheck_memWf {core} (hs : s.memWf = true) : (s.coreClaspCheck core).memWf = true := by
  unfold State.coreClaspCheck
  dsimp only
  split
  · exact hs
  · split
    · exact State.memWf_same hs
    · exact State.memWf_ite (State.claspHit_memWf (State.memWf_same hs))
        (State.onCore_memWf (State.claspHit_memWf (State.memWf_same hs)))

theorem State.refill_memWf {sl d} (hs : s.memWf = true) : (s.refill sl d).memWf = true := by
  unfold State.refill
  refine State.memWf_ite hs ?_
  split
  · exact hs
  · split
    · exact State.stick_memWf hs
    · split
      next e1 => exact memWf_of_eq_fst e1 (State.sliceGo_memWf (State.countSlice_memWf (State.clearSlot_memWf hs)))
      next e3 =>
        have h4 := memWf_of_eq_fst e3 (State.sliceGo_memWf (State.countSlice_memWf (State.clearSlot_memWf hs)))
        exact State.memWf_same h4

theorem State.planeLost_memWf {dev plane} (hs : s.memWf = true) : (s.planeLost dev plane).memWf = true := by
  unfold State.planeLost
  refine State.memWf_foldl hs fun _ _ h3 => ?_
  refine State.memWf_ite h3 ?_
  refine State.memWf_ite ?_ h3
  split
  · exact State.closeDom_memWf h3
  · exact h3

theorem State.staleRec_memWf {part h e label} (hs : s.memWf = true) : (s.staleRec part h e label).memWf = true := hs

theorem State.takeRoot_memWf {d e v fl} (hs : s.memWf = true) : (s.takeRoot d e v fl).memWf = true :=
  State.memWf_ite hs (State.finalWrite_memWf hs)

/-! ## The fabric endpoint as receiver -/

theorem State.postAll_memWf {r} (hs : s.memWf = true) : (s.postAll r).memWf = true :=
  State.memWf_foldl hs fun _ _ h3 => State.postRec_memWf h3

theorem State.framed_memWf {p} {f : State → State} (hs : s.memWf = true)
    (hf : ∀ (t : State), t.memWf = true → (f t).memWf = true) :
    (s.framed p f).memWf = true := State.memWf_ite (hf _ hs) (State.memWf_ite (State.onPort_memWf hs) hs)

theorem State.sendAck_memWf {p kind} (hs : s.memWf = true) : (s.sendAck p kind).memWf = true := State.emit_memWf hs

theorem State.farAnswer_memWf {w l} (hs : s.memWf = true) : (s.farAnswer w l).memWf = true := hs

theorem State.settle_memWf {key o r} (hs : s.memWf = true) : (s.settle key o r).memWf = true := by
  unfold State.settle
  refine State.memWf_ite (State.onStrand_memWf hs) ?_
  split
  · exact State.memWf_ite (State.onQuarter_memWf (State.onStrand_memWf hs)) (State.landLoad_memWf (State.onStrand_memWf hs))
  · exact State.memWf_ite (State.onQuarter_memWf (State.onStrand_memWf hs)) (State.landLoad_memWf (State.onStrand_memWf hs))
  · exact State.onStrand_memWf hs
  · exact State.onStrand_memWf hs
  · exact State.finishOp_memWf (State.onStrand_memWf hs)

theorem State.ackedPkt_memWf {p} (hs : s.memWf = true) : (s.ackedPkt p).memWf = true := by
  unfold State.ackedPkt
  refine State.memWf_ite ?_ (State.onFab_memWf hs)
  split
  · exact State.settle_memWf (State.onFab_memWf hs)
  · split
    · exact State.farAnswer_memWf (State.onFab_memWf hs)
    · exact State.onFab_memWf hs

theorem State.takeAck_memWf {flow plane ack} (hs : s.memWf = true) : (s.takeAck flow plane ack).memWf = true :=
  State.memWf_foldl (State.memWf_ite hs (State.onFlow_memWf hs)) fun _ _ h3 => State.ackedPkt_memWf h3

theorem State.dropUnacked_memWf {flow plane seq} (hs : s.memWf = true) : (s.dropUnacked flow plane seq).memWf = true := hs

theorem State.failRemote_memWf {key o r sub addr} (hs : s.memWf = true) : (s.failRemote key o r sub addr).memWf = true := by
  unfold State.failRemote
  dsimp only
  split
  · exact hs
  · exact State.route_memWf (State.onStrand_memWf hs)

theorem State.farFree_memWf {w} (hs : s.memWf = true) : (s.farFree w).memWf = true := by
  unfold State.farFree
  split
  · exact State.farAnswer_memWf (State.memWf_same hs)
  · exact State.farAnswer_memWf hs

theorem State.failFar_memWf {w sub addr} (hs : s.memWf = true) : (s.failFar w sub addr).memWf = true := by
  unfold State.failFar
  dsimp only
  split
  · split
    · exact State.memWf_ite (State.memWf_same hs) (State.route_memWf (State.onStrand_memWf (State.memWf_same hs)))
    · exact State.memWf_same hs
  · split
    · exact State.parkRouted_memWf (State.memWf_same hs)
    · exact State.memWf_same hs
  · split
    · exact State.parkRouted_memWf (State.memWf_same hs)
    · exact State.memWf_same hs
  · split
    · exact State.breakSwap_memWf (State.memWf_same hs)
    · exact State.memWf_same hs
  · exact State.farFree_memWf hs

theorem State.failNode_memWf {p sub addr} (hs : s.memWf = true) : (s.failNode p sub addr).memWf = true := by
  unfold State.failNode
  split
  · exact State.route_memWf hs
  · exact hs

theorem State.failPeer_memWf {dev incarn} (hs : s.memWf = true) : (s.failPeer dev incarn).memWf = true := by
  unfold State.failPeer
  extract_lets +onlyGivenNames addr s1 s2 s3 s4
  have h5 : s1.memWf = true := by
    unfold s1
    refine State.memWf_foldl hs fun _ _ h8 => ?_
    refine State.memWf_foldl h8 fun _ _ h11 => ?_
    refine State.memWf_ite h11 ?_
    split
    · exact State.memWf_ite (State.failRemote_memWf h11) h11
    · exact h11
  have h12 : s2.memWf = true := State.memWf_foldl h5 fun _ _ h15 => State.memWf_ite (State.failFar_memWf h15) h15
  have h16 : s3.memWf = true := State.memWf_foldl h12 fun _ _ h19 => State.failNode_memWf h19
  have h20 : s4.memWf = true := by
    unfold s4
    refine State.memWf_foldl h16 fun _ _ h23 => ?_
    split
    · split
      · exact State.memWf_ite (State.breakSwap_memWf h23) h23
      · exact h23
    · exact h23
  exact State.onFab_memWf h20

theorem State.dropStale_memWf {p part detail} (hs : s.memWf = true) : (s.dropStale p part detail).memWf = true := by
  unfold State.dropStale
  refine State.memWf_ite ?_ (State.onPeer_memWf (State.onPort_memWf (State.sendAck_memWf hs)))
  extract_lets +onlyGivenNames r s1
  have h2 : s1.memWf = true := State.onPeer_memWf (State.onPort_memWf (State.sendAck_memWf hs))
  split
  · exact State.postRec_memWf h2
  · exact State.postAll_memWf h2

theorem State.takeNext_memWf {act : PktAct} {p} (hs : s.memWf = true)
    (hact : ∀ (x : Pkt) (t : State), t.memWf = true → ∀ (x_2 : Nat), (act x t x_2).1.memWf = true) :
    (s.takeNext act p).1.memWf = true := by
  unfold State.takeNext
  split
  · exact hs
  · split
    · exact hact _ _ hs _
    · split
      · exact hact _ _ hs _
      · exact State.dropStale_memWf hs

theorem State.drainFlow_memWf {k plane} {take : State → Pkt → State × Bool} {n : Nat}
    (htake : ∀ (a : State), a.memWf = true → ∀ (p : Pkt), (take a p).1.memWf = true) (hs : s.memWf = true) :
    (State.drainFlow k plane take n s).memWf = true := by
  induction n generalizing s with
  | zero => exact hs
  | succ n ih =>
    unfold State.drainFlow
    split
    · exact hs
    · split
      next e1 => exact memWf_of_eq_fst e1 (htake s hs _)
      next e1 => exact ih (State.onFlow_memWf (memWf_of_eq_fst e1 (htake s hs _)))

theorem State.takeInTurn_memWf {k p} {take : State → Pkt → State × Bool} (hs : s.memWf = true)
    (htake : ∀ (t : State), t.memWf = true → ∀ (x : Pkt), (take t x).1.memWf = true) :
    (s.takeInTurn k p take).memWf = true := by
  unfold State.takeInTurn
  split
  next e1 => exact memWf_of_eq_fst e1 (htake _ hs _)
  next e3 =>
    have h4 := memWf_of_eq_fst e3 (htake _ hs _)
    exact State.drainFlow_memWf htake (State.onFlow_memWf h4)

theorem State.keepAhead_memWf {k p} (hs : s.memWf = true) : (s.keepAhead k p).memWf = true :=
  State.memWf_ite hs (State.onFlow_memWf hs)

theorem State.recv_memWf {act : PktAct} {p} (hs : s.memWf = true)
    (hact : ∀ (x : Pkt) (t : State), t.memWf = true → ∀ (x_2 : Nat), (act x t x_2).1.memWf = true) :
    (s.recv act p).memWf = true := by
  unfold State.recv
  refine State.framed_memWf hs fun _ h2 => ?_
  refine State.memWf_ite h2 ?_
  refine State.memWf_ite h2 ?_
  extract_lets +onlyGivenNames s3 bound s4
  have h5 : s3.memWf = true := State.tracePkt_memWf (State.onPort_memWf h2)
  have h6 : s4.memWf = true := State.memWf_ite (State.dropStale_memWf h5) (State.memWf_ite h5 (State.takeAck_memWf h5))
  exact State.memWf_ite (State.memWf_ite h6 (State.memWf_ite (State.dropStale_memWf h6) (State.sendAck_memWf h6)))
    (State.memWf_ite (State.takeInTurn_memWf h6 fun _ h8 _ => State.takeNext_memWf h8 hact) (State.keepAhead_memWf h6))

theorem State.peerReads_memWf {part p a n} (hs : s.memWf = true) : (s.peerReads part p a n).memWf = true := by
  unfold State.peerReads
  split
  · exact State.memWf_foldl hs fun _ _ h3 => State.lossAlone_memWf h3

theorem State.remoteAt_memWf {p part n acc reads} {f : State → Place → Nat → State} (hs : s.memWf = true)
    (hf : ∀ (t : State), t.memWf = true → ∀ (x : Place) (x_1 : Nat), (f t x x_1).memWf = true) :
    (s.remoteAt p part n acc reads f).memWf = true := by
  unfold State.remoteAt
  refine State.memWf_ite (State.sendAck_memWf (hf _ hs _ _)) ?_
  refine State.memWf_ite (State.sendAck_memWf hs) ?_
  dsimp only
  split
  · exact State.sendAck_memWf hs
  · split
    · exact State.sendAck_memWf (hf _ (State.memWf_ite (State.peerReads_memWf (State.touch_memWf hs)) (State.touch_memWf hs)) _
        _)
    · exact State.sendAck_memWf hs

theorem State.respond_memWf {p opc data} (hs : s.memWf = true) : (s.respond p opc data).memWf = true := State.send_memWf hs

theorem State.takeResponse_memWf {p} (hs : s.memWf = true) : (s.takeResponse p).memWf = true := by
  unfold State.takeResponse
  dsimp only
  split
  · split
    · exact State.farAnswer_memWf hs
    · exact hs
  · exact State.settle_memWf hs

theorem State.refuseFar_memWf {p w faults} (hs : s.memWf = true) : (s.refuseFar p w faults).memWf = true := by
  unfold State.refuseFar
  extract_lets +onlyGivenNames s1 s2
  have h3 : s1.memWf = true := State.dropUnacked_memWf hs
  dsimp only
  split
  · split
    · exact State.memWf_ite (State.onStrand_memWf (State.memWf_same h3))
        (State.postGroup_memWf (State.onStrand_memWf (State.memWf_same h3)))
    · exact State.memWf_same h3
  · split
    · exact State.onStrand_memWf (State.parkFail_memWf (State.memWf_same h3))
    · exact State.memWf_same h3
  · split
    · exact State.onStrand_memWf (State.parkFail_memWf (State.memWf_same h3))
    · exact State.memWf_same h3
  · split
    · exact State.breakSwap_memWf (State.memWf_same h3)
    · exact State.memWf_same h3
  · exact State.farFree_memWf h3

theorem State.takeRefusal_memWf {p faults} (hs : s.memWf = true) : (s.takeRefusal p faults).memWf = true := by
  unfold State.takeRefusal
  dsimp only
  split
  · split
    · exact State.refuseFar_memWf hs
    · exact hs
  · split
    · exact hs
    · exact State.memWf_ite (State.onStrand_memWf (State.memWf_foldl hs fun _ _ h3 => State.dropUnacked_memWf h3))
        (State.postGroup_memWf (State.onStrand_memWf (State.memWf_foldl hs fun _ _ h6 => State.dropUnacked_memWf h6)))

theorem State.resendOn_memWf {p plane} (hs : s.memWf = true) : (s.resendOn p plane).memWf = true := by
  unfold State.resendOn
  dsimp only
  split
  · exact State.onStrand_memWf (State.onFab_memWf (State.send_memWf hs))
  · exact State.memWf_same (State.onFab_memWf (State.send_memWf hs))

theorem State.recover_memWf {flow plane performed} (hs : s.memWf = true) : (s.recover flow plane performed).memWf = true :=
  State.memWf_foldl (State.onFlow_memWf (State.takeAck_memWf hs)) fun _ _ h3 => State.resendOn_memWf h3

/-! ## Events of reductions -/

theorem execCoreClaspHoldExpiry_memWf {core idx} (hs : s.memWf = true) : nextWf (execCoreClaspHoldExpiry core idx s) := by
  unfold execCoreClaspHoldExpiry
  refine event_memWf hs fun _ h2 => ?_
  dsimp only
  split
  · exact h2
  · exact State.memWf_ite h2 (State.forward_memWf (State.onCore_memWf (State.coreClaspCheck_memWf h2)))

theorem execNodeArrivalSlice_memWf {idx} (hs : s.memWf = true) : nextWf (execNodeArrivalSlice idx s) := by
  unfold execNodeArrivalSlice
  refine event_memWf hs fun _ h2 => ?_
  split
  · exact h2
  · exact State.arriveSlice_memWf (State.claspCheck_memWf h2)

theorem execSpillRefill_memWf {slice dom} (hs : s.memWf = true) : nextWf (execSpillRefill slice dom s) := by
  unfold execSpillRefill
  refine event_memWf hs fun _ h2 => ?_
  split
  · exact h2
  · exact State.refill_memWf h2

theorem State.unhold_memWf {sl n} (hs : s.memWf = true) : (s.unhold sl n).memWf = true := hs

theorem execSliceHoldExpiry_memWf {slice idx} (hs : s.memWf = true) : nextWf (execSliceHoldExpiry slice idx s) := by
  unfold execSliceHoldExpiry
  refine event_memWf hs fun _ h2 => ?_
  dsimp only
  split
  · exact h2
  · refine State.memWf_ite h2 ?_
    split
    · exact State.claspCheck_memWf h2
    · split
      · exact State.sendNode_memWf (State.unhold_memWf (State.claspCheck_memWf h2))
      · exact State.claspCheck_memWf h2

theorem execPodHomeHoldExpiry_memWf {slice idx} (hs : s.memWf = true) : nextWf (execPodHomeHoldExpiry slice idx s) := by
  unfold execPodHomeHoldExpiry
  refine event_memWf hs fun _ h2 => ?_
  dsimp only
  split
  · exact h2
  · refine State.memWf_ite h2 ?_
    split
    · exact State.claspCheck_memWf h2
    · split
      · exact State.sendUet_memWf (State.unhold_memWf (State.claspCheck_memWf h2))
      · exact State.claspCheck_memWf h2

theorem State.onPortClasp_memWf {plane dev} {f : List Node → List Node} (hs : s.memWf = true) :
    (s.onPortClasp plane dev f).memWf = true := hs

theorem State.portEmit_memWf {p} (hs : s.memWf = true) : (s.portEmit p).memWf = true :=
  State.onFab_memWf (State.onFlow_memWf hs)

theorem State.portSend_memWf {plane dev dst opc inc fabid key fl payload} (hs : s.memWf = true) :
    (s.portSend plane dev dst opc inc fabid key fl payload).memWf = true := State.portEmit_memWf hs

theorem State.passNode_memWf {plane dev n} (hs : s.memWf = true) : (s.passNode plane dev n).memWf = true :=
  State.portSend_memWf hs

theorem State.portGo_memWf {plane dev} {fuel : Nat} {n : Node} (hs : s.memWf = true) :
    (s.portGo plane dev fuel n).memWf = true := by
  induction fuel generalizing s n with
  | zero => exact State.passNode_memWf hs
  | succ fuel ih =>
    unfold State.portGo
    split
    · exact State.passNode_memWf hs
    · refine State.memWf_ite ?_ (State.memWf_ite (ih hs) ?_)
      · exact State.memWf_ite (State.memWf_foldl hs fun _ _ h1 => State.portSend_memWf h1) (State.passNode_memWf hs)
      · extract_lets held
        split
        · exact ih (State.onPortClasp_memWf hs)
        · exact State.memWf_ite hs (State.memWf_ite (State.passNode_memWf hs) (State.onPortClasp_memWf hs))

theorem State.portAck_memWf {dev p kind ack} (hs : s.memWf = true) : (s.portAck dev p kind ack).memWf = true := hs

theorem State.portTake_memWf {dev p} (hs : s.memWf = true) : (s.portTake dev p).memWf = true := by
  unfold State.portTake
  dsimp only
  split
  · exact State.portSend_memWf (State.portAck_memWf hs)
  · exact State.portGo_memWf (State.portAck_memWf hs)

theorem execPortClaspArrival_memWf {dev p} (hs : s.memWf = true) : nextWf (execPortClaspArrival dev p s) :=
  event_memWf hs fun _ h2 => State.memWf_ite h2 (State.memWf_ite (State.portAck_memWf h2)
    (State.memWf_ite (State.takeInTurn_memWf h2 fun _ h4 _ => State.portTake_memWf h4) (State.keepAhead_memWf h2)))

theorem execPortClaspHoldExpiry_memWf {plane dev idx} (hs : s.memWf = true) :
    nextWf (execPortClaspHoldExpiry plane dev idx s) := by
  unfold execPortClaspHoldExpiry
  refine event_memWf hs fun _ h2 => ?_
  split
  · exact h2
  · exact State.memWf_ite h2 (State.passNode_memWf (State.onPortClasp_memWf h2))

theorem State.notReadyTo_memWf {p kind} (hs : s.memWf = true) : (s.notReadyTo p kind).memWf = true := State.emit_memWf hs

theorem State.staleOnce_memWf {p part} (hs : s.memWf = true) : (s.staleOnce p part).memWf = true :=
  State.memWf_ite hs (State.staleRec_memWf (State.onFab_memWf hs))

theorem State.refuseStale_memWf {p part} (hs : s.memWf = true) : (s.refuseStale p part).memWf = true :=
  State.memWf_ite (State.staleOnce_memWf (State.notReadyTo_memWf hs)) (State.notReadyTo_memWf hs)

theorem nodeAct_memWf {x n} (hs : s.memWf = true) : (nodeAct x s n).1.memWf = true := by
  unfold nodeAct
  dsimp only
  split
  · exact State.sendAck_memWf (State.toHome_memWf hs)
  · exact State.notReadyTo_memWf hs
  · exact State.refuseStale_memWf hs

theorem rootAct_memWf {x n} (hs : s.memWf = true) : (rootAct x s n).1.memWf = true := by
  unfold rootAct
  dsimp only
  split
  · split
    · exact State.sendAck_memWf hs
    · split
      · exact hs
      · split
        · exact State.stick_memWf hs
        · exact State.sendAck_memWf (State.takeRoot_memWf hs)
  · exact State.notReadyTo_memWf hs
  · exact State.refuseStale_memWf hs

/-! ## The Ultra Ethernet endpoint -/

theorem State.ueArrive_memWf {part w n} (hs : s.memWf = true) : (s.ueArrive part w n).memWf = true :=
  State.memWf_ite hs (State.vsync_memWf hs)

theorem State.ueTaken_memWf {part k} (hs : s.memWf = true) : (s.ueTaken part k).memWf = true := hs

theorem State.ueSeen_memWf {part k idx} (hs : s.memWf = true) : (s.ueSeen part k idx).memWf = true :=
  State.seen_memWf (State.seen_memWf (State.seen_memWf hs))

theorem State.ueTake_idle {part k op} (hnext : ¬(k < (s.part part).ueqn ∧ s.ueOk part k = true ∧ s.ueWidx part k ≠ s.ueRidx part
    k)) :
    s.ueTake part k op = s := by
  rw [State.ueTake]
  exact if_neg hnext

theorem State.ueTake_waits {v : State} {part k op : Nat} {words : List Nat}
    (hnext : k < (s.part part).ueqn ∧ s.ueOk part k = true ∧ s.ueWidx part k ≠ s.ueRidx part k)
    (hv : v = s.ueSeen part k (s.ueRidx part k).toNat) (hw : words = v.ueWords part k (s.ueRidx part k).toNat)
    (hbad : ¬v.ueBad part words = true) (hheld : ueOp words ≠ op ∨ v.ueHeld part k words = true) :
    s.ueTake part k op = v := by
  rw [State.ueTake]
  refine (if_pos hnext).trans ?_
  rw [← hv]
  dsimp only
  rw [← hw]
  exact (if_neg hbad).trans (if_pos hheld)

theorem State.ueTake_memWf {part k op} (hs : s.memWf = true) : (s.ueTake part k op).memWf = true := by
  by_cases hnext : k < (s.part part).ueqn ∧ s.ueOk part k = true ∧ s.ueWidx part k ≠ s.ueRidx part k
  · obtain ⟨v, hv⟩ : ∃ v, v = s.ueSeen part k (s.ueRidx part k).toNat := ⟨_, rfl⟩
    obtain ⟨w, hw⟩ : ∃ w, w = v.ueWords part k (s.ueRidx part k).toNat := ⟨_, rfl⟩
    have h1 : v.memWf = true := hv ▸ State.ueSeen_memWf hs
    by_cases hbad : v.ueBad part w = true
    · rw [State.ueTake_refused rfl hnext hv hw hbad]
      exact State.ueArrive_memWf (State.postRec_memWf (State.ueTaken_memWf h1))
    · by_cases hheld : ueOp w ≠ op ∨ v.ueHeld part k w = true
      · rw [State.ueTake_waits hnext hv hw hbad hheld]
        exact h1
      · obtain ⟨hop, hheld⟩ := not_or.mp hheld
        rw [State.ueTake_sent rfl hnext hv hw (eq_false_of_ne_true hbad) (eq_false_of_ne_true hheld) (not_not.mp hop) rfl rfl
          rfl rfl]
        refine State.onFab_memWf (State.ueTaken_memWf ?_)
        have h2 := State.memWf_ite (p := op = 1) (State.seen_memWf (part := part) (va := ueLocal w) (n := ueBytes w) h1) h1
        split
        · exact State.draw_memWf h2
        · exact h2
  · rw [State.ueTake_idle hnext]
    exact hs

theorem State.ueDrop_memWf {u} (hs : s.memWf = true) : (s.ueDrop u).memWf = true := hs

theorem State.ueDone_memWf {u data} (hs : s.memWf = true) : (s.ueDone u data).memWf = true :=
  State.memWf_ite (State.ueDrop_memWf hs) (State.ueArrive_memWf
    (State.memWf_ite (State.ueDrop_memWf hs) (State.vwriteBytes_memWf (State.ueDrop_memWf hs))))

theorem State.ueFail_memWf {u detail} (hs : s.memWf = true) : (s.ueFail u detail).memWf = true := by
  unfold State.ueFail
  refine State.memWf_ite ?_ (State.ueArrive_memWf (State.postRec_memWf (State.ueDrop_memWf hs)))
  split
  · exact State.memWf_ite (State.postRec_memWf (State.ueDrop_memWf hs))
      (State.closeDom_memWf (State.postRec_memWf (State.ueDrop_memWf hs)))
  · exact State.postRec_memWf (State.ueDrop_memWf hs)

theorem State.uePeerLost_memWf {dev} (hs : s.memWf = true) : (s.uePeerLost dev).memWf = true :=
  State.memWf_foldl hs fun _ _ h3 => State.ueFail_memWf h3

theorem State.noteLoss_memWf {part peer e lost} (hs : s.memWf = true) : (s.noteLoss part peer e lost).memWf = true := hs

theorem State.ueAgain_memWf {u} (hs : s.memWf = true) : (s.ueAgain u).memWf = true :=
  State.memWf_ite (State.ueFail_memWf hs) (State.onFab_memWf (State.noteLoss_memWf (State.onPort_memWf hs)))

theorem State.ueStale_memWf {u} (hs : s.memWf = true) : (s.ueStale u).memWf = true := by
  unfold State.ueStale
  dsimp only
  split
  · exact State.staleRec_memWf (State.ueDrop_memWf hs)
  · exact State.staleRec_memWf (State.ueDrop_memWf hs)
  · exact State.ueDrop_memWf hs

/-! ## Events of the Chaelo fabric -/

theorem State.postFab_memWf {p r} (hs : s.memWf = true) : (s.postFab p r).memWf = true := by
  unfold State.postFab
  split
  · exact State.postRec_memWf hs
  · exact State.postAll_memWf hs

theorem State.spurious_memWf {p flow} (hs : s.memWf = true) : (s.spurious p flow).memWf = true :=
  State.memWf_ite (State.postFab_memWf (State.onFlow_memWf (State.onPort_memWf hs)))
    (State.onFlow_memWf (State.onPort_memWf hs))

theorem execAck_memWf {p dup} (hs : s.memWf = true) : nextWf (execAck p dup s) :=
  event_memWf hs fun _ h2 => State.framed_memWf h2 fun _ h4 => State.memWf_ite (State.takeAck_memWf h4)
    (State.memWf_ite (State.memWf_ite (State.spurious_memWf (State.takeAck_memWf h4)) (State.takeAck_memWf h4)) h4)

theorem pktAct_memWf {p : Pkt} {part} (hs : s.memWf = true) : (pktAct p s part).1.memWf = true := by
  unfold pktAct
  split
  · dsimp only
    refine State.remoteAt_memWf hs fun _ h1 _ _ => ?_
    exact State.respond_memWf (State.rdAcc_memWf h1)
  · exact State.sendAck_memWf (State.takeResponse_memWf hs)
  · exact State.sendAck_memWf (State.takeResponse_memWf hs)
  · dsimp only
    exact State.remoteAt_memWf hs fun _ h1 _ _ => State.wrAcc_memWf h1
  · dsimp only
    refine State.remoteAt_memWf hs fun _ h1 _ _ => ?_
    refine State.respond_memWf (State.wrAcc_memWf ?_)
    exact State.rdAcc_memWf h1
  · exact nodeAct_memWf hs
  · exact rootAct_memWf hs
  · dsimp only
    exact State.remoteAt_memWf hs fun _ h1 _ _ => State.syncAt_memWf h1
  · dsimp only
    exact State.remoteAt_memWf hs fun _ h1 _ _ => State.syncAt_memWf h1
  · exact hs

theorem State.arrivesAs_memWf {opc p} (hs : s.memWf = true) : (s.arrivesAs opc p).memWf = true :=
  State.memWf_ite (State.recv_memWf hs fun _ _ h1 _ => pktAct_memWf h1) hs

theorem execLoadRequest_memWf {p} (hs : s.memWf = true) : nextWf (execLoadRequest p s) :=
  event_memWf hs fun _ h2 => State.arrivesAs_memWf h2

theorem execLoadResponse_memWf {p} (hs : s.memWf = true) : nextWf (execLoadResponse p s) :=
  event_memWf hs fun _ h2 => State.arrivesAs_memWf h2

theorem execStorePacket_memWf {p} (hs : s.memWf = true) : nextWf (execStorePacket p s) :=
  event_memWf hs fun _ h2 => State.arrivesAs_memWf h2

theorem execAtomicRequest_memWf {p} (hs : s.memWf = true) : nextWf (execAtomicRequest p s) :=
  event_memWf hs fun _ h2 => State.arrivesAs_memWf h2

theorem execAtomicResponse_memWf {p} (hs : s.memWf = true) : nextWf (execAtomicResponse p s) :=
  event_memWf hs fun _ h2 => State.arrivesAs_memWf h2

theorem execNodePacket_memWf {p} (hs : s.memWf = true) : nextWf (execNodePacket p s) :=
  event_memWf hs fun _ h2 => State.arrivesAs_memWf h2

theorem execRootPacket_memWf {p} (hs : s.memWf = true) : nextWf (execRootPacket p s) :=
  event_memWf hs fun _ h2 => State.arrivesAs_memWf h2

theorem execCounterSignal_memWf {p} (hs : s.memWf = true) : nextWf (execCounterSignal p s) :=
  event_memWf hs fun _ h2 => State.arrivesAs_memWf h2

theorem execSyncArrival_memWf {p} (hs : s.memWf = true) : nextWf (execSyncArrival p s) :=
  event_memWf hs fun _ h2 => State.arrivesAs_memWf h2

theorem execStaleAnswer_memWf {p} (hs : s.memWf = true) : nextWf (execStaleAnswer p s) := by
  unfold execStaleAnswer
  refine event_memWf hs fun _ h2 => ?_
  refine State.framed_memWf h2 fun _ h4 => ?_
  refine State.memWf_ite (State.dropUnacked_memWf h4) ?_
  refine State.memWf_ite h4 ?_
  dsimp only
  split
  · exact h4
  · split
    · exact State.failRemote_memWf (State.dropUnacked_memWf h4)
    · split
      · exact State.failFar_memWf (State.dropUnacked_memWf h4)
      · exact State.memWf_ite (State.failNode_memWf (State.dropUnacked_memWf h4)) (State.dropUnacked_memWf h4)

theorem execRefusedAnswer_memWf {p faults} (hs : s.memWf = true) : nextWf (execRefusedAnswer p faults s) :=
  event_memWf hs fun _ h2 => State.framed_memWf h2 fun _ h4 => State.memWf_ite (State.takeRefusal_memWf h4) h4

theorem State.dropStalePkt_memWf {q} (hs : s.memWf = true) : (s.dropStalePkt q).memWf = true := by
  unfold State.dropStalePkt
  split
  · exact State.memWf_ite (State.memWf_ite (State.staleOnce_memWf hs) hs) (State.staleRec_memWf hs)
  · exact hs

theorem execNotReady_memWf {p} (hs : s.memWf = true) : nextWf (execNotReady p s) := by
  unfold execNotReady
  refine event_memWf hs fun _ h2 => ?_
  refine State.framed_memWf h2 fun _ h4 => ?_
  refine State.memWf_ite h4 ?_
  dsimp only
  split
  · exact h4
  · exact State.memWf_ite (State.memWf_ite (State.onFab_memWf (State.dropUnacked_memWf h4))
      (State.dropStalePkt_memWf (State.onFab_memWf (State.dropUnacked_memWf h4))))
      (State.memWf_ite (State.onFab_memWf (State.dropUnacked_memWf h4)) (State.onFab_memWf (State.dropUnacked_memWf h4)))

theorem execNotReadyResend_memWf {idx} (hs : s.memWf = true) : nextWf (execNotReadyResend idx s) := by
  unfold execNotReadyResend
  refine event_memWf hs fun _ h2 => ?_
  dsimp only
  split
  · split
    · exact State.memWf_ite h2 (State.onFab_memWf h2)
    · exact h2
  · exact State.memWf_ite h2 (State.onFab_memWf (State.memWf_ite (State.portEmit_memWf h2) (State.send_memWf h2)))

theorem execNotReadyTimeout_memWf {idx} (hs : s.memWf = true) : nextWf (execNotReadyTimeout idx s) := by
  unfold execNotReadyTimeout
  refine event_memWf hs fun _ h2 => ?_
  split
  · split
    · exact State.memWf_ite h2 (State.ueStale_memWf h2)
    · exact h2
  · exact State.memWf_ite h2 (State.dropStalePkt_memWf (State.onFab_memWf h2))

theorem State.askRecovery_memWf {dev plane} (hs : s.memWf = true) : (s.askRecovery dev plane).memWf = true :=
  State.memWf_ite hs (State.memWf_ite (State.onFlow_memWf hs) (State.emit_memWf (State.onFlow_memWf hs)))

theorem State.noteCut_memWf {dev} (hs : s.memWf = true) : (s.noteCut dev).memWf = true := hs

theorem State.flowGone_memWf {dev plane} (hs : s.memWf = true) : (s.flowGone dev plane).memWf = true :=
  State.noteCut_memWf (State.askRecovery_memWf (State.memWf_foldl (State.onFlow_memWf hs) fun _ _ h3 => State.resendOn_memWf
    h3))

theorem State.portGone_memWf {dev plane} (hs : s.memWf = true) : (s.portGone dev plane).memWf = true := hs

theorem State.planeGone_memWf {dev plane} (hs : s.memWf = true) : (s.planeGone dev plane).memWf = true :=
  State.flowGone_memWf (State.portGone_memWf (State.planeLost_memWf hs))

theorem execRecoveryQuery_memWf {dev plane via} (hs : s.memWf = true) : nextWf (execRecoveryQuery dev plane via s) :=
  event_memWf hs fun _ h2 => State.memWf_ite (State.emit_memWf (State.onFlow_memWf h2)) h2

theorem execRecoveryAnswer_memWf {dev plane performed} (hs : s.memWf = true) :
    nextWf (execRecoveryAnswer dev plane performed s) := event_memWf hs fun _ h2 => State.memWf_ite h2 (State.recover_memWf h2)

theorem State.losePeer_memWf {dev} (hs : s.memWf = true) : (s.losePeer dev).memWf = true :=
  State.uePeerLost_memWf (State.failPeer_memWf (State.onPeer_memWf hs))

theorem State.sendAgain_memWf {p} (hs : s.memWf = true) : (s.sendAgain p).memWf = true :=
  State.memWf_ite (State.onFab_memWf hs) (State.emit_memWf hs)

theorem execRecoveryTimerExpiry_memWf {dev plane seq} (hs : s.memWf = true) :
    nextWf (execRecoveryTimerExpiry dev plane seq s) := by
  unfold execRecoveryTimerExpiry
  refine event_memWf hs fun _ h2 => ?_
  dsimp only
  split
  · exact h2
  · split
    · exact h2
    · exact State.memWf_ite h2 (State.memWf_ite (State.memWf_ite h2 (State.flowGone_memWf (State.onFlow_memWf h2)))
        (State.memWf_ite (State.sendAgain_memWf (State.onFlow_memWf h2))
        (State.memWf_ite (State.portGone_memWf h2) (State.flowGone_memWf (State.onPeer_memWf h2)))))

theorem execPeerLostTimeout_memWf {dev} (hs : s.memWf = true) : nextWf (execPeerLostTimeout dev s) :=
  event_memWf hs fun _ h2 => State.memWf_ite h2 (State.losePeer_memWf h2)

theorem execLivePlaneAnnouncement_memWf {dev incarn planes} (hs : s.memWf = true) :
    nextWf (execLivePlaneAnnouncement dev incarn planes s) := by
  unfold execLivePlaneAnnouncement
  refine event_memWf hs fun _ h2 => ?_
  refine State.memWf_ite h2 ?_
  extract_lets +onlyGivenNames q fresh gone came s3 s4 s5 s6
  have h7 : s3.memWf = true := State.onPeer_memWf h2
  have h8 : s4.memWf = true := State.memWf_ite (State.uePeerLost_memWf (State.failPeer_memWf h7)) h7
  have h9 : s5.memWf = true := State.memWf_foldl h8 fun _ _ h12 => State.memWf_ite (State.onFlow_memWf h12) h12
  have h13 : s6.memWf = true := State.memWf_foldl h9 fun _ _ h16 => State.planeGone_memWf h16
  exact State.noteCut_memWf (State.memWf_foldl h13 fun _ _ h19 => State.askRecovery_memWf h19)

theorem execAnnouncementTimer_memWf (hs : s.memWf = true) : nextWf (execAnnouncementTimer s) := by
  unfold execAnnouncementTimer
  refine event_memWf hs fun _ h2 => ?_
  extract_lets +onlyGivenNames live mask devs s3
  have h4 : s3.memWf = true := State.memWf_foldl h2 fun _ _ h7 => State.memWf_foldl h7 fun _ _ h10 => State.emit_memWf h10
  exact State.onFab_memWf h4

theorem State.downPort_memWf {port detail} (hs : s.memWf = true) : (s.downPort port detail).memWf = true := by
  unfold State.downPort
  refine State.memWf_ite hs ?_
  refine State.memWf_ite ?_ (State.postAll_memWf (State.onPort_memWf hs))
  extract_lets +onlyGivenNames s1 devs s2
  have h3 : s1.memWf = true := State.portGone_memWf (State.planeLost_memWf (State.postAll_memWf (State.onPort_memWf hs)))
  have h4 : s2.memWf = true := State.memWf_foldl h3 fun _ _ h7 => State.flowGone_memWf h7
  exact State.memWf_foldl h4 fun _ _ h10 => State.noteCut_memWf h10

theorem State.loseLane_memWf {port lane} (hs : s.memWf = true) : (s.loseLane port lane).memWf = true :=
  State.memWf_ite hs (State.memWf_ite (State.postAll_memWf (State.onPort_memWf hs)) (State.downPort_memWf hs))

theorem execLaneLoss_memWf {port lane} (hs : s.memWf = true) : nextWf (execLaneLoss port lane s) :=
  event_memWf hs fun _ h2 => State.loseLane_memWf h2

theorem execFrameCrcFailure_memWf {port again} (hs : s.memWf = true) : nextWf (execFrameCrcFailure port again s) :=
  event_memWf hs fun _ h2 => State.memWf_ite h2 (State.memWf_ite (State.loseLane_memWf (State.memWf_same h2))
    (State.onFab_memWf (State.onPort_memWf h2)))

theorem State.replayFrom_memWf {port frame} (hs : s.memWf = true) : (s.replayFrom port frame).memWf = true := hs

theorem execNegativeAcknowledgment_memWf {port frame} (hs : s.memWf = true) :
    nextWf (execNegativeAcknowledgment port frame s) :=
  event_memWf hs fun _ h2 => State.memWf_ite (State.replayFrom_memWf (State.onPort_memWf h2)) h2

theorem execLaneRetrainDone_memWf {port} (hs : s.memWf = true) : nextWf (execLaneRetrainDone port s) :=
  event_memWf hs fun _ h2 => State.memWf_ite (State.replayFrom_memWf (State.onPort_memWf h2)) h2

theorem execPortDown_memWf {port detail} (hs : s.memWf = true) : nextWf (execPortDown port detail s) :=
  event_memWf hs fun _ h2 => State.downPort_memWf h2

theorem execLinkTrainingComplete_memWf {port} (hs : s.memWf = true) : nextWf (execLinkTrainingComplete port s) :=
  event_memWf hs fun _ h2 => State.memWf_ite (State.onPort_memWf h2) h2

/-! ## Events of fault delivery -/

theorem State.writeRec_memWf {part w r more} (hs : s.memWf = true) : (s.writeRec part w r more).memWf = true :=
  State.memWf_foldl hs fun _ _ h3 => State.vwrite_memWf h3

theorem State.countFault_memWf {part r} (hs : s.memWf = true) : (s.countFault part r).memWf = true := by
  unfold State.countFault
  split
  · exact State.memWf_ite (State.setQf_memWf hs) hs
  · exact hs

theorem State.groupSplit_memWf {key slot w} (hs : s.memWf = true) : (s.groupSplit key slot w).memWf = true := hs

theorem State.groupOp_memWf {part key op w} (hs : s.memWf = true) : (s.groupOp part key op w).memWf = true := by
  unfold State.groupOp
  refine State.memWf_foldl hs fun _ _ h3 => ?_
  dsimp only
  split
  · exact State.onStrand_memWf h3
  · exact State.memWf_foldl (State.onStrand_memWf h3) fun _ _ h6 => State.memWf_ite (State.groupSplit_memWf h6) h6

theorem State.groupDom_memWf {part h sl w} (hs : s.memWf = true) : (s.groupDom part h sl w).memWf = true := hs

theorem State.writeGroup_memWf {part g} (hs : s.memWf = true) : (s.writeGroup part g).memWf = true := by
  unfold State.writeGroup
  extract_lets w k s1 s2 s3 s4 s5 s6
  have h3 : s3.memWf = true := by
    refine State.interrupt_memWf (State.vwrite_memWf (State.memWf_foldl hs fun _ _ h1 => ?_))
    exact State.countFault_memWf (State.writeRec_memWf h1)
  have h4 : s4.memWf = true := by
    unfold s4
    split
    · exact State.groupSplit_memWf h3
    · exact h3
  have h5 : s5.memWf = true := by
    unfold s5
    split
    · exact State.groupOp_memWf h4
    · exact h4
  have h6 : s6.memWf = true := State.memWf_foldl h5 fun _ _ h1 => State.onStrand_memWf h1
  split
  · exact State.groupDom_memWf h6
  · exact h6

theorem State.dropGroup_memWf {part g} (hs : s.memWf = true) : (s.dropGroup part g).memWf = true := State.vwrite_memWf hs

theorem execFaultGroupWrite_memWf {part} (hs : s.memWf = true) : nextWf (execFaultGroupWrite part s) := by
  unfold execFaultGroupWrite
  refine event_memWf hs fun _ h2 => ?_
  dsimp only
  split
  · exact h2
  · split
    · exact State.releasePkt_memWf (State.memWf_ite (State.writeGroup_memWf (State.onPart_memWf h2))
        (State.dropGroup_memWf (State.onPart_memWf h2)))
    · exact State.memWf_ite (State.writeGroup_memWf (State.onPart_memWf h2)) (State.dropGroup_memWf (State.onPart_memWf h2))

theorem execFrreadWrite_memWf {part w} (hs : s.memWf = true) : nextWf (execFrreadWrite part w s) :=
  event_memWf hs fun _ h2 => State.frread_memWf h2

theorem execFrresumeWrite_memWf {part w} (hs : s.memWf = true) : nextWf (execFrresumeWrite part w s) :=
  event_memWf hs fun _ h2 => State.frresume_memWf h2

theorem execPatrolScrub_memWf {space addr} (hs : s.memWf = true) : nextWf (execPatrolScrub space addr s) := by
  unfold execPatrolScrub
  refine event_memWf hs fun _ h2 => ?_
  refine State.memWf_ite h2 ?_
  split
  · exact State.lossAlone_memWf h2
  · exact h2

theorem State.writeBack_memWf {line} (hs : s.memWf = true) : (s.writeBack line).memWf = true := by
  unfold State.writeBack
  refine State.memWf_foldl hs fun _ _ h3 => ?_
  dsimp only
  split
  · exact State.memWf_ite (State.memWf_same (State.lossAlone_memWf h3))
      (State.store_memWf (State.memWf_same (State.lossAlone_memWf h3)))
  · exact State.memWf_same h3
  · exact h3

end

end Sys2Proof.Machine
end

section
/-! PROOFS. Every function of the model keeps the canonical form of memory (R3): faults, packets, saves, the endpoint's
events, the table of instructions and one step. -/

namespace Sys2Proof.Machine

open Sys2Proof

section
variable {s : State} {c : Ic} {e : Eng}

/-! ## Pendant and shape instructions -/

theorem execPndq_memWf {x} (hs : s.memWf = true) : nextWf (execPndq x s) := issueX_memWf hs fun _ => Ic.toS_memWf hs

theorem execPndwait_memWf {x} (hs : s.memWf = true) : nextWf (execPndwait x s) := by
  unfold execPndwait
  refine issueX_memWf hs fun _ => ?_
  split
  · split <;> exact hs
  · exact Act.memWf_ite hs hs
  · exact Act.memWf_ite hs hs

theorem execVshape_memWf {x} (hs : s.memWf = true) : nextWf (execVshape x s) :=
  issueX_memWf hs fun _ => Ic.known_memWf hs fun _ => Act.memWf_ite hs
    (Act.memWf_ite hs (Act.memWf_ite Ic.trapWhole_memWf (State.putRegs_memWf hs)))

theorem execVshq_memWf {x} (hs : s.memWf = true) : nextWf (execVshq x s) := issueX_memWf hs fun _ => Ic.toS_memWf hs

/-! ## Events of the policy engine -/

theorem execDispatchDecision_memWf {die part} (hs : s.memWf = true) : nextWf (execDispatchDecision die part s) :=
  event_memWf hs fun _ h2 => State.decideEvent_memWf h2

theorem execPreemptDecision_memWf {die part} (hs : s.memWf = true) : nextWf (execPreemptDecision die part s) :=
  event_memWf hs fun _ h2 => State.decideEvent_memWf h2

theorem execFaultDecision_memWf {die} (hs : s.memWf = true) : nextWf (execFaultDecision die s) :=
  event_memWf hs fun _ h2 => State.decideEvent_memWf h2

theorem execPolicyOverrun_memWf {die} (hs : s.memWf = true) : nextWf (execPolicyOverrun die s) := by
  unfold execPolicyOverrun
  refine event_memWf hs fun _ h2 => ?_
  split
  · exact h2
  · exact State.memWf_ite h2 (State.endDecision_memWf (State.onPart_memWf h2))

theorem execPolicyLoad_memWf {part} (hs : s.memWf = true) : nextWf (execPolicyLoad part s) :=
  event_memWf hs fun _ h2 => State.memWf_ite h2 (State.onPart_memWf (State.seen_memWf h2))

theorem execPolicyRevert_memWf {part} (hs : s.memWf = true) : nextWf (execPolicyRevert part s) :=
  event_memWf hs fun _ h2 => State.revert_memWf h2

theorem execImageVerdict_memWf {part} (hs : s.memWf = true) : nextWf (execImageVerdict part s) := by
  unfold execImageVerdict
  refine event_memWf hs fun _ h2 => ?_
  dsimp only
  split
  · exact h2
  · split
    · exact State.interrupt_memWf (State.onPart_memWf h2)
    · exact State.interrupt_memWf (State.swapPolicy_memWf (State.swapPolicy_memWf (State.onPart_memWf h2)))

/-! ## Events of the packet processors -/

theorem execQuiescence_memWf {source} (hs : s.memWf = true) : nextWf (execQuiescence source s) := by
  unfold execQuiescence
  refine event_memWf hs fun _ h2 => ?_
  dsimp only
  split
  · exact h2
  · exact State.memWf_ite h2 (State.checkWork_memWf (State.wakeTakes_memWf (State.memWf_same h2)))

theorem State.rollNode_memWf {part n} (hs : s.memWf = true) : (s.rollNode part n).memWf = true :=
  State.vwrite_memWf (State.vwrite_memWf hs)

theorem State.rollFrom_memWf {part} {fuel n : Nat} (hs : s.memWf = true) : (s.rollFrom part fuel n).memWf = true := by
  induction fuel generalizing s n with
  | zero => exact hs
  | succ fuel ih =>
    unfold State.rollFrom
    have h1 := State.seeNode_memWf (part := part) (n := n) hs
    exact State.memWf_ite (ih (State.memWf_ite (State.rollNode_memWf h1) h1)) hs

theorem execPeriodRollover_memWf {part} (hs : s.memWf = true) : nextWf (execPeriodRollover part s) :=
  event_memWf hs fun _ h2 => State.memWf_ite h2 (State.refresh_memWf (State.rollFrom_memWf (State.onPart_memWf h2)))

theorem execNotifyWrite_memWf {part q w} (hs : s.memWf = true) : nextWf (execNotifyWrite part q w s) :=
  event_memWf hs fun _ h2 => State.notify_memWf h2

theorem State.seenPkt_memWf {p} (hs : s.memWf = true) : (s.seenPkt p).memWf = true := by
  unfold State.seenPkt
  extract_lets +onlyGivenNames s1 s2 s3
  have h4 : s1.memWf = true := State.seen_memWf hs
  have h5 : s2.memWf = true := State.memWf_ite (State.seen_memWf h4) h4
  have h6 : s3.memWf = true := State.memWf_foldl h5 fun _ _ h9 => State.seen_memWf h9
  exact State.memWf_ite h6 (State.seen_memWf h6)

theorem execPacketAccept_memWf {q} (hs : s.memWf = true) : nextWf (execPacketAccept q s) := by
  unfold execPacketAccept
  refine event_memWf hs fun _ h2 => ?_
  dsimp only
  split
  · exact h2
  · refine State.memWf_ite (State.memWf_ite (State.seen_memWf h2) h2) ?_
    split
    · exact State.postRec_memWf (State.setQf_memWf (State.memWf_ite (State.seen_memWf h2) h2))
    · exact State.memWf_same (State.memWf_ite (State.dropCode_memWf
        (State.setQf_memWf (State.seenPkt_memWf (State.setQf_memWf (State.memWf_ite (State.seen_memWf h2) h2)))))
        (State.setQf_memWf (State.seenPkt_memWf (State.setQf_memWf (State.memWf_ite (State.seen_memWf h2) h2)))))

theorem State.startLaunch_memWf {p} (hs : s.memWf = true) : (s.startLaunch p).memWf = true := by
  unfold State.startLaunch
  dsimp only
  split
  · exact hs
  · exact State.refresh_memWf (State.memWf_same (State.onPkt_memWf hs))

theorem State.startPipeline_memWf {p} (hs : s.memWf = true) : (s.startPipeline p).memWf = true :=
  State.refresh_memWf (State.memWf_same (State.onPkt_memWf hs))

theorem State.startBarrierAnd_memWf {p} (hs : s.memWf = true) : (s.startBarrierAnd p).memWf = true := by
  unfold State.startBarrierAnd
  extract_lets +onlyGivenNames s1
  have h2 : s1.memWf = true := State.memWf_foldl hs fun _ _ h5 => State.memWf_ite h5 (State.seen_memWf h5)
  exact State.memWf_ite (State.endPkt_memWf h2) h2

theorem State.startSignal_memWf {p} (hs : s.memWf = true) : (s.startSignal p).memWf = true := by
  unfold State.startSignal
  extract_lets +onlyGivenNames s1 s2
  have h3 : s1.memWf = true := State.memWf_ite hs (State.vsync_memWf hs)
  have h4 : s2.memWf = true := State.memWf_ite h3 (State.vsync_memWf h3)
  exact State.endPkt_memWf h4

theorem State.startDomainArm_memWf {p} (hs : s.memWf = true) : (s.startDomainArm p).memWf = true := by
  unfold State.startDomainArm
  extract_lets +onlyGivenNames slot x1
  have h2 : ∀ (s : State), s.memWf = true → ∀ (v : Nat), (x1 s v).memWf = true := fun _ h4 _ => State.memWf_ite h4
    (State.vwrite_memWf h4)
  refine State.memWf_ite hs ?_
  split
  · exact State.endPkt_memWf (State.onPkt_memWf (State.memWf_ite hs (State.vwrite_memWf hs)))
  next e6 =>
    have h7 := (State.arm_memWf hs) _ e6
    exact State.endPkt_memWf (State.memWf_ite h7 (State.vwrite_memWf h7))

theorem State.startPkt_memWf {p} (hs : s.memWf = true) : (s.startPkt p).memWf = true := by
  unfold State.startPkt
  split
  · exact State.startLaunch_memWf hs
  · exact State.startPipeline_memWf hs
  · exact State.startBarrierAnd_memWf hs
  · exact State.startSignal_memWf hs
  · exact State.startDomainArm_memWf hs
  · exact hs

theorem State.startType_memWf {q idx type} (hs : s.memWf = true) : (s.startType q idx type).memWf = true := by
  unfold State.startType
  split
  · exact State.memWf_ite (State.startPkt_memWf hs) hs
  · exact hs

theorem execDependencePoll_memWf {q idx} (hs : s.memWf = true) : nextWf (execDependencePoll q idx s) := by
  unfold execDependencePoll
  refine event_memWf hs fun s h1 => ?_
  extract_lets s2
  have h2 : s2.memWf = true := by
    unfold s2
    split
    · exact State.memWf_ite h1 (State.seen_memWf h1)
    · exact h1
  split
  · exact State.startPkt_memWf h2
  · exact h2

theorem execLaunchPacket_memWf {q idx} (hs : s.memWf = true) : nextWf (execLaunchPacket q idx s) :=
  event_memWf hs fun _ h2 => State.startType_memWf h2

theorem execPipelinePacket_memWf {q idx} (hs : s.memWf = true) : nextWf (execPipelinePacket q idx s) :=
  event_memWf hs fun _ h2 => State.startType_memWf h2

theorem execBarrierAndPacket_memWf {q idx} (hs : s.memWf = true) : nextWf (execBarrierAndPacket q idx s) :=
  event_memWf hs fun _ h2 => State.startType_memWf h2

theorem execSignalPacket_memWf {q idx} (hs : s.memWf = true) : nextWf (execSignalPacket q idx s) :=
  event_memWf hs fun _ h2 => State.startType_memWf h2

theorem execDomainArmPacket_memWf {q idx} (hs : s.memWf = true) : nextWf (execDomainArmPacket q idx s) :=
  event_memWf hs fun _ h2 => State.startType_memWf h2

/-! ## Events of saves and restores and the hang watchdog -/

theorem execSaveComplete_memWf {wg} (hs : s.memWf = true) : nextWf (execSaveComplete wg s) :=
  event_memWf hs fun _ h2 => State.completeSave_memWf h2

theorem execSaveTimeout_memWf {wg} (hs : s.memWf = true) : nextWf (execSaveTimeout wg s) := by
  unfold execSaveTimeout
  refine event_memWf hs fun _ h2 => ?_
  split
  · exact h2
  · exact State.memWf_ite h2 (State.abandonSave_memWf h2)

theorem execRestoreComplete_memWf {wg} (hs : s.memWf = true) : nextWf (execRestoreComplete wg s) :=
  event_memWf hs fun _ h2 => State.completeRestore_memWf h2

theorem execHangWatchdog_memWf {strand} (hs : s.memWf = true) : nextWf (execHangWatchdog strand s) := by
  unfold execHangWatchdog
  refine event_memWf hs fun _ h2 => ?_
  dsimp only
  split
  · exact h2
  · exact State.memWf_ite h2 (State.route_memWf (State.onStrand_memWf h2))

/-! ## Events of the Ultra Ethernet endpoint -/

theorem execUeNotifyWrite_memWf {part k w} (hs : s.memWf = true) : nextWf (execUeNotifyWrite part k w s) :=
  event_memWf hs fun _ h2 => State.ueNotify_memWf h2

theorem execUeWrite_memWf {part k} (hs : s.memWf = true) : nextWf (execUeWrite part k s) :=
  event_memWf hs fun _ h2 => State.ueTake_memWf h2

theorem execUeRead_memWf {part k} (hs : s.memWf = true) : nextWf (execUeRead part k s) :=
  event_memWf hs fun _ h2 => State.ueTake_memWf h2

theorem execUeFetchAndAdd_memWf {part k} (hs : s.memWf = true) : nextWf (execUeFetchAndAdd part k s) :=
  event_memWf hs fun _ h2 => State.ueTake_memWf h2

theorem execUeCompareAndSwap_memWf {part k} (hs : s.memWf = true) : nextWf (execUeCompareAndSwap part k s) :=
  event_memWf hs fun _ h2 => State.ueTake_memWf h2

theorem execUeEntryComplete_memWf {part k idx data} (hs : s.memWf = true) : nextWf (execUeEntryComplete part k idx data s) := by
  unfold execUeEntryComplete
  refine event_memWf hs fun _ h2 => ?_
  split
  · exact h2
  · exact State.memWf_ite (State.memWf_ite (State.ueDone_memWf h2) h2) (State.memWf_ite (State.ueDone_memWf h2) h2)

theorem execUeRetransmitTimeout_memWf {part k idx} (hs : s.memWf = true) : nextWf (execUeRetransmitTimeout part k idx s) := by
  unfold execUeRetransmitTimeout
  refine event_memWf hs fun _ h2 => ?_
  split
  · exact h2
  · exact State.memWf_ite h2 (State.ueAgain_memWf h2)

theorem execPathTableUpdate_memWf {part peer} (hs : s.memWf = true) : nextWf (execPathTableUpdate part peer s) :=
  event_memWf hs fun _ h2 => State.memWf_ite (State.memWf_foldl h2 fun _ _ h5 => State.vwrite_memWf
    (State.vwrite_memWf (State.memWf_same h5))) h2

theorem execEntropyExclusionExpiry_memWf {part peer entropy} (hs : s.memWf = true) :
    nextWf (execEntropyExclusionExpiry part peer entropy s) := event_memWf hs fun _ h2 => State.onFab_memWf h2

theorem State.uetReply_memWf {p b} (hs : s.memWf = true) : (s.uetReply p b).memWf = true := hs

theorem State.uetAt_memWf {part acc a n} {f : State → State} (hs : s.memWf = true)
    (hf : ∀ (t : State), t.memWf = true → (f t).memWf = true) :
    (s.uetAt part acc a n f).memWf = true := State.memWf_ite (hf _ hs) hs

theorem State.uetOrdered_memWf {p} {f : State → State × UetBody} (hs : s.memWf = true)
    (hf : ∀ (t : State), t.memWf = true → (f t).1.memWf = true) :
    (s.uetOrdered p f).memWf = true := by
  unfold State.uetOrdered
  refine State.memWf_ite (State.uetReply_memWf (hf _ hs)) ?_
  split
  · exact State.uetReply_memWf hs
  · exact State.memWf_ite (State.uetReply_memWf hs) (State.uetReply_memWf (State.onFab_memWf (hf _ hs)))

theorem State.uetReduce_memWf {p part h e} {act : State → Dom → State} (hs : s.memWf = true)
    (hact : ∀ (t : State), t.memWf = true → ∀ (x : Dom), (act t x).memWf = true) :
    (s.uetReduce p part h e act).memWf = true := by
  unfold State.uetReduce
  split
  · exact State.memWf_ite (State.uetReply_memWf hs) (hact _ hs _)
  · exact State.uetReply_memWf hs
  · exact State.uetReply_memWf hs

theorem State.uetAsk_memWf {p part} (hs : s.memWf = true) : (s.uetAsk p part).memWf = true := by
  unfold State.uetAsk
  dsimp only
  split
  · exact State.uetAt_memWf hs fun _ h2 => State.uetOrdered_memWf h2 fun _ h4 => State.vwriteBytes_memWf h4
  · exact State.uetAt_memWf hs fun _ h6 => State.uetOrdered_memWf h6 fun _ h8 => State.seen_memWf h8
  · exact State.uetAt_memWf hs fun _ h10 => State.uetOrdered_memWf h10 fun _ h12 => State.vwrite_memWf (State.seen_memWf h12)
  · exact State.uetAt_memWf hs fun _ h14 => State.uetOrdered_memWf h14 fun _ h16 => State.memWf_ite
      (State.vwrite_memWf (State.seen_memWf h16)) (State.seen_memWf h16)
  · exact State.uetReduce_memWf hs fun _ h18 _ => State.uetOrdered_memWf h18 fun _ h21 => State.toHome_memWf h21
  · refine State.uetReduce_memWf hs fun _ h23 _ => ?_
    refine State.memWf_ite (State.uetReply_memWf h23) ?_
    refine State.memWf_ite h23 ?_
    split
    · exact State.stick_memWf h23
    · exact State.uetReply_memWf (State.sendRootPod_memWf (State.takeRoot_memWf h23))
  · exact hs

theorem State.uetAnswer_memWf {b u} (hs : s.memWf = true) : (s.uetAnswer b u).memWf = true := by
  unfold State.uetAnswer
  dsimp only
  split
  · exact State.noteLoss_memWf (State.onFab_memWf hs)
  · exact State.ueAgain_memWf hs
  · exact State.ueAgain_memWf hs
  · exact State.ueFail_memWf hs
  · exact State.memWf_ite (State.onFab_memWf hs) hs
  · exact State.memWf_ite (State.ueStale_memWf hs) hs
  · exact hs

theorem execUetPacketArrival_memWf {p} (hs : s.memWf = true) : nextWf (execUetPacketArrival p s) := by
  unfold execUetPacketArrival
  refine event_memWf hs fun _ h2 => ?_
  split
  · exact State.noteLoss_memWf h2
  · split
    · exact State.uetAnswer_memWf h2
    · exact h2
  · split
    · exact State.uetAnswer_memWf h2
    · exact h2
  · split
    · exact State.uetAnswer_memWf h2
    · exact h2
  · split
    · exact State.uetAnswer_memWf h2
    · exact h2
  · split
    · exact State.uetAnswer_memWf h2
    · exact h2
  · split
    · exact State.uetAnswer_memWf h2
    · exact h2
  · split
    · exact State.uetAnswer_memWf h2
    · exact h2
  · refine State.memWf_ite h2 ?_
    split
    · exact State.uetAsk_memWf h2
    · exact State.uetReply_memWf h2
  · refine State.memWf_ite h2 ?_
    split
    · exact State.uetAsk_memWf h2
    · exact State.uetReply_memWf h2
  · refine State.memWf_ite h2 ?_
    split
    · exact State.uetAsk_memWf h2
    · exact State.uetReply_memWf h2
  · refine State.memWf_ite h2 ?_
    split
    · exact State.uetAsk_memWf h2
    · exact State.uetReply_memWf h2
  · refine State.memWf_ite h2 ?_
    split
    · exact State.uetAsk_memWf h2
    · exact State.uetReply_memWf h2
  · refine State.memWf_ite h2 ?_
    split
    · exact State.uetAsk_memWf h2
    · exact State.uetReply_memWf h2

/-! ## WRK -/

theorem Ic.withList_memWf {a} {k : State → Nat → Pipe → Nat → Act} (hs : s.memWf = true)
    (hk : ∀ (t : State), t.memWf = true → ∀ (x : Nat) (x_1 : Pipe) (x_2 : Nat), (k t x x_1 x_2).memWf) :
    (c.withList s a k).memWf := by
  unfold Ic.withList
  split
  · exact Ic.trapWhole_memWf
  · exact Act.memWf_ite (Ic.deviceReads_memWf hs fun _ h2 => hk _ h2 _ _ _) Ic.trapWhole_memWf

theorem Ic.itemsRead_memWf {l i} {n : Nat} {k : State → Act} (hs : s.memWf = true)
    (hk : ∀ (a : State), a.memWf = true → (k a).memWf) :
    (c.itemsRead s l i n k).memWf := by
  induction n generalizing k with
  | zero => exact hk s hs
  | succ n ih => exact ih fun _ h1 => Ic.deviceReads_memWf h1 hk

theorem State.noteAppend_memWf {k stage a} (hs : s.memWf = true) : (s.noteAppend k stage a).memWf = true := hs

theorem execAppend_memWf {x} (hs : s.memWf = true) : nextWf (execAppend x s) := by
  unfold execAppend
  refine issueX_memWf hs fun _ => ?_
  refine Ic.known_memWf hs fun _ => ?_
  refine Ic.withList_memWf hs fun _ h4 _ _ _ => ?_
  refine Act.memWf_ite Ic.trapWhole_memWf ?_
  refine Ic.known_memWf h4 fun _ => ?_
  refine Act.memWf_ite h4 ?_
  refine Act.memWf_ite h4 ?_
  refine Act.memWf_ite (State.refresh_memWf (State.noteAppend_memWf h4)) ?_
  refine Ic.sectorRoom_memWf h4 ?_
  refine Ic.released_memWf h4 ?_
  refine Ic.reach_memWf h4 fun _ h10 => ?_
  extract_lets +onlyGivenNames s11 s12 s13
  have h14 : s11.memWf = true := State.memWf_foldl h10 fun _ _ h17 => State.memWf_foldl h17 fun _ _ h20 => State.vwrite_memWf
    h20
  have h21 : s12.memWf = true := State.putRegs_memWf h14
  have h22 : s13.memWf = true := State.addOp_memWf h21
  exact Act.memWf_ite h22 (State.refresh_memWf (State.wakeTakes_memWf (State.noteAppend_memWf (State.vwrite_memWf h22))))

theorem execTake_memWf {x} (hs : s.memWf = true) : nextWf (execTake x s) :=
  issueX_memWf hs fun _ => Ic.known_memWf hs fun _ => Ic.withList_memWf hs fun _ h4 _ _ _ => Act.memWf_ite Ic.trapWhole_memWf
    (Act.memWf_ite h4 (Ic.acquired_memWf h4 (Act.memWf_ite (Act.memWf_ite h4
    (Ic.sectorRoom_memWf h4 (Ic.reach_memWf h4 fun _ h9 => Ic.reach_memWf h9 fun _ h11 => Ic.itemsRead_memWf h11 fun _ h13 =>
    Act.memWf_ite Ic.trapWhole_memWf (Act.acquired_memWf (State.refresh_memWf
    (State.putRegs_memWf (State.vwrite_memWf h13))))))) (Act.memWf_ite (State.putRegs_memWf h4) (State.onStrand_memWf h4)))))

theorem execWlq_memWf {x} (hs : s.memWf = true) : nextWf (execWlq x s) :=
  issueX_memWf hs fun _ => Ic.known_memWf hs fun _ => Ic.withList_memWf hs fun _ h4 _ _ _ => Ic.acquired_memWf h4
    (Ic.reach_memWf h4 fun _ h9 => Ic.toS_memWf h9)

theorem execQuiet_memWf {x} (hs : s.memWf = true) : nextWf (execQuiet x s) := by
  unfold execQuiet
  refine issueX_memWf hs fun _ => ?_
  dsimp only
  split
  · exact Ic.trapWhole_memWf
  · exact Ic.toS_memWf hs

theorem execLaunch_memWf {x} (hs : s.memWf = true) : nextWf (execLaunch x s) :=
  issueX_memWf hs fun _ => Ic.known_memWf hs fun _ => Act.memWf_ite Ic.trapWhole_memWf
    (Ic.deviceReads_memWf hs fun _ h4 => Act.memWf_ite Ic.trapWhole_memWf
    (Act.memWf_ite Ic.trapWhole_memWf (Act.memWf_ite Ic.trapWhole_memWf
    (Act.memWf_ite h4 (Act.memWf_ite h4 (Ic.released_memWf h4
    (Ic.reach_memWf h4 fun _ h6 => Ic.reach_memWf h6 fun _ h8 => Ic.deviceReads_memWf h8 fun _ h10 => State.putRegs_memWf
    (State.notify_memWf (State.vwriteBytes_memWf h10)))))))))

/-! ## Lane exchange instructions and reductions across lanes -/

theorem Ic.exchange_memWf {x ops} {g : List Off → Nat → DWord} (hs : s.memWf = true) : (c.exchange s x ops g).memWf :=
  Ic.known_memWf hs fun _ => Ic.vec_memWf hs

theorem execBfly_memWf {x} (hs : s.memWf = true) : nextWf (execBfly x s) := issueX_memWf hs fun _ => Ic.exchange_memWf hs

theorem execShfl_memWf {x} (hs : s.memWf = true) : nextWf (execShfl x s) := issueX_memWf hs fun _ => Ic.exchange_memWf hs

theorem execLrot_memWf {x} (hs : s.memWf = true) : nextWf (execLrot x s) := issueX_memWf hs fun _ => Ic.exchange_memWf hs

theorem execLbcst_memWf {x} (hs : s.memWf = true) : nextWf (execLbcst x s) := issueX_memWf hs fun _ => Ic.exchange_memWf hs

theorem Ic.reduce_memWf {x dups} {k : Mask → Off → Off → Act} (hs : s.memWf = true)
    (hk : ∀ (x : Mask) (x_1 x_2 : Off), (k x x_1 x_2).memWf) :
    (c.reduce s x dups k).memWf :=
  Ic.known_memWf hs fun _ => Act.memWf_ite Ic.trapWhole_memWf (Act.memWf_ite Act.trapLanes_memWf (hk _ _ _))

theorem execVred_memWf {x} (hs : s.memWf = true) : nextWf (execVred x s) := by
  unfold execVred
  refine issueX_memWf hs fun _ => ?_
  refine Ic.reduce_memWf hs fun _ _ _ => ?_
  dsimp only
  split
  · exact Act.also_memWf (Ic.toS_memWf hs) fun _ h6 => State.raise_memWf h6
  · exact Act.also_memWf (Ic.vec_memWf hs) fun _ h8 => State.raise_memWf h8
  · exact hs

theorem execVscan_memWf {x} (hs : s.memWf = true) : nextWf (execVscan x s) :=
  issueX_memWf hs fun _ => Ic.reduce_memWf hs fun _ _ _ => Ic.vec_memWf hs

theorem execLcmp_memWf {x} (hs : s.memWf = true) : nextWf (execLcmp x s) :=
  issueX_memWf hs fun _ => Ic.known_memWf hs fun _ => Act.memWf_ite hs
    (Act.memWf_ite hs (Act.memWf_ite Ic.trapWhole_memWf (State.putRegs_memWf hs)))

/-! ## Between the choice of a split and its instruction -/

theorem State.useFor_memWf {key i} (hs : s.memWf = true) : (s.useFor key i).memWf = true := by
  unfold State.useFor
  split
  · exact State.useSlots_memWf hs
  · exact hs

theorem State.wakeSlots_memWf {key slot hit} (hs : s.memWf = true) : (s.wakeSlots key slot hit).memWf = true := hs

theorem State.parkResidue_memWf {c} (hs : s.memWf = true) : (s.parkResidue c).memWf = true :=
  State.quarantine_memWf (State.route_memWf (State.onStrand_memWf hs))

theorem State.retryRec_memWf {c cls sub} (hs : s.memWf = true) : (s.retryRec c cls sub).memWf = true := hs

theorem State.ownRead_memWf {c k code lanes} {lose : State → State} (hs : s.memWf = true)
    (hlose : ∀ (t : State), t.memWf = true → (lose t).memWf = true) :
    (s.ownRead c k code lanes lose).1.memWf = true := by
  unfold State.ownRead
  dsimp only
  split
  · exact State.retryRec_memWf (State.memWf_same hs)
  · split
    · exact State.parkLoss_memWf (hlose _ (State.memWf_same hs))
    · exact State.quarantine_memWf (State.parkLoss_memWf hs)

theorem State.unitChecks_memWf {c i} (hs : s.memWf = true) : (s.unitChecks c i).1.memWf = true := by
  unfold State.unitChecks
  dsimp only
  split
  · exact State.ownRead_memWf hs fun _ h2 => State.onStrand_memWf (State.draw_memWf h2)
  · exact State.ownRead_memWf hs fun _ h4 => State.onStrand_memWf h4
  · split
    · exact hs
    · split
      · exact State.retryRec_memWf (State.memWf_same hs)
      · exact State.parkResidue_memWf (State.memWf_same hs)

theorem State.gate_memWf {key slot i} (hs : s.memWf = true) : (s.gate key slot i).memWf := by
  unfold State.gate
  split
  · exact hs
  · split
    · split
      next e1 =>
        have h2 := memWf_of_eq_fst e1 (State.unitChecks_memWf hs)
        split <;> exact h2
    · exact State.wakeSlots_memWf hs

theorem State.chooseSplit_memWf {key slot} (hs : s.memWf = true) : (s.chooseSplit key slot).1.memWf = true := by
  unfold State.chooseSplit
  dsimp only
  split
  · split
    · exact hs
    · split
      next e1 => exact Gate.memWf_of_eq e1 (State.gate_memWf hs)
      next e3 =>
        have h4 := Gate.memWf_of_eq e3 (State.gate_memWf hs)
        exact State.memWf_same (State.useFor_memWf h4)
  · exact hs

/-! ## One item of the agenda, and the order where the agenda is empty -/

theorem State.withPipe_memWf {key slot i} {t : State} (hs : s.memWf = true) (ht : t.memWf = true) :
    (s.withPipe key slot i t).memWf = true :=
  State.memWf_ite ht (State.memWf_ite (State.onStrand_memWf (State.memWf_same hs)) (State.onQuarter_memWf ht))

theorem State.withSlots_memWf {key slot} {t : State} (hs : s.memWf = true) (ht : t.memWf = true) :
    (s.withSlots key slot t).memWf = true := by
  unfold State.withSlots
  dsimp only
  split
  · exact State.useSlots_memWf ht
  · exact State.wakeSlots_memWf (State.memWf_same hs)

theorem exec_memWf {i : Instr} (hs : s.memWf = true) : nextWf (exec i s) := by
  cases i with
  | nopBase d a b => exact execNopBase_memWf (n := d) (n' := a) (n'' := b) hs
  | saddBase => exact execSaddBase_memWf hs
  | saddImmBase => exact execSaddImmBase_memWf hs
  | saddLit => exact execSaddLit_memWf hs
  | ssubBase => exact execSsubBase_memWf hs
  | smulBase => exact execSmulBase_memWf hs
  | sandBase => exact execSandBase_memWf hs
  | sorBase => exact execSorBase_memWf hs
  | sxorBase => exact execSxorBase_memWf hs
  | sshlBase => exact execSshlBase_memWf hs
  | sshrBase => exact execSshrBase_memWf hs
  | smovBase => exact execSmovBase_memWf hs
  | smovImmBase => exact execSmovImmBase_memWf hs
  | smovLit => exact execSmovLit_memWf hs
  | qsetLtBase => exact execQsetLtBase_memWf hs
  | qsetEqBase => exact execQsetEqBase_memWf hs
  | braBase => exact execBraBase_memWf hs
  | braqBase => exact execBraqBase_memWf hs
  | vaddBase => exact execVaddBase_memWf hs
  | vsubBase => exact execVsubBase_memWf hs
  | vmulBase => exact execVmulBase_memWf hs
  | vandBase => exact execVandBase_memWf hs
  | vorBase => exact execVorBase_memWf hs
  | vxorBase => exact execVxorBase_memWf hs
  | vshlBase => exact execVshlBase_memWf hs
  | vshrBase => exact execVshrBase_memWf hs
  | vaddImmBase => exact execVaddImmBase_memWf hs
  | vaddLit => exact execVaddLit_memWf hs
  | vmovBase => exact execVmovBase_memWf hs
  | vmovScalarBase => exact execVmovScalarBase_memWf hs
  | vlaneBase => exact execVlaneBase_memWf hs
  | faddBase => exact execFaddBase_memWf hs
  | fsubBase => exact execFsubBase_memWf hs
  | fmulBase => exact execFmulBase_memWf hs
  | ffmaBase => exact execFfmaBase_memWf hs
  | fminBase => exact execFminBase_memWf hs
  | fmaxBase => exact execFmaxBase_memWf hs
  | frcpBase => exact execFrcpBase_memWf hs
  | ldBase => exact execLdBase_memWf hs
  | stBase => exact execStBase_memWf hs
  | ldsBase => exact execLdsBase_memWf hs
  | waitBase => exact execWaitBase_memWf hs
  | exitBase => exact execExitBase_memWf hs
  | nop => exact execNop_memWf hs
  | csrr => exact execCsrr_memWf hs
  | csrw => exact execCsrw_memWf hs
  | mode => exact execMode_memWf hs
  | clock => exact execClock_memWf hs
  | sleep => exact execSleep_memWf hs
  | trap => exact execTrap_memWf hs
  | tret => exact execTret_memWf hs
  | halt => exact execHalt_memWf hs
  | mboxPost => exact execMboxPost_memWf hs
  | mboxWait => exact execMboxWait_memWf hs
  | tlbinv => exact execTlbinv_memWf hs
  | tlbinvAll => exact execTlbinvAll_memWf hs
  | perfr => exact execPerfr_memWf hs
  | yield => exact execYield_memWf hs
  | idq => exact execIdq_memWf hs
  | esaveCtx => exact execEsaveCtx_memWf hs
  | esaveStack => exact execEsaveStack_memWf hs
  | eloadCtx => exact execEloadCtx_memWf hs
  | eloadStack => exact execEloadStack_memWf hs
  | bra => exact execBra_memWf hs
  | brd => exact execBrd_memWf hs
  | join => exact execJoin_memWf hs
  | brk => exact execBrk_memWf hs
  | call => exact execCall_memWf hs
  | ret => exact execRet_memWf hs
  | jmpi => exact execJmpi_memWf hs
  | calli => exact execCalli_memWf hs
  | exit => exact execExit_memWf hs
  | loop => exact execLoop_memWf hs
  | braq => exact execBraq_memWf hs
  | pset => exact execPset_memWf hs
  | pfset => exact execPfset_memWf hs
  | plog => exact execPlog_memWf hs
  | pmov => exact execPmov_memWf hs
  | vote => exact execVote_memWf hs
  | pcnt => exact execPcnt_memWf hs
  | pfirst => exact execPfirst_memWf hs
  | qset => exact execQset_memWf hs
  | qlog => exact execQlog_memWf hs
  | sadd => exact execSadd_memWf hs
  | ssub => exact execSsub_memWf hs
  | smul => exact execSmul_memWf hs
  | smad => exact execSmad_memWf hs
  | smulh => exact execSmulh_memWf hs
  | sdiv => exact execSdiv_memWf hs
  | srem => exact execSrem_memWf hs
  | sand => exact execSand_memWf hs
  | sor => exact execSor_memWf hs
  | sxor => exact execSxor_memWf hs
  | sshl => exact execSshl_memWf hs
  | sshr => exact execSshr_memWf hs
  | ssar => exact execSsar_memWf hs
  | smin => exact execSmin_memWf hs
  | smax => exact execSmax_memWf hs
  | smov => exact execSmov_memWf hs
  | ssel => exact execSsel_memWf hs
  | sclz => exact execSclz_memWf hs
  | spopc => exact execSpopc_memWf hs
  | sbfe => exact execSbfe_memWf hs
  | sbfi => exact execSbfi_memWf hs
  | vadd => exact execVadd_memWf hs
  | vsub => exact execVsub_memWf hs
  | vmul => exact execVmul_memWf hs
  | vmad => exact execVmad_memWf hs
  | vmulh => exact execVmulh_memWf hs
  | vand => exact execVand_memWf hs
  | vor => exact execVor_memWf hs
  | vxor => exact execVxor_memWf hs
  | vnot => exact execVnot_memWf hs
  | vshl => exact execVshl_memWf hs
  | vshr => exact execVshr_memWf hs
  | vsar => exact execVsar_memWf hs
  | vmin => exact execVmin_memWf hs
  | vmax => exact execVmax_memWf hs
  | vabs => exact execVabs_memWf hs
  | vneg => exact execVneg_memWf hs
  | vsel => exact execVsel_memWf hs
  | vclz => exact execVclz_memWf hs
  | vpopc => exact execVpopc_memWf hs
  | vbfe => exact execVbfe_memWf hs
  | vbfi => exact execVbfi_memWf hs
  | vdot4 => exact execVdot4_memWf hs
  | vmov => exact execVmov_memWf hs
  | vlane => exact execVlane_memWf hs
  | vaddc => exact execVaddc_memWf hs
  | vsadd => exact execVsadd_memWf hs
  | fadd => exact execFadd_memWf hs
  | fsub => exact execFsub_memWf hs
  | fmul => exact execFmul_memWf hs
  | ffma => exact execFfma_memWf hs
  | fmin => exact execFmin_memWf hs
  | fmax => exact execFmax_memWf hs
  | fabs => exact execFabs_memWf hs
  | fneg => exact execFneg_memWf hs
  | frcp => exact execFrcp_memWf hs
  | frsq => exact execFrsq_memWf hs
  | fsqrt => exact execFsqrt_memWf hs
  | fdiv => exact execFdiv_memWf hs
  | fexp2 => exact execFexp2_memWf hs
  | flog2 => exact execFlog2_memWf hs
  | fsin => exact execFsin_memWf hs
  | fcos => exact execFcos_memWf hs
  | ftanh => exact execFtanh_memWf hs
  | fclass => exact execFclass_memWf hs
  | fscale => exact execFscale_memWf hs
  | frnd => exact execFrnd_memWf hs
  | ffrac => exact execFfrac_memWf hs
  | fminp => exact execFminp_memWf hs
  | fmaxp => exact execFmaxp_memWf hs
  | fdot2 => exact execFdot2_memWf hs
  | fcvt => exact execFcvt_memWf hs
  | ftoi => exact execFtoi_memWf hs
  | itof => exact execItof_memWf hs
  | iext => exact execIext_memWf hs
  | fpack => exact execFpack_memWf hs
  | funpk => exact execFunpk_memWf hs
  | sclq => exact execSclq_memWf hs
  | bqnt => exact execBqnt_memWf hs
  | bdq => exact execBdq_memWf hs
  | bfly => exact execBfly_memWf hs
  | shfl => exact execShfl_memWf hs
  | lrot => exact execLrot_memWf hs
  | lbcst => exact execLbcst_memWf hs
  | vred => exact execVred_memWf hs
  | vscan => exact execVscan_memWf hs
  | lcmp => exact execLcmp_memWf hs
  | ld => exact execLd_memWf hs
  | st => exact execSt_memWf hs
  | lds => exact execLds_memWf hs
  | sts => exact execSts_memWf hs
  | ldv => exact execLdv_memWf hs
  | stv => exact execStv_memWf hs
  | ldt => exact execLdt_memWf hs
  | ldf => exact execLdf_memWf hs
  | stf => exact execStf_memWf hs
  | trx => exact execTrx_memWf hs
  | pref => exact execPref_memWf hs
  | ldc => exact execLdc_memWf hs
  | aadd => exact execAadd_memWf hs
  | aand => exact execAand_memWf hs
  | aor => exact execAor_memWf hs
  | axor => exact execAxor_memWf hs
  | amin => exact execAmin_memWf hs
  | amax => exact execAmax_memWf hs
  | axch => exact execAxch_memWf hs
  | acas => exact execAcas_memWf hs
  | ainc => exact execAinc_memWf hs
  | ctb => exact execCtb_memWf hs
  | ctbn => exact execCtbn_memWf hs
  | domarm => exact execDomarm_memWf hs
  | domclose => exact execDomclose_memWf hs
  | domq => exact execDomq_memWf hs
  | domqWait => exact execDomqWait_memWf hs
  | ctbm => exact execCtbm_memWf hs
  | fence => exact execFence_memWf hs
  | wait => exact execWait_memWf hs
  | batch => exact execBatch_memWf hs
  | waitb => exact execWaitb_memWf hs
  | bar => exact execBar_memWf hs
  | cbar => exact execCbar_memWf hs
  | syarm => exact execSyarm_memWf hs
  | syarv => exact execSyarv_memWf hs
  | sywait => exact execSywait_memWf hs
  | syflg => exact execSyflg_memWf hs
  | waitc => exact execWaitc_memWf hs
  | signal => exact execSignal_memWf hs
  | sytst => exact execSytst_memWf hs
  | rld => exact execRld_memWf hs
  | rst => exact execRst_memWf hs
  | ratm => exact execRatm_memWf hs
  | rsigCtr => exact execRsigCtr_memWf hs
  | rsigSync => exact execRsigSync_memWf hs
  | cpy => exact execCpy_memWf hs
  | cpym => exact execCpym_memWf hs
  | cpy2d => exact execCpy2d_memWf hs
  | swapf => exact execSwapf_memWf hs
  | append => exact execAppend_memWf hs
  | take => exact execTake_memWf hs
  | wlq => exact execWlq_memWf hs
  | quiet => exact execQuiet_memWf hs
  | launch => exact execLaunch_memWf hs
  | mxalloc => exact execMxalloc_memWf hs
  | mxfree => exact execMxfree_memWf hs
  | mxzero => exact execMxzero_memWf hs
  | mxzeroAbs => exact execMxzeroAbs_memWf hs
  | mxld => exact execMxld_memWf hs
  | mxmma => exact execMxmma_memWf hs
  | mxfin => exact execMxfin_memWf hs
  | mxst => exact execMxst_memWf hs
  | mxgang => exact execMxgang_memWf hs
  | mxrow => exact execMxrow_memWf hs
  | mxrowFlags => exact execMxrowFlags_memWf hs
  | mxshpQ => exact execMxshpQ_memWf hs
  | mxshpGen => exact execMxshpGen_memWf hs
  | pndq => exact execPndq_memWf hs
  | pndwait => exact execPndwait_memWf hs
  | vshape => exact execVshape_memWf hs
  | vshq => exact execVshq_memWf hs
  | reservedEncoding => exact execReservedEncoding_memWf hs
  | hgNop => exact execHgNop_memWf hs
  | hgLi => exact execHgLi_memWf hs
  | hgLui => exact execHgLui_memWf hs
  | hgMov => exact execHgMov_memWf hs
  | hgAdd => exact execHgAdd_memWf hs
  | hgAddi => exact execHgAddi_memWf hs
  | hgSub => exact execHgSub_memWf hs
  | hgMul => exact execHgMul_memWf hs
  | hgShl => exact execHgShl_memWf hs
  | hgShr => exact execHgShr_memWf hs
  | hgAnd => exact execHgAnd_memWf hs
  | hgOr => exact execHgOr_memWf hs
  | hgMin => exact execHgMin_memWf hs
  | hgMax => exact execHgMax_memWf hs
  | hgSlt => exact execHgSlt_memWf hs
  | hgSlti => exact execHgSlti_memWf hs
  | hgSeq => exact execHgSeq_memWf hs
  | hgSeqi => exact execHgSeqi_memWf hs
  | hgLdq => exact execHgLdq_memWf hs
  | hgLdk => exact execHgLdk_memWf hs
  | hgLde => exact execHgLde_memWf hs
  | hgLdw => exact execHgLdw_memWf hs
  | hgStw => exact execHgStw_memWf hs
  | hgNq => exact execHgNq_memWf hs
  | hgFit => exact execHgFit_memWf hs
  | hgBz => exact execHgBz_memWf hs
  | hgBnz => exact execHgBnz_memWf hs
  | hgBr => exact execHgBr_memWf hs
  | hgForq => exact execHgForq_memWf hs
  | hgNextq => exact execHgNextq_memWf hs
  | hgArgmin => exact execHgArgmin_memWf hs
  | hgArgmax => exact execHgArgmax_memWf hs
  | hgDecideD => exact execHgDecideD_memWf hs
  | hgDecideP => exact execHgDecideP_memWf hs
  | hgDecideF => exact execHgDecideF_memWf hs
  | loadDataArrival => exact execLoadDataArrival_memWf hs
  | symbolResolution => exact execSymbolResolution_memWf hs
  | storePerformed => exact execStorePerformed_memWf hs
  | strandLeavesExited => exact execStrandLeavesExited_memWf hs
  | drainingEnd => exact execDrainingEnd_memWf hs
  | slotDrowsy => exact execSlotDrowsy_memWf hs
  | sleepExpiry => exact execSleepExpiry_memWf hs
  | jointOperationStart => exact execJointOperationStart_memWf hs
  | jointOperationComplete => exact execJointOperationComplete_memWf hs
  | bandComplete => exact execBandComplete_memWf hs
  | mxOperationComplete => exact execMxOperationComplete_memWf hs
  | copyComplete => exact execCopyComplete_memWf hs
  | cpymReceiverArrival => exact execCpymReceiverArrival_memWf hs
  | compactionMove => exact execCompactionMove_memWf hs
  | scratchpadCompaction => exact execScratchpadCompaction_memWf hs
  | swapSector => exact execSwapSector_memWf hs
  | coreClaspHoldExpiry => exact execCoreClaspHoldExpiry_memWf hs
  | nodeArrivalSlice => exact execNodeArrivalSlice_memWf hs
  | spillRefill => exact execSpillRefill_memWf hs
  | quiescence => exact execQuiescence_memWf hs
  | periodRollover => exact execPeriodRollover_memWf hs
  | notifyWrite => exact execNotifyWrite_memWf hs
  | packetAccept => exact execPacketAccept_memWf hs
  | dependencePoll => exact execDependencePoll_memWf hs
  | launchPacket => exact execLaunchPacket_memWf hs
  | pipelinePacket => exact execPipelinePacket_memWf hs
  | barrierAndPacket => exact execBarrierAndPacket_memWf hs
  | signalPacket => exact execSignalPacket_memWf hs
  | domainArmPacket => exact execDomainArmPacket_memWf hs
  | dispatchDecision => exact execDispatchDecision_memWf hs
  | preemptDecision => exact execPreemptDecision_memWf hs
  | faultDecision => exact execFaultDecision_memWf hs
  | policyOverrun => exact execPolicyOverrun_memWf hs
  | policyLoad => exact execPolicyLoad_memWf hs
  | policyRevert => exact execPolicyRevert_memWf hs
  | imageVerdict => exact execImageVerdict_memWf hs
  | ack => exact execAck_memWf hs
  | loadRequest => exact execLoadRequest_memWf hs
  | loadResponse => exact execLoadResponse_memWf hs
  | storePacket => exact execStorePacket_memWf hs
  | atomicRequest => exact execAtomicRequest_memWf hs
  | atomicResponse => exact execAtomicResponse_memWf hs
  | nodePacket => exact execNodePacket_memWf hs
  | rootPacket => exact execRootPacket_memWf hs
  | counterSignal => exact execCounterSignal_memWf hs
  | syncArrival => exact execSyncArrival_memWf hs
  | notReady => exact execNotReady_memWf hs
  | notReadyResend => exact execNotReadyResend_memWf hs
  | notReadyTimeout => exact execNotReadyTimeout_memWf hs
  | portClaspArrival => exact execPortClaspArrival_memWf hs
  | sliceHoldExpiry => exact execSliceHoldExpiry_memWf hs
  | portClaspHoldExpiry => exact execPortClaspHoldExpiry_memWf hs
  | podHomeHoldExpiry => exact execPodHomeHoldExpiry_memWf hs
  | ueNotifyWrite => exact execUeNotifyWrite_memWf hs
  | ueWrite => exact execUeWrite_memWf hs
  | ueRead => exact execUeRead_memWf hs
  | ueFetchAndAdd => exact execUeFetchAndAdd_memWf hs
  | ueCompareAndSwap => exact execUeCompareAndSwap_memWf hs
  | ueEntryComplete => exact execUeEntryComplete_memWf hs
  | ueRetransmitTimeout => exact execUeRetransmitTimeout_memWf hs
  | pathTableUpdate => exact execPathTableUpdate_memWf hs
  | entropyExclusionExpiry => exact execEntropyExclusionExpiry_memWf hs
  | hostAccess => exact execHostAccess_memWf hs
  | frameCrcFailure => exact execFrameCrcFailure_memWf hs
  | negativeAcknowledgment => exact execNegativeAcknowledgment_memWf hs
  | laneLoss => exact execLaneLoss_memWf hs
  | laneRetrainDone => exact execLaneRetrainDone_memWf hs
  | portDown => exact execPortDown_memWf hs
  | livePlaneAnnouncement => exact execLivePlaneAnnouncement_memWf hs
  | announcementTimer => exact execAnnouncementTimer_memWf hs
  | recoveryQuery => exact execRecoveryQuery_memWf hs
  | recoveryAnswer => exact execRecoveryAnswer_memWf hs
  | recoveryTimerExpiry => exact execRecoveryTimerExpiry_memWf hs
  | peerLostTimeout => exact execPeerLostTimeout_memWf hs
  | staleAnswer => exact execStaleAnswer_memWf hs
  | refusedAnswer => exact execRefusedAnswer_memWf hs
  | deviceReset => exact execDeviceReset_memWf hs
  | firmwareFault => exact execFirmwareFault_memWf hs
  | managementWrite => exact execManagementWrite_memWf hs
  | coreLeavesPartition => exact execCoreLeavesPartition_memWf hs
  | scratchClearComplete => exact execScratchClearComplete_memWf hs
  | attreqWrite => exact execAttreqWrite_memWf hs
  | attestationReport => exact execAttestationReport_memWf hs
  | capWrite => exact execCapWrite_memWf hs
  | powerThrottle => exact execPowerThrottle_memWf hs
  | frreadWrite => exact execFrreadWrite_memWf hs
  | frresumeWrite => exact execFrresumeWrite_memWf hs
  | faultGroupWrite => exact execFaultGroupWrite_memWf hs
  | patrolScrub => exact execPatrolScrub_memWf hs
  | saveComplete => exact execSaveComplete_memWf hs
  | saveTimeout => exact execSaveTimeout_memWf hs
  | restoreComplete => exact execRestoreComplete_memWf hs
  | hangWatchdog => exact execHangWatchdog_memWf hs
  | breakpointMatch => exact execBreakpointMatch_memWf hs
  | watchpointMatch => exact execWatchpointMatch_memWf hs
  | agentEntry => exact execAgentEntry_memWf hs
  | stepReentry => exact execStepReentry_memWf hs
  | qstopStop => exact execQstopStop_memWf hs
  | qstopResume => exact execQstopResume_memWf hs
  | dbgStop => exact execDbgStop_memWf hs
  | dbgDump => exact execDbgDump_memWf hs
  | dbgEnter => exact execDbgEnter_memWf hs
  | dbgUnhalt => exact execDbgUnhalt_memWf hs
  | dbgResume => exact execDbgResume_memWf hs
  | dbgreplyWrite => exact execDbgreplyWrite_memWf hs
  | dumpComplete => exact execDumpComplete_memWf hs
  | traceSample => exact execTraceSample_memWf hs
  | mmioRegisterWrite => exact execMmioRegisterWrite_memWf hs
  | walkComplete => exact execWalkComplete_memWf hs
  | instructionFetchComplete => exact execInstructionFetchComplete_memWf hs
  | uetPacketArrival => exact execUetPacketArrival_memWf hs
  | linkTrainingComplete => exact execLinkTrainingComplete_memWf hs

theorem attempt_memWf {key slot} (hs : s.memWf = true) : nextWf (attempt key slot s) := by
  unfold attempt
  split
  next e1 => exact nextWf.next (memWf_of_eq_fst e1 (State.chooseSplit_memWf hs))
  next e1 =>
    have h1 := memWf_of_eq_fst e1 (State.chooseSplit_memWf hs)
    split
    next e2 =>
      have h2 := memWf_of_eq_next e2 (exec_memWf h1)
      exact nextWf.next (State.settled_memWf hs (State.withPipe_memWf h1 (State.withSlots_memWf h1 h2)))
    · exact exec_memWf h1

theorem tryIssue_memWf {key slot} (hs : s.memWf = true) : nextWf (tryIssue key slot s) := by
  unfold tryIssue
  split
  next e1 =>
    have h2 := memWf_of_eq_next e1 (attempt_memWf hs)
    exact nextWf.next (State.memWf_ite (State.stopAt_memWf hs) h2)
  · exact attempt_memWf hs

theorem issueStep_memWf {key slot} (hs : s.memWf = true) : nextWf (issueStep key slot s) := by
  unfold issueStep
  split
  · exact nextWf.next hs
  · exact tryIssue_memWf hs

theorem policyStep_memWf {die} (hs : s.memWf = true) : nextWf (policyStep die s) := by
  unfold policyStep
  split
  · exact execHgWord_memWf (State.memWf_same hs)
  · exact nextWf.next hs

theorem State.cycles_memWf {t : State} {s : State} {n} (ht : t.memWf = true) (hs : s.memWf = true) :
    (t.cycles s n).memWf = true := State.memWf_foresee (State.debugTick_memWf (State.tick_memWf ht hs))

theorem State.endStep_memWf {t : State} {s : State} {n} (ht : t.memWf = true) (hs : s.memWf = true) :
    (t.endStep s n).memWf = true := State.cycles_memWf (State.quarantineFailing_memWf (State.flushFar_memWf ht)) hs

theorem heldEvent_memWf {i} (hs : s.memWf = true) : nextWf (heldEvent i s) := by
  unfold heldEvent
  have h1 := exec_memWf (i := i) hs
  split
  next e1 =>
    have h2 := State.settled_memWf hs (memWf_of_eq_next e1 h1)
    split
    · exact nextWf.next h2
    · exact nextWf.next (State.memWf_same h2)
  · exact h1

theorem retryHeld_memWf {i} (hs : s.memWf = true) : nextWf (retryHeld i s) := by
  unfold retryHeld
  have h1 := exec_memWf (i := i) hs
  split
  next e1 =>
    have h2 := State.settled_memWf hs (memWf_of_eq_next e1 h1)
    split
    · exact nextWf.next (State.memWf_same h2)
    · exact nextWf.next h2
  · exact h1

theorem after_memWf {x : Host.Outcome State Fault Refusal} (hs : s.memWf = true) (hx : nextWf x) : nextWf (after s x) := by
  cases hx with
  | next h1 => exact nextWf.next (State.endStep_memWf h1 hs)
  | fault => exact nextWf.fault
  | refused => exact nextWf.refused

theorem runTodo_memWf {t} (hs : s.memWf = true) : nextWf (runTodo t s) := by
  unfold runTodo
  split
  · exact after_memWf hs (heldEvent_memWf (State.memWf_same hs))
  · exact after_memWf hs (issueStep_memWf hs)
  · exact nextWf.next (State.cycles_memWf hs hs)
  · exact after_memWf hs (policyStep_memWf hs)
  · exact nextWf.next (State.endStep_memWf (State.writeBack_memWf hs) hs)
  · exact nextWf.next (State.endStep_memWf (State.prefetch_memWf hs) hs)
  · exact nextWf.next (State.endStep_memWf (State.onPort_memWf hs) hs)

theorem firstChange_memWf {l : List Meaning} (hs : s.memWf = true) (hl : triesKeep l) :
    ∀ (t : State), firstChange s l = some t → t.memWf = true := by
  induction l with
  | nil => exact forall_eq_none
  | cons f rest ih =>
    have hr := ih fun g hg => hl g (List.mem_cons_of_mem f hg)
    unfold firstChange
    split
    next t e1 =>
      have h1 : (s.settled t).memWf = true :=
        State.settled_memWf hs (memWf_of_eq_next e1 (hl f List.mem_cons_self s hs))
      dsimp only
      split
      · exact hr
      · exact forall_eq_some h1
    · exact hr

theorem opTries_keep (key : Nat) (o : Op) : triesKeep (opTries key o) := by
  refine triesKeep_append (triesKeep_append ?_ ?_) ?_
  · exact triesKeep_cons (fun _ hs => execLoadDataArrival_memWf hs) <| triesKeep_cons (fun _ hs => execStorePerformed_memWf hs)
      <|
      triesKeep_cons (fun _ hs => execBandComplete_memWf hs) <| triesKeep_cons (fun _ hs => execMxOperationComplete_memWf hs) <|
      triesKeep_cons (fun _ hs => execCopyComplete_memWf hs) triesKeep_nil
  · split
    · exact triesKeep_cons (fun _ hs => execSymbolResolution_memWf hs) triesKeep_nil
    · exact triesKeep_nil
  · split
    · exact triesKeep_map fun _ _ hs => execCpymReceiverArrival_memWf hs
    · exact triesKeep_nil

theorem strandTries_keep (e : Nat × Strand) : triesKeep (strandTries e) := by
  refine triesKeep_append (triesKeep_append (triesKeep_flatMap fun _ => opTries_keep _ _) ?_) ?_
  · exact triesKeep_cons (fun _ hs => execStrandLeavesExited_memWf hs) <|
      triesKeep_cons (fun _ hs => execHangWatchdog_memWf hs) triesKeep_nil
  · exact triesKeep_map fun _ _ hs => execInstructionFetchComplete_memWf hs

theorem quarterTries_keep (e : Nat × QuarterSt) : triesKeep (quarterTries e) := by
  refine triesKeep_append ?_ (triesKeep_map fun _ _ hs => execDrainingEnd_memWf hs)
  exact triesKeep_cons (fun _ hs => execAgentEntry_memWf hs) <| triesKeep_cons (fun _ hs => execStepReentry_memWf hs) <|
    triesKeep_cons (fun _ hs => execCompactionMove_memWf hs) triesKeep_nil

theorem coreTries_keep (e : Nat × CoreSt) : triesKeep (coreTries e) := by
  refine triesKeep_append (triesKeep_append ?_ ?_) ?_
  · exact triesKeep_map fun _ _ hs => execWalkComplete_memWf hs
  · exact triesKeep_map fun _ _ hs => execCoreClaspHoldExpiry_memWf hs
  · exact triesKeep_cons (fun _ hs => execScratchClearComplete_memWf hs) <|
      triesKeep_cons (fun _ hs => execScratchpadCompaction_memWf hs) triesKeep_nil

theorem sliceTries_keep (n : Nat) (e : Nat × Slice) : triesKeep (sliceTries n e) := by
  refine triesKeep_append (triesKeep_append ?_ ?_) ?_
  · exact triesKeep_map fun _ _ hs => execSpillRefill_memWf hs
  · exact triesKeep_map fun _ _ hs => execSliceHoldExpiry_memWf hs
  · exact triesKeep_map fun _ _ hs => execPodHomeHoldExpiry_memWf hs

theorem dieTries_keep (s : State) (die : Nat) : triesKeep (dieTries s die) := by
  refine triesKeep_append (triesKeep_append (triesKeep_append ?_ ?_) ?_) ?_
  · exact triesKeep_flatMap fun _ => triesKeep_cons (fun _ hs => execDispatchDecision_memWf hs) triesKeep_nil
  · exact triesKeep_cons (fun _ hs => execSwapSector_memWf hs) <| triesKeep_cons (fun _ hs => policyStep_memWf hs) <|
      triesKeep_cons (fun _ hs => execPolicyOverrun_memWf hs) <|
      triesKeep_cons (fun _ hs => execFaultDecision_memWf hs) triesKeep_nil
  · exact triesKeep_map fun _ _ hs => execPreemptDecision_memWf hs
  · split
    · exact triesKeep_cons (fun _ hs => execDispatchDecision_memWf hs) <|
        triesKeep_cons (fun _ hs => execPreemptDecision_memWf hs) triesKeep_nil
    · exact triesKeep_nil

theorem partTries_keep (e : Nat × Part) : triesKeep (partTries e) := by
  refine triesKeep_append (triesKeep_append (triesKeep_append ?_ ?_) ?_) ?_
  · split
    · exact triesKeep_nil
    · exact triesKeep_cons (fun _ hs => execFaultGroupWrite_memWf hs) triesKeep_nil
  · split
    · exact triesKeep_cons (fun _ hs => execImageVerdict_memWf hs) triesKeep_nil
    · exact triesKeep_nil
  · split
    · exact triesKeep_cons (fun _ hs => execPeriodRollover_memWf hs) triesKeep_nil
    · exact triesKeep_nil
  · exact triesKeep_map fun _ _ hs => execCoreLeavesPartition_memWf hs

theorem wgTries_keep (e : Nat × Wg) : triesKeep (wgTries e) :=
  triesKeep_cons (fun _ hs => execSaveComplete_memWf hs) <| triesKeep_cons (fun _ hs => execSaveTimeout_memWf hs) <|
    triesKeep_cons (fun _ hs => execRestoreComplete_memWf hs) triesKeep_nil

theorem queueTries_keep (e : Nat × Part) : triesKeep (queueTries e) := by
  unfold queueTries
  split
  · exact triesKeep_map fun _ _ hs => execPacketAccept_memWf hs
  · exact triesKeep_nil

theorem fabricTries_keep (f : Fabric) : triesKeep (fabricTries f) := by
  refine triesKeep_append (triesKeep_flatMap fun _ => ?_) (triesKeep_flatMap fun _ => ?_)
  · exact triesKeep_cons (fun _ hs => execNotReadyTimeout_memWf hs) <|
      triesKeep_cons (fun _ hs => execNotReadyResend_memWf hs) triesKeep_nil
  · exact triesKeep_cons (fun _ hs => execUeWrite_memWf hs) <| triesKeep_cons (fun _ hs => execUeRead_memWf hs) <|
      triesKeep_cons (fun _ hs => execUeFetchAndAdd_memWf hs) <|
      triesKeep_cons (fun _ hs => execUeCompareAndSwap_memWf hs) triesKeep_nil

theorem unitTries_keep (s : State) : triesKeep (unitTries s) := by
  unfold unitTries
  repeat refine triesKeep_append ?_ ?_
  · exact triesKeep_map fun _ _ hs => retryHeld_memWf hs
  · exact triesKeep_flatMap quarterTries_keep
  · exact triesKeep_flatMap strandTries_keep
  · exact triesKeep_flatMap fun _ => triesKeep_map fun _ _ hs => execJointOperationStart_memWf hs
  · exact triesKeep_map fun _ _ hs => execJointOperationComplete_memWf hs
  · exact triesKeep_flatMap coreTries_keep
  · exact triesKeep_map fun _ _ hs => execNodeArrivalSlice_memWf hs
  · exact triesKeep_flatMap (sliceTries_keep _)
  · exact dieTries_keep s 0
  · exact dieTries_keep s 1
  · exact triesKeep_flatMap partTries_keep
  · exact triesKeep_flatMap wgTries_keep
  · exact triesKeep_map fun _ _ hs => execDependencePoll_memWf hs
  · exact triesKeep_flatMap queueTries_keep
  · exact triesKeep_map fun _ _ hs => execQuiescence_memWf hs
  · exact fabricTries_keep _

theorem issueTries_keep (s : State) : triesKeep (issueTries s) :=
  triesKeep_flatMap fun _ => triesKeep_map fun _ _ hs => tryIssue_memWf hs

theorem ownStep_memWf (hs : s.memWf = true) : nextWf (ownStep s) := by
  unfold ownStep
  split
  next e1 =>
    have h1 := firstChange_memWf hs (triesKeep_append (unitTries_keep s) (issueTries_keep s)) _ e1
    exact nextWf.next (State.endStep_memWf h1 hs)
  · exact nextWf.next (State.cycles_memWf hs hs)

/-! ## One step -/

theorem step_memWf (hs : s.memWf = true) : nextWf (step s) := by
  unfold step
  split
  · exact ownStep_memWf hs
  · exact runTodo_memWf (State.memWf_same hs)

end

/-- Settles O2: every function that makes the next state keeps the canonical form, down to the stores and clearings that write
memory. -/
theorem stepKeepsMemory : Obligations.StepKeepsMemory := by
  unfold Obligations.StepKeepsMemory
  exact fun _ _ hs ht => memWf_of_eq_next ht (step_memWf hs)

end Sys2Proof.Machine
end
